-- ==== Sys2Proof/Word.lean ====
section
/-! DEFINITION. Words and bytes of the IX4: every register is 32 bits wide (R14), memory is addressed by bytes (R11)
and multi-byte values are little-endian (R12). -/

namespace Sys2Proof

/-- One register (R14). -/
abbrev Word := BitVec 32

/-- One byte of memory. -/
abbrev Byte := BitVec 8

/-- A 64-bit quantity: two consecutive registers, or eight bytes. -/
abbrev Dword := BitVec 64

end Sys2Proof
end

