-- ==== Sys2Proof/Syntax.lean ====
section
/-! DEFINITION. The commands of the block: one constructor of `Instr` for each row of spec/opcode_table.json, with the
operands that the rule of the row names. Presented boughs are `n`, physical boughs `b`, frame times in ns `t`,
fabric ports `p`. -/

namespace Sys2Proof

/-- The two memory windows of the host port (R599, R604). -/
inductive Bar where
  | bar0
  | bar2
  deriving DecidableEq, Repr

/-- A packet trailer in the order of R410: the tag, the link fields with their Reserved bits, and the CRC. `fec` is how
many codewords the lanes corrected while it came in (R409); what is sent says 0. -/
structure Trailer where
  tag     : List Byte
  lseq    : Nat
  lack    : Nat
  crvl    : Nat
  credits : Nat
  rsv     : Nat
  stomp   : Bool
  nak     : Bool
  crc     : Nat
  fec     : Nat
  deriving DecidableEq, Repr

/-- A fabric packet as it stands on the link: the header fields of R425 in their order with the Reserved bits of bytes 0
to 3 and 14 to 15 as one number, the payload, which is ciphertext when ENC is set (R422), and the trailer. -/
structure Packet where
  dst     : Nat
  vl      : Nat
  op      : Nat
  last    : Bool
  enc     : Bool
  kph     : Bool
  src     : Nat
  ttl     : Nat
  dtype   : Nat
  rop     : Nat
  pkey    : Nat
  frame   : Nat
  cartid  : Nat
  len     : Nat
  cseq    : Nat
  addr    : Nat
  aux     : Nat
  rsv     : Nat
  hcrc    : Nat
  payload : List Byte
  trailer : Trailer
  deriving DecidableEq, Repr

/-- A Floor burst (R460): the header fields, the payload, the tag and the CRC-32C. -/
structure Burst where
  kind    : Nat
  segment : Nat
  src     : Nat
  fidx    : Nat
  frame   : Nat
  payload : List Byte
  tag     : List Byte
  crc     : Nat
  deriving DecidableEq, Repr

/-- The HELLO of admission step 2 (R418). -/
structure Hello where
  device  : Nat
  pkey    : Nat
  major   : Nat
  enc     : Bool
  nonce   : List Byte
  idkey   : List Byte
  cert    : List Byte
  certSig : List Byte
  digest  : List Byte
  deriving DecidableEq, Repr

/-- A packet of a message between partners, and what the message says once it is whole; the manual lists what the messages
hold and gives no layout (R414, R417, R418). -/
structure Told (α : Type) where
  pkt  : Packet
  text : α
  deriving DecidableEq, Repr

/-- What a LINKCTL packet says (R414, R417, R478). -/
inductive LinkCtl where
  | reason (r : Nat)
  | failover (lane : Nat)
  | failoverAck (lane : Nat)
  | time (t1 t2 t3 : Nat)
  deriving DecidableEq, Repr

/-- A number in a cell: (−1)^neg × m × 2^e, an infinity, or NaN. -/
inductive CellVal where
  | fin (neg : Bool) (m : Nat) (e : Int)
  | inf (neg : Bool)
  | nan
  deriving DecidableEq, Repr

/-- The value that the cells of one output give in a pass in place of the right one (R186): output row and column as the
tile numbers them. Row 128 is the checksum row and column 128 the checksum column (R159), whose value is the sum Q or
the duplicate that the cell holds. -/
structure WrongCell where
  m : Nat
  n : Nat
  v : CellVal
  deriving DecidableEq, Repr

/-- What the hardware of an array did in a pass (R185): nothing wrong, a cell parity error, or values of its own in some
cells. -/
inductive PassFault where
  | sound
  | parity
  | wrong (cells : List WrongCell)
  deriving DecidableEq, Repr

/-- The FP32 result of one cell for one pattern tile of the column test (R186): physical row 0 to 128 and column 0 to
129. -/
structure TestCell where
  tile : Nat
  row  : Nat
  col  : Nat
  w    : Nat
  deriving DecidableEq, Repr

/-- What a receiver found in a packet it discards (R412, R421); an uncorrectable codeword came on a wavelength or lane
(R414). -/
inductive LinkFault where
  | badHcrc
  | badCrc
  | badTag
  | uncorrectable (lane : Nat)
  | wrongLseq
  deriving DecidableEq, Repr

/-- The memory class of a flip-mask register (R502). -/
inductive FlipUnit where
  | crib
  | loft
  | granary
  deriving DecidableEq, Repr

/-- The slots of a Floor frame that this device may have to act in (R463). -/
inductive FloorSlot where
  | beacon
  | flags
  | ranging
  | telemetry (k : Nat)
  deriving DecidableEq, Repr

/-- What the start-up column test of array `a` of physical bough `b` gave, as `columnTestDone` has it (R186, R517). -/
structure ArrayTest where
  b : Nat
  a : Nat
  cells : List TestCell
  sumPath : Bool
  deriving DecidableEq, Repr

/-- What a start phase ended with (R517, R529): it passed, or it cannot present its resource; `fail` of phase 5 is a
flash that cannot be read, of phases 6, 7 and 9 a self-test that found nothing fit. `loft` is phase 6 with the banks that
fail, as (layer, slice), and `crown` phase 9 with what the arrays' tests gave and the physical boughs that fail. The
results of the other phases are ignored. -/
inductive PhaseResult where
  | pass
  | fail
  | loft (banks : List (Nat × Nat))
  | crown (arrays : List ArrayTest) (boughs : List Nat)
  deriving DecidableEq, Repr

/-- The commands. Each docstring gives the row's mnemonic and rule. -/
inductive Instr where
  /-- REGISTER_WRITE, R16, R602. -/
  | registerWrite (bar : Bar) (off size : Nat) (data : Dword)
  /-- RW1C_CLEAR, R17: `reg` is the control-space offset; `coincide` the bits the device sets in the same cycle. -/
  | rw1cClear (reg : Nat) (data coincide : Word)
  /-- LO_READ_LATCH, R15: a host read. -/
  | loReadLatch (bar : Bar) (off size : Nat)
  /-- NUMCLR_WRITE, R119: `set` is the control-space offset of the set; `coincide` the events of the same cycle. -/
  | numclrWrite (set : Nat) (data coincide : Word)
  /-- FRAME_TICK, R43. -/
  | frameTick
  /-- CHECK_OFFSET, R50. -/
  | checkOffset
  /-- SLIPRUN_LIMIT, R57. -/
  | sliprunLimit
  /-- SLOT_START, R49. -/
  | slotStart (p slot : Nat)
  /-- TIME_TRANSFER_START, R478: `t1` is the device's frame time in 1/256 ns. -/
  | timeTransferStart (t1 : Nat)
  /-- FRM_CTRL_WRITE, R72. -/
  | frmCtrlWrite (data : Word)
  /-- FRM_SLIPWIN_WRITE, R76. -/
  | frmSlipwinWrite (data : Word)
  /-- END, R124. -/
  | endItem (n : Nat)
  /-- BRANCH, R128. -/
  | branch (n : Nat)
  /-- SETSLOT, R127. -/
  | setslot (n : Nat)
  /-- ADDSLOT, R127. -/
  | addslot (n : Nat)
  /-- SEMWAIT, R140. -/
  | semwait (n : Nat)
  /-- SIGNAL, R140. -/
  | signal (n : Nat)
  /-- SEMAPHORE_SIGNAL, R141: the signals in flight to semaphore `sem` of bough `n` arrive in one cycle. -/
  | semaphoreSignal (n sem : Nat)
  /-- BARRIER, R143. -/
  | barrier (n : Nat)
  /-- COUNTER_ADD, R145. -/
  | counterAdd (n : Nat)
  /-- COUNTER_READ, R146. -/
  | counterRead (n : Nat)
  /-- SETSTEP, R134. -/
  | setstep (n : Nat)
  /-- STASH_SPILL_DONE, R338. -/
  | stashSpillDone (e : Nat)
  /-- STASH_RESTORE_DONE, R338. -/
  | stashRestoreDone (e : Nat)
  /-- WORK_ITEM_RETIRE, R138: `id` is the scoreboard entry. -/
  | workItemRetire (n id : Nat)
  /-- BGH_PREEMPT, R148. -/
  | bghPreempt (b : Nat)
  /-- BOUGH_FAIL_STOP, R152. -/
  | boughFailStop (n : Nat)
  /-- SUBSTITUTION_COPY_DONE, R150. -/
  | substitutionCopyDone (n : Nat)
  /-- MMA, R169. -/
  | mma (n t : Nat)
  /-- L1, R169. -/
  | l1 (n t : Nat)
  /-- L2SQ, R169. -/
  | l2sq (n t : Nat)
  /-- MAXPLUS, R174. -/
  | maxplus (n t : Nat)
  /-- MINPLUS, R174. -/
  | minplus (n t : Nat)
  /-- CMPCNT, R169. -/
  | cmpcnt (n t : Nat)
  /-- HAMMING, R169. -/
  | hamming (n t : Nat)
  /-- TILE_SHARE_START, R190: the first share queued on array `a`. -/
  | tileShareStart (n a : Nat)
  /-- TILE_PASS_DONE, R185. -/
  | tilePassDone (n a : Nat) (f : PassFault)
  /-- COLUMN_TEST_DONE, R186, of physical bough `b`: the results that the cells gave, a result not listed being its
reference, and whether the path that forms the operand sums gave a wrong one. -/
  | columnTestDone (b a : Nat) (cells : List TestCell) (sumPath : Bool)
  /-- DISPUTE_RECOMPUTE_DONE, R189. `sBad` and `qBad` tell the sides of a failure that compared no sums, for which the
recomputation has nothing to compare. -/
  | disputeRecomputeDone (n a : Nat) (sBad qBad : Bool)
  /-- MACTRL_INJECT, R196. -/
  | mactrlInject (b a : Nat)
  /-- MACTRL_COLTEST, R196. -/
  | mactrlColtest (b a : Nat)
  /-- DOT_PASS, R203. -/
  | dotPass (n t : Nat)
  /-- STAGE_PASS, R214. -/
  | stagePass (n t : Nat)
  /-- SWITCH_PASS, R212. -/
  | switchPass (n t : Nat)
  /-- SKL_NEXT_ARM, R219: the word written to SKL_NEXT_LO with ARMED set. -/
  | sklNextArm (lo : Word)
  /-- SKL_NEXT_CANCEL, R219: the word written to SKL_NEXT_LO with ARMED clear. -/
  | sklNextCancel (lo : Word)
  /-- CHAIN, R233. -/
  | chain (n t : Nat)
  /-- COPY_CART, R279. -/
  | copyCart (n t : Nat)
  /-- ATOMIC_CART, R287. -/
  | atomicCart (n t : Nat)
  /-- REDUCE_CART, R308. -/
  | reduceCart (n t : Nat)
  /-- CONTRIBUTION_RESEND, R308. -/
  | contributionResend (cartid seq : Nat)
  /-- ROUND_CLOSE, R310: `line` is the local offset of the line. -/
  | roundClose (line : Nat)
  /-- REDUCTION_STALL, R310. -/
  | reductionStall (line : Nat)
  /-- OBJECT_CART, R281. -/
  | objectCart (n t : Nat)
  /-- REGISTER, R264: the operation at the head of object `j`'s queue. -/
  | register (j : Nat)
  /-- RELEASE, R264. -/
  | release (j : Nat)
  /-- PROMOTE, R271. -/
  | promote (j : Nat)
  /-- PIN, R269. -/
  | pin (j : Nat)
  /-- UNPIN, R270. -/
  | unpin (j : Nat)
  /-- DEMOTE, R274. -/
  | demote (j : Nat)
  /-- STREAM, R264. -/
  | stream (j : Nat)
  /-- EVICT, R275. -/
  | evict (j : Nat)
  /-- PROMOTION_COMPLETE, R271. -/
  | promotionComplete (j : Nat)
  /-- UNPIN_MOVE_DONE, R270. -/
  | unpinMoveDone (j : Nat)
  /-- DEMOTION_COMPLETE, R274. -/
  | demotionComplete (j : Nat)
  /-- CART_COMPLETE, R284. -/
  | cartComplete (cartid : Nat)
  /-- FILL_COMPLETE, R305. -/
  | fillComplete (line : Nat)
  /-- MAPOUT_START, R317. -/
  | mapoutStart (slice layer : Nat)
  /-- MAPOUT_DONE, R316. -/
  | mapoutDone (slice : Nat)
  /-- BANK_SPARE_START, R505. -/
  | bankSpareStart (layer bank : Nat)
  /-- BANK_COPY_DONE, R505. -/
  | bankCopyDone (layer bank : Nat)
  /-- DISPATCH, R350. -/
  | dispatch
  /-- RETURN, R352. -/
  | returnRows
  /-- COMBINE, R353. -/
  | combine
  /-- REDISPATCH, R354. -/
  | redispatch
  /-- WAIN_END, R349. -/
  | wainEnd
  /-- UPDATE, R382. -/
  | update
  /-- COMMIT, R382. -/
  | commit
  /-- MILL_END, R382. -/
  | millEnd
  /-- MILL_BLOCK_DONE, R380. -/
  | millBlockDone (j k : Nat)
  /-- MILL_STATE_ARRIVE, R386: the state bytes of the block as the peer sent them. -/
  | millStateArrive (j k : Nat) (state : List Byte)
  /-- MATRIX_JOB_DONE, R389. -/
  | matrixJobDone (j : Nat)
  /-- RUNTIME_COUNTER_TEST, R392. -/
  | runtimeCounterTest
  /-- STEP_RESOLVE, R394. -/
  | stepResolve
  /-- WC_REGENERATION, R400. -/
  | wcRegeneration
  /-- FENCE_STALL, R400. -/
  | fenceStall
  /-- WRITE, R441. -/
  | write (p : Nat) (pkt : Packet)
  /-- READREQ, R441. -/
  | readreq (p : Nat) (pkt : Packet)
  /-- READRSP, R441. -/
  | readrsp (p : Nat) (pkt : Packet)
  /-- ATOMIC, R427. -/
  | atomic (p : Nat) (pkt : Packet)
  /-- ATOMRSP, R441. -/
  | atomrsp (p : Nat) (pkt : Packet)
  /-- REDUCE, R426. -/
  | reduce (p : Nat) (pkt : Packet)
  /-- TREE, R444. -/
  | tree (p : Nat) (pkt : Packet)
  /-- TREE_RUN_START, R445. -/
  | treeRunStart (tr : Nat)
  /-- ACK, R442. -/
  | ack (p : Nat) (pkt : Packet)
  /-- REFUSE, R428. -/
  | refuse (p : Nat) (pkt : Packet)
  /-- FLAG_SLIP, R450. -/
  | flagSlip (p : Nat) (pkt : Packet)
  /-- FLAG_BLIGHT, R450. -/
  | flagBlight (p : Nat) (pkt : Packet)
  /-- FLAG_ARRIVE, R451. -/
  | flagArrive (p : Nat) (pkt : Packet)
  /-- FLAG_RELEASE, R451. -/
  | flagRelease (p : Nat) (pkt : Packet)
  /-- MGMT, R543: packets of the message in the order in which they come, `pkt` the last of them. -/
  | mgmt (p : Nat) (before : List Packet) (pkt : Packet)
  /-- TRANSIT_PACKET, R431: `bad` when the trailer check fails after forwarding has begun. -/
  | transitPacket (p : Nat) (pkt : Packet) (bad : Bool)
  /-- NAK, R412. -/
  | nak (p : Nat) (tr : Trailer)
  /-- PORT_RETRAIN, R413. -/
  | portRetrain (p : Nat)
  /-- PORT_LOCK_LOSS, R416. -/
  | portLockLoss (p : Nat)
  /-- WAVELENGTH_FAIL, R414: the wavelength or lane that failed. -/
  | wavelengthFail (p lane : Nat)
  /-- LINKCTL_FAILOVER, R414: the lane that the packet names, and whether it acknowledges. -/
  | linkctlFailover (p : Nat) (m : Told (Nat × Bool))
  /-- LANE_FAILOVER, R414. -/
  | laneFailover (p : Nat)
  /-- LINKCTL_REASON, R417: the reason that the packet carries. -/
  | linkctlReason (p : Nat) (m : Told Nat)
  /-- LINKCTL_TIME, R478: the times T2 and T3 at which this device takes a request and answers it, or the time T4 at which
it takes an answer. -/
  | linkctlTime (p : Nat) (pkt : Packet) (t2 t3 t4 : Nat)
  /-- TRAINING_SEQUENCE, R418: bit k of `locked` for wavelength or lane k. -/
  | trainingSequence (p : Nat) (deskewed : Bool) (locked : Nat)
  /-- HELLO, R418: a packet of the message, and what the message says once it is whole. -/
  | hello (p : Nat) (m : Told Hello)
  /-- PROOF, R418: a packet of the message, and the signature it carries once it is whole. -/
  | proof (p : Nat) (m : Told (List Byte))
  /-- CONFIRM, R418. -/
  | confirm (p : Nat) (pkt : Packet)
  /-- ADMIT_RETRY, R423. -/
  | admitRetry (p : Nat)
  /-- FLOOR_SLOT, R463. -/
  | floorSlot (slot : FloorSlot)
  /-- BEACON, R476. -/
  | beacon (bu : Burst)
  /-- RANGE_ATTEMPT, R469. -/
  | rangeAttempt
  /-- RANGE_ECHO, R466: the measured one-way delay in 1/16 ns, and whether the echo came back whole. -/
  | rangeEcho (delay : Nat) (whole : Bool)
  /-- JOIN_ATTEMPT, R482. -/
  | joinAttempt
  /-- JOIN, R483. -/
  | join (bu : Burst)
  /-- TELEM, R486. -/
  | telem (bu : Burst)
  /-- MEMBER_LOST, R486. -/
  | memberLost (idx : Nat)
  /-- LEAVE_ATTEMPT, R487. -/
  | leaveAttempt
  /-- LEAVE, R487. -/
  | leave (bu : Burst)
  /-- CLAIM_ATTEMPT, R480. -/
  | claimAttempt
  /-- CLAIM, R480. -/
  | claim (bu : Burst)
  /-- BEACON_TIMEOUT, R479. -/
  | beaconTimeout
  /-- FLOOR_FLAG_BLOCK, R471: bit i of `seen` for flag slot i. -/
  | floorFlagBlock (seen : Nat)
  /-- SLIP_FLAG_SLOT, R473: slot j, and whether light was seen. -/
  | slipFlagSlot (j : Nat) (light : Bool)
  /-- FLOOR_EXIT, R489. -/
  | floorExit
  /-- CORRECTED_WRITEBACK, R495: the codeword's key. -/
  | correctedWriteback (cw : Nat)
  /-- GLEANER_READ, R503. -/
  | gleanerRead (ch : Nat)
  /-- ROW_REPAIR_DONE, R505. -/
  | rowRepairDone (ch row : Nat)
  /-- GLEANER_ADAPT, R503. -/
  | gleanerAdapt
  /-- RAKE_READ, R504. -/
  | rakeRead (slice : Nat)
  /-- RAKE_SLOW, R504. -/
  | rakeSlow (slice : Nat)
  /-- FLIP_ARM, R502. -/
  | flipArm (u : FlipUnit) (data : Word)
  /-- FLIP_CANCEL, R502. -/
  | flipCancel (u : FlipUnit) (data : Word)
  /-- ANNOUNCED_EXIT, R506. -/
  | announcedExit
  /-- POR, R513. -/
  | por
  /-- MAINPG, R640. -/
  | mainpg
  /-- MAIN_PG_FALL, R640. -/
  | mainPgFall
  /-- PERST_ASSERT, R519. -/
  | perstAssert
  /-- PERST_DEASSERT, R513. -/
  | perstDeassert
  /-- WATCHDOG, R513. -/
  | watchdog
  /-- THERMAL_TRIP, R514. -/
  | thermalTrip
  /-- START_PHASE_DONE, R517: how the phase ended, and the µs since the start began. -/
  | startPhaseDone (r : PhaseResult) (us : Nat)
  /-- START_DEADLINE, R529. -/
  | startDeadline
  /-- ROOT_SUBRESET, R536. -/
  | rootSubreset
  /-- QUIESCE_TIMEOUT, R536. -/
  | quiesceTimeout
  /-- ROOT_SUBRESET_DONE, R536. -/
  | rootSubresetDone
  /-- LOFT_LAYER_RESET, R537. -/
  | loftLayerReset (layer : Nat)
  /-- LAYER_RESET_DONE, R537. -/
  | layerResetDone (layer : Nat)
  /-- BOUGH_RESET, R540. -/
  | boughReset (b : Nat)
  /-- PORT_RESET, R541. -/
  | portReset (p : Nat)
  /-- STORE_COMPLETE, R547. -/
  | storeComplete
  /-- LIFE_STORE_TIMER, R548. -/
  | lifeStoreTimer
  /-- FALLOW_WAKE_DONE, R534. -/
  | fallowWakeDone
  /-- HOUSEKEEPING_ROUND, R553: the 301 channel values of HSK_CH. -/
  | housekeepingRound (chans : List (BitVec 16))
  /-- LAYER_FAULT, R557. -/
  | layerFault (layer site : Nat)
  /-- POWER_MANAGER_TICK, R565. -/
  | powerManagerTick
  /-- EXCURSION_EXHAUSTED, R564. -/
  | excursionExhausted
  /-- CLOCK_FAULT, R567. -/
  | clockFault (d : Nat)
  /-- CLOCK_RELOCK_TIMEOUT, R567. -/
  | clockRelockTimeout (d : Nat)
  /-- STAGE, R578. -/
  | stage
  /-- STAGE_COMPLETE, R578: whether the scion's self-check passed. -/
  | stageComplete (selfOk : Bool)
  /-- GRAFT, R579. -/
  | graft
  /-- GRAFT_HANDOVER, R579. -/
  | graftHandover
  /-- ABANDON, R582. -/
  | abandon
  /-- SELECT, R583. -/
  | select
  /-- FWM_CONFIRM, R581. -/
  | fwmConfirm
  /-- FWM_ABANDON, R582. -/
  | fwmAbandon
  /-- TRIAL_EXPIRY, R582. -/
  | trialExpiry
  /-- FALLBACK, R582. -/
  | fallback
  /-- ACCEPT, R605: the stage and the size of the read in bytes. -/
  | accept (st size : Nat)
  /-- RESET, R609. -/
  | reset
  /-- FALLOW, R533. -/
  | fallow
  /-- WAKE, R534. -/
  | wake
  /-- STORE, R546. -/
  | store
  /-- NOP, R609. -/
  | nop
  /-- JOBLOAD, R618. -/
  | jobload
  /-- JOB_START, R618. -/
  | jobStart
  /-- JOBSTOP, R619. -/
  | jobstop
  /-- BLIGHT, R611. -/
  | blight
  /-- SWAP, R611. -/
  | swap
  /-- OBJECT, R611. -/
  | object
  /-- SUBST, R611. -/
  | subst
  /-- COPYIN, R610. -/
  | copyin
  /-- COPYOUT, R610. -/
  | copyout
  /-- FILL, R610. -/
  | fill
  /-- FLASHWRITE, R611. -/
  | flashwrite
  /-- FLASHREAD, R611. -/
  | flashread
  /-- FUSE, R609. -/
  | fuse
  /-- ATTEST, R612. -/
  | attest
  /-- IDENTITY, R612. -/
  | identity
  /-- LOG_ENABLE, R615. -/
  | logEnable
  /-- FUNCTION_LEVEL_RESET, R624. -/
  | functionLevelReset
  /-- D3HOT_ENTRY, R597. -/
  | d3hotEntry
  /-- POWER_DOWN, R639. -/
  | powerDown
  /-- LINK_PACKET_DISCARD, R412. -/
  | linkPacketDiscard (p : Nat) (f : LinkFault)
  /-- BARE_TRAILER, R410. -/
  | bareTrailer (p : Nat) (tr : Trailer)
  /-- RESERVED_OP_PACKET, R426. -/
  | reservedOpPacket (p : Nat) (pkt : Packet)
  /-- D0_ENTRY, R597. -/
  | d0Entry
  /-- HOST_TRANSFER_COMPLETE, R617: the command's handle, and whether host memory answered. -/
  | hostTransferComplete (handle : Nat) (ok : Bool)
  /-- BOUGH_RESET_DONE, R540. -/
  | boughResetDone (b : Nat)
  /-- PLL_RELOCK, R567. -/
  | pllRelock (d : Nat)
  deriving DecidableEq, Repr

end Sys2Proof
end

