-- ==== Sys2Proof/Decode.lean ====
section
/-! DEFINITION. The block's commands come from outside as acts, not as words: no row of spec/opcode_table.json gives
bits, so no word spells a command. -/

namespace Sys2Proof

/-- The command that a word of `nbits` bits spells by the table's bits: none, since no row of the table gives bits. -/
def decodeTableWord (_nbits _w : Nat) : Option Instr := none

end Sys2Proof
end

