-- ==== Sys2Proof/Config.lean ====
section
/-! DEFINITION. The values the manual leaves open, each an opaque constant: nothing can be proved of what it is. -/

namespace Sys2Proof.Config

/-- What a read of an unmapped local offset would give (R254; the manual gives it no data). -/
opaque unmappedByte : Nat → Byte

/-- How a codeword with more errors than its code detects is reported (R654), by key and draw: 0 uncorrectable, 1
miscorrected, anything else delivered with no error. -/
opaque overrun : Nat → Nat → Nat

/-- The data such a codeword delivers (R654), by address and draw. -/
opaque overrunByte : Nat → Nat → Byte

/-- The symbol that the report of a wrongly corrected codeword names (R502, R654), by key and draw. -/
opaque wrongSymbol : Nat → Nat → Nat

/-- The DRAM die that would hold a symbol of a Granary codeword but for the limit of two symbols a die (R493: the
placement is the device's own). -/
opaque symbolDie : Nat → Nat

/-- The syndrome of an error (R507, DETAIL), by codeword key. -/
opaque syndrome : Nat → Nat

/-- Whether the write of a completion entry meets an error (R627), by entry number. -/
opaque hostWriteFails : Nat → Bool

/-- DETAIL of an array failure that compares no sums: a cell parity error, or a duplicate that differs (R182, R185,
R507), by draw. -/
opaque failDetail : Nat → Nat

/-- The operands of the column test's pattern tiles (R186: fixed, and the manual does not give them), as FP32: for tile i
the pair of cell (r, c) stands at (i × 129 + r) × 130 + c. -/
opaque testPattern : List (List Nat × List Nat)

/-- The RSIG of a cart that lands here from the fabric (R284; the manual does not say where a packet carries it), by
source device, CARTID and AUX. -/
opaque packetRsig : Nat → Nat → Nat → Nat

/-- Whether the programs of a model belong to the Deadline class (R58; no register or table the manual gives says so), by
model number. -/
opaque deadlineModel : Nat → Bool

/-- CARTID of the packets that move state between the Mill and a peer (R386) or a stash entry to or from the peer region
(R335; the manual names none), by what they move. -/
opaque engineCart : Nat → Nat

/-- Verification of an XMSSMT-SHAKE256_40/4_256 signature (NIST SP 800-208): public key, message, signature. -/
opaque xmssVerify : List Byte → List Byte → List Byte → Bool

/-- The signature that the device's identity key makes over a message with a signing index (R588, R589). -/
opaque identitySign : Nat → List Byte → List Byte

/-- The device's identity public key and Mirulan's factory signature over it (R588). -/
opaque identityKey : List Byte
opaque factorySig : List Byte

/-- The bytes of a HELLO (R418 lists what it holds and gives no layout). -/
opaque helloBytes : Hello → List Byte

/-- The bytes of the message that carries a PROOF signature, and of a CONFIRM from a device (R418 gives no layout). -/
opaque proofBytes : List Byte → List Byte
opaque confirmBytes : Nat → List Byte

/-- The payload of a LINKCTL packet with a reason, a failover or its acknowledgement (R414, R417; the manual gives the
layout of time transfers only, R478). -/
opaque linkctlBytes : LinkCtl → List Byte

/-- A random draw of the device (R418, R469, R482), by draw number. -/
opaque draw : Nat → Nat

/-- 32 random bytes of the device (R418), by draw number. -/
opaque nonce : Nat → List Byte

/-- The serial number of the part, 16 bytes (R612). -/
opaque serial : List Byte

/-- Verification of an image's XMSS-SHAKE256_20_256 signature under Mirulan's firmware public key, which is held in the
Root's fuses (R573): header bytes 0 to 255, signature. -/
opaque firmwareVerify : List Byte → List Byte → Bool

/-- A Cellar record's body as an image of a Cellar layout version reads an older one (R584, R585: what the other kinds
hold at each version is the image's): kind, old version, new version, old body. -/
opaque migrate : Nat → Nat → Nat → List Byte → List Byte

/-- The telemetry payload that the active management processor fills (R486), by draw. -/
opaque telemetry : Nat → List Byte

/-- The leader rank of a claimant (R480: a CLAIM has no payload, and the member list pairs an index with a device ID
only), by device ID. -/
opaque claimRank : Nat → Nat

/-- The fused boot ROM digest (R590, R591). -/
opaque romDigest : List Byte

/-- The DRAM row that holds a Granary codeword (R505: the rows of a stack are JEDEC HBM4's), by address. -/
opaque granaryRow : Nat → Nat

/-- Whether a stack refuses a row repair for want of spares (R506), by stack and the repairs it has made. -/
opaque rowSpareOut : Nat → Nat → Bool

/-- How long a lap of the Rake took in µs (R504: it runs in cycles that no requester claims), by draw. -/
opaque rakeLap : Nat → Nat

/-- The calibration constants A, B, G and D of R556, fused into each part, by layer; D is in 1/16 °C. -/
opaque calA : Nat → Rat
opaque calB : Nat → Rat
opaque calG : Nat → Rat
opaque calD : Nat → Rat

/-- E of R556, the energy of a site's line accesses in a round, by site and draw (the manual gives no energy per
access). -/
opaque siteEnergy : Nat → Nat → Rat

/-- The Root sensor, 0 to 23, that the calibration map pairs with a site of Loft 0 (R556). -/
opaque rootSensor : Nat → Nat

/-- The Root sensor, 0 to 23, nearest the reference inputs (R558). -/
opaque refSensor : Nat

/-- The power manager's projection P in W (R563: fused energy constants), by draw. -/
opaque projected : Nat → Nat

end Sys2Proof.Config
end

