-- ==== Sys2Proof/Machine/Map.lean ====
section
/-! DEFINITION. Sparse maps from natural keys, in one canonical form: keys strictly rising, and no entry equal to what
an unlisted key reads as. Memory, registers and the tables of the block are such maps. -/

namespace Sys2Proof.Machine

/-- A sparse map: (key, value) pairs. -/
abbrev KMap (α : Type) := List (Nat × α)

variable {α : Type}

/-- The value at key `k`; `d` says what an unlisted key reads as. -/
def kget (d : Nat → α) : KMap α → Nat → α
  | [], k => d k
  | (a, x) :: t, k => if a = k then x else kget d t k

/-- The map with `v` at `k`, listed. -/
def kins (k : Nat) (v : α) : KMap α → KMap α
  | [] => [(k, v)]
  | (a, x) :: t =>
    if k < a then (k, v) :: (a, x) :: t
    else if k = a then (k, v) :: t
    else (a, x) :: kins k v t

/-- The map without any entry at `k`. -/
def kdel (k : Nat) : KMap α → KMap α
  | [] => []
  | (a, x) :: t => if a = k then kdel k t else (a, x) :: kdel k t

/-- Write `v` at `k`: an entry that says what an unlisted key reads as is not kept. -/
def kset [DecidableEq α] (d : Nat → α) (m : KMap α) (k : Nat) (v : α) : KMap α :=
  if v = d k then kdel k m else kins k v m

/-- Every key of the map lies above `k`. -/
def kabove (k : Nat) : KMap α → Bool
  | [] => true
  | (a, _) :: t => decide (k < a) && kabove k t

/-- The canonical form. -/
def kwf [DecidableEq α] (d : Nat → α) : KMap α → Bool
  | [] => true
  | (a, x) :: t => kabove a t && decide (x ≠ d a) && kwf d t

/-- The entry at `k` of a map whose unlisted keys hold nothing. -/
def kfind (m : KMap α) (k : Nat) : Option α :=
  match m with
  | [] => none
  | (a, x) :: t => if a = k then some x else kfind t k

end Sys2Proof.Machine
end

