-- ==== Sys2Proof/Machine/Regs.lean ====
section
/-! DEFINITION. The register maps of the manual as one table: for each register its place in control space (block n
starts at n × 2^24, R254, R604), how often it is repeated, its read-write, write-one-to-clear and write-only bits, its
reset value and what a warm reset does to it (R549). The names are the manual's. -/

namespace Sys2Proof.Machine

/-- What R549 says of a register at a warm reset. -/
inductive Persist where
  | other   -- back to its reset value
  | kept    -- counters and logs that survive
  | cellar  -- RWC: loaded from the Cellar record
  | sticky  -- RWS
  | seed    -- written again by the Seed load
  | live    -- live repair state, rebuilt from the Cellar
  | host    -- host port registers
  deriving DecidableEq, Repr

/-- One row of a register map. Register (i, j) is at `base + i * s1 + j * s2`. -/
structure RegRow where
  name : String
  base : Nat
  n1   : Nat
  s1   : Nat
  n2   : Nat
  s2   : Nat
  rw   : Nat
  w1c  : Nat
  wo   : Nat
  rst  : Nat
  persist : Persist
  deriving DecidableEq, Repr

/-- A field of a register: bits [hi:lo] (R9). -/
structure Fld where
  hi : Nat
  lo : Nat
  deriving DecidableEq, Repr

/-- Host port registers. -/
def regsHST : List RegRow := [
  ⟨"HST_CTRL", 0x0, 1, 0x0, 1, 0x0, 0x1, 0x0, 0x0, 0x0, .host⟩,
  ⟨"HST_STATUS", 0x4, 1, 0x0, 1, 0x0, 0x0, 0x0, 0x0, 0x0, .other⟩,
  ⟨"HST_LOGBASE_LO", 0x8, 1, 0x0, 1, 0x0, 0xfffff000, 0x0, 0x0, 0x0, .host⟩,
  ⟨"HST_LOGBASE_HI", 0xc, 1, 0x0, 1, 0x0, 0xffffffff, 0x0, 0x0, 0x0, .host⟩,
  ⟨"HST_LOGSIZE", 0x10, 1, 0x0, 1, 0x0, 0x1f, 0x0, 0x0, 0x6, .other⟩,
  ⟨"HST_LOGSEQ_LO", 0x18, 1, 0x0, 1, 0x0, 0x0, 0x0, 0x0, 0x0, .host⟩,
  ⟨"HST_LOGSEQ_HI", 0x1c, 1, 0x0, 1, 0x0, 0x0, 0x0, 0x0, 0x0, .host⟩,
  ⟨"HST_WIN", 0x20, 1, 0x0, 3, 0x4, 0xffff, 0x0, 0x0, 0x0, .host⟩,
  ⟨"HST_INFLIGHT", 0x30, 1, 0x0, 1, 0x0, 0x0, 0x0, 0x0, 0x0, .other⟩,
  ⟨"HST_REFUSALS", 0x34, 1, 0x0, 1, 0x0, 0x0, 0x0, 0x0, 0x0, .host⟩,
  ⟨"HST_COMMANDS", 0x38, 1, 0x0, 1, 0x0, 0x0, 0x0, 0x0, 0x0, .host⟩,
  ⟨"HST_INTSTAT", 0x3c, 1, 0x0, 1, 0x0, 0x0, 0x7, 0x0, 0x0, .other⟩,
  ⟨"HST_INTEN", 0x40, 1, 0x0, 1, 0x0, 0x7, 0x0, 0x0, 0x0, .other⟩,
  ⟨"HST_IRQPEND", 0x44, 1, 0x0, 1, 0x0, 0x0, 0x0, 0x0, 0x0, .other⟩,
  ⟨"HST_BGHPEND", 0x48, 1, 0x0, 3, 0x4, 0x0, 0x0, 0x0, 0x0, .other⟩]

/-- Frame registers. -/
def regsFRM : List RegRow := [
  ⟨"FRM_CTRL", 0x1000000, 1, 0x0, 1, 0x0, 0xff01ff, 0x0, 0x0, 0x80010, .seed⟩,
  ⟨"FRM_STATUS", 0x1000004, 1, 0x0, 1, 0x0, 0x0, 0x0, 0x0, 0x0, .other⟩,
  ⟨"FRM_COUNT_LO", 0x1000008, 1, 0x0, 1, 0x0, 0x0, 0x0, 0x0, 0x0, .other⟩,
  ⟨"FRM_COUNT_HI", 0x100000c, 1, 0x0, 1, 0x0, 0x0, 0x0, 0x0, 0x0, .other⟩,
  ⟨"FRM_PINDEX_LO", 0x1000010, 1, 0x0, 1, 0x0, 0x0, 0x0, 0x0, 0x0, .other⟩,
  ⟨"FRM_PINDEX_HI", 0x1000014, 1, 0x0, 1, 0x0, 0x0, 0x0, 0x0, 0x0, .other⟩,
  ⟨"FRM_EVSEQ_LO", 0x1000018, 1, 0x0, 1, 0x0, 0x0, 0x0, 0x0, 0x0, .kept⟩,
  ⟨"FRM_EVSEQ_HI", 0x100001c, 1, 0x0, 1, 0x0, 0x0, 0x0, 0x0, 0x0, .kept⟩,
  ⟨"FRM_SLOTS", 0x1000020, 1, 0x0, 1, 0x0, 0x0, 0x0, 0x0, 0x800e83e, .seed⟩,
  ⟨"FRM_SLIPWIN", 0x1000024, 1, 0x0, 1, 0x0, 0xff, 0x0, 0x0, 0x10, .seed⟩,
  ⟨"FRM_SLIPCNT", 0x1000028, 1, 0x0, 1, 0x0, 0x0, 0x0, 0x0, 0x0, .other⟩,
  ⟨"FRM_SLIPFRM", 0x100002c, 1, 0x0, 1, 0x0, 0x0, 0x0, 0x0, 0x0, .other⟩,
  ⟨"FRM_SLIPOWN", 0x1000030, 1, 0x0, 1, 0x0, 0x0, 0x0, 0x0, 0x0, .other⟩,
  ⟨"FRM_SLIPRUN", 0x1000034, 1, 0x0, 1, 0x0, 0x0, 0x0, 0x0, 0x0, .other⟩,
  ⟨"FRM_DEGRADED", 0x1000038, 1, 0x0, 1, 0x0, 0x0, 0x0, 0x0, 0x0, .other⟩,
  ⟨"FRM_INTSTAT", 0x100003c, 1, 0x0, 1, 0x0, 0x0, 0x3f, 0x0, 0x0, .other⟩,
  ⟨"FRM_INTEN", 0x1000040, 1, 0x0, 1, 0x0, 0x3f, 0x0, 0x0, 0x0, .other⟩]

/-- Bough registers. -/
def regsBGH : List RegRow := [
  ⟨"BGH_CTRL", 0x2000000, 68, 0x1000, 1, 0x0, 0x0, 0x0, 0x1, 0x0, .other⟩,
  ⟨"BGH_STATUS", 0x2000004, 68, 0x1000, 1, 0x0, 0x0, 0x0, 0x0, 0x0, .other⟩,
  ⟨"BGH_STEP_LO", 0x2000008, 68, 0x1000, 1, 0x0, 0xffffffff, 0x0, 0x0, 0x0, .other⟩,
  ⟨"BGH_STEP_HI", 0x200000c, 68, 0x1000, 1, 0x0, 0xffffffff, 0x0, 0x0, 0x0, .other⟩,
  ⟨"BGH_PBASE_LO", 0x2000010, 68, 0x1000, 1, 0x0, 0xffffffff, 0x0, 0x0, 0x0, .other⟩,
  ⟨"BGH_PBASE_HI", 0x2000014, 68, 0x1000, 1, 0x0, 0xff, 0x0, 0x0, 0x0, .other⟩,
  ⟨"BGH_ITEM", 0x2000018, 68, 0x1000, 1, 0x0, 0x0, 0x0, 0x0, 0x0, .other⟩,
  ⟨"BGH_RETIRED_LO", 0x2000020, 68, 0x1000, 1, 0x0, 0x0, 0x0, 0x0, 0x0, .other⟩,
  ⟨"BGH_RETIRED_HI", 0x2000024, 68, 0x1000, 1, 0x0, 0x0, 0x0, 0x0, 0x0, .other⟩,
  ⟨"BGH_INTSTAT", 0x2000028, 68, 0x1000, 1, 0x0, 0x0, 0x3f, 0x0, 0x0, .other⟩,
  ⟨"BGH_INTEN", 0x200002c, 68, 0x1000, 1, 0x0, 0x3f, 0x0, 0x0, 0x0, .other⟩,
  ⟨"BGH_SLOT_LO", 0x2000100, 68, 0x1000, 32, 0x8, 0xffffffff, 0x0, 0x0, 0x0, .other⟩,
  ⟨"BGH_SLOT_HI", 0x2000104, 68, 0x1000, 32, 0x8, 0xffffffff, 0x0, 0x0, 0x0, .other⟩,
  ⟨"BGH_SEM", 0x2000200, 68, 0x1000, 128, 0x4, 0x0, 0x0, 0x0, 0x0, .other⟩,
  ⟨"BGH_BAR", 0x2000400, 68, 0x1000, 32, 0x4, 0x0, 0x0, 0x0, 0x0, .other⟩,
  ⟨"BGH_BARMASK_LO", 0x2000500, 68, 0x1000, 32, 0x8, 0xffffffff, 0x0, 0x0, 0x0, .other⟩,
  ⟨"BGH_BARMASK_HI", 0x2000504, 68, 0x1000, 32, 0x8, 0xffffffff, 0x0, 0x0, 0x0, .other⟩,
  ⟨"BGH_MASTAT", 0x2000600, 68, 0x1000, 4, 0x4, 0x0, 0x0, 0x0, 0xffff8000, .live⟩,
  ⟨"BGH_MAREPLAY", 0x2000610, 68, 0x1000, 1, 0x0, 0x0, 0x0, 0x0, 0x0, .kept⟩,
  ⟨"BGH_MACOLTEST", 0x2000614, 68, 0x1000, 1, 0x0, 0x0, 0x0, 0x0, 0x0, .kept⟩,
  ⟨"BGH_MAFAULT", 0x2000618, 68, 0x1000, 1, 0x0, 0x0, 0x0, 0x0, 0x0, .kept⟩,
  ⟨"BGH_MASKIP", 0x200061c, 68, 0x1000, 1, 0x0, 0x0, 0x0, 0x0, 0x0, .kept⟩,
  ⟨"BGH_MAINTSTAT", 0x2000620, 68, 0x1000, 1, 0x0, 0x0, 0x3f, 0x0, 0x0, .other⟩,
  ⟨"BGH_MAINTEN", 0x2000624, 68, 0x1000, 1, 0x0, 0x3f, 0x0, 0x0, 0x0, .other⟩,
  ⟨"BGH_MACTRL", 0x2000628, 68, 0x1000, 1, 0x0, 0x0, 0x0, 0xff, 0x0, .other⟩,
  ⟨"BGH_PMAP", 0x2044000, 1, 0x0, 64, 0x4, 0x0, 0x0, 0x0, 0x0, .live⟩,
  ⟨"BGH_CNT_LO", 0x2046000, 1, 0x0, 1024, 0x8, 0xffffffff, 0x0, 0x0, 0x0, .other⟩,
  ⟨"BGH_CNT_HI", 0x2046004, 1, 0x0, 1024, 0x8, 0xffffffff, 0x0, 0x0, 0x0, .other⟩]

/-- Thresher registers. -/
def regsTHR : List RegRow := [
  ⟨"THR_STATUS", 0x3000000, 68, 0x400, 1, 0x0, 0x0, 0x0, 0x0, 0x0, .other⟩,
  ⟨"THR_CHAINS_LO", 0x3000008, 68, 0x400, 1, 0x0, 0x0, 0x0, 0x0, 0x0, .kept⟩,
  ⟨"THR_CHAINS_HI", 0x300000c, 68, 0x400, 1, 0x0, 0x0, 0x0, 0x0, 0x0, .kept⟩,
  ⟨"THR_NONFIN_LO", 0x3000010, 68, 0x400, 1, 0x0, 0x0, 0x0, 0x0, 0x0, .kept⟩,
  ⟨"THR_NONFIN_HI", 0x3000014, 68, 0x400, 1, 0x0, 0x0, 0x0, 0x0, 0x0, .kept⟩,
  ⟨"THR_FAULT", 0x3000018, 68, 0x400, 1, 0x0, 0x0, 0x0, 0x0, 0x0, .kept⟩,
  ⟨"THR_INTSTAT", 0x300001c, 68, 0x400, 1, 0x0, 0x0, 0x7, 0x0, 0x0, .other⟩,
  ⟨"THR_INTEN", 0x3000020, 68, 0x400, 1, 0x0, 0x7, 0x0, 0x0, 0x0, .other⟩,
  ⟨"THR_NUMOVF", 0x3000040, 68, 0x400, 1, 0x0, 0x0, 0x0, 0x0, 0x0, .other⟩,
  ⟨"THR_NUMNANSQ", 0x3000044, 68, 0x400, 1, 0x0, 0x0, 0x0, 0x0, 0x0, .other⟩,
  ⟨"THR_NUMFLUSH", 0x3000048, 68, 0x400, 1, 0x0, 0x0, 0x0, 0x0, 0x0, .other⟩,
  ⟨"THR_NUMSCNAN", 0x300004c, 68, 0x400, 1, 0x0, 0x0, 0x0, 0x0, 0x0, .other⟩,
  ⟨"THR_NUMSTAT", 0x3000050, 68, 0x400, 1, 0x0, 0x0, 0xf, 0x0, 0x0, .other⟩,
  ⟨"THR_NUMCLR", 0x3000054, 68, 0x400, 1, 0x0, 0x0, 0x0, 0xf, 0x0, .other⟩]

/-- Sickle registers. -/
def regsSKL : List RegRow := [
  ⟨"SKL_MTAB_LO", 0x4000000, 1, 0x0, 1, 0x0, 0x0, 0x0, 0x0, 0x0, .other⟩,
  ⟨"SKL_MTAB_HI", 0x4000004, 1, 0x0, 1, 0x0, 0x0, 0x0, 0x0, 0x0, .other⟩,
  ⟨"SKL_NEXT_LO", 0x4000008, 1, 0x0, 1, 0x0, 0xfffff001, 0x0, 0x0, 0x0, .other⟩,
  ⟨"SKL_NEXT_HI", 0x400000c, 1, 0x0, 1, 0x0, 0xff, 0x0, 0x0, 0x0, .other⟩,
  ⟨"SKL_MODEL", 0x4000010, 1, 0x0, 1, 0x0, 0x0, 0x0, 0x0, 0x0, .other⟩,
  ⟨"SKL_SWITCHES", 0x4000014, 1, 0x0, 1, 0x0, 0x0, 0x0, 0x0, 0x0, .kept⟩,
  ⟨"SKL_SHADOW", 0x4000018, 1, 0x0, 1, 0x0, 0x0, 0x0, 0x0, 0x0, .kept⟩,
  ⟨"SKL_DIRECT", 0x400001c, 1, 0x0, 1, 0x0, 0x0, 0x0, 0x0, 0x0, .kept⟩,
  ⟨"SKL_INTSTAT", 0x4000020, 1, 0x0, 1, 0x0, 0x0, 0x1f, 0x0, 0x0, .other⟩,
  ⟨"SKL_INTEN", 0x4000024, 1, 0x0, 1, 0x0, 0x1f, 0x0, 0x0, 0x0, .other⟩]

/-- Loft registers, part 1. -/
def regsLFT0 : List RegRow := [
  ⟨"LFT_WAYS", 0x5000000, 1, 0x0, 1, 0x0, 0x0, 0x0, 0x0, 0x1088, .seed⟩,
  ⟨"LFT_STATUS", 0x5000004, 1, 0x0, 1, 0x0, 0x0, 0x0, 0x0, 0x0, .live⟩,
  ⟨"LFT_THRASH", 0x5000008, 1, 0x0, 1, 0x0, 0x80ffffff, 0x0, 0x0, 0x41000, .seed⟩,
  ⟨"LFT_THRCNT", 0x500000c, 1, 0x0, 1, 0x0, 0x0, 0x0, 0x0, 0x0, .other⟩,
  ⟨"LFT_RECLAIMS", 0x5000010, 1, 0x0, 1, 0x0, 0x0, 0x0, 0x0, 0x0, .kept⟩,
  ⟨"LFT_DIVERTS", 0x5000014, 1, 0x0, 1, 0x0, 0x0, 0x0, 0x0, 0x0, .kept⟩,
  ⟨"LFT_REDCTRL", 0x5000018, 1, 0x0, 1, 0x0, 0xff, 0x0, 0x0, 0x10, .seed⟩,
  ⟨"LFT_INTSTAT", 0x500001c, 1, 0x0, 1, 0x0, 0x0, 0x1f, 0x0, 0x0, .other⟩,
  ⟨"LFT_INTEN", 0x5000020, 1, 0x0, 1, 0x0, 0x1f, 0x0, 0x0, 0x0, .other⟩,
  ⟨"LFT_NORECLAIM_LO", 0x5000028, 1, 0x0, 1, 0x0, 0xffffffff, 0x0, 0x0, 0x0, .seed⟩,
  ⟨"LFT_NORECLAIM_HI", 0x500002c, 1, 0x0, 1, 0x0, 0xffffffff, 0x0, 0x0, 0x0, .seed⟩,
  ⟨"LFT_DIRECT", 0x5000030, 1, 0x0, 1, 0x0, 0x0, 0x0, 0x0, 0x4, .seed⟩,
  ⟨"LFT_NUMOVF", 0x5001000, 64, 0x80, 1, 0x0, 0x0, 0x0, 0x0, 0x0, .other⟩,
  ⟨"LFT_NUMNANSQ", 0x5001004, 64, 0x80, 1, 0x0, 0x0, 0x0, 0x0, 0x0, .other⟩,
  ⟨"LFT_NUMFLUSH", 0x5001008, 64, 0x80, 1, 0x0, 0x0, 0x0, 0x0, 0x0, .other⟩,
  ⟨"LFT_NUMSCNAN", 0x500100c, 64, 0x80, 1, 0x0, 0x0, 0x0, 0x0, 0x0, .other⟩,
  ⟨"LFT_NUMSTAT", 0x5001010, 64, 0x80, 1, 0x0, 0x0, 0xf, 0x0, 0x0, .other⟩,
  ⟨"LFT_NUMCLR", 0x5001014, 64, 0x80, 1, 0x0, 0x0, 0x0, 0xf, 0x0, .other⟩,
  ⟨"LFT_HITS", 0x5001020, 64, 0x80, 1, 0x0, 0x0, 0x0, 0x0, 0x0, .kept⟩,
  ⟨"LFT_MISSES", 0x5001024, 64, 0x80, 1, 0x0, 0x0, 0x0, 0x0, 0x0, .kept⟩,
  ⟨"LFT_MERGED", 0x5001028, 64, 0x80, 1, 0x0, 0x0, 0x0, 0x0, 0x0, .kept⟩,
  ⟨"LFT_REDAPPLY", 0x500102c, 64, 0x80, 1, 0x0, 0x0, 0x0, 0x0, 0x0, .kept⟩,
  ⟨"LFT_REDRET", 0x5001030, 64, 0x80, 1, 0x0, 0x0, 0x0, 0x0, 0x0, .kept⟩,
  ⟨"LFT_SLSTAT", 0x5001034, 64, 0x80, 1, 0x0, 0x0, 0x0, 0x0, 0x0, .live⟩,
  ⟨"LFT_OBJBASE_LO", 0x5008000, 1, 0x0, 1, 0x0, 0xffc00000, 0x0, 0x0, 0x0, .seed⟩,
  ⟨"LFT_OBJBASE_HI", 0x5008004, 1, 0x0, 1, 0x0, 0xff, 0x0, 0x0, 0x0, .seed⟩,
  ⟨"LFT_OBJCOUNT", 0x5008008, 1, 0x0, 1, 0x0, 0x0, 0x0, 0x0, 0x0, .other⟩,
  ⟨"LFT_POOL", 0x500800c, 1, 0x0, 1, 0x0, 0x0, 0x0, 0x0, 0x120000, .seed⟩,
  ⟨"LFT_POOLFREE", 0x5008010, 1, 0x0, 1, 0x0, 0x0, 0x0, 0x0, 0x120000, .seed⟩,
  ⟨"LFT_PROMOTES", 0x5008014, 1, 0x0, 1, 0x0, 0x0, 0x0, 0x0, 0x0, .kept⟩]

/-- Loft registers, part 2. -/
def regsLFT1 : List RegRow := [
  ⟨"LFT_EVICTS", 0x5008018, 1, 0x0, 1, 0x0, 0x0, 0x0, 0x0, 0x0, .kept⟩,
  ⟨"LFT_CANCELS", 0x500801c, 1, 0x0, 1, 0x0, 0x0, 0x0, 0x0, 0x0, .kept⟩,
  ⟨"LFT_REFUSALS", 0x5008020, 1, 0x0, 1, 0x0, 0x0, 0x0, 0x0, 0x0, .kept⟩,
  ⟨"LFT_ADDRERR", 0x5008024, 1, 0x0, 1, 0x0, 0x0, 0x0, 0x0, 0x0, .kept⟩,
  ⟨"LFT_PLCINT", 0x5008028, 1, 0x0, 1, 0x0, 0x0, 0xf, 0x0, 0x0, .other⟩,
  ⟨"LFT_PLCEN", 0x500802c, 1, 0x0, 1, 0x0, 0xf, 0x0, 0x0, 0x0, .other⟩,
  ⟨"LFT_QUOTA", 0x5008400, 1, 0x0, 256, 0x4, 0xffffff, 0x0, 0x0, 0xffffff, .seed⟩,
  ⟨"LFT_CHARGE", 0x5008800, 1, 0x0, 256, 0x4, 0x0, 0x0, 0x0, 0x0, .other⟩,
  ⟨"LFT_STBASE_LO", 0x5009000, 1, 0x0, 1, 0x0, 0xffffffe0, 0x0, 0x0, 0x0, .other⟩,
  ⟨"LFT_STBASE_HI", 0x5009004, 1, 0x0, 1, 0x0, 0xff, 0x0, 0x0, 0x0, .other⟩,
  ⟨"LFT_STCTRL", 0x5009008, 1, 0x0, 1, 0x0, 0xf1fff, 0x0, 0x0, 0x20000, .other⟩,
  ⟨"LFT_STREGION", 0x500900c, 1, 0x0, 1, 0x0, 0x8000ffff, 0x0, 0x0, 0x0, .other⟩,
  ⟨"LFT_STPEER_LO", 0x5009010, 1, 0x0, 1, 0x0, 0xffffffff, 0x0, 0x0, 0x0, .other⟩,
  ⟨"LFT_STPEER_HI", 0x5009014, 1, 0x0, 1, 0x0, 0xffffffff, 0x0, 0x0, 0x0, .other⟩,
  ⟨"LFT_STPEERLEN", 0x5009018, 1, 0x0, 1, 0x0, 0xffffff, 0x0, 0x0, 0x0, .other⟩,
  ⟨"LFT_STFRAME", 0x500901c, 1, 0x0, 1, 0x0, 0x0, 0x0, 0x0, 0x0, .other⟩,
  ⟨"LFT_STLIVE", 0x5009020, 1, 0x0, 1, 0x0, 0x0, 0x0, 0x0, 0x0, .other⟩,
  ⟨"LFT_STPEAK", 0x5009024, 1, 0x0, 1, 0x0, 0x0, 0x0, 0x0, 0x0, .other⟩,
  ⟨"LFT_STSPILLG", 0x5009028, 1, 0x0, 1, 0x0, 0x0, 0x0, 0x0, 0x0, .other⟩,
  ⟨"LFT_STSPILLP", 0x500902c, 1, 0x0, 1, 0x0, 0x0, 0x0, 0x0, 0x0, .other⟩,
  ⟨"LFT_STDROPS", 0x5009030, 1, 0x0, 1, 0x0, 0x0, 0x0, 0x0, 0x0, .other⟩,
  ⟨"LFT_STRESTORE", 0x5009034, 1, 0x0, 1, 0x0, 0x0, 0x0, 0x0, 0x0, .other⟩,
  ⟨"LFT_STEXH", 0x5009038, 1, 0x0, 1, 0x0, 0x0, 0x0, 0x0, 0x0, .other⟩,
  ⟨"LFT_STINT", 0x500903c, 1, 0x0, 1, 0x0, 0x0, 0xf, 0x0, 0x0, .other⟩,
  ⟨"LFT_STINTEN", 0x5009040, 1, 0x0, 1, 0x0, 0xf, 0x0, 0x0, 0x0, .other⟩,
  ⟨"LFT_RAKEMAX", 0x500a000, 1, 0x0, 1, 0x0, 0xffffffff, 0x0, 0x0, 0x3e8, .other⟩,
  ⟨"LFT_RAKELAP", 0x500a004, 1, 0x0, 1, 0x0, 0x0, 0x0, 0x0, 0x0, .other⟩,
  ⟨"LFT_RAKELAPS", 0x500a008, 1, 0x0, 1, 0x0, 0x0, 0x0, 0x0, 0x0, .kept⟩]

/-- Loft registers. -/
def regsLFT : List RegRow := regsLFT0 ++ regsLFT1

/-- Granary registers. -/
def regsGRN : List RegRow := [
  ⟨"GRN_GLRATE", 0x6000000, 1, 0x0, 1, 0x0, 0xff, 0x0, 0x0, 0x18, .cellar⟩,
  ⟨"GRN_GLADAPT", 0x6000004, 1, 0x0, 1, 0x0, 0xffffffff, 0x0, 0x0, 0x1000010, .cellar⟩,
  ⟨"GRN_GLPASS", 0x6000008, 1, 0x0, 1, 0x0, 0x0, 0x0, 0x0, 0x0, .kept⟩,
  ⟨"GRN_ROWREP", 0x600000c, 1, 0x0, 1, 0x0, 0x0, 0x0, 0x0, 0x0, .kept⟩,
  ⟨"GRN_GLNOW", 0x6000010, 1, 0x0, 8, 0x4, 0x0, 0x0, 0x0, 0x18, .other⟩]

/-- Mill registers, part 1. -/
def regsMIL0 : List RegRow := [
  ⟨"MIL_CTRL", 0x7000000, 1, 0x0, 1, 0x0, 0xff, 0x0, 0x0, 0x40, .other⟩,
  ⟨"MIL_STATUS", 0x7000004, 1, 0x0, 1, 0x0, 0x0, 0x0, 0x0, 0x0, .other⟩,
  ⟨"MIL_PTAB_LO", 0x7000008, 1, 0x0, 1, 0x0, 0xffffffc0, 0x0, 0x0, 0x0, .other⟩,
  ⟨"MIL_PTAB_HI", 0x700000c, 1, 0x0, 1, 0x0, 0xff, 0x0, 0x0, 0x0, .other⟩,
  ⟨"MIL_PCOUNT", 0x7000010, 1, 0x0, 1, 0x0, 0x1ffff, 0x0, 0x0, 0x0, .other⟩,
  ⟨"MIL_GTAB_LO", 0x7000014, 1, 0x0, 1, 0x0, 0xffffffc0, 0x0, 0x0, 0x0, .other⟩,
  ⟨"MIL_GTAB_HI", 0x7000018, 1, 0x0, 1, 0x0, 0xff, 0x0, 0x0, 0x0, .other⟩,
  ⟨"MIL_GCOUNT", 0x700001c, 1, 0x0, 1, 0x0, 0x1ff, 0x0, 0x0, 0x0, .other⟩,
  ⟨"MIL_MJTAB_LO", 0x7000020, 1, 0x0, 1, 0x0, 0xffffffe0, 0x0, 0x0, 0x0, .other⟩,
  ⟨"MIL_MJTAB_HI", 0x7000024, 1, 0x0, 1, 0x0, 0xff, 0x0, 0x0, 0x0, .other⟩,
  ⟨"MIL_LIST_LO", 0x7000028, 1, 0x0, 1, 0x0, 0xffffffe0, 0x0, 0x0, 0x0, .other⟩,
  ⟨"MIL_LIST_HI", 0x700002c, 1, 0x0, 1, 0x0, 0xff, 0x0, 0x0, 0x0, .other⟩,
  ⟨"MIL_ITEM", 0x7000030, 1, 0x0, 1, 0x0, 0x0, 0x0, 0x0, 0x0, .other⟩,
  ⟨"MIL_GATE", 0x7000034, 1, 0x0, 1, 0x0, 0xf7ffffff, 0x0, 0x0, 0x60000000, .seed⟩,
  ⟨"MIL_FENCE", 0x7000038, 1, 0x0, 1, 0x0, 0x3fffffff, 0x0, 0x0, 0x0, .other⟩,
  ⟨"MIL_HOLD", 0x700003c, 1, 0x0, 1, 0x0, 0x8000ffff, 0x0, 0x0, 0x0, .other⟩,
  ⟨"MIL_EPOCH_LO", 0x7000040, 1, 0x0, 1, 0x0, 0xffffffff, 0x0, 0x0, 0x0, .other⟩,
  ⟨"MIL_EPOCH_HI", 0x7000044, 1, 0x0, 1, 0x0, 0xffffffff, 0x0, 0x0, 0x0, .other⟩,
  ⟨"MIL_BSTAT", 0x7000048, 1, 0x0, 1, 0x0, 0x0, 0x0, 0x0, 0x0, .other⟩,
  ⟨"MIL_LASTB", 0x700004c, 1, 0x0, 1, 0x0, 0x0, 0x0, 0x0, 0x0, .other⟩,
  ⟨"MIL_CONFLICT", 0x7000050, 1, 0x0, 1, 0x0, 0x0, 0x0, 0x0, 0x0, .other⟩,
  ⟨"MIL_COMMITS", 0x7000054, 1, 0x0, 1, 0x0, 0x0, 0x0, 0x0, 0x0, .other⟩,
  ⟨"MIL_DISCARDS", 0x7000058, 1, 0x0, 1, 0x0, 0x0, 0x0, 0x0, 0x0, .other⟩,
  ⟨"MIL_BLOCKS", 0x700005c, 1, 0x0, 1, 0x0, 0x0, 0x0, 0x0, 0x0, .other⟩,
  ⟨"MIL_FROZSKIP", 0x7000060, 1, 0x0, 1, 0x0, 0x0, 0x0, 0x0, 0x0, .other⟩,
  ⟨"MIL_HELD", 0x7000064, 1, 0x0, 1, 0x0, 0x0, 0x0, 0x0, 0x0, .other⟩,
  ⟨"MIL_IDSUB", 0x7000068, 1, 0x0, 1, 0x0, 0x0, 0x0, 0x0, 0x0, .other⟩,
  ⟨"MIL_HOLDFAULT", 0x700006c, 1, 0x0, 1, 0x0, 0x0, 0x0, 0x0, 0x0, .other⟩,
  ⟨"MIL_FAULT", 0x7000070, 1, 0x0, 1, 0x0, 0x0, 0x0, 0x0, 0x0, .other⟩,
  ⟨"MIL_INTSTAT", 0x7000074, 1, 0x0, 1, 0x0, 0x0, 0xff, 0x0, 0x0, .other⟩]

/-- Mill registers, part 2. -/
def regsMIL1 : List RegRow := [
  ⟨"MIL_INTEN", 0x7000078, 1, 0x0, 1, 0x0, 0xff, 0x0, 0x0, 0x0, .other⟩,
  ⟨"MIL_NUMOVF", 0x7000100, 8, 0x20, 1, 0x0, 0x0, 0x0, 0x0, 0x0, .other⟩,
  ⟨"MIL_NUMNANSQ", 0x7000104, 8, 0x20, 1, 0x0, 0x0, 0x0, 0x0, 0x0, .other⟩,
  ⟨"MIL_NUMFLUSH", 0x7000108, 8, 0x20, 1, 0x0, 0x0, 0x0, 0x0, 0x0, .other⟩,
  ⟨"MIL_NUMSCNAN", 0x700010c, 8, 0x20, 1, 0x0, 0x0, 0x0, 0x0, 0x0, .other⟩,
  ⟨"MIL_NUMSTAT", 0x7000110, 8, 0x20, 1, 0x0, 0x0, 0xf, 0x0, 0x0, .other⟩,
  ⟨"MIL_NUMCLR", 0x7000114, 8, 0x20, 1, 0x0, 0x0, 0x0, 0xf, 0x0, .other⟩]

/-- Mill registers. -/
def regsMIL : List RegRow := regsMIL0 ++ regsMIL1

/-- Wain registers. -/
def regsWAN : List RegRow := [
  ⟨"WAN_PBASE_LO", 0x8000000, 1, 0x0, 1, 0x0, 0xffffffc0, 0x0, 0x0, 0x0, .other⟩,
  ⟨"WAN_PBASE_HI", 0x8000004, 1, 0x0, 1, 0x0, 0xff, 0x0, 0x0, 0x0, .other⟩,
  ⟨"WAN_ITEM", 0x8000008, 1, 0x0, 1, 0x0, 0x0, 0x0, 0x0, 0x0, .other⟩,
  ⟨"WAN_STATUS", 0x800000c, 1, 0x0, 1, 0x0, 0x0, 0x0, 0x0, 0x0, .other⟩,
  ⟨"WAN_TOKENS", 0x8000010, 1, 0x0, 1, 0x0, 0x0, 0x0, 0x0, 0x0, .other⟩,
  ⟨"WAN_FALLBACK", 0x8000014, 1, 0x0, 1, 0x0, 0x0, 0x0, 0x0, 0x0, .other⟩,
  ⟨"WAN_DROPS", 0x8000018, 1, 0x0, 1, 0x0, 0x0, 0x0, 0x0, 0x0, .other⟩,
  ⟨"WAN_INTSTAT", 0x800001c, 1, 0x0, 1, 0x0, 0x0, 0x7, 0x0, 0x0, .other⟩,
  ⟨"WAN_INTEN", 0x8000020, 1, 0x0, 1, 0x0, 0x7, 0x0, 0x0, 0x0, .other⟩]

/-- Fabric registers, part 1. -/
def regsFAB0 : List RegRow := [
  ⟨"FAB_CTRL", 0x9000000, 1, 0x0, 1, 0x0, 0x0, 0x0, 0x0, 0x0, .seed⟩,
  ⟨"FAB_ID", 0x9000004, 1, 0x0, 1, 0x0, 0x0, 0x0, 0x0, 0x0, .seed⟩,
  ⟨"FAB_PKEY", 0x9000008, 1, 0x0, 1, 0x0, 0x0, 0x0, 0x0, 0x0, .seed⟩,
  ⟨"FAB_FLAG", 0x900000c, 1, 0x0, 1, 0x0, 0x0, 0x0, 0x0, 0x1f000000, .seed⟩,
  ⟨"FAB_TTAB_LO", 0x9000010, 1, 0x0, 1, 0x0, 0xffffffc0, 0x0, 0x0, 0x0, .other⟩,
  ⟨"FAB_TTAB_HI", 0x9000014, 1, 0x0, 1, 0x0, 0xff, 0x0, 0x0, 0x0, .other⟩,
  ⟨"FAB_TCOUNT", 0x9000018, 1, 0x0, 1, 0x0, 0x7f, 0x0, 0x0, 0x0, .other⟩,
  ⟨"FAB_PBAR", 0x9000020, 1, 0x0, 8, 0x4, 0x83ff3f80, 0x0, 0x0, 0x0, .other⟩,
  ⟨"FAB_BADKEY", 0x9000040, 1, 0x0, 1, 0x0, 0x0, 0x0, 0x0, 0x0, .kept⟩,
  ⟨"FAB_NOROUTE", 0x9000044, 1, 0x0, 1, 0x0, 0x0, 0x0, 0x0, 0x0, .kept⟩,
  ⟨"FAB_TTLDROP", 0x9000048, 1, 0x0, 1, 0x0, 0x0, 0x0, 0x0, 0x0, .kept⟩,
  ⟨"FAB_BADOP", 0x900004c, 1, 0x0, 1, 0x0, 0x0, 0x0, 0x0, 0x0, .kept⟩,
  ⟨"FAB_REFUSED", 0x9000050, 1, 0x0, 1, 0x0, 0x0, 0x0, 0x0, 0x0, .kept⟩,
  ⟨"FAB_INTSTAT", 0x9000054, 1, 0x0, 1, 0x0, 0x0, 0xff, 0x0, 0x0, .other⟩,
  ⟨"FAB_INTEN", 0x9000058, 1, 0x0, 1, 0x0, 0xff, 0x0, 0x0, 0x0, .other⟩,
  ⟨"FAB_GROUTE", 0x9001000, 1, 0x0, 1024, 0x4, 0x9f, 0x0, 0x0, 0x0, .seed⟩,
  ⟨"FAB_MROUTE", 0x9002000, 1, 0x0, 256, 0x4, 0x9f, 0x0, 0x0, 0x0, .seed⟩,
  ⟨"FAB_PSTAT", 0x9004000, 24, 0x80, 1, 0x0, 0x0, 0x0, 0x0, 0x0, .other⟩,
  ⟨"FAB_PEER", 0x9004004, 24, 0x80, 1, 0x0, 0x0, 0x0, 0x0, 0x0, .other⟩,
  ⟨"FAB_EXPECT", 0x9004008, 24, 0x80, 1, 0x0, 0x8003ffff, 0x0, 0x0, 0x0, .seed⟩,
  ⟨"FAB_LANES", 0x900400c, 24, 0x80, 1, 0x0, 0x0, 0x0, 0x0, 0x1e00, .other⟩,
  ⟨"FAB_STAB_LO", 0x9004010, 24, 0x80, 1, 0x0, 0xffffffc0, 0x0, 0x0, 0x0, .other⟩,
  ⟨"FAB_STAB_HI", 0x9004014, 24, 0x80, 1, 0x0, 0xff, 0x0, 0x0, 0x0, .other⟩,
  ⟨"FAB_FECCORR", 0x9004018, 24, 0x80, 1, 0x0, 0x0, 0x0, 0x0, 0x0, .kept⟩,
  ⟨"FAB_FECUNC", 0x900401c, 24, 0x80, 1, 0x0, 0x0, 0x0, 0x0, 0x0, .kept⟩,
  ⟨"FAB_REPLAY", 0x9004020, 24, 0x80, 1, 0x0, 0x0, 0x0, 0x0, 0x0, .kept⟩,
  ⟨"FAB_CRCERR", 0x9004024, 24, 0x80, 1, 0x0, 0x0, 0x0, 0x0, 0x0, .kept⟩,
  ⟨"FAB_TAGERR", 0x9004028, 24, 0x80, 1, 0x0, 0x0, 0x0, 0x0, 0x0, .kept⟩,
  ⟨"FAB_SLOTMISS", 0x900402c, 24, 0x80, 1, 0x0, 0x0, 0x0, 0x0, 0x0, .kept⟩,
  ⟨"FAB_ADMITS", 0x9004030, 24, 0x80, 1, 0x0, 0x0, 0x0, 0x0, 0x0, .kept⟩]

/-- Fabric registers, part 2. -/
def regsFAB1 : List RegRow := [
  ⟨"FAB_STRANGER", 0x9004034, 24, 0x80, 1, 0x0, 0x0, 0x0, 0x0, 0x0, .kept⟩]

/-- Fabric registers. -/
def regsFAB : List RegRow := regsFAB0 ++ regsFAB1

/-- Floor registers. -/
def regsFLR : List RegRow := [
  ⟨"FLR_CFG", 0xa000000, 1, 0x0, 1, 0x0, 0x0, 0x0, 0x0, 0x0, .seed⟩,
  ⟨"FLR_STATUS", 0xa000004, 1, 0x0, 1, 0x0, 0x0, 0x0, 0x0, 0x0, .other⟩,
  ⟨"FLR_RANGE", 0xa000008, 1, 0x0, 1, 0x0, 0x0, 0x0, 0x0, 0x0, .other⟩,
  ⟨"FLR_NTEL", 0xa00000c, 1, 0x0, 1, 0x0, 0x0, 0x0, 0x0, 0x34, .seed⟩,
  ⟨"FLR_HOLD", 0xa000010, 1, 0x0, 1, 0x0, 0x0, 0x0, 0x0, 0x0, .other⟩,
  ⟨"FLR_MEMBERS", 0xa000020, 1, 0x0, 8, 0x4, 0x0, 0x0, 0x0, 0x0, .other⟩,
  ⟨"FLR_BEACONS", 0xa000040, 1, 0x0, 1, 0x0, 0x0, 0x0, 0x0, 0x0, .kept⟩,
  ⟨"FLR_BEACONMISS", 0xa000044, 1, 0x0, 1, 0x0, 0x0, 0x0, 0x0, 0x0, .kept⟩,
  ⟨"FLR_COLLIDE", 0xa000048, 1, 0x0, 1, 0x0, 0x0, 0x0, 0x0, 0x0, .kept⟩,
  ⟨"FLR_CRCERR", 0xa00004c, 1, 0x0, 1, 0x0, 0x0, 0x0, 0x0, 0x0, .kept⟩,
  ⟨"FLR_STRANGER", 0xa000050, 1, 0x0, 1, 0x0, 0x0, 0x0, 0x0, 0x0, .kept⟩,
  ⟨"FLR_JOINREF", 0xa000054, 1, 0x0, 1, 0x0, 0x0, 0x0, 0x0, 0x0, .kept⟩,
  ⟨"FLR_INTSTAT", 0xa000058, 1, 0x0, 1, 0x0, 0x0, 0x1f, 0x0, 0x0, .other⟩,
  ⟨"FLR_INTEN", 0xa00005c, 1, 0x0, 1, 0x0, 0x1f, 0x0, 0x0, 0x0, .other⟩]

/-- Housekeeping registers. -/
def regsHSK : List RegRow := [
  ⟨"HSK_CTRL", 0xb000000, 1, 0x0, 1, 0x0, 0xff, 0x0, 0x0, 0x5f, .cellar⟩,
  ⟨"HSK_PLIM", 0xb000004, 1, 0x0, 1, 0x0, 0xfff, 0x0, 0x0, 0x9c4, .cellar⟩,
  ⟨"HSK_STATUS", 0xb000008, 1, 0x0, 1, 0x0, 0x0, 0x0, 0x0, 0x0, .other⟩,
  ⟨"HSK_LEVEL", 0xb00000c, 1, 0x0, 1, 0x0, 0x0, 0x0, 0x0, 0x0, .other⟩,
  ⟨"HSK_GRNLEVEL", 0xb000010, 1, 0x0, 1, 0x0, 0x0, 0x0, 0x0, 0x0, .other⟩,
  ⟨"HSK_POWER", 0xb000014, 1, 0x0, 1, 0x0, 0x0, 0x0, 0x0, 0x0, .other⟩,
  ⟨"HSK_EXCREDIT", 0xb000018, 1, 0x0, 1, 0x0, 0x0, 0x0, 0x0, 0x2710, .other⟩,
  ⟨"HSK_HOTTEST", 0xb00001c, 1, 0x0, 1, 0x0, 0x0, 0x0, 0x0, 0x0, .other⟩,
  ⟨"HSK_LAYERFLT", 0xb000020, 1, 0x0, 1, 0x0, 0x0, 0x0, 0x0, 0x0, .other⟩,
  ⟨"HSK_ROUNDS", 0xb000024, 1, 0x0, 1, 0x0, 0x0, 0x0, 0x0, 0x0, .kept⟩,
  ⟨"HSK_SKIP_LO", 0xb000028, 1, 0x0, 1, 0x0, 0x0, 0x0, 0x0, 0x0, .kept⟩,
  ⟨"HSK_SKIP_HI", 0xb00002c, 1, 0x0, 1, 0x0, 0x0, 0x0, 0x0, 0x0, .kept⟩,
  ⟨"HSK_INTSTAT", 0xb000030, 1, 0x0, 1, 0x0, 0x0, 0xff, 0x0, 0x0, .other⟩,
  ⟨"HSK_INTEN", 0xb000034, 1, 0x0, 1, 0x0, 0xff, 0x0, 0x0, 0x0, .other⟩,
  ⟨"HSK_LMODEL", 0xb000040, 1, 0x0, 4, 0x4, 0x0, 0x0, 0x0, 0x0, .other⟩,
  ⟨"HSK_CH", 0xb000100, 1, 0x0, 301, 0x4, 0x0, 0x0, 0x0, 0x0, .other⟩]

/-- Reset registers. -/
def regsRST : List RegRow := [
  ⟨"RST_CAUSE", 0xc000000, 1, 0x0, 1, 0x0, 0x1ff0f, 0x0, 0x0, 0x0, .sticky⟩,
  ⟨"RST_STATUS", 0xc000004, 1, 0x0, 1, 0x0, 0x0, 0x0, 0x0, 0x100, .other⟩,
  ⟨"RST_OPTIONS", 0xc000008, 1, 0x0, 1, 0x0, 0xff17, 0x0, 0x0, 0x4003, .cellar⟩,
  ⟨"RST_FAILCNT", 0xc00000c, 1, 0x0, 1, 0x0, 0x0, 0x0, 0x0, 0x0, .sticky⟩,
  ⟨"RST_READY", 0xc000010, 1, 0x0, 1, 0x0, 0x0, 0x0, 0x0, 0x0, .other⟩,
  ⟨"RST_SEEDERR", 0xc000014, 1, 0x0, 1, 0x0, 0x0, 0x0, 0x0, 0x0, .sticky⟩,
  ⟨"RST_PARTIAL", 0xc000018, 1, 0x0, 1, 0x0, 0x0, 0x0, 0xf00000ff, 0x0, .other⟩,
  ⟨"RST_PARTSTAT", 0xc00001c, 1, 0x0, 1, 0x0, 0x0, 0x0, 0x0, 0x0, .other⟩,
  ⟨"RST_QUIESCE", 0xc000020, 1, 0x0, 1, 0x0, 0xff, 0x0, 0x0, 0x40, .other⟩,
  ⟨"RST_FUSE", 0xc000024, 1, 0x0, 1, 0x0, 0x0, 0x0, 0x0, 0x0, .other⟩,
  ⟨"RST_MGMTREF", 0xc000028, 1, 0x0, 1, 0x0, 0x0, 0x0, 0x0, 0x0, .kept⟩,
  ⟨"RST_INTSTAT", 0xc00002c, 1, 0x0, 1, 0x0, 0x0, 0x3f, 0x0, 0x0, .other⟩,
  ⟨"RST_INTEN", 0xc000030, 1, 0x0, 1, 0x0, 0x3f, 0x0, 0x0, 0x0, .other⟩]

/-- Integrity registers. -/
def regsINT : List RegRow := [
  ⟨"INT_CTRL", 0xd000000, 1, 0x0, 1, 0x0, 0x1, 0x0, 0x0, 0x0, .other⟩,
  ⟨"INT_STATUS", 0xd000004, 1, 0x0, 1, 0x0, 0x0, 0x0, 0x0, 0x0, .other⟩,
  ⟨"INT_FLIPCRB", 0xd000008, 1, 0x0, 1, 0x0, 0xffffff00, 0x0, 0x0, 0xffff00, .other⟩,
  ⟨"INT_FLIPLFT", 0xd00000c, 1, 0x0, 1, 0x0, 0xffffffc0, 0x0, 0x0, 0x3fffc0, .other⟩,
  ⟨"INT_FLIPGRN", 0xd000010, 1, 0x0, 1, 0x0, 0xffffffe0, 0x0, 0x0, 0x7fffe0, .other⟩,
  ⟨"INT_SPARES", 0xd000014, 1, 0x0, 1, 0x0, 0x0, 0x0, 0x0, 0x0, .live⟩,
  ⟨"INT_POLICY", 0xd000018, 1, 0x0, 1, 0x0, 0xc000ffff, 0x0, 0x0, 0xc0000400, .cellar⟩,
  ⟨"INT_CORRCRB", 0xd000020, 1, 0x0, 1, 0x0, 0x0, 0x0, 0x0, 0x0, .kept⟩,
  ⟨"INT_CORRLFT", 0xd000024, 1, 0x0, 1, 0x0, 0x0, 0x0, 0x0, 0x0, .kept⟩,
  ⟨"INT_CORRGRN", 0xd000028, 1, 0x0, 1, 0x0, 0x0, 0x0, 0x0, 0x0, .kept⟩,
  ⟨"INT_UNCCRB", 0xd00002c, 1, 0x0, 1, 0x0, 0x0, 0x0, 0x0, 0x0, .kept⟩,
  ⟨"INT_UNCLFT", 0xd000030, 1, 0x0, 1, 0x0, 0x0, 0x0, 0x0, 0x0, .kept⟩,
  ⟨"INT_UNCGRN", 0xd000034, 1, 0x0, 1, 0x0, 0x0, 0x0, 0x0, 0x0, .kept⟩,
  ⟨"INT_UNINIT", 0xd000038, 1, 0x0, 1, 0x0, 0x0, 0x0, 0x0, 0x0, .kept⟩,
  ⟨"INT_REFILL", 0xd00003c, 1, 0x0, 1, 0x0, 0x0, 0x0, 0x0, 0x0, .kept⟩,
  ⟨"INT_REPAIRS", 0xd000040, 1, 0x0, 1, 0x0, 0x0, 0x0, 0x0, 0x0, .kept⟩,
  ⟨"INT_LOGCOUNT_LO", 0xd000044, 1, 0x0, 1, 0x0, 0x0, 0x0, 0x0, 0x0, .kept⟩,
  ⟨"INT_LOGCOUNT_HI", 0xd000048, 1, 0x0, 1, 0x0, 0x0, 0x0, 0x0, 0x0, .kept⟩,
  ⟨"INT_INTSTAT", 0xd00004c, 1, 0x0, 1, 0x0, 0x0, 0x7f, 0x0, 0x0, .other⟩,
  ⟨"INT_INTEN", 0xd000050, 1, 0x0, 1, 0x0, 0x7f, 0x0, 0x0, 0x0, .other⟩,
  ⟨"INT_LOG", 0xd010000, 1024, 0x40, 16, 0x4, 0x0, 0x0, 0x0, 0x0, .kept⟩]

/-- Firmware registers. -/
def regsFWM : List RegRow := [
  ⟨"FWM_CTRL", 0xf000000, 1, 0x0, 1, 0x0, 0x0, 0x0, 0x3, 0x0, .other⟩,
  ⟨"FWM_STATUS", 0xf000004, 1, 0x0, 1, 0x0, 0x0, 0x0, 0x0, 0x0, .other⟩,
  ⟨"FWM_GRAFTCFG", 0xf000008, 1, 0x0, 1, 0x0, 0x7f, 0x0, 0x0, 0x1, .cellar⟩,
  ⟨"FWM_VERSION", 0xf00000c, 1, 0x0, 1, 0x0, 0x0, 0x0, 0x0, 0x0, .other⟩,
  ⟨"FWM_SCION", 0xf000010, 1, 0x0, 1, 0x0, 0x0, 0x0, 0x0, 0x0, .other⟩,
  ⟨"FWM_SVN", 0xf000014, 1, 0x0, 1, 0x0, 0x0, 0x0, 0x0, 0x0, .other⟩,
  ⟨"FWM_FLOOR", 0xf000018, 1, 0x0, 1, 0x0, 0x0, 0x0, 0x0, 0x0, .other⟩,
  ⟨"FWM_SIGNEXT_LO", 0xf000020, 1, 0x0, 1, 0x0, 0x0, 0x0, 0x0, 0x0, .other⟩,
  ⟨"FWM_SIGNEXT_HI", 0xf000024, 1, 0x0, 1, 0x0, 0x0, 0x0, 0x0, 0x0, .other⟩,
  ⟨"FWM_SIGRES_LO", 0xf000028, 1, 0x0, 1, 0x0, 0x0, 0x0, 0x0, 0x0, .other⟩,
  ⟨"FWM_SIGRES_HI", 0xf00002c, 1, 0x0, 1, 0x0, 0x0, 0x0, 0x0, 0x0, .other⟩,
  ⟨"FWM_LOGCOUNT", 0xf000030, 1, 0x0, 1, 0x0, 0x0, 0x0, 0x0, 0x0, .other⟩,
  ⟨"FWM_GRAFTS", 0xf000034, 1, 0x0, 1, 0x0, 0x0, 0x0, 0x0, 0x0, .kept⟩,
  ⟨"FWM_FALLBACKS", 0xf000038, 1, 0x0, 1, 0x0, 0x0, 0x0, 0x0, 0x0, .kept⟩,
  ⟨"FWM_INTSTAT", 0xf00003c, 1, 0x0, 1, 0x0, 0x0, 0xff, 0x0, 0x0, .other⟩,
  ⟨"FWM_INTEN", 0xf000040, 1, 0x0, 1, 0x0, 0xff, 0x0, 0x0, 0x0, .other⟩,
  ⟨"FWM_CHAIN", 0xf000080, 1, 0x0, 8, 0x4, 0x0, 0x0, 0x0, 0x0, .other⟩]

/-- Every register of the device. -/
def regTable : List RegRow :=
  regsHST ++ regsFRM ++ regsBGH ++ regsTHR ++ regsSKL ++ regsLFT ++ regsGRN ++ regsMIL ++ regsWAN ++ regsFAB ++ regsFLR ++ regsHSK ++ regsRST ++ regsINT ++ regsFWM

/-- The rows of one block: the block of a control offset is its bits from 24 up. -/
def regBlock (a : Nat) : List RegRow :=
  match a / 0x1000000 with
  | 0 => regsHST
  | 1 => regsFRM
  | 2 => regsBGH
  | 3 => regsTHR
  | 4 => regsSKL
  | 5 => regsLFT
  | 6 => regsGRN
  | 7 => regsMIL
  | 8 => regsWAN
  | 9 => regsFAB
  | 10 => regsFLR
  | 11 => regsHSK
  | 12 => regsRST
  | 13 => regsINT
  | 15 => regsFWM
  | _ => []

/-- Whether the register at control offset `a` is one of a row's. -/
def RegRow.has (r : RegRow) (a : Nat) : Bool :=
  let d := a - r.base
  let i := if r.s1 = 0 then 0 else d / r.s1
  let e := d - i * r.s1
  let j := if r.s2 = 0 then 0 else e / r.s2
  decide (r.base ≤ a) && decide (i < r.n1) && decide (j < r.n2) && decide (e = j * r.s2)

/-- The row of a control offset, none where no register is. -/
def regRow (a : Nat) : Option RegRow := (regBlock a).find? (fun r => r.has a)

/-- The value of a register after a power-on reset (R16): its row's reset value. Physical bough b starts as presented
bough b while b < 64, and the spares read 127 (R157); BGH_PMAP_n starts as n (R156). -/
def regReset (a : Nat) : BitVec 32 :=
  match regRow a with
  | none => 0
  | some r =>
    let v := BitVec.ofNat 32 r.rst
    if r.name = "BGH_STATUS" then
      let b := (a - r.base) / 0x1000
      v ||| BitVec.ofNat 32 ((if b < 64 then b else 127) * 0x100)
    else if r.name = "BGH_PMAP" then BitVec.ofNat 32 ((a - r.base) / 4)
    else v

/-! The places of the registers, by the manual's names. -/

def Reg.HST_CTRL : Nat := 0x0 -- R626
def Reg.HST_STATUS : Nat := 0x4 -- R626
def Reg.HST_LOGBASE_LO : Nat := 0x8 -- R626
def Reg.HST_LOGBASE_HI : Nat := 0xc -- R626
def Reg.HST_LOGSIZE : Nat := 0x10 -- R626
def Reg.HST_LOGSEQ_LO : Nat := 0x18 -- R626
def Reg.HST_LOGSEQ_HI : Nat := 0x1c -- R626
def Reg.HST_WIN (i : Nat) : Nat := 0x20 + i * 0x4 -- R626
def Reg.HST_INFLIGHT : Nat := 0x30 -- R626
def Reg.HST_REFUSALS : Nat := 0x34 -- R626
def Reg.HST_COMMANDS : Nat := 0x38 -- R626
def Reg.HST_INTSTAT : Nat := 0x3c -- R627
def Reg.HST_INTEN : Nat := 0x40 -- R627
def Reg.HST_IRQPEND : Nat := 0x44 -- R626
def Reg.HST_BGHPEND (i : Nat) : Nat := 0x48 + i * 0x4 -- R626
def Reg.FRM_CTRL : Nat := 0x1000000 -- R72
def Reg.FRM_STATUS : Nat := 0x1000004 -- R73
def Reg.FRM_COUNT_LO : Nat := 0x1000008 -- R74
def Reg.FRM_COUNT_HI : Nat := 0x100000c -- R74
def Reg.FRM_PINDEX_LO : Nat := 0x1000010 -- R74
def Reg.FRM_PINDEX_HI : Nat := 0x1000014 -- R74
def Reg.FRM_EVSEQ_LO : Nat := 0x1000018 -- R74
def Reg.FRM_EVSEQ_HI : Nat := 0x100001c -- R74
def Reg.FRM_SLOTS : Nat := 0x1000020 -- R75
def Reg.FRM_SLIPWIN : Nat := 0x1000024 -- R76
def Reg.FRM_SLIPCNT : Nat := 0x1000028 -- R77
def Reg.FRM_SLIPFRM : Nat := 0x100002c -- R77
def Reg.FRM_SLIPOWN : Nat := 0x1000030 -- R77
def Reg.FRM_SLIPRUN : Nat := 0x1000034 -- R77
def Reg.FRM_DEGRADED : Nat := 0x1000038 -- R77
def Reg.FRM_INTSTAT : Nat := 0x100003c -- R78
def Reg.FRM_INTEN : Nat := 0x1000040 -- R78
def Reg.BGH_CTRL (i : Nat) : Nat := 0x2000000 + i * 0x1000 -- R156
def Reg.BGH_STATUS (i : Nat) : Nat := 0x2000004 + i * 0x1000 -- R157
def Reg.BGH_STEP_LO (i : Nat) : Nat := 0x2000008 + i * 0x1000 -- R155
def Reg.BGH_STEP_HI (i : Nat) : Nat := 0x200000c + i * 0x1000 -- R155
def Reg.BGH_PBASE_LO (i : Nat) : Nat := 0x2000010 + i * 0x1000 -- R155
def Reg.BGH_PBASE_HI (i : Nat) : Nat := 0x2000014 + i * 0x1000 -- R155
def Reg.BGH_ITEM (i : Nat) : Nat := 0x2000018 + i * 0x1000 -- R156
def Reg.BGH_RETIRED_LO (i : Nat) : Nat := 0x2000020 + i * 0x1000 -- R155
def Reg.BGH_RETIRED_HI (i : Nat) : Nat := 0x2000024 + i * 0x1000 -- R155
def Reg.BGH_INTSTAT (i : Nat) : Nat := 0x2000028 + i * 0x1000 -- R158
def Reg.BGH_INTEN (i : Nat) : Nat := 0x200002c + i * 0x1000 -- R158
def Reg.BGH_SLOT_LO (i j : Nat) : Nat := 0x2000100 + i * 0x1000 + j * 0x8 -- R155
def Reg.BGH_SLOT_HI (i j : Nat) : Nat := 0x2000104 + i * 0x1000 + j * 0x8 -- R155
def Reg.BGH_SEM (i j : Nat) : Nat := 0x2000200 + i * 0x1000 + j * 0x4 -- R156
def Reg.BGH_BAR (i j : Nat) : Nat := 0x2000400 + i * 0x1000 + j * 0x4 -- R156
def Reg.BGH_BARMASK_LO (i j : Nat) : Nat := 0x2000500 + i * 0x1000 + j * 0x8 -- R155
def Reg.BGH_BARMASK_HI (i j : Nat) : Nat := 0x2000504 + i * 0x1000 + j * 0x8 -- R155
def Reg.BGH_MASTAT (i j : Nat) : Nat := 0x2000600 + i * 0x1000 + j * 0x4 -- R193
def Reg.BGH_MAREPLAY (i : Nat) : Nat := 0x2000610 + i * 0x1000 -- R194
def Reg.BGH_MACOLTEST (i : Nat) : Nat := 0x2000614 + i * 0x1000 -- R194
def Reg.BGH_MAFAULT (i : Nat) : Nat := 0x2000618 + i * 0x1000 -- R194
def Reg.BGH_MASKIP (i : Nat) : Nat := 0x200061c + i * 0x1000 -- R194
def Reg.BGH_MAINTSTAT (i : Nat) : Nat := 0x2000620 + i * 0x1000 -- R195
def Reg.BGH_MAINTEN (i : Nat) : Nat := 0x2000624 + i * 0x1000 -- R195
def Reg.BGH_MACTRL (i : Nat) : Nat := 0x2000628 + i * 0x1000 -- R196
def Reg.BGH_PMAP (i : Nat) : Nat := 0x2044000 + i * 0x4 -- R156
def Reg.BGH_CNT_LO (i : Nat) : Nat := 0x2046000 + i * 0x8 -- R155
def Reg.BGH_CNT_HI (i : Nat) : Nat := 0x2046004 + i * 0x8 -- R155
def Reg.THR_STATUS (i : Nat) : Nat := 0x3000000 + i * 0x400 -- R252
def Reg.THR_CHAINS_LO (i : Nat) : Nat := 0x3000008 + i * 0x400 -- R252
def Reg.THR_CHAINS_HI (i : Nat) : Nat := 0x300000c + i * 0x400 -- R252
def Reg.THR_NONFIN_LO (i : Nat) : Nat := 0x3000010 + i * 0x400 -- R252
def Reg.THR_NONFIN_HI (i : Nat) : Nat := 0x3000014 + i * 0x400 -- R252
def Reg.THR_FAULT (i : Nat) : Nat := 0x3000018 + i * 0x400 -- R252
def Reg.THR_INTSTAT (i : Nat) : Nat := 0x300001c + i * 0x400 -- R253
def Reg.THR_INTEN (i : Nat) : Nat := 0x3000020 + i * 0x400 -- R253
def Reg.THR_NUMOVF (i : Nat) : Nat := 0x3000040 + i * 0x400 -- R117
def Reg.THR_NUMNANSQ (i : Nat) : Nat := 0x3000044 + i * 0x400 -- R117
def Reg.THR_NUMFLUSH (i : Nat) : Nat := 0x3000048 + i * 0x400 -- R117
def Reg.THR_NUMSCNAN (i : Nat) : Nat := 0x300004c + i * 0x400 -- R117
def Reg.THR_NUMSTAT (i : Nat) : Nat := 0x3000050 + i * 0x400 -- R118
def Reg.THR_NUMCLR (i : Nat) : Nat := 0x3000054 + i * 0x400 -- R119
def Reg.SKL_MTAB_LO : Nat := 0x4000000 -- R218
def Reg.SKL_MTAB_HI : Nat := 0x4000004 -- R218
def Reg.SKL_NEXT_LO : Nat := 0x4000008 -- R219
def Reg.SKL_NEXT_HI : Nat := 0x400000c -- R219
def Reg.SKL_MODEL : Nat := 0x4000010 -- R218
def Reg.SKL_SWITCHES : Nat := 0x4000014 -- R220
def Reg.SKL_SHADOW : Nat := 0x4000018 -- R220
def Reg.SKL_DIRECT : Nat := 0x400001c -- R220
def Reg.SKL_INTSTAT : Nat := 0x4000020 -- R221
def Reg.SKL_INTEN : Nat := 0x4000024 -- R221
def Reg.LFT_WAYS : Nat := 0x5000000 -- R320
def Reg.LFT_STATUS : Nat := 0x5000004 -- R320
def Reg.LFT_THRASH : Nat := 0x5000008 -- R320
def Reg.LFT_THRCNT : Nat := 0x500000c -- R320
def Reg.LFT_RECLAIMS : Nat := 0x5000010 -- R320
def Reg.LFT_DIVERTS : Nat := 0x5000014 -- R320
def Reg.LFT_REDCTRL : Nat := 0x5000018 -- R320
def Reg.LFT_INTSTAT : Nat := 0x500001c -- R321
def Reg.LFT_INTEN : Nat := 0x5000020 -- R321
def Reg.LFT_NORECLAIM_LO : Nat := 0x5000028 -- R320
def Reg.LFT_NORECLAIM_HI : Nat := 0x500002c -- R320
def Reg.LFT_DIRECT : Nat := 0x5000030 -- R320
def Reg.LFT_NUMOVF (i : Nat) : Nat := 0x5001000 + i * 0x80 -- R117
def Reg.LFT_NUMNANSQ (i : Nat) : Nat := 0x5001004 + i * 0x80 -- R117
def Reg.LFT_NUMFLUSH (i : Nat) : Nat := 0x5001008 + i * 0x80 -- R117
def Reg.LFT_NUMSCNAN (i : Nat) : Nat := 0x500100c + i * 0x80 -- R117
def Reg.LFT_NUMSTAT (i : Nat) : Nat := 0x5001010 + i * 0x80 -- R118
def Reg.LFT_NUMCLR (i : Nat) : Nat := 0x5001014 + i * 0x80 -- R119
def Reg.LFT_HITS (i : Nat) : Nat := 0x5001020 + i * 0x80 -- R320
def Reg.LFT_MISSES (i : Nat) : Nat := 0x5001024 + i * 0x80 -- R320
def Reg.LFT_MERGED (i : Nat) : Nat := 0x5001028 + i * 0x80 -- R320
def Reg.LFT_REDAPPLY (i : Nat) : Nat := 0x500102c + i * 0x80 -- R320
def Reg.LFT_REDRET (i : Nat) : Nat := 0x5001030 + i * 0x80 -- R320
def Reg.LFT_SLSTAT (i : Nat) : Nat := 0x5001034 + i * 0x80 -- R320
def Reg.LFT_OBJBASE_LO : Nat := 0x5008000 -- R292
def Reg.LFT_OBJBASE_HI : Nat := 0x5008004 -- R292
def Reg.LFT_OBJCOUNT : Nat := 0x5008008 -- R292
def Reg.LFT_POOL : Nat := 0x500800c -- R292
def Reg.LFT_POOLFREE : Nat := 0x5008010 -- R292
def Reg.LFT_PROMOTES : Nat := 0x5008014 -- R292
def Reg.LFT_EVICTS : Nat := 0x5008018 -- R292
def Reg.LFT_CANCELS : Nat := 0x500801c -- R292
def Reg.LFT_REFUSALS : Nat := 0x5008020 -- R292
def Reg.LFT_ADDRERR : Nat := 0x5008024 -- R292
def Reg.LFT_PLCINT : Nat := 0x5008028 -- R293
def Reg.LFT_PLCEN : Nat := 0x500802c -- R293
def Reg.LFT_QUOTA (i : Nat) : Nat := 0x5008400 + i * 0x4 -- R292
def Reg.LFT_CHARGE (i : Nat) : Nat := 0x5008800 + i * 0x4 -- R292
def Reg.LFT_STBASE_LO : Nat := 0x5009000 -- R343
def Reg.LFT_STBASE_HI : Nat := 0x5009004 -- R343
def Reg.LFT_STCTRL : Nat := 0x5009008 -- R343
def Reg.LFT_STREGION : Nat := 0x500900c -- R343
def Reg.LFT_STPEER_LO : Nat := 0x5009010 -- R343
def Reg.LFT_STPEER_HI : Nat := 0x5009014 -- R343
def Reg.LFT_STPEERLEN : Nat := 0x5009018 -- R343
def Reg.LFT_STFRAME : Nat := 0x500901c -- R343
def Reg.LFT_STLIVE : Nat := 0x5009020 -- R343
def Reg.LFT_STPEAK : Nat := 0x5009024 -- R343
def Reg.LFT_STSPILLG : Nat := 0x5009028 -- R343
def Reg.LFT_STSPILLP : Nat := 0x500902c -- R343
def Reg.LFT_STDROPS : Nat := 0x5009030 -- R343
def Reg.LFT_STRESTORE : Nat := 0x5009034 -- R343
def Reg.LFT_STEXH : Nat := 0x5009038 -- R343
def Reg.LFT_STINT : Nat := 0x500903c -- R344
def Reg.LFT_STINTEN : Nat := 0x5009040 -- R344
def Reg.LFT_RAKEMAX : Nat := 0x500a000 -- R511
def Reg.LFT_RAKELAP : Nat := 0x500a004 -- R511
def Reg.LFT_RAKELAPS : Nat := 0x500a008 -- R511
def Reg.GRN_GLRATE : Nat := 0x6000000 -- R511
def Reg.GRN_GLADAPT : Nat := 0x6000004 -- R511
def Reg.GRN_GLPASS : Nat := 0x6000008 -- R511
def Reg.GRN_ROWREP : Nat := 0x600000c -- R511
def Reg.GRN_GLNOW (i : Nat) : Nat := 0x6000010 + i * 0x4 -- R511
def Reg.MIL_CTRL : Nat := 0x7000000 -- R403
def Reg.MIL_STATUS : Nat := 0x7000004 -- R403
def Reg.MIL_PTAB_LO : Nat := 0x7000008 -- R403
def Reg.MIL_PTAB_HI : Nat := 0x700000c -- R403
def Reg.MIL_PCOUNT : Nat := 0x7000010 -- R403
def Reg.MIL_GTAB_LO : Nat := 0x7000014 -- R403
def Reg.MIL_GTAB_HI : Nat := 0x7000018 -- R403
def Reg.MIL_GCOUNT : Nat := 0x700001c -- R403
def Reg.MIL_MJTAB_LO : Nat := 0x7000020 -- R403
def Reg.MIL_MJTAB_HI : Nat := 0x7000024 -- R403
def Reg.MIL_LIST_LO : Nat := 0x7000028 -- R403
def Reg.MIL_LIST_HI : Nat := 0x700002c -- R403
def Reg.MIL_ITEM : Nat := 0x7000030 -- R403
def Reg.MIL_GATE : Nat := 0x7000034 -- R403
def Reg.MIL_FENCE : Nat := 0x7000038 -- R403
def Reg.MIL_HOLD : Nat := 0x700003c -- R403
def Reg.MIL_EPOCH_LO : Nat := 0x7000040 -- R403
def Reg.MIL_EPOCH_HI : Nat := 0x7000044 -- R403
def Reg.MIL_BSTAT : Nat := 0x7000048 -- R403
def Reg.MIL_LASTB : Nat := 0x700004c -- R403
def Reg.MIL_CONFLICT : Nat := 0x7000050 -- R403
def Reg.MIL_COMMITS : Nat := 0x7000054 -- R403
def Reg.MIL_DISCARDS : Nat := 0x7000058 -- R403
def Reg.MIL_BLOCKS : Nat := 0x700005c -- R403
def Reg.MIL_FROZSKIP : Nat := 0x7000060 -- R403
def Reg.MIL_HELD : Nat := 0x7000064 -- R403
def Reg.MIL_IDSUB : Nat := 0x7000068 -- R403
def Reg.MIL_HOLDFAULT : Nat := 0x700006c -- R403
def Reg.MIL_FAULT : Nat := 0x7000070 -- R403
def Reg.MIL_INTSTAT : Nat := 0x7000074 -- R404
def Reg.MIL_INTEN : Nat := 0x7000078 -- R404
def Reg.MIL_NUMOVF (i : Nat) : Nat := 0x7000100 + i * 0x20 -- R117
def Reg.MIL_NUMNANSQ (i : Nat) : Nat := 0x7000104 + i * 0x20 -- R117
def Reg.MIL_NUMFLUSH (i : Nat) : Nat := 0x7000108 + i * 0x20 -- R117
def Reg.MIL_NUMSCNAN (i : Nat) : Nat := 0x700010c + i * 0x20 -- R117
def Reg.MIL_NUMSTAT (i : Nat) : Nat := 0x7000110 + i * 0x20 -- R118
def Reg.MIL_NUMCLR (i : Nat) : Nat := 0x7000114 + i * 0x20 -- R119
def Reg.WAN_PBASE_LO : Nat := 0x8000000 -- R358
def Reg.WAN_PBASE_HI : Nat := 0x8000004 -- R358
def Reg.WAN_ITEM : Nat := 0x8000008 -- R358
def Reg.WAN_STATUS : Nat := 0x800000c -- R358
def Reg.WAN_TOKENS : Nat := 0x8000010 -- R358
def Reg.WAN_FALLBACK : Nat := 0x8000014 -- R358
def Reg.WAN_DROPS : Nat := 0x8000018 -- R358
def Reg.WAN_INTSTAT : Nat := 0x800001c -- R358
def Reg.WAN_INTEN : Nat := 0x8000020 -- R358
def Reg.FAB_CTRL : Nat := 0x9000000 -- R457
def Reg.FAB_ID : Nat := 0x9000004 -- R457
def Reg.FAB_PKEY : Nat := 0x9000008 -- R457
def Reg.FAB_FLAG : Nat := 0x900000c -- R457
def Reg.FAB_TTAB_LO : Nat := 0x9000010 -- R457
def Reg.FAB_TTAB_HI : Nat := 0x9000014 -- R457
def Reg.FAB_TCOUNT : Nat := 0x9000018 -- R457
def Reg.FAB_PBAR (i : Nat) : Nat := 0x9000020 + i * 0x4 -- R457
def Reg.FAB_BADKEY : Nat := 0x9000040 -- R457
def Reg.FAB_NOROUTE : Nat := 0x9000044 -- R457
def Reg.FAB_TTLDROP : Nat := 0x9000048 -- R457
def Reg.FAB_BADOP : Nat := 0x900004c -- R457
def Reg.FAB_REFUSED : Nat := 0x9000050 -- R457
def Reg.FAB_INTSTAT : Nat := 0x9000054 -- R458
def Reg.FAB_INTEN : Nat := 0x9000058 -- R458
def Reg.FAB_GROUTE (i : Nat) : Nat := 0x9001000 + i * 0x4 -- R457
def Reg.FAB_MROUTE (i : Nat) : Nat := 0x9002000 + i * 0x4 -- R457
def Reg.FAB_PSTAT (i : Nat) : Nat := 0x9004000 + i * 0x80 -- R457
def Reg.FAB_PEER (i : Nat) : Nat := 0x9004004 + i * 0x80 -- R457
def Reg.FAB_EXPECT (i : Nat) : Nat := 0x9004008 + i * 0x80 -- R457
def Reg.FAB_LANES (i : Nat) : Nat := 0x900400c + i * 0x80 -- R457
def Reg.FAB_STAB_LO (i : Nat) : Nat := 0x9004010 + i * 0x80 -- R457
def Reg.FAB_STAB_HI (i : Nat) : Nat := 0x9004014 + i * 0x80 -- R457
def Reg.FAB_FECCORR (i : Nat) : Nat := 0x9004018 + i * 0x80 -- R457
def Reg.FAB_FECUNC (i : Nat) : Nat := 0x900401c + i * 0x80 -- R457
def Reg.FAB_REPLAY (i : Nat) : Nat := 0x9004020 + i * 0x80 -- R457
def Reg.FAB_CRCERR (i : Nat) : Nat := 0x9004024 + i * 0x80 -- R457
def Reg.FAB_TAGERR (i : Nat) : Nat := 0x9004028 + i * 0x80 -- R457
def Reg.FAB_SLOTMISS (i : Nat) : Nat := 0x900402c + i * 0x80 -- R457
def Reg.FAB_ADMITS (i : Nat) : Nat := 0x9004030 + i * 0x80 -- R457
def Reg.FAB_STRANGER (i : Nat) : Nat := 0x9004034 + i * 0x80 -- R457
def Reg.FLR_CFG : Nat := 0xa000000 -- R491
def Reg.FLR_STATUS : Nat := 0xa000004 -- R491
def Reg.FLR_RANGE : Nat := 0xa000008 -- R491
def Reg.FLR_NTEL : Nat := 0xa00000c -- R491
def Reg.FLR_HOLD : Nat := 0xa000010 -- R491
def Reg.FLR_MEMBERS (i : Nat) : Nat := 0xa000020 + i * 0x4 -- R491
def Reg.FLR_BEACONS : Nat := 0xa000040 -- R491
def Reg.FLR_BEACONMISS : Nat := 0xa000044 -- R491
def Reg.FLR_COLLIDE : Nat := 0xa000048 -- R491
def Reg.FLR_CRCERR : Nat := 0xa00004c -- R491
def Reg.FLR_STRANGER : Nat := 0xa000050 -- R491
def Reg.FLR_JOINREF : Nat := 0xa000054 -- R491
def Reg.FLR_INTSTAT : Nat := 0xa000058 -- R492
def Reg.FLR_INTEN : Nat := 0xa00005c -- R492
def Reg.HSK_CTRL : Nat := 0xb000000 -- R569
def Reg.HSK_PLIM : Nat := 0xb000004 -- R569
def Reg.HSK_STATUS : Nat := 0xb000008 -- R569
def Reg.HSK_LEVEL : Nat := 0xb00000c -- R569
def Reg.HSK_GRNLEVEL : Nat := 0xb000010 -- R569
def Reg.HSK_POWER : Nat := 0xb000014 -- R569
def Reg.HSK_EXCREDIT : Nat := 0xb000018 -- R569
def Reg.HSK_HOTTEST : Nat := 0xb00001c -- R569
def Reg.HSK_LAYERFLT : Nat := 0xb000020 -- R569
def Reg.HSK_ROUNDS : Nat := 0xb000024 -- R569
def Reg.HSK_SKIP_LO : Nat := 0xb000028 -- R569
def Reg.HSK_SKIP_HI : Nat := 0xb00002c -- R569
def Reg.HSK_INTSTAT : Nat := 0xb000030 -- R570
def Reg.HSK_INTEN : Nat := 0xb000034 -- R570
def Reg.HSK_LMODEL (i : Nat) : Nat := 0xb000040 + i * 0x4 -- R569
def Reg.HSK_CH (i : Nat) : Nat := 0xb000100 + i * 0x4 -- R569
def Reg.RST_CAUSE : Nat := 0xc000000 -- R551
def Reg.RST_STATUS : Nat := 0xc000004 -- R551
def Reg.RST_OPTIONS : Nat := 0xc000008 -- R551
def Reg.RST_FAILCNT : Nat := 0xc00000c -- R551
def Reg.RST_READY : Nat := 0xc000010 -- R551
def Reg.RST_SEEDERR : Nat := 0xc000014 -- R551
def Reg.RST_PARTIAL : Nat := 0xc000018 -- R551
def Reg.RST_PARTSTAT : Nat := 0xc00001c -- R551
def Reg.RST_QUIESCE : Nat := 0xc000020 -- R551
def Reg.RST_FUSE : Nat := 0xc000024 -- R551
def Reg.RST_MGMTREF : Nat := 0xc000028 -- R551
def Reg.RST_INTSTAT : Nat := 0xc00002c -- R552
def Reg.RST_INTEN : Nat := 0xc000030 -- R552
def Reg.INT_CTRL : Nat := 0xd000000 -- R511
def Reg.INT_STATUS : Nat := 0xd000004 -- R511
def Reg.INT_FLIPCRB : Nat := 0xd000008 -- R511
def Reg.INT_FLIPLFT : Nat := 0xd00000c -- R511
def Reg.INT_FLIPGRN : Nat := 0xd000010 -- R511
def Reg.INT_SPARES : Nat := 0xd000014 -- R511
def Reg.INT_POLICY : Nat := 0xd000018 -- R511
def Reg.INT_CORRCRB : Nat := 0xd000020 -- R511
def Reg.INT_CORRLFT : Nat := 0xd000024 -- R511
def Reg.INT_CORRGRN : Nat := 0xd000028 -- R511
def Reg.INT_UNCCRB : Nat := 0xd00002c -- R511
def Reg.INT_UNCLFT : Nat := 0xd000030 -- R511
def Reg.INT_UNCGRN : Nat := 0xd000034 -- R511
def Reg.INT_UNINIT : Nat := 0xd000038 -- R511
def Reg.INT_REFILL : Nat := 0xd00003c -- R511
def Reg.INT_REPAIRS : Nat := 0xd000040 -- R511
def Reg.INT_LOGCOUNT_LO : Nat := 0xd000044 -- R511
def Reg.INT_LOGCOUNT_HI : Nat := 0xd000048 -- R511
def Reg.INT_INTSTAT : Nat := 0xd00004c -- R512
def Reg.INT_INTEN : Nat := 0xd000050 -- R512
def Reg.INT_LOG (i j : Nat) : Nat := 0xd010000 + i * 0x40 + j * 0x4 -- R509
def Reg.FWM_CTRL : Nat := 0xf000000 -- R594
def Reg.FWM_STATUS : Nat := 0xf000004 -- R594
def Reg.FWM_GRAFTCFG : Nat := 0xf000008 -- R594
def Reg.FWM_VERSION : Nat := 0xf00000c -- R594
def Reg.FWM_SCION : Nat := 0xf000010 -- R594
def Reg.FWM_SVN : Nat := 0xf000014 -- R594
def Reg.FWM_FLOOR : Nat := 0xf000018 -- R594
def Reg.FWM_SIGNEXT_LO : Nat := 0xf000020 -- R594
def Reg.FWM_SIGNEXT_HI : Nat := 0xf000024 -- R594
def Reg.FWM_SIGRES_LO : Nat := 0xf000028 -- R594
def Reg.FWM_SIGRES_HI : Nat := 0xf00002c -- R594
def Reg.FWM_LOGCOUNT : Nat := 0xf000030 -- R594
def Reg.FWM_GRAFTS : Nat := 0xf000034 -- R594
def Reg.FWM_FALLBACKS : Nat := 0xf000038 -- R594
def Reg.FWM_INTSTAT : Nat := 0xf00003c -- R595
def Reg.FWM_INTEN : Nat := 0xf000040 -- R595
def Reg.FWM_CHAIN (i : Nat) : Nat := 0xf000080 + i * 0x4 -- R594

/-! The fields of the registers, by the manual's names. -/

def Fld.HST_CTRL_LOGEN : Fld := ⟨0, 0⟩
def Fld.HST_STATUS_JOB : Fld := ⟨2, 2⟩
def Fld.HST_STATUS_DORMANT : Fld := ⟨1, 1⟩
def Fld.HST_STATUS_ACCEPTING : Fld := ⟨0, 0⟩
def Fld.HST_LOGBASE_LO_ADDR : Fld := ⟨31, 12⟩
def Fld.HST_LOGSIZE_ORDER : Fld := ⟨4, 0⟩
def Fld.HST_WIN_PAGE : Fld := ⟨15, 0⟩
def Fld.HST_INFLIGHT_COUNT : Fld := ⟨12, 0⟩
def Fld.HST_INTSTAT_LOGERR : Fld := ⟨2, 2⟩
def Fld.HST_INTSTAT_DEADREG : Fld := ⟨1, 1⟩
def Fld.HST_INTSTAT_BADACCESS : Fld := ⟨0, 0⟩
def Fld.HST_INTEN_EN : Fld := ⟨2, 0⟩
def Fld.HST_IRQPEND_VEC : Fld := ⟨13, 1⟩
def Fld.FRM_CTRL_SLIPLIM : Fld := ⟨23, 16⟩
def Fld.FRM_CTRL_PERIOD : Fld := ⟨8, 0⟩
def Fld.FRM_STATUS_CLASS : Fld := ⟨6, 5⟩
def Fld.FRM_STATUS_SLIPFRAME : Fld := ⟨4, 4⟩
def Fld.FRM_STATUS_HOLDOVER : Fld := ⟨3, 3⟩
def Fld.FRM_STATUS_JOINED : Fld := ⟨2, 2⟩
def Fld.FRM_STATUS_LEADER : Fld := ⟨1, 1⟩
def Fld.FRM_STATUS_TICKING : Fld := ⟨0, 0⟩
def Fld.FRM_COUNT_HI_COUNT : Fld := ⟨15, 0⟩
def Fld.FRM_SLOTS_GUARD : Fld := ⟨28, 20⟩
def Fld.FRM_SLOTS_WORKSLOTS : Fld := ⟨19, 10⟩
def Fld.FRM_SLOTS_COUNT : Fld := ⟨9, 0⟩
def Fld.FRM_SLIPWIN_WIN : Fld := ⟨7, 0⟩
def Fld.FRM_INTSTAT_EXIT : Fld := ⟨5, 5⟩
def Fld.FRM_INTSTAT_DEGRADED : Fld := ⟨4, 4⟩
def Fld.FRM_INTSTAT_HOLDOVER : Fld := ⟨3, 3⟩
def Fld.FRM_INTSTAT_LATESLIP : Fld := ⟨2, 2⟩
def Fld.FRM_INTSTAT_SLIPRUN : Fld := ⟨1, 1⟩
def Fld.FRM_INTSTAT_SLIP : Fld := ⟨0, 0⟩
def Fld.FRM_INTEN_EN : Fld := ⟨5, 0⟩
def Fld.BGH_CTRL_PREEMPT : Fld := ⟨0, 0⟩
def Fld.BGH_STATUS_SBOCC : Fld := ⟨22, 16⟩
def Fld.BGH_STATUS_PRESENTED : Fld := ⟨14, 8⟩
def Fld.BGH_STATUS_FAILED : Fld := ⟨4, 4⟩
def Fld.BGH_STATUS_STOPPED : Fld := ⟨3, 3⟩
def Fld.BGH_STATUS_BARWAIT : Fld := ⟨2, 2⟩
def Fld.BGH_STATUS_SEMWAIT : Fld := ⟨1, 1⟩
def Fld.BGH_STATUS_ACTIVE : Fld := ⟨0, 0⟩
def Fld.BGH_PBASE_HI_ADDR : Fld := ⟨7, 0⟩
def Fld.BGH_ITEM_INDEX : Fld := ⟨15, 0⟩
def Fld.BGH_INTSTAT_SUBST : Fld := ⟨5, 5⟩
def Fld.BGH_INTSTAT_FAILSTOP : Fld := ⟨4, 4⟩
def Fld.BGH_INTSTAT_ITEMERR : Fld := ⟨3, 3⟩
def Fld.BGH_INTSTAT_BARMIS : Fld := ⟨2, 2⟩
def Fld.BGH_INTSTAT_SEMOVF : Fld := ⟨1, 1⟩
def Fld.BGH_INTSTAT_STOPPED : Fld := ⟨0, 0⟩
def Fld.BGH_INTEN_EN : Fld := ⟨5, 0⟩
def Fld.BGH_SEM_COUNT : Fld := ⟨23, 0⟩
def Fld.BGH_BAR_ARRIVED : Fld := ⟨7, 1⟩
def Fld.BGH_BAR_GEN : Fld := ⟨0, 0⟩
def Fld.BGH_MASTAT_NARROWCOL : Fld := ⟨31, 24⟩
def Fld.BGH_MASTAT_BYPASSCOL : Fld := ⟨23, 16⟩
def Fld.BGH_MASTAT_WIDTH : Fld := ⟨15, 8⟩
def Fld.BGH_MASTAT_RETIRED : Fld := ⟨2, 2⟩
def Fld.BGH_MASTAT_NARROW : Fld := ⟨1, 1⟩
def Fld.BGH_MASTAT_SPARE : Fld := ⟨0, 0⟩
def Fld.BGH_MAINTSTAT_DISPUTE : Fld := ⟨5, 5⟩
def Fld.BGH_MAINTSTAT_FAULT : Fld := ⟨4, 4⟩
def Fld.BGH_MAINTSTAT_RETIRE : Fld := ⟨3, 3⟩
def Fld.BGH_MAINTSTAT_NARROW : Fld := ⟨2, 2⟩
def Fld.BGH_MAINTSTAT_BYPASS : Fld := ⟨1, 1⟩
def Fld.BGH_MAINTSTAT_REPLAY : Fld := ⟨0, 0⟩
def Fld.BGH_MAINTEN_EN : Fld := ⟨5, 0⟩
def Fld.BGH_MACTRL_INJECT : Fld := ⟨7, 4⟩
def Fld.BGH_MACTRL_COLTEST : Fld := ⟨3, 0⟩
def Fld.BGH_PMAP_PHYS : Fld := ⟨6, 0⟩
def Fld.THR_STATUS_NSTAGE : Fld := ⟨4, 1⟩
def Fld.THR_STATUS_BUSY : Fld := ⟨0, 0⟩
def Fld.THR_INTSTAT_FAULT : Fld := ⟨2, 2⟩
def Fld.THR_INTSTAT_BLIGHT : Fld := ⟨1, 1⟩
def Fld.THR_INTSTAT_NONFIN : Fld := ⟨0, 0⟩
def Fld.THR_INTEN_EN : Fld := ⟨2, 0⟩
def Fld.THR_NUMSTAT_SCNAN : Fld := ⟨3, 3⟩
def Fld.THR_NUMSTAT_FLUSH : Fld := ⟨2, 2⟩
def Fld.THR_NUMSTAT_NANSQ : Fld := ⟨1, 1⟩
def Fld.THR_NUMSTAT_OVF : Fld := ⟨0, 0⟩
def Fld.THR_NUMCLR_CLR : Fld := ⟨3, 0⟩
def Fld.SKL_MTAB_HI_ADDR : Fld := ⟨7, 0⟩
def Fld.SKL_NEXT_LO_ADDR : Fld := ⟨31, 12⟩
def Fld.SKL_NEXT_LO_ARMED : Fld := ⟨0, 0⟩
def Fld.SKL_NEXT_HI_ADDR : Fld := ⟨7, 0⟩
def Fld.SKL_INTSTAT_TABERR : Fld := ⟨4, 4⟩
def Fld.SKL_INTSTAT_DIRECT : Fld := ⟨3, 3⟩
def Fld.SKL_INTSTAT_SHADOW : Fld := ⟨2, 2⟩
def Fld.SKL_INTSTAT_SWCONF : Fld := ⟨1, 1⟩
def Fld.SKL_INTSTAT_SWITCH : Fld := ⟨0, 0⟩
def Fld.SKL_INTEN_EN : Fld := ⟨4, 0⟩
def Fld.LFT_WAYS_DIRECT : Fld := ⟨14, 10⟩
def Fld.LFT_WAYS_PIN : Fld := ⟨9, 5⟩
def Fld.LFT_WAYS_CACHE : Fld := ⟨4, 0⟩
def Fld.LFT_STATUS_MAPPED : Fld := ⟨7, 0⟩
def Fld.LFT_THRASH_RECLAIM : Fld := ⟨31, 31⟩
def Fld.LFT_THRASH_YOUNG : Fld := ⟨23, 16⟩
def Fld.LFT_THRASH_LIMIT : Fld := ⟨15, 0⟩
def Fld.LFT_REDCTRL_STALLFR : Fld := ⟨7, 0⟩
def Fld.LFT_INTSTAT_MAPOUT : Fld := ⟨4, 4⟩
def Fld.LFT_INTSTAT_DIVERT : Fld := ⟨3, 3⟩
def Fld.LFT_INTSTAT_REDSTALL : Fld := ⟨2, 2⟩
def Fld.LFT_INTSTAT_RECLAIM : Fld := ⟨1, 1⟩
def Fld.LFT_INTSTAT_THRASH : Fld := ⟨0, 0⟩
def Fld.LFT_INTEN_EN : Fld := ⟨4, 0⟩
def Fld.LFT_DIRECT_WAYS : Fld := ⟨4, 0⟩
def Fld.LFT_NUMSTAT_SCNAN : Fld := ⟨3, 3⟩
def Fld.LFT_NUMSTAT_FLUSH : Fld := ⟨2, 2⟩
def Fld.LFT_NUMSTAT_NANSQ : Fld := ⟨1, 1⟩
def Fld.LFT_NUMSTAT_OVF : Fld := ⟨0, 0⟩
def Fld.LFT_NUMCLR_CLR : Fld := ⟨3, 0⟩
def Fld.LFT_SLSTAT_LAYER : Fld := ⟨13, 12⟩
def Fld.LFT_SLSTAT_MAPPED : Fld := ⟨11, 11⟩
def Fld.LFT_SLSTAT_MISSOCC : Fld := ⟨8, 0⟩
def Fld.LFT_OBJBASE_LO_ADDR : Fld := ⟨31, 22⟩
def Fld.LFT_OBJBASE_HI_ADDR : Fld := ⟨7, 0⟩
def Fld.LFT_OBJCOUNT_COUNT : Fld := ⟨16, 0⟩
def Fld.LFT_POOL_LINES : Fld := ⟨20, 0⟩
def Fld.LFT_POOLFREE_LINES : Fld := ⟨20, 0⟩
def Fld.LFT_PLCINT_ADDRERR : Fld := ⟨3, 3⟩
def Fld.LFT_PLCINT_REFUSE : Fld := ⟨2, 2⟩
def Fld.LFT_PLCINT_CANCEL : Fld := ⟨1, 1⟩
def Fld.LFT_PLCINT_EVICT : Fld := ⟨0, 0⟩
def Fld.LFT_PLCEN_EN : Fld := ⟨3, 0⟩
def Fld.LFT_QUOTA_LINES : Fld := ⟨23, 0⟩
def Fld.LFT_CHARGE_LINES : Fld := ⟨23, 0⟩
def Fld.LFT_STBASE_LO_ADDR : Fld := ⟨31, 5⟩
def Fld.LFT_STBASE_HI_ADDR : Fld := ⟨7, 0⟩
def Fld.LFT_STCTRL_AHEAD : Fld := ⟨19, 16⟩
def Fld.LFT_STCTRL_COUNT : Fld := ⟨12, 0⟩
def Fld.LFT_STREGION_VALID : Fld := ⟨31, 31⟩
def Fld.LFT_STREGION_OBJ : Fld := ⟨15, 0⟩
def Fld.LFT_STPEERLEN_LINES : Fld := ⟨23, 0⟩
def Fld.LFT_STFRAME_FRAME : Fld := ⟨15, 0⟩
def Fld.LFT_STLIVE_LINES : Fld := ⟨20, 0⟩
def Fld.LFT_STPEAK_LINES : Fld := ⟨20, 0⟩
def Fld.LFT_STEXH_VALID : Fld := ⟨31, 31⟩
def Fld.LFT_STEXH_NOSPACE : Fld := ⟨28, 28⟩
def Fld.LFT_STEXH_BLOCKER : Fld := ⟨27, 16⟩
def Fld.LFT_STEXH_ENTRY : Fld := ⟨11, 0⟩
def Fld.LFT_STINT_EXHAUST : Fld := ⟨3, 3⟩
def Fld.LFT_STINT_DROP : Fld := ⟨2, 2⟩
def Fld.LFT_STINT_SPILLP : Fld := ⟨1, 1⟩
def Fld.LFT_STINT_SPILL : Fld := ⟨0, 0⟩
def Fld.LFT_STINTEN_EN : Fld := ⟨3, 0⟩
def Fld.GRN_GLRATE_HOURS : Fld := ⟨7, 0⟩
def Fld.GRN_GLADAPT_UP : Fld := ⟨31, 16⟩
def Fld.GRN_GLADAPT_DOWN : Fld := ⟨15, 0⟩
def Fld.GRN_GLNOW_HOURS : Fld := ⟨7, 0⟩
def Fld.MIL_CTRL_FSTALL : Fld := ⟨7, 0⟩
def Fld.MIL_STATUS_NOPEN : Fld := ⟨7, 6⟩
def Fld.MIL_STATUS_FENCEWAIT : Fld := ⟨5, 5⟩
def Fld.MIL_STATUS_REGEN : Fld := ⟨4, 4⟩
def Fld.MIL_STATUS_HORIZON : Fld := ⟨3, 3⟩
def Fld.MIL_STATUS_DRY : Fld := ⟨2, 2⟩
def Fld.MIL_STATUS_GATED : Fld := ⟨1, 1⟩
def Fld.MIL_STATUS_BUSY : Fld := ⟨0, 0⟩
def Fld.MIL_PTAB_LO_ADDR : Fld := ⟨31, 6⟩
def Fld.MIL_PTAB_HI_ADDR : Fld := ⟨7, 0⟩
def Fld.MIL_PCOUNT_COUNT : Fld := ⟨16, 0⟩
def Fld.MIL_GTAB_LO_ADDR : Fld := ⟨31, 6⟩
def Fld.MIL_GTAB_HI_ADDR : Fld := ⟨7, 0⟩
def Fld.MIL_GCOUNT_COUNT : Fld := ⟨8, 0⟩
def Fld.MIL_MJTAB_LO_ADDR : Fld := ⟨31, 5⟩
def Fld.MIL_MJTAB_HI_ADDR : Fld := ⟨7, 0⟩
def Fld.MIL_LIST_LO_ADDR : Fld := ⟨31, 5⟩
def Fld.MIL_LIST_HI_ADDR : Fld := ⟨7, 0⟩
def Fld.MIL_ITEM_INDEX : Fld := ⟨11, 0⟩
def Fld.MIL_GATE_HORIZON : Fld := ⟨31, 28⟩
def Fld.MIL_GATE_RTEN : Fld := ⟨26, 26⟩
def Fld.MIL_GATE_RTCNT : Fld := ⟨25, 16⟩
def Fld.MIL_GATE_CFRAME : Fld := ⟨15, 0⟩
def Fld.MIL_FENCE_EPCNT : Fld := ⟨29, 20⟩
def Fld.MIL_FENCE_FENCE1 : Fld := ⟨19, 10⟩
def Fld.MIL_FENCE_FENCE0 : Fld := ⟨9, 0⟩
def Fld.MIL_HOLD_VALID : Fld := ⟨31, 31⟩
def Fld.MIL_HOLD_OBJ : Fld := ⟨15, 0⟩
def Fld.MIL_BSTAT_SOURCES : Fld := ⟨7, 0⟩
def Fld.MIL_LASTB_VALID : Fld := ⟨31, 31⟩
def Fld.MIL_LASTB_DISCARD : Fld := ⟨30, 30⟩
def Fld.MIL_LASTB_SOURCES : Fld := ⟨7, 0⟩
def Fld.MIL_CONFLICT_RECB : Fld := ⟨31, 16⟩
def Fld.MIL_CONFLICT_RECA : Fld := ⟨15, 0⟩
def Fld.MIL_INTSTAT_ERR : Fld := ⟨7, 7⟩
def Fld.MIL_INTSTAT_FENCESTALL : Fld := ⟨6, 6⟩
def Fld.MIL_INTSTAT_LATEBLIGHT : Fld := ⟨5, 5⟩
def Fld.MIL_INTSTAT_HOLDFAULT : Fld := ⟨4, 4⟩
def Fld.MIL_INTSTAT_FAULT : Fld := ⟨3, 3⟩
def Fld.MIL_INTSTAT_IDSUB : Fld := ⟨2, 2⟩
def Fld.MIL_INTSTAT_DISCARD : Fld := ⟨1, 1⟩
def Fld.MIL_INTSTAT_COMMIT : Fld := ⟨0, 0⟩
def Fld.MIL_INTEN_EN : Fld := ⟨7, 0⟩
def Fld.MIL_NUMSTAT_SCNAN : Fld := ⟨3, 3⟩
def Fld.MIL_NUMSTAT_FLUSH : Fld := ⟨2, 2⟩
def Fld.MIL_NUMSTAT_NANSQ : Fld := ⟨1, 1⟩
def Fld.MIL_NUMSTAT_OVF : Fld := ⟨0, 0⟩
def Fld.MIL_NUMCLR_CLR : Fld := ⟨3, 0⟩
def Fld.WAN_PBASE_LO_ADDR : Fld := ⟨31, 6⟩
def Fld.WAN_PBASE_HI_ADDR : Fld := ⟨7, 0⟩
def Fld.WAN_ITEM_INDEX : Fld := ⟨11, 0⟩
def Fld.WAN_STATUS_GATED : Fld := ⟨1, 1⟩
def Fld.WAN_STATUS_BUSY : Fld := ⟨0, 0⟩
def Fld.WAN_INTSTAT_ERR : Fld := ⟨2, 2⟩
def Fld.WAN_INTSTAT_DROP : Fld := ⟨1, 1⟩
def Fld.WAN_INTSTAT_FALLBACK : Fld := ⟨0, 0⟩
def Fld.WAN_INTEN_EN : Fld := ⟨2, 0⟩
def Fld.FAB_CTRL_ENC : Fld := ⟨0, 0⟩
def Fld.FAB_ID_ID : Fld := ⟨17, 0⟩
def Fld.FAB_PKEY_PKEY : Fld := ⟨15, 0⟩
def Fld.FAB_FLAG_GATEWAY : Fld := ⟨31, 31⟩
def Fld.FAB_FLAG_ROOT : Fld := ⟨30, 30⟩
def Fld.FAB_FLAG_PARENT : Fld := ⟨28, 24⟩
def Fld.FAB_FLAG_CHILDREN : Fld := ⟨23, 0⟩
def Fld.FAB_TTAB_LO_ADDR : Fld := ⟨31, 6⟩
def Fld.FAB_TTAB_HI_ADDR : Fld := ⟨7, 0⟩
def Fld.FAB_TCOUNT_COUNT : Fld := ⟨6, 0⟩
def Fld.FAB_PBAR_VALID : Fld := ⟨31, 31⟩
def Fld.FAB_PBAR_ARRCNT : Fld := ⟨25, 16⟩
def Fld.FAB_PBAR_SEM : Fld := ⟨13, 7⟩
def Fld.FAB_INTSTAT_REFUSED : Fld := ⟨7, 7⟩
def Fld.FAB_INTSTAT_MAILBOX : Fld := ⟨6, 6⟩
def Fld.FAB_INTSTAT_TREEERR : Fld := ⟨5, 5⟩
def Fld.FAB_INTSTAT_STRANGER : Fld := ⟨4, 4⟩
def Fld.FAB_INTSTAT_ADMITFAIL : Fld := ⟨3, 3⟩
def Fld.FAB_INTSTAT_FAILOVER : Fld := ⟨2, 2⟩
def Fld.FAB_INTSTAT_LINKDOWN : Fld := ⟨1, 1⟩
def Fld.FAB_INTSTAT_LINKUP : Fld := ⟨0, 0⟩
def Fld.FAB_INTEN_EN : Fld := ⟨7, 0⟩
def Fld.FAB_GROUTE_VALID : Fld := ⟨7, 7⟩
def Fld.FAB_GROUTE_PORT : Fld := ⟨4, 0⟩
def Fld.FAB_MROUTE_VALID : Fld := ⟨7, 7⟩
def Fld.FAB_MROUTE_PORT : Fld := ⟨4, 0⟩
def Fld.FAB_PSTAT_REASON : Fld := ⟨23, 20⟩
def Fld.FAB_PSTAT_ENC : Fld := ⟨15, 15⟩
def Fld.FAB_PSTAT_HALF : Fld := ⟨14, 14⟩
def Fld.FAB_PSTAT_SPARE : Fld := ⟨13, 13⟩
def Fld.FAB_PSTAT_STATE : Fld := ⟨2, 0⟩
def Fld.FAB_PEER_VALID : Fld := ⟨31, 31⟩
def Fld.FAB_PEER_DEVICE : Fld := ⟨17, 0⟩
def Fld.FAB_EXPECT_VALID : Fld := ⟨31, 31⟩
def Fld.FAB_EXPECT_DEVICE : Fld := ⟨17, 0⟩
def Fld.FAB_LANES_SPARELANE : Fld := ⟨12, 9⟩
def Fld.FAB_LANES_FAILED : Fld := ⟨8, 0⟩
def Fld.FAB_STAB_LO_ADDR : Fld := ⟨31, 6⟩
def Fld.FAB_STAB_HI_ADDR : Fld := ⟨7, 0⟩
def Fld.FLR_CFG_SEGMENT : Fld := ⟨31, 16⟩
def Fld.FLR_CFG_FIDX : Fld := ⟨15, 8⟩
def Fld.FLR_CFG_LRANK : Fld := ⟨7, 0⟩
def Fld.FLR_STATUS_REASON : Fld := ⟨31, 28⟩
def Fld.FLR_STATUS_NMEM : Fld := ⟨27, 19⟩
def Fld.FLR_STATUS_LEADER : Fld := ⟨18, 11⟩
def Fld.FLR_STATUS_STATE : Fld := ⟨10, 8⟩
def Fld.FLR_RANGE_DELAY : Fld := ⟨11, 0⟩
def Fld.FLR_NTEL_NTEL : Fld := ⟨9, 0⟩
def Fld.FLR_HOLD_FRAMES : Fld := ⟨12, 0⟩
def Fld.FLR_INTSTAT_STRANGER : Fld := ⟨4, 4⟩
def Fld.FLR_INTSTAT_MEMBERLOST : Fld := ⟨3, 3⟩
def Fld.FLR_INTSTAT_LEADER : Fld := ⟨2, 2⟩
def Fld.FLR_INTSTAT_REFUSED : Fld := ⟨1, 1⟩
def Fld.FLR_INTSTAT_JOINED : Fld := ⟨0, 0⟩
def Fld.FLR_INTEN_EN : Fld := ⟨4, 0⟩
def Fld.HSK_CTRL_ONSET : Fld := ⟨7, 0⟩
def Fld.HSK_PLIM_WATTS : Fld := ⟨11, 0⟩
def Fld.HSK_STATUS_EXCUR : Fld := ⟨4, 4⟩
def Fld.HSK_STATUS_SUSPECT : Fld := ⟨3, 0⟩
def Fld.HSK_LEVEL_ROOT : Fld := ⟨28, 24⟩
def Fld.HSK_LEVEL_LOFT : Fld := ⟨20, 16⟩
def Fld.HSK_LEVEL_CROWN : Fld := ⟨12, 8⟩
def Fld.HSK_LEVEL_PWR : Fld := ⟨3, 0⟩
def Fld.HSK_POWER_MEASURED : Fld := ⟨31, 16⟩
def Fld.HSK_POWER_PROJECTED : Fld := ⟨15, 0⟩
def Fld.HSK_EXCREDIT_US : Fld := ⟨13, 0⟩
def Fld.HSK_HOTTEST_CHANNEL : Fld := ⟨24, 16⟩
def Fld.HSK_HOTTEST_TEMP : Fld := ⟨15, 0⟩
def Fld.HSK_LAYERFLT_VALID : Fld := ⟨31, 31⟩
def Fld.HSK_LAYERFLT_LAYER : Fld := ⟨6, 5⟩
def Fld.HSK_LAYERFLT_SITE : Fld := ⟨4, 0⟩
def Fld.HSK_INTSTAT_CRITICAL : Fld := ⟨7, 7⟩
def Fld.HSK_INTSTAT_EXCURSION : Fld := ⟨6, 6⟩
def Fld.HSK_INTSTAT_CLKFAULT : Fld := ⟨5, 5⟩
def Fld.HSK_INTSTAT_RAIL : Fld := ⟨4, 4⟩
def Fld.HSK_INTSTAT_LAYERFAULT : Fld := ⟨3, 3⟩
def Fld.HSK_INTSTAT_SUSPECT : Fld := ⟨2, 2⟩
def Fld.HSK_INTSTAT_PWRSKIP : Fld := ⟨1, 1⟩
def Fld.HSK_INTSTAT_THROTTLE : Fld := ⟨0, 0⟩
def Fld.HSK_INTEN_EN : Fld := ⟨7, 0⟩
def Fld.HSK_LMODEL_SENSOR : Fld := ⟨31, 16⟩
def Fld.HSK_LMODEL_MODEL : Fld := ⟨15, 0⟩
def Fld.HSK_CH_VALID : Fld := ⟨17, 17⟩
def Fld.HSK_CH_SUSPECT : Fld := ⟨16, 16⟩
def Fld.HSK_CH_VALUE : Fld := ⟨15, 0⟩
def Fld.RST_CAUSE_TRIPPED : Fld := ⟨16, 16⟩
def Fld.RST_CAUSE_REASON : Fld := ⟨15, 8⟩
def Fld.RST_CAUSE_CAUSE : Fld := ⟨3, 0⟩
def Fld.RST_STATUS_LAYERRST : Fld := ⟨19, 16⟩
def Fld.RST_STATUS_PHASE : Fld := ⟨11, 8⟩
def Fld.RST_STATUS_STATE : Fld := ⟨2, 0⟩
def Fld.RST_OPTIONS_WDOG : Fld := ⟨15, 8⟩
def Fld.RST_OPTIONS_INITMODE : Fld := ⟨4, 4⟩
def Fld.RST_OPTIONS_FAILLIM : Fld := ⟨2, 0⟩
def Fld.RST_FAILCNT_COUNT : Fld := ⟨11, 8⟩
def Fld.RST_FAILCNT_LASTREASON : Fld := ⟨7, 0⟩
def Fld.RST_SEEDERR_VALID : Fld := ⟨31, 31⟩
def Fld.RST_SEEDERR_REASON : Fld := ⟨30, 24⟩
def Fld.RST_SEEDERR_TYPE : Fld := ⟨23, 16⟩
def Fld.RST_SEEDERR_OFFSET : Fld := ⟨15, 0⟩
def Fld.RST_PARTIAL_KIND : Fld := ⟨31, 28⟩
def Fld.RST_PARTIAL_TARGET : Fld := ⟨7, 0⟩
def Fld.RST_PARTSTAT_KIND : Fld := ⟨31, 28⟩
def Fld.RST_PARTSTAT_RESULT : Fld := ⟨27, 24⟩
def Fld.RST_PARTSTAT_TARGET : Fld := ⟨7, 0⟩
def Fld.RST_QUIESCE_FRAMES : Fld := ⟨7, 0⟩
def Fld.RST_FUSE_NOCONSOLE : Fld := ⟨14, 14⟩
def Fld.RST_FUSE_JTAG : Fld := ⟨13, 13⟩
def Fld.RST_FUSE_EDIS : Fld := ⟨12, 5⟩
def Fld.RST_FUSE_SPISLOW : Fld := ⟨4, 4⟩
def Fld.RST_FUSE_REFEXT : Fld := ⟨3, 3⟩
def Fld.RST_FUSE_LANEREV : Fld := ⟨2, 2⟩
def Fld.RST_FUSE_PERSTMODE : Fld := ⟨1, 0⟩
def Fld.RST_INTSTAT_MGMT : Fld := ⟨5, 5⟩
def Fld.RST_INTSTAT_WAKE : Fld := ⟨4, 4⟩
def Fld.RST_INTSTAT_FALLOW : Fld := ⟨3, 3⟩
def Fld.RST_INTSTAT_PARTREF : Fld := ⟨2, 2⟩
def Fld.RST_INTSTAT_PARTDONE : Fld := ⟨1, 1⟩
def Fld.RST_INTSTAT_READY : Fld := ⟨0, 0⟩
def Fld.RST_INTEN_EN : Fld := ⟨5, 0⟩
def Fld.INT_CTRL_LOGCORR : Fld := ⟨0, 0⟩
def Fld.INT_STATUS_EXITING : Fld := ⟨3, 3⟩
def Fld.INT_STATUS_SERVICE : Fld := ⟨2, 2⟩
def Fld.INT_STATUS_FILLED : Fld := ⟨1, 1⟩
def Fld.INT_STATUS_INITMODE : Fld := ⟨0, 0⟩
def Fld.INT_FLIPCRB_ARM : Fld := ⟨31, 31⟩
def Fld.INT_FLIPCRB_BOUGH : Fld := ⟨30, 24⟩
def Fld.INT_FLIPCRB_POS2 : Fld := ⟨23, 16⟩
def Fld.INT_FLIPCRB_POS1 : Fld := ⟨15, 8⟩
def Fld.INT_FLIPLFT_ARM : Fld := ⟨31, 31⟩
def Fld.INT_FLIPLFT_LPAR : Fld := ⟨30, 30⟩
def Fld.INT_FLIPLFT_LAYER : Fld := ⟨29, 28⟩
def Fld.INT_FLIPLFT_SLICE : Fld := ⟨27, 22⟩
def Fld.INT_FLIPLFT_POS2 : Fld := ⟨21, 14⟩
def Fld.INT_FLIPLFT_POS1 : Fld := ⟨13, 6⟩
def Fld.INT_FLIPGRN_ARM : Fld := ⟨31, 31⟩
def Fld.INT_FLIPGRN_CHANNEL : Fld := ⟨30, 23⟩
def Fld.INT_FLIPGRN_SYM3 : Fld := ⟨22, 17⟩
def Fld.INT_FLIPGRN_SYM2 : Fld := ⟨16, 11⟩
def Fld.INT_FLIPGRN_SYM1 : Fld := ⟨10, 5⟩
def Fld.INT_SPARES_BOUGHS : Fld := ⟨26, 24⟩
def Fld.INT_SPARES_GDIE : Fld := ⟨23, 16⟩
def Fld.INT_SPARES_LBANK : Fld := ⟨15, 0⟩
def Fld.INT_POLICY_AUTOEXIT : Fld := ⟨31, 31⟩
def Fld.INT_POLICY_AUTOSUB : Fld := ⟨30, 30⟩
def Fld.INT_POLICY_CRIBLIM : Fld := ⟨15, 0⟩
def Fld.INT_INTSTAT_GLADAPT : Fld := ⟨6, 6⟩
def Fld.INT_INTSTAT_RAKESLOW : Fld := ⟨5, 5⟩
def Fld.INT_INTSTAT_LPAR : Fld := ⟨4, 4⟩
def Fld.INT_INTSTAT_SERVICE : Fld := ⟨3, 3⟩
def Fld.INT_INTSTAT_REPAIR : Fld := ⟨2, 2⟩
def Fld.INT_INTSTAT_UNINIT : Fld := ⟨1, 1⟩
def Fld.INT_INTSTAT_UNCORR : Fld := ⟨0, 0⟩
def Fld.INT_INTEN_EN : Fld := ⟨6, 0⟩
def Fld.FWM_CTRL_ABANDON : Fld := ⟨1, 1⟩
def Fld.FWM_CTRL_CONFIRM : Fld := ⟨0, 0⟩
def Fld.FWM_STATUS_LASTERR : Fld := ⟨15, 8⟩
def Fld.FWM_STATUS_MIGRATING : Fld := ⟨7, 7⟩
def Fld.FWM_STATUS_ALTBOOT : Fld := ⟨6, 6⟩
def Fld.FWM_STATUS_STATE : Fld := ⟨5, 3⟩
def Fld.FWM_STATUS_RUNSLOT : Fld := ⟨2, 2⟩
def Fld.FWM_STATUS_ROOTSLOT : Fld := ⟨1, 1⟩
def Fld.FWM_STATUS_ACTIVEMP : Fld := ⟨0, 0⟩
def Fld.FWM_GRAFTCFG_WINDOW : Fld := ⟨6, 0⟩
def Fld.FWM_VERSION_MAJOR : Fld := ⟨31, 16⟩
def Fld.FWM_VERSION_MINOR : Fld := ⟨15, 0⟩
def Fld.FWM_SCION_MAJOR : Fld := ⟨31, 16⟩
def Fld.FWM_SCION_MINOR : Fld := ⟨15, 0⟩
def Fld.FWM_SIGNEXT_HI_INDEX : Fld := ⟨7, 0⟩
def Fld.FWM_SIGRES_HI_INDEX : Fld := ⟨7, 0⟩
def Fld.FWM_INTSTAT_LOGTRUNC : Fld := ⟨7, 7⟩
def Fld.FWM_INTSTAT_ALTBOOT : Fld := ⟨6, 6⟩
def Fld.FWM_INTSTAT_CLRVER : Fld := ⟨5, 5⟩
def Fld.FWM_INTSTAT_REFUSED : Fld := ⟨4, 4⟩
def Fld.FWM_INTSTAT_FALLBACK : Fld := ⟨3, 3⟩
def Fld.FWM_INTSTAT_CONFIRM : Fld := ⟨2, 2⟩
def Fld.FWM_INTSTAT_GRAFT : Fld := ⟨1, 1⟩
def Fld.FWM_INTSTAT_STAGED : Fld := ⟨0, 0⟩
def Fld.FWM_INTEN_EN : Fld := ⟨7, 0⟩

end Sys2Proof.Machine
end

