-- ==== Sys2Proof/Machine/Bits.lean ====
section
/-! DEFINITION. Bit fields of registers and of numbers (R9), byte order (R12), sign extension, and the two link CRCs. -/

namespace Sys2Proof.Machine

/-- Bits [hi:lo] of a number. -/
def bitsN (v hi lo : Nat) : Nat := v / 2 ^ lo % 2 ^ (hi + 1 - lo)

/-- Bit `i` of a number. -/
def bitN (v i : Nat) : Bool := v / 2 ^ i % 2 = 1

/-- `v` with `x` in bits [hi:lo]; `x` is cut to the width. -/
def putBits (v hi lo x : Nat) : Nat :=
  v - bitsN v hi lo * 2 ^ lo + x % 2 ^ (hi + 1 - lo) * 2 ^ lo

/-- The value of a field of a register's value. -/
def Fld.get (f : Fld) (w : BitVec 32) : Nat := bitsN w.toNat f.hi f.lo

/-- A register's value with `x` in a field. -/
def Fld.put (f : Fld) (w : BitVec 32) (x : Nat) : BitVec 32 := BitVec.ofNat 32 (putBits w.toNat f.hi f.lo x)

/-- The two's complement value of the low `n` bits of `v`. -/
def sextN (n v : Nat) : Int :=
  let u := v % 2 ^ n
  if n ≠ 0 ∧ 2 ^ (n - 1) ≤ u then (u : Int) - 2 ^ n else u

/-- The low `n` bits of an integer in two's complement. -/
def wrapN (n : Nat) (z : Int) : Nat := (z % (2 ^ n : Int)).toNat

/-- The `n` bytes of `v`, lowest first (R12). -/
def leBytes : Nat → Nat → List (BitVec 8)
  | 0, _ => []
  | n + 1, v => BitVec.ofNat 8 v :: leBytes n (v / 256)

/-- The number that bytes spell, lowest first (R12). -/
def leNat : List (BitVec 8) → Nat
  | [] => 0
  | b :: t => b.toNat + 256 * leNat t

/-- `n` bytes of a byte string from offset `o`, zero past its end. -/
def bytesAt (bs : List (BitVec 8)) (o n : Nat) : List (BitVec 8) :=
  let t := (bs.drop o).take n
  t ++ List.replicate (n - t.length) 0#8

/-- The little-endian number of `n` bytes at offset `o` of a byte string. -/
def leAt (bs : List (BitVec 8)) (o n : Nat) : Nat := leNat ((bs.drop o).take n)

/-- Replace the bytes from offset `o` of a byte string. -/
def bytesPut (bs : List (BitVec 8)) (o : Nat) (xs : List (BitVec 8)) : List (BitVec 8) :=
  bs.take o ++ xs ++ bs.drop (o + xs.length)

/-- Population count of the low `n` bits. -/
def popN : Nat → Nat → Nat
  | 0, _ => 0
  | n + 1, v => v % 2 + popN n (v / 2)

/-- The bit numbers set among the low `n` bits, lowest first, from bit `k`. -/
def bitList : Nat → Nat → Nat → List Nat
  | 0, _, _ => []
  | n + 1, k, v => if v % 2 = 1 then k :: bitList n (k + 1) (v / 2) else bitList n (k + 1) (v / 2)

/-- Ceiling of a quotient. -/
def cdiv (a b : Nat) : Nat := (a + b - 1) / b

/-- One step of a reflected CRC of polynomial `poly`, `n` bits. -/
def crcBits (poly : Nat) : Nat → Nat → Nat
  | 0, c => c
  | n + 1, c => crcBits poly n (if c % 2 = 1 then (c / 2) ^^^ poly else c / 2)

/-- CRC-32C over a byte string: reflected, start and final complement all ones. -/
def crc32c (bs : List (BitVec 8)) : Nat :=
  (bs.foldl (fun c b => crcBits 0x82F63B78 8 (c ^^^ b.toNat)) 0xFFFFFFFF) ^^^ 0xFFFFFFFF

/-- One step of a CRC of polynomial 0x1021, most significant bit first. -/
def crc16Bits : Nat → Nat → Nat
  | 0, c => c
  | n + 1, c => crc16Bits n ((if 0x8000 ≤ c then (2 * c) ^^^ 0x1021 else 2 * c) % 0x10000)

/-- CRC-16 over a byte string: polynomial 0x1021, initial value 0xFFFF (R494). -/
def crc16 (bs : List (BitVec 8)) : Nat := bs.foldl (fun c b => crc16Bits 8 (c ^^^ (b.toNat * 256))) 0xFFFF

end Sys2Proof.Machine
end

