-- ==== Sys2Proof/Machine/Num.lean ====
section
/-! DEFINITION. Number formats, conversion and accumulation (03_numbers.md). Every value is computed exactly and
narrowed once, as R92, R99, R105 and R109 say. -/

namespace Sys2Proof.Machine

/-- An exact number: (−1)^neg × m × 2^e, an infinity, or NaN (R80, R83: a NaN keeps neither sign nor payload). -/
inductive Num where
  | fin (neg : Bool) (m : Nat) (e : Int)
  | inf (neg : Bool)
  | nan
  deriving DecidableEq, Repr

/-- The element formats of R79, and INT32 of R104. -/
inductive Fmt where
  | fp4 | e2m3 | e3m2 | e4m3 | e5m2 | bf16 | fp16 | fp32 | int8 | uint8 | int4 | int32
  deriving DecidableEq, Repr

/-- Conversion rounding modes (R108). -/
inductive Rnd where
  | rne | rtz | sr
  deriving DecidableEq, Repr

/-- How many events of each kind of R116 an operation made. -/
structure Ev where
  ovf   : Nat := 0
  nansq : Nat := 0
  flush : Nat := 0
  scnan : Nat := 0
  deriving DecidableEq, Repr

def evAdd (a b : Ev) : Ev :=
  { ovf := a.ovf + b.ovf, nansq := a.nansq + b.nansq, flush := a.flush + b.flush, scnan := a.scnan + b.scnan }

/-- The layout of a floating format: exponent bits, mantissa bits, bias (R79). -/
structure FLay where
  eb   : Nat
  mb   : Nat
  bias : Nat
  deriving DecidableEq, Repr

/-- The layout of a floating format; none for an integer format. -/
def fmtLay : Fmt → Option FLay
  | .fp4  => some ⟨2, 1, 1⟩
  | .e2m3 => some ⟨2, 3, 1⟩
  | .e3m2 => some ⟨3, 2, 3⟩
  | .e4m3 => some ⟨4, 3, 7⟩
  | .e5m2 => some ⟨5, 2, 15⟩
  | .bf16 => some ⟨8, 7, 127⟩
  | .fp16 => some ⟨5, 10, 15⟩
  | .fp32 => some ⟨8, 23, 127⟩
  | .int8 | .uint8 | .int4 | .int32 => none

/-- Width of an element in bits (R79). -/
def fmtBits : Fmt → Nat
  | .fp4 | .int4 => 4
  | .e2m3 | .e3m2 => 6
  | .e4m3 | .e5m2 | .int8 | .uint8 => 8
  | .bf16 | .fp16 => 16
  | .fp32 | .int32 => 32

/-- The formats that are always block-scaled (R84). -/
def fmtScaled : Fmt → Bool
  | .fp4 | .e2m3 | .e3m2 => true
  | _ => false

/-- The formats with infinities (R79). -/
def fmtHasInf : Fmt → Bool
  | .e5m2 | .bf16 | .fp16 | .fp32 => true
  | _ => false

/-- The number of an integer. -/
def numInt (z : Int) : Num := .fin (decide (z < 0)) z.natAbs 0

def numZero (neg : Bool) : Num := .fin neg 0 0

/-- The value of an encoding (R79, R80, R83). -/
def numDecode (f : Fmt) (w : Nat) : Num :=
  match fmtLay f with
  | some l =>
    let neg := bitN w (l.eb + l.mb)
    let ex := bitsN w (l.eb + l.mb - 1) l.mb
    let man := w % 2 ^ l.mb
    if fmtHasInf f && decide (ex = 2 ^ l.eb - 1) then (if man = 0 then .inf neg else .nan)
    else if f = .e4m3 ∧ ex = 15 ∧ man = 7 then .nan
    else if ex = 0 then .fin neg man (1 - (l.bias : Int) - l.mb)
    else .fin neg (2 ^ l.mb + man) ((ex : Int) - l.bias - l.mb)
  | none =>
    match f with
    | .uint8 => numInt (w % 256 : Nat)
    | .int4 => numInt (sextN 4 w)
    | .int8 => numInt (sextN 8 w)
    | _ => numInt (sextN 32 w)

/-- The canonical NaN of a format (R83); +0 or 0 where the format has none. -/
def nanEnc : Fmt → Nat
  | .fp32 => 0x7FC00000
  | .bf16 => 0x7FC0
  | .fp16 => 0x7E00
  | .e5m2 => 0x7E
  | .e4m3 => 0x7F
  | _ => 0

/-- ⌊log₂⌋ of the magnitude m × 2^e, m not 0. -/
def numLog (m : Nat) (e : Int) : Int := (Nat.log2 m : Int) + e

/-- The magnitude m × 2^e in units of 2^q, rounded (R109, R110); `r` is the draw's upper half. -/
def roundTo (mode : Rnd) (r m : Nat) (e q : Int) : Nat :=
  if q ≤ e then m * 2 ^ (e - q).toNat
  else
    let sh := (q - e).toNat
    let k := m / 2 ^ sh
    let d := m % 2 ^ sh
    match mode with
    | .rtz => k
    | .sr => if r < d * 2 ^ 32 / 2 ^ sh then k + 1 else k
    | .rne =>
      if 2 * d < 2 ^ sh then k
      else if 2 ^ sh < 2 * d then k + 1
      else if k % 2 = 0 then k else k + 1

/-- Whether the magnitude m × 2^e lies above n × 2^f. -/
def magGt (m : Nat) (e : Int) (n : Nat) (f : Int) : Bool :=
  let q := min e f
  decide (n * 2 ^ (f - q).toNat < m * 2 ^ (e - q).toNat)

/-- The largest finite value of a floating format as significand and exponent (R79). -/
def fmtMax (f : Fmt) (l : FLay) : Nat × Int :=
  match f with
  | .e4m3 => (14, 5)
  | .fp4 | .e2m3 | .e3m2 => (2 ^ (l.mb + 1) - 1, (2 ^ l.eb - 1 : Int) - l.bias - l.mb)
  | _ => (2 ^ (l.mb + 1) - 1, (2 ^ l.eb - 2 : Int) - l.bias - l.mb)

/-- The encoding of k × 2^q, k at most 2^(mb + 1), where q is the unit the format has there. -/
def encMag (l : FLay) (k : Nat) (q : Int) : Nat :=
  if k = 0 then 0
  else if k < 2 ^ l.mb then k
  else if k = 2 ^ (l.mb + 1) then ((q + 1 + l.mb + l.bias).toNat) * 2 ^ l.mb
  else ((q + l.mb + l.bias).toNat) * 2 ^ l.mb + (k - 2 ^ l.mb)

/-- Convert to a floating format (R109, R113). -/
def numToFloat (f : Fmt) (l : FLay) (strict : Bool) (mode : Rnd) (r : Nat) (x : Num) : Nat × Ev :=
  let sgn (neg : Bool) : Nat := if neg then 2 ^ (l.eb + l.mb) else 0
  let mx := fmtMax f l
  let big : Nat := encMag l mx.1 mx.2
  let infE : Nat := (2 ^ l.eb - 1) * 2 ^ l.mb
  match x with
  | .nan => if fmtScaled f then (0, { nansq := 1 }) else (nanEnc f, {})
  | .inf neg => if fmtHasInf f then (sgn neg + infE, {}) else (sgn neg + big, { ovf := 1 })
  | .fin neg m e =>
    if m = 0 then (sgn neg, {})
    else
      let emin : Int := 1 - (l.bias : Int)
      let q := max (numLog m e) emin - l.mb
      let k := roundTo mode r m e q
      if magGt k q mx.1 mx.2 then
        (sgn neg + (if fmtHasInf f && strict then infE else big), { ovf := 1 })
      else (sgn neg + encMag l k q, {})

/-- Clamp an integer into [lo, hi], counting a saturation. -/
def satInt (lo hi z : Int) : Int × Ev :=
  if z < lo then (lo, { ovf := 1 }) else if hi < z then (hi, { ovf := 1 }) else (z, {})

/-- The least and largest of an integer format. -/
def intRange : Fmt → Int × Int
  | .uint8 => (0, 255)
  | .int4 => (-8, 7)
  | .int8 => (-128, 127)
  | _ => (-2147483648, 2147483647)

/-- Convert to an integer format (R109, R113). -/
def numToInt (f : Fmt) (mode : Rnd) (r : Nat) (x : Num) : Nat × Ev :=
  let rg := intRange f
  match x with
  | .nan => (0, { nansq := 1 })
  | .inf neg => (wrapN (fmtBits f) (if neg then rg.1 else rg.2), { ovf := 1 })
  | .fin neg m e =>
    let k : Int := roundTo mode r m e 0
    let z := satInt rg.1 rg.2 (if neg then -k else k)
    (wrapN (fmtBits f) z.1, z.2)

/-- Convert an exact number to a format: its encoding and the events (R109 to R113). -/
def numEncode (f : Fmt) (strict : Bool) (mode : Rnd) (r : Nat) (x : Num) : Nat × Ev :=
  match fmtLay f with
  | some l => numToFloat f l strict mode r x
  | none => numToInt f mode r x

/-- x × 2^k. -/
def numScale (x : Num) (k : Int) : Num :=
  match x with
  | .fin n m e => .fin n m (e + k)
  | y => y

def numNeg : Num → Num
  | .fin n m e => .fin (!n) m e
  | .inf n => .inf (!n)
  | .nan => .nan

def numAbs : Num → Num
  | .fin _ m e => .fin false m e
  | .inf _ => .inf false
  | .nan => .nan

/-- The signed significand of a finite number in units of 2^q, q at most its exponent. -/
def numAt (neg : Bool) (m : Nat) (e q : Int) : Int :=
  let v : Int := (m * 2 ^ (e - q).toNat : Nat)
  if neg then -v else v

/-- The exact sum; an exact zero is +0 unless both are −0 (IEEE 754 to nearest). -/
def numAdd : Num → Num → Num
  | .nan, _ => .nan
  | _, .nan => .nan
  | .inf a, .inf b => if a = b then .inf a else .nan
  | .inf a, _ => .inf a
  | _, .inf b => .inf b
  | .fin n1 m1 e1, .fin n2 m2 e2 =>
    let q := min e1 e2
    let z := numAt n1 m1 e1 q + numAt n2 m2 e2 q
    if z = 0 then .fin (n1 && n2 && decide (m1 = 0) && decide (m2 = 0)) 0 0
    else .fin (decide (z < 0)) z.natAbs q

def numSub (a b : Num) : Num := numAdd a (numNeg b)

/-- The exact product; zero times infinity is NaN (R96). -/
def numMul : Num → Num → Num
  | .nan, _ => .nan
  | _, .nan => .nan
  | .inf a, .inf b => .inf (a != b)
  | .inf a, .fin n m _ => if m = 0 then .nan else .inf (a != n)
  | .fin n m _, .inf b => if m = 0 then .nan else .inf (n != b)
  | .fin n1 m1 e1, .fin n2 m2 e2 => .fin (n1 != n2) (m1 * m2) (e1 + e2)

/-- The quotient to 80 bits below its first, with a sticky bit below: enough to round once to FP32. -/
def numDiv : Num → Num → Num
  | .nan, _ => .nan
  | _, .nan => .nan
  | .inf _, .inf _ => .nan
  | .inf a, .fin n _ _ => .inf (a != n)
  | .fin n _ _, .inf b => numZero (n != b)
  | .fin n1 m1 e1, .fin n2 m2 e2 =>
    if m2 = 0 then (if m1 = 0 then .nan else .inf (n1 != n2))
    else if m1 = 0 then numZero (n1 != n2)
    else
      let sh := 80 + Nat.log2 m2
      let q := m1 * 2 ^ sh / m2
      let st := if m1 * 2 ^ sh % m2 = 0 then 0 else 1
      .fin (n1 != n2) (2 * q + st) (e1 - e2 - sh - 1)

/-- ⌊√n⌋ by `k` binary digits from the top. -/
def isqrtGo : Nat → Nat → Nat → Nat
  | 0, _, r => r
  | k + 1, n, r =>
    let t := r + 2 ^ k
    isqrtGo k n (if t * t ≤ n then t else r)

def isqrt (n : Nat) : Nat := isqrtGo (Nat.log2 n / 2 + 1) n 0

/-- The square root with a sticky bit: enough to round once to FP32. -/
def numSqrt : Num → Num
  | .nan => .nan
  | .inf n => if n then .nan else .inf false
  | .fin n m e =>
    if m = 0 then numZero n
    else if n then .nan
    else
      let sh : Int := 160 + (e % 2)
      let big := m * 2 ^ sh.toNat
      let r := isqrt big
      let st := if r * r = big then 0 else 1
      .fin false (2 * r + st) ((e - sh) / 2 - 1)

/-- The order of exact numbers that are not NaN; the sign of zero does not matter. -/
def numLt : Num → Num → Bool
  | .nan, _ => false
  | _, .nan => false
  | .inf a, .inf b => a && !b
  | .inf a, _ => a
  | _, .inf b => !b
  | .fin n1 m1 e1, .fin n2 m2 e2 =>
    let q := min e1 e2
    decide (numAt n1 m1 e1 q < numAt n2 m2 e2 q)

def numIsNan : Num → Bool
  | .nan => true
  | _ => false

def numIsFin : Num → Bool
  | .fin _ _ _ => true
  | _ => false

def numIsNeg : Num → Bool
  | .fin n _ _ => n
  | .inf n => n
  | .nan => false

/-- Two values with the same bits: sign, zero and kind included. -/
def numSame (a b : Num) : Bool :=
  match a, b with
  | .nan, .nan => true
  | .inf n, .inf m => n = m
  | .fin n x e, .fin m y f => n = m && !(magGt x e y f) && !(magGt y f x e)
  | _, _ => false

def numIsZero : Num → Bool
  | .fin _ m _ => decide (m = 0)
  | _ => false

/-! FP32 operations, rounded once to nearest-even with subnormals honoured (R105); overflow by R106. -/

def f32 (w : Nat) : Num := numDecode .fp32 w

def round32 (strict : Bool) (x : Num) : Nat × Ev := numEncode .fp32 strict .rne 0 x

def fAdd (strict : Bool) (a b : Nat) : Nat × Ev := round32 strict (numAdd (f32 a) (f32 b))
def fSub (strict : Bool) (a b : Nat) : Nat × Ev := round32 strict (numSub (f32 a) (f32 b))
def fMul (strict : Bool) (a b : Nat) : Nat × Ev := round32 strict (numMul (f32 a) (f32 b))
def fFma (strict : Bool) (a b c : Nat) : Nat × Ev := round32 strict (numAdd (numMul (f32 a) (f32 b)) (f32 c))

/-! The compensated pair (R88 to R90): (hi, lo) as FP32 encodings. Inside, operations overflow to infinity. -/

def pAdd (a b : Nat) : Nat := (fAdd true a b).1
def pSub (a b : Nat) : Nat := (fSub true a b).1
def pMul (a b : Nat) : Nat := (fMul true a b).1

def negF (a : Nat) : Nat := a ^^^ 0x80000000

def twoSum (a b : Nat) : Nat × Nat :=
  let s := pAdd a b
  let bb := pSub s a
  (s, pAdd (pSub a (pSub s bb)) (pSub b bb))

def fastTwoSum (a b : Nat) : Nat × Nat :=
  let s := pAdd a b
  (s, pSub b (pSub s a))

def twoProduct (a b : Nat) : Nat × Nat :=
  let p := pMul a b
  (p, (fFma true a b (negF p)).1)

/-- An FP32 encoding as a unit keeps it: a NaN has neither sign nor payload (R83). -/
def canonF (w : Nat) : Nat := if numIsNan (f32 w) then nanEnc .fp32 else w

/-- The result of a pair operation on finite operands whose lines formed the `sums` in order, the last hi among them: the
first that left the finite range is an overflowed hi, and the result is that hi under R106 with lo = +0 (R90). Any other
infinite or NaN hi has lo = +0 (R88). `fin` says that every operand was finite. -/
def pairFinish (strict fin : Bool) (sums : List Nat) (r : Nat × Nat) : (Nat × Nat) × Ev :=
  match (if fin then sums.find? (fun w => !(numIsFin (f32 w))) else none) with
  | some w => (((round32 strict (.fin (numIsNeg (f32 w)) 1 128)).1, 0), { ovf := 1 })
  | none => if numIsFin (f32 r.1) then (r, {}) else ((canonF r.1, 0), {})

def allFin (ws : List Nat) : Bool := ws.all fun w => numIsFin (f32 w)

/-- pair_add of R89. A hi that is infinite or NaN is the pair's value, and its lo is ignored (R88). -/
def pairAdd (strict : Bool) (x y : Nat × Nat) : (Nat × Nat) × Ev :=
  let (s0, e0) := twoSum x.1 y.1
  let (t, f) := twoSum x.2 y.2
  let (s1, e1) := fastTwoSum s0 (pAdd e0 t)
  let r := fastTwoSum s1 (pAdd e1 f)
  if allFin [x.1, y.1] then pairFinish strict (allFin [x.2, y.2]) [s0, t, s1, r.1] r else ((s0, 0), {})

/-- pair_add_single of R89. -/
def pairAddSingle (strict : Bool) (x : Nat × Nat) (b : Nat) : (Nat × Nat) × Ev :=
  let (s0, e0) := twoSum x.1 b
  let r := fastTwoSum s0 (pAdd e0 x.2)
  if allFin [x.1, b] then pairFinish strict (allFin [x.2]) [s0, r.1] r else ((s0, 0), {})

/-- two_sum, fast_two_sum and two_product as pair operations with the overflow rule of R90. -/
def pairSum (strict : Bool) (a b : Nat) : (Nat × Nat) × Ev :=
  pairFinish strict (allFin [a, b]) [(twoSum a b).1] (twoSum a b)

def pairFast (strict : Bool) (a b : Nat) : (Nat × Nat) × Ev :=
  pairFinish strict (allFin [a, b]) [(fastTwoSum a b).1] (fastTwoSum a b)

def pairProduct (strict : Bool) (a b : Nat) : (Nat × Nat) × Ev :=
  pairFinish strict (allFin [a, b]) [(twoProduct a b).1] (twoProduct a b)

/-- The exact value of a pair (R88). -/
def pairNum (x : Nat × Nat) : Num :=
  if numIsFin (f32 x.1) then numAdd (f32 x.1) (f32 x.2) else f32 x.1

/-- The normalised pair of an exact value: hi is the value rounded to nearest-even, lo the rest (R88). -/
def pairOfNum (strict : Bool) (x : Num) : (Nat × Nat) × Ev :=
  let (hi, ev) := round32 strict x
  if numIsFin (f32 hi) && decide (ev.ovf = 0) then
    let d := numSub x (f32 hi)
    ((hi, if numIsZero d then 0 else (round32 strict d).1), ev)
  else ((hi, 0), ev)

/-! Accumulation (R93 to R104). -/

/-- One fast-mode step on an exact sum (R94, R96). -/
def fastStep (s : Num) : Num × Ev :=
  match s with
  | .fin n m e =>
    if m = 0 then (numZero false, {})
    else
      let lg := Nat.log2 m
      let (m', e') := if lg < 28 then (m, e) else (m / 2 ^ (lg - 27), e + (lg - 27 : Nat))
      if numLog m e < -126 then (numZero n, { flush := 1 })
      else if 128 ≤ numLog m e then (.fin n (2 ^ 28 - 1) 100, { ovf := 1 })
      else (.fin n m' e', {})
  | x => (x, {})

/-- The sum of a list of terms onto a start, exactly. -/
def sumTerms (a : Num) (ts : List Num) : Num := ts.foldl numAdd a

/-- Fast-mode accumulation in segments of 16 (R94); `k` bounds the segments. -/
def accFast : Nat → Num → List Num → Num × Ev
  | 0, a, _ => (a, {})
  | k + 1, a, ts =>
    match ts with
    | [] => (a, {})
    | _ :: _ =>
      let (a', ev) := fastStep (sumTerms a (ts.take 16))
      let (r, ev') := accFast k a' (ts.drop 16)
      (r, evAdd ev ev')

/-- Strict-mode accumulation, one index at a time (R99, R100). -/
def accStrict (a : Num) : List Num → Num × Ev
  | [] => (a, {})
  | t :: ts =>
    let (w, ev) := round32 true (numAdd a t)
    let (r, ev') := accStrict (f32 w) ts
    (r, evAdd ev ev')

/-- The sum-forming accumulation of a mode (R94, R99). -/
def accumulate (strict : Bool) (a : Num) (ts : List Num) : Num × Ev :=
  if strict then accStrict a ts else accFast ts.length a ts

/-- Load an FP32 C in fast mode: a subnormal loads as a zero of its sign and counts (R95). -/
def loadC (strict : Bool) (w : Nat) : Num × Ev :=
  let ex := bitsN w 30 23
  if strict then (f32 w, {})
  else if ex = 0 ∧ w % 2 ^ 23 ≠ 0 then (numZero (bitN w 31), { flush := 1 })
  else (f32 w, {})

/-- The start of an overwriting sum (R95, R99). -/
def accStart (strict : Bool) : Num := numZero strict

/-- Drain an accumulator to FP32 (R98, R100). -/
def drain32 (strict : Bool) (a : Num) : Nat × Ev := round32 strict a

/-- One term of a tropical opcode: a + b as a step forms a sum of two values (R103). -/
def tropTerm (strict : Bool) (a b : Num) : Num × Ev :=
  if strict then
    let (w, ev) := round32 true (numAdd a b)
    (f32 w, ev)
  else fastStep (numAdd a b)

/-! Stochastic draws (R110 to R112). -/

def mix64 (z : Nat) : Nat :=
  let m := 2 ^ 64
  let z := ((z ^^^ (z / 2 ^ 30)) * 0xBF58476D1CE4E5B9) % m
  let z := ((z ^^^ (z / 2 ^ 27)) * 0x94D049BB133111EB) % m
  z ^^^ (z / 2 ^ 31)

/-- draw of R111. -/
def srDraw (step tensor element : Nat) : Nat :=
  let h := mix64 (step ^^^ 0x9E3779B97F4A7C15)
  let h := mix64 (h ^^^ tensor)
  mix64 (h ^^^ element)

/-- Bits [63:32] of the draw (R110). -/
def srBits (step tensor element : Nat) : Nat := srDraw step tensor element / 2 ^ 32

/-! Block scales (R85 to R87, R115). -/

/-- Decode an element of a block with scale byte `e` (R85, R87). -/
def scaledDecode (f : Fmt) (e w : Nat) : Num :=
  if e = 255 then .nan else numScale (numDecode f w) ((e : Int) - 127)

/-- Whether |x| ≤ Fmax × 2^e. -/
def fitsScale (f : Fmt) (l : FLay) (m : Nat) (ex e : Int) : Bool :=
  let mx := fmtMax f l
  !(magGt m ex mx.1 (mx.2 + e))

/-- The largest finite magnitude of a list, as significand and exponent; (0, 0) when there is none. -/
def maxMag : List Num → Nat × Int
  | [] => (0, 0)
  | .fin _ m e :: t =>
    let r := maxMag t
    if magGt m e r.1 r.2 then (m, e) else r
  | _ :: t => maxMag t

/-- The scale exponent of a block (R115): the smallest e with a ≤ Fmax × 2^e, clamped; −127 with no finite a. -/
def blockScale (f : Fmt) (xs : List Num) : Int :=
  match fmtLay f with
  | none => 0
  | some l =>
    let (m, ex) := maxMag xs
    if m = 0 then -127
    else
      let mx := fmtMax f l
      let base := numLog m ex - numLog mx.1 mx.2
      let e := if fitsScale f l m ex base then base else base + 1
      max (-127) (min 127 e)

/-! The three-piece split (R120). -/

/-- Truncate toward zero to BF16. -/
def truncBf16 (x : Num) : Num := numDecode .bf16 (numEncode .bf16 false .rtz 0 x).1

def split3 (x : Num) : Num × Num × Num :=
  if numIsFin x then
    let x1 := truncBf16 x
    let r1 := numSub x x1
    let x2 := truncBf16 r1
    let x3 := truncBf16 (numSub r1 x2)
    (x1, x2, x3)
  else (x, numZero false, numZero false)

/-- The terms of the six passes of a split product, in their order (R121): a3 b1, a2 b2, a1 b3, a2 b1, a1 b2, a1 b1. -/
def splitTerms (x y : Num × Num × Num) : List Num :=
  [numMul x.2.2 y.1, numMul x.2.1 y.2.1, numMul x.1 y.2.2, numMul x.2.1 y.1, numMul x.1 y.2.1, numMul x.1 y.1]

/-- The passes of a split product over the full contraction length: fast-mode steps, and the accumulator carries from one
pass to the next (R121). -/
def splitPasses (a : Num) (xs ys : List (Num × Num × Num)) : Num × Ev :=
  (List.range 6).foldl (fun acc p =>
    let r := accumulate false acc.1 ((xs.zip ys).map fun (x, y) => ((splitTerms x y)[p]?).getD (numZero false))
    (r.1, evAdd acc.2 r.2)) (a, {})

/-- A split product of two operands of one contraction length, from a starting accumulator: the pieces, six passes and
one drain (R120, R121). -/
def splitProduct (a : Num) (xs ys : List Num) : Nat × Ev :=
  let r := splitPasses a (xs.map split3) (ys.map split3)
  let d := drain32 false r.1
  (d.1, evAdd r.2 d.2)

end Sys2Proof.Machine
end

