-- ==== Sys2Proof/Machine/State.lean ====
section
/-! DEFINITION. The state of the block as plain data: the registers, the local memory and what the manual gives each
unit beside its registers. Every field starts at the value it has right after a power-on reset. -/

namespace Sys2Proof.Machine

/-! ## Stored data integrity -/

/-- A codeword that holds flipped bits or symbols (R493, R502). -/
structure CwErr where
  /-- The bit or symbol positions in error. -/
  pos  : List Nat := []
  /-- A codeword no read can correct (R499). -/
  lost : Bool := false
  /-- A corrected word waits to be written back (R495); the Rake read it (R504). -/
  wb   : Bool := false
  rake : Bool := false
  deriving DecidableEq, Repr

/-- An error a read found (R505): memory class, address, whether it was uncorrectable, whether a layer check failed,
and the positions in error. -/
structure ErrNote where
  cls    : Nat
  addr   : Nat
  uncorr : Bool
  lpar   : Bool
  pos    : List Nat
  /-- Hours the note is old. -/
  hours  : Nat := 0
  /-- Its channel's Gleaner has begun another pass since (R505). -/
  past   : Bool := false
  deriving DecidableEq, Repr

/-- The stored codes beside the data. Keys of `cw` are 4 × address + class: class 0 Crib, 1 Loft, 2 Granary; `lpar`
holds, by the address of each sector whose quarter's layer check is wrong, the bits in which the stored check and the
computed one differ (R494); `written` the first address of every unit written in
initialisation mode 1 (R501). -/
structure EccSt where
  cw      : KMap CwErr := []
  lpar    : KMap Nat := []
  written : KMap Bool := []
  /-- Marked dies, by stack (R505). -/
  dies    : List (Nat × Nat) := []
  /-- Errors seen, latest first, until the window of the repair rule ends (R505). -/
  hist    : List ErrNote := []
  /-- Corrected errors of this hour: by stack at keys 0 to 7 (R503), by bough at 8 + bough (R505). -/
  hour    : KMap Nat := []
  deriving DecidableEq, Repr

/-- A failed read: the record's TYPE, KIND and the address. -/
structure Bad where
  type : Nat
  cls  : Nat
  addr : Nat
  deriving DecidableEq, Repr

/-! ## Boughs -/

/-- A failed check of R180 as the device keeps it for a dispute (R189): S, Q and τ, the starting values of the outputs on
its line, the operand rows summed on it and the row they meet. -/
structure Check where
  s     : Num
  q     : Num
  tau   : Num
  c0    : List Num
  rows  : List (List Num)
  other : List Num
  deriving DecidableEq, Repr

/-- Where a share of a tile stands (R185, R190). -/
inductive SharePhase where
  | queued | running | colTest
  deriving DecidableEq, Repr

/-- One share of a tile on one array: the scoreboard entry, the array the descriptor names it for, the array it is
queued on, its output columns [c0, c1) and the pass number (R185, R187, R190). -/
structure Share where
  entry : Nat
  named : Nat
  arr   : Nat
  c0    : Nat
  c1    : Nat
  phase : SharePhase := .queued
  pass  : Nat := 1
  /-- Pass 1 met an uncorrectable read. -/
  unread : Bool := false
  /-- DETAIL of the last failed check (R507). -/
  detail : Nat := 0
  /-- The last failed check, when it was one of R180. -/
  check : Option Check := none
  /-- What the one fetch of B for the tile met (R164); none before it. -/
  bread : Option (Option Bad) := none
  /-- Wrong values that earlier pieces of the share left in what this piece drains (R655). -/
  wrong : List WrongCell := []
  /-- Another piece of the same split share took the fault path. -/
  lost  : Bool := false
  deriving DecidableEq, Repr

/-- A checksum dispute waiting for its recomputation (R189). -/
structure Dispute where
  arr    : Nat
  seq    : Nat
  detail : Nat
  /-- The scoreboard entry of the tile until it retires: the recomputation comes after that. -/
  entry  : Option Nat
  /-- The failing check; none for a failure that compared no sums. -/
  check  : Option Check
  deriving DecidableEq, Repr

/-- A work item in flight (R135): the item's four words, its body, the step captured at issue (R134), the summary and
non-finite count of a chain (R132, R247), and whether its unit has finished (R138). -/
structure SbEntry where
  id      : Nat
  item    : Nat
  w0      : Nat
  w2      : Nat
  w3      : Nat
  body    : List Byte
  step    : Nat
  summary : Nat := 0
  nonfin  : Nat := 0
  /-- The chain was stopped: it leaves its summary slot as it is (R249, R656). -/
  stopped : Bool := false
  /-- The chain's configuration failed its checks: ITEMERR when it retires (R656). -/
  badCfg  : Bool := false
  done    : Bool := false
  deriving DecidableEq, Repr

/-- What a physical bough holds beside its registers. -/
structure BoughSt where
  /-- The walk runs in this program frame: it has begun and has not reached END. -/
  walking : Bool := false
  /-- The walk was stopped before it reached END in this program frame, which is then not retired (R131). -/
  cut     : Bool := false
  /-- The bough is pre-empted or its walk stopped: nothing further issues (R148). -/
  halted  : Bool := false
  /-- Its spare copy is running: no item issues before it ends (R151). -/
  copying : Bool := false
  sb      : List SbEntry := []
  shares  : List Share := []
  /-- Arrays with a column test asked by BGH_MACTRL (R196). -/
  colTests : List Nat := []
  /-- Arrays with a corruption armed by BGH_MACTRL (R196). -/
  inject  : List Nat := []
  disputes : List Dispute := []
  /-- The barrier unit the walk waits at. -/
  barWait : Option Nat := none
  deriving DecidableEq, Repr

/-- A signal in flight on the synchronisation network (R140, R141). -/
structure Signal where
  bough : Nat
  sem   : Nat
  count : Nat
  deriving DecidableEq, Repr

/-- A device barrier in the generation in progress (R143). -/
structure BarSt where
  mask    : Nat := 0
  arrived : List Nat := []
  dead    : Bool := false
  deriving DecidableEq, Repr

/-- Integrity beside its registers and the codes: service and repair. -/
structure IntegSt where
  /-- A service condition waits to make its announced exit (R506). -/
  exitDue  : Bool := false
  /-- Presented boughs to substitute at the next frame boundary; true after a fail-stop (R151, R152). -/
  substDue : List (Nat × Bool) := []
  /-- Spare copies running: presented number, old and new physical bough (R151). -/
  copies   : List (Nat × Nat × Nat) := []
  /-- References of the column test, held in the Root once self-test has computed them (R186). -/
  refs     : List Nat := []
  /-- Sickle partials held for a presented bough whose copy runs: its number, Crib offset and FP32 value (R150). -/
  heldParts : List (Nat × Nat × Nat) := []
  /-- Barrier releases held for a presented bough whose copy runs: its number and the unit (R150). -/
  heldBars : List (Nat × Nat) := []
  /-- SUBST commands that complete with the substitution of a presented number (R611). -/
  substCmds : List (Nat × Nat) := []
  /-- The next codeword of each channel's Gleaner and its passes; the hours in a row that a stack's errors stayed at or
  below DOWN (R503). -/
  gpos     : KMap Nat := []
  gpass    : KMap Nat := []
  calm     : KMap Nat := []
  /-- The next bank row of each slice's Rake and its laps; slices whose lap in progress is recorded as slow (R504). -/
  rpos     : KMap Nat := []
  rlaps    : KMap Nat := []
  slow     : List Nat := []
  /-- Granary rows being copied, repaired, and refused, as (channel, row) (R505, R506). -/
  rows     : List (Nat × Nat) := []
  rowsDone : List (Nat × Nat) := []
  rowsRef  : List (Nat × Nat) := []
  /-- Loft banks replaced by a spare, as (layer, bank) (R505). -/
  banksDone : List (Nat × Nat) := []
  deriving DecidableEq, Repr

/-! ## Carts and the Loft -/

/-- Where a segment of a cart stands (R138, R284). -/
inductive SegSt where
  | unsent
  /-- It waits for lines, on which it has been counted as a hit or holds a place in the miss table (R304). -/
  | filling (seen : List Nat)
  | left | applied | lost
  deriving DecidableEq, Repr

/-- A cart in use (R278, R283). `bough` and `entry` are its scoreboard place; carts of the device's own engines have
none. -/
structure CartSt where
  bough  : Option Nat
  entry  : Nat
  op     : Nat
  dtype  : Nat
  rop    : Nat
  reten  : Bool
  ff     : Bool
  cseq   : Nat
  len    : Nat
  src    : Nat
  dst    : Nat
  ret    : Nat
  rsig   : Nat
  pframe : Nat
  segs   : List SegSt
  /-- Ended early: it never completes (R138). -/
  ended  : Bool := false
  /-- The destination has acknowledged it (R442). -/
  acked  : Bool := false
  /-- Operation and object of an OBJECT cart (R281). -/
  objop  : Nat := 0
  obj    : Nat := 0
  /-- Register writes of segments that go to the own control space: segment, offset, bytes. -/
  ctl    : List (Nat × Nat × List Byte) := []
  /-- Destination and bytes of each segment of a Wain cart (R351); empty for any other cart. -/
  parts  : List (Nat × List Byte) := []
  deriving DecidableEq, Repr

/-- A contribution held in a reorder window, or returned to its sender (R308). -/
structure Contrib where
  cart   : Nat
  seq    : Nat
  addr   : Nat
  dtype  : Nat
  rop    : Nat
  data   : List Byte
  /-- The device a fabric contribution came from. -/
  origin : Option Nat
  deriving DecidableEq, Repr

/-- A round open on a line (R308, R310): NEXT per sector, the held contributions, whether it was diverted (R313), the
sectors that met an uncorrectable word (R496), and the ticks a closing access has waited. -/
structure Round where
  next     : KMap Nat := []
  /-- A divert record holds a miss-table entry (R313). -/
  record   : Bool := false
  held     : List Contrib := []
  /-- Applied to the Granary copy by the merge queue (R311, R313). -/
  diverted : Bool := false
  badSect  : List Nat := []
  closing  : Bool := false
  ticks    : Nat := 0
  stalled  : Bool := false
  deriving DecidableEq, Repr

/-- A line held in a cache or pinnable way (R302, R303): its way, the promoted object it is held for, its dirty
sectors, its last use and the program frame of its fill. -/
structure LineSt where
  way   : Nat
  obj   : Option Nat := none
  dirty : Nat := 0
  use   : Nat := 0
  fill  : Nat := 0
  deriving DecidableEq, Repr

/-- A miss-table entry (R304, R305): its waiters and the way that the fill takes. -/
structure MissEnt where
  waiters : Nat
  way     : Nat
  deriving DecidableEq, Repr

/-- An operation on an object (R264): its code, the offered record of REGISTER, and where its end is signalled. -/
structure ObjOp where
  op     : Nat
  offer  : List Byte
  rsig   : Nat := 0
  handle : Option Nat := none
  /-- The CARTID of the OBJECT cart that brought it (R283). -/
  cart   : Option Nat := none
  deriving DecidableEq, Repr

/-- What the device holds for an object number: the operations waiting at its record, and the one in progress. -/
structure ObjSt where
  queue   : List ObjOp := []
  current : Option ObjOp := none
  deriving DecidableEq, Repr

/-- The Loft beside its registers. -/
structure LoftSt where
  /-- Lines held in cache and pinnable ways, by line address L. -/
  lines   : List (Nat × LineSt) := []
  /-- Miss-table entries by line address (R304). -/
  misses  : List (Nat × MissEnt) := []
  /-- Rounds open, by line number of the local offset. -/
  rounds  : List (Nat × Round) := []
  /-- Contributions returned to their senders (R308). -/
  returned : List Contrib := []
  /-- The order of uses (R302). -/
  clock   : Nat := 0
  /-- Young evictions of the running program frame (R314), and whether the last frame thrashed (R315). -/
  young   : Nat := 0
  thrash  : Bool := false
  /-- Registered object numbers. -/
  objs    : List Nat := []
  objSt   : List (Nat × ObjSt) := []
  /-- Granary copies of bytes that a dirty Loft line has overtaken, by address. -/
  stale   : List (Nat × Byte) := []
  /-- Fabric requests that wait for a line (R304, R310): the port each came in by, the packet, and the lines on which it
  has been counted as a hit or holds a place in the miss table. -/
  waiting : List (Nat × Packet × List Nat) := []
  /-- Lines whose round holds contributions that an access of the command in progress must wait for (R310). -/
  stall   : List Nat := []
  /-- Slices with a map-out under way, and its layer (R317). -/
  mapping : List (Nat × Nat) := []
  /-- Banks being copied to a spare, as (layer, bank) (R505). -/
  banks   : List (Nat × Nat) := []
  /-- Layers in reset run the stack Granary-only (R538). -/
  granaryOnly : Bool := false
  /-- Parking object of the Seed (R539). -/
  park    : Option Nat := none
  parked  : Bool := false
  deriving DecidableEq, Repr

/-! ## Frame -/

/-- The frame beside its registers. -/
structure FrameSt where
  /-- PERIOD and WIN that govern the running frame (R72, R76). -/
  period  : Nat := 16
  win     : Nat := 16
  /-- The partition's slip flag for the running program frame (R52). -/
  slipFlag : Bool := false
  /-- This device raised the flag at the check point of the running frame (R77). -/
  slipOwn : Bool := false
  /-- The running slip event is counted in FRM_SLIPOWN. -/
  ownDone : Bool := false
  /-- Carts that completed in the running program frame (R46). -/
  cartsDone : List Nat := []
  /-- Trees whose run ended in the running program frame (R46, R53). -/
  treesDone : List Nat := []
  /-- The running program frame has slipped (FRM_SLIPRUN, R77). -/
  slipped : Bool := false
  /-- A late slip stopped the issue of work (R56). -/
  lateSlip : Bool := false
  /-- Arms of a model switch in the running program frame named different tables (R213). -/
  swConf  : Bool := false
  deriving DecidableEq, Repr

/-! ## Host port -/

/-- A command record and where it stands (R608, R614). -/
structure HostCmd where
  handle : Nat
  record : List Byte
  /-- What a STORE records, as it stood when the command was accepted (R546). -/
  body   : List Byte := []
  /-- 1 PENDING, 2 RUNNING. -/
  state  : Nat := 1
  /-- It has no handle: a host-port reset has forgotten it (R624), or it came as an MGMT message (R543). -/
  gone   : Bool := false
  /-- It came as an MGMT message. -/
  mgmt   : Bool := false
  deriving DecidableEq, Repr

/-- A loaded job (R618): its handle, mode, output groups, START, and how it ends. -/
structure Job where
  handle   : Nat
  strict   : Bool
  nout     : Nat
  start    : Nat
  cls      : Nat := 1
  started  : Bool := false
  degraded : Nat := 0
  /-- The status and detail the job ends with once every presented bough has stopped (R616, R619). -/
  ending   : Option (Nat × Nat) := none
  /-- JOBSTOP commands that complete after the job's final entry (R617). -/
  stops    : List Nat := []
  deriving DecidableEq, Repr

/-- MSI-X and the vectors sent (R620, R621). -/
structure MsixSt where
  /-- The table's words, by offset in BAR0 0x8000. -/
  table   : KMap Word := []
  /-- The pending-bit array. -/
  pba     : Nat := 0
  /-- Vectors sent, latest first. -/
  sent    : List Nat := []
  deriving DecidableEq, Repr

/-- The host port beside its registers. -/
structure HostSt where
  stages  : List (Nat × List Byte) := []
  cmds    : List HostCmd := []
  /-- Handle status entries, 16 bytes each (R614). -/
  handles : List (Nat × List Byte) := []
  /-- Generations of the handle entries (R613). -/
  gens    : List (Nat × Nat) := []
  lastIdx : Nat := 4095
  /-- Completion entries written or dropped so far: each sends vector 0 (R617). -/
  completions : Nat := 0
  /-- Host memory as the device reaches it. -/
  mem     : KMap Byte := []
  /-- The function is in D3hot (R597). -/
  d3hot   : Bool := false
  /-- Bus Master Enable (R598). -/
  bme     : Bool := true
  /-- The configuration space answers: phase 5 has ended (R519, R623). -/
  config  : Bool := false
  job     : Option Job := none
  /-- The telemetry mirror, by Floor index (R622). -/
  mirror  : List (Nat × List Byte) := []
  deriving DecidableEq, Repr

/-! ## The Mill's step and Blight -/

/-- An open step (R362, R363): the program frame index of step frame 0, the Blight sources raised here, how many steps
opened before it (R471), BGH_STEP at step frame 0 (R372), whether another member's Blight is known, the records its
UPDATEs named, and OUTCNT and SIG of its COMMIT once the Mill has reached it (R395). -/
structure OpenStep where
  start  : Nat
  blight : Nat := 0
  no     : Nat := 0
  num    : Nat := 0
  heard  : Bool := false
  named  : List Nat := []
  commit : Option (Nat × Nat) := none
  deriving DecidableEq, Repr

/-- Steps and Blight. -/
structure StepSt where
  opened  : List OpenStep := []
  /-- Steps opened since job load (R471). -/
  count   : Nat := 0
  /-- Sources of a Blight that belongs to the next step to open (R364). -/
  next    : Nat := 0
  /-- Steps, by step frame 0, whose Blight other members made known before they opened here. -/
  early   : List Nat := []
  /-- Blight reports: event key and source (R365). -/
  reports : List (List Byte × Nat) := []
  /-- The relative frame (R332); none before the job's first SETSTEP. -/
  rel     : Option Nat := none
  deriving DecidableEq, Repr

/-- A block the Mill has to process (R380): record, block, whether it is for POST, where its gradient lies in the holding
area, its state from the peer (R386), and new moments that the Mill keeps for POST (R389). -/
structure MBlock where
  rec_  : Nat
  blk   : Nat
  post  : Bool := false
  grad  : Option Nat := none
  state : Option (List Byte) := none
  moms  : Option (List Byte) := none
  deriving DecidableEq, Repr

/-- Work of the Mill: an UPDATE, or the hold-mode updates of a commit (R395). `todo` are blocks to process, `mats`
matrix-class records, the first of them under way in stage 0 RULE, 1 the matrix job, 2 POST (R389), with `hin` when POST
takes X0 from HIN (R390); `kept` are blocks between RULE and POST, and `sig` the signal of an UPDATE. `did` are the
hold-mode blocks updated so far. -/
structure MillWork where
  hold : Bool := false
  sig  : Nat := 0
  todo : List MBlock := []
  mats : List Nat := []
  stage : Nat := 0
  hin  : Bool := false
  kept : List MBlock := []
  did  : List (Nat × Nat) := []
  deriving DecidableEq, Repr

/-- A commit under way (R395, R398, R400): the step number, the new epoch, OUTCNT and SIG, the hold-mode records still to
settle, the working copies to regenerate as (record, blocks), state that has come from a peer for them, and the program frames it has waited on a
fence. -/
structure Resolve where
  num    : Nat
  epoch  : Nat
  commit : Option (Nat × Nat) := none
  holds  : List Nat := []
  regen  : List (Nat × List Nat) := []
  arrived : List (Nat × Nat × List Byte) := []
  frames : Nat := 0
  stalled : Bool := false
  deriving DecidableEq, Repr

/-- The Mill beside its registers: whether its walk is on, whether it would go past descriptor 4 095, its work, the
commit under way, and the schedule values of the step by group (R372). -/
structure MillSt where
  walking : Bool := false
  past    : Bool := false
  work    : Option MillWork := none
  res     : Option Resolve := none
  sched   : List (Nat × Nat) := []
  deriving DecidableEq, Repr

/-- A run of spill space (R335): the entry it holds, whether it lies in the peer region, its first line and its length. -/
structure SpillRun where
  entry : Nat
  peer  : Bool
  start : Nat
  lines : Nat
  deriving DecidableEq, Repr

/-- The stash engine beside its table and registers: spill space, copies held by the peer region and the drops logged
with their event keys (R336). -/
structure StashSt where
  runs  : List SpillRun := []
  peer  : List (Nat × List Byte) := []
  drops : List (List Byte × Nat) := []
  deriving DecidableEq, Repr

/-- The Wain beside its registers: whether its walk is on, whether it would go past descriptor 4 095, and the carts of
the descriptor in progress. -/
structure WainSt where
  walking : Bool := false
  past    : Bool := false
  carts   : List Nat := []
  deriving DecidableEq, Repr

/-! ## Fabric -/

/-- What the port at a link's end has agreed with its partner, and how far admission has come (R418, R420, R422). -/
structure AdmSt where
  /-- Steps passed: 1 training, 2 HELLO, 3 PROOF, 4 CONFIRM. -/
  step   : Nat := 0
  nonce  : List Byte := []
  /-- The bytes of the HELLO sent, the session hash h, and the keys okm that this admission derives (R420). -/
  own    : List Byte := []
  hash   : List Byte := []
  next   : List Byte := []
  peer   : Option Hello := none
  /-- Bytes so far of an ADMIT message that comes in several packets, and packets that wait for a slot before the link is
  up, each with whether it carries a tag (R417, R418). -/
  asm    : List Byte := []
  out    : List (Bool × Packet) := []
  /-- The partner's ID and identity-key digest of the last completed admission (R416). -/
  last   : Option (Nat × List Byte) := none
  /-- The keys okm of the link, and those of the previous key phase while it is in use (R420, R422). -/
  keys    : List Byte := []
  oldKeys : List Byte := []
  /-- Key phase of the current keys (R422). -/
  phase  : Bool := false
  /-- Payloads encrypted in the current phase, and payloads of the partner decrypted in it and in the previous one. -/
  iv     : Nat := 0
  rxIv   : Nat := 0
  oldIv  : Nat := 0
  deriving DecidableEq, Repr

/-- A fabric port beside its registers (R410 to R416). -/
structure PortSt where
  txNext : Nat := 0
  rxNext : Nat := 0
  /-- Sent and not acknowledged, in LSEQ order. -/
  replay : List Packet := []
  /-- Replays waiting to be sent. -/
  again  : List Packet := []
  /-- NAK goes out in the next trailer; a gap is being waited out. -/
  nakDue : Bool := false
  gap    : Bool := false
  /-- Consecutive NAKs received for one LSEQ. -/
  nakSeq : Nat := 0
  naks   : Nat := 0
  /-- Credits held and credits to return, by virtual lane (R411). -/
  credit : List Nat := [0, 0, 0, 0]
  owed   : List Nat := [0, 0, 0, 0]
  ctrl   : List Packet := []
  best   : List Packet := []
  /-- Packets of other devices that wait to be forwarded, with the port each came in on (R411, R431). -/
  transit : List (Nat × Packet) := []
  adm    : AdmSt := {}
  /-- Both ends are to resume from the LACK that the partner has yet to send (R416). -/
  resume : Bool := false
  /-- The frame number of the last packet received, extended to 48 bits (R66). -/
  rxFrame : Nat := 0
  /-- Lane whose failover is acknowledged, and whether a tick has come since (R414). -/
  moving : Option (Nat × Bool) := none
  /-- Lanes declared failed whose FAILOVER is not acknowledged yet. -/
  asked  : List Nat := []
  /-- Uncorrectable codewords in this housekeeping round, by lane (R414). -/
  badRound : KMap Nat := []
  deriving DecidableEq, Repr

/-- A cart that lands here from another device (R284, R442). -/
structure InCart where
  src     : Nat
  cart    : Nat
  first   : Nat
  last    : Option Nat := none
  applied : Nat := 0
  lost    : Bool := false
  deriving DecidableEq, Repr

/-- A reduction tree (R443 to R446): whether a run is on, whether the gate may start one, the landed up segments as
(child, segment), the combined segments, those sent up, those written by a down segment, and those sent down as
(child, segment). -/
structure TreeSt where
  run    : Bool := false
  armed  : Bool := true
  landed : List (Nat × Nat) := []
  combined : List Nat := []
  upSent : List Nat := []
  down   : List Nat := []
  downSent : List (Nat × Nat) := []
  deriving DecidableEq, Repr

/-- The flag tree (R450, R451) and the flag block of the Floor (R471 to R474): instances (kind, key) learned from below
and from above, those sent as (kind, key, down, port); the generation of each partition barrier, the arrivals from child
ports as (barrier, generation, port), whether this member has arrived and the rack has, as (barrier, generation), the
REL flags as (barrier, whether it is flashed in this frame). -/
structure FlagSt where
  known : List (Nat × Nat) := []
  downs : List (Nat × Nat) := []
  sent  : List (Nat × Nat × Bool × Nat) := []
  gens  : KMap Nat := []
  came  : List (Nat × Nat × Nat) := []
  mine  : List (Nat × Nat) := []
  rack  : List (Nat × Nat) := []
  rel   : List (Nat × Bool) := []
  deriving DecidableEq, Repr

/-- The fabric beside its registers; `mgmt` holds the bytes so far of MGMT messages that come in several packets, by
source. -/
structure FabSt where
  ports : KMap PortSt := []
  mgmt  : KMap (List Byte) := []
  inb   : List InCart := []
  trees : KMap TreeSt := []
  flags : FlagSt := {}
  deriving DecidableEq, Repr

/-! ## The Cellar, the Seed and identity -/

/-- One copy of a Cellar record (R545); `ok` says that its CRC holds. -/
structure CellCopy where
  version : Nat
  seq     : Nat
  body    : List Byte
  ok      : Bool := true
  deriving DecidableEq, Repr

/-- The two copies of a record (R545). -/
structure CellRec where
  a : Option CellCopy := none
  b : Option CellCopy := none
  deriving DecidableEq, Repr

/-- A Cellar store that waits or is in progress: kind, VERSION, body, and the command it completes (R547). -/
structure StoreReq where
  kind    : Nat
  version : Nat
  body    : List Byte
  handle  : Option Nat := none
  deriving DecidableEq, Repr

/-- The Cellar: its records by kind, and the stores in the order accepted, the first of them in progress (R545 to
R547). -/
structure CellarSt where
  recs   : KMap CellRec := []
  stores : List StoreReq := []
  deriving DecidableEq, Repr

/-- What the Seed has given beside registers (R419, R462, R525): whether it has been read, its PERIOD and WIN, the
authority key, the certificate and its signature, the allowed digests, the member list and the FIRMWARE section. -/
structure SeedSt where
  read    : Bool := false
  period  : Nat := 0
  win     : Nat := 0
  authKey : List Byte := []
  cert    : List Byte := []
  certSig : List Byte := []
  digests : List (List Byte) := []
  members : KMap Nat := []
  slots   : List Byte := []
  deriving DecidableEq, Repr

/-- A firmware image in a processor's memory: the slot it was read from and what its header gives (R572, R573). -/
structure Image where
  slot   : Nat
  major  : Nat
  minor  : Nat
  clrver : Nat
  svn    : Nat
  hash   : List Byte
  deriving DecidableEq, Repr

/-- Firmware beside its registers (R574 to R592): the active image; what the standby processor holds, a staged scion or
the rootstock of a trial; the handle and slot of the STAGE in progress; the handle of a GRAFT that waits for its frame
boundary; the hand-over
tick's microseconds left in the trial window and the housekeeping rounds since; a fallback that is due; whether a
confirmation has been accepted and its stores run; the commands the scion has accepted; and the measurement log. -/
structure FwmSt where
  run      : Option Image := none
  other    : Option Image := none
  staging  : Option (Nat × Nat) := none
  graft    : Option Nat := none
  left     : Nat := 0
  rounds   : Nat := 0
  fallDue  : Bool := false
  confirming : Bool := false
  since    : List Nat := []
  log      : List (List Byte) := []
  deriving DecidableEq, Repr

/-! ## Temperature, power and clocks -/

/-- A Loft site (R557): suspect, rounds in a row at or below 4 °C, rounds in a row above 8 °C while suspect, and whether
its layer fault is recorded in this spell. -/
structure SiteSt where
  suspect : Bool := false
  calm    : Nat := 0
  hot     : Nat := 0
  told    : Bool := false
  deriving DecidableEq, Repr

/-- Housekeeping beside its registers: sites by 32 × layer + site; thermal levels by row of R561 (0 Crown, 1 Loft, 2 Root,
3 + s Granary controller s) and power levels; the µs that the draw has stayed 50 W below the limit (R565); the excursion
credit in quarters of a µs (R564); sixteenths of a skipped cycle not counted yet; the rounds in a row that a rail has been
out of range, and those with every rail in range (R566); the offsets recorded by temperature class, as draws (R558);
domains out of lock with the rounds since, and whether the watchdog is left to expire (R567). -/
structure HskSt where
  sites    : KMap SiteSt := []
  thermal  : KMap Nat := []
  power    : KMap Nat := []
  calm     : Nat := 0
  credit   : Nat := 40000
  skip     : Nat := 0
  railBad  : KMap Nat := []
  railGood : Nat := 0
  classes  : KMap Nat := []
  unlocked : List (Nat × Nat) := []
  starved  : Bool := false
  deriving DecidableEq, Repr

/-! ## Reset and start-up -/

/-- A partial reset (R535): kind and target, the command it completes, and how far it has come: 0 waiting, 1 quiescing or
under way, 2 the Root is in its sub-reset. -/
structure PartReq where
  kind   : Nat
  target : Nat
  handle : Option Nat := none
  stage  : Nat := 0
  /-- Program frames the quiesce has waited (R536). -/
  frames : Nat := 0
  deriving DecidableEq, Repr

/-- Reset and start-up beside their registers: supplies and pins (R513, R514, R519, R520, R566, R640), fuses blown for the
next full reset (R523), the flash and the Seed buffer (R34), whether its read met an error, partial resets in order, the
digests of accepted MGMT messages, latest first (R543), and the trips that no LIFE record counts yet (R546). -/
structure RstSt where
  power    : Bool := true
  mainPg   : Bool := false
  perst    : Bool := false
  trip     : Bool := false
  ready    : Bool := false
  fault    : Bool := false
  fuses    : Nat := 0
  flash    : KMap Byte := []
  seedBuf  : KMap Byte := []
  seedErr  : Bool := false
  parts    : List PartReq := []
  digests  : List (List Byte) := []
  trips    : Nat := 0
  /-- A Fallow command entered Fallow and a WAKE has not ended it yet; the WAKE commands that complete then (R534). -/
  waking   : Bool := false
  wakes    : List Nat := []
  deriving DecidableEq, Repr

/-! ## The Floor -/

/-- The Floor beside its registers (R469 to R489). -/
structure FloorSt where
  ranged  : Bool := false
  /-- The delay applied to transmit timing, in 1/16 ns (R470). -/
  applied : Nat := 0
  /-- W, the frame of the drawn ranging slot, and whether the device's RANGE awaits its echo (R469). -/
  w       : Nat := 64
  rslot   : Nat := 0
  echo    : Bool := false
  /-- The frame of the join window's first contention slot, the frame of the drawn slot, the failures in the window, and
  the frame of a JOIN that awaits the next beacon (R482). -/
  jstart  : Nat := 0
  jslot   : Nat := 0
  fails   : Nat := 0
  jsent   : Option Nat := none
  /-- The frame of this device's last burst in a contention slot, and whether it sent a beacon or telemetry in the slot in
  progress (R490). -/
  cont    : Option Nat := none
  air     : Bool := false
  /-- A valid beacon has been heard in this frame; the frame has been judged for hold-over (R488). -/
  heard   : Bool := false
  judged  : Bool := false
  /-- A valid beacon has been heard since the device began to listen (R485). -/
  known   : Bool := false
  /-- Frames since the last beacon-type burst with a good CRC (R479). -/
  quiet   : Nat := 0
  /-- The run of frames without a beacon, and the leader's HOLDCNT (R476, R488). -/
  run     : Nat := 0
  holdcnt : Nat := 0
  /-- HOLDOVER, ROOT and LRANK of the last valid beacon. -/
  bhold   : Bool := false
  broot   : Bool := false
  brank   : Nat := 0
  /-- This device begins beaconing in the next frame (R480). -/
  takes   : Bool := false
  /-- Claims received as leader: rank and Floor index; the frame of this device's next CLAIM, and those sent (R480). -/
  claims  : List (Nat × Nat) := []
  cslot   : Nat := 0
  ctries  : Nat := 0
  /-- Refusals to place: device ID and reason (R483). -/
  refusals : List (Nat × Nat) := []
  /-- Telemetry slots in a row in which an index has sent nothing valid, and the index whose slot is in progress (R486). -/
  silent  : KMap Nat := []
  due     : Option Nat := none
  /-- Leaving: the payload of LEAVE; the frame of the next attempt, and those made (R487). -/
  leaving : Option Nat := none
  lslot   : Nat := 0
  ltries  : Nat := 0
  /-- Two-way time transfer: the frame of the last exchange, T1 of one that awaits its answer, and the steer still to be
  applied in 1/256 ns (R478). -/
  tlast   : Nat := 0
  twait   : Option Nat := none
  steer   : Int := 0
  deriving DecidableEq, Repr

/-! ## The whole state -/

/-- Things that have left the device: packets and bare trailers on ports, bursts, and flashes in a slot of the flag block
or in a slip flag slot of the Floor. -/
inductive Wire where
  | packet (port : Nat) (pkt : Packet)
  | trailer (port : Nat) (tr : Trailer)
  | burst (bu : Burst)
  | flash (slot : Nat)
  | slipFlash (j : Nat)
  deriving DecidableEq, Repr

/-- The whole state. -/
structure State where
  /-- The commands that wait, first in first out. -/
  pending : List Instr := []
  /-- No command has come since the tick that began the running program frame but those that take effect at that tick: the
  model's own field for "at a frame boundary" (R44). -/
  edge    : Bool := false
  /-- Counter of free values: the model's own field. -/
  free    : Nat := 0
  /-- Registers by control-space offset (R14, R601); an unlisted one holds its reset value. -/
  regs    : KMap Word := []
  /-- Latched _HI values by offset (R15). -/
  latch   : List (Nat × Word) := []
  /-- What the last host read returned (R602, R605). -/
  rdata   : Dword := 0
  /-- The 40-bit local space by byte; an unlisted byte reads zero. -/
  mem     : KMap Byte := []
  ecc     : EccSt := {}
  frm     : FrameSt := {}
  boughs  : KMap BoughSt := []
  net     : List Signal := []
  bars    : KMap BarSt := []
  integ   : IntegSt := {}
  carts   : List (Nat × CartSt) := []
  loft    : LoftSt := {}
  fab     : FabSt := {}
  step    : StepSt := {}
  mill    : MillSt := {}
  stash   : StashSt := {}
  wain    : WainSt := {}
  floor   : FloorSt := {}
  seed    : SeedSt := {}
  cellar  : CellarSt := {}
  /-- PROOF signatures that wait for a signing index: port and message (R589). -/
  signs   : List (Nat × List Byte) := []
  fwm     : FwmSt := {}
  hsk     : HskSt := {}
  rst     : RstSt := {}
  host    : HostSt := {}
  msix    : MsixSt := {}
  wire    : List Wire := []
  deriving DecidableEq, Repr

/-- Why a command stops the machine. -/
inductive Fault where
  /-- Raised by a command that walks a frame program whose next item lies at an unmapped local offset (R254): safe, the
  machine stops where the manual gives no data. -/
  | unmappedItem
  deriving DecidableEq, Repr

/-- Why a command is refused. -/
inductive Refusal where
  /-- Raised by the arm of a command that has no meaning yet: safe, the machine stops. -/
  | notModelled (mnemonic : String)
  deriving DecidableEq, Repr

/-- The machine right after a power-on reset. -/
def State.reset : State := {}

end Sys2Proof.Machine
end

