-- ==== Sys2Proof/Machine/Flags.lean ====
section
/-! DEFINITION. Register access inside the device, event flags and counters, the numeric status sets, and the vectors
that status bits raise. -/

namespace Sys2Proof.Machine

/-! ## Registers -/

/-- The value a register holds. -/
def reg (s : State) (a : Nat) : Word := kget regReset s.regs a

/-- Set a register's value. -/
def setReg (s : State) (a : Nat) (v : Word) : State := { s with regs := kset regReset s.regs a v }

/-- The register's value as a number. -/
def regN (s : State) (a : Nat) : Nat := (reg s a).toNat

def setRegN (s : State) (a v : Nat) : State := setReg s a (BitVec.ofNat 32 v)

/-- A field of a register. -/
def fld (s : State) (a : Nat) (f : Fld) : Nat := f.get (reg s a)

def setFld (s : State) (a : Nat) (f : Fld) (v : Nat) : State := setReg s a (f.put (reg s a) v)

/-- A 64-bit quantity: its _LO register is at `a` (R14). -/
def reg64 (s : State) (a : Nat) : Nat := regN s a + 2 ^ 32 * regN s (a + 4)

def setReg64 (s : State) (a v : Nat) : State := setRegN (setRegN s a v) (a + 4) (v / 2 ^ 32)

/-- Add to a 32-bit counter that saturates at 0xFFFF_FFFF. -/
def bump (s : State) (a n : Nat) : State := setRegN s a (min (regN s a + n) 0xFFFFFFFF)

/-- Add to a 64-bit count. -/
def bump64 (s : State) (a n : Nat) : State := setReg64 s a ((reg64 s a + n) % 2 ^ 64)

/-- The device sets bits of an RW1C status register. -/
def raise (s : State) (a mask : Nat) : State := setReg s a (reg s a ||| BitVec.ofNat 32 mask)

/-- The mask of a one-bit field. -/
def Fld.bit (f : Fld) : Nat := 2 ^ f.lo

/-! ## Numeric status sets (R116 to R118); a set's registers begin at `base` -/

/-- Count the events of an operation in a set and set its sticky bits. -/
def numEv (s : State) (base : Nat) (e : Ev) : State :=
  let one (s : State) (off n bit : Nat) : State :=
    if n = 0 then s else raise (bump s (base + off) n) (base + 0x10) bit
  one (one (one (one s 0 e.ovf 1) 4 e.nansq 2) 8 e.flush 4) 0xC e.scnan 8

/-! ## Interrupts (R620, R621) -/

/-- The status registers: place, enable register, how many and how far apart, and vector (R620). -/
def irqRows : List (Nat × Nat × Nat × Nat × Nat) := [
  (Reg.FRM_INTSTAT, Reg.FRM_INTEN, 1, 1, 1),
  (Reg.BGH_INTSTAT 0, Reg.BGH_INTEN 0, 68, 0x1000, 2),
  (Reg.BGH_MAINTSTAT 0, Reg.BGH_MAINTEN 0, 68, 0x1000, 2),
  (Reg.THR_INTSTAT 0, Reg.THR_INTEN 0, 68, 0x400, 2),
  (Reg.SKL_INTSTAT, Reg.SKL_INTEN, 1, 1, 3),
  (Reg.LFT_INTSTAT, Reg.LFT_INTEN, 1, 1, 4),
  (Reg.LFT_PLCINT, Reg.LFT_PLCEN, 1, 1, 4),
  (Reg.LFT_STINT, Reg.LFT_STINTEN, 1, 1, 4),
  (Reg.MIL_INTSTAT, Reg.MIL_INTEN, 1, 1, 5),
  (Reg.WAN_INTSTAT, Reg.WAN_INTEN, 1, 1, 6),
  (Reg.FAB_INTSTAT, Reg.FAB_INTEN, 1, 1, 7),
  (Reg.FLR_INTSTAT, Reg.FLR_INTEN, 1, 1, 8),
  (Reg.INT_INTSTAT, Reg.INT_INTEN, 1, 1, 9),
  (Reg.RST_INTSTAT, Reg.RST_INTEN, 1, 1, 10),
  (Reg.HSK_INTSTAT, Reg.HSK_INTEN, 1, 1, 11),
  (Reg.FWM_INTSTAT, Reg.FWM_INTEN, 1, 1, 12),
  (Reg.HST_INTSTAT, Reg.HST_INTEN, 1, 1, 13)]

/-- Whether `a` is register number (a − base) / stride of a run of `n`. -/
def inRun (a base n stride : Nat) : Bool :=
  decide (base ≤ a) && decide ((a - base) % stride = 0) && decide ((a - base) / stride < n)

/-- The status register, enable register and vector that a register belongs to, if it is either of a pair. -/
def irqOf (a : Nat) : Option (Nat × Nat × Nat) :=
  irqRows.findSome? fun (st, en, n, k, v) =>
    if inRun a st n k then some (a, en + (a - st), v)
    else if inRun a en n k then some (st + (a - en), a, v)
    else none

/-- The enabled events of a status register. -/
def irqLevel (s : State) (st en : Nat) : Word := reg s st &&& reg s en

/-- The vectors whose status bits, ANDed with their enables, went from 0 to 1 between two states, each once (R621). -/
def irqEdges (s t : State) : List Nat :=
  (t.regs.filterMap fun (a, _) =>
    match irqOf a with
    | none => none
    | some (st, en, v) => if irqLevel t st en &&& ~~~ (irqLevel s st en) = 0 then none else some v).eraseDups

/-- The MSI-X table word at an offset: after reset every vector is masked (R596, PCI Express). -/
def msixReset (a : Nat) : Word := if a % 16 = 12 then 1 else 0

/-- Whether the function may send a vector now: not masked, and the function may master the bus (R597, R598). -/
def msixOpen (s : State) (v : Nat) : Bool :=
  (kget msixReset s.msix.table (16 * v + 12)).toNat % 2 = 0 && s.host.bme && !s.host.d3hot

/-- Send a vector, or set its pending bit. -/
def msixSend (t : State) (m : MsixSt) (v : Nat) : MsixSt :=
  if msixOpen t v then { m with sent := v :: m.sent, pba := m.pba - (if bitN m.pba v then 2 ^ v else 0) }
  else { m with pba := m.pba ||| 2 ^ v }

/-- Send the pending vectors that may now be sent. -/
def msixFlush (t : State) (m : MsixSt) : MsixSt :=
  (List.range 14).foldl (fun m v => if bitN m.pba v && msixOpen t v then msixSend t m v else m) m

/-- MSI-X after a command that led from `s` to `t`: each block vector on its edge, vector 0 once per completion entry,
and whatever an unmasked vector had pending (R620, R621). The masks of `s` hold for what the command raised. The list of
vectors sent only grows. -/
def msixAfter (s t : State) : MsixSt :=
  let due := irqEdges s t ++ List.replicate (t.host.completions - s.host.completions) 0
  msixFlush t (due.foldl (msixSend s) { t.msix with sent := s.msix.sent })

/-- The device stands at a frame boundary: at a tick that began a program frame (R44). -/
def atBoundary (s : State) : Bool := s.edge

/-- The device works: its supplies are up and no thermal trip is latched (R514, R639, R640). -/
def alive (s : State) : Bool := s.rst.power && s.rst.mainPg && !s.rst.trip

/-- How a command that takes effect at a tick ends: its effect `t`, the queue as the step left it, and the vectors the
effect raised. -/
def finishEdge (s t : State) : Host.Outcome State Fault Refusal :=
  .next { t with pending := s.pending, msix := msixAfter s t }

/-- How every other command ends: the frame boundary is past (R44). -/
def finishAny (s t : State) : Host.Outcome State Fault Refusal := finishEdge s { t with edge := false }

/-- How a command of a working device ends; one that is stopped or off takes no command. -/
def finish (s t : State) : Host.Outcome State Fault Refusal := finishAny s (if alive s then t else s)

/-- How the tick and the commands that wait for a frame boundary end (R44). -/
def finishTick (s t : State) : Host.Outcome State Fault Refusal := finishEdge s (if alive s then t else s)

end Sys2Proof.Machine
end

