-- ==== Sys2Proof/Machine/Ops.lean ====
section
/-! DEFINITION. The named operations that commands share: free values, events and error records, Blight and the end of a
job, the local map, reads and writes of memory under the codes, signals, pre-emption and completions. -/

namespace Sys2Proof.Machine

/-! ## Lists keyed by number -/

/-- Replace or add the entry at a key of an association list. -/
def aput {α : Type} (l : List (Nat × α)) (k : Nat) (v : α) : List (Nat × α) := kins k v l

def adel {α : Type} (l : List (Nat × α)) (k : Nat) : List (Nat × α) := kdel k l

def bough (s : State) (b : Nat) : BoughSt := kget (fun _ => {}) s.boughs b

def setBough (s : State) (b : Nat) (x : BoughSt) : State := { s with boughs := kset (fun _ => {}) s.boughs b x }

/-- The physical bough that presents as bough n; 127 when none does (R150, R153). -/
def phys (s : State) (n : Nat) : Nat := if n < 64 then fld s (Reg.BGH_PMAP n) Fld.BGH_PMAP_PHYS else 127

/-- The physical boughs presented, in order of their presented numbers. -/
def presented (s : State) : List Nat := ((List.range 64).map (phys s)).filter (· < 68)

/-! ## Events (R63 to R65) -/

/-- The device's own ID (R525). -/
def deviceId (s : State) : Nat := fld s Reg.FAB_ID Fld.FAB_ID_ID

def frameNo (s : State) : Nat := reg64 s Reg.FRM_COUNT_LO

/-- The program frame index (R43). -/
def pindex (s : State) : Nat := reg64 s Reg.FRM_PINDEX_LO

/-- The event key the next event carries (R63). -/
def eventKey (s : State) (cartseq : Nat) : List Byte :=
  leBytes 8 (reg64 s Reg.FRM_EVSEQ_LO) ++ leBytes 6 (frameNo s) ++ leBytes 3 (deviceId s) ++ leBytes 3 0
    ++ leBytes 4 cartseq

/-- The event sequence after one more event (R65). -/
def countEvent (s : State) : State := bump64 s Reg.FRM_EVSEQ_LO 1

/-- What an error record says beside its key (R507). -/
structure Rec where
  kind   : Nat
  type   : Nat
  action : Nat
  info   : Nat := 0
  unit   : Nat := 0
  sub    : Nat := 0xFFFF
  addr   : Nat := 0
  detail : Nat := 0
  seq    : Nat := 0
  deriving DecidableEq, Repr

/-- Write words at consecutive registers. -/
def setWords (s : State) (a : Nat) : List Byte → Nat → State
  | _, 0 => s
  | bs, n + 1 => setWords (setRegN s a (leNat (bs.take 4))) (a + 4) (bs.drop 4) n

/-- Write an error record (R507). -/
def record (s : State) (r : Rec) : State :=
  let n := reg64 s Reg.INT_LOGCOUNT_LO
  let bs := eventKey s (if r.kind = 7 then r.seq else 0) ++ leBytes 1 r.kind ++ leBytes 1 r.type
    ++ leBytes 1 r.action ++ leBytes 1 r.info ++ leBytes 2 r.unit ++ leBytes 2 r.sub ++ leBytes 8 r.addr
    ++ leBytes 8 r.detail ++ leBytes 4 r.seq ++ leBytes 12 0
  bump64 (countEvent (setWords s (Reg.INT_LOG (n % 1024) 0) bs 16)) Reg.INT_LOGCOUNT_LO 1

/-- Give record n the SEQ of the tile or cart that caused it, and a cart's its CARTSEQ (R63, R183, R507). -/
def stampRecord (seq : Nat) (cart : Bool) (s : State) (n : Nat) : State :=
  let s := setRegN s (Reg.INT_LOG (n % 1024) 0 + 48) seq
  if cart then setRegN s (Reg.INT_LOG (n % 1024) 0 + 20) seq else s

/-- The records and Blight reports made since `s0` belong to a tile, or to a cart (R63, R183, R507). -/
def stamp (s0 : State) (seq : Nat) (cart : Bool) (s : State) : State :=
  let n0 := reg64 s0 Reg.INT_LOGCOUNT_LO
  let s := (List.range (reg64 s Reg.INT_LOGCOUNT_LO - n0)).foldl (fun s i => stampRecord seq cart s (n0 + i)) s
  if cart then
    let k := s0.step.reports.length
    let own := (s.step.reports.drop k).map fun r => (r.1.take 20 ++ leBytes 4 seq, r.2)
    { s with step := { s.step with reports := s.step.reports.take k ++ own } }
  else s

/-- TYPE codes of R507. -/
def tyCorr : Nat := 0
def tyUncorr : Nat := 1
def tyUninit : Nat := 2
def tyLpar : Nat := 3
def tyCheck : Nat := 4
def tyDispute : Nat := 5
def tyRepair : Nat := 6
def tyAddr : Nat := 7
def tyRakeSlow : Nat := 8
def tyService : Nat := 9
def tyLost : Nat := 10

/-- ACTION codes of R507. -/
def actLogged : Nat := 0
def actCorrected : Nat := 1
def actRefilled : Nat := 2
def actReplayed : Nat := 3
def actBlight : Nat := 4
def actJobEnd : Nat := 5
def actRepaired : Nat := 6
def actExit : Nat := 7

/-! ## The partition's Blight and the open steps (R362 to R365) -/

/-- Blight sources of R365. -/
def srcRuntime : Nat := 0
def srcNonfin : Nat := 1
def srcNansq : Nat := 2
def srcUncorr : Nat := 3
def srcStash : Nat := 4
def srcMillFault : Nat := 5
def srcCascade : Nat := 6
def srcLateSlip : Nat := 7

/-- A training step is open (R363). -/
def stepOpen (s : State) : Bool := !s.step.opened.isEmpty

/-- CFRAME and HORIZON of MIL_GATE. -/
def cframe (s : State) : Nat := fld s Reg.MIL_GATE Fld.MIL_GATE_CFRAME
def horizon (s : State) : Nat := fld s Reg.MIL_GATE Fld.MIL_GATE_HORIZON

/-- MIL_BSTAT shows the sources raised here for the earliest open step. -/
def syncBstat (s : State) : State :=
  setRegN s Reg.MIL_BSTAT (match s.step.opened with | [] => 0 | x :: _ => x.blight % 256)

/-- Some member has raised Blight for the step, as far as this device knows (R394). -/
def OpenStep.bad (x : OpenStep) : Bool := x.blight ≠ 0 || x.heard

/-- A Blight for the earliest open step makes the Mill's walk of its updates dry (R396). -/
def syncDry (s : State) : State :=
  match s.step.opened with
  | [] => s
  | x :: _ =>
    if x.bad && s.mill.walking && x.commit.isNone && s.mill.res.isNone then
      setFld s Reg.MIL_STATUS Fld.MIL_STATUS_DRY 1
    else s

/-- Add sources to the step that opened at a program frame. -/
def markStep (start src : Nat) (l : List OpenStep) : List OpenStep :=
  l.map fun x => if x.start = start then { x with blight := x.blight ||| src } else x

/-- A Blight report: its event key and source (R365). -/
def reportBlight (s : State) (src : Nat) : State :=
  let key := eventKey s 0
  let s := countEvent s
  { s with step := { s.step with reports := s.step.reports ++ [(key, src)] } }

/-- Blight for the step that opened at a program frame. -/
def blightStep (s : State) (start src : Nat) : State :=
  let s := reportBlight s src
  syncBstat (syncDry { s with step := { s.step with opened := markStep start (2 ^ src) s.step.opened } })

/-- Raise Blight with a source (R364, R365): it belongs to the latest open step up to the end of its step frame CFRAME,
else to the next to open. -/
def raiseBlight (s : State) (src : Nat) : State :=
  let inStep (x : OpenStep) : Bool := pindex s ≤ x.start + cframe s
  match s.step.opened.getLast? with
  | some x => if inStep x then blightStep s x.start src else later (reportBlight s src) src
  | none => later (reportBlight s src) src
where
  later (s : State) (src : Nat) : State := { s with step := { s.step with next := s.step.next ||| 2 ^ src } }

/-- Count arithmetic events in a numeric status set; a NaN squashed while a step is open raises Blight (R114). -/
def numEvB (s : State) (base : Nat) (e : Ev) : State :=
  let s := numEv s base e
  if e.nansq ≠ 0 && stepOpen s then raiseBlight s srcNansq else s

/-! ## Completions (R614 to R617, R627) -/

def findCmd (s : State) (h : Nat) : Option HostCmd := s.host.cmds.find? (fun c => c.handle = h)

/-- HST_INFLIGHT is the number of handles PENDING or RUNNING. -/
def syncInflight (s : State) : State := setRegN s Reg.HST_INFLIGHT (s.host.cmds.countP fun c => !c.gone)

/-- A handle's status entry (R614). -/
def handleEntry (h st status detail logseq : Nat) : List Byte :=
  leBytes 4 h ++ leBytes 1 st ++ leBytes 1 status ++ leBytes 1 detail ++ leBytes 1 0 ++ leBytes 8 logseq

/-- Write bytes at a host bus address. -/
def hostWrite (m : KMap Byte) (a : Nat) : List Byte → KMap Byte
  | [] => m
  | b :: t => hostWrite (kset (fun _ => 0#8) m a b) (a + 1) t

def hostRead (m : KMap Byte) (a n : Nat) : List Byte := (List.range n).map fun i => kget (fun _ => 0#8) m (a + i)

/-- What a completion entry says beside its key and number (R615). -/
structure Compl where
  status   : Nat
  detail   : Nat := 0
  aux      : Nat := 0
  degraded : Nat := 0
  value    : Nat := 0
  deriving DecidableEq, Repr

/-- Write a completion log entry for a command, when the log runs and the function may master the bus (R597, R598,
R615); a write that meets an error sets LOGERR and stops the log (R627). Answers the state and the entry's number, all
ones when none was written. -/
def logEntry (s : State) (c : HostCmd) (e : Compl) : State × Nat :=
  let none64 := 2 ^ 64 - 1
  if fld s Reg.HST_CTRL Fld.HST_CTRL_LOGEN = 1 && s.host.bme && !s.host.d3hot then
    let n := reg64 s Reg.HST_LOGSEQ_LO
    if Config.hostWriteFails n then
      (setFld (raise s Reg.HST_INTSTAT Fld.HST_INTSTAT_LOGERR.bit) Reg.HST_CTRL Fld.HST_CTRL_LOGEN 0, none64)
    else
      let bs := eventKey s 0 ++ leBytes 8 n ++ leBytes 4 c.handle ++ bytesAt c.record 4 4 ++ bytesAt c.record 0 2
        ++ leBytes 1 e.status ++ leBytes 1 e.detail ++ leBytes 4 e.aux ++ leBytes 8 e.degraded ++ leBytes 8 e.value
      let slot := n % 2 ^ fld s Reg.HST_LOGSIZE Fld.HST_LOGSIZE_ORDER
      let h := { s.host with mem := hostWrite s.host.mem (reg64 s Reg.HST_LOGBASE_LO + 64 * slot) bs
                             completions := s.host.completions + 1 }
      (bump64 (countEvent { s with host := h }) Reg.HST_LOGSEQ_LO 1, n)
  else (s, none64)

/-- The command is over: nothing waits or runs under its handle any more. -/
def dropCmd (s : State) (h : Nat) : State :=
  syncInflight { s with host := { s.host with cmds := s.host.cmds.filter fun x => x.handle ≠ h } }

/-- Complete the command of a handle (R616, R617): its log entry, then its status entry reads DONE. A command without a
handle leaves no trace (R624). -/
def complete (s : State) (h : Nat) (e : Compl) : State :=
  match findCmd s h with
  | none => s
  | some c =>
    if c.gone then dropCmd s h
    else
      let (s, n) := logEntry s c e
      dropCmd { s with host := { s.host with
        handles := aput s.host.handles (h % 4096) (handleEntry h 3 e.status e.detail n) } } h

/-! ## Pre-emption and the end of a job (R148, R619) -/

def isStopped (s : State) (b : Nat) : Bool := fld s (Reg.BGH_STATUS b) Fld.BGH_STATUS_STOPPED = 1

def stIdle : Nat := 1
def stRunning : Nat := 2
def stFallow : Nat := 3
def stDormant : Nat := 4
def stQuiesce : Nat := 5

def rstState (s : State) : Nat := fld s Reg.RST_STATUS Fld.RST_STATUS_STATE
def rsPhase (s : State) : Nat := fld s Reg.RST_STATUS Fld.RST_STATUS_PHASE

/-- The walks of the Mill and the Wain and the work of an UPDATE stop with the job, and so does a step without Blight. A
step with Blight stays open until its gate, which discards it (R56, R393, R394), and a resolution that has begun runs to
its end (R395). -/
def stopEngines (s : State) : State :=
  let opened := s.step.opened.filter (·.bad)
  let mill : MillSt := { s.mill with walking := false, past := false, work := s.mill.work.filter (·.hold) }
  let s := { s with step := { s.step with opened := opened, next := 0, early := [], rel := none }, mill := mill, wain := {} }
  let w := reg s Reg.MIL_STATUS
  let w := Fld.MIL_STATUS_NOPEN.put w opened.length
  let w := Fld.MIL_STATUS_GATED.put (Fld.MIL_STATUS_DRY.put (Fld.MIL_STATUS_BUSY.put w 0) 0) 0
  syncBstat (setRegN (setReg s Reg.MIL_STATUS w) Reg.WAN_STATUS 0)

/-- The job is gone: the device is Idle again (R532), and no access waits any longer for a rank that is missing
(R310). -/
def dropJob (s : State) : State :=
  let rounds := s.loft.rounds.filter fun (_, r) => !r.closing
  let s := stopEngines { s with host := { s.host with job := none }, loft := { s.loft with rounds := rounds } }
  let s := setFld s Reg.HST_STATUS Fld.HST_STATUS_JOB 0
  let s := setFld s Reg.FRM_STATUS Fld.FRM_STATUS_CLASS 0
  if rstState s = stRunning then setFld s Reg.RST_STATUS Fld.RST_STATUS_STATE stIdle else s

/-- BGH_INTSTAT of the lowest stopped bough with a bit set (R616, PREEMPTED). -/
def stopDetail (s : State) : Nat :=
  match (presented s).find? (fun b => isStopped s b && decide (regN s (Reg.BGH_INTSTAT b) ≠ 0)) with
  | some b => regN s (Reg.BGH_INTSTAT b)
  | none => 0

/-- When every presented bough has stopped, the loaded job ends with its status and then the JOBSTOPs that asked for it
complete (R616, R617, R619). The degraded bitmap is that of a Deadline job; of a job that holds programs of both classes
it is given when the one that runs last is Deadline (DESIGN CHOICE, log entry 126: R61 speaks of a Fixed program's
completion only). -/
def jobStopCheck (s : State) : State :=
  match s.host.job with
  | none => s
  | some j =>
    if (presented s).all (isStopped s) then
      let (st, d) := j.ending.getD (3, stopDetail s)
      let e : Compl := { status := st, detail := d, degraded := (if j.cls = 2 then j.degraded else 0), value := pindex s }
      let s := complete (dropJob s) j.handle e
      j.stops.foldl (fun s h => complete s h { status := 0 }) s
    else s

/-- A pre-empted bough whose last issued item has retired sets STOPPED (R148). A walk that had not reached END leaves its
program frame unretired (R131). -/
def stopBough (s : State) (b : Nat) : State :=
  let st := { bough s b with walking := false, cut := (bough s b).cut || (bough s b).walking, barWait := none }
  let s := setBough s b st
  let w := reg s (Reg.BGH_STATUS b)
  let w := Fld.BGH_STATUS_STOPPED.put w 1
  let w := Fld.BGH_STATUS_ACTIVE.put w 0
  let w := Fld.BGH_STATUS_SEMWAIT.put w 0
  let w := Fld.BGH_STATUS_BARWAIT.put w 0
  raise (setReg s (Reg.BGH_STATUS b) w) (Reg.BGH_INTSTAT b) Fld.BGH_INTSTAT_STOPPED.bit

/-- A bough that is pre-empted, has nothing in flight and has not said so yet stops. -/
def stopCheck (s : State) (b : Nat) : State :=
  if (bough s b).halted && (bough s b).sb.isEmpty && !isStopped s b then stopBough s b else s

/-- Pre-empt a physical bough (R148): its walk stops and nothing further issues; what is in flight runs to
retirement. -/
def preempt (s : State) (b : Nat) : State :=
  stopCheck (setBough s b { bough s b with halted := true }) b

def preemptAll (s : State) : State := (presented s).foldl preempt s

/-- Pre-empt one bough and end the job if that stopped the last one. -/
def preemptOne (s : State) (b : Nat) : State := jobStopCheck (preempt s b)

/-- End the job with a status of R616, as a job-stop command would: the first status that applies stands. -/
def endJob (s : State) (status detail : Nat) : State :=
  match s.host.job with
  | none => s
  | some j =>
    let j := if j.ending.isNone then { j with ending := some (status, detail) } else j
    jobStopCheck (preemptAll { s with host := { s.host with job := some j } })

/-- A job runs or waits. -/
def jobLoaded (s : State) : Bool := s.host.job.isSome

/-- The mode of arithmetic of the loaded job (R91); fast is the default. -/
def strictMode (s : State) : Bool :=
  match s.host.job with
  | some j => j.strict
  | none => false

/-! ## The local map (R254, R255) -/

def objEnd : Nat := 0xC000000000
def directBase : Nat := 0xC000000000
def cribBase (b : Nat) : Nat := 0xD000000000 + b * 0x400000
def ctlBase : Nat := 0xF000000000

def directSize (s : State) : Nat := fld s Reg.LFT_DIRECT Fld.LFT_DIRECT_WAYS * 0x18000000

def isObj (a : Nat) : Bool := a < objEnd
def isDirect (s : State) (a : Nat) : Bool := directBase ≤ a && a < directBase + directSize s
def isCrib (a : Nat) : Bool := cribBase 0 ≤ a && a < cribBase 68
def isCtl (a : Nat) : Bool := ctlBase ≤ a && a < 0xF100000000

/-- A backed memory offset: object range, backed direct range or a Crib window. -/
def isMem (s : State) (a : Nat) : Bool := isObj a || isDirect s a || isCrib a

/-- A range of memory that is backed and stays in one region of R254. -/
def rangeOk (s : State) (a n : Nat) : Bool :=
  let e := a + n
  (isObj a && e ≤ objEnd) || (isDirect s a && e ≤ directBase + directSize s) || (isCrib a && e ≤ cribBase 68)

/-- The slice of a local offset of the object or direct range (R297, R299). -/
def sliceOf (a : Nat) : Nat :=
  if isObj a then
    let l := a / 4096
    bitsN l 5 0 ^^^ bitsN l 11 6 ^^^ bitsN l 17 12 ^^^ bitsN l 23 18 ^^^ bitsN l 27 24
  else (a - directBase) / 4096 % 64

/-- The set of a local offset (R297, R299). -/
def setOf (a : Nat) : Nat :=
  if isObj a then a / 4096 / 64 % 1536 else (a - directBase) / 4096 / 64 % 1536

/-- The Granary channel of an object-range offset (R298). -/
def channelOf (a : Nat) : Nat := 4 * sliceOf a + setOf a % 4

/-- The stack of an object-range offset: 32 channels each. -/
def stackOf (a : Nat) : Nat := channelOf a / 32

/-- The quarter of a line that an offset lies in, which is its layer while none is mapped out (R295). -/
def quarterOf (a : Nat) : Nat := a % 4096 / 1024

/-- The layer that holds an offset of a slice (R295). After a map-out the quarters lie in the three remaining banks,
spread evenly over each three lines (R316; which quarter lies in which bank is a DESIGN CHOICE, log entry 133). -/
def layerOf (s : State) (a : Nat) : Nat :=
  let r := Reg.LFT_SLSTAT (sliceOf a)
  if fld s r Fld.LFT_SLSTAT_MAPPED = 1 then
    let lost := fld s r Fld.LFT_SLSTAT_LAYER
    let i := (a / 4096 + quarterOf a) % 3
    if i < lost then i else i + 1
  else quarterOf a

def lineOf (s : State) (l : Nat) : Option LineSt := kfind s.loft.lines l

/-- Record j of the object table (R260). -/
def objRec (s : State) (j : Nat) : Nat := reg64 s Reg.LFT_OBJBASE_LO + 64 * j

def byteAt (s : State) (a : Nat) : Byte := if isMem s a then kget (fun _ => 0#8) s.mem a else Config.unmappedByte a

def peek (s : State) (a n : Nat) : List Byte := (List.range n).map fun i => byteAt s (a + i)

/-- A little-endian number of `n` bytes in memory. -/
def peekN (s : State) (a n : Nat) : Nat := leNat (peek s a n)

/-- MSTATE of object j (R261, R263): 0 HOME, 1 PROMOTING, 2 RESIDENT, 3 DEMOTING. -/
def objState (s : State) (j : Nat) : Nat := peekN s (objRec s j + 18) 1 / 64

/-- A held line of an object that is PROMOTING: its reads come from the Granary and its writes go there too (R273). -/
def promoting (s : State) (x : LineSt) : Bool := x.obj.any fun j => objState s j = 1

/-- The class of the codeword that serves an offset: 0 Crib, 1 Loft, 2 Granary. A line held in a Loft way is served
from there, but for one of a PROMOTING object (R273). -/
def classOf (s : State) (a : Nat) : Nat :=
  if isCrib a then 0
  else if isObj a then (match lineOf s (a / 4096) with
    | some x => if promoting s x then 2 else 1
    | none => 2)
  else 1

/-- Data bytes of a codeword of a class (R493). -/
def cwSize : Nat → Nat
  | 0 => 8
  | 1 => 16
  | _ => 64

def cwKey (cls a : Nat) : Nat := 4 * (a - a % cwSize cls) + cls

/-! ## Lines in use and the rounds open on them (R302, R304, R310) -/

/-- A slice copies a bank to its spare: every access to the slice waits (R505). -/
def sliceCopies (s : State) (l : Nat) : Bool := s.loft.banks.any fun x => x.2 = sliceOf (4096 * l)

/-- A line is accessed: write-backs of the Rake that wait for it are dropped (R504). -/
def dropRake (s : State) (l : Nat) : State :=
  let due (x : Nat × CwErr) : Bool := x.2.rake && x.1 % 4 = 1 && x.1 / 4 / 4096 = l
  let drop (x : Nat × CwErr) : Nat × CwErr := if due x then (x.1, { x.2 with wb := false, rake := false }) else x
  if s.ecc.cw.any due then { s with ecc := { s.ecc with cw := s.ecc.cw.map drop } } else s

/-- A use of a held line (R302). -/
def useLine (s : State) (l : Nat) : State :=
  let s := dropRake s l
  match lineOf s l with
  | none => s
  | some x => { s with loft := { s.loft with lines := kins l { x with use := s.loft.clock } s.loft.lines
                                             clock := s.loft.clock + 1 } }

/-- Miss-table entries of a slice in use: fills and divert records (R304, R313). -/
def missOcc (s : State) (k : Nat) : Nat :=
  s.loft.misses.countP (fun (l, _) => sliceOf (4096 * l) = k)
    + s.loft.rounds.countP (fun (l, r) => r.record && sliceOf (4096 * l) = k)

def syncMissocc (s : State) (k : Nat) : State := setFld s (Reg.LFT_SLSTAT k) Fld.LFT_SLSTAT_MISSOCC (missOcc s k)

/-- A round closes: the NEXT values of its line are discarded, and a divert record is freed (R310, R313). -/
def endRound (s : State) (l : Nat) : State :=
  match kfind s.loft.rounds l with
  | none => s
  | some r =>
    let s := { s with loft := { s.loft with rounds := adel s.loft.rounds l } }
    if r.record then syncMissocc s (sliceOf (4096 * l)) else s

/-- An access that is no contribution meets a line: it closes an empty round, must wait on one that still holds
contributions (R310) or on the copy of a bank of its slice (R505), and is a use of the line (R302). -/
def accessLine (s : State) (l : Nat) : State :=
  if sliceCopies s l then { s with loft := { s.loft with stall := s.loft.stall ++ [l] } }
  else
  match kfind s.loft.rounds l with
  | none => useLine s l
  | some r =>
    if r.held.isEmpty then useLine (endRound s l) l
    else { s with loft := { s.loft with stall := s.loft.stall ++ [l] } }

/-- Line number of an offset as rounds are kept: object and direct lines. -/
def roundLines (s : State) (a n : Nat) : List Nat :=
  if isObj a || isDirect s a then (List.range (cdiv (a % 4096 + n) 4096)).map (· + a / 4096) else []

def accessMem (s : State) (a n : Nat) : State := (roundLines s a n).foldl accessLine s

/-- The rounds that an access of a command must wait for have a closing access waiting on them (R310). -/
def closeOn (s : State) (ls : List Nat) : State :=
  { s with loft := { s.loft with rounds := s.loft.rounds.map fun (l, r) => (l, if ls.contains l then { r with closing := true } else r) } }

/-- The accesses that a command made between two states and that must wait: the command waits with them. -/
def stalledBy (s t : State) : List Nat := t.loft.stall.drop s.loft.stall.length

/-- The end of a command whose accesses may have to wait on a round: when one does, nothing has happened but that the
closing access waits (R310). -/
def orWait (s t : State) : State :=
  if (stalledBy s t).isEmpty then t else closeOn s (stalledBy s t)

/-- How a command that reads or writes memory of its own accord ends. -/
def finishWait (s t : State) : Host.Outcome State Fault Refusal := finish s (orWait s t)

/-! ## Raw bytes -/

def memPut (m : KMap Byte) (a : Nat) : List Byte → KMap Byte
  | [] => m
  | b :: t => memPut (kset (fun _ => 0#8) m a b) (a + 1) t

def poke (s : State) (a : Nat) (bs : List Byte) : State := { s with mem := memPut s.mem a bs }

/-! ## What a read finds (R493 to R498, R654) -/

inductive Found where
  | clean | corrected | uncorr | miscorr | silent
  deriving DecidableEq, Repr

/-- The die for a symbol that follows symbols on the dies `l`, at most two to a die (R493). -/
def nextDie (l : List Nat) (d : Nat) : Nat := (((List.range 36).map (· + d)).find? fun x => l.count x < 2).getD 0

/-- The dies of the 36 symbols of a codeword (R493). -/
def symbolDies : List Nat := (List.range 36).foldl (fun l p => l ++ [nextDie l (Config.symbolDie p)]) []

def symbolDie (p : Nat) : Nat := symbolDies.getD p 0

/-- What the decoder reports beyond its guarantee (R654). -/
def overrunFound (s : State) (key : Nat) : Found :=
  match Config.overrun key s.free % 3 with
  | 0 => .uncorr
  | 1 => .miscorr
  | _ => .silent

/-- What a read of a codeword finds (R493, R505, R654). Whether 3 or 4 symbols lie within two of another codeword depends
on the values in error and on the place of each symbol in the polynomial, which R493 does not give: it is free. -/
def foundOf (s : State) (key : Nat) (e : CwErr) : Found :=
  let n := e.pos.length
  if e.lost then .uncorr
  else if key % 4 < 2 then
    if n = 0 then .clean else if n = 1 then .corrected else if n = 2 then .uncorr else overrunFound s key
  else
    match kfind s.ecc.dies (stackOf (key / 4)) with
    | none =>
      if n = 0 then .clean else if n ≤ 2 then .corrected
      else if n ≤ 4 then (if Config.overrun key s.free % 3 = 1 then .miscorr else .uncorr)
      else overrunFound s key
    | some d =>
      let other := (e.pos.filter (fun p => symbolDie p ≠ d)).length
      if n = 0 then .clean else if other ≤ 1 then .corrected else overrunFound s key

def corrReg : Nat → Nat
  | 0 => Reg.INT_CORRCRB
  | 1 => Reg.INT_CORRLFT
  | _ => Reg.INT_CORRGRN

def uncReg : Nat → Nat
  | 0 => Reg.INT_UNCCRB
  | 1 => Reg.INT_UNCLFT
  | _ => Reg.INT_UNCGRN

/-- The UNIT and SUB of an error record for an address (R507). -/
def unitSub (s : State) (cls a : Nat) (e : CwErr) : Nat × Nat :=
  match cls with
  | 0 => ((a - cribBase 0) / 0x400000, 0xFFFF)
  | 1 => (sliceOf a, layerOf s a)
  | _ => (channelOf a, e.pos.headD 0xFFFF)

def setCw (s : State) (key : Nat) (e : CwErr) : State :=
  { s with ecc := { s.ecc with cw := kset (fun _ => {}) s.ecc.cw key e } }

def note (s : State) (n : ErrNote) : State := { s with ecc := { s.ecc with hist := n :: s.ecc.hist } }

/-- Count a corrected error of this hour for its stack or bough (R503, R505). -/
def countHour (s : State) (cls a : Nat) : State :=
  let one (k : Nat) : State :=
    { s with ecc := { s.ecc with hour := kset (fun _ => 0) s.ecc.hour k (kget (fun _ => 0) s.ecc.hour k + 1) } }
  if cls = 2 then one (stackOf a) else if cls = 0 then one (8 + (a - cribBase 0) / 0x400000) else s

/-- A corrected error (R495): counted, logged when LOGCORR is set, written back at once in the Granary and later
elsewhere. -/
def takeCorrected (s : State) (key : Nat) (e : CwErr) : State :=
  let cls := key % 4
  let a := key / 4
  let s := countHour (bump s (corrReg cls) 1) cls a
  let s := note s { cls := cls, addr := a, uncorr := false, lpar := false, pos := e.pos }
  let us := unitSub s cls a e
  let s := if fld s Reg.INT_CTRL Fld.INT_CTRL_LOGCORR = 1 then
      record s { kind := cls, type := tyCorr, action := actCorrected, unit := us.1, sub := us.2, addr := a,
                 detail := Config.syndrome key }
    else s
  if cls = 2 then setCw s key {} else setCw s key { e with wb := true, rake := false }

/-- An uncorrectable codeword is found (R496): counted and shown. -/
def takeUncorr (s : State) (cls a : Nat) (e : CwErr) (lpar : Bool) : State :=
  let s := raise (bump s (uncReg cls) 1) Reg.INT_INTSTAT Fld.INT_INTSTAT_UNCORR.bit
  let s := if lpar then raise s Reg.INT_INTSTAT Fld.INT_INTSTAT_LPAR.bit else s
  note s { cls := cls, addr := a, uncorr := true, lpar := lpar, pos := e.pos }

/-- Keep the Granary copy of bytes that a held line is about to overtake. -/
def keepStale (s : State) (a n : Nat) : State :=
  let st := (List.range n).foldl (fun (m : List (Nat × Byte)) i =>
    if (kfind m (a + i)).isSome then m else kins (a + i) (byteAt s (a + i)) m) s.loft.stale
  { s with loft := { s.loft with stale := st } }

/-- The layer check of the quarter at an offset (R494): the CRC-16 of its bytes and of its line number and layer. -/
def layerCheck (s : State) (q : Nat) : Nat :=
  let line := if isObj q then q / 4096 else (q - directBase) / 4096
  crc16 (peek s q 1024 ++ leBytes 4 (line % 2 ^ 28 + 2 ^ 28 * layerOf s q))

/-- The stored layer check of a quarter and the computed one come to differ in further bits (R494): both of its sectors
are then in error. -/
def lparFlip (s : State) (q d : Nat) : State :=
  let one (m : KMap Nat) (a : Nat) : KMap Nat := kset (fun _ => 0) m a (kget (fun _ => 0) m a ^^^ d)
  { s with ecc := { s.ecc with lpar := one (one s.ecc.lpar q) (q + 512) } }

/-- Data of a codeword the decoder took wrongly (R654). In the Loft the layer check is computed over the wrong data
too (R494). -/
def takeWrong (s : State) (key : Nat) : State :=
  let a := key / 4
  let q := a - a % 1024
  let s' := if key % 4 = 1 && isObj a then keepStale s a 16 else s
  let t := poke s' a ((List.range (cwSize (key % 4))).map fun i => Config.overrunByte (a + i) s.free)
  let t := { setCw t key {} with free := s.free + 1 }
  if key % 4 = 1 then lparFlip t q (layerCheck s q ^^^ layerCheck t q) else t

/-- Whether a clean sector of an object line with no round open is also held by the Granary (R498). -/
def refillable (s : State) (a : Nat) : Bool :=
  isObj a && (match lineOf s (a / 4096) with
    | some l => !(bitN l.dirty (a % 4096 / 512))
    | none => false) && (kfind s.loft.rounds (a / 4096)).isNone

/-- What a wrongly corrected codeword's report names: symbols of the Granary, no position elsewhere (R502, R654). -/
def wrongPos (s : State) (key : Nat) : List Nat :=
  if key % 4 = 2 then [Config.wrongSymbol key s.free % 36] else []

/-- Read one codeword that is listed as holding errors; true when the consumer gets no data. -/
def readCw (s : State) (key : Nat) (e : CwErr) : State × Bool :=
  match foundOf s key e with
  | .clean => (s, false)
  | .corrected => (takeCorrected s key e, false)
  | .miscorr =>
    let s := takeCorrected s key { e with pos := wrongPos s key }
    (takeWrong s key, false)
  | .silent => (takeWrong s key, false)
  | .uncorr => (takeUncorr s (key % 4) (key / 4) e false, true)

/-- The listed codewords of a class that a range meets. -/
def cwIn (s : State) (cls a n : Nat) : List (Nat × CwErr) :=
  s.ecc.cw.filter fun (k, _) => k % 4 = cls && decide (k / 4 < a + n) && decide (a < k / 4 + cwSize cls)

/-- Read codewords in order up to the first that gives no data; answers its address. -/
def readCws (s : State) : List (Nat × CwErr) → State × Option Nat
  | [] => (s, none)
  | (k, e) :: t =>
    let (s, bad) := readCw s k e
    if bad then (s, some (k / 4)) else readCws s t

/-- Read every codeword listed, as a copy does; answers the keys of those that give no data. -/
def readEvery (s : State) : List (Nat × CwErr) → State × List Nat
  | [] => (s, [])
  | (k, e) :: t =>
    let (s, bad) := readCw s k e
    let (s, l) := readEvery s t
    (s, if bad then k :: l else l)

/-- The first sector of a range whose quarter's codewords all decode but whose layer check fails (R494). -/
def lparIn (s : State) (a n : Nat) : Option Nat :=
  (s.ecc.lpar.find? fun (q, d) => d ≠ 0 && decide (q < a + n) && decide (a < q + 512)
    && (cwIn s 1 (q - q % 1024) 1024).all fun (k, e) => foundOf s k e ≠ .uncorr).map (·.1)

/-- The unit of R501 that holds an offset. -/
def initUnit (a : Nat) : Nat := if isObj a then a - a % 0x10000 else a - a % 0x1000

def initBytes (a : Nat) : Nat := if isObj a then 0x10000 else 0x1000

/-- Write-before-read is in force (R501). -/
def initMode1 (s : State) : Bool := fld s Reg.INT_STATUS Fld.INT_STATUS_INITMODE = 1

def isInit (s : State) (a : Nat) : Bool := kget (fun _ => false) s.ecc.written (initUnit a)

/-- The first offset of a range whose unit has not been written in mode 1 (R501). -/
def uninitIn (s : State) (a n : Nat) : Option Nat :=
  if initMode1 s && decide (0 < n) then
    if !isInit s a then some a
    else
      let e := initUnit (a + n - 1)
      let steps := (e - initUnit a) / initBytes a
      ((List.range steps).map fun i => initUnit a + (i + 1) * initBytes a).find? fun u => !isInit s u
  else none

/-- Forget the Loft codewords of a sector and its layer check. -/
def dropSector (s : State) (a : Nat) : State :=
  let cw := s.ecc.cw.filter fun (k, _) => !(k % 4 = 1 && decide (a ≤ k / 4) && decide (k / 4 < a + 512))
  { s with ecc := { s.ecc with cw := cw, lpar := kset (fun _ => 0) s.ecc.lpar a 0 } }

/-- A clean sector takes the Granary's bytes again (R498). -/
def restoreSector (s : State) (a : Nat) : State :=
  let own := s.loft.stale.filter fun (q, _) => a ≤ q && q < a + 512
  let rest := s.loft.stale.filter fun (q, _) => !(a ≤ q && q < a + 512)
  own.foldl (fun s (q, b) => poke s q [b]) { dropSector s a with loft := { s.loft with stale := rest } }

/-- The clean sectors of a line that fail (R498). -/
def failingClean (s : State) (l : Nat) : List Nat :=
  ((List.range 8).map fun j => 4096 * l + 512 * j).filter fun a => refillable s a
    && ((cwIn s 1 a 512).any (fun (k, e) => foundOf s k e = .uncorr) || (lparIn s a 512).isSome)

/-- Replace the failing clean sectors of a line from the Granary (R498). -/
def refill (s : State) (a : Nat) : State × Option Bad :=
  let l := a / 4096
  let (s, g) := readCws s (cwIn s 2 (4096 * l) 4096)
  match g with
  | some b => (s, some ⟨tyUncorr, 2, b⟩)
  | none =>
    let bad := failingClean s l
    let s := bump (bad.foldl restoreSector s) Reg.INT_REFILL bad.length
    (record s { kind := 1, type := tyUncorr, action := actRefilled, unit := sliceOf a, sub := layerOf s a, addr := a },
      none)

/-- Read codewords of one line or Crib of class `cls`, and the layer checks beside them: with refills where the Granary
has the data, then the first failing one. -/
def checkCws (cws : State → List (Nat × CwErr)) (lp : State → Option Nat) (cls : Nat) : Nat → State → State × Option Bad
  | 0, s => (s, none)
  | fuel + 1, s =>
    let (s, r) := readCws s (cws s)
    match r with
    | some b =>
      if cls = 1 && refillable s b then
        let (s, g) := refill s b
        match g with
        | some bad => (s, some bad)
        | none => checkCws cws lp cls fuel s
      else (s, some ⟨tyUncorr, cls, b⟩)
    | none =>
      match (if cls = 1 then lp s else none) with
      | none => (s, none)
      | some q =>
        let s := takeUncorr s 1 q {} true
        if refillable s q then
          let (s, g) := refill s q
          match g with
          | some bad => (s, some bad)
          | none => checkCws cws lp cls fuel s
        else (s, some ⟨tyLpar, 1, q⟩)

/-- Read a range of one line or Crib with class `cls`. -/
def checkRange (fuel : Nat) (s : State) (cls a n : Nat) : State × Option Bad :=
  checkCws (fun s => cwIn s cls a n) (fun s => lparIn s a n) cls fuel s

/-- Cut a range at line boundaries: the parts as (start, length). -/
def linesOf : Nat → Nat → Nat → List (Nat × Nat)
  | 0, _, _ => []
  | fuel + 1, a, n =>
    if n = 0 then []
    else
      let k := min n (4096 - a % 4096)
      (a, k) :: linesOf fuel (a + k) (n - k)

def partsOf (a n : Nat) : List (Nat × Nat) := linesOf (n / 4096 + 2) a n

def checkParts (s : State) : List (Nat × Nat) → State × Option Bad
  | [] => (s, none)
  | (a, n) :: t =>
    let (s, r) := checkRange 9 s (classOf s a) a n
    match r with
    | some b => (s, some b)
    | none => checkParts s t

/-- Read a range of memory under the codes: none when its data may be delivered (R495, R496, R501). -/
def checkRead (s : State) (a n : Nat) : State × Option Bad :=
  match uninitIn s a n with
  | some u =>
    (raise (bump s Reg.INT_UNINIT 1) Reg.INT_INTSTAT Fld.INT_INTSTAT_UNINIT.bit, some ⟨tyUninit, classOf s u, u⟩)
  | none => checkParts s (partsOf a n)

/-- Read bytes as the application of a contribution does: the data, or why there is none. -/
def loadRaw (s : State) (a n : Nat) : State × Except Bad (List Byte) :=
  let (s, r) := checkRead s a n
  match r with
  | some b => (s, .error b)
  | none => (s, .ok (peek s a n))

/-- Read bytes: an access of its lines, and the data, or why there is none. -/
def load (s : State) (a n : Nat) : State × Except Bad (List Byte) := loadRaw (accessMem s a n) a n

/-- After a consumer stopped (R497): Blight while a step is open, else the job ends with the uncorrectable-error status;
`always` where R496 or R396 ends the job in any case. An error record in every case. -/
def stopConsumer (s : State) (always : Bool) (b : Bad) (seq : Nat) : State :=
  let opn := stepOpen s
  let ends := (always || !opn) && jobLoaded s
  let us := unitSub s b.cls b.addr {}
  let act := if ends then actJobEnd else if opn then actBlight else actLogged
  let s := if opn then raiseBlight s srcUncorr else s
  let s := record s { kind := b.cls, type := b.type, action := act, unit := us.1, sub := us.2, addr := b.addr,
                      detail := Config.syndrome (cwKey b.cls b.addr), seq := seq }
  if ends then endJob s 4 0 else s

/-- An engine reads a table of its own before it acts on it: an uncorrectable codeword stops it (R496, R497). -/
def guardRead (s : State) (a n : Nat) (go : State → State) : State :=
  match checkRead (accessMem s a n) a n with
  | (s, some b) => stopConsumer s false b 0
  | (s, none) => go s

/-! ## Writes -/

/-- Fill a unit before its first write in mode 1 (R501). -/
def initUnitWrite (s : State) (u : Nat) : State :=
  if isInit s u then s
  else
    let mem := s.mem.filter fun (k, _) => !(decide (u ≤ k) && decide (k < u + initBytes u))
    let cw := s.ecc.cw.filter fun (k, _) => !(decide (u ≤ k / 4) && decide (k / 4 < u + initBytes u))
    { s with mem := mem, ecc := { s.ecc with cw := cw, written := kset (fun _ => false) s.ecc.written u true } }

/-- Fill every unit a write meets for the first time in mode 1 (R501). -/
def initWrite (s : State) (a n : Nat) : State :=
  if initMode1 s && decide (0 < n) then
    let steps := (initUnit (a + n - 1) - initUnit a) / initBytes a + 1
    (List.range steps).foldl (fun s i => initUnitWrite s (initUnit a + i * initBytes a)) s
  else s

/-- The codewords that a write covers only in part. -/
def partCws (s : State) (cls a n : Nat) : List (Nat × CwErr) :=
  (cwIn s cls a n).filter fun (k, _) => decide (k / 4 < a) || decide (a + n < k / 4 + cwSize cls)

/-- The failing layer check beside a codeword that a write covers only in part (R494). -/
def partLpar (s : State) (a n : Nat) : Option Nat :=
  let at_ (x : Nat) : Option Nat := if x % 16 = 0 then none else lparIn s (x - x % 16) 16
  (at_ a).orElse fun _ => at_ (a + n)

/-- Forget the errors of the codewords a write covers whole, and its sectors' layer checks. -/
def clearCws (s : State) (cls a n : Nat) : State :=
  let cw := s.ecc.cw.filter fun (k, _) =>
    !(k % 4 = cls && decide (a ≤ k / 4) && decide (k / 4 + cwSize cls ≤ a + n))
  let lpar := if cls = 1 then
      s.ecc.lpar.filter fun (q, _) => !(decide (a ≤ q) && decide (q + 512 ≤ a + n))
    else s.ecc.lpar
  { s with ecc := { s.ecc with cw := cw, lpar := lpar } }

/-- The positions a flip mask names: each once, the "none" values left out (R502). -/
def flipPos (lim : Nat) (ps : List Nat) : List Nat := (ps.filter (· < lim)).eraseDups

/-- Invert positions of the codeword at `a` as stored. -/
def flipCw (s : State) (cls a : Nat) (ps : List Nat) : State :=
  let key := cwKey cls a
  let old := kget (fun _ => {}) s.ecc.cw key
  let pos := old.pos.filter (fun p => !ps.contains p) ++ ps.filter (fun p => !old.pos.contains p)
  setCw s key { old with pos := pos }

/-- Apply an armed flip mask to the first codeword that a write to its unit wrote (R502). -/
def applyFlips (s : State) (cls a n : Nat) : State :=
  if n = 0 then s
  else if cls = 0 then
    let r := Reg.INT_FLIPCRB
    if fld s r Fld.INT_FLIPCRB_ARM = 1 && fld s r Fld.INT_FLIPCRB_BOUGH = (a - cribBase 0) / 0x400000 then
      setFld (flipCw s 0 a (flipPos 72 [fld s r Fld.INT_FLIPCRB_POS1, fld s r Fld.INT_FLIPCRB_POS2])) r
        Fld.INT_FLIPCRB_ARM 0
    else s
  else if cls = 1 then
    let r := Reg.INT_FLIPLFT
    let lay := fld s r Fld.INT_FLIPLFT_LAYER
    let starts := a :: ((List.range 4).map fun i => a - a % 4096 + 1024 * i).filter fun x => a < x && x < a + n
    let first := starts.find? fun x => layerOf s x = lay
    match first with
    | none => s
    | some x =>
      if fld s r Fld.INT_FLIPLFT_ARM = 1 && fld s r Fld.INT_FLIPLFT_SLICE = sliceOf a then
        let s' := flipCw s 1 x (flipPos 144 [fld s r Fld.INT_FLIPLFT_POS1, fld s r Fld.INT_FLIPLFT_POS2])
        let s' := if fld s r Fld.INT_FLIPLFT_LPAR = 1 then
            lparFlip s' (x - x % 1024) 1
          else s'
        setFld s' r Fld.INT_FLIPLFT_ARM 0
      else s
  else
    let r := Reg.INT_FLIPGRN
    if fld s r Fld.INT_FLIPGRN_ARM = 1 && fld s r Fld.INT_FLIPGRN_CHANNEL = channelOf a then
      setFld (flipCw s 2 a (flipPos 36 [fld s r Fld.INT_FLIPGRN_SYM1, fld s r Fld.INT_FLIPGRN_SYM2,
        fld s r Fld.INT_FLIPGRN_SYM3])) r Fld.INT_FLIPGRN_ARM 0
    else s

/-- Sectors of a line that a range within it meets, as a mask. -/
def sectMask (a n : Nat) : Nat :=
  (List.range 8).foldl (fun m j =>
    if a % 4096 < 512 * (j + 1) && 512 * j < a % 4096 + n then m ||| 2 ^ j else m) 0

/-- Mark the sectors of a held line dirty (R273, R303); a line of a promoting object is written through to the
Granary. -/
def markDirty (s : State) (a n : Nat) : State :=
  match lineOf s (a / 4096) with
  | none => s
  | some l =>
    if promoting s l then s
    else
    let s := keepStale s a n
    { s with loft := { s.loft with lines := kins (a / 4096) { l with dirty := l.dirty ||| sectMask a n } s.loft.lines } }

/-- Write bytes within one line or Crib, of class `cls`; a partial write into an uncorrectable codeword fails
(R496), unless the Granary refills it (R498). A line of a PROMOTING object takes the bytes in its copy too (R273). -/
def storePart (s : State) (a : Nat) (bs : List Byte) : State × Option Bad :=
  let n := bs.length
  let cls := classOf s a
  match checkCws (fun s => partCws s cls a n) (fun s => partLpar s a n) cls 9 s with
  | (s, some b) => (s, some b)
  | (s, none) =>
    let s := if cls = 1 && isObj a then markDirty s a n else s
    let lo := a - a % cwSize cls
    let s := clearCws s cls lo (cdiv (a + n) (cwSize cls) * cwSize cls - lo)
    let s := poke s a bs
    if cls = 2 && (lineOf s (a / 4096)).isSome then (applyFlips (applyFlips (clearCws s 1 a n) 2 a n) 1 a n, none)
    else (applyFlips s cls a n, none)

def storeParts (s : State) (bs : List Byte) : List (Nat × Nat) → State × Option Bad
  | [] => (s, none)
  | (a, n) :: t =>
    let (s, r) := storePart s a (bs.take n)
    match r with
    | some b => (s, some b)
    | none => storeParts s (bs.drop n) t

/-- Write bytes to memory under the codes, as the application of a contribution does; answers the codeword that stopped
the writer, if one did. -/
def storeRaw (s : State) (a : Nat) (bs : List Byte) : State × Option Bad :=
  storeParts (initWrite s a bs.length) bs (partsOf a bs.length)

/-- Write bytes to memory: an access of its lines. -/
def store (s : State) (a : Nat) (bs : List Byte) : State × Option Bad := storeRaw (accessMem s a bs.length) a bs

/-! ## Signals (R140, R141) -/

/-- Send a signal on the synchronisation network. -/
def sendSignal (s : State) (n sem count : Nat) : State :=
  { s with net := s.net ++ [⟨n, sem, count⟩] }

/-- Send the signal of a signal field: [31] enable, [29:24] bough, [22:16] semaphore, [15:0] count (R126, R278). -/
def sendField (s : State) (w : Nat) : State :=
  if bitN w 31 then sendSignal s (bitsN w 29 24) (bitsN w 22 16) (bitsN w 15 0) else s

end Sys2Proof.Machine
end

