-- ==== Sys2Proof/Machine/Operands.lean ====
section
/-! DEFINITION. Operand forms: frame-program items (R125 to R131), tile descriptors (R167 to R171), Sickle descriptors and
model tables (R200 to R210), chain bodies (R225, R226, R240) and cart descriptors (R278 to R288), with the checks that
make an item invalid and the Crib ranges the scheduler derives (R136). -/

namespace Sys2Proof.Machine

/-! ## Crib ranges -/

/-- A byte range of a Crib: offset and length. -/
abbrev Range := Nat × Nat

def meets (a b : Range) : Bool := decide (0 < a.2) && decide (0 < b.2) && decide (a.1 < b.1 + b.2) && decide (b.1 < a.1 + a.2)

def anyMeet (xs ys : List Range) : Bool := xs.any fun x => ys.any fun y => meets x y

/-- Two different members of a list overlap. -/
def selfMeet : List Range → Bool
  | [] => false
  | x :: t => t.any (meets x) || selfMeet t

def inCrib (r : Range) : Bool := r.1 + r.2 ≤ 0x400000

/-- What an item reads and writes of its bough's Crib. -/
structure Ranges where
  reads  : List Range := []
  writes : List Range := []
  /-- Ranges that are both read and written (R136). -/
  both   : List Range := []
  deriving DecidableEq, Repr

def rangesBad (r : Ranges) : Bool :=
  !((r.reads ++ r.writes ++ r.both).all inCrib) || anyMeet (r.writes ++ r.both) r.reads
    || selfMeet (r.writes ++ r.both)

/-- The hazard of R137 between an earlier item in flight and a later one. -/
def rangesClash (early late : Ranges) : Bool :=
  let ew := early.writes ++ early.both
  let lw := late.writes ++ late.both
  anyMeet ew (late.reads ++ lw) || anyMeet early.reads lw

/-! ## Formats of R168 -/

def fmtOf : Nat → Option Fmt
  | 0 => some .fp4 | 1 => some .e2m3 | 2 => some .e3m2 | 3 => some .e4m3 | 4 => some .e5m2 | 5 => some .bf16
  | 6 => some .fp16 | 7 => some .fp32 | 8 => some .int8 | 9 => some .uint8 | 10 => some .int4 | 12 => some .int32
  | _ => none

def fmtD (c : Nat) : Fmt := (fmtOf c).getD .fp32

/-- Bits of an element of a format code; BIT1 is code 11. -/
def codeBits (c : Nat) : Nat := if c = 11 then 1 else fmtBits (fmtD c)

def codeScaled (c : Nat) : Bool := c ≤ 2

/-- Bytes of the element bytes of a block (R86). -/
def blockBytes (c : Nat) : Nat := if c = 0 then 16 else 24

/-- Bytes of the element array of a block-scaled operand of `rows` rows of length `len`, up to its scale array (R86). -/
def scaleStart (c rows len : Nat) : Nat := cdiv (rows * cdiv len 32 * blockBytes c) 64 * 64

/-- The bytes an operand spans: rows of `len` elements of format `c` at a pitch in bytes; a block-scaled operand ignores
the pitch (R86, R171). -/
def spanOf (c rows len pitch : Nat) : Nat :=
  if rows = 0 then 0
  else if codeScaled c then scaleStart c rows len + rows * cdiv len 32
  else (rows - 1) * pitch + cdiv (len * codeBits c) 8

/-- The encoding of element `i` of a row that starts at byte `a` of a byte string (R82). -/
def elemAt (bs : List Byte) (c a i : Nat) : Nat :=
  let bits := codeBits c
  match bits with
  | 1 => leAt bs (a + i / 8) 1 / 2 ^ (i % 8) % 2
  | 4 => leAt bs (a + i / 2) 1 / 2 ^ (4 * (i % 2)) % 16
  | 6 => leAt bs (a + 3 * (i / 4)) 3 / 2 ^ (6 * (i % 4)) % 64
  | _ => leAt bs (a + i * (bits / 8)) (bits / 8)

/-- Element (r, i) of an operand held in a byte string from its offset: its exact value, block scale included (R85). -/
def operandAt (bs : List Byte) (c rows len pitch r i : Nat) : Num :=
  let f := fmtD c
  if codeScaled c then
    let nb := cdiv len 32
    let w := elemAt bs c (r * nb * blockBytes c) i
    scaledDecode f (leAt bs (scaleStart c rows len + r * nb + i / 32) 1) w
  else numDecode f (elemAt bs c (r * pitch) i)

/-- Blocks of an operand whose scale is 0xFF (R87). -/
def nanScales (bs : List Byte) (c rows len : Nat) : Nat :=
  if codeScaled c then ((bs.drop (scaleStart c rows len)).take (rows * cdiv len 32)).countP (· = 255) else 0

/-- Pack element encodings into bytes (R82); unused bits are zero. -/
def packElems (bits : Nat) (xs : List Nat) : List Byte :=
  leBytes (if bits = 6 then 3 * cdiv xs.length 4 else cdiv (xs.length * bits) 8)
    (xs.foldr (fun x acc => x % 2 ^ bits + 2 ^ bits * acc) 0)

/-! ## Items (R124 to R131) -/

structure Item where
  kind : Nat
  w0   : Nat
  w1   : Nat
  w2   : Nat
  w3   : Nat
  deriving DecidableEq, Repr

def itemOf (bs : List Byte) : Item :=
  ⟨leAt bs 3 1 / 16, leAt bs 0 4, leAt bs 4 4, leAt bs 8 4, leAt bs 12 4⟩

def Item.fence (i : Item) : Bool := bitN i.w0 27
def Item.sumen (i : Item) : Bool := bitN i.w0 23
def Item.sumslot (i : Item) : Nat := bitsN i.w0 22 18
def Item.offset (i : Item) : Nat := bitsN i.w0 17 0
/-- The Crib offset of a work item's body (R126). -/
def Item.body (i : Item) : Nat := bitsN i.w1 21 0

def isWork (k : Nat) : Bool := 1 ≤ k && k ≤ 4

/-- What the words of an item alone make invalid (R126 to R128, R131). -/
def itemWordsBad (i : Item) : Bool :=
  let z (w hi lo : Nat) : Bool := bitsN w hi lo ≠ 0
  z i.w0 26 24 || (i.kind ≠ 2 && (i.sumen || i.sumslot ≠ 0)) ||
  match i.kind with
  | 0 => i.w1 ≠ 0 || i.w2 ≠ 0 || i.w3 ≠ 0
  | 1 | 2 | 3 | 4 => z i.w1 31 22 || z i.w1 5 0 || bitN i.w3 30 || bitN i.w3 23
  | 8 => z i.w1 17 0 || z i.w3 31 16 || bitsN i.w1 26 24 = 7
  | 9 => z i.w1 31 5
  | 10 => z i.w1 31 5 || i.w3 ≠ 0
  | 11 => z i.w1 31 7 || z i.w2 31 24 || i.w3 ≠ 0
  | 12 => z i.w1 31 30 || bitN i.w1 23 || z i.w1 15 0 || z i.w2 31 16 || i.w3 ≠ 0
  | 13 => z i.w1 31 5 || i.w2 ≠ 0 || i.w3 ≠ 0
  | 14 => z i.w1 31 16 || i.w3 ≠ 0
  | 15 => z i.w1 31 5 || i.w2 ≠ 0 || i.w3 ≠ 0
  | _ => true

/-! ## Tile descriptors (R167 to R171) -/

structure Tile where
  op : Nat
  afmt : Nat
  bfmt : Nat
  cfmt : Nat
  xfmt : Nat
  drain : Nat
  arrays : Nat
  rmode : Nat
  emask : Nat
  m : Nat
  n : Nat
  diag : Int
  fill : Nat
  acc : Bool
  ta : Bool
  tb : Bool
  cken : Bool
  win : Bool
  rsv : Bool
  k : Nat
  boff : Nat
  aoff : Nat
  xoff : Nat
  coff : Nat
  cstep : Nat
  astep : Nat
  ldc : Nat
  ldb : Nat
  lda : Nat
  seq : Nat
  rowmask : Nat
  colmask : Nat
  deriving DecidableEq, Repr

def tileOf (bs : List Byte) : Tile :=
  let w (i : Nat) : Nat := leAt bs (4 * i) 4
  { op := bitsN (w 0) 31 28, afmt := bitsN (w 0) 27 24, bfmt := bitsN (w 0) 23 20, cfmt := bitsN (w 0) 19 16
    xfmt := bitsN (w 0) 15 12, drain := bitsN (w 0) 11 8, arrays := bitsN (w 0) 7 4, rmode := bitsN (w 0) 3 2
    emask := bitsN (w 0) 1 0, m := bitsN (w 1) 31 24, n := bitsN (w 1) 23 16, diag := sextN 8 (bitsN (w 1) 15 8)
    fill := bitsN (w 1) 7 6, acc := bitN (w 1) 5, ta := bitN (w 1) 4, tb := bitN (w 1) 3, cken := bitN (w 1) 2
    win := bitN (w 1) 1, rsv := bitN (w 1) 0 || bitsN (w 6) 31 30 ≠ 0, k := w 2
    boff := bitsN (w 3) 31 16, aoff := bitsN (w 3) 15 0, xoff := bitsN (w 4) 31 16, coff := bitsN (w 4) 15 0
    cstep := bitsN (w 5) 31 16, astep := bitsN (w 5) 15 0
    ldc := bitsN (w 6) 29 20, ldb := bitsN (w 6) 19 10, lda := bitsN (w 6) 9 0, seq := w 7
    rowmask := leAt bs 32 16, colmask := leAt bs 48 16 }

/-- Pair classes of R161: 0 narrow float, 1 16-bit float, 2 integer, 3 BIT1, 4 none. -/
def pairClass (c : Nat) : Nat :=
  if c ≤ 4 then 0 else if c ≤ 6 then 1 else if 8 ≤ c && c ≤ 10 then 2 else if c = 11 then 3 else 4

/-- The result of a tile is an integer (R104, R173). -/
def tileInt (t : Tile) : Bool := pairClass t.afmt = 2 || t.op = 5 || t.op = 6

/-- Cells per output as (rows, columns) (R162). Compare-count and Hamming are as in fast mode. -/
def tileCells (strict : Bool) (t : Tile) : Nat × Nat :=
  if !strict || tileInt t then (if pairClass t.afmt = 1 then (2, 2) else (1, 1))
  else if pairClass t.afmt = 1 then (4, 4)
  else if t.op = 0 && t.afmt = 0 && t.bfmt = 0 then (2, 1)
  else (2, 2)

/-- DRAIN functions that read X (R178). -/
def drainReadsX (d : Nat) : Bool := 2 ≤ d && d ≤ 7

/-- Elements of X in a row: DSWISH holds pairs (R178). -/
def xRow (t : Tile) : Nat := if t.drain = 5 then 2 * t.n else t.n

/-- The stored rows and row length of A and of B (R171). -/
def aShape (t : Tile) : Nat × Nat := if t.win then (1, t.k + t.m - 1) else if t.ta then (t.k, t.m) else (t.m, t.k)
def bShape (t : Tile) : Nat × Nat := if t.tb then (t.k, t.n) else (t.n, t.k)

def aRange (t : Tile) (i : Nat) : Range :=
  (64 * (t.aoff + i * t.astep), spanOf t.afmt (aShape t).1 (aShape t).2 (if t.win then 0 else 64 * t.lda))

def bRange (t : Tile) : Range := (64 * t.boff, spanOf t.bfmt (bShape t).1 (bShape t).2 (64 * t.ldb))

def cRange (t : Tile) (i : Nat) : Range := (64 * (t.coff + i * t.cstep), spanOf t.cfmt t.m t.n (64 * t.ldc))

def xRange (t : Tile) (i : Nat) : Range :=
  (64 * (t.xoff + i * t.cstep), if t.emask = 1 then 16 * t.m else spanOf t.xfmt t.m (xRow t) (64 * t.ldc))

/-- The arrays a descriptor names. -/
def tileArrays (t : Tile) : List Nat := bitList 4 0 t.arrays

/-- C is read too: an accumulating tile, and a block-scaled C with FILL Leave (R136, R655). -/
def cBoth (t : Tile) : Bool := t.acc || (codeScaled t.cfmt && t.fill = 0)

def tileRanges (t : Tile) : Ranges :=
  let as := tileArrays t
  let xs := if drainReadsX t.drain || t.emask = 1 then as.map (xRange t) else []
  let cs := as.map (cRange t)
  { reads := as.map (aRange t) ++ [bRange t] ++ xs
    writes := if cBoth t then [] else cs, both := if cBoth t then cs else [] }

/-- An invalid tile descriptor (R170). -/
def tileBad (strict : Bool) (t : Tile) : Bool :=
  let fmtRes (c : Nat) : Bool := 13 ≤ c
  let ca := pairClass t.afmt
  let cb := pairClass t.bfmt
  let cells := tileCells strict t
  7 ≤ t.op || fmtRes t.afmt || fmtRes t.bfmt || fmtRes t.cfmt || fmtRes t.xfmt || 8 ≤ t.drain || t.fill = 3 || t.rsv
    || 2 ≤ t.rmode
    || (match t.op with
        | 0 => !(ca = cb && ca ≤ 2)
        | 6 => !(ca = 3 && cb = 3)
        | _ => !(ca = cb && (ca = 0 || ca = 2)))
    || t.m = 0 || t.n = 0 || t.k = 0 || 128 / cells.1 < t.m || 128 / cells.2 < t.n
    || t.arrays = 0
    || (t.acc && t.cfmt ≠ (if tileInt t then 12 else 7))
    || (t.cfmt = 12 && !tileInt t) || t.cfmt = 11 || (t.drain ≠ 0 && tileInt t)
    || (if t.emask = 1 then t.xfmt ≠ 0 || drainReadsX t.drain
        else if drainReadsX t.drain then !(3 ≤ t.xfmt && t.xfmt ≤ 7) else t.xfmt ≠ 0)
    || (t.win && t.ta)
    || rangesBad (tileRanges t)

/-! ## Sickle descriptors and model tables -/

structure Sickle where
  op : Nat
  vfmt : Nat
  nvec : Nat
  entry : Nat
  ogroup : Nat
  rsv : Bool
  voff : Nat
  vstep : Nat
  poff : Nat
  pstep : Nat
  row0 : Nat
  dmask : Nat
  table : Nat
  deriving DecidableEq, Repr

def sickleOf (bs : List Byte) : Sickle :=
  let w (i : Nat) : Nat := leAt bs (4 * i) 4
  { op := bitsN (w 0) 31 28, vfmt := bitsN (w 0) 27 24, nvec := bitsN (w 0) 23 20, entry := bitsN (w 0) 19 12
    ogroup := bitsN (w 0) 11 6, rsv := bitsN (w 0) 5 0 ≠ 0 || bitsN (w 3) 31 20 ≠ 0 || leAt bs 32 32 ≠ 0
    voff := bitsN (w 1) 31 16, vstep := bitsN (w 1) 15 0, poff := bitsN (w 2) 31 16, pstep := bitsN (w 2) 15 0
    row0 := bitsN (w 3) 19 0, dmask := leAt bs 16 8, table := leAt bs 24 8 }

/-- A model table entry (R210). -/
structure MEntry where
  segu : Nat
  l : Nat
  rows : Nat
  wfmt : Nat
  shv : Bool
  sline : Nat
  wline : Nat
  rsv : Bool
  deriving DecidableEq, Repr

def mentryOf (v : Nat) : MEntry :=
  { segu := bitsN v 111 104, l := bitsN v 103 84, rows := bitsN v 83 64, wfmt := bitsN v 63 60, shv := bitN v 56
    sline := bitsN v 55 28, wline := bitsN v 27 0, rsv := bitsN v 127 112 ≠ 0 || bitsN v 59 57 ≠ 0 }

/-- Capacity of a line in elements (R201). -/
def segCap : Nat → Nat
  | 0 => 7680
  | 1 | 2 => 5184
  | 3 | 4 => 4096
  | 5 => 2048
  | _ => 0

/-- Bytes of p segments of SEGLEN elements (R201). -/
def segFoot (wfmt p seglen : Nat) : Nat :=
  if codeScaled wfmt then scaleStart wfmt p seglen + p * (seglen / 32) else p * seglen * (codeBits wfmt / 8)

/-- PACK: the largest p whose footprint fits a line (R201). -/
def packOf (wfmt seglen : Nat) : Nat :=
  (List.range 256).foldl (fun best p => if 0 < p && segFoot wfmt p seglen ≤ 4096 then p else best) 1

def MEntry.seglen (e : MEntry) : Nat := 32 * e.segu
def MEntry.g (e : MEntry) : Nat := cdiv e.l e.seglen
def MEntry.j (e : MEntry) : Nat := e.rows * e.g
/-- Lines of the weights, or of the shadow, in a format (R205). -/
def MEntry.lines (e : MEntry) (fmt : Nat) : Nat := cdiv e.j (packOf fmt e.seglen)

def mentryBad (e : MEntry) : Bool :=
  6 ≤ e.wfmt || e.rows = 0 || e.l = 0 || e.segu = 0 || segCap e.wfmt < e.seglen || (e.shv && 7680 < e.seglen) || e.rsv

/-- The weight lines, and the shadow's when there is one, lie in the object range (R205). -/
def mentryRangeBad (e : MEntry) : Bool :=
  decide (objEnd / 4096 < e.wline + e.lines e.wfmt) || (e.shv && decide (objEnd / 4096 < e.sline + e.lines 0))

def modelTab (s : State) : Nat := reg64 s Reg.SKL_MTAB_LO

def mentryAt (s : State) (i : Nat) : MEntry := mentryOf (peekN s (modelTab s + 64 + 16 * i) 16)

/-- The header of a model table breaks R209. -/
def tableHeaderBad (bs : List Byte) : Bool :=
  let n := leAt bs 0 2
  n = 0 || 252 < n || leAt bs 2 2 ≠ 0 || leAt bs 8 8 % 16 ≠ 0 || bitsN (leAt bs 8 8) 63 40 ≠ 0
    || leAt bs 16 4 % 16 ≠ 0 || leAt bs 20 44 ≠ 0

def sickleRanges (d : Sickle) (e : MEntry) : Ranges :=
  match d.op with
  | 0 => { reads := (List.range d.nvec).map fun v => (64 * d.voff + 64 * v * d.vstep, e.l * (codeBits d.vfmt / 8)) }
  | 1 => { writes := [(64 * d.voff, spanOf e.wfmt (d.dmask % 2 ^ 20) e.l (64 * d.vstep))] }
  | _ => {}

/-- An invalid Sickle descriptor (R205). -/
def sickleBad (s : State) (d : Sickle) : Bool :=
  let e := mentryAt s d.entry
  let entryBad := peekN s (modelTab s) 2 ≤ d.entry || mentryBad e || mentryRangeBad e
  3 ≤ d.op || d.rsv ||
  match d.op with
  | 0 =>
    !(3 ≤ d.vfmt && d.vfmt ≤ 5) || d.nvec = 0 || 8 < d.nvec || d.row0 ≠ 0 || d.table ≠ 0 || entryBad
      || rangesBad (sickleRanges d e)
      || !((List.range d.nvec).all fun v => inCrib (64 * d.poff + 64 * v * d.pstep, 4 * e.j))
  | 1 =>
    d.vfmt ≠ 0 || d.nvec ≠ 0 || d.poff ≠ 0 || d.pstep ≠ 0 || d.table ≠ 0 || d.dmask / 2 ^ 20 ≠ 0 || entryBad
      || e.rows < d.row0 + d.dmask % 2 ^ 20 || d.dmask % 2 ^ 20 = 0 || rangesBad (sickleRanges d e)
  | _ =>
    d.vfmt ≠ 0 || d.nvec ≠ 0 || d.entry ≠ 0 || d.ogroup ≠ 0 || d.voff ≠ 0 || d.vstep ≠ 0 || d.poff ≠ 0 || d.pstep ≠ 0
      || d.row0 ≠ 0 || d.dmask ≠ 0 || d.table % 4096 ≠ 0 || bitsN d.table 63 40 ≠ 0

/-! ## Chain bodies (R225) -/

structure Stream where
  en : Bool
  fmt : Nat
  off : Nat
  ld : Nat
  rm : Nat := 0
  tensor : Nat := 0
  deriving DecidableEq, Repr

structure Chain where
  lf : Nat
  x : List Stream
  y : List Stream
  sumsel : Nat
  nfblight : Bool
  wcol : Bool
  rsv : Bool
  wop : Nat
  topk : Nat
  cfg : Nat
  len : Nat
  rows : Nat
  woff : Nat
  wld : Nat
  ebase : Nat
  estride : Nat
  cvttensor : Nat
  deriving DecidableEq, Repr

def chainOf (bs : List Byte) : Chain :=
  let w (i : Nat) : Nat := leAt bs (4 * i) 4
  let hi (i : Nat) : Nat := bitsN (w i) 31 16
  let lo (i : Nat) : Nat := bitsN (w i) 15 0
  let en (i : Nat) : Bool := bitN (w 1) i
  { lf := bitsN (w 0) 31 30
    x := [⟨en 19, bitsN (w 0) 29 26, hi 4, lo 4, 0, 0⟩, ⟨en 20, bitsN (w 0) 25 22, hi 5, lo 5, 0, 0⟩,
          ⟨en 21, bitsN (w 0) 21 18, hi 6, lo 6, 0, 0⟩]
    y := [⟨en 17, bitsN (w 0) 17 14, hi 7, lo 7, bitsN (w 0) 9 8, w 10⟩,
          ⟨en 18, bitsN (w 0) 13 10, hi 8, lo 8, bitsN (w 0) 7 6, w 11⟩]
    sumsel := bitsN (w 0) 5 3, nfblight := bitN (w 0) 2, wcol := bitN (w 0) 1
    rsv := bitN (w 0) 0 || bitN (w 1) 16 || bitsN (w 2) 31 23 ≠ 0 || bitsN (w 9) 15 0 ≠ 0 || leAt bs 54 2 ≠ 0
    wop := bitsN (w 1) 31 28, topk := bitsN (w 1) 27 22, cfg := bitsN (w 1) 15 0
    len := bitsN (w 2) 22 0, rows := hi 3, woff := lo 3, wld := hi 9
    ebase := leAt bs 48 6, estride := w 14, cvttensor := w 15 }

/-- Bytes of a stream (R226). With LD the range runs from the first row to the end of the last, the gaps between rows
included (DESIGN CHOICE, log entry 125: R136 and R229 do not say whether the gaps count). -/
def streamSpan (c : Chain) (st : Stream) : Nat :=
  if codeScaled st.fmt then spanOf st.fmt c.rows c.len 0
  else if st.ld = 0 then cdiv (c.rows * c.len * codeBits st.fmt) 8
  else spanOf st.fmt c.rows c.len (64 * st.ld)

def streamRange (c : Chain) (st : Stream) : Range := (64 * st.off, streamSpan c st)

/-- Bytes of a Winnow result (R245). -/
def winWidth : Nat → Nat
  | 0 => 0
  | 2 => 8
  | 8 => 16
  | _ => 4

def winRange (c : Chain) : Range :=
  if c.wop = 7 then (64 * c.woff, (c.rows - 1) * 64 * c.wld + 8 * (c.topk + 1))
  else (64 * c.woff, (if c.wcol then c.len else c.rows) * winWidth c.wop)

/-- Input and output ranges of a chain, its table blocks left out (R229). -/
def chainRanges (c : Chain) : Ranges :=
  { reads := (c.x.filter (·.en)).map (streamRange c) ++ [(64 * c.cfg, 384)]
    writes := (c.y.filter (·.en)).map (streamRange c) ++ (if c.wop = 0 then [] else [winRange c]) }

/-- The checks of R240 that concern the body (R656). -/
def chainBodyBad (c : Chain) : Bool :=
  let narrow := 2 ≤ c.lf
  let off (st : Stream) : Bool :=
    !st.en && (st.fmt ≠ 0 || st.off ≠ 0 || st.ld ≠ 0 || st.rm ≠ 0 || st.tensor ≠ 0)
  let packed (st : Stream) : Bool :=
    st.en && !codeScaled st.fmt && st.ld = 0 && (c.len * codeBits st.fmt) % 8 ≠ 0
  c.rsv || c.x.any off || c.y.any off || c.x.any packed || c.y.any packed
    || c.x.any (fun st => st.en && !(st.fmt ≤ 10 || st.fmt = 12))
    || c.x.any (fun st => st.en && codeScaled st.fmt && narrow)
    || c.y.any (fun st => st.en && !(st.fmt ≤ 10)) || c.y.any (fun st => st.rm = 3)
    || 5 ≤ c.sumsel || 10 ≤ c.wop || c.len = 0 || 4194303 < c.len || c.rows = 0
    || (c.wcol && (c.wop = 5 || c.wop = 6 || c.wop = 7)) || (c.sumsel = 4 && c.wop = 0)
    || rangesBad (chainRanges c)

/-! ## Cart descriptors (R278 to R288) -/

structure Cart where
  op : Nat
  dtype : Nat
  rop : Nat
  objop : Nat
  ff : Bool
  reten : Bool
  rsv : Bool
  cartid : Nat
  obj : Nat
  cseq : Nat
  len : Nat
  src : Nat
  dst : Nat
  ret : Nat
  rsig : Nat
  deriving DecidableEq, Repr

def cartOf (bs : List Byte) : Cart :=
  let w (i : Nat) : Nat := leAt bs (4 * i) 4
  { op := bitsN (w 0) 31 28, dtype := bitsN (w 0) 27 24, rop := bitsN (w 0) 23 20, objop := bitsN (w 0) 19 16
    ff := bitN (w 0) 15, reten := bitN (w 0) 14
    rsv := bitsN (w 0) 13 0 ≠ 0 || leAt bs 44 20 ≠ 0 || bitN (w 10) 30 || bitN (w 10) 23
    cartid := bitsN (w 1) 31 16, obj := bitsN (w 1) 15 0, cseq := w 2, len := w 3
    src := leAt bs 16 8, dst := leAt bs 24 8, ret := leAt bs 32 8, rsig := w 10 }

def gDevice (g : Nat) : Nat := bitsN g 57 40
def gOffset (g : Nat) : Nat := g % 2 ^ 40

/-- A global address names this device's own space (R259). -/
def gLocal (s : State) (g : Nat) : Bool := gDevice g = deviceId s

/-- Bytes of an element of a DTYPE (R280). -/
def dtypeSize : Nat → Nat
  | 1 | 4 => 8
  | 3 => 2
  | _ => 4

/-- Bytes of DST, and of RET, that a cart's LENGTH spans: half of it for CAS (R280). -/
def dstLen (c : Cart) : Nat := if c.op = 1 && c.rop = 3 then c.len / 2 else c.len

/-- An invalid cart descriptor (R288). -/
def cartBad (s : State) (c : Cart) : Bool :=
  let space (g : Nat) : Bool := bitsN g 63 58 ≠ 0
  let loc := gLocal s
  let ctlOk (g n : Nat) : Bool := isCtl (gOffset g) && gOffset g + n ≤ 0xF100000000
  let bad (g n : Nat) : Bool := loc g && !rangeOk s (gOffset g) n && !ctlOk g n
  let es := dtypeSize c.dtype
  let es2 := if c.rop = 3 then 2 * es else es
  4 ≤ c.op || c.rsv || space c.src || space c.dst || space c.ret ||
  match c.op with
  | 0 => c.objop ≠ 0 || c.obj ≠ 0 || c.dtype ≠ 0 || c.rop ≠ 0 || c.reten || c.ret ≠ 0 || c.len = 0
      || (!loc c.src && !loc c.dst) || bad c.src c.len || bad c.dst c.len
  | 1 => c.objop ≠ 0 || c.obj ≠ 0 || 3 ≤ c.dtype || 4 ≤ c.rop || (!c.reten && c.ret ≠ 0) || c.len = 0
      || !loc c.src || (c.reten && !loc c.ret)
      || c.len % es2 ≠ 0 || gOffset c.src % es2 ≠ 0 || gOffset c.dst % es ≠ 0
      || bad c.src c.len || bad c.dst (dstLen c) || (c.reten && bad c.ret (dstLen c))
  | 2 => c.objop ≠ 0 || c.obj ≠ 0 || !(2 ≤ c.dtype && c.dtype ≤ 4) || 3 ≤ c.rop || c.reten || c.ret ≠ 0 || c.len = 0
      || !loc c.src || c.len % es ≠ 0 || gOffset c.src % es ≠ 0 || gOffset c.dst % 512 ≠ 0
      || bad c.src c.len || bad c.dst c.len || (loc c.dst && (isCrib (gOffset c.dst) || isCtl (gOffset c.dst)))
  | _ => 8 ≤ c.objop || c.dtype ≠ 0 || c.rop ≠ 0 || c.reten || c.ret ≠ 0 || c.len ≠ 0 || c.dst ≠ 0
      || (if c.objop = 0 then bad c.src 64 else c.src ≠ 0)

/-- A local range of a cart that lies in the Crib windows, at its local offsets: a cart may reach any of them, across the
ends of windows too (R254, R288). -/
def cribRange (s : State) (g n : Nat) : List Range :=
  if gLocal s g && isCrib (gOffset g) then [(gOffset g, n)] else []

/-- The Crib ranges of a cart (R136, R139), at local offsets. -/
def cartRanges (s : State) (c : Cart) : Ranges :=
  if c.op = 3 then { reads := if c.objop = 0 then cribRange s c.src 64 else [] }
  else
    { reads := cribRange s c.src c.len
      writes := cribRange s c.dst (dstLen c) ++ (if c.reten then cribRange s c.ret (dstLen c) else []) }

/-! ## Work items -/

/-- The table blocks that a chain's configuration names, as the scheduler reads it (R229, R656); a configuration that cannot
be read names none, and stops the chain when it runs (R496). -/
def chainTables (s : State) (b : Nat) (c : Chain) : List Range :=
  if (checkRead s (cribBase b + 64 * c.cfg) 64).2.isSome then []
  else
  let at_ (o : Nat) : Nat := peekN s (cribBase b + 64 * c.cfg + o) 4
  ((List.range (min (bitsN (at_ 0) 3 0) 12)).map fun i => at_ (32 + 4 * i)).filterMap fun w =>
    if bitsN w 31 29 = 3 then some (64 * bitsN w 15 0, 2112) else none

/-- Ranges of bough b's own Crib at local offsets. -/
def ownRanges (b : Nat) (r : Ranges) : Ranges :=
  let at_ (l : List Range) : List Range := l.map fun x => (cribBase b + x.1, x.2)
  { reads := at_ r.reads, writes := at_ r.writes, both := at_ r.both }

/-- The Crib ranges of a work item from its body (R136), at local offsets. -/
def workRanges (s : State) (b kind : Nat) (body : List Byte) : Ranges :=
  match kind with
  | 1 => ownRanges b (tileRanges (tileOf body))
  | 2 =>
    let r := chainRanges (chainOf body)
    ownRanges b { r with reads := r.reads ++ chainTables s b (chainOf body) }
  | 3 => ownRanges b (sickleRanges (sickleOf body) (mentryAt s (sickleOf body).entry))
  | _ => cartRanges s (cartOf body)

/-- What the body of a work item makes invalid (R131). -/
def bodyBad (s : State) (kind : Nat) (body : List Byte) : Bool :=
  match kind with
  | 1 => tileBad (strictMode s) (tileOf body)
  | 2 => chainBodyBad (chainOf body)
  | 3 => sickleBad s (sickleOf body)
  | _ =>
    let r := cartRanges s (cartOf body)
    cartBad s (cartOf body) || anyMeet r.writes r.reads

end Sys2Proof.Machine
end

