-- ==== Sys2Proof/Machine/Repair.lean ====
section
/-! DEFINITION. Repairs as a whole and service conditions (R505, R506), and the substitution of boughs (R150 to R153). -/

namespace Sys2Proof.Machine

/-- INFO codes of a REPAIR record (R507). -/
def repRow : Nat := 0
def repDie : Nat := 1
def repBank : Nat := 2
def repMapout : Nat := 3
def repBypass : Nat := 4
def repNarrow : Nat := 5
def repRetire : Nat := 6
def repBough : Nat := 7
def repWave : Nat := 8
def repHalf : Nat := 9

/-- A repair is taken (R505): its record, INT_REPAIRS and INT_INTSTAT.REPAIR. -/
def repairTaken (s : State) (kind info unit sub addr : Nat) : State :=
  let s := record s { kind := kind, type := tyRepair, action := actRepaired, info := info, unit := unit, sub := sub,
                      addr := addr }
  raise (bump s Reg.INT_REPAIRS 1) Reg.INT_INTSTAT Fld.INT_INTSTAT_REPAIR.bit

/-- The policy bit AUTOEXIT. -/
def autoExit (s : State) : Bool := fld s Reg.INT_POLICY Fld.INT_POLICY_AUTOEXIT = 1

/-- A service condition (R506): SERVICE is set and recorded, and with AUTOEXIT an announced exit becomes due. -/
def serviceCondition (s : State) (kind unit sub : Nat) : State :=
  let s := setFld s Reg.INT_STATUS Fld.INT_STATUS_SERVICE 1
  let s := raise s Reg.INT_INTSTAT Fld.INT_INTSTAT_SERVICE.bit
  let s := record s { kind := kind, type := tyService, action := (if autoExit s then actExit else actLogged),
                      unit := unit, sub := sub }
  if autoExit s then { s with integ := { s.integ with exitDue := true } } else s

/-- Order a substitution of presented bough n for the next frame boundary (R151, R152). -/
def orderSubst (s : State) (n : Nat) (failStop : Bool) : State :=
  if s.integ.substDue.any (fun x => x.1 = n) || s.integ.copies.any (fun x => x.1 = n) then s
  else { s with integ := { s.integ with substDue := s.integ.substDue ++ [(n, failStop)] } }

/-- A planned substitution that the device's own policy orders: only with AUTOSUB set (R505). -/
def policySubst (s : State) (b : Nat) : State :=
  let n := fld s (Reg.BGH_STATUS b) Fld.BGH_STATUS_PRESENTED
  if fld s Reg.INT_POLICY Fld.INT_POLICY_AUTOSUB = 1 && n < 64 then orderSubst s n false else s

/-- The lowest spare that neither presents nor is retired from service. -/
def freeSpare (s : State) : Option Nat :=
  (List.range 68).find? fun b =>
    fld s (Reg.BGH_STATUS b) Fld.BGH_STATUS_PRESENTED = 127 && fld s (Reg.BGH_STATUS b) Fld.BGH_STATUS_FAILED = 0
      && !(s.integ.copies.any fun c => c.2.2 = b)

/-- No spare is left for presented bough n (R153): a service condition, and with AUTOEXIT clear the number is lost and
the job ends with the uncorrectable-error status. -/
def boughLost (s : State) (n : Nat) : State :=
  let b := phys s n
  let s := serviceCondition s 4 b 0xFFFF
  if autoExit s then s
  else
    let s := setFld s (Reg.BGH_PMAP n) Fld.BGH_PMAP_PHYS 127
    let s := setFld s (Reg.BGH_STATUS b) Fld.BGH_STATUS_PRESENTED 127
    endJob (preemptAll s) 4 0

/-- At a frame boundary a due substitution begins to copy. Without a free spare a bough that failed is lost (R153); a
planned order lapses and the bough, which still works, goes on (DESIGN CHOICE, log entry 128: the manual does not
say). -/
def substBegin (s : State) (n : Nat) (failStop : Bool) : State :=
  match freeSpare s with
  | none => if failStop then boughLost s n else s
  | some b' =>
    let b := phys s n
    setBough { s with integ := { s.integ with copies := s.integ.copies ++ [(n, b, b')] } } b
      { bough s b with copying := true }

/-- SUBSTITUTION_START of a tick: every due substitution of a presented bough (R151). -/
def substStart (s : State) : State :=
  let due := s.integ.substDue
  let s := { s with integ := { s.integ with substDue := [] } }
  due.foldl (fun s d => if phys s d.1 < 68 then substBegin s d.1 d.2 else s) s

/-- Copy registers at an offset within a bough's window. -/
def copyRegs (s : State) (b b' off : Nat) : Nat → State
  | 0 => s
  | k + 1 =>
    copyRegs (setReg s (Reg.BGH_CTRL b' + off) (reg s (Reg.BGH_CTRL b + off))) b b' (off + 4) k

/-- Move the sparse entries of an address range to another base. -/
def moveCells {α : Type} (m : KMap α) (scale base base' n : Nat) : KMap α :=
  let src := m.filter fun (k, _) => decide (scale * base ≤ k) && decide (k < scale * (base + n))
  let rest := m.filter fun (k, _) => !(decide (scale * base' ≤ k) && decide (k < scale * (base' + n)))
  src.foldl (fun m (k, v) => kins (k - scale * base + scale * base') v m) rest

/-- The Crib of the spare becomes an exact copy of what a read of each codeword delivers (R495, R654); one that cannot be
read goes over as one that no read corrects, and is logged (R152). -/
def copyCrib (s : State) (b b' : Nat) : State :=
  let (s, bad) := readEvery s (s.ecc.cw.filter fun (k, _) =>
    k % 4 = 0 && decide (cribBase b ≤ k / 4) && decide (k / 4 < cribBase (b + 1)))
  let mem := moveCells s.mem 1 (cribBase b) (cribBase b') 0x400000
  let cw := s.ecc.cw.filter fun (k, _) =>
    !(k % 4 = 0 && decide (cribBase b' ≤ k / 4) && decide (k / 4 < cribBase (b' + 1)))
  let cw := bad.foldl (fun m k => kins (k - 4 * cribBase b + 4 * cribBase b') { lost := true } m) cw
  let wr := moveCells s.ecc.written 1 (cribBase b) (cribBase b') 0x400000
  let s := { s with mem := mem, ecc := { s.ecc with cw := cw, written := wr } }
  bad.foldl (fun s k =>
    record s { kind := 0, type := tyUncorr, action := actLogged, unit := b, addr := k / 4 }) s

/-- A spare takes over presented bough n (R150, R151): the Crib, slots, semaphores, barrier state, step and list position,
then the presentation map. The test controls and disputes of the old bough's arrays do not move. -/
def substFinish (s : State) (n b b' : Nat) : State :=
  let s := copyCrib s b b'
  let s := copyRegs s b b' 0x8 5
  let s := copyRegs s b b' 0x100 64
  let s := copyRegs s b b' 0x200 128
  let s := copyRegs s b b' 0x400 32
  let s := copyRegs s b b' 0x500 64
  let act := fld s (Reg.BGH_STATUS b) Fld.BGH_STATUS_ACTIVE
  let old := bough s b
  let s := setBough s b' { walking := old.walking, cut := old.cut, halted := old.halted, barWait := old.barWait }
  let s := setBough s b {}
  let s := setFld s (Reg.BGH_STATUS b) Fld.BGH_STATUS_PRESENTED 127
  let s := setFld s (Reg.BGH_STATUS b) Fld.BGH_STATUS_ACTIVE 0
  let s := setFld s (Reg.BGH_STATUS b) Fld.BGH_STATUS_FAILED 1
  let s := setFld s (Reg.BGH_STATUS b') Fld.BGH_STATUS_PRESENTED n
  let s := setFld s (Reg.BGH_STATUS b') Fld.BGH_STATUS_ACTIVE act
  let s := repairTaken s 4 repBough b 0xFFFF 0
  let s := setFld s Reg.INT_SPARES Fld.INT_SPARES_BOUGHS (fld s Reg.INT_SPARES Fld.INT_SPARES_BOUGHS + 1)
  let s := { s with integ := { s.integ with copies := s.integ.copies.filter fun c => c.1 ≠ n } }
  let s := raise s (Reg.BGH_INTSTAT b') Fld.BGH_INTSTAT_SUBST.bit
  setFld s (Reg.BGH_PMAP n) Fld.BGH_PMAP_PHYS b'

end Sys2Proof.Machine
end

