-- ==== Sys2Proof/Machine/Bough.lean ====
section
/-! DEFINITION. The control core, the scheduler and the synchronisation network of a bough (04_bough.md). -/

namespace Sys2Proof.Machine

/-! ## The walk -/

/-- The item the control core walks next (R156). -/
def itemIdx (s : State) (b : Nat) : Nat := fld s (Reg.BGH_ITEM b) Fld.BGH_ITEM_INDEX

def itemAddr (s : State) (b : Nat) : Nat := (reg64 s (Reg.BGH_PBASE_LO b) + 16 * itemIdx s b) % 2 ^ 40

/-- The walk stops at an invalid item: ITEMERR, and the bough is pre-empted (R131). -/
def itemError (s : State) (b : Nat) : State :=
  preemptOne (raise s (Reg.BGH_INTSTAT b) Fld.BGH_INTSTAT_ITEMERR.bit) b

/-- An uncorrectable item or body (R496): the walk stops, every presented bough is pre-empted and the job ends. -/
def itemUncorr (s : State) (b : Nat) (bad : Bad) : State :=
  stopConsumer (preempt s b) true bad 0

/-- The walk goes on to the next item; past item 65 535 it stops (R124, R131). -/
def advance (s : State) (b : Nat) : State :=
  let i := itemIdx s b
  if i = 65535 then itemError s b else setFld s (Reg.BGH_ITEM b) Fld.BGH_ITEM_INDEX (i + 1)

/-- The walk of a bough is running and may go on: not ended, not pre-empted, not waiting for a spare copy, at a barrier,
or stopped by a late slip (R56). -/
def walkReady (s : State) (b : Nat) : Bool :=
  b < 68 && (bough s b).walking && !(bough s b).halted && !(bough s b).copying && (bough s b).barWait.isNone
    && !s.frm.lateSlip

/-- What the walk finds. -/
inductive Walk where
  /-- Nothing of the asked kind can happen now; the state after the look. -/
  | stay (s : State)
  | unmapped
  | item (s : State) (b : Nat) (i : Item) (body : List Byte)

/-- Bough n's own bit is clear in the mask of a BARRIER's unit (R143). -/
def barNotMember (s : State) (n b : Nat) (i : Item) : Bool :=
  i.kind = 13 && !(bitN (reg64 s (Reg.BGH_BARMASK_LO b (bitsN i.w1 4 0))) n)

/-- Judge a work item's body when the walk reaches it (R131, R656). -/
def walkBody (s : State) (b : Nat) (i : Item) : Walk :=
  match load s (cribBase b + i.body) 64 with
  | (s, .error bad) => .stay (itemUncorr s b bad)
  | (s, .ok body) => if bodyBad s i.kind body then .stay (itemError s b) else .item s b i body

/-- Read the next item of presented bough n and, for a work item, its body, and judge both. -/
def walkFetch (s : State) (n : Nat) : Walk :=
  let b := phys s n
  if !walkReady s b then .stay s
  else if !rangeOk s (itemAddr s b) 16 then .unmapped
  else
    match load s (itemAddr s b) 16 with
    | (s, .error bad) => .stay (itemUncorr s b bad)
    | (s, .ok bs) =>
      let i := itemOf bs
      if itemWordsBad i || barNotMember s n b i then .stay (itemError s b)
      else if isWork i.kind then walkBody s b i
      else .item s b i []

/-- Walk to the next item of presented bough n; the walk stays where the read of the item must wait on a round (R310). -/
def walkTo (s : State) (n : Nat) : Walk :=
  match walkFetch s n with
  | .unmapped => .unmapped
  | .stay t => .stay (orWait s t)
  | .item t b i body => if (stalledBy s t).isEmpty then .item t b i body else .stay (orWait s t)

/-- Every earlier item of the walk has retired. -/
def allRetired (s : State) (b : Nat) : Bool := (bough s b).sb.isEmpty

/-- The walk of a presented bough is over and everything it issued has retired (R46). A walk of the loaded job that was
stopped before END has not retired its program frame (R131). -/
def boughRetired (s : State) (b : Nat) : Bool :=
  !(bough s b).walking && !(jobLoaded s && (bough s b).cut) && (bough s b).sb.isEmpty

/-- A control item of kind `kind` at the walk of bough n, its FENCE or R130 satisfied: `act` is its effect. -/
def control (s : State) (n kind : Nat) (act : State → Nat → Item → State) : Host.Outcome State Fault Refusal :=
  if !alive s then finish s s else
  match walkTo s n with
  | .unmapped => .fault .unmappedItem
  | .stay t => finish s t
  | .item t b i _ =>
    if i.kind ≠ kind then finish s t
    else if (i.fence || kind = 12 || kind = 13 || kind = 14) && !allRetired t b then finish s t
    else finish s (act t b i)

/-! ## Scalar slots (R129, R132) -/

def slot (s : State) (b i : Nat) : Nat := reg64 s (Reg.BGH_SLOT_LO b i)

def setSlot (s : State) (b i v : Nat) : State := setReg64 s (Reg.BGH_SLOT_LO b i) v

/-- An earlier CHAIN of the walk that names the slot has not retired (R132). -/
def slotBusy (s : State) (b i : Nat) : Bool :=
  (bough s b).sb.any fun e => e.w0 / 2 ^ 28 = 2 && bitN e.w0 23 && bitsN e.w0 22 18 = i

/-- END (R124): the walk ends for this program frame. -/
def endOf (s : State) (b : Nat) (_ : Item) : State := setBough s b { bough s b with walking := false }

def execEndItem (n : Nat) (s : State) : Host.Outcome State Fault Refusal := control s n 0 endOf

/-- The condition of a BRANCH (R128). -/
def branchTaken (cond a b : Nat) : Bool :=
  let fa := f32 (a % 2 ^ 32)
  let fb := f32 (b % 2 ^ 32)
  match cond with
  | 0 => a = b
  | 1 => a ≠ b
  | 2 => sextN 64 a < sextN 64 b
  | 3 => sextN 64 b ≤ sextN 64 a
  | 4 => numLt fa fb
  | 5 => !numIsNan fa && !numIsNan fb && !numLt fa fb
  | _ => true

/-- B of a BRANCH: a slot, or the sign-extended immediate, whose 32 bits serve the FP32 conditions (R128). -/
def branchB (s : State) (b : Nat) (i : Item) : Nat :=
  if bitN i.w1 23 then slot s b (bitsN i.w1 22 18) else wrapN 64 (sextN 32 i.w2)

/-- BRANCH (R128). -/
def branchOf (s : State) (b : Nat) (i : Item) : State :=
  let sa := bitsN i.w1 31 27
  if slotBusy s b sa || (bitN i.w1 23 && slotBusy s b (bitsN i.w1 22 18)) then s
  else if branchTaken (bitsN i.w1 26 24) (slot s b sa) (branchB s b i) then
    setFld s (Reg.BGH_ITEM b) Fld.BGH_ITEM_INDEX (bitsN i.w3 15 0)
  else advance s b

def execBranch (n : Nat) (s : State) : Host.Outcome State Fault Refusal := control s n 8 branchOf

/-- SETSLOT (R127). -/
def setslotOf (s : State) (b : Nat) (i : Item) : State :=
  let k := bitsN i.w1 4 0
  if slotBusy s b k then s else advance (setSlot s b k (i.w2 + 2 ^ 32 * i.w3)) b

def execSetslot (n : Nat) (s : State) : Host.Outcome State Fault Refusal := control s n 9 setslotOf

/-- ADDSLOT (R127): a signed 32-bit addend, wrapping at 64 bits. -/
def addslotOf (s : State) (b : Nat) (i : Item) : State :=
  let k := bitsN i.w1 4 0
  if slotBusy s b k then s
  else advance (setSlot s b k (wrapN 64 ((slot s b k : Int) + sextN 32 i.w2))) b

def execAddslot (n : Nat) (s : State) : Host.Outcome State Fault Refusal := control s n 10 addslotOf

/-! ## Semaphores (R140, R141) -/

def sem (s : State) (b i : Nat) : Nat := fld s (Reg.BGH_SEM b i) Fld.BGH_SEM_COUNT

/-- Take `c` from a semaphore. -/
def semTake (s : State) (b i c : Nat) : State := setFld s (Reg.BGH_SEM b i) Fld.BGH_SEM_COUNT (sem s b i - c)

def setSemwait (s : State) (b v : Nat) : State := setFld s (Reg.BGH_STATUS b) Fld.BGH_STATUS_SEMWAIT v

/-- SEMWAIT (R140): wait until the count is there, then take it in the same cycle. -/
def semwaitOf (s : State) (b : Nat) (i : Item) : State :=
  let k := bitsN i.w1 6 0
  let c := bitsN i.w2 23 0
  if sem s b k < c then setSemwait s b 1 else advance (setSemwait (semTake s b k c) b 0) b

def execSemwait (n : Nat) (s : State) : Host.Outcome State Fault Refusal := control s n 11 semwaitOf

/-- SIGNAL (R140): a signal goes out on the synchronisation network. -/
def signalOf (s : State) (b : Nat) (i : Item) : State :=
  advance (sendSignal s (bitsN i.w1 29 24) (bitsN i.w1 22 16) (bitsN i.w2 15 0)) b

def execSignal (n : Nat) (s : State) : Host.Outcome State Fault Refusal := control s n 12 signalOf

/-- The network holds what is addressed to a presented number whose spare copy runs or is due at this boundary
(R150). -/
def netHeld (s : State) (n : Nat) : Bool := s.integ.copies.any fun c => c.1 = n

/-- Add the counts that reach a semaphore in one cycle (R141): above 2^24 − 1 it saturates, SEMOVF is set and the
receiving bough is pre-empted. -/
def semAdd (s : State) (b i c : Nat) : State :=
  let v := sem s b i + c
  if 2 ^ 24 - 1 < v then
    preemptOne (raise (setFld s (Reg.BGH_SEM b i) Fld.BGH_SEM_COUNT (2 ^ 24 - 1)) (Reg.BGH_INTSTAT b)
      Fld.BGH_INTSTAT_SEMOVF.bit) b
  else setFld s (Reg.BGH_SEM b i) Fld.BGH_SEM_COUNT v

/-- A SEMWAIT item that the walk waits at is tested after the counts have been added (R141). -/
def semRelease (s : State) (n b : Nat) : State :=
  if fld s (Reg.BGH_STATUS b) Fld.BGH_STATUS_SEMWAIT = 1 then
    match walkTo s n with
    | .item t b i _ => if i.kind = 11 then semwaitOf t b i else s
    | _ => s
  else s

/-- SEMAPHORE_SIGNAL (R141): every signal in flight to semaphore `k` of presented bough n arrives. -/
def semSignal (s : State) (n k : Nat) : State :=
  let b := phys s n
  let arriving := s.net.filter fun x => x.bough = n && x.sem = k
  if netHeld s n || 68 ≤ b || arriving.isEmpty then s
  else
    let s := { s with net := s.net.filter fun x => !(x.bough = n && x.sem = k) }
    semRelease (semAdd s b k ((arriving.map (·.count)).sum)) n b

def execSemaphoreSignal (n sem : Nat) (s : State) : Host.Outcome State Fault Refusal := finish s (semSignal s n sem)

/-! ## Barriers (R142, R143) -/

def barSt (s : State) (u : Nat) : BarSt := kget (fun _ => {}) s.bars u

def setBar (s : State) (u : Nat) (x : BarSt) : State := { s with bars := kset (fun _ => {}) s.bars u x }

/-- BARMIS on a bough, which is pre-empted. -/
def barMismatch (s : State) (b : Nat) : State :=
  preempt (raise s (Reg.BGH_INTSTAT b) Fld.BGH_INTSTAT_BARMIS.bit) b

/-- The presented boughs of a mask. -/
def maskBoughs (mask : Nat) : List Nat := bitList 64 0 mask

/-- ARRIVED of unit u on every bough of a mask, those apart whose copy runs (R150). -/
def showArrived (s : State) (u mask k : Nat) : State :=
  ((maskBoughs mask).filter fun m => !netHeld s m).foldl
    (fun s m => setFld s (Reg.BGH_BAR (phys s m) u) Fld.BGH_BAR_ARRIVED k) s

/-- The release of one participant: its unit toggles GEN and the walk goes past its BARRIER item; held while the copy of
the bough runs (R150). The units of the boughs in the mask show ARRIVED and toggle GEN, and no others (DESIGN CHOICE, log
entry 127: R143 says each unit). -/
def barReleaseOne (u : Nat) (s : State) (m : Nat) : State :=
  if netHeld s m then { s with integ := { s.integ with heldBars := s.integ.heldBars ++ [(m, u)] } } else
  let b := phys s m
  let g := fld s (Reg.BGH_BAR b u) Fld.BGH_BAR_GEN
  let s := setRegN s (Reg.BGH_BAR b u) (1 - g)
  if (bough s b).barWait = some u then
    let s := setBough s b { bough s b with barWait := none }
    advance (setFld s (Reg.BGH_STATUS b) Fld.BGH_STATUS_BARWAIT 0) b
  else s

/-- An arrival of presented bough n (R143). -/
def barArrive (s : State) (n b u mask : Nat) : State :=
  let x := barSt s u
  if x.dead then jobStopCheck (barMismatch s b)
  else if !x.arrived.isEmpty && x.mask ≠ mask then
    let s := setBar s u { x with dead := true }
    jobStopCheck ((x.arrived ++ [n]).foldl (fun s m => barMismatch s (phys s m)) s)
  else
    let arrived := x.arrived ++ [n]
    if (maskBoughs mask).all fun m => arrived.contains m then
      (maskBoughs mask).foldl (barReleaseOne u)
        (setBough (setBar s u {}) b { bough s b with barWait := some u })
    else
      let s := setBar s u { x with mask := mask, arrived := arrived }
      let s := setBough s b { bough s b with barWait := some u }
      setFld (showArrived s u mask arrived.length) (Reg.BGH_STATUS b) Fld.BGH_STATUS_BARWAIT 1

/-- BARRIER (R143): the arrival carries the mask of the bough's own unit. -/
def barrierOf (n : Nat) (s : State) (b : Nat) (i : Item) : State :=
  let u := bitsN i.w1 4 0
  barArrive s n b u (reg64 s (Reg.BGH_BARMASK_LO b u))

def execBarrier (n : Nat) (s : State) : Host.Outcome State Fault Refusal := control s n 13 (barrierOf n)

/-! ## Device counters (R145) -/

def counter (s : State) (c : Nat) : Nat := reg64 s (Reg.BGH_CNT_LO c)

/-- Add a signed amount to a device counter, modulo 2^64. -/
def counterAddTo (s : State) (c : Nat) (z : Int) : State :=
  setReg64 s (Reg.BGH_CNT_LO c) (wrapN 64 ((counter s c : Int) + z))

/-- A COUNTER read copies the counter into a slot. -/
def counterReadOf (s : State) (b : Nat) (i : Item) : State :=
  if bitN i.w1 15 then advance (setSlot s b (bitsN i.w1 14 10) (counter s (bitsN i.w1 9 0))) b else s

def execCounterRead (n : Nat) (s : State) : Host.Outcome State Fault Refusal := control s n 14 counterReadOf

/-! ## Issue and retirement of work items (R135 to R138) -/

/-- The lowest free entry number of a scoreboard. -/
def freeEntry (st : BoughSt) : Option Nat :=
  (List.range 64).find? fun i => !(st.sb.any fun e => e.id = i)

/-- BGH_STATUS.SBOCC is the number of entries in use. -/
def syncSbocc (s : State) (b : Nat) : State :=
  setFld s (Reg.BGH_STATUS b) Fld.BGH_STATUS_SBOCC (bough s b).sb.length

/-- The offset of a work item has passed: in a slip frame it passed in an earlier frame (R45, R52). -/
def offsetPassed (s : State) (i : Item) (t : Nat) : Bool :=
  i.offset ≤ t || fld s Reg.FRM_STATUS Fld.FRM_STATUS_SLIPFRAME = 1

/-- The semaphore wait of a work item is satisfied (R126). -/
def waitOk (s : State) (b : Nat) (i : Item) : Bool :=
  !(bitN i.w2 31) || bitsN i.w2 23 0 ≤ sem s b (bitsN i.w2 30 24)

/-- An earlier item in flight stands in the way of the item's ranges (R137). -/
def hazard (s : State) (b : Nat) (kind : Nat) (body : List Byte) : Bool :=
  let late := workRanges s b kind body
  (bough s b).sb.any fun e => rangesClash (workRanges s b (e.w0 / 2 ^ 28) e.body) late

/-- An array accepts a new tile (R163, R196): no share waits on it, no share on it replays or has its column test, and no
column test is asked of it. The overlap of R163 lets a tile issue behind a first pass (log entry 120). -/
def arrAccepts (s : State) (b a : Nat) : Bool :=
  !((bough s b).shares.any fun x => x.arr = a && (x.phase ≠ .running || x.pass ≠ 1))
    && (!((bough s b).colTests.contains a) || fld s (Reg.BGH_MASTAT b a) Fld.BGH_MASTAT_RETIRED = 1)

/-- The unit the item needs can accept it: every array a tile names (R163), one chain at a time (R248), and a CARTID not
in use (R283). -/
def unitFree (s : State) (b kind : Nat) (body : List Byte) : Bool :=
  match kind with
  | 1 => (tileArrays (tileOf body)).all (arrAccepts s b)
  | 2 => !((bough s b).sb.any fun e => e.w0 / 2 ^ 28 = 2)
  | 4 => (kfind s.carts (cartOf body).cartid).isNone
  | _ => true

/-- The conditions of R137 other than the semaphore wait. -/
def issueOk (s : State) (b : Nat) (i : Item) (body : List Byte) (t : Nat) : Bool :=
  offsetPassed s i t && (!i.fence || allRetired s b) && (freeEntry (bough s b)).isSome && unitFree s b i.kind body
    && !hazard s b i.kind body

/-- Put an issued item on the scoreboard with the step number in force (R134, R135). -/
def pushEntry (s : State) (b id : Nat) (i : Item) (body : List Byte) : State :=
  let e : SbEntry := { id := id, item := itemIdx s b, w0 := i.w0, w2 := i.w2, w3 := i.w3, body := body
                       step := reg64 s (Reg.BGH_STEP_LO b) }
  syncSbocc (setBough s b { bough s b with sb := (bough s b).sb ++ [e] }) b

/-- Issue the work item at the walk of bough n when it is of the asked kind, `pick` accepts its body and R137 holds;
`run` is what its unit does. -/
def issue (s : State) (n kind t : Nat) (pick : List Byte → Bool) (run : State → Nat → Nat → List Byte → State) :
    Host.Outcome State Fault Refusal :=
  if !alive s then finish s s else
  match walkTo s n with
  | .unmapped => .fault .unmappedItem
  | .stay u => finish s u
  | .item u b i body =>
    if i.kind ≠ kind || !pick body || !issueOk u b i body t then finish s u
    else if !waitOk u b i then finish s (setSemwait u b 1)
    else
      let u := if bitN i.w2 31 then setSemwait (semTake u b (bitsN i.w2 30 24) (bitsN i.w2 23 0)) b 0 else u
      let id := (freeEntry (bough u b)).getD 0
      finish s (advance (run (pushEntry u b id i body) b id body) b)

def entryOf (s : State) (b id : Nat) : Option SbEntry := (bough s b).sb.find? fun e => e.id = id

/-- Change an entry of a scoreboard. -/
def mapEntry (s : State) (b id : Nat) (f : SbEntry → SbEntry) : State :=
  setBough s b { bough s b with sb := (bough s b).sb.map fun e => if e.id = id then f e else e }

def markDone (s : State) (b id : Nat) : State := mapEntry s b id fun e => { e with done := true }

/-- What a retiring chain leaves (R132, R247, R252, R656): the count of chains, its summary, Blight when NFBLIGHT asks
for it, and ITEMERR when its configuration was refused. -/
def retireChain (s : State) (b : Nat) (e : SbEntry) : State :=
  let c := chainOf e.body
  let n := reg64 s (Reg.THR_CHAINS_LO b)
  let s := setReg64 s (Reg.THR_CHAINS_LO b) (min (n + 1) (2 ^ 64 - 1))
  let s := setRegN s (Reg.THR_STATUS b) 0
  let s := if bitN e.w0 23 && !e.stopped && !e.badCfg then setSlot s b (bitsN e.w0 22 18) e.summary else s
  let s := if c.nfblight && e.nonfin ≠ 0 && stepOpen s then
      raise (raiseBlight s srcNonfin) (Reg.THR_INTSTAT b) Fld.THR_INTSTAT_BLIGHT.bit
    else s
  if e.badCfg then preempt (raise s (Reg.BGH_INTSTAT b) Fld.BGH_INTSTAT_ITEMERR.bit) b else s

/-- The tile of a dispute has retired with its entry (R189). -/
def Dispute.retired (id : Nat) (d : Dispute) : Dispute := if d.entry = some id then { d with entry := none } else d

/-- A work item retires (R138): its entry is freed, its signal sent, and a pre-empted bough with nothing left in flight
stops. -/
def retire (s : State) (b : Nat) (e : SbEntry) : State :=
  let carts := s.carts.map fun (k, c) => (k, if c.bough = some b && c.entry = e.id then { c with bough := none } else c)
  let s := setBough { s with carts := carts } b { bough s b with sb := (bough s b).sb.filter fun x => x.id ≠ e.id }
  let s := setBough s b { bough s b with disputes := (bough s b).disputes.map (Dispute.retired e.id) }
  let s := bump64 (syncSbocc s b) (Reg.BGH_RETIRED_LO b) 1
  let s := if e.w0 / 2 ^ 28 = 2 then retireChain s b e else s
  jobStopCheck (stopCheck (sendField s e.w3) b)

def workItemRetire (s : State) (n id : Nat) : State :=
  let b := phys s n
  match entryOf s b id with
  | none => s
  | some e => if e.done && b < 68 then retire s b e else s

def execWorkItemRetire (n id : Nat) (s : State) : Host.Outcome State Fault Refusal := finish s (workItemRetire s n id)

/-! ## Pre-emption and failures (R148, R150 to R152) -/

/-- BGH_PREEMPT (R148): a write of 1 to BGH_CTRL.PREEMPT of physical bough b. -/
def bghPreempt (s : State) (b : Nat) : State := if b < 68 then preemptOne s b else s

def execBghPreempt (b : Nat) (s : State) : Host.Outcome State Fault Refusal := finish s (bghPreempt s b)

/-- BOUGH_FAIL_STOP (R152): the bough stops at once, its unretired items are abandoned, Blight is raised or the job ends,
and a substitution is ordered. -/
def failStop (s : State) (n : Nat) : State :=
  let b := phys s n
  if 68 ≤ b then s
  else
    let carts := s.carts.map fun (k, c) => (k, if c.bough = some b then { c with bough := none } else c)
    let s := setBough { s with carts := carts } b {}
    let w := reg s (Reg.BGH_STATUS b)
    let w := Fld.BGH_STATUS_SBOCC.put (Fld.BGH_STATUS_SEMWAIT.put (Fld.BGH_STATUS_BARWAIT.put w 0) 0) 0
    let s := setReg s (Reg.BGH_STATUS b) (Fld.BGH_STATUS_FAILED.put w 1)
    let s := setRegN s (Reg.THR_STATUS b) 0
    let opn := stepOpen s
    let s := if opn then raiseBlight s srcUncorr else s
    let s := record s { kind := 4, type := tyUncorr, unit := b
                        action := if opn then actBlight else if jobLoaded s then actJobEnd else actLogged }
    let s := orderSubst s n true
    let s := raise s (Reg.BGH_INTSTAT b) Fld.BGH_INTSTAT_FAILSTOP.bit
    if opn then s else endJob s 4 0

def execBoughFailStop (n : Nat) (s : State) : Host.Outcome State Fault Refusal := finish s (failStop s n)

/-- A Sickle partial reaches the Crib of presented bough n. -/
def placePartial (s : State) (n o v : Nat) : State × Option Bad := store s (cribBase (phys s n) + o) (leBytes 4 v)

/-- What the networks held for presented bough n reaches the spare: Sickle partials, the arrivals at barriers and their
releases (R150); semaphore signals arrive by SEMAPHORE_SIGNAL. -/
def deliverHeld (s : State) (n : Nat) : State :=
  let mine := s.integ.heldParts.filter fun x => x.1 = n
  let rel := s.integ.heldBars.filter fun x => x.1 = n
  let s := { s with integ := { s.integ with heldParts := s.integ.heldParts.filter fun x => x.1 ≠ n
                                            heldBars := s.integ.heldBars.filter fun x => x.1 ≠ n } }
  let s := s.bars.foldl (fun s x => if bitN x.2.mask n && !x.2.dead then
    setFld s (Reg.BGH_BAR (phys s n) x.1) Fld.BGH_BAR_ARRIVED x.2.arrived.length else s) s
  let s := rel.foldl (fun s x => barReleaseOne x.2 s n) s
  mine.foldl (fun s x => match placePartial s n x.2.1 x.2.2 with
    | (s, some bad) => stopConsumer s false bad 0
    | (s, none) => s) s

/-- SUBSTITUTION_COPY_DONE (R150, R151), and a SUBST command that ordered it completes. -/
def substDone (s : State) (n : Nat) : State :=
  match s.integ.copies.find? fun c => c.1 = n with
  | none => s
  | some (_, b, b') =>
    let cmds := s.integ.substCmds.filter fun c => c.1 = n
    let s := { s with integ := { s.integ with substCmds := s.integ.substCmds.filter fun c => c.1 ≠ n } }
    let s := cmds.foldl (fun s c => complete s c.2 { status := 0 }) s
    deliverHeld (substFinish s n b b') n

def execSubstitutionCopyDone (n : Nat) (s : State) : Host.Outcome State Fault Refusal := finish s (substDone s n)

end Sys2Proof.Machine
end

