-- ==== Sys2Proof/Machine/Records.lean ====
section
/-! DEFINITION. Parameter records (R366, R367) and the touched-block maps (R373, R374). -/

namespace Sys2Proof.Machine

/-- A parameter record (R366). -/
structure PRec where
  group : Nat
  frozen : Bool
  hold : Bool
  mclass : Nat
  wc2 : Bool
  avgen : Bool
  mfmt : Nat
  sfmt : Nat
  gfmt : Nat
  wfmt : Nat
  nmom : Nat
  wcrm : Nat
  len : Nat
  statedev : Nat
  mjob : Nat
  epoch : Nat
  master : Nat
  mom1 : Nat
  mom2 : Nat
  avg : Nat
  wc0 : Nat
  wc1 : Nat
  tmap : Nat
  grad : Nat
  decay : Nat
  rsv : Bool
  deriving DecidableEq, Repr

def precAddr (s : State) (j : Nat) : Nat := reg64 s Reg.MIL_PTAB_LO + 64 * j

def precOf (bs : List Byte) : PRec :=
  let b (i : Nat) : Nat := leAt bs i 1
  let a (i : Nat) : Nat := leAt bs i 5
  { group := b 0, frozen := bitN (b 1) 7, hold := bitN (b 1) 6, mclass := bitsN (b 1) 5 4, wc2 := bitN (b 1) 3
    avgen := bitN (b 1) 2, mfmt := bitsN (b 2) 7 7, sfmt := bitsN (b 2) 6 6, gfmt := bitsN (b 2) 5 4
    wfmt := bitsN (b 2) 3 0, nmom := bitsN (b 3) 7 6, wcrm := bitsN (b 3) 5 4, len := leAt bs 4 4
    statedev := bitsN (leAt bs 8 4) 29 12, mjob := bitsN (leAt bs 8 4) 11 0, epoch := leAt bs 12 4
    master := a 16, mom1 := a 21, mom2 := a 26, avg := a 31, wc0 := a 36, wc1 := a 41, tmap := a 46, grad := a 51
    decay := leAt bs 56 4
    rsv := bitsN (b 1) 1 0 ≠ 0 || bitsN (b 3) 3 0 ≠ 0 || bitsN (leAt bs 8 4) 31 30 ≠ 0 || leAt bs 60 4 ≠ 0 }

def precAt (s : State) (j : Nat) : PRec := precOf (peek s (precAddr s j) 64)

def pcount (s : State) : Nat := fld s Reg.MIL_PCOUNT Fld.MIL_PCOUNT_COUNT

/-- Blocks of a record (R367). -/
def PRec.blocks (r : PRec) : Nat := cdiv r.len 1024

/-- Element widths in bytes of the master, the moments, the gradient and the working copy. -/
def PRec.wMaster (r : PRec) : Nat := if r.mfmt = 1 then 8 else 4
def PRec.wMom (r : PRec) : Nat := if r.sfmt = 1 then 2 else 4
def PRec.wGrad (r : PRec) : Nat := match r.gfmt with
  | 0 => 4
  | 1 => 2
  | _ => 8
def PRec.wWc (r : PRec) : Nat := if r.wfmt = 5 then 2 else 1

/-- Bytes of one bin of an array of elements of width w (R367). -/
def PRec.bin (r : PRec) (w : Nat) : Nat := cdiv (r.len * w) 4096 * 4096

/-- TMAP byte of block k (R373). -/
def tmapAt (s : State) (r : PRec) (k : Nat) : Nat := peekN s (r.tmap + k) 1

/-- Write a map byte under the codes (R273, R496). -/
def setTmap (s : State) (r : PRec) (k v : Nat) : State :=
  match storeRaw s (r.tmap + k) [BitVec.ofNat 8 v] with
  | (s, some b) => stopConsumer s false b 0
  | (s, none) => s

def tTouch : Nat := 0
def tPend : Nat := 1
def tCur : Nat := 2
def tPrev : Nat := 3

/-- Set TOUCH of the blocks of record j that a write of n bytes at a lands in (R374). -/
def touchRec (a n : Nat) (s : State) (j : Nat) : State :=
  let r := precAt s j
  let w := r.wGrad
  let e := r.grad + r.len * w
  let lo := max a r.grad
  let hi := min (a + n) e
  if hi ≤ lo then s
  else
    let k0 := (lo - r.grad) / w / 1024
    let k1 := (hi - 1 - r.grad) / w / 1024
    (List.range (k1 + 1 - k0)).foldl (fun s i => setTmap s r (k0 + i) (putBits (tmapAt s r (k0 + i)) 0 0 1)) s

/-- Every record a write lands in takes note of it (R374). -/
def touchGrad (s : State) (a n : Nat) : State :=
  if isObj a && decide (0 < n) then (List.range (pcount s)).foldl (touchRec a n) s else s

/-- The write that applies a contribution: under the codes, and noted in the touched-block maps when it lands. -/
def storeSegRaw (s : State) (a : Nat) (bs : List Byte) : State × Option Bad :=
  match storeRaw s a bs with
  | (s, some b) => (s, some b)
  | (s, none) => (touchGrad s a bs.length, none)

/-- A segment's write to memory: under the codes, and noted in the touched-block maps when it lands. -/
def storeSeg (s : State) (a : Nat) (bs : List Byte) : State × Option Bad :=
  match store s a bs with
  | (s, some b) => (s, some b)
  | (s, none) => (touchGrad s a bs.length, none)

end Sys2Proof.Machine
end

