-- ==== Sys2Proof/Machine/MillGate.lean ====
section
/-! DEFINITION. The Mill list's descriptors (R381) and what the Mill waits for: gate counters, DONECNT and fences (R389,
R400, R403). -/

namespace Sys2Proof.Machine

structure MDesc where
  op : Nat
  gatecnt : Nat
  gateval : Int
  first : Nat
  count : Nat
  sig : Nat
  outcnt : Nat
  rsv : Bool
  deriving DecidableEq, Repr

def mdescOf (bs : List Byte) : MDesc :=
  let w (i : Nat) : Nat := leAt bs (4 * i) 4
  let c := bitsN (w 3) 16 0
  let op := bitsN (w 0) 31 28
  { op := op, gatecnt := bitsN (w 0) 27 18, gateval := sextN 32 (w 1), first := bitsN (w 2) 15 0, count := c, sig := w 4
    outcnt := bitsN (leAt bs 20 2) 9 0
    rsv := 3 ≤ op || bitsN (w 0) 17 0 ≠ 0 || bitsN (w 2) 31 16 ≠ 0 || bitsN (w 3) 31 17 ≠ 0
      || bitN (w 4) 30 || bitN (w 4) 23 || bitsN (leAt bs 20 2) 15 10 ≠ 0 || leAt bs 22 10 ≠ 0
      || (op = 1 && (c = 0 || 65536 < c)) }

/-- The descriptor the walk stands at. -/
def mdescAddr (s : State) : Nat := reg64 s Reg.MIL_LIST_LO + 32 * fld s Reg.MIL_ITEM Fld.MIL_ITEM_INDEX

structure MJob where
  rows : Nat
  cols : Nat
  hin : Nat
  hout : Nat
  hstat : Nat
  donecnt : Nat
  sig : Nat
  deriving DecidableEq, Repr

def mjobOf (bs : List Byte) : MJob :=
  { rows := leAt bs 0 2, cols := leAt bs 2 2, hin := leAt bs 4 5, hout := leAt bs 9 5, hstat := leAt bs 14 5
    donecnt := bitsN (leAt bs 19 2) 9 0, sig := leAt bs 24 4 }

def mjobAddr (s : State) (i : Nat) : Nat := reg64 s Reg.MIL_MJTAB_LO + 32 * i

/-- Matrix job entry i (R388). -/
def mjobAt (s : State) (i : Nat) : MJob := mjobOf (peek s (mjobAddr s i) 32)

/-- The fence counter that a record's regeneration waits for (R399, R400). -/
def fenceOf (s : State) (epoch j : Nat) : Nat :=
  let odd := if (precAt s j).wc2 then epoch % 2 = 1 else epoch % 2 = 0
  counter s (fld s Reg.MIL_FENCE (if odd then Fld.MIL_FENCE_FENCE1 else Fld.MIL_FENCE_FENCE0))

/-- A regeneration waits on a fence: settling is over and some record's counter is not zero. -/
def fenceWaits (s : State) : Bool :=
  match s.mill.res, s.mill.work with
  | some x, none => x.regen.any fun y => fenceOf s x.epoch y.1 ≠ 0
  | _, _ => false

/-- The Mill waits on a DONECNT, or its walk on the gate counter of the descriptor it stands at. -/
def gateWaits (s : State) : Bool :=
  match s.mill.work with
  | some w =>
    match w.mats with
    | j :: _ => w.stage = 1 && decide (sextN 64 (counter s (mjobAt s (precAt s j).mjob).donecnt) < 1)
    | [] => false
  | none =>
    let d := mdescOf (peek s (mdescAddr s) 32)
    s.mill.walking && !s.mill.past && s.mill.res.isNone && fld s Reg.MIL_STATUS Fld.MIL_STATUS_BUSY = 0
      && rangeOk s (mdescAddr s) 32 && !d.rsv && decide (sextN 64 (counter s d.gatecnt) < d.gateval)

/-- GATED and FENCEWAIT show what the Mill waits for (R403). -/
def syncWaits (s : State) : State :=
  let s := setFld s Reg.MIL_STATUS Fld.MIL_STATUS_GATED (if gateWaits s then 1 else 0)
  setFld s Reg.MIL_STATUS Fld.MIL_STATUS_FENCEWAIT (if fenceWaits s then 1 else 0)

end Sys2Proof.Machine
end

