-- ==== Sys2Proof/Machine/Crypto.lean ====
section
/-! DEFINITION. The public functions that the spec names: SHAKE256 (NIST FIPS 202) and KMAC256 (NIST SP 800-185) of R420,
R421, R461 and R543, and AES-256-GCM (NIST SP 800-38D) of R422. -/

namespace Sys2Proof.Machine

/-- Bytes of ASCII text. -/
def ascii (t : String) : List (BitVec 8) := t.toList.map fun c => BitVec.ofNat 8 c.toNat

/-! ## Keccak-f[1600] -/

/-- Rotate a 64-bit lane left. -/
def rotl64 (x n : Nat) : Nat := (x * 2 ^ n + x / 2 ^ (64 - n)) % 2 ^ 64

/-- Rotation offsets, lane x + 5y. -/
def keccakRot : List Nat := [
  0, 1, 62, 28, 27, 36, 44, 6, 55, 20, 3, 10, 43, 25, 39, 41, 45, 15, 21, 8, 18, 2, 61, 56, 14]

/-- Round constants. -/
def keccakRc : List Nat := [
  0x0000000000000001, 0x0000000000008082, 0x800000000000808A, 0x8000000080008000, 0x000000000000808B,
  0x0000000080000001, 0x8000000080008081, 0x8000000000008009, 0x000000000000008A, 0x0000000000000088,
  0x0000000080008009, 0x000000008000000A, 0x000000008000808B, 0x800000000000008B, 0x8000000000008089,
  0x8000000000008003, 0x8000000000008002, 0x8000000000000080, 0x000000000000800A, 0x800000008000000A,
  0x8000000080008081, 0x8000000000008080, 0x0000000080000001, 0x8000000080008008]

/-- One round on 25 lanes. -/
def keccakRound (a : List Nat) (rc : Nat) : List Nat :=
  let at_ (l : List Nat) (i : Nat) : Nat := l.getD i 0
  let c := (List.range 5).map fun x => at_ a x ^^^ at_ a (x + 5) ^^^ at_ a (x + 10) ^^^ at_ a (x + 15) ^^^ at_ a (x + 20)
  let d := (List.range 5).map fun x => at_ c ((x + 4) % 5) ^^^ rotl64 (at_ c ((x + 1) % 5)) 1
  let t := (List.range 25).map fun i => rotl64 (at_ a i ^^^ at_ d (i % 5)) (at_ keccakRot i)
  -- Lane (x, y) of the next array comes from lane (x + 3y, x).
  let b := (List.range 25).map fun i => let x := i % 5; let y := i / 5; at_ t ((x + 3 * y) % 5 + 5 * x)
  let e := (List.range 25).map fun i =>
    let x := i % 5
    let y := i / 5
    at_ b i ^^^ ((2 ^ 64 - 1 - at_ b ((x + 1) % 5 + 5 * y)) &&& at_ b ((x + 2) % 5 + 5 * y))
  (at_ e 0 ^^^ rc) :: e.drop 1

def keccakF (a : List Nat) : List Nat := keccakRc.foldl keccakRound a

/-- Absorb whole blocks of 136 bytes. -/
def absorb : Nat → List Nat → List (BitVec 8) → List Nat
  | 0, a, _ => a
  | n + 1, a, bs =>
    let w := (List.range 17).map fun i => leAt bs (8 * i) 8
    absorb n (keccakF ((List.range 25).map fun i => a.getD i 0 ^^^ w.getD i 0)) (bs.drop 136)

/-- Squeeze blocks. -/
def squeeze : Nat → List Nat → List (BitVec 8)
  | 0, _ => []
  | n + 1, a => (a.take 17).flatMap (leBytes 8) ++ squeeze n (keccakF a)

/-- The sponge of SHAKE256 and cSHAKE256: `pad` is the domain byte with the first padding bit. -/
def sponge (pad : Nat) (msg : List (BitVec 8)) (n : Nat) : List (BitVec 8) :=
  let z := 135 - msg.length % 136
  let tail : List (BitVec 8) := if z = 0 then [BitVec.ofNat 8 (pad + 0x80)]
    else BitVec.ofNat 8 pad :: List.replicate (z - 1) 0#8 ++ [0x80#8]
  let bs := msg ++ tail
  (squeeze (n / 136 + 1) (absorb (bs.length / 136) (List.replicate 25 0) bs)).take n

/-- SHAKE256: a digest of n bytes. -/
def shake256 (msg : List (BitVec 8)) (n : Nat) : List (BitVec 8) := sponge 0x1F msg n

/-! ## KMAC256 -/

/-- The bytes of a number, most significant first, at least one. -/
def beNat (v : Nat) : List (BitVec 8) :=
  let n := (List.range 8).foldl (fun k i => if v / 2 ^ (8 * i) ≠ 0 then i + 1 else k) 1
  ((List.range n).map fun i => BitVec.ofNat 8 (v / 2 ^ (8 * i))).reverse

def leftEncode (v : Nat) : List (BitVec 8) := BitVec.ofNat 8 (beNat v).length :: beNat v
def rightEncode (v : Nat) : List (BitVec 8) := beNat v ++ [BitVec.ofNat 8 (beNat v).length]
def encodeString (s : List (BitVec 8)) : List (BitVec 8) := leftEncode (8 * s.length) ++ s

/-- bytepad to the rate of 136 bytes. -/
def bytepad (x : List (BitVec 8)) : List (BitVec 8) :=
  let y := leftEncode 136 ++ x
  y ++ List.replicate ((136 - y.length % 136) % 136) 0#8

/-- KMAC256 with 128 bits of output: key, message and customisation string. -/
def kmac256 (key msg custom : List (BitVec 8)) : List (BitVec 8) :=
  let name : List (BitVec 8) := [0x4B#8, 0x4D#8, 0x41#8, 0x43#8]
  let x := bytepad (encodeString key) ++ msg ++ rightEncode 128
  sponge 0x04 (bytepad (encodeString name ++ encodeString custom) ++ x) 16

/-! ## AES-256 -/

/-- Multiply in GF(2^8) by the AES polynomial. -/
def gf8 (a b : Nat) : Nat :=
  ((List.range 8).foldl (fun (r : Nat × Nat) i =>
    let p := if b / 2 ^ i % 2 = 1 then r.1 ^^^ r.2 else r.1
    (p, if 128 ≤ r.2 then (2 * r.2) ^^^ 0x11B else 2 * r.2)) (0, a)).1

/-- The inverse in GF(2^8), as a^254. -/
def gf8Inv (a : Nat) : Nat :=
  let p2 := gf8 a a
  let p4 := gf8 p2 p2
  let p8 := gf8 p4 p4
  let p16 := gf8 p8 p8
  let p32 := gf8 p16 p16
  let p64 := gf8 p32 p32
  let p128 := gf8 p64 p64
  gf8 p128 (gf8 p64 (gf8 p32 (gf8 p16 (gf8 p8 (gf8 p4 p2)))))

def rotl8 (x n : Nat) : Nat := (x * 2 ^ n + x / 2 ^ (8 - n)) % 256

def sbox (a : Nat) : Nat :=
  let b := gf8Inv a
  b ^^^ rotl8 b 1 ^^^ rotl8 b 2 ^^^ rotl8 b 3 ^^^ rotl8 b 4 ^^^ 0x63

def xorL (a b : List Nat) : List Nat := List.zipWith (· ^^^ ·) a b

/-- The 60 words of the key schedule, four bytes each. -/
def keyWords (key : List Nat) : List (List Nat) :=
  let first := (List.range 8).map fun i => (key.drop (4 * i)).take 4
  (List.range 52).foldl (fun (w : List (List Nat)) k =>
    let i := k + 8
    let t := w.getD (i - 1) []
    let t := if i % 8 = 0 then
        match (t.drop 1 ++ t.take 1).map sbox with
        | x :: r => (x ^^^ 2 ^ (i / 8 - 1)) :: r
        | [] => []
      else if i % 8 = 4 then t.map sbox else t
    w ++ [xorL (w.getD (i - 8) []) t]) first

def roundKey (w : List (List Nat)) (r : Nat) : List Nat := ((w.drop (4 * r)).take 4).flatten

/-- SubBytes and ShiftRows of 16 bytes in column order. -/
def subShift (st : List Nat) : List Nat :=
  (List.range 16).map fun i => sbox (st.getD ((i + 4 * (i % 4)) % 16) 0)

def mixColumn (c : List Nat) : List Nat :=
  (List.range 4).map fun i =>
    gf8 (c.getD i 0) 2 ^^^ gf8 (c.getD ((i + 1) % 4) 0) 3 ^^^ c.getD ((i + 2) % 4) 0 ^^^ c.getD ((i + 3) % 4) 0

def mixColumns (st : List Nat) : List Nat := (List.range 4).flatMap fun j => mixColumn ((st.drop (4 * j)).take 4)

/-- AES-256 of one block. -/
def aes256 (key block : List Nat) : List Nat :=
  let w := keyWords key
  let st := (List.range 13).foldl (fun st r => xorL (mixColumns (subShift st)) (roundKey w (r + 1)))
    (xorL block (roundKey w 0))
  xorL (subShift st) (roundKey w 14)

/-! ## GCM -/

def beVal (l : List Nat) : Nat := l.foldl (fun v b => 256 * v + b) 0
def beList (n v : Nat) : List Nat := ((List.range n).map fun i => v / 2 ^ (8 * i) % 256).reverse

/-- Multiply in the field of GHASH: bit 127 of a number is the first bit of a block. -/
def ghashMul (x y : Nat) : Nat :=
  ((List.range 128).foldl (fun (r : Nat × Nat) i =>
    let z := if x / 2 ^ (127 - i) % 2 = 1 then r.1 ^^^ r.2 else r.1
    (z, if r.2 % 2 = 1 then (r.2 / 2) ^^^ (0xE1 * 2 ^ 120) else r.2 / 2)) (0, y)).1

/-- Blocks of 16 bytes, the last padded with zeros. -/
def gcmBlocks (l : List Nat) : List Nat :=
  (List.range (cdiv l.length 16)).map fun i => beVal (((l.drop (16 * i)).take 16 ++ List.replicate 16 0).take 16)

def ghash (h : Nat) (blocks : List Nat) : Nat := blocks.foldl (fun y x => ghashMul (y ^^^ x) h) 0

/-- The keystream of a message of n bytes under a 96-bit IV. -/
def gcmStream (key iv : List Nat) (n : Nat) : List Nat :=
  ((List.range (cdiv n 16)).flatMap fun i => aes256 key (iv ++ beList 4 (i + 2))).take n

def gcmTag (key iv aad ct : List Nat) : List Nat :=
  let h := beVal (aes256 key (List.replicate 16 0))
  let s := ghash h (gcmBlocks aad ++ gcmBlocks ct ++ [8 * aad.length * 2 ^ 64 + 8 * ct.length])
  xorL (beList 16 s) (aes256 key (iv ++ beList 4 1))

/-- Encrypt, or decrypt, and the tag of a ciphertext, over byte strings. -/
def gcmCrypt (key iv msg : List (BitVec 8)) : List (BitVec 8) :=
  (xorL (msg.map (·.toNat)) (gcmStream (key.map (·.toNat)) (iv.map (·.toNat)) msg.length)).map (BitVec.ofNat 8)

def gcmTagOf (key iv aad ct : List (BitVec 8)) : List (BitVec 8) :=
  (gcmTag (key.map (·.toNat)) (iv.map (·.toNat)) (aad.map (·.toNat)) (ct.map (·.toNat))).map (BitVec.ofNat 8)

end Sys2Proof.Machine
end

