-- ==== Sys2Proof/Machine/Link.lean ====
section
/-! DEFINITION. The ports and links of the fabric: credits, retry and routes (R405 to R416, R425 to R433). -/

namespace Sys2Proof.Machine

def port (s : State) (p : Nat) : PortSt := kget (fun _ => {}) s.fab.ports p

def setPort (s : State) (p : Nat) (x : PortSt) : State :=
  { s with fab := { s.fab with ports := kset (fun _ => {}) s.fab.ports p x } }

def mapPort (s : State) (p : Nat) (f : PortSt → PortSt) : State := setPort s p (f (port s p))

/-- FAB_PSTAT.STATE codes (R457). -/
def psDown : Nat := 0
def psTrain : Nat := 1
def psAdmit : Nat := 2
def psUp : Nat := 3
def psRefused : Nat := 4

def portState (s : State) (p : Nat) : Nat := fld s (Reg.FAB_PSTAT p) Fld.FAB_PSTAT_STATE
def setPortState (s : State) (p v : Nat) : State := setFld s (Reg.FAB_PSTAT p) Fld.FAB_PSTAT_STATE v
def portUp (s : State) (p : Nat) : Bool := p < 24 && portState s p = psUp
def portHalf (s : State) (p : Nat) : Bool := fld s (Reg.FAB_PSTAT p) Fld.FAB_PSTAT_HALF = 1
def isOptical (p : Nat) : Bool := p < 16

/-- Packet opcodes (R426). -/
def opWrite : Nat := 1
def opReadreq : Nat := 2
def opReadrsp : Nat := 3
def opAtomic : Nat := 4
def opAtomrsp : Nat := 5
def opReduce : Nat := 6
def opTree : Nat := 7
def opAck : Nat := 8
def opRefuse : Nat := 9
def opFlag : Nat := 10
def opAdmit : Nat := 11
def opLinkctl : Nat := 12
def opMgmt : Nat := 13

/-- Virtual lanes (R48). -/
def vlBest : Nat := 0
def vlSched : Nat := 1
def vlReduce : Nat := 2
def vlCtrl : Nat := 3

/-- The lanes an opcode may travel on (R426). -/
def laneOk (op vl : Nat) : Bool :=
  match op with
  | 1 | 4 => vl = vlSched || vl = vlBest
  | 2 | 3 | 5 => vl = vlBest
  | 6 => vl = vlReduce || vl = vlBest
  | 7 => vl = vlReduce
  | 8 | 9 | 10 | 11 | 12 | 13 => vl = vlCtrl
  | _ => false

/-- 32-byte units of a packet (R410). -/
def pktUnits (k : Packet) : Nat := 2 + cdiv k.payload.length 32

def noTrailer : Trailer :=
  { tag := [], lseq := 0, lack := 0, crvl := 0, credits := 0, rsv := 0, stomp := false, nak := false, crc := 0, fec := 0 }

/-- The port that a destination routes to: 30 is this device, none when no valid entry routes (R429). -/
def routeOf (s : State) (dst : Nat) : Option Nat :=
  let g := dst / 256 ≠ deviceId s / 256
  let a := if g then Reg.FAB_GROUTE (dst / 256 % 1024) else Reg.FAB_MROUTE (dst % 256)
  if fld s a Fld.FAB_GROUTE_VALID = 1 then some (fld s a Fld.FAB_GROUTE_PORT) else none

/-- A packet this device makes (R425, R430); the frame, the HCRC and the trailer come when it leaves. -/
def mkPacket (s : State) (dst vl op : Nat) : Packet :=
  { dst := dst, vl := vl, op := op, last := false, enc := false, kph := false, src := deviceId s, ttl := 63, dtype := 0
    rop := 0, pkey := fld s Reg.FAB_PKEY Fld.FAB_PKEY_PKEY, frame := frameNo s % 65536, cartid := 0, len := 0, cseq := 0
    addr := 0, aux := 0, rsv := 0, hcrc := 0, payload := [], trailer := noTrailer }

/-- Queue a packet on a port: Control packets ahead of best-effort ones (R437). -/
def enqueue (s : State) (p : Nat) (k : Packet) : State :=
  mapPort s p fun x => if k.vl = vlCtrl then { x with ctrl := x.ctrl ++ [k] } else { x with best := x.best ++ [k] }

/-- The REFUSE that answers a dropped packet (R428 to R430). -/
def refusalOf (s : State) (k : Packet) (code : Nat) : Packet :=
  { mkPacket s k.src vlCtrl opRefuse with
    cartid := k.cartid, cseq := k.cseq, aux := if k.op = opTree then putBits code 23 18 (bitsN k.aux 23 18) else code }

/-- Send a packet by its route; one without a route is dropped and counted, and a data packet is answered to its
source. `near` is the source of an answer that itself needs no answer (R429). -/
def routeOut (s : State) (k : Packet) : State :=
  match routeOf s k.dst with
  | some p => if p < 24 then enqueue s p k else s
  | none => bump s Reg.FAB_NOROUTE 1

/-- Data opcodes, which a drop answers with REFUSE (R429). -/
def answers (op : Nat) : Bool := op = opWrite || op = opReadreq || op = opAtomic || op = opReduce || op = opTree

/-- Answer a packet with a REFUSE code. -/
def refuse (s : State) (k : Packet) (code : Nat) : State := routeOut s (refusalOf s k code)

/-! ## Packets on the wire (R410, R421, R422, R425) -/

/-- Header bytes 0 to 27 (R425). -/
def headerBytes (k : Packet) : List Byte :=
  leBytes 4 (k.dst * 2 ^ 14 + k.vl * 2 ^ 12 + k.op * 2 ^ 6 + (if k.last then 32 else 0) + (if k.enc then 16 else 0)
      + (if k.kph then 8 else 0) + k.rsv % 8)
    ++ leBytes 4 (k.src * 2 ^ 14 + k.ttl * 2 ^ 8 + k.dtype * 16 + k.rop) ++ leBytes 2 k.pkey ++ leBytes 2 k.frame
    ++ leBytes 2 k.cartid ++ leBytes 2 (k.len + k.rsv / 8 * 2 ^ 10) ++ leBytes 4 k.cseq ++ leBytes 5 k.addr
    ++ leBytes 3 k.aux

def hcrcOf (k : Packet) : Nat := crc32c (headerBytes k)

/-- The 32 bytes of the header. -/
def header32 (k : Packet) : List Byte := headerBytes k ++ leBytes 4 k.hcrc

/-- The payload with its padding (R410). -/
def padded (k : Packet) : List Byte := k.payload ++ List.replicate ((32 - k.payload.length % 32) % 32) 0#8

/-- Trailer bytes 16 to 27. -/
def trailerBytes (t : Trailer) : List Byte :=
  leBytes 4 t.lseq ++ leBytes 4 t.lack
    ++ leBytes 4 (t.crvl * 2 ^ 30 + t.credits * 2 ^ 16 + t.rsv * 4 + (if t.stomp then 2 else 0) + (if t.nak then 1 else 0))

/-- The CRC of a packet and of a bare trailer. -/
def crcOf (k : Packet) : Nat := crc32c (header32 k ++ padded k ++ trailerBytes k.trailer)
def bareCrc (t : Trailer) : Nat := crc32c (trailerBytes t)

def bareLseq : Nat := 0xFFFFFFFF

def kCtl (keys : List Byte) : List Byte := keys.take 32

/-- The tag of a Control packet under session keys (R421). -/
def ctlTag (keys : List Byte) (k : Packet) : List Byte :=
  kmac256 (kCtl keys) (header32 k ++ padded k ++ leBytes 4 k.trailer.lseq) (ascii "YOCIA CTL")

/-- The key of the data that one device sends to another (R420, R422). -/
def dataKey (keys : List Byte) (sender receiver : Nat) : List Byte :=
  if sender < receiver then bytesAt keys 32 32 else bytesAt keys 64 32

/-- The IV of R422: 32 zero bits, then the count in the byte order of R12. -/
def dataIv (n : Nat) : List Byte := leBytes 4 0 ++ leBytes 8 n

/-- The device at the other end of a link. -/
def peerOf (s : State) (p : Nat) : Nat := fld s (Reg.FAB_PEER p) Fld.FAB_PEER_DEVICE

/-- The payload travels encrypted on this link (R422). -/
def linkEnc (s : State) (k : Packet) : Bool := fld s Reg.FAB_CTRL Fld.FAB_CTRL_ENC = 1 && k.vl ≠ vlCtrl && !k.payload.isEmpty

/-- Credit for all of a packet's units on its lane (R411), and room in the replay buffer (R412). -/
def mayStart (s : State) (p : Nat) (k : Packet) : Bool :=
  let x := port s p
  pktUnits k ≤ (x.credit[k.vl]?).getD 0 && 32 * ((x.replay.map pktUnits).sum + pktUnits k) ≤ 262144

/-- The credits to return in a trailer: those of the lowest lane that owes any. -/
def creditsDue (x : PortSt) : Nat × Nat :=
  match (List.range 4).find? fun v => (x.owed[v]?).getD 0 ≠ 0 with
  | some v => (v, min ((x.owed[v]?).getD 0) 16383)
  | none => (0, 0)

/-- The link fields of the next packet or bare trailer of a port (R410). -/
def trailerOf (x : PortSt) (lseq : Nat) (stomp : Bool) : Trailer :=
  let c := creditsDue x
  { noTrailer with
    tag := List.replicate 16 0#8, lseq := lseq, lack := x.rxNext, crvl := c.1, credits := c.2, stomp := stomp, nak := x.nakDue }

/-- What sending a trailer uses up. -/
def trailerSent (x : PortSt) : PortSt :=
  let c := creditsDue x
  { x with nakDue := false, owed := x.owed.set c.1 ((x.owed[c.1]?).getD 0 - c.2) }

/-- A packet whose fields are set, with its HCRC, the tag of the Control lane and its CRC; no tag without keys. -/
def sealPkt (keys : Option (List Byte)) (k : Packet) : Packet :=
  let k := { k with hcrc := hcrcOf k }
  let k := match keys with
    | some keys => if k.vl = vlCtrl then { k with trailer := { k.trailer with tag := ctlTag keys k } } else k
    | none => k
  { k with trailer := { k.trailer with crc := crcOf k } }

/-- Encrypt the payload of a packet: the ciphertext, and the tag over it and the header (R422). -/
def encrypt (key : List Byte) (n : Nat) (k : Packet) : Packet :=
  let k := { k with hcrc := hcrcOf k }
  let k := { k with payload := gcmCrypt key (dataIv n) k.payload }
  { k with trailer := { k.trailer with tag := gcmTagOf key (dataIv n) (header32 k) k.payload } }

/-- A packet as it leaves: FRAME is the source's (R425), Reserved bits are zero, and the payload and the tags are those of
the link. -/
def onWire (s : State) (p : Nat) (k : Packet) (stomp : Bool) : Packet :=
  let x := port s p
  let enc := linkEnc s k
  let k := { k with
    frame := if k.src = deviceId s then frameNo s % 65536 else k.frame
    rsv := 0, enc := enc, kph := enc && x.adm.phase, trailer := trailerOf x x.txNext stomp }
  sealPkt (some x.adm.keys) (if enc then encrypt (dataKey x.adm.keys (deviceId s) (peerOf s p)) x.adm.iv k else k)

/-- Send a packet for the first time: it takes the next LSEQ, its credits and a place in the replay buffer. -/
def transmit (s : State) (p : Nat) (k : Packet) (stomp : Bool) : State :=
  let x := port s p
  let k := onWire s p k stomp
  let y := trailerSent x
  let y := { y with txNext := (x.txNext + 1) % 2 ^ 32, replay := y.replay ++ [k]
                    credit := y.credit.set k.vl ((y.credit[k.vl]?).getD 0 - pktUnits k)
                    adm := if k.enc then { y.adm with iv := y.adm.iv + 1 } else y.adm }
  { setPort s p y with wire := s.wire ++ [.packet p k] }

/-- Send a replay: the stored packet with fresh link fields; a Control packet's tag is computed afresh (R412, R422). -/
def resend (s : State) (p : Nat) (k : Packet) : State :=
  let x := port s p
  let t := trailerOf x k.trailer.lseq k.trailer.stomp
  let k := sealPkt (some x.adm.keys) { k with trailer := { t with tag := k.trailer.tag } }
  { setPort s p (trailerSent x) with wire := s.wire ++ [.packet p k] }

/-- Send a bare trailer (R410). -/
def sendBare (s : State) (p : Nat) : State :=
  let x := port s p
  let t := trailerOf x bareLseq false
  { setPort s p (trailerSent x) with wire := s.wire ++ [.trailer p { t with crc := bareCrc t }] }

/-- Send an ADMIT or LINKCTL packet on a link that is not up: outside the LSEQ order and the credits (R417). -/
def sendOutside (keys : Option (List Byte)) (s : State) (p : Nat) (k : Packet) : State :=
  let k := { k with frame := frameNo s % 65536, trailer := trailerOf {} bareLseq false }
  { s with wire := s.wire ++ [.packet p (sealPkt keys k)] }

/-- The tick runs (R42). -/
def ticking (s : State) : Bool := fld s Reg.FRM_STATUS Fld.FRM_STATUS_TICKING = 1

/-- A packet of a link-local message: in the slots of a link that is up, and of a running frame; at once when no frame runs
(R47, R417). -/
def sendLocal (tagged : Bool) (s : State) (p : Nat) (k : Packet) : State :=
  if portUp s p then enqueue s p k
  else if ticking s then mapPort s p fun x => { x with adm := { x.adm with out := x.adm.out ++ [(tagged, k)] } }
  else sendOutside (if tagged then some (port s p).adm.next else none) s p k

/-- The packets of a message to the partner of a port: 512 bytes each, LAST on the final one (R418). -/
def msgPackets (s : State) (p op : Nat) (msg : List Byte) : List Packet :=
  let n := max 1 (cdiv msg.length 512)
  (List.range n).map fun i =>
    let bs := (msg.drop (512 * i)).take 512
    { mkPacket s (fld s (Reg.FAB_EXPECT p) Fld.FAB_EXPECT_DEVICE) vlCtrl op with
      last := decide (i + 1 = n), len := bs.length, payload := bs }

/-- The payload of a LINKCTL packet; a time transfer has the layout of R478. -/
def linkctlPayload : LinkCtl → List Byte
  | .time t1 t2 t3 => 0x20#8 :: List.replicate 7 0#8 ++ leBytes 8 t1 ++ leBytes 8 t2 ++ leBytes 8 t3
  | c => (Config.linkctlBytes c).take 512

/-- A time transfer, which runs in Control slots (R478). -/
def isTime (k : Packet) : Bool := k.op = opLinkctl && k.len = 32 && leAt k.payload 0 1 = 0x20

def sendLinkctl (s : State) (p : Nat) (c : LinkCtl) : State :=
  (msgPackets s p opLinkctl (linkctlPayload c)).foldl (fun s k => sendLocal false s p k) s

/-- A link goes down (R415, R416). -/
def linkDown (s : State) (p : Nat) : State :=
  raise (setPortState s p psDown) Reg.FAB_INTSTAT Fld.FAB_INTSTAT_LINKDOWN.bit

/-- A port that lost lock retrains and is admitted again; its LSEQ state and replay buffer stay (R416). -/
def retrain (s : State) (p : Nat) : State :=
  let s := raise s Reg.FAB_INTSTAT Fld.FAB_INTSTAT_LINKDOWN.bit
  setPortState (mapPort s p fun x => { x with adm := { x.adm with step := 0, peer := none, asm := [], out := [] } }) p psTrain

/-- Distance in LSEQ order from `a` to `b`, modulo 2^32. -/
def seqDist (a b : Nat) : Nat := (b + 2 ^ 32 - a) % 2 ^ 32

/-- Keys of the previous phase that nothing sent or to come needs are dropped (R422): the partner has acknowledged what
went out under them, and `rx` says that a payload of the new phase has come. -/
def dropOldKeys (x : PortSt) (rx : Bool) : PortSt :=
  if rx && !(x.replay.any fun k => k.enc && k.kph ≠ x.adm.phase) then { x with adm := { x.adm with oldKeys := [], oldIv := 0 } }
  else x

/-- Take the LACK, the credits and the NAK of a trailer (R410 to R413); after a re-admission everything it leaves
unacknowledged is sent again (R416). -/
def takeTrailer (s : State) (p : Nat) (t : Trailer) : State :=
  let x := port s p
  let keep := x.replay.filter fun k => seqDist k.trailer.lseq t.lack = 0 || 2 ^ 31 ≤ seqDist k.trailer.lseq t.lack
  let again := x.again.filter fun k => keep.any fun y => y.trailer.lseq = k.trailer.lseq
  let x := { x with
    replay := keep, again := if x.resume then keep else again, resume := false
    credit := x.credit.set t.crvl ((x.credit[t.crvl]?).getD 0 + t.credits) }
  if t.nak then
    let n : Nat := if x.nakSeq = t.lack then x.naks + 1 else 1
    setPort s p { x with nakSeq := t.lack, naks := n, again := keep }
  else setPort s p x

/-- Discard a packet and every one after it until the expected LSEQ arrives; NAK once for the gap (R412). -/
def discard (s : State) (p : Nat) : State :=
  mapPort s p fun x => if x.gap then x else { x with gap := true, nakDue := true }

/-- A packet has left the receiver's buffer: its units go back as credit (R411). -/
def creditBack (s : State) (p : Nat) (k : Packet) : State :=
  mapPort s p fun x => { x with owed := x.owed.set k.vl ((x.owed[k.vl]?).getD 0 + pktUnits k) }

/-- A packet from a refused partner (R423). -/
def linkStranger (s : State) (p : Nat) : State :=
  raise (bump s (Reg.FAB_STRANGER p) 1) Reg.FAB_INTSTAT Fld.FAB_INTSTAT_STRANGER.bit

/-- What a link finds wrong in a packet as it stands: its HCRC or CRC, or the tag of a Control packet (R412, R421). -/
def linkFault (s : State) (p : Nat) (k : Packet) : Option LinkFault :=
  if k.hcrc ≠ hcrcOf k then some .badHcrc
  else if k.trailer.crc ≠ crcOf k then some .badCrc
  else if k.vl = vlCtrl && k.trailer.tag ≠ ctlTag (port s p).adm.keys k then some .badTag
  else none

/-- Count a fault of a packet that a port receives (R414, R421, R456). -/
def countFault (s : State) (p : Nat) : LinkFault → State
  | .badHcrc | .badCrc => bump s (Reg.FAB_CRCERR p) 1
  | .badTag => bump s (Reg.FAB_TAGERR p) 1
  | .uncorrectable lane =>
    bump (mapPort s p fun x => { x with badRound := kset (fun _ => 0) x.badRound lane (kget (fun _ => 0) x.badRound lane + 1) })
      (Reg.FAB_FECUNC p) 1
  | .wrongLseq => s

/-- Corrected codewords are counted (R456). -/
def countFec (s : State) (p : Nat) (t : Trailer) : State := if t.fec = 0 then s else bump s (Reg.FAB_FECCORR p) t.fec

/-- Decrypt the payload of a packet with the keys of its phase; none when the tag fails (R422). -/
def decrypt (s : State) (p : Nat) (k : Packet) : Option (List Byte) :=
  let a := (port s p).adm
  let now := k.kph = a.phase
  let key := dataKey (if now then a.keys else a.oldKeys) (peerOf s p) (deviceId s)
  let iv := dataIv (if now then a.rxIv else a.oldIv)
  if k.trailer.tag = gcmTagOf key iv (header32 k) k.payload then some (gcmCrypt key iv k.payload) else none

/-- A payload of the partner's has been counted under its phase (R422). -/
def countIv (k : Packet) (x : PortSt) : PortSt :=
  if !k.enc then x
  else if k.kph = x.adm.phase then dropOldKeys { x with adm := { x.adm with rxIv := x.adm.rxIv + 1 } } true
  else { x with adm := { x.adm with oldIv := x.adm.oldIv + 1 } }

/-- The frame number that the low bits of a packet's key stand for: the nearest to the receiver's own, the lower of two as
near (R66). -/
def frameOf (s : State) (k : Packet) : Nat :=
  let own := frameNo s
  let up := own + (k.frame + 2 ^ 16 - own % 2 ^ 16) % 2 ^ 16
  if 2 ^ 16 ≤ up && (own + 2 ^ 15 ≤ up || 2 ^ 48 ≤ up) then up - 2 ^ 16 else up

/-- The link takes a packet in its LSEQ order: what became of it, and the packet with its payload in clear when it is to be
acted on (R410 to R412, R422 to R426, R431). -/
def inOrder (s : State) (p : Nat) (k : Packet) : State × Option Packet :=
  let bad := (discard (bump s (Reg.FAB_TAGERR p) 1) p, none)
  let take (s : State) : State :=
    mapPort s p fun x => countIv k { x with rxNext := (x.rxNext + 1) % 2 ^ 32, gap := false, rxFrame := frameOf s k }
  if k.trailer.stomp then (creditBack (take s) p k, none)
  else
    match (if k.enc then decrypt s p k else some k.payload) with
    | none => bad
    | some bs =>
      let s := take s
      if k.pkey ≠ fld s Reg.FAB_PKEY Fld.FAB_PKEY_PKEY then (creditBack (bump s Reg.FAB_BADKEY 1) p k, none)
      else if !laneOk k.op k.vl then (creditBack (bump s Reg.FAB_BADOP 1) p k, none)
      else (s, some { k with payload := bs, enc := false, kph := false })

/-- A packet arrives on a port: none when the link discards it; else its trailer is taken and its LSEQ counts as received
(R410 to R412, R423, R431). -/
def arrive (s : State) (p : Nat) (k : Packet) : State × Option Packet :=
  if p ≥ 24 then (s, none)
  else if portState s p = psRefused then (linkStranger s p, none)
  else if !portUp s p then (s, none)
  else
    let s := countFec s p k.trailer
    match linkFault s p k with
    | some f => (discard (countFault s p f) p, none)
    | none =>
      let s := takeTrailer s p k.trailer
      if k.trailer.lseq ≠ (port s p).rxNext then (discard s p, none) else inOrder s p k

/-- A packet of one opcode for the device at this end of its link, which the link takes or discards (R410 to R413). -/
def recvHop (op p : Nat) (k : Packet) (act : Packet → State → State) (s : State) : State :=
  if k.op ≠ op then s
  else
    match arrive s p k with
    | (s, some k) => act k (creditBack s p k)
    | (s, none) => s

/-- An ADMIT or LINKCTL packet. On a link that is not up it comes outside the LSEQ order (R417); its PKEY is for the
admission to judge (R423). -/
def recvLocal (op p : Nat) (k : Packet) (act : Packet → State → State) (s : State) : State :=
  if k.op ≠ op || 24 ≤ p then s
  else if portUp s p then recvHop op p k act s
  else if portState s p ≠ psAdmit && portState s p ≠ psRefused then s
  else
    let s := countFec s p k.trailer
    if k.hcrc ≠ hcrcOf k || k.trailer.crc ≠ crcOf k then bump s (Reg.FAB_CRCERR p) 1
    else if !laneOk k.op k.vl then bump s Reg.FAB_BADOP 1
    else act k s

end Sys2Proof.Machine
end

