-- ==== Sys2Proof/Machine/Control.lean ====
section
/-! DEFINITION. The control and status space as a reader sees it (R15, R455, R601 to R603, R620): the fabric page, which
registers answer, and register reads. -/

namespace Sys2Proof.Machine

/-! ## The fabric page (R455) -/

def fabPage : Nat := 0xF0FF000000

def isMailbox (a n : Nat) : Bool := fabPage + 0x1000 ≤ a && a + n ≤ fabPage + 0x2000

/-- ASCII "IX4-2250-L". -/
def orderingCode : List Byte :=
  [0x49#8, 0x58#8, 0x34#8, 0x2D#8, 0x32#8, 0x32#8, 0x35#8, 0x30#8, 0x2D#8, 0x4C#8]

/-- A word of the fabric page outside the mailbox. -/
def pageWord (s : State) (o : Nat) : Nat :=
  if o = 0 then regN s Reg.FAB_ID
  else if o = 4 then regN s Reg.FAB_PKEY
  else if o = 8 then fld s Reg.FWM_VERSION Fld.FWM_VERSION_MAJOR
  else if 0x10 ≤ o && o < 0x20 then leAt (orderingCode ++ List.replicate 6 0#8) (o - 0x10) 4
  else if 0x100 ≤ o && o < 0x108 then regN s (Reg.FRM_COUNT_LO + (o - 0x100))
  else if 0x108 ≤ o && o < 0x110 then regN s (Reg.FRM_PINDEX_LO + (o - 0x108))
  else if 0x110 ≤ o && o < 0x118 then regN s (Reg.MIL_EPOCH_LO + (o - 0x110))
  else if o = 0x118 then regN s Reg.FRM_STATUS
  else if 0x200 ≤ o && o < 0x500 then
    let p := (o - 0x200) / 32
    match (o - 0x200) % 32 with
    | 0 => regN s (Reg.FAB_PSTAT p)
    | 4 => regN s (Reg.FAB_PEER p)
    | 8 => regN s (Reg.FAB_LANES p)
    | _ => 0
  else 0

def pageByte (s : State) (a : Nat) : Byte :=
  if isMailbox a 1 then kget (fun _ => 0#8) s.mem a
  else
    let o := a - fabPage
    BitVec.ofNat 8 (pageWord s (o - o % 4) / 2 ^ (8 * (o % 4)))

/-- The words of the page that READREQ reaches: its three first areas, which adjoin, and the mailbox. -/
def pageReadable (a n : Nat) : Bool :=
  let within (lo hi : Nat) : Bool := fabPage + lo ≤ a && a + n ≤ fabPage + hi
  within 0 0x500 || within 0x1000 0x2000

/-! ## Which registers answer (R603) -/

/-- The blocks that respond in Dormant. -/
def dormantBlocks : List Nat := [0x00, 0x0A, 0x0B, 0x0C, 0x0D, 0x0F]

/-- The block of a control offset has no power or no clock: Dormant, or a stopped domain in Fallow. -/
def deadBlock (s : State) (a : Nat) : Bool :=
  let n := a / 2 ^ 24
  if rstState s = stDormant then !dormantBlocks.contains n else rstState s = stFallow && 0x02 ≤ n && n ≤ 0x08

def deadReg (s : State) : State := raise s Reg.HST_INTSTAT Fld.HST_INTSTAT_DEADREG.bit

/-- An access of a wrong size, alignment or offset (R602). -/
def badAccess (s : State) : State := raise s Reg.HST_INTSTAT Fld.HST_INTSTAT_BADACCESS.bit

/-! ## Reads (R15, R620) -/

/-- Vectors with a status bit set and enabled. -/
def irqPending (s : State) (v : Nat) : Bool :=
  irqRows.any fun x => x.2.2.2.2 = v && (List.range x.2.2.1).any fun i =>
    irqLevel s (x.1 + i * x.2.2.2.1) (x.2.1 + i * x.2.2.2.1) ≠ 0

/-- Physical bough b has an enabled event set. -/
def boughPending (s : State) (b : Nat) : Bool :=
  b < 68 && (irqLevel s (Reg.BGH_INTSTAT b) (Reg.BGH_INTEN b) ≠ 0 || irqLevel s (Reg.BGH_MAINTSTAT b) (Reg.BGH_MAINTEN b) ≠ 0
    || irqLevel s (Reg.THR_INTSTAT b) (Reg.THR_INTEN b) ≠ 0)

/-- The bits of a word. -/
def wordOf (n : Nat) (p : Nat → Bool) : Nat := (List.range n).foldl (fun w i => if p i then w + 2 ^ i else w) 0

/-- What a register shows now. -/
def shown (s : State) (a : Nat) : Nat :=
  if a = Reg.HST_IRQPEND then wordOf 14 fun v => v ≠ 0 && irqPending s v
  else if inRun a (Reg.HST_BGHPEND 0) 3 4 then wordOf 32 fun i => boughPending s (8 * (a - Reg.HST_BGHPEND 0) + i)
  else regN s a

/-- Rows whose register is a _LO. -/
def loRows : List Nat := [
  0x8, 0x18, 0x1000008, 0x1000010, 0x1000018, 0x2000008, 0x2000010, 0x2000020, 0x2000100, 0x2000500, 0x2046000,
  0x3000008, 0x3000010, 0x4000000, 0x4000008, 0x5000028, 0x5008000, 0x5009000, 0x5009010, 0x7000008, 0x7000014,
  0x7000020, 0x7000028, 0x7000040, 0x8000000, 0x9000010, 0x9004010, 0xb000028, 0xd000044, 0xf000020, 0xf000028]

def isLo (a : Nat) : Bool := (regRow a).any fun r => loRows.contains r.base

def isHi (a : Nat) : Bool := 4 ≤ a && isLo (a - 4)

/-- Read a register that answers: a _LO latches its _HI, and a latched _HI is used up (R15). -/
def readReg (s : State) (a : Nat) : State × Nat :=
  if isLo a then ({ s with latch := aput s.latch (a + 4) (BitVec.ofNat 32 (shown s (a + 4))) }, shown s a)
  else
    match kfind s.latch a with
    | some v => ({ s with latch := adel s.latch a }, v.toNat)
    | none => (s, shown s a)

/-- An access to registers: 4 bytes, or 8 bytes over a _LO and _HI pair. -/
def regSizeOk (a size : Nat) : Bool := a % 4 = 0 && (size = 4 || (size = 8 && isLo a))

/-- The fabric page as the host reads it (R455, R601). -/
def inPage (a : Nat) : Bool := 0xFF000000 ≤ a && a < 0xFF010000

/-- A word of the fabric page; none in a reserved area. -/
def pageRead (s : State) (a : Nat) : Option Nat :=
  let g := ctlBase + a
  if pageReadable g 4 then some (leNat ((List.range 4).map fun i => pageByte s (g + i))) else none

def ctlRead (s : State) (a size : Nat) : State × Nat :=
  if inPage a then
    match (if a % 4 = 0 && size = 4 then pageRead s a else none) with
    | some v => if deadBlock s a then (deadReg s, 0) else (s, v)
    | none => (badAccess s, 0)
  else if (regRow a).isNone || !regSizeOk a size then (badAccess s, 0)
  else if deadBlock s a then (deadReg s, 0)
  else
    let r := readReg s a
    if size = 8 then
      let h := readReg r.1 (a + 4)
      (h.1, r.2 + 2 ^ 32 * h.2)
    else r

/-- The register words of a range of the control space, as a cart reads them: each whole aligned word is one access, and
what is left at an end is an access that R602 does not accept. -/
def ctlWords (s : State) : Nat → Nat → Nat → State × List Byte
  | 0, _, _ => (s, [])
  | fuel + 1, a, n =>
    if n = 0 then (s, [])
    else if a % 4 = 0 && 4 ≤ n then
      let (s, v) := ctlRead s (a - ctlBase) 4
      let (s, t) := ctlWords s fuel (a + 4) (n - 4)
      (s, leBytes 4 v ++ t)
    else
      let k := min n (4 - a % 4)
      let (s, t) := ctlWords (badAccess s) fuel (a + k) (n - k)
      (s, List.replicate k 0#8 ++ t)

/-- The bytes of a local range, of memory or of the control space. -/
def readBytes (s : State) (a n : Nat) : State × Except Bad (List Byte) :=
  if isCtl a then
    let (s, bs) := ctlWords s (n + 1) a n
    (s, .ok bs)
  else load s a n

end Sys2Proof.Machine
end

