-- ==== Sys2Proof/Machine/Elements.lean ====
section
/-! DEFINITION. The element operations of carts, reductions and trees (R105, R106, R244, R280, R309, R444). -/

namespace Sys2Proof.Machine

/-- The order of R244 on numbers that are not NaN: −0 lies below +0. -/
def numBelow (a b : Num) : Bool :=
  numLt a b || (numIsZero a && numIsZero b && numIsNeg a && !numIsNeg b)

/-- Pick the lesser or greater of two values under R244, the first of equals; `none` when both are NaN. -/
def pickNum (isMax : Bool) (a b : Num) : Option Bool :=
  if numIsNan a && numIsNan b then none
  else if numIsNan a then some false
  else if numIsNan b then some true
  else some (if isMax then !numBelow a b else !numBelow b a)

/-- The number that ranks a pair: its exact value, a zero taking the sign of hi (R280). -/
def pairRank (x : Nat × Nat) : Num :=
  let v := pairNum x
  if numIsZero v then numZero (numIsNeg (f32 x.1)) else v

def pairOf (w : Nat) : Nat × Nat := (w % 2 ^ 32, w / 2 ^ 32)
def pairBits (x : Nat × Nat) : Nat := x.1 + 2 ^ 32 * x.2

/-- What MIN or MAX of two NaN gives: the result of an empty selection (R244). -/
def emptyPick (isMax : Bool) : Nat := if isMax then 0xFF800000 else 0x7F800000

/-- A floating MIN or MAX of two encodings of a format. -/
def selectFloat (f : Fmt) (isMax : Bool) (a b : Nat) : Nat :=
  match pickNum isMax (numDecode f a) (numDecode f b) with
  | none => (numEncode f true .rne 0 (f32 (emptyPick isMax))).1
  | some first => if first then a else b

/-- A PAIR MIN or MAX: the selected value, normalised (R88, R280), with the overflow of R90 that this may meet. -/
def selectPair (strict isMax : Bool) (a b : Nat) : Nat × Ev :=
  match pickNum isMax (pairRank (pairOf a)) (pairRank (pairOf b)) with
  | none => (emptyPick isMax, {})
  | some first =>
    let r := pairOfNum strict (pairRank (pairOf (if first then a else b)))
    (pairBits r.1, r.2)

/-- An integer operation of `n` bits: ADD wraps; MIN and MAX are signed. -/
def intOp (n rop a b : Nat) : Nat :=
  match rop with
  | 0 => (a + b) % 2 ^ n
  | 1 => if sextN n b < sextN n a then b else a
  | _ => if sextN n a < sextN n b then b else a

/-- One element operation: DTYPE, ROP, the value held and the operand, as encodings (R280). -/
def elemOp (strict : Bool) (dtype rop old x : Nat) : Nat × Ev :=
  match dtype with
  | 0 => (intOp 32 rop old x, {})
  | 1 => (intOp 64 rop old x, {})
  | 2 => if rop = 0 then fAdd strict old x else (selectFloat .fp32 (rop = 2) old x, {})
  | 3 =>
    if rop = 0 then numEncode .bf16 strict .rne 0 (numAdd (numDecode .bf16 old) (numDecode .bf16 x))
    else (selectFloat .bf16 (rop = 2) old x, {})
  | _ =>
    if rop = 0 then
      let r := pairAdd strict (pairOf old) (pairOf x)
      (pairBits r.1, r.2)
    else selectPair strict (rop = 2) old x

/-- Apply an operation element by element to `n` elements of `w` bytes (R280). -/
def elemOps (strict : Bool) (dtype rop w : Nat) (old xs : List Byte) : Nat → List Byte × Ev
  | 0 => ([], {})
  | n + 1 =>
    let r := elemOp strict dtype rop (leAt old 0 w) (leAt xs 0 w)
    let t := elemOps strict dtype rop w (old.drop w) (xs.drop w) n
    (leBytes w r.1 ++ t.1, evAdd r.2 t.2)

/-- CAS: operands are pairs of a compare value and a new value (R280). -/
def casOps (w : Nat) (old xs : List Byte) : Nat → List Byte
  | 0 => []
  | n + 1 =>
    (if old.take w = xs.take w then (xs.drop w).take w else old.take w) ++ casOps w (old.drop w) (xs.drop (2 * w)) n

/-- An ATOMIC segment on the bytes at its destination (R280, R283). -/
def atomicOps (strict : Bool) (dtype rop w : Nat) (old xs : List Byte) : List Byte × Ev :=
  if rop = 3 then (casOps w old xs (xs.length / (2 * w)), {}) else elemOps strict dtype rop w old xs (xs.length / w)

end Sys2Proof.Machine
end

