-- ==== Sys2Proof/Machine/Loft.lean ====
section
/-! DEFINITION. The Loft as a cache (R294 to R306, R312 to R317) and the place of objects in it (R260 to R277). -/

namespace Sys2Proof.Machine

def mapLoft (s : State) (f : LoftSt → LoftSt) : State := { s with loft := f s.loft }

/-! ## Objects: records and lookups (R260, R261) -/

structure ObjRec where
  base : Nat
  len : Nat
  owner : Nat
  cls : Nat
  mstate : Nat
  pinned : Bool
  stream : Bool
  age : Nat
  deriving DecidableEq, Repr

def objOf (bs : List Byte) : ObjRec :=
  { base := leAt bs 0 8, len := leAt bs 8 8, owner := leAt bs 16 1, cls := leAt bs 17 1 / 16
    mstate := leAt bs 18 1 / 64, pinned := bitN (leAt bs 18 1) 5, stream := bitN (leAt bs 18 1) 4, age := leAt bs 20 4 }

def objAt (s : State) (j : Nat) : ObjRec := objOf (peek s (objRec s j) 64)

def isReg (s : State) (j : Nat) : Bool := s.loft.objs.contains j

/-- Lines of an object: the first line address and how many (R261). -/
def ObjRec.line0 (o : ObjRec) : Nat := o.base / 4096
def ObjRec.lines (o : ObjRec) : Nat := cdiv o.len 4096

def ObjRec.has (o : ObjRec) (l : Nat) : Bool := o.line0 ≤ l && l < o.line0 + o.lines

/-- The object that a line belongs to. -/
def objOfLine (s : State) (l : Nat) : Option Nat := s.loft.objs.find? fun j => (objAt s j).has l

/-- Write a number into an object record. -/
def setObj (s : State) (j off n v : Nat) : State := poke s (objRec s j + off) (leBytes n v)

def setMstate (s : State) (j v : Nat) : State :=
  setObj s j 18 1 (putBits (peekN s (objRec s j + 18) 1) 7 6 v)

def setPinned (s : State) (j v : Nat) : State :=
  setObj s j 18 1 (putBits (peekN s (objRec s j + 18) 1) 5 5 v)

def setStream (s : State) (j v : Nat) : State :=
  setObj s j 18 1 (putBits (peekN s (objRec s j + 18) 1) 4 4 v)

def msHome : Nat := 0
def msPromoting : Nat := 1
def msResident : Nat := 2
def msDemoting : Nat := 3

/-! ## Lines and ways (R300 to R303, R312) -/

def setLine (s : State) (l : Nat) (x : LineSt) : State := mapLoft s fun lo => { lo with lines := kins l x lo.lines }

def roundOn (s : State) (l : Nat) : Option Round := kfind s.loft.rounds l

def nCache (s : State) : Nat := fld s Reg.LFT_WAYS Fld.LFT_WAYS_CACHE
def nPin (s : State) : Nat := fld s Reg.LFT_WAYS Fld.LFT_WAYS_PIN

def sliceMapped (s : State) (k : Nat) : Bool := fld s (Reg.LFT_SLSTAT k) Fld.LFT_SLSTAT_MAPPED = 1

/-- Ways that a slice has lost to a map-out, or is about to lose to one that waits (R316, R317). -/
def lostWays (s : State) (k : Nat) : Nat :=
  if sliceMapped s k || (kfind s.loft.mapping k).isSome then 4 else 0

/-- The cache ways, or the pinnable ways, of a slice, lowest first (R300, R316). -/
def waysOf (s : State) (k : Nat) (pin : Bool) : List Nat :=
  let lo := if pin then nCache s else 0
  let n := if pin then nPin s else nCache s
  ((List.range n).map (· + lo)).filter fun w => lostWays s k ≤ w

/-- The held lines of the set that a line maps to. -/
def setLines (s : State) (l : Nat) : List (Nat × LineSt) :=
  s.loft.lines.filter fun (m, _) => sliceOf (4096 * m) = sliceOf (4096 * l) && setOf (4096 * m) = setOf (4096 * l)

/-- The ways of the set of a line that are taken: by held lines, and by fills in progress (R312). -/
def takenWays (s : State) (l : Nat) : List Nat :=
  (setLines s l).map (·.2.way) ++ (s.loft.misses.filter fun (m, _) =>
    sliceOf (4096 * m) = sliceOf (4096 * l) && setOf (4096 * m) = setOf (4096 * l)).map (·.2.way)

def freeWay (s : State) (l : Nat) (pin : Bool) : Option Nat :=
  let held := takenWays s l
  (waysOf s (sliceOf (4096 * l)) pin).find? fun w => !held.contains w

/-- The ordinary line of the set that is replaced next: least recently used, ties to the lower way, none with a round
open (R302, R312). -/
def lruLine (s : State) (l : Nat) : Option (Nat × LineSt) :=
  ((setLines s l).filter fun (m, x) => x.obj.isNone && (roundOn s m).isNone).foldl
    (fun (best : Option (Nat × LineSt)) y =>
      match best with
      | none => some y
      | some b => if y.2.use < b.2.use || (y.2.use = b.2.use && y.2.way < b.2.way) then some y else some b) none

/-- Forget the Loft codewords of a line and its layer checks. -/
def dropLoftCodes (s : State) (l : Nat) : State :=
  let a := 4096 * l
  let cw := s.ecc.cw.filter fun (k, _) => !(k % 4 = 1 && a ≤ k / 4 && k / 4 < a + 4096)
  let lpar := s.ecc.lpar.filter fun (q, _) => !(a ≤ q && q < a + 4096)
  { s with ecc := { s.ecc with cw := cw, lpar := lpar } }

/-- Write back sector j of a held line (R303, R495, R499): the Granary takes the bytes that the read delivers, or a
codeword that no read corrects where the Loft holds an uncorrectable one. -/
def writeBackSector (l : Nat) (s : State) (j : Nat) : State :=
  let a := 4096 * l + 512 * j
  let (s, bad) := readEvery s (cwIn s 1 a 512)
  let wrongLayer := (lparIn s a 512).isSome
  let s := if wrongLayer then takeUncorr s 1 a {} true else s
  let keys := (List.range 8).map fun i => cwKey 2 (a + 64 * i)
  let lost := keys.filter fun k => wrongLayer || bad.any fun q => k / 4 ≤ q / 4 && q / 4 < k / 4 + 64
  let stale := s.loft.stale.filter fun (q, _) => !(a ≤ q && q < a + 512)
  let s := mapLoft s fun lo => { lo with stale := stale }
  let s := clearCws s 2 a 512
  if lost.isEmpty then applyFlips s 2 a 512
  else
    let s := lost.foldl (fun s k => setCw s k { lost := true }) s
    let opn := stepOpen s
    let s := if opn then raiseBlight s srcUncorr else s
    let s := record s { kind := 1, type := tyLost, unit := sliceOf a, sub := layerOf s a, addr := a
                        action := if opn then actBlight else if jobLoaded s then actJobEnd else actLogged }
    if opn then s else endJob s 4 0

/-- Write back the dirty sectors of a held line (R303). -/
def writeBack (s : State) (l : Nat) : State :=
  match lineOf s l with
  | none => s
  | some x =>
    let s := (bitList 8 0 x.dirty).foldl (writeBackSector l) s
    mapLoft s fun lo => { lo with lines := kins l { x with dirty := 0 } lo.lines }

/-- Free a held line after its write-back. -/
def freeLine (s : State) (l : Nat) : State :=
  let s := dropLoftCodes (writeBack s l) l
  mapLoft s fun lo => { lo with lines := kdel l lo.lines }

/-- Evict an ordinary line; a young one counts for the thrash monitor (R314). -/
def evictOrdinary (s : State) (l : Nat) (x : LineSt) : State :=
  let s := freeLine s l
  if pindex s - x.fill < fld s Reg.LFT_THRASH Fld.LFT_THRASH_YOUNG then
    mapLoft s fun lo => { lo with young := lo.young + 1 }
  else s

/-- Put a line into a way. -/
def holdLine (s : State) (l way : Nat) (obj : Option Nat) (dirty : Nat) : State :=
  mapLoft s fun lo => { lo with
    lines := kins l { way := way, obj := obj, dirty := dirty, use := lo.clock, fill := pindex s } lo.lines
    clock := lo.clock + 1 }

/-- The Loft takes a Granary line, as a fill does (R495, R496): false when a codeword of it cannot be read, which stops
the copy. -/
def carryLine (s : State) (l : Nat) : State × Bool :=
  match readCws s (cwIn s 2 (4096 * l) 4096) with
  | (s, none) => (s, true)
  | (s, some b) => (stopConsumer s false ⟨tyUncorr, 2, b⟩ 0, false)

/-- An ordinary line of a HOME object leaves the Loft once STREAM is set, unless a round is open on it (R273). -/
def dropStreamed (s : State) (l : Nat) : State :=
  match lineOf s l, objOfLine s l with
  | some x, some j =>
    let o := objAt s j
    if x.obj.isNone && o.stream && o.mstate = msHome && (roundOn s l).isNone then freeLine s l else s
  | _, _ => s

/-! ## Charges (R267) -/

def chargeOf (s : State) (o : Nat) : Nat := fld s (Reg.LFT_CHARGE o) Fld.LFT_CHARGE_LINES

def addCharge (s : State) (o n : Nat) : State :=
  let s := setFld s (Reg.LFT_CHARGE o) Fld.LFT_CHARGE_LINES (chargeOf s o + n)
  setFld s Reg.LFT_POOLFREE Fld.LFT_POOLFREE_LINES (fld s Reg.LFT_POOLFREE Fld.LFT_POOLFREE_LINES - n)

def subCharge (s : State) (o n : Nat) : State :=
  let s := setFld s (Reg.LFT_CHARGE o) Fld.LFT_CHARGE_LINES (chargeOf s o - n)
  setFld s Reg.LFT_POOLFREE Fld.LFT_POOLFREE_LINES (fld s Reg.LFT_POOLFREE Fld.LFT_POOLFREE_LINES + n)

/-- The quota step: a quota above the pool imposes no limit (R292). -/
def quotaOk (s : State) (o n : Nat) : Bool :=
  let q := fld s (Reg.LFT_QUOTA o) Fld.LFT_QUOTA_LINES
  fld s Reg.LFT_POOL Fld.LFT_POOL_LINES < q || chargeOf s o + n ≤ q

/-- Lines held for an object. -/
def heldFor (s : State) (j : Nat) : List (Nat × LineSt) := s.loft.lines.filter fun (_, x) => x.obj = some j

/-- RLINES shows the lines held (R261). -/
def syncRlines (s : State) (j : Nat) : State := setObj s j 24 4 (heldFor s j).length

/-! ## The end of an operation (R265, R281) -/

def objSt (s : State) (j : Nat) : ObjSt := (kfind s.loft.objSt j).getD {}

def setObjSt (s : State) (j : Nat) (x : ObjSt) : State :=
  mapLoft s fun lo => { lo with objSt := aput lo.objSt j x }

def osDone : Nat := 0
def osCancelled : Nat := 1
def osPinned : Nat := 2
def osQuota : Nat := 3
def osSetfull : Nat := 4
def osNoobj : Nat := 5
def osInuse : Nat := 6
def osOverlap : Nat := 7
def osBadrec : Nat := 8
def osState : Nat := 9

/-- Count how an operation ended (R291, R293). -/
def countObj (s : State) (op status : Nat) : State :=
  if status = osDone then
    if op = 2 || op = 3 then bump s Reg.LFT_PROMOTES 1 else s
  else if status = osCancelled then
    raise (bump s Reg.LFT_CANCELS 1) Reg.LFT_PLCINT Fld.LFT_PLCINT_CANCEL.bit
  else if status = osSetfull && op = 2 then s
  else raise (bump s Reg.LFT_REFUSALS 1) Reg.LFT_PLCINT Fld.LFT_PLCINT_REFUSE.bit

/-- STREAM is set, once a resident object has been demoted (R264): ordinary lines that the object has in the Loft leave
it (R273). -/
def streamOn (s : State) (j : Nat) : State :=
  let s := setStream s j 1
  ((s.loft.lines.filter fun (l, _) => (objAt s j).has l).map (·.1)).foldl dropStreamed s

/-- An operation ends with a status: LASTST, OPS and AGE in the record, its signal, its cart and its host command (R261,
R265, R281, R283, R611). A record that does not exist takes nothing. -/
def endOp (s : State) (j : Nat) (o : ObjOp) (status : Nat) : State :=
  let s := countObj s o.op status
  let s := if isReg s j && o.op = 6 && status = osDone then streamOn s j else s
  let s := if isReg s j then
      let s := setObj (setObj s j 19 1 status) j 28 4 ((peekN s (objRec s j + 28) 4 + 1) % 2 ^ 32)
      if status = osDone && (o.op = 0 || o.op = 2 || o.op = 3) then setObj s j 20 4 (pindex s % 2 ^ 32) else s
    else s
  let s := sendField s o.rsig
  let s := match o.cart with
    | some id => { s with carts := adel s.carts id, frm := { s.frm with cartsDone := s.frm.cartsDone ++ [id] } }
    | none => s
  match o.handle with
  | some h => complete s h { status := 0, detail := status, aux := j }
  | none => s

/-- The operation in progress on an object ends. -/
def endCurrent (s : State) (j status : Nat) : State :=
  match (objSt s j).current with
  | none => s
  | some o => endOp (setObjSt s j { objSt s j with current := none }) j o status

/-! ## Freeing an object (R274) -/

/-- Free the lines of an object that have no round open, returning their charge. -/
def freeObjLines (s : State) (j : Nat) : State :=
  let ls := (heldFor s j).filter fun (l, _) => (roundOn s l).isNone
  let owner := (objAt s j).owner
  let s := ls.foldl (fun s (l, _) => freeLine s l) s
  syncRlines (subCharge s owner ls.length) j

/-- Free what can be freed: HOME when nothing is left, else DEMOTING until the rounds close. -/
def freeObj (s : State) (j : Nat) : State :=
  let s := freeObjLines s j
  setMstate s j (if (heldFor s j).isEmpty then msHome else msDemoting)

/-! ## The pool (R271) -/

/-- An unpinned promoted object that an eviction may take now: PROMOTING, or RESIDENT with no operation in progress, with
PINNED clear. An UNPIN in progress would make the eviction wait (R275), so the pool passes over it (DESIGN CHOICE, log
entry 131). -/
def unpinnedPromoted (s : State) (j : Nat) : Bool :=
  let o := objAt s j
  !o.pinned && (o.mstate = msPromoting || (o.mstate = msResident && (objSt s j).current.isNone))

/-- The oldest of some objects: lowest AGE, ties to the lower number. -/
def oldest (s : State) (js : List Nat) : Option Nat :=
  js.foldl (fun (best : Option Nat) j =>
    match best with
    | none => some j
    | some b =>
      let a := (objAt s j).age
      let c := (objAt s b).age
      if a < c || (a = c && j < b) then some j else some b) none

/-- The pool evicts an object: a promotion in progress ends with CANCELLED (R271, R275). -/
def poolEvict (s : State) (j : Nat) : State :=
  let s := endCurrent s j osCancelled
  let s := freeObj s j
  raise (bump s Reg.LFT_EVICTS 1) Reg.LFT_PLCINT Fld.LFT_PLCINT_EVICT.bit

/-- Evict the owner's unpinned promoted objects, oldest first, until n more lines fit (R271, step 1). -/
def makeQuota (j owner n : Nat) : Nat → State → State
  | 0, s => s
  | k + 1, s =>
    if quotaOk s owner n then s
    else
      match oldest s (s.loft.objs.filter fun i => i ≠ j && (objAt s i).owner = owner && unpinnedPromoted s i) with
      | none => s
      | some i => makeQuota j owner n k (poolEvict s i)

/-- The victim of the pool in the set of line l: the oldest unpinned promoted object, not j, that holds a cache way there
and none with a round open in the set (R271, R274). -/
def poolVictim (s : State) (j l : Nat) : Option Nat :=
  let here := setLines s l
  oldest s (s.loft.objs.filter fun i =>
    i ≠ j && unpinnedPromoted s i && here.any (fun x => x.2.obj = some i && x.2.way < nCache s)
      && !(here.any fun x => x.2.obj = some i && (roundOn s x.1).isSome))

/-- A cache way for a promoting or unpinned line (R270, R271): free, then an ordinary line's, then one of the oldest
unpinned promoted object. -/
def cacheWay (s : State) (j l : Nat) : State × Option Nat :=
  match freeWay s l false with
  | some w => (s, some w)
  | none =>
    match lruLine s l with
    | some (m, x) => (evictOrdinary s m x, some x.way)
    | none =>
      match poolVictim s j l with
      | none => (s, none)
      | some i =>
        let s := poolEvict s i
        (s, freeWay s l false)

/-- Copy line l of a promoting object into a way, adopting an ordinary copy (R271, R272); the status of the first line
that finds no way, or that cannot be read (DESIGN CHOICE, log entry 135: CANCELLED). -/
def promoteLine (j : Nat) (r : State × Nat) (l : Nat) : State × Nat :=
  let (s, st) := r
  if st ≠ osDone then (s, st)
  else
    match lineOf s l with
    | some x =>
      let s := writeBack s l
      (addCharge (setLine s l { x with obj := some j, dirty := 0 }) (objAt s j).owner 1, osDone)
    | none =>
      match cacheWay s j l with
      | (s, none) => (s, osSetfull)
      | (s, some w) =>
        match carryLine s l with
        | (s, false) => (s, osCancelled)
        | (s, true) => (addCharge (holdLine s l w (some j) 0) (objAt s j).owner 1, osDone)

def objLines (o : ObjRec) : List Nat := (List.range o.lines).map (· + o.line0)

/-! ## The operations (R264 to R276) -/

/-- The offered record breaks R261 or R262. -/
def offerBad (bs : List Byte) : Bool :=
  let o := objOf bs
  bitsN o.base 63 40 ≠ 0 || bitsN o.len 63 40 ≠ 0 || o.base % 4096 ≠ 0 || o.len = 0 || objEnd < o.len
    || 5 ≤ o.cls || leAt bs 17 1 % 16 ≠ 0 || leAt bs 18 46 ≠ 0

/-- The offered range overlaps another object or the object table, or leaves the object range (R265). -/
def offerOverlap (s : State) (o : ObjRec) : Bool :=
  let e := o.base + 4096 * o.lines
  let t := reg64 s Reg.LFT_OBJBASE_LO
  objEnd < e || (o.base < t + 0x400000 && t < e)
    || s.loft.objs.any fun i => (objAt s i).base < e && o.base < (objAt s i).base + 4096 * (objAt s i).lines

/-- REGISTER (R264, R265). -/
def opRegister (s : State) (j : Nat) (o : ObjOp) : State :=
  if isReg s j then endOp s j o osInuse
  else if offerBad o.offer then endOp s j o osBadrec
  else if offerOverlap s (objOf o.offer) then endOp s j o osOverlap
  else
    let s := poke s (objRec s j) o.offer
    let s := mapLoft s fun lo => { lo with objs := lo.objs ++ [j] }
    endOp (setFld s Reg.LFT_OBJCOUNT Fld.LFT_OBJCOUNT_COUNT s.loft.objs.length) j o osDone

/-- RELEASE (R264): only a HOME, unpinned object. The 64 bytes of its record are cleared (DESIGN CHOICE: R264 says only
that the object is removed, not what its record then holds; log entry 136). -/
def opRelease (s : State) (j : Nat) (o : ObjOp) : State :=
  let r := objAt s j
  if r.mstate ≠ msHome || r.pinned then endOp s j o osState
  else
    let s := endOp s j o osDone
    let s := poke (mapLoft s fun lo => { lo with objs := lo.objs.erase j }) (objRec s j) (List.replicate 64 0#8)
    setFld s Reg.LFT_OBJCOUNT Fld.LFT_OBJCOUNT_COUNT s.loft.objs.length

/-- The operation goes on after this command. -/
def begin_ (s : State) (j : Nat) (o : ObjOp) : State := setObjSt s j { objSt s j with current := some o }

/-- Classes whose PROMOTE, PIN and STREAM are refused (R262). -/
def classFixed (r : ObjRec) : Bool := r.cls = 3 || r.cls = 4

/-- PROMOTE (R271, R276); refused while the stack runs Granary-only (R538). -/
def opPromote (s : State) (j : Nat) (o : ObjOp) : State :=
  let r := objAt s j
  if classFixed r || s.loft.granaryOnly then endOp s j o osState
  else if r.mstate = msResident then endOp s j o osDone
  else if r.mstate ≠ msHome then endOp s j o osState
  else
    let s := makeQuota j r.owner r.lines s.loft.objs.length s
    if !quotaOk s r.owner r.lines then endOp s j o osQuota
    else
      let (s, st) := (objLines r).foldl (promoteLine j) (begin_ (setMstate s j msPromoting) j o, osDone)
      if st = osDone then syncRlines s j else endCurrent (freeObj s j) j st

/-- A free pinnable way for every line, in order; none when a set has none left (R269, R301). -/
def reservePins (s : State) (r : ObjRec) : Option (List (Nat × Nat)) :=
  (objLines r).foldl (fun (acc : Option (List (Nat × Nat))) l =>
    match acc with
    | none => none
    | some got =>
      let taken := takenWays s l ++ (got.filter fun (m, _) =>
        sliceOf (4096 * m) = sliceOf (4096 * l) && setOf (4096 * m) = setOf (4096 * l)).map (·.2)
      match (waysOf s (sliceOf (4096 * l)) true).find? fun w => !taken.contains w with
      | none => none
      | some w => some (got ++ [(l, w)])) (some [])

/-- Move or copy one line into its reserved pinnable way. A line that is dirty is written back first: while the object is
PROMOTING its reads come from the Granary copy (R273; DESIGN CHOICE, log entry 132). False when a line cannot be read
(log entry 135). -/
def pinLine (j : Nat) (r : State × Bool) (x : Nat × Nat) : State × Bool :=
  let (s, ok) := r
  if !ok then (s, false)
  else
    match lineOf s x.1 with
    | some y =>
      let s := setLine (writeBack s x.1) x.1 { y with way := x.2, obj := some j, dirty := 0 }
      (if y.obj = some j then s else addCharge s (objAt s j).owner 1, true)
    | none =>
      match carryLine s x.1 with
      | (s, false) => (s, false)
      | (s, true) => (addCharge (holdLine s x.1 x.2 (some j) 0) (objAt s j).owner 1, true)

/-- PIN (R269, R276, R538). -/
def opPin (s : State) (j : Nat) (o : ObjOp) : State :=
  let r := objAt s j
  if classFixed r || s.loft.granaryOnly then endOp s j o osState
  else if r.mstate = msResident && r.pinned then endOp s j o osDone
  else if r.mstate ≠ msHome && r.mstate ≠ msResident then endOp s j o osState
  else if !quotaOk s r.owner (r.lines - (heldFor s j).length) then endOp s j o osQuota
  else
    match reservePins s r with
    | none => endOp s j o osSetfull
    | some ws =>
      let s := setPinned (setMstate (begin_ s j o) j msPromoting) j 1
      let (s, ok) := ws.foldl (pinLine j) (s, true)
      if ok then syncRlines s j else endCurrent (freeObj (setPinned s j 0) j) j osCancelled

/-- UNPIN (R270): PINNED clears at once; the lines move at UNPIN_MOVE_DONE. -/
def opUnpin (s : State) (j : Nat) (o : ObjOp) : State :=
  if (objAt s j).pinned then setPinned (begin_ s j o) j 0 else endOp s j o osDone

/-- DEMOTE, and the demotion that an EVICT or STREAM makes first (R274): DEMOTING until DEMOTION_COMPLETE. -/
def startDemotion (s : State) (j : Nat) (o : ObjOp) : State :=
  let s := setPinned s j 0
  if (objAt s j).mstate = msHome then endOp s j o osDone else begin_ (setMstate s j msDemoting) j o

/-- A migration in progress is cancelled and its copied lines freed; the operation then completes (R275). -/
def cancelWith (s : State) (j : Nat) (o : ObjOp) : State :=
  let s := freeObj (setPinned (endCurrent s j osCancelled) j 0) j
  if (objAt s j).mstate = msHome then endOp s j o osDone else begin_ s j o

/-- DEMOTE (R274, R275). -/
def opDemote (s : State) (j : Nat) (o : ObjOp) : State :=
  if (objAt s j).mstate = msPromoting then cancelWith s j o else startDemotion s j o

/-- STREAM (R264): a resident object is demoted first, and STREAM is set when the operation ends. -/
def opStream (s : State) (j : Nat) (o : ObjOp) : State :=
  if classFixed (objAt s j) then endOp s j o osState else startDemotion s j o

/-- EVICT (R275): refused with PINNED when PINNED is set. -/
def opEvict (s : State) (j : Nat) (o : ObjOp) : State :=
  let r := objAt s j
  if r.pinned then endOp s j o osPinned
  else
    let s := if r.mstate = msHome then s else bump s Reg.LFT_EVICTS 1
    if r.mstate = msPromoting then cancelWith s j o else startDemotion s j o

/-- The operation of code `op` that may take effect on object j now, and the queue without it (R275): the first in the
queue, or an EVICT or DEMOTE while the object migrates; none while an eviction by the pool still demotes it. -/
def takeOp (s : State) (j op : Nat) : Option (ObjOp × List ObjOp) :=
  let q := (objSt s j).queue
  if (objSt s j).current.isSome then
    if (op = 5 || op = 7) && (objAt s j).mstate = msPromoting then
      match q.find? fun o => o.op = op with
      | some o => some (o, q.erase o)
      | none => none
    else none
  else if isReg s j && (objAt s j).mstate = msDemoting then none
  else
    match q with
    | o :: t => if o.op = op then some (o, t) else none
    | [] => none

/-- An object operation takes effect at its record (R264, R275); one whose record cannot be read stops (R496; that it ends
with STATE is a DESIGN CHOICE, log entry 135). -/
def objCmd (op : Nat) (act : State → Nat → ObjOp → State) (s : State) (j : Nat) : State :=
  match takeOp s j op with
  | none => s
  | some (o, q) =>
    let s := setObjSt s j { objSt s j with queue := q }
    if op ≠ 0 && !isReg s j then endOp s j o osNoobj
    else
      match checkRead s (objRec s j) 64 with
      | (s, some b) => endOp (stopConsumer s false b 0) j o osState
      | (s, none) => act s j o

def execRegister (j : Nat) (s : State) : Host.Outcome State Fault Refusal := finish s (objCmd 0 opRegister s j)
def execRelease (j : Nat) (s : State) : Host.Outcome State Fault Refusal := finish s (objCmd 1 opRelease s j)
def execPromote (j : Nat) (s : State) : Host.Outcome State Fault Refusal := finish s (objCmd 2 opPromote s j)
def execPin (j : Nat) (s : State) : Host.Outcome State Fault Refusal := finish s (objCmd 3 opPin s j)
def execUnpin (j : Nat) (s : State) : Host.Outcome State Fault Refusal := finish s (objCmd 4 opUnpin s j)
def execDemote (j : Nat) (s : State) : Host.Outcome State Fault Refusal := finish s (objCmd 5 opDemote s j)
def execStream (j : Nat) (s : State) : Host.Outcome State Fault Refusal := finish s (objCmd 6 opStream s j)
def execEvict (j : Nat) (s : State) : Host.Outcome State Fault Refusal := finish s (objCmd 7 opEvict s j)

/-- PROMOTION_COMPLETE (R271, R273, R311): every line is copied; a line with a round open is copied only once the round
has closed. -/
def promotionDone (s : State) (j : Nat) : State :=
  let r := objAt s j
  if !isReg s j || r.mstate ≠ msPromoting || (objLines r).any (fun l => (roundOn s l).isSome) then s
  else endCurrent (syncRlines (setMstate s j msResident) j) j osDone

def execPromotionComplete (j : Nat) (s : State) : Host.Outcome State Fault Refusal := finish s (promotionDone s j)

/-- Move one line of an unpinned object to a cache way of its set (R270). -/
def unpinLine (j : Nat) (r : State × Bool) (l : Nat) : State × Bool :=
  let (s, ok) := r
  match lineOf s l with
  | none => (s, ok)
  | some x =>
    if !ok || x.way < nCache s then (s, ok)
    else
      match cacheWay s j l with
      | (s, none) => (s, false)
      | (s, some w) => (setLine s l { x with way := w }, true)

/-- UNPIN_MOVE_DONE (R270): each line has moved; when one finds no cache way the object is demoted instead. -/
def unpinDone (s : State) (j : Nat) : State :=
  match (objSt s j).current with
  | none => s
  | some o =>
    if o.op ≠ 4 || (objAt s j).mstate ≠ msResident then s
    else
      let (s, ok) := ((heldFor s j).map (·.1)).foldl (unpinLine j) (s, true)
      if ok then endCurrent s j osDone
      else
        let s := freeObj s j
        if (objAt s j).mstate = msHome then endCurrent s j osDone else s

def execUnpinMoveDone (j : Nat) (s : State) : Host.Outcome State Fault Refusal := finish s (unpinDone s j)

/-- DEMOTION_COMPLETE (R274): every line is written back and freed and the object is HOME, once no round is open on
them. -/
def demotionDone (s : State) (j : Nat) : State :=
  if !isReg s j || (objAt s j).mstate ≠ msDemoting then s
  else
    let s := freeObj s j
    if (objAt s j).mstate = msHome then endCurrent s j osDone else s

def execDemotionComplete (j : Nat) (s : State) : Host.Outcome State Fault Refusal := finish s (demotionDone s j)

/-- A demotion the device makes itself: pin reclaim and map-out (R315, R317). -/
def deviceDemote (s : State) (j : Nat) : State :=
  let o : ObjOp := { op := 5, offer := [] }
  if ((objSt s j).current.isSome && (objAt s j).mstate ≠ msPromoting) || (objAt s j).mstate = msDemoting then
    setObjSt s j { objSt s j with queue := (objSt s j).queue ++ [o] }
  else opDemote s j o

/-- Demote one object as pin reclaim does (R315). -/
def reclaimOne (s : State) (j : Nat) : State :=
  raise (bump (deviceDemote s j) Reg.LFT_RECLAIMS 1) Reg.LFT_INTSTAT Fld.LFT_INTSTAT_RECLAIM.bit

/-! ## Demand accesses (R302 to R305, R268, R273) -/

/-- How an access to a line is served. -/
inductive Serve where
  /-- By the line's way, by the direct range or a Crib. -/
  | hit
  /-- From the Granary without allocation. -/
  | around
  /-- After a fill. -/
  | miss
  deriving DecidableEq, Repr

def cacheAllPromoted (s : State) (l : Nat) : Bool :=
  let ws := waysOf s (sliceOf (4096 * l)) false
  ws.all fun w => (setLines s l).any fun x => x.2.way = w && x.2.obj.isSome

/-- A line that is not held may take a way: one is free, or an ordinary line of its set may go (R302, R312). -/
def wayEligible (s : State) (l : Nat) : Bool := (freeWay s l false).isSome || (lruLine s l).isSome

/-- How the line of an object-range offset is served now (R268, R273). A set whose cache ways are all promoted or not
eligible serves it from the Granary (of the ways that fills and rounds keep, R268 and R312 do not say: DESIGN CHOICE, log
entry 137). -/
def serveOf (s : State) (l : Nat) : Serve :=
  match lineOf s l with
  | some x => if promoting s x then .around else .hit
  | none =>
    if (kfind s.loft.misses l).isSome then .miss
    else if s.loft.granaryOnly || cacheAllPromoted s l || !wayEligible s l then .around
    else
      match objOfLine s l with
      | none => .miss
      | some j => if (objAt s j).mstate ≠ msHome || (objAt s j).stream then .around else .miss

/-- A fill of a line takes its way: a free cache way, or the least recently used ordinary line's (R302, R305). -/
def takeWay (s : State) (l : Nat) : State × Option Nat :=
  match freeWay s l false with
  | some w => (s, some w)
  | none =>
    match lruLine s l with
    | some (m, x) => (evictOrdinary s m x, some x.way)
    | none => (s, none)

/-- A miss opens an entry or joins one, or waits at the slice input (R304): whether it has a place in the table. -/
def missOn (s : State) (l : Nat) : State × Bool :=
  let k := sliceOf (4096 * l)
  match kfind s.loft.misses l with
  | some e =>
    if e.waiters < 64 then
      (bump (mapLoft s fun lo => { lo with misses := kins l { e with waiters := e.waiters + 1 } lo.misses })
        (Reg.LFT_MERGED k) 1, true)
    else (s, false)
  | none =>
    if 256 ≤ missOcc s k then (s, false)
    else
      match takeWay s l with
      | (s, none) => (s, false)
      | (s, some w) =>
        (syncMissocc (bump (mapLoft s fun lo => { lo with misses := kins l ⟨1, w⟩ lo.misses }) (Reg.LFT_MISSES k) 1) k, true)

/-- The line numbers of a range in the object range. -/
def lineNos (a n : Nat) : List Nat := if isObj a then (partsOf a n).map fun p => p.1 / 4096 else []

/-- An access that is not a contribution meets the round of a line (R310): it closes an empty one and waits on one that
still holds contributions. Answers whether it may go on, and whether a diverted round, which the Granary serves (R313),
closed. -/
def closeRound (s : State) (l : Nat) : State × Bool × Bool :=
  match roundOn s l with
  | none => (s, true, false)
  | some x =>
    if x.held.isEmpty then (useLine (endRound s l) l, true, x.diverted)
    else (mapLoft s fun lo => { lo with rounds := aput lo.rounds l { x with closing := true } }, false, false)

/-- The access that ROUND_CLOSE stands for. -/
def closeRounds (s : State) (a n : Nat) : State × Bool :=
  (roundLines s a n).foldl (fun (r : State × Bool) l => let (s, free, _) := closeRound r.1 l; (s, r.2 && free)) (s, true)

/-- One line of a request. `r` holds the state, whether every line so far may be served, and the lines on which the
request has been counted or has a place in the miss table. -/
def requestLine (r : State × Bool × List Nat) (l : Nat) : State × Bool × List Nat :=
  let (s, ok, seen) := r
  let copies := sliceCopies s l
  let (s, free, around) := if copies then (s, false, false) else closeRound (dropRake s l) l
  if !free then (s, false, seen)
  else
    let s := dropStreamed s l
    match (if around || !isObj (4096 * l) then .around else serveOf s l) with
    | .around => (s, ok, seen)
    | .hit =>
      let s := useLine s l
      if seen.contains l then (s, ok, seen) else (bump s (Reg.LFT_HITS (sliceOf (4096 * l))) 1, ok, l :: seen)
    | .miss =>
      if seen.contains l && (kfind s.loft.misses l).isSome then (s, false, seen)
      else
        let (s, got) := missOn s l
        (s, false, if got then l :: seen else seen)

/-- A request to a range (R304, R310): whether it may be served now, and the lines it has been counted on. -/
def request (s : State) (a n : Nat) (seen : List Nat) : State × Bool × List Nat :=
  (roundLines s a n).foldl requestLine (s, true, seen)

/-- A line's fill lands in the way it took. -/
def landLine (s : State) (l w : Nat) : State := if (lineOf s l).isSome then s else holdLine s l w none 0

/-- The line's object is HOME with STREAM set, or is on its way into or out of the Loft: a fill that ends then allocates
nothing (R273). A line with a round open lands all the same: its contributions wait for it (R308). -/
def objStreams (s : State) (l : Nat) : Bool :=
  (roundOn s l).isNone && (objOfLine s l).any fun j => (objAt s j).mstate ≠ msHome || (objAt s j).stream

/-- A read that needs its line at once and whose fill is part of the command: a Sickle read, a host copy (R211, R302,
R304). -/
def fetchLine (s : State) (l : Nat) : State :=
  let k := sliceOf (4096 * l)
  match serveOf s l with
  | .hit => bump (useLine s l) (Reg.LFT_HITS k) 1
  | .around => s
  | .miss =>
    match kfind s.loft.misses l with
    | some _ =>
      match missOn s l with
      | (s, true) => s
      | (s, false) => bump s (Reg.LFT_HITS k) 1
    | none =>
      match takeWay (bump s (Reg.LFT_MISSES k) 1) l with
      | (s, some w) => landLine s l w
      | (s, none) => s

/-- A write that the host port makes: one that covers a whole line allocates it without a fill, any other that misses
fills it first (R303). -/
def fetchForWrite (s : State) (a n l : Nat) : State :=
  if a ≤ 4096 * l && 4096 * l + 4096 ≤ a + n && serveOf s l = .miss && (kfind s.loft.misses l).isNone then
    match takeWay s l with
    | (s, some w) => landLine s l w
    | (s, none) => s
  else fetchLine s l

end Sys2Proof.Machine
end

