-- ==== Sys2Proof/Machine/Carts.lean ====
section
/-! DEFINITION. Carts (R278 to R289) and in-cache reductions (R307 to R313): the segments that stay on this device and
the rounds of the Loft. -/

namespace Sys2Proof.Machine

/-! ## Carts in use -/

def cart (s : State) (id : Nat) : Option CartSt := kfind s.carts id

def setCart (s : State) (id : Nat) (c : CartSt) : State := { s with carts := aput s.carts id c }

def mapCart (s : State) (id : Nat) (f : CartSt → CartSt) : State :=
  match cart s id with
  | none => s
  | some c => setCart s id (f c)

/-- Bytes of segment i (R283); a segment of a Wain cart is as long as its rows make it. -/
def segLen (c : CartSt) (i : Nat) : Nat :=
  match c.parts[i]? with
  | some x => x.2.length
  | none => min 512 (c.len - 512 * i)

/-- Bytes of DST, and of RET, that segment i covers (R283). -/
def segDst (c : CartSt) : Nat → Nat := fun i => if c.op = 1 && c.rop = 3 then 256 * i else 512 * i
def segDstLen (c : CartSt) (i : Nat) : Nat := if c.op = 1 && c.rop = 3 then segLen c i / 2 else segLen c i

def setSeg (s : State) (id i : Nat) (x : SegSt) : State := mapCart s id fun c => { c with segs := c.segs.set i x }

/-- The data of a cart lands on this device (R284). -/
def landsHere (s : State) (c : CartSt) : Bool := gLocal s c.dst

/-- The destination is another device, or the source is. -/
def isRemote (s : State) (c : CartSt) : Bool := !gLocal s c.dst || !gLocal s c.src

/-- A segment that has not been sent. -/
def unsent : SegSt → Bool
  | .unsent | .filling _ => true
  | .left | .applied | .lost => false

/-- The lines on which a segment has been counted (R304). -/
def segSeen : SegSt → List Nat
  | .filling l => l
  | .unsent | .left | .applied | .lost => []

/-- A segment that has not left: it still has to be sent or written (R138, R282). -/
def segHere (s : State) (c : CartSt) (x : SegSt) : Bool := unsent x || (x = .left && !isRemote s c)

/-- When every segment of a cart has left, its item may retire (R138). -/
def syncCart (s : State) (id : Nat) : State :=
  match cart s id with
  | none => s
  | some c =>
    if c.segs.any (segHere s c) then s
    else
      match c.bough with
      | some b => markDone s b c.entry
      | none => s

/-- A cart ends early (R138): what has not been sent never is. -/
def endCart (s : State) (id : Nat) : State :=
  syncCart (mapCart s id fun c => { c with
    ended := true
    segs := c.segs.map fun x => if unsent x then .lost else x }) id

/-- A segment met an uncorrectable codeword on this device: it is neither written nor sent, and the cart ends (R138,
R496, R497). -/
def segUncorr (s : State) (id : Nat) (seq : Nat) (b : Bad) : State :=
  stamp s seq true (stopConsumer (endCart s id) false b seq)

/-- Read or write for a segment: the records made carry its cart sequence number (R63, R507). -/
def readFor (s : State) (seq a n : Nat) : State × Except Bad (List Byte) :=
  let (t, r) := readBytes s a n
  (stamp s seq true t, r)

def storeFor (s : State) (seq a : Nat) (bs : List Byte) : State × Option Bad :=
  let (t, r) := storeSeg s a bs
  (stamp s seq true t, r)

/-! ## The reduction rounds of a line (R307 to R313) -/

/-- The line number under which an object or direct offset's rounds are kept. -/
def lineNo (a : Nat) : Nat := a / 4096

/-- A contribution applied: its cart's segment, or the incoming cart of another device (R284, R442). -/
def noteApplied (s : State) (c : Contrib) : State :=
  match c.origin with
  | some src =>
    let inb := s.fab.inb.map fun x => if x.src = src && x.cart = c.cart then { x with applied := x.applied + 1 } else x
    { s with fab := { s.fab with inb := inb } }
  | none =>
    match cart s c.cart with
    | none => s
    | some x => syncCart (setSeg s c.cart ((c.seq + 2 ^ 32 - x.cseq) % 2 ^ 32) .applied) c.cart

/-- Add bad sector j to a round. -/
def badSector (s : State) (l j : Nat) : State :=
  match roundOn s l with
  | none => s
  | some r => mapLoft s fun lo => { lo with rounds := aput lo.rounds l { r with badSect := j :: r.badSect } }

/-- A consumer that carries a cart sequence number stops (R63, R497). -/
def stampStop (s : State) (b : Bad) (seq : Nat) : State := stamp s seq true (stopConsumer s false b seq)

/-- Apply a contribution to its sector (R308, R309); a sector that met an uncorrectable word takes no more (R496). -/
def applyContrib (s : State) (c : Contrib) : State :=
  let l := lineNo c.addr
  let j := c.addr % 4096 / 512
  let k := sliceOf c.addr
  let r := (roundOn s l).getD {}
  let s := bump (useLine s l) (Reg.LFT_REDAPPLY k) 1
  if r.badSect.contains j then noteApplied s c
  else
    let stop (s : State) (b : Bad) : State := noteApplied (badSector (stampStop s b c.seq) l j) c
    let (t, r) := loadRaw s c.addr c.data.length
    let s := stamp s c.seq true t
    match r with
    | .error b => stop s b
    | .ok old =>
      let w := dtypeSize c.dtype
      let (bs, ev) := elemOps (strictMode s) c.dtype c.rop w old c.data (c.data.length / w)
      let (t, r) := storeSegRaw s c.addr bs
      let s := stamp s c.seq true t
      match r with
      | some b => stop s b
      | none => noteApplied (numEvB s (Reg.LFT_NUMOVF k) ev) c

/-- The line of a round can take applications: it is held, it is direct, or the merge queue has it. -/
def roundReady (s : State) (l : Nat) (r : Round) : Bool :=
  r.diverted || !(isObj (4096 * l)) || (lineOf s l).isSome

/-- NEXT of a sector (R308). -/
def nextRank (r : Round) (j : Nat) : Nat := kget (fun _ => 0) r.next j

/-- Apply held contributions in rank order while the next rank of some sector is held (R308). -/
def drainRound : Nat → State → Nat → State
  | 0, s, _ => s
  | k + 1, s, l =>
    match roundOn s l with
    | none => s
    | some r =>
      if !roundReady s l r then s
      else
        match r.held.find? fun c => c.seq % 64 = nextRank r (c.addr % 4096 / 512) with
        | none => s
        | some c =>
          let j := c.addr % 4096 / 512
          let r := { r with held := r.held.erase c, next := kins j (nextRank r j + 1) r.next }
          drainRound k (applyContrib (mapLoft s fun lo => { lo with rounds := aput lo.rounds l r }) c) l

/-- Open a round on a line (R308, R311, R313, R317); none while the line's fill finds all entries of the miss table in use,
and the contribution waits at the slice input (R304). -/
def openRound (s : State) (a : Nat) : State :=
  let l := lineNo a
  let k := sliceOf a
  let put (s : State) (r : Round) : State := mapLoft s fun lo => { lo with rounds := aput lo.rounds l r }
  let divert (s : State) : State :=
    if 256 ≤ missOcc s k then s
    else
      let s := syncMissocc (put s { diverted := true, record := true }) k
      raise (bump s Reg.LFT_DIVERTS 1) Reg.LFT_INTSTAT Fld.LFT_INTSTAT_DIVERT.bit
  if isObj a && (objOfLine s l).any (fun j => objState s j = 1) then put s { diverted := true }
  else if (kfind s.loft.mapping k).isSome || s.loft.granaryOnly then divert s
  else if !isObj a || (lineOf s l).isSome then put s {}
  else if serveOf s l = .miss then
    match missOn s l with
    | (s, true) => put s {}
    | (s, false) => if (kfind s.loft.misses l).isSome then put s {} else s
  else divert s

/-- A contribution reaches a line (R308): applied in rank order, held, or returned when the window is full; false while it
waits at the slice input (R304) or for the copy of a bank (R505). -/
def contribute (s : State) (c : Contrib) : State × Bool :=
  let l := lineNo c.addr
  let s := if (roundOn s l).isSome || sliceCopies s l then s else openRound s c.addr
  match (if sliceCopies s l then none else roundOn s l) with
  | none => (s, false)
  | some r =>
    let j := c.addr % 4096 / 512
    if 64 ≤ r.held.length && !(roundReady s l r && c.seq % 64 = nextRank r j) then
      (bump (mapLoft s fun lo => { lo with returned := lo.returned ++ [c] }) (Reg.LFT_REDRET (sliceOf c.addr)) 1, true)
    else
      (drainRound 65 (mapLoft s fun lo => { lo with rounds := aput lo.rounds l { r with held := r.held ++ [c] } }) l, true)

/-- A closing access that waits goes ahead once the window is empty (R310), and is a use of its line (R302). -/
def finishClosing (s : State) : State :=
  let due := s.loft.rounds.filter fun (_, r) => r.closing && r.held.isEmpty
  due.foldl (fun s (l, _) => useLine (endRound s l) l) s

/-! ## Segments that stay on this device -/

/-- The numeric status set that counts an ATOMIC element at an offset (R116). -/
def atomicSet (a : Nat) : Nat :=
  if isCrib a then Reg.THR_NUMOVF ((a - cribBase 0) / 0x400000) else Reg.LFT_NUMOVF (sliceOf a)

/-- Apply an ATOMIC segment at a local offset; the old bytes, or why not. -/
def atomicAt (s : State) (dtype rop a : Nat) (xs : List Byte) : State × Except Bad (List Byte) :=
  let w := dtypeSize dtype
  let n := if rop = 3 then xs.length / 2 else xs.length
  match load s a n with
  | (s, .error b) => (s, .error b)
  | (s, .ok old) =>
    let (bs, ev) := atomicOps (strictMode s) dtype rop w old xs
    match storeSeg s a bs with
    | (s, some b) => (s, .error b)
    | (s, none) => (numEv s (atomicSet a) ev, .ok old)

/-- Every earlier program frame's carts have completed (R285). -/
def fenceOpen (s : State) (id : Nat) (c : CartSt) : Bool :=
  !c.ff || s.carts.all fun (k, x) => k = id || c.pframe ≤ x.pframe

/-- The lines of a local cart's segment are ready; the requests it makes. An OBJECT cart asks for none but those of a record
that REGISTER offers (R281). -/
def segReady (s : State) (c : CartSt) (i : Nat) (seen : List Nat) : State × Bool × List Nat :=
  if c.op = 3 && c.objop ≠ 0 then (s, true, seen)
  else
  let (s, r1, seen) := request s (gOffset c.src + 512 * i) (segLen c i) seen
  if 2 ≤ c.op then (s, r1, seen)
  else
    let (s, r2, seen) := request s (gOffset c.dst + segDst c i) (segDstLen c i) seen
    let (s, r3, seen) := if c.reten then request s (gOffset c.ret + segDst c i) (segDstLen c i) seen else (s, true, seen)
    (s, r1 && r2 && r3, seen)

/-- The bytes of a segment are written at a local place; one in the control space is written when the cart completes. -/
def landSeg (s : State) (id i seq a : Nat) (bs : List Byte) : State :=
  if isCtl a then setSeg (mapCart s id fun c => { c with ctl := c.ctl ++ [(i, a, bs)] }) id i .left
  else
    match storeFor s seq a bs with
    | (s, some b) => segUncorr s id seq b
    | (s, none) => setSeg s id i .applied

/-- ATOMIC at a local place of the control space: the old words are read now, and the new ones written when the cart
completes. -/
def atomicCtl (s : State) (id i : Nat) (c : CartSt) (a : Nat) (xs : List Byte) : State × List Byte :=
  let n := segDstLen c i
  let (s, old) := ctlWords s (n + 1) a n
  let (bs, _) := atomicOps (strictMode s) c.dtype c.rop (dtypeSize c.dtype) old xs
  (mapCart s id fun c => { c with ctl := c.ctl ++ [(i, a, bs)] }, old)

/-- The record of an object accepts the operation of its cart, which leaves (R281). -/
def acceptObject (s : State) (id : Nat) (c : CartSt) (offer : List Byte) : State :=
  let o : ObjOp := { op := c.objop, offer := offer, rsig := c.rsig, cart := some id }
  setSeg (setObjSt s c.obj { objSt s c.obj with queue := (objSt s c.obj).queue ++ [o] }) id 0 .applied

/-- Move one segment of a local cart whose lines are ready; false when it waits for its line still (R304). -/
def runSeg (s : State) (id : Nat) (c : CartSt) (i : Nat) : State × Bool :=
  let seq := (c.cseq + i) % 2 ^ 32
  match (if c.op = 3 && c.objop ≠ 0 then (s, .ok []) else readFor s seq (gOffset c.src + 512 * i) (segLen c i)) with
  | (s, .error b) => (segUncorr s id seq b, true)
  | (s, .ok bs) =>
    let d := gOffset c.dst + segDst c i
    match c.op with
    | 0 => (landSeg s id i seq d bs, true)
    | 1 =>
      if isCtl d then
        let (s, old) := atomicCtl s id i c d bs
        (if c.reten then landSeg s id i seq (gOffset c.ret + segDst c i) old else setSeg s id i .left, true)
      else
        let (t, r) := atomicAt s c.dtype c.rop d bs
        let s := stamp s seq true t
        match r with
        | .error b => (segUncorr s id seq b, true)
        | .ok old =>
          (if c.reten then landSeg s id i seq (gOffset c.ret + segDst c i) old else setSeg s id i .applied, true)
    | 2 =>
      match contribute s { cart := id, seq := seq, addr := d, dtype := c.dtype, rop := c.rop, data := bs, origin := none } with
      | (t, true) =>
        match cart t id with
        | some x => (if x.segs[i]? = c.segs[i]? then setSeg t id i .left else t, true)
        | none => (t, true)
      | (t, false) => (t, false)
    | _ => (acceptObject s id c bs, true)

/-- Send what segments of a local cart can go now, in CSEQ order (R285). -/
def pumpSegs (id : Nat) : List Nat → State → State
  | [], s => s
  | i :: t, s =>
    match cart s id with
    | none => s
    | some c =>
      match c.segs[i]? with
      | none => s
      | some x =>
        if !unsent x then pumpSegs id t s
        else
          match segReady s c i (segSeen x) with
          | (s, true, seen) =>
            match runSeg s id c i with
            | (s, true) => pumpSegs id t s
            | (s, false) => setSeg s id i (.filling seen)
          | (s, false, seen) => setSeg s id i (.filling seen)

def pumpCart (s : State) (id : Nat) : State :=
  match cart s id with
  | none => s
  | some c =>
    if isRemote s c || c.ended || !fenceOpen s id c then s
    else syncCart (pumpSegs id (List.range c.segs.length) s) id

/-- Let every local cart go on: a closed round or a completed cart may have let another go. -/
def pumpAll : Nat → State → State
  | 0, s => s
  | k + 1, s =>
    let t := s.carts.foldl (fun s x => pumpCart (finishClosing s) x.1) (finishClosing s)
    pumpAll k t

def pump (s : State) : State := pumpAll (s.carts.length + 1) s

/-! ## CART items (R279) -/

/-- Put a cart in use (R283). -/
def startCart (s : State) (b : Option Nat) (id : Nat) (d : Cart) : State :=
  setCart s d.cartid
    { bough := b, entry := id, op := d.op, dtype := d.dtype, rop := d.rop, reten := d.reten, ff := d.ff, cseq := d.cseq
      len := d.len, src := d.src, dst := d.dst, ret := d.ret, rsig := d.rsig, pframe := pindex s
      segs := List.replicate (cdiv d.len 512) .unsent }

/-- Issue a data cart; one that stays here moves what it can at once. -/
def runCart (s : State) (b id : Nat) (body : List Byte) : State :=
  pump (startCart s (some b) id (cartOf body))

/-- Issue an OBJECT cart (R281): it has one segment, which reaches the record of its object on this device; the 64 bytes
of an offered record may come from another one. -/
def runObject (s : State) (b id : Nat) (body : List Byte) : State :=
  let d := cartOf body
  let own := deviceId s * 2 ^ 40
  let d := { d with dst := own, src := (if d.objop = 0 then d.src else own), len := 64 }
  let s := startCart s (some b) id d
  pump (mapCart s d.cartid fun c => { c with objop := d.objop, obj := d.obj })

/-- A CART item of one OP. -/
def cartCmd (op : Nat) (run : State → Nat → Nat → List Byte → State) (n t : Nat) (s : State) :
    Host.Outcome State Fault Refusal :=
  issue s n 4 t (fun body => (cartOf body).op = op) run

def execCopyCart (n t : Nat) (s : State) : Host.Outcome State Fault Refusal := cartCmd 0 runCart n t s
def execAtomicCart (n t : Nat) (s : State) : Host.Outcome State Fault Refusal := cartCmd 1 runCart n t s
def execReduceCart (n t : Nat) (s : State) : Host.Outcome State Fault Refusal := cartCmd 2 runCart n t s
def execObjectCart (n t : Nat) (s : State) : Host.Outcome State Fault Refusal := cartCmd 3 runObject n t s

/-- CONTRIBUTION_RESEND (R308): a returned contribution of a local cart reaches its line again. -/
def contribResend (s : State) (id seq : Nat) : State :=
  match s.loft.returned.find? fun c => c.cart = id && c.seq = seq && c.origin.isNone with
  | none => s
  | some c =>
    match contribute (mapLoft s fun lo => { lo with returned := lo.returned.erase c }) c with
    | (t, true) => pump t
    | (_, false) => s

/-- ROUND_CLOSE (R310): an access that is no contribution reaches the line. -/
def roundClose (s : State) (a : Nat) : State := pump (closeRounds s (a - a % 4096) 1).1

/-- REDUCTION_STALL (R310): REDSTALL once for a round whose closing access has waited STALLFR ticks. -/
def reductionStall (s : State) (a : Nat) : State :=
  let lim := fld s Reg.LFT_REDCTRL Fld.LFT_REDCTRL_STALLFR
  match roundOn s (lineNo a) with
  | none => s
  | some r =>
    if r.closing && !r.stalled && lim ≠ 0 && lim ≤ r.ticks then
      raise (mapLoft s fun lo => { lo with rounds := aput lo.rounds (lineNo a) { r with stalled := true } })
        Reg.LFT_INTSTAT Fld.LFT_INTSTAT_REDSTALL.bit
    else s

def execReductionStall (line : Nat) (s : State) : Host.Outcome State Fault Refusal := finish s (reductionStall s line)

/-! ## Completion (R284) -/

/-- Every segment of a cart has been applied. -/
def allApplied (c : CartSt) : Bool := !c.ended && c.segs.all (· = .applied)

/-- A cart is complete and its number free again. -/
def dropCart (s : State) (id : Nat) : State :=
  { s with carts := adel s.carts id, frm := { s.frm with cartsDone := s.frm.cartsDone ++ [id] } }

/-- CART_COMPLETE (R284): a cart whose data lands here signals RSIG and its CARTID is free again; one that lands
elsewhere completes with the acknowledgement and, under RETEN, its old values (R442). -/
def cartComplete (s : State) (id : Nat) : State :=
  match cart s id with
  | none => s
  | some c =>
    if c.op = 3 || !allApplied c || (!landsHere s c && !c.acked) then s
    else
      let s := if landsHere s c then sendField s c.rsig else s
      pump (dropCart s id)

/-! ## The Wain's carts (R351, R355) -/

/-- The Wain stops (R355). -/
def wainError (s : State) : State :=
  let s := { s with wain := { s.wain with walking := false } }
  let s := setFld s Reg.WAN_STATUS Fld.WAN_STATUS_BUSY 0
  endJob (raise s Reg.WAN_INTSTAT Fld.WAN_INTSTAT_ERR.bit) 7 0

/-- A descriptor completes when all of its carts have completed (R355); past descriptor 4 095 the Wain stops. -/
def wainSettle (s : State) : State :=
  if fld s Reg.WAN_STATUS Fld.WAN_STATUS_BUSY = 1 && s.wain.carts.all (fun id => (cart s id).isNone) then
    let s := setFld { s with wain := { s.wain with carts := [] } } Reg.WAN_STATUS Fld.WAN_STATUS_BUSY 0
    if s.wain.past then wainError s else s
  else s

end Sys2Proof.Machine
end

