-- ==== Sys2Proof/Machine/Packets.lean ====
section
/-! DEFINITION. Packets that arrive on a fabric port (R424 to R432, R441, R442, R455), and the link events of R410 to
R416. -/

namespace Sys2Proof.Machine

/-! ## Routing (R429 to R432, R437, R438) -/

/-- Two packets keep their order through a device: they use one lane, or carry one cart of one source (R411, R432). -/
def keepsOrder (a b : Packet) : Bool := a.vl = b.vl || (a.src = b.src && a.cartid = b.cartid)

/-- Nothing goes before replays, and after a re-admission nothing goes before the partner's LACK (R412, R416). -/
def linkClear (s : State) (p : Nat) : Bool := portUp s p && (port s p).again.isEmpty && !(port s p).resume

/-- Forward a packet that came in on port p: at once when its port can start it and nothing that waits there keeps its
order before it, else it waits. Its place in the receive buffer is free once it has left. -/
def forward (s : State) (p q : Nat) (k : Packet) : State :=
  if linkClear s q && !((port s q).transit.any fun x => keepsOrder x.2 k) && mayStart s q k then
    transmit (creditBack s p k) q k false
  else mapPort s q fun x => { x with transit := x.transit ++ [(p, k)] }

/-- A packet dropped in transit (R429, R430). -/
def dropTransit (s : State) (reg code : Nat) (k : Packet) : State :=
  let s := bump s reg 1
  if answers k.op then refuse s k code else s

/-- A packet that the link has taken goes by its route: to this device, where `act` takes it, or on (R429, R430). -/
def routeIn (s : State) (p : Nat) (k : Packet) (act : Packet → State → State) : State :=
  match routeOf s k.dst with
  | none => dropTransit (creditBack s p k) Reg.FAB_NOROUTE 6 k
  | some q =>
    if q = 30 then act k s
    else if k.ttl = 0 then dropTransit (creditBack s p k) Reg.FAB_TTLDROP 7 k
    else if q < 24 then forward s p q { k with ttl := k.ttl - 1 }
    else creditBack s p k

/-! ## Carts that land here (R284, R442) -/

def inCart (s : State) (src id : Nat) : Option InCart := s.fab.inb.find? fun x => x.src = src && x.cart = id

def mapIn (s : State) (src id : Nat) (f : InCart → InCart) : State :=
  { s with fab := { s.fab with inb := s.fab.inb.map fun x => if x.src = src && x.cart = id then f x else x } }

/-- A segment of a cart of another device has arrived. -/
def noteArrived (s : State) (k : Packet) : State :=
  let s := if (inCart s k.src k.cartid).isSome then s
    else { s with fab := { s.fab with inb := s.fab.inb ++ [{ src := k.src, cart := k.cartid, first := k.cseq }] } }
  if k.last then mapIn s k.src k.cartid fun x => { x with last := some k.cseq } else s

/-- A segment was lost: its cart never completes. -/
def noteLost (s : State) (k : Packet) : State := mapIn s k.src k.cartid fun x => { x with lost := true }

def inDone (x : InCart) : Bool :=
  match x.last with
  | some l => !x.lost && x.applied = seqDist x.first l + 1
  | none => false

/-- Incoming carts whose segments have all been applied signal RSIG here and are acknowledged (R284, R442). -/
def settleIn (s : State) : State :=
  let done := s.fab.inb.filter inDone
  let s := { s with fab := { s.fab with inb := s.fab.inb.filter fun x => !inDone x } }
  done.foldl (fun s x =>
    let s := sendField { s with free := s.free + 1 } (Config.packetRsig x.src x.cart s.free)
    routeOut s { mkPacket s x.src vlCtrl opAck with cartid := x.cart, cseq := x.last.getD 0 }) s

/-! ## Serving a request -/

/-- Local delivery cannot serve a segment: the Root is in its sub-reset, or the device is in Fallow (R533, R536). -/
def notReady (s : State) : Bool :=
  rstState s = stFallow || (s.rst.parts.head?).any fun r => r.kind = 1 && r.stage = 2

/-- Why a WRITE, ATOMIC or REDUCE segment is refused, if it is (R257, R289, R428, R455). -/
def refuseCode (s : State) (k : Packet) : Option Nat :=
  let n := if k.op = opAtomic && k.rop = 3 then k.payload.length / 2 else k.payload.length
  let w := dtypeSize k.dtype
  if notReady s then some 3
  else if k.op = opReadreq then
    let m := bitsN k.aux 9 0
    if isCtl k.addr then (if pageReadable k.addr m then none else some 2)
    else if rangeOk s k.addr m then none else some 1
  else if isCtl k.addr then
    if k.op = opWrite && isMailbox k.addr n then none else some 2
  else if !rangeOk s k.addr n then some 1
  else if k.op = opAtomic then
    let w2 := if k.rop = 3 then 2 * w else w
    if 3 ≤ k.dtype || 4 ≤ k.rop then some 4
    else if k.addr % w ≠ 0 || k.payload.length % w2 ≠ 0 then some 5 else none
  else if k.op = opReduce then
    if !(2 ≤ k.dtype && k.dtype ≤ 4) || 3 ≤ k.rop || isCrib k.addr then some 4
    else if k.addr % w ≠ 0 || k.payload.length % w ≠ 0 then some 5 else none
  else none

/-- Bytes of memory that a request reads or writes. -/
def reqLen (k : Packet) : Nat :=
  if k.op = opReadreq then bitsN k.aux 9 0
  else if k.op = opAtomic && k.rop = 3 then k.payload.length / 2 else k.payload.length

/-- A segment of another device failed on an uncorrectable codeword (R496). -/
def inUncorr (s : State) (k : Packet) (b : Bad) : State := noteLost (stampStop s b k.cseq) k

/-- The answer to a read of other device's memory (R441). -/
def answerWith (s : State) (k : Packet) (op : Nat) (bs : List Byte) : State :=
  routeOut s { mkPacket s k.src vlBest op with
    cartid := k.cartid, cseq := k.cseq, addr := k.addr, len := bs.length, payload := bs, last := k.last }

/-- The local offset that a READRSP or ATOMRSP writes: segment i of the cart it answers (R441). -/
def responsePlace (s : State) (k : Packet) : Option (CartSt × Nat × Nat) :=
  match cart s k.cartid with
  | none => none
  | some c =>
    let i := seqDist c.cseq k.cseq
    if k.op = opReadrsp && c.op = 3 && gDevice c.src = k.src then some (c, i, 0)
    else if k.op = opReadrsp && c.op = 0 && gDevice c.src = k.src then some (c, i, gOffset c.dst + 512 * i)
    else if k.op = opAtomrsp && c.op = 1 && c.reten && gDevice c.dst = k.src then
      some (c, i, gOffset c.ret + segDst c i)
    else none

/-- The resend of a contribution that was returned takes its place (R308). -/
def dropReturned (s : State) (k : Packet) : State :=
  mapLoft s fun lo => { lo with returned := lo.returned.filter fun c =>
    !(c.origin = some k.src && c.cart = k.cartid && c.seq = k.cseq) }

/-- Serve a request whose lines are ready; a contribution comes by `serveReduce`. -/
def serve (s : State) (k : Packet) : State :=
  if k.op = opReadreq then
    if isCtl k.addr then answerWith s k opReadrsp ((List.range (reqLen k)).map fun i => pageByte s (k.addr + i))
    else
      match readFor s k.cseq k.addr (reqLen k) with
      | (s, .error b) => stampStop s b k.cseq
      | (s, .ok bs) => answerWith s k opReadrsp bs
  else if k.op = opWrite then
    if isCtl k.addr then
      let s := { s with mem := memPut s.mem k.addr k.payload }
      noteAppliedIn (raise s Reg.FAB_INTSTAT Fld.FAB_INTSTAT_MAILBOX.bit) k
    else
      match storeFor s k.cseq k.addr k.payload with
      | (s, some b) => inUncorr s k b
      | (s, none) => noteAppliedIn s k
  else if k.op = opAtomic then
    let (t, r) := atomicAt s k.dtype k.rop k.addr k.payload
    let s := stamp s k.cseq true t
    match r with
    | .error b => inUncorr s k b
    | .ok old => noteAppliedIn (if bitN k.aux 0 then answerWith s k opAtomrsp old else s) k
  else
    match responsePlace s k with
    | none => s
    | some (c, i, d) =>
      if c.segs[i]? ≠ some .left then s
      else if c.op = 3 then syncCart (acceptObject s k.cartid c k.payload) k.cartid
      else landSeg s k.cartid i k.cseq d k.payload
where
  noteAppliedIn (s : State) (k : Packet) : State := mapIn s k.src k.cartid fun x => { x with applied := x.applied + 1 }

/-- The place in memory that a request waits for. -/
def reqPlace (s : State) (k : Packet) : Nat :=
  if k.op = opReadrsp || k.op = opAtomrsp then ((responsePlace s k).map (·.2.2)).getD 0 else k.addr

/-- A contribution of another device reaches its line; false while it waits at the slice input (R304). -/
def serveReduce (s : State) (k : Packet) : State × Bool :=
  contribute (dropReturned s k)
    { cart := k.cartid, seq := k.cseq, addr := k.addr, dtype := k.dtype, rop := k.rop, data := k.payload,
      origin := some k.src }

/-- A request to memory: served when its lines are ready and none of its cart waits before it (R285, R304). -/
def tryServe (s : State) (k : Packet) (seen : List Nat) : State × Bool × List Nat :=
  let a := reqPlace s k
  let toObject := k.op = opReadrsp && (cart s k.cartid).any fun c => c.op = 3
  if k.op = opReduce then
    let (s, ok) := serveReduce s k
    (s, ok, seen)
  else if isCtl a || toObject then (serve s k, true, seen)
  else
    match request s a (if k.op = opReadrsp || k.op = opAtomrsp then k.payload.length else reqLen k) seen with
    | (s, true, seen) => (serve s k, true, seen)
    | (s, false, seen) => (s, false, seen)

def sameCart (a b : Packet) : Bool := a.src = b.src && a.cartid = b.cartid

/-- Let waiting requests go on, in order, each behind those of its own cart. -/
def retryWaiting : List (Nat × Packet × List Nat) → List (Nat × Packet × List Nat) → State → State
  | [], kept, s => mapLoft s fun lo => { lo with waiting := kept ++ lo.waiting }
  | (p, k, seen) :: t, kept, s =>
    if kept.any fun x => sameCart x.2.1 k then retryWaiting t (kept ++ [(p, k, seen)]) s
    else
      match tryServe s k seen with
      | (s, true, _) => retryWaiting t kept (creditBack s p k)
      | (s, false, seen) => retryWaiting t (kept ++ [(p, k, seen)]) s

/-- Serve a request or a response that has just come, or let it wait in its receive buffer (R411). -/
def serveOrWait (s : State) (p : Nat) (k : Packet) : State :=
  match tryServe s k [] with
  | (s, true, _) => creditBack s p k
  | (s, false, seen) => mapLoft s fun lo => { lo with waiting := lo.waiting ++ [(p, k, seen)] }

/-- After anything that may let data move on: waiting fabric requests, waiting carts, and completed incoming carts. -/
def settle (s : State) : State :=
  let w := s.loft.waiting
  let s := retryWaiting w [] (mapLoft (finishClosing s) fun lo => { lo with waiting := [] })
  wainSettle (settleIn (pump s))

/-- A request of another device, accepted by the link. -/
def takeRequest (s : State) (p : Nat) (k : Packet) : State :=
  match refuseCode s k with
  | some c =>
    let s := if k.op = opReadreq then s else noteLost (noteArrived s k) k
    refuse (creditBack s p k) k c
  | none =>
    let s := if k.op = opReadreq then s else noteArrived s k
    if s.loft.waiting.any fun x => sameCart x.2.1 k then
      mapLoft s fun lo => { lo with waiting := lo.waiting ++ [(p, k, [])] }
    else serveOrWait s p k

/-- A packet of one opcode: link rules first, then its route, then its effect here. -/
def recv (s : State) (p op : Nat) (k : Packet) (act : Packet → State → State) : State :=
  if k.op ≠ op then s
  else
    match arrive s p k with
    | (s, some k) => routeIn s p k act
    | (s, none) => s

/-- A packet whose effect needs no wait: its receive buffer is free at once. -/
def recvNow (s : State) (p op : Nat) (k : Packet) (act : Packet → State → State) : State :=
  recv s p op k fun k s => act k (creditBack s p k)

def recvReq (op p : Nat) (k : Packet) (s : State) : Host.Outcome State Fault Refusal :=
  finish s (recv s p op k fun k s => settle (takeRequest s p k))

def execWrite (p : Nat) (pkt : Packet) (s : State) : Host.Outcome State Fault Refusal := recvReq opWrite p pkt s
def execReadreq (p : Nat) (pkt : Packet) (s : State) : Host.Outcome State Fault Refusal := recvReq opReadreq p pkt s
def execAtomic (p : Nat) (pkt : Packet) (s : State) : Host.Outcome State Fault Refusal := recvReq opAtomic p pkt s
def execReduce (p : Nat) (pkt : Packet) (s : State) : Host.Outcome State Fault Refusal := recvReq opReduce p pkt s

/-- READRSP and ATOMRSP: data for a cart of this device (R441). -/
def takeResponse (s : State) (p : Nat) (k : Packet) : State :=
  match responsePlace s k with
  | none => creditBack s p k
  | some _ => serveOrWait s p k

def execReadrsp (p : Nat) (pkt : Packet) (s : State) : Host.Outcome State Fault Refusal :=
  finish s (recv s p opReadrsp pkt fun k s => settle (takeResponse s p k))
def execAtomrsp (p : Nat) (pkt : Packet) (s : State) : Host.Outcome State Fault Refusal :=
  finish s (recv s p opAtomrsp pkt fun k s => settle (takeResponse s p k))

/-- ACK (R442): the cart is complete; under RETEN its old values may still be on their way. -/
def takeAck (s : State) (k : Packet) : State :=
  match cart s k.cartid with
  | none => s
  | some c =>
    if gDevice c.dst ≠ k.src || landsHere s c || c.ended then s
    else if c.reten then
      let c := { c with acked := true }
      if allApplied c then settle (dropCart s k.cartid) else setCart s k.cartid c
    else settle (dropCart (syncCart (setCart s k.cartid { c with segs := c.segs.map fun _ => .applied }) k.cartid) k.cartid)

def execAck (p : Nat) (pkt : Packet) (s : State) : Host.Outcome State Fault Refusal :=
  finish s (recvNow s p opAck pkt fun k s => takeAck s k)

/-- The issuer's side of a refusal (R289). -/
def addressError (s : State) (k : Packet) : State :=
  let addr := match cart s k.cartid with
    | some c => gOffset (if gLocal s c.dst then c.src else c.dst) + 512 * seqDist c.cseq k.cseq
    | none => 0
  let s := raise (bump s Reg.LFT_ADDRERR 1) Reg.LFT_PLCINT Fld.LFT_PLCINT_ADDRERR.bit
  let s := record s { kind := 7, type := tyAddr, action := if jobLoaded s then actJobEnd else actLogged, unit := 0
                      addr := addr, detail := bitsN k.aux 7 0, seq := k.cseq }
  endJob (endCart s k.cartid) 5 0

/-- REFUSE (R289, R428). -/
def takeRefuse (s : State) (k : Packet) : State :=
  addressError (raise (bump s Reg.FAB_REFUSED 1) Reg.FAB_INTSTAT Fld.FAB_INTSTAT_REFUSED.bit) k

def execRefuse (p : Nat) (pkt : Packet) (s : State) : Host.Outcome State Fault Refusal :=
  finish s (recvNow s p opRefuse pkt fun k s => takeRefuse s k)

/-! ## Loft events that let data move on -/

/-- The segment of a cart that waits for lines, with the places it reads and writes. -/
def waitingSeg (c : CartSt) : Option (Nat × List (Nat × Nat)) :=
  ((List.range c.segs.length).find? fun i => !(((c.segs[i]?).map segSeen).getD []).isEmpty).map fun i =>
    (i, (gOffset c.src + 512 * i, segLen c i) ::
      (if c.op = 2 then [] else [(gOffset c.dst + segDst c i, segDstLen c i)])
      ++ (if c.reten then [(gOffset c.ret + segDst c i, segDstLen c i)] else []))

/-- FILL_COMPLETE (R305): the line lands in its way and every waiter is served, or an uncorrectable codeword stops them all
and the line is not allocated (R496). A line that has come to be held meanwhile is left as it is (R312). -/
def fillComplete (s : State) (a : Nat) : State :=
  let l := lineNo a
  match kfind s.loft.misses l with
  | none => s
  | some e =>
    let s := syncMissocc (mapLoft s fun lo => { lo with misses := adel lo.misses l }) (sliceOf (4096 * l))
    match (if (lineOf s l).isSome then (s, none) else readCws s (cwIn s 2 (4096 * l) 4096)) with
    | (s, some b) =>
      let bad : Bad := ⟨tyUncorr, 2, b⟩
      let hit (x : Nat × Nat) : Bool := (lineNos x.1 x.2).contains l
      let s := s.carts.foldl (fun s (id, c) =>
        match waitingSeg c with
        | none => s
        | some (i, places) => if places.any hit then segUncorr s id ((c.cseq + i) % 2 ^ 32) bad else s) s
      let gone := s.loft.waiting.filter fun x => hit (reqPlace s x.2.1, max 1 (reqLen x.2.1))
      let s := mapLoft s fun lo => { lo with waiting := lo.waiting.filter fun x => !gone.contains x }
      let s := gone.foldl (fun s x => creditBack (inUncorr s x.2.1 bad) x.1 x.2.1) s
      match roundOn s l with
      | none => settle s
      | some r =>
        let s := r.held.foldl noteApplied (stopConsumer s false bad 0)
        settle (mapLoft s fun lo => { lo with rounds := adel lo.rounds l })
    | (s, none) =>
      let s := if (lineOf s l).isSome || objStreams s l then s else landLine s l e.way
      settle (drainRound 65 s l)

def execFillComplete (line : Nat) (s : State) : Host.Outcome State Fault Refusal := finish s (fillComplete s line)

/-- The return of a contribution to another device has reached this one: it goes again on the Best-effort lane with its
sequence number (R308). -/
def resendRemote (s : State) (id seq : Nat) : State :=
  match cart s id with
  | none => s
  | some c =>
    let i := seqDist c.cseq seq
    if c.op ≠ 2 || landsHere s c || c.segs[i]? ≠ some .left then s
    else
      match readFor s seq (gOffset c.src + 512 * i) (segLen c i) with
      | (s, .error b) => segUncorr s id seq b
      | (s, .ok bs) =>
        routeOut s { mkPacket s (gDevice c.dst) vlBest opReduce with
          cartid := id, cseq := seq, addr := gOffset c.dst + 512 * i, dtype := c.dtype, rop := c.rop, len := bs.length
          payload := bs, last := decide (i + 1 = c.segs.length) }

def execContributionResend (cartid seq : Nat) (s : State) : Host.Outcome State Fault Refusal :=
  finish s (settle (resendRemote (contribResend s cartid seq) cartid seq))

def execRoundClose (line : Nat) (s : State) : Host.Outcome State Fault Refusal := finish s (settle (roundClose s line))

/-! ## Transit (R431, R438) -/

/-- The trailer check of a packet fails after forwarding has begun: what has gone on ends as a STOMP packet, and the packet
itself counts for nothing (R412, R423, R424, R426, R431). -/
def stompOn (s : State) (p : Nat) (k : Packet) : State :=
  if 24 ≤ p then s
  else if portState s p = psRefused then linkStranger s p
  else if !portUp s p then s
  else if k.hcrc ≠ hcrcOf k then discard (countFault s p .badHcrc) p
  else
    let s := match linkFault s p k with
      | some f => countFault s p f
      | none => s
    if k.pkey ≠ fld s Reg.FAB_PKEY Fld.FAB_PKEY_PKEY then discard (bump s Reg.FAB_BADKEY 1) p
    else if !laneOk k.op k.vl then discard (bump s Reg.FAB_BADOP 1) p
    else
      match routeOf s k.dst with
      | some q =>
        discard (if q < 24 && linkClear s q && mayStart s q k && k.ttl ≠ 0 then transmit s q { k with ttl := k.ttl - 1 } true
          else s) p
      | none => discard s p

/-- TRANSIT_PACKET (R431); `bad` when the trailer check fails after forwarding has begun. -/
def transit (s : State) (p : Nat) (k : Packet) (bad : Bool) : State :=
  if routeOf s k.dst = some 30 then s
  else if bad then stompOn s p k
  else
    match arrive s p k with
    | (s, none) => s
    | (s, some k) => routeIn s p k fun _ s => s

def execTransitPacket (p : Nat) (pkt : Packet) (bad : Bool) (s : State) : Host.Outcome State Fault Refusal :=
  finish s (transit s p pkt bad)

/-- RESERVED_OP_PACKET (R426): discarded and counted by the link. -/
def reservedOp (s : State) (p : Nat) (k : Packet) : State := if laneOk k.op k.vl then s else (arrive s p k).1

def execReservedOpPacket (p : Nat) (pkt : Packet) (s : State) : Host.Outcome State Fault Refusal :=
  finish s (reservedOp s p pkt)

/-! ## Wavelengths and lanes (R414, R415) -/

def lanesFailed (s : State) (p : Nat) : Nat := fld s (Reg.FAB_LANES p) Fld.FAB_LANES_FAILED

def spareLane (s : State) (p : Nat) : Nat := fld s (Reg.FAB_LANES p) Fld.FAB_LANES_SPARELANE

def failLane (s : State) (p lane : Nat) : State :=
  setFld s (Reg.FAB_LANES p) Fld.FAB_LANES_FAILED (lanesFailed s p ||| 2 ^ lane)

/-- The lane that the spare covers or is about to cover. -/
def coveredLane (s : State) (p : Nat) : Option Nat :=
  if bitN (lanesFailed s p) 8 then none
  else if spareLane s p < 8 then some (spareLane s p)
  else (((port s p).moving.map (·.1)) <|> (port s p).asked.head?)

/-- The logical lanes that nothing covers: lane k has failed and is not on a sound spare, nor about to move there. -/
def uncovered (s : State) (p : Nat) : List Nat :=
  let f := lanesFailed s p
  (List.range 8).filter fun k => bitN f k && coveredLane s p ≠ some k

/-- Half width, or down when both halves hold a failed lane (R415). -/
def narrowPort (s : State) (p : Nat) : State :=
  let u := uncovered s p
  if u.isEmpty then s
  else if u.any (· < 4) && u.any (4 ≤ ·) then linkDown s p
  else
    let s := setFld s (Reg.FAB_PSTAT p) Fld.FAB_PSTAT_HALF 1
    raise (repairTaken s 5 repHalf p (u.headD 0) 0) Reg.FAB_INTSTAT Fld.FAB_INTSTAT_FAILOVER.bit

/-- WAVELENGTH_FAIL (R414, R415): the spare is asked for, or the port narrows. -/
def wavelengthFail (s : State) (p lane : Nat) : State :=
  if 24 ≤ p || (if isOptical p then 8 < lane else 8 ≤ lane) || bitN (lanesFailed s p) lane then s
  else if lane = 8 then narrowPort (mapPort (failLane s p 8) p fun x => { x with moving := none, asked := [] }) p
  else if isOptical p && spareLane s p = 15 && !(bitN (lanesFailed s p) 8) && (coveredLane s p).isNone then
    sendLinkctl (mapPort (failLane s p lane) p fun x => { x with asked := [lane] }) p (.failover lane)
  else narrowPort (failLane s p lane) p

def execWavelengthFail (p lane : Nat) (s : State) : Host.Outcome State Fault Refusal := finish s (wavelengthFail s p lane)

/-- LINKCTL_FAILOVER (R414): the partner asks, and it is acknowledged; or it acknowledges. The move waits for the next
tick. -/
def linkctlFailover (p lane : Nat) (ack : Bool) (s : State) : State :=
  if ack then
    if (port s p).asked = [lane] then mapPort s p fun x => { x with asked := [], moving := some (lane, false) } else s
  else if isOptical p && lane < 8 && spareLane s p = 15 && !(bitN (lanesFailed s p) 8) then
    sendLinkctl (mapPort s p fun x => { x with asked := [], moving := some (lane, false) }) p (.failoverAck lane)
  else s

def execLinkctlFailover (p : Nat) (m : Told (Nat × Bool)) (s : State) : Host.Outcome State Fault Refusal :=
  finish s (recvLocal opLinkctl p m.pkt (fun _ s => linkctlFailover p m.text.1 m.text.2 s) s)

/-- The first tick after an acknowledgement has come (R414). -/
def dueMoves (s : State) : State :=
  { s with fab := { s.fab with ports := s.fab.ports.map fun (p, x) =>
      (p, { x with moving := x.moving.map fun m => (m.1, true) }) } }

/-- LANE_FAILOVER (R414): at the tick both ends move the lane onto λ8; packets in flight are replayed. -/
def laneFailover (s : State) (p : Nat) : State :=
  match (port s p).moving with
  | some (lane, true) =>
    let s := mapPort s p fun x => { x with moving := none, again := x.replay }
    let s := setFld (failLane s p lane) (Reg.FAB_LANES p) Fld.FAB_LANES_SPARELANE lane
    let s := setFld s (Reg.FAB_PSTAT p) Fld.FAB_PSTAT_SPARE 1
    raise (repairTaken s 5 repWave p lane 0) Reg.FAB_INTSTAT Fld.FAB_INTSTAT_FAILOVER.bit
  | _ => s

def execLaneFailover (p : Nat) (s : State) : Host.Outcome State Fault Refusal := finish s (laneFailover s p)

/-! ## Link events -/

/-- LINK_PACKET_DISCARD (R412, R421); the fourth uncorrectable codeword on a wavelength of an optical port in a
housekeeping round declares it failed (R414). -/
def linkDiscard (s : State) (p : Nat) (f : LinkFault) : State :=
  if !portUp s p then s
  else
    let s := discard (countFault s p f) p
    match f with
    | .uncorrectable lane =>
      if isOptical p && kget (fun _ => 0) (port s p).badRound lane = 4 then wavelengthFail s p lane else s
    | _ => s

def execLinkPacketDiscard (p : Nat) (f : LinkFault) (s : State) : Host.Outcome State Fault Refusal :=
  finish s (linkDiscard s p f)

/-- A bare trailer comes in on a link that is up. -/
def takeBare (s : State) (p : Nat) (tr : Trailer) : State :=
  if !portUp s p then s
  else
    let s := countFec s p tr
    if tr.lseq ≠ bareLseq || tr.crc ≠ bareCrc tr then bump s (Reg.FAB_CRCERR p) 1 else takeTrailer s p tr

/-- BARE_TRAILER (R410): LACK, credits and NAK only. -/
def execBareTrailer (p : Nat) (tr : Trailer) (s : State) : Host.Outcome State Fault Refusal := finish s (takeBare s p tr)

/-- NAK (R412): every unacknowledged packet is to be sent again from LACK. The trailer is a bare one with NAK set. -/
def nak (s : State) (p : Nat) (tr : Trailer) : State := if tr.nak then takeBare s p tr else s

def execNak (p : Nat) (tr : Trailer) (s : State) : Host.Outcome State Fault Refusal := finish s (nak s p tr)

/-- PORT_RETRAIN (R413): after 16 consecutive NAKs for one LSEQ. -/
def portRetrain (s : State) (p : Nat) : State :=
  if portUp s p && 16 ≤ (port s p).naks then retrain (mapPort s p fun x => { x with naks := 0 }) p else s

def execPortRetrain (p : Nat) (s : State) : Host.Outcome State Fault Refusal := finish s (portRetrain s p)

/-- PORT_LOCK_LOSS (R416). -/
def portLockLoss (s : State) (p : Nat) : State :=
  if p < 24 && portState s p ≠ psDown then retrain s p else s

def execPortLockLoss (p : Nat) (s : State) : Host.Outcome State Fault Refusal := finish s (portLockLoss s p)

end Sys2Proof.Machine
end

