-- ==== Sys2Proof/Machine/Trees.lean ====
section
/-! DEFINITION. Reduction trees (R443 to R447) and adds to the device counters that gate them (R145, R445). -/

namespace Sys2Proof.Machine

/-- An entry of the tree table (R443). -/
structure Tree where
  mode : Nat
  dtype : Nat
  rop : Nat
  nchild : Nat
  gatecnt : Nat
  myidx : Nat
  gateval : Int
  buf : Nat
  scratch : Nat
  len : Nat
  parent : Nat
  sig : Nat
  child : List Nat
  rsv : Bool
  deriving DecidableEq, Repr

def treeOf (bs : List Byte) : Tree :=
  let w := leAt bs 0 4
  { mode := bitsN w 31 30, dtype := bitsN w 29 26, rop := bitsN w 25 22, nchild := bitsN w 21 18, gatecnt := bitsN w 17 8
    myidx := bitsN w 7 4, gateval := sextN 32 (leAt bs 4 4), buf := leAt bs 8 5, scratch := leAt bs 13 5
    len := leAt bs 18 4, parent := leAt bs 22 3, sig := leAt bs 28 4
    child := (List.range 10).map fun i => leAt bs (32 + 3 * i) 3
    rsv := bitsN w 3 0 ≠ 0 || leAt bs 25 3 ≠ 0 || leAt bs 62 2 ≠ 0 || bitsN (leAt bs 22 3) 23 18 ≠ 0
      || (List.range 10).any (fun i => bitsN (leAt bs (32 + 3 * i) 3) 23 18 ≠ 0) }

def treeEnt (s : State) (t : Nat) : Tree := treeOf (peek s (reg64 s Reg.FAB_TTAB_LO + 64 * t) 64)

/-- The merge units read entry t before they act on it (R496). -/
def withTree (s : State) (t : Nat) (go : State → State) : State := guardRead s (reg64 s Reg.FAB_TTAB_LO + 64 * t) 64 go

def treeUsed (s : State) (t : Nat) : Bool := t < fld s Reg.FAB_TCOUNT Fld.FAB_TCOUNT_COUNT && (treeEnt s t).mode ≠ 0

def treeSt (s : State) (t : Nat) : TreeSt := kget (fun _ => {}) s.fab.trees t

def setTree (s : State) (t : Nat) (x : TreeSt) : State :=
  { s with fab := { s.fab with trees := kset (fun _ => {}) s.fab.trees t x } }

def Tree.segs (e : Tree) : Nat := cdiv e.len 512
def Tree.segLen (e : Tree) (i : Nat) : Nat := min 512 (e.len - 512 * i)
def Tree.isRoot (s : State) (e : Tree) : Bool := e.parent = deviceId s

/-- Fold the children's segments onto the buffer's, in child order (R444). -/
def combineData (s : State) (e : Tree) (i : Nat) : List Nat → List Byte → Ev → State × Except Bad (List Byte × Ev)
  | [], r, ev => (s, .ok (r, ev))
  | c :: t, r, ev =>
    match load s (e.scratch + c * e.len + 512 * i) (e.segLen i) with
    | (s, .error b) => (s, .error b)
    | (s, .ok x) =>
      let w := dtypeSize e.dtype
      let q := elemOps (strictMode s) e.dtype e.rop w r x (r.length / w)
      combineData s e i t q.1 (evAdd ev q.2)

/-- Combine segment i of tree t: buf[i] takes the result, and the landed segments are used up (R444). -/
def combineSeg (s : State) (t i : Nat) : State :=
  let e := treeEnt s t
  match load s (e.buf + 512 * i) (e.segLen i) with
  | (s, .error b) => stopConsumer s false b 0
  | (s, .ok r) =>
    match combineData s e i (List.range e.nchild) r {} with
    | (s, .error b) => stopConsumer s false b 0
    | (s, .ok (r, ev)) =>
      match storeSeg s (e.buf + 512 * i) r with
      | (s, some b) => stopConsumer s false b 0
      | (s, none) =>
        let x := treeSt s t
        setTree (numEvB s (Reg.MIL_NUMOVF (t % 8)) ev) t
          { x with combined := x.combined ++ [i], landed := x.landed.filter fun y => y.2 ≠ i }

/-- Segment i may be combined now. -/
def combineReady (s : State) (t i : Nat) : Bool :=
  let e := treeEnt s t
  let x := treeSt s t
  x.run && i < e.segs && !x.combined.contains i && (List.range e.nchild).all fun c => x.landed.contains (c, i)

/-- The result of segment i is in BUF here: the root has combined it, or a down segment brought it (R445). -/
def downReady (s : State) (t i : Nat) : Bool :=
  if (treeEnt s t).isRoot s then (treeSt s t).combined.contains i else (treeSt s t).down.contains i

/-- Every segment the run has to bring about at this member is done (R446). -/
def runOver (s : State) (t : Nat) : Bool :=
  let e := treeEnt s t
  let x := treeSt s t
  x.run && (List.range e.segs).all fun i =>
    if e.mode = 1 then (if e.isRoot s then x.combined.contains i else x.upSent.contains i)
    else downReady s t i && (e.isRoot s || x.upSent.contains i)
      && (List.range e.nchild).all fun c => x.downSent.contains (c, i)

/-- TREE_RUN_COMPLETE (R446): the member signals SIG. -/
def runCheck (s : State) (t : Nat) : State :=
  if runOver s t then
    let x := treeSt s t
    let s := setTree s t { x with run := false, combined := [], upSent := [], down := [], downSent := [] }
    sendField { s with frm := { s.frm with treesDone := s.frm.treesDone ++ [t] } } (treeEnt s t).sig
  else s

/-- Combine every segment that is ready, then see whether the run is over. -/
def treeGo (s : State) (t : Nat) : State :=
  runCheck ((List.range (treeEnt s t).segs).foldl (fun s i => if combineReady s t i then combineSeg s t i else s) s) t

/-- A run may begin: the gate has been below its value since the last run began and has reached it (R445). -/
def gateOpen (s : State) (e : Tree) : Bool := e.gateval ≤ sextN 64 (counter s e.gatecnt)

/-- TREE_RUN_START (R445). -/
def treeRunStart (s : State) (t : Nat) : State :=
  let x := treeSt s t
  if treeUsed s t && !x.run && x.armed && gateOpen s (treeEnt s t) then
    treeGo (setTree s t { x with run := true, armed := false }) t
  else s

def execTreeRunStart (tr : Nat) (s : State) : Host.Outcome State Fault Refusal := finishWait s (if tr < fld s Reg.FAB_TCOUNT Fld.FAB_TCOUNT_COUNT then withTree s tr fun s => treeRunStart s tr else s)

/-- Add to a device counter; a gate that falls below its value may start a run again (R145, R445). -/
def addCounter (s : State) (c : Nat) (z : Int) : State :=
  let s := counterAddTo s c z
  (List.range (fld s Reg.FAB_TCOUNT Fld.FAB_TCOUNT_COUNT)).foldl (fun s t =>
    let e := treeEnt s t
    if e.mode ≠ 0 && e.gatecnt = c && !gateOpen s e then setTree s t { treeSt s t with armed := true } else s) s

/-- TREE (R428, R444 to R446): an up segment lands in SCRATCH, a down segment in BUF. -/
def takeTree (s : State) (k : Packet) : State :=
  let t := bitsN k.aux 23 18
  let down := bitN k.aux 17
  let c := bitsN k.aux 3 0
  let e := treeEnt s t
  if notReady s then refuse s k 3
  else if !treeUsed s t || (!down && e.nchild ≤ c) || e.segs ≤ k.cseq then
    raise (bump s Reg.FAB_BADOP 1) Reg.FAB_INTSTAT Fld.FAB_INTSTAT_TREEERR.bit
  else
    match storeSeg s (if down then e.buf + 512 * k.cseq else e.scratch + c * e.len + 512 * k.cseq) k.payload with
    | (s, some b) => stopConsumer s false b k.cseq
    | (s, none) =>
      let x := treeSt s t
      if down then runCheck (setTree s t { x with down := x.down ++ [k.cseq] }) t
      else treeGo (setTree s t { x with landed := (x.landed.erase (c, k.cseq)) ++ [(c, k.cseq)] }) t

/-- A TREE packet of a tree in use meets its entry. -/
def treePacket (k : Packet) (s : State) : State :=
  let t := bitsN k.aux 23 18
  if t < fld s Reg.FAB_TCOUNT Fld.FAB_TCOUNT_COUNT then withTree s t fun s => takeTree s k else takeTree s k

def execTree (p : Nat) (pkt : Packet) (s : State) : Host.Outcome State Fault Refusal :=
  finishWait s (recvNow s p opTree pkt treePacket)

end Sys2Proof.Machine
end

