-- ==== Sys2Proof/Machine/FlagTree.lean ====
section
/-! DEFINITION. Flags of the partition: slip, Blight and the partition barriers, on the fabric flag tree (R448 to R451)
and in the flag block of the Floor (R471 to R474); and the adds to device counters that partition barriers and tree gates
watch (R145). -/

namespace Sys2Proof.Machine

def mapFlags (s : State) (f : FlagSt → FlagSt) : State := { s with fab := { s.fab with flags := f s.fab.flags } }

/-! ## The role of this device (R448) -/

def isGateway (s : State) : Bool := fld s Reg.FAB_FLAG Fld.FAB_FLAG_GATEWAY = 1
def isRootGw (s : State) : Bool := isGateway s && fld s Reg.FAB_FLAG Fld.FAB_FLAG_ROOT = 1
def parentPort (s : State) : Nat := fld s Reg.FAB_FLAG Fld.FAB_FLAG_PARENT
def childPorts (s : State) : List Nat := if isGateway s then bitList 24 0 (fld s Reg.FAB_FLAG Fld.FAB_FLAG_CHILDREN) else []

/-! ## FLAG packets (R449) -/

def fkSlip : Nat := 0
def fkBlight : Nat := 1
def fkArrive : Nat := 2
def fkRelease : Nat := 3

/-- Send an instance on a port in a direction, once (R450). -/
def sendFlag (kind key : Nat) (down : Bool) (s : State) (p : Nat) : State :=
  if 24 ≤ p || s.fab.flags.sent.contains (kind, key, down, p) then s
  else
    let k := { mkPacket s (peerOf s p) vlCtrl opFlag with
      len := 16, last := true
      payload := leBytes 1 kind ++ leBytes 1 (if down then 1 else 0) ++ leBytes 6 0 ++ leBytes 8 key }
    mapFlags (enqueue s p k) fun f => { f with sent := f.sent ++ [(kind, key, down, p)] }

/-- Send what this gateway has learned and not sent (R450): up until it is the root, and down on every child port. -/
def pumpFlags (s : State) : State :=
  if !isGateway s then s
  else
    let ups := if isRootGw s then [] else s.fab.flags.known
    let downs := if isRootGw s then s.fab.flags.known ++ s.fab.flags.downs else s.fab.flags.downs
    let s := ups.foldl (fun s i => sendFlag i.1 i.2 false s (parentPort s)) s
    downs.foldl (fun s i => (childPorts s).foldl (sendFlag i.1 i.2 true) s) s

/-- An instance is known here. -/
def knows (s : State) (i : Nat × Nat) : Bool := s.fab.flags.known.contains i || s.fab.flags.downs.contains i

/-- Learn an instance from below: raised here, seen on the Floor, or delivered by a child port. -/
def learnUp (s : State) (i : Nat × Nat) : State :=
  pumpFlags (if knows s i then s else mapFlags s fun f => { f with known := f.known ++ [i] })

/-- Learn an instance from the parent. -/
def learnDown (s : State) (i : Nat × Nat) : State :=
  pumpFlags (if s.fab.flags.downs.contains i then s else mapFlags s fun f => { f with downs := f.downs ++ [i] })

/-! ## Slip (R50 to R56, R473) -/

/-- A slip is learnt after the next program frame began (R56). -/
def lateSlip (s : State) : State :=
  let s := raise s Reg.FRM_INTSTAT Fld.FRM_INTSTAT_LATESLIP.bit
  let s := raiseBlight s srcLateSlip
  endJob { s with frm := { s.frm with lateSlip := true } } 10 0

/-- What this device does about a slip of program frame P that it did not know of. -/
def noteSlip (s : State) (p : Nat) : State :=
  if p = pindex s then { s with frm := { s.frm with slipFlag := true } }
  else if p < pindex s then lateSlip s else s

/-! ## Blight (R393, R397, R472) -/

/-- A Blight arrives after its step has resolved (R397). -/
def lateBlight (s : State) : State :=
  endJob (preemptAll (raise s Reg.MIL_INTSTAT Fld.MIL_INTSTAT_LATEBLIGHT.bit)) 9 0

/-- The Blight of a step that another member raised: heard while the step is open, kept when the step has yet to open
here, and late when the step has resolved (R397). -/
def noteBlight (s : State) (start : Nat) : State :=
  if s.step.opened.any fun x => x.start = start then
    syncDry { s with step := { s.step with
      opened := s.step.opened.map fun x => if x.start = start then { x with heard := true } else x } }
  else if pindex s ≤ start then { s with step := { s.step with early := s.step.early ++ [start] } }
  else lateBlight s

/-- Steps in which Blight was raised here join the instances known. -/
def learnOwn (s : State) : State :=
  (s.step.opened.filter (·.bad)).foldl (fun s x => learnUp s (fkBlight, x.start)) s

/-! ## Partition barriers (R451, R474) -/

def pbar (s : State) (b : Nat) (f : Fld) : Nat := fld s (Reg.FAB_PBAR b) f
def pbarOn (s : State) (b : Nat) : Bool := b < 8 && pbar s b Fld.FAB_PBAR_VALID = 1

/-- Releases of a partition barrier since job load. -/
def pbarGen (s : State) (b : Nat) : Nat := kget (fun _ => 0) s.fab.flags.gens b

/-- This member has arrived in the current generation. -/
def pbarMine (s : State) (b : Nat) : Bool := s.fab.flags.mine.contains (b, pbarGen s b)

/-- ARRCNT has reached g + 1: this member arrives (R451). -/
def pbarCheck (s : State) (b : Nat) : State :=
  let g := pbarGen s b
  if pbarOn s b && !pbarMine s b && decide ((g : Int) + 1 ≤ sextN 64 (counter s (pbar s b Fld.FAB_PBAR_ARRCNT))) then
    mapFlags s fun f => { f with mine := f.mine ++ [(b, g)] }
  else s

def pbarKey (b g : Nat) : Nat := b + 256 * g

/-- RELEASE of generation g at this member (R451): SEM is signalled once and the generation advances; a gateway passes
it on and shows REL_b in the next Floor frame. -/
def pbarRelease (s : State) (b : Nat) : State :=
  let g := pbarGen s b
  let s := sendSignal s 0 (pbar s b Fld.FAB_PBAR_SEM) 1
  let s := mapFlags s fun f => { f with gens := kset (fun _ => 0) f.gens b (g + 1) }
  let s := pbarCheck s b
  if isGateway s then
    let s := mapFlags s fun f => { f with rel := f.rel ++ [(b, false)] }
    (childPorts s).foldl (sendFlag fkRelease (pbarKey b g) true) s
  else s

/-- Every child port has delivered ARRIVE and the rack has arrived: a gateway sends it up, the root releases. -/
def pbarGo (s : State) (b : Nat) : State :=
  let g := pbarGen s b
  if isGateway s && pbarOn s b && s.fab.flags.rack.contains (b, g)
      && (childPorts s).all fun p => s.fab.flags.came.contains (b, g, p) then
    if isRootGw s then pbarRelease s b else sendFlag fkArrive (pbarKey b g) false s (parentPort s)
  else s

/-- The rack's flag slot shows that every member has arrived. -/
def rackArrived (s : State) (b : Nat) : State :=
  let g := pbarGen s b
  if s.fab.flags.rack.contains (b, g) then s
  else pbarGo (mapFlags s fun f => { f with rack := f.rack ++ [(b, g)] }) b

/-! ## Counters -/

/-- Add to a device counter: tree gates, partition barriers and the Mill take note (R145, R403, R445, R451). -/
def addCnt (s : State) (c : Nat) (z : Int) : State :=
  syncWaits ((List.range 8).foldl (fun s b =>
    if pbarOn s b && pbar s b Fld.FAB_PBAR_ARRCNT = c then pbarCheck s b else s) (addCounter s c z))

/-- Set a device counter. -/
def setCnt (s : State) (c v : Nat) : State := addCnt s c ((v : Int) - counter s c)

/-- A COUNTER add (R145). -/
def counterAddOf (s : State) (b : Nat) (i : Item) : State :=
  if bitN i.w1 15 then s else advance (addCnt s (bitsN i.w1 9 0) (sextN 32 i.w2)) b

def execCounterAdd (n : Nat) (s : State) : Host.Outcome State Fault Refusal := control s n 14 counterAddOf

/-! ## FLAG packets received -/

def flagKind (k : Packet) : Nat := leAt k.payload 0 1
def flagDown (k : Packet) : Bool := leAt k.payload 1 1 = 1
def flagKey (k : Packet) : Nat := leAt k.payload 8 8

/-- A FLAG packet of one kind; up instances count from child ports, down instances from the parent port. -/
def takeFlag (kind p : Nat) (k : Packet) (s : State) : State :=
  let ok := if flagDown k then parentPort s = p else (childPorts s).contains p
  if flagKind k ≠ kind || !isGateway s || !ok then s
  else
    let i := (kind, flagKey k)
    if kind = fkSlip || kind = fkBlight then
      let new := !knows s i
      let s := if flagDown k then learnDown s i else learnUp s i
      if !new then s else if kind = fkSlip then noteSlip s (flagKey k) else noteBlight s (flagKey k)
    else
      let b := flagKey k % 256
      if !pbarOn s b || flagKey k / 256 ≠ pbarGen s b then s
      else if kind = fkArrive then
        if flagDown k then s
        else pbarGo (mapFlags s fun f => { f with came := f.came ++ [(b, pbarGen s b, p)] }) b
      else if flagDown k then pbarRelease s b else s

def recvFlag (kind p : Nat) (k : Packet) (s : State) : Host.Outcome State Fault Refusal :=
  finish s (recvHop opFlag p k (takeFlag kind p) s)

/-- FLAG_SLIP (R450). -/
def execFlagSlip (p : Nat) (pkt : Packet) (s : State) : Host.Outcome State Fault Refusal := recvFlag fkSlip p pkt s
/-- FLAG_BLIGHT (R450). -/
def execFlagBlight (p : Nat) (pkt : Packet) (s : State) : Host.Outcome State Fault Refusal := recvFlag fkBlight p pkt s
/-- FLAG_ARRIVE (R451). -/
def execFlagArrive (p : Nat) (pkt : Packet) (s : State) : Host.Outcome State Fault Refusal := recvFlag fkArrive p pkt s
/-- FLAG_RELEASE (R451). -/
def execFlagRelease (p : Nat) (pkt : Packet) (s : State) : Host.Outcome State Fault Refusal := recvFlag fkRelease p pkt s

/-! ## The flag block of the Floor (R471 to R474) -/

/-- The flag slots this member flashes: Blight of its open steps, WAIT of the barriers it has not arrived in, and the REL
flags of this frame. -/
def flashes (s : State) : List Nat :=
  ((List.range 2).filter fun v => s.step.opened.any fun x => x.bad && x.no % 2 = v)
    ++ ((List.range 8).filter fun b => pbarOn s b && !pbarMine s b).map (· + 2)
    ++ ((List.range 8).filter fun b => s.fab.flags.rel.contains (b, true)).map (· + 10)

/-- What a member takes from one barrier's flags. -/
def floorBarrier (seen : Nat) (s : State) (b : Nat) : State :=
  if !pbarOn s b then s
  else if isGateway s then
    if !(bitN seen (b + 2)) && pbarMine s b && !(s.fab.flags.rel.any fun x => x.1 = b) then rackArrived s b else s
  else if bitN seen (b + 10) then pbarRelease s b else s

/-- A BLIGHT flag whose parity can only be that of the step resolved last, which was committed here (R397, R471). -/
def floorLate (s : State) (seen : Nat) : Bool :=
  let v := reg s Reg.MIL_LASTB
  s.step.opened.isEmpty && Fld.MIL_LASTB_VALID.get v = 1 && Fld.MIL_LASTB_DISCARD.get v = 0
    && bitN seen ((s.step.count + 1) % 2)

/-- FLOOR_FLAG_BLOCK (R471 to R474): bit i of `seen` says that flag slot i holds light. -/
def floorFlagBlock (s : State) (seen : Nat) : State :=
  let s := (s.step.opened.filter fun x => bitN seen (x.no % 2)).foldl (fun s x =>
    let i := (fkBlight, x.start)
    let new := !knows s i && !x.bad
    let s := learnUp s i
    if new then noteBlight s x.start else s) s
  let s := if floorLate s seen then lateBlight s else s
  (List.range 8).foldl (floorBarrier seen) s

def execFloorFlagBlock (seen : Nat) (s : State) : Host.Outcome State Fault Refusal := finish s (floorFlagBlock s seen)

/-- This member flashes in the slip flag slots of the running frame: it raised the flag at C, or as a gateway it has learnt
of the slip from the fabric, or as the root it has learnt of it at all (R450, R473). -/
def slipFlashes (s : State) : Bool :=
  let i := (fkSlip, pindex s)
  fld s Reg.FRM_STATUS Fld.FRM_STATUS_JOINED = 1 && s.floor.leaving.isNone
    && (s.frm.slipOwn || (isGateway s && s.fab.flags.downs.contains i) || (isRootGw s && s.fab.flags.known.contains i))

/-- SLIP_FLAG_SLOT (R463, R473): this member's flash in slip flag slot j, and the light it sees there: light in any of them
sets the partition's slip flag for the frame. -/
def slipFlagSlot (s : State) (j : Nat) (light : Bool) : State :=
  if s.frm.win ≤ j + 7 then s
  else
    let s := if slipFlashes s then { s with wire := s.wire ++ [.slipFlash j] } else s
    if light && !s.frm.slipFlag then noteSlip (learnUp s (fkSlip, pindex s)) (pindex s) else s

def execSlipFlagSlot (j : Nat) (light : Bool) (s : State) : Host.Outcome State Fault Refusal :=
  finish s (slipFlagSlot s j light)

end Sys2Proof.Machine
end

