-- ==== Sys2Proof/Machine/Cellar.lean ====
section
/-! DEFINITION. The Cellar: records, stores in the order accepted (R545 to R548), and the signing indices that a Cellar
record reserves (R588, R589). -/

namespace Sys2Proof.Machine

/-- Store kinds (R546, R575, R585, R589). -/
def ckSettings : Nat := 1
def ckRepair : Nat := 2
def ckStart : Nat := 3
def ckSecret : Nat := 4
def ckLife : Nat := 5
def ckRollback : Nat := 6
def ckSignres : Nat := 7
def ckMigrate : Nat := 8

/-- The valid copy of a record: the one with the higher SEQ whose CRC holds (R545); true when it is copy B. -/
def CellRec.valid (r : CellRec) : Option (CellCopy × Bool) :=
  let a := r.a.filter (·.ok)
  let b := r.b.filter (·.ok)
  match a, b with
  | some x, some y => if x.seq < y.seq then some (y, true) else some (x, false)
  | some x, none => some (x, false)
  | none, some y => some (y, true)
  | none, none => none

def cellRec (s : State) (kind : Nat) : CellRec := kget (fun _ => {}) s.cellar.recs kind

/-- The valid copy of a kind. -/
def cellCopy (s : State) (kind : Nat) : Option CellCopy := (cellRec s kind).valid.map (·.1)

/-- The body of a kind's valid copy; empty when there is none. -/
def cellBody (s : State) (kind : Nat) : List Byte := ((cellCopy s kind).map (·.body)).getD []

/-- The body of a record as the running image reads it: one of a higher VERSION is absent while MIGRATE is empty (R584). -/
def imageBody (s : State) (kind : Nat) : List Byte :=
  match cellCopy s kind, s.fwm.run with
  | some c, some i => if i.clrver < c.version && (cellBody s ckMigrate).isEmpty then [] else c.body
  | some c, none => c.body
  | none, _ => []

/-- The VERSION the running image stores a kind with (R584); without one, that of the record as it is. -/
def cellVersion (s : State) (kind : Nat) : Nat :=
  if kind = ckSettings || kind = ckStart then 1
  else
    match s.fwm.run with
    | some i => i.clrver
    | none => ((cellCopy s kind).map (·.version)).getD 1

/-- Write the copy that is not valid (R547). -/
def CellRec.write (r : CellRec) (version : Nat) (body : List Byte) : CellRec :=
  match r.valid with
  | some (x, true) => { r with a := some ⟨version, x.seq + 1, body, true⟩ }
  | some (x, false) => { r with b := some ⟨version, x.seq + 1, body, true⟩ }
  | none => { r with a := some ⟨version, 1, body, true⟩ }

/-- A store is accepted (R547). -/
def queueStore (s : State) (r : StoreReq) : State :=
  { s with cellar := { s.cellar with stores := s.cellar.stores ++ [r] } }

def deviceStore (s : State) (kind : Nat) (body : List Byte) : State :=
  queueStore s { kind := kind, version := cellVersion s kind, body := body }

/-! ## Signing (R589) -/

def sigNext (s : State) : Nat := reg64 s Reg.FWM_SIGNEXT_LO
def sigRes (s : State) : Nat := reg64 s Reg.FWM_SIGRES_LO

/-- Release a signature with the next index of the block. -/
def takeIndex (s : State) : State × Nat :=
  (setReg64 s Reg.FWM_SIGNEXT_LO (sigNext s + 1), sigNext s)

/-- Reserve the next block of 256, unless the store is already asked for. -/
def reserveBlock (s : State) : State :=
  if s.cellar.stores.any fun r => r.kind = ckSignres then s
  else deviceStore s ckSignres (leBytes 8 (sigRes s + 256))

/-- A PROOF that has its index leaves on its port. -/
def releaseProof (s : State) (p : Nat) (msg : List Byte) : State :=
  let (s, i) := takeIndex s
  (msgPackets s p opAdmit (Config.proofBytes (Config.identitySign i msg))).foldl (fun s k => sendLocal false s p k) s

/-- Send a PROOF when an index is at hand, else after the block is reserved. -/
def signProof (s : State) (p : Nat) (msg : List Byte) : State :=
  if sigNext s < sigRes s then releaseProof s p msg
  else reserveBlock { s with signs := s.signs ++ [(p, msg)] }

/-- SHAKE256("IX4 MEASURE" || ROM digest || BODYHASH) of an image (R591). -/
def measureOf (hash : List Byte) : List Byte :=
  shake256 (ascii "IX4 MEASURE" ++ Config.romDigest ++ hash) 32

def measurement (s : State) : List Byte := measureOf ((s.fwm.run.map (·.hash)).getD [])

/-- Take random draw number `free`. -/
def drawNat (s : State) : State × Nat := ({ s with free := s.free + 1 }, Config.draw s.free)

end Sys2Proof.Machine
end

