-- ==== Sys2Proof/Machine/Admission.lean ====
section
/-! DEFINITION. Admission of a fabric port's partner (R417 to R423). -/

namespace Sys2Proof.Machine

/-- Reasons of R423. -/
def arNone : Nat := 0
def arNotready : Nat := 1
def arBadcert : Nat := 2
def arBadsig : Nat := 3
def arWrongpeer : Nat := 4
def arPkey : Nat := 5
def arFwmajor : Nat := 6
def arMeasure : Nat := 7
def arEnc : Nat := 8
def arConfirm : Nat := 9

def isDormant (s : State) : Bool := rstState s = stDormant
def isStart (s : State) : Bool := rstState s = 0

/-- The device answers NOTREADY: before Ready, before its Seed is read and it is ranged, and once it has begun an
announced exit (R417, R506, R519). -/
def admitBlocked (s : State) : Bool :=
  isStart s || isDormant s || !s.seed.read || !s.floor.ranged || fld s Reg.INT_STATUS Fld.INT_STATUS_EXITING = 1

/-- From the beacon that joins it the device answers admission (R484). -/
def admitOpen (s : State) : Bool := !admitBlocked s && fld s Reg.FRM_STATUS Fld.FRM_STATUS_JOINED = 1

/-- The partition link secret (R420, R546). -/
def linkSecret (s : State) : List Byte := imageBody s ckSecret

/-- The HELLO this device sends with a nonce (R418). -/
def ownHello (s : State) (nonce : List Byte) : Hello :=
  { device := deviceId s, pkey := fld s Reg.FAB_PKEY Fld.FAB_PKEY_PKEY
    major := fld s Reg.FWM_VERSION Fld.FWM_VERSION_MAJOR, enc := fld s Reg.FAB_CTRL Fld.FAB_CTRL_ENC = 1, nonce := nonce
    idkey := Config.identityKey, cert := s.seed.cert, certSig := s.seed.certSig, digest := measurement s }

def setAdm (s : State) (p : Nat) (f : AdmSt → AdmSt) : State := mapPort s p fun x => { x with adm := f x.adm }

/-- Send an ADMIT message (R418). -/
def sendAdmit (tagged : Bool) (s : State) (p : Nat) (msg : List Byte) : State :=
  (msgPackets s p opAdmit msg).foldl (fun s k => sendLocal tagged s p k) s

/-- An admission stops with a reason (R423). -/
def admitStop (s : State) (p reason : Nat) : State :=
  let s := setFld s (Reg.FAB_PSTAT p) Fld.FAB_PSTAT_REASON reason
  raise (setPortState s p psRefused) Reg.FAB_INTSTAT Fld.FAB_INTSTAT_ADMITFAIL.bit

/-- A check of this device fails: the partner learns why (R418, R423, R426). -/
def admitFail (s : State) (p reason : Nat) : State := admitStop (sendLinkctl s p (.reason reason)) p reason

/-- Begin steps 2 to 4 on a trained port: this device's HELLO with a fresh nonce. -/
def admitBegin (s : State) (p : Nat) : State :=
  let n := Config.nonce s.free
  let own := Config.helloBytes (ownHello s n)
  let s := setAdm { s with free := s.free + 1 } p fun a => { a with step := 1, nonce := n, own := own, peer := none }
  sendAdmit false (setPortState s p psAdmit) p own

/-- A packet of an ADMIT message: once the message is whole, a device that is not ready answers NOTREADY, and `go` is what a
ready one does with the bytes of the message and its last packet (R417, R418). -/
def onAdmit (p : Nat) (pkt : Packet) (go : List Byte → Packet → State → State) (s : State) : State :=
  recvLocal opAdmit p pkt (fun k s =>
    let msg := (port s p).adm.asm ++ k.payload
    if !k.last then setAdm s p fun a => { a with asm := msg }
    else
      let s := setAdm s p fun a => { a with asm := [] }
      if portUp s p then s
      else if admitBlocked s then sendLinkctl s p (.reason arNotready)
      else if admitOpen s then go msg k s else s) s

/-! ## Step 1 -/

/-- The lanes a port has: eight, and a spare wavelength on an optical port (R405). -/
def laneCount (p : Nat) : Nat := if isOptical p then 9 else 8

/-- Port Ej is held disabled by its fuse (R523). -/
def portDisabled (s : State) (p : Nat) : Bool := !isOptical p && bitN (fld s Reg.RST_FUSE Fld.RST_FUSE_EDIS) (p - 16)

/-- Step 1 passes: all lanes deskewed, and at least 8 of 9 wavelengths locked on an optical port. -/
def trainOk (p : Nat) (deskewed : Bool) (locked : Nat) : Bool :=
  deskewed && 8 ≤ popN (laneCount p) locked

/-- The lane map that training finds (R407, R541): the spare takes the place of one failed wavelength, so that no lane is
left uncovered and the port has its full width (R415, R418). -/
def lanesFound (s : State) (p locked : Nat) : State :=
  let failed := (2 ^ laneCount p - 1) - locked % 2 ^ laneCount p
  let lane := if isOptical p then ((List.range 8).find? (bitN failed)).getD 15 else 15
  let s := setFld s (Reg.FAB_LANES p) Fld.FAB_LANES_FAILED failed
  let s := setFld s (Reg.FAB_LANES p) Fld.FAB_LANES_SPARELANE lane
  let s := setFld s (Reg.FAB_PSTAT p) Fld.FAB_PSTAT_HALF 0
  setFld s (Reg.FAB_PSTAT p) Fld.FAB_PSTAT_SPARE (if lane = 15 then 0 else 1)

/-- TRAINING_SEQUENCE (R418, step 1). -/
def trainingSequence (s : State) (p : Nat) (deskewed : Bool) (locked : Nat) : State :=
  if 24 ≤ p || isDormant s || (rstState s = 0 && rsPhase s < 3) || portDisabled s p || !(portState s p = psDown || portState s p = psTrain) then s
  else
    let s := setPortState s p psTrain
    if !trainOk p deskewed locked then admitStop (setAdm s p fun a => { a with step := 0 }) p arNone
    else
      let s := setAdm (lanesFound s p locked) p fun a => { a with step := 1, peer := none, nonce := [], asm := [], out := [] }
      let s := setPortState s p psAdmit
      if admitOpen s then admitBegin s p else s

def execTrainingSequence (p : Nat) (deskewed : Bool) (locked : Nat) (s : State) : Host.Outcome State Fault Refusal :=
  finish s (trainingSequence s p deskewed locked)

/-! ## Step 2 -/

/-- The certificate verifies under the authority key and binds the ID and the key (R418, R419). -/
def certOk (s : State) (h : Hello) : Bool :=
  Config.xmssVerify s.seed.authKey h.cert h.certSig && leAt h.cert 0 3 % 2 ^ 18 = h.device
    && bytesAt h.cert 8 32 = shake256 h.idkey 32

/-- Why a HELLO fails, if it does: the checks of R418 in their order. -/
def helloFault (s : State) (p : Nat) (h : Hello) : Option Nat :=
  if !certOk s h then some arBadcert
  else if fld s (Reg.FAB_EXPECT p) Fld.FAB_EXPECT_VALID = 0 || fld s (Reg.FAB_EXPECT p) Fld.FAB_EXPECT_DEVICE ≠ h.device then
    some arWrongpeer
  else if h.pkey ≠ fld s Reg.FAB_PKEY Fld.FAB_PKEY_PKEY then some arPkey
  else if h.major ≠ fld s Reg.FWM_VERSION Fld.FWM_VERSION_MAJOR then some arFwmajor
  else if h.enc ≠ (fld s Reg.FAB_CTRL Fld.FAB_CTRL_ENC = 1 : Bool) then some arEnc
  else if !s.seed.digests.isEmpty && !s.seed.digests.contains h.digest then some arMeasure
  else none

/-- h of R420: the HELLO of the lower device ID comes first. -/
def sessionHash (ownId peerId : Nat) (own peer : List Byte) : List Byte :=
  shake256 (if ownId ≤ peerId then own ++ peer else peer ++ own) 32

/-- okm of R420: k_ctl, k_lohi and k_hilo in that order. -/
def sessionKeys (s : State) (h : List Byte) : List Byte := shake256 (ascii "YOCIA LINK" ++ linkSecret s ++ h) 96

/-- What the PROOF of a device signs (R418). -/
def proofMsg (h : List Byte) (id : Nat) : List Byte := ascii "YOCIA ADMIT" ++ h ++ leBytes 3 id

/-- HELLO (R418): checked, then this device's PROOF goes out. A refused port that hears a HELLO begins again. -/
def takeHello (s : State) (p : Nat) (bs : List Byte) (h : Hello) : State :=
  let s := if portState s p = psRefused || (port s p).adm.nonce.isEmpty then admitBegin s p else s
  if (port s p).adm.step ≠ 1 then s
  else
    match helloFault s p h with
    | some r => admitFail s p r
    | none =>
      let hash := sessionHash (deviceId s) h.device (port s p).adm.own bs
      let keys := sessionKeys s hash
      signProof (setAdm s p fun a => { a with step := 2, peer := some h, hash := hash, next := keys }) p
        (proofMsg hash (deviceId s))

/-- Whether a port takes ADMIT messages at all. -/
def takesAdmit (s : State) (p : Nat) : Bool := portState s p = psAdmit || portState s p = psRefused

def execHello (p : Nat) (m : Told Hello) (s : State) : Host.Outcome State Fault Refusal :=
  finish s (onAdmit p m.pkt (fun bs _ s => if takesAdmit s p then takeHello s p bs m.text else s) s)

/-! ## Steps 3 to 5 -/

/-- PROOF (R418): the partner's signature, then this device's CONFIRM, tagged with the new k_ctl. -/
def takeProof (s : State) (p : Nat) (sig : List Byte) : State :=
  match (port s p).adm.peer with
  | none => s
  | some h =>
    if (port s p).adm.step ≠ 2 || portState s p ≠ psAdmit then s
    else if !Config.xmssVerify h.idkey (proofMsg (port s p).adm.hash h.device) sig then admitFail s p arBadsig
    else sendAdmit true (setAdm s p fun a => { a with step := 3 }) p ((Config.confirmBytes (deviceId s)).take 512)

def execProof (p : Nat) (m : Told (List Byte)) (s : State) : Host.Outcome State Fault Refusal :=
  finish s (onAdmit p m.pkt (fun _ _ s => takeProof s p m.text) s)

/-- The credits of a receiver's buffers, by virtual lane (R411). -/
def fullCredit : List Nat := [4096, 2048, 2048, 256]

/-- The port of a link that comes up: with the same device and the same key, LSEQ state and replay buffer stay and both
ends resume from each other's LACK; the session's keys begin a new key phase (R411, R416, R420, R422). -/
def linkPort (x : PortSt) (who : Nat × List Byte) : PortSt :=
  let same := x.adm.last = some who
  let y := if same then { x with resume := true }
    else { x with txNext := 0, rxNext := 0, replay := [], again := [], naks := 0, nakSeq := 0, resume := false }
  { y with
    credit := fullCredit, owed := [0, 0, 0, 0], gap := false, nakDue := false
    adm := { y.adm with
      step := 4, last := some who, phase := !x.adm.phase, iv := 0, rxIv := 0, keys := x.adm.next
      oldKeys := if same then x.adm.keys else [], oldIv := if same then x.adm.rxIv else 0 } }

/-- The link comes up (R418, step 5). -/
def linkUp (s : State) (p : Nat) (h : Hello) : State :=
  let s := mapPort s p fun x => linkPort x (h.device, shake256 h.idkey 32)
  let s := setRegN s (Reg.FAB_PEER p) (2 ^ 31 + h.device % 2 ^ 18)
  let s := setFld s (Reg.FAB_PSTAT p) Fld.FAB_PSTAT_ENC (fld s Reg.FAB_CTRL Fld.FAB_CTRL_ENC)
  let s := raise (bump s (Reg.FAB_ADMITS p) 1) Reg.FAB_INTSTAT Fld.FAB_INTSTAT_LINKUP.bit
  setPortState s p psUp

/-- CONFIRM (R418): its tag verifies under the new k_ctl. -/
def takeConfirm (s : State) (p : Nat) (k : Packet) : State :=
  match (port s p).adm.peer with
  | none => s
  | some h =>
    if (port s p).adm.step ≠ 3 || portState s p ≠ psAdmit then s
    else if k.trailer.tag ≠ ctlTag (port s p).adm.next k then admitFail s p arConfirm
    else linkUp s p h

def execConfirm (p : Nat) (pkt : Packet) (s : State) : Host.Outcome State Fault Refusal :=
  finish s (onAdmit p pkt (fun _ k s => takeConfirm s p k) s)

/-- ADMIT_RETRY (R423): a refused port tries again, from training when that failed; so does a trained port that has yet to
send its HELLO. -/
def admitRetry (s : State) (p : Nat) : State :=
  if 24 ≤ p then s
  else if portState s p = psRefused then
    if (port s p).adm.step = 0 then setPortState s p psTrain else if admitOpen s then admitBegin s p else s
  else if portState s p = psAdmit && (port s p).adm.nonce.isEmpty && admitOpen s then admitBegin s p
  else s

def execAdmitRetry (p : Nat) (s : State) : Host.Outcome State Fault Refusal := finish s (admitRetry s p)

/-- LINKCTL_REASON (R417, R423): the partner has stopped the admission. -/
def linkctlReason (p reason : Nat) (s : State) : State :=
  if portState s p ≠ psAdmit || reason = arNone || 9 < reason then s else admitStop s p reason

def execLinkctlReason (p : Nat) (m : Told Nat) (s : State) : Host.Outcome State Fault Refusal :=
  finish s (recvLocal opLinkctl p m.pkt (fun _ s => linkctlReason p m.text s) s)

end Sys2Proof.Machine
end

