-- ==== Sys2Proof/Machine/Tile.lean ====
section
/-! DEFINITION. What an array computes for a tile (05_arrays.md): operand fetch, accumulators, masks, the checks of R180
to R182, and the drain of R177, R178 and R655. -/

namespace Sys2Proof.Machine

/-! ## Fetch -/

/-- Output row m is fed (R175). -/
def fed (t : Tile) (m : Nat) : Bool := bitN t.rowmask m

def fedRows (t : Tile) : List Nat := (List.range t.m).filter (fed t)

/-- The byte ranges of some rows of an operand of a Crib (R86, R171): base, format, rows, row length, pitch. -/
def rowRanges (base c rows len pitch : Nat) (sel : List Nat) : List Range :=
  if codeScaled c then
    let nb := cdiv len 32
    sel.map (fun r => (base + r * nb * blockBytes c, nb * blockBytes c))
      ++ sel.map (fun r => (base + scaleStart c rows len + r * nb, nb))
  else sel.map fun r => (base + r * pitch, cdiv (len * codeBits c) 8)

/-- The bytes of B that the output columns [c0, c1) take; none when no row is fed (R171, R175). -/
def bFetch (t : Tile) (c0 c1 : Nat) : List Range :=
  let sb := bShape t
  let sel := if t.tb then List.range t.k else (List.range (c1 - c0)).map (· + c0)
  if (fedRows t).isEmpty then [] else rowRanges (bRange t).1 t.bfmt sb.1 sb.2 (64 * t.ldb) sel

/-- What the array i of a tile fetches beside B for output columns [c0, c1) (R164, R171, R175, R177). -/
def tileFetch (t : Tile) (i : Nat) (keep : Nat → Nat → Bool) (c0 c1 : Nat) : List Range :=
  let rows := fedRows t
  if rows.isEmpty then []
  else
    let sa := aShape t
    let selA := if t.win then [0] else if t.ta then List.range t.k else rows
    let cs := if t.acc then
        (List.range t.m).flatMap fun m => ((List.range t.n).filter (fun n => c0 ≤ n && n < c1 && keep m n)).map fun n =>
          ((cRange t i).1 + m * 64 * t.ldc + 4 * n, 4)
      else []
    let xs := if drainReadsX t.drain then rowRanges (xRange t i).1 t.xfmt t.m (xRow t) (64 * t.ldc) rows else []
    rowRanges (aRange t i).1 t.afmt sa.1 sa.2 (64 * t.lda) selA ++ cs ++ xs

/-- Read ranges of a Crib in order up to the first that gives no data. -/
def fetchAll (s : State) (b : Nat) : List Range → State × Option Bad
  | [] => (s, none)
  | (o, n) :: t =>
    let (s, r) := checkRead s (cribBase b + o) n
    match r with
    | some bad => (s, some bad)
    | none => fetchAll s b t

/-- Element (r, i) of a tile operand in Crib b; a BIT1 element is its bit. -/
def cribElem (s : State) (b base c rows len pitch r i : Nat) : Num :=
  let bits := codeBits c
  let at_ (o n : Nat) : Nat := peekN s (cribBase b + base + o) n
  if codeScaled c then
    let nb := cdiv len 32
    let o := r * nb * blockBytes c
    let w := if bits = 4 then at_ (o + i / 2) 1 / 2 ^ (4 * (i % 2)) % 16
      else at_ (o + 3 * (i / 4)) 3 / 2 ^ (6 * (i % 4)) % 64
    scaledDecode (fmtD c) (at_ (scaleStart c rows len + r * nb + i / 32) 1) w
  else if bits = 1 then numInt (at_ (r * pitch + i / 8) 1 / 2 ^ (i % 8) % 2 : Nat)
  else if bits = 4 then numDecode (fmtD c) (at_ (r * pitch + i / 2) 1 / 2 ^ (4 * (i % 2)) % 16)
  else numDecode (fmtD c) (at_ (r * pitch + i * (bits / 8)) (bits / 8))

/-- Blocks with a NaN scale in some rows of an operand (R87). -/
def cribNanScales (s : State) (b base c rows len : Nat) (sel : List Nat) : Nat :=
  if codeScaled c then
    (sel.map fun r =>
      (peek s (cribBase b + base + scaleStart c rows len + r * cdiv len 32) (cdiv len 32)).countP (· = 255)).sum
  else 0

/-- Row m of A as the array feeds it (R160, R171). -/
def tileA (s : State) (b : Nat) (t : Tile) (i m : Nat) : List Num :=
  let sh := aShape t
  (List.range t.k).map fun k =>
    let p := if t.win then (0, m + k) else if t.ta then (k, m) else (m, k)
    cribElem s b (aRange t i).1 t.afmt sh.1 sh.2 (64 * t.lda) p.1 p.2

/-- Weight row n of B. -/
def tileB (s : State) (b : Nat) (t : Tile) (n : Nat) : List Num :=
  let sh := bShape t
  (List.range t.k).map fun k =>
    let p := if t.tb then (k, n) else (n, k)
    cribElem s b (bRange t).1 t.bfmt sh.1 sh.2 (64 * t.ldb) p.1 p.2

/-! ## Accumulation (R92 to R104, R169, R173, R174) -/

/-- The terms of a sum-forming opcode. -/
def tileTerm (op : Nat) (a b : Num) : Num :=
  match op with
  | 0 => numMul a b
  | 1 => numAbs (numSub a b)
  | _ => numMul (numSub a b) (numSub a b)

/-- One step of a running maximum or minimum: exact, and a NaN stays (R103, R174). On a tie of +0 and −0 the accumulator
keeps its zero (DESIGN CHOICE, log entry 122). -/
def tropPick (isMax : Bool) (acc t : Num) : Num :=
  if numIsNan acc || numIsNan t then .nan
  else if isMax then (if numLt acc t then t else acc) else if numLt t acc then t else acc

/-- The value an accumulator starts from when the tile overwrites (R95, R99, R173). -/
def overwriteStart (strict : Bool) (t : Tile) : Num :=
  match t.op with
  | 3 => if tileInt t then numInt (-(2 ^ 63)) else .inf true
  | 4 => if tileInt t then numInt (2 ^ 63 - 1) else .inf false
  | _ => if tileInt t then numInt 0 else accStart strict

/-- An accumulator and whether it saturated under R94. -/
structure Acc where
  v   : Num
  sat : Bool := false
  deriving DecidableEq, Repr

/-- The accumulator of one output from its start and operand rows. -/
def tileAcc (strict : Bool) (t : Tile) (start : Num) (as bs : List Num) : Acc × Ev :=
  let ps := as.zip bs
  match t.op with
  | 3 | 4 =>
    let terms := ps.map fun (x, y) => if tileInt t then (numAdd x y, ({} : Ev)) else tropTerm strict x y
    let ev := terms.foldl (fun e x => evAdd e x.2) {}
    (⟨(terms.map (·.1)).foldl (tropPick (t.op = 3)) start, decide (ev.ovf ≠ 0)⟩, ev)
  | 5 => (⟨numAdd start (numInt (ps.countP fun (x, y) => numLt y x : Nat)), false⟩, {})
  | 6 => (⟨numAdd start (numInt (ps.countP fun (x, y) => numLt y x || numLt x y : Nat)), false⟩, {})
  | op =>
    let terms := ps.map fun (x, y) => tileTerm op x y
    if tileInt t then (⟨sumTerms start terms, false⟩, {})
    else
      let (v, ev) := accumulate strict start terms
      (⟨v, decide (ev.ovf ≠ 0)⟩, ev)

/-! ## Masks (R175, R176) -/

/-- The element mask keeps output (m, n). -/
def emaskKeeps (s : State) (b : Nat) (t : Tile) (i m n : Nat) : Bool :=
  match t.emask with
  | 0 => true
  | 1 => bitN (peekN s (cribBase b + (xRange t i).1 + 16 * m + n / 8) 1) (n % 8)
  | 2 => decide ((n : Int) ≤ m + t.diag)
  | _ => decide ((m : Int) + t.diag ≤ n)

/-- Output (m, n) is kept: its row enabled, its column kept, and the element mask keeps it. -/
def keptOut (s : State) (b : Nat) (t : Tile) (i m n : Nat) : Bool :=
  fed t m && bitN t.colmask n && emaskKeeps s b t i m n

/-! ## A pass -/

/-- C as an accumulator loads it (R95, R99, R104). -/
def loadAcc (s : State) (b : Nat) (strict : Bool) (t : Tile) (i m n : Nat) : Num × Ev :=
  let w := peekN s (cribBase b + (cRange t i).1 + m * 64 * t.ldc + 4 * n) 4
  if tileInt t then (numInt (sextN 32 w), {}) else loadC strict w

/-- One output of a fed row. -/
structure Out where
  m   : Nat
  n   : Nat
  /-- C₀ of R180: zero for a dropped output. -/
  c0  : Num
  acc : Acc
  deriving DecidableEq, Repr

/-- A pass over output columns [c0, c1) of the array that the tile names as i: the fed rows of A, the rows of B, the
outputs of the fed rows and the events. -/
structure Pass where
  as   : List (Nat × List Num)
  bs   : List (Nat × List Num)
  outs : List Out
  ev   : Ev
  deriving DecidableEq, Repr

def runPass (s : State) (b : Nat) (strict : Bool) (t : Tile) (i c0 c1 : Nat) : Pass :=
  let as := (fedRows t).map fun m => (m, tileA s b t i m)
  let bs := if as.isEmpty then [] else ((List.range (c1 - c0)).map (· + c0)).map fun n => (n, tileB s b t n)
  let one (m : Nat) (ra : List Num) (n : Nat) (rb : List Num) : Out × Ev :=
    let ld := if t.acc && keptOut s b t i m n then loadAcc s b strict t i m n else (overwriteStart strict t, {})
    let r := tileAcc strict t ld.1 ra rb
    (⟨m, n, if t.acc && keptOut s b t i m n then ld.1 else numZero false, r.1⟩, evAdd ld.2 r.2)
  let all := as.flatMap fun (m, ra) => bs.map fun (n, rb) => one m ra n rb
  let sa := aShape t
  let sb := bShape t
  let nan := if as.isEmpty then 0 else
    cribNanScales s b (aRange t i).1 t.afmt sa.1 sa.2 (if t.win then [0] else if t.ta then List.range t.k else fedRows t)
      + cribNanScales s b (bRange t).1 t.bfmt sb.1 sb.2
          (if t.tb then List.range t.k else (List.range (c1 - c0)).map (· + c0))
  { as := as, bs := bs, outs := all.map (·.1), ev := all.foldl (fun e x => evAdd e x.2) { scnan := nan } }

/-! ## Checks (R180 to R182) -/

/-- Round a positive number up to FP32. -/
def roundUp32 (x : Num) : Num :=
  match x with
  | .fin n m e =>
    if m = 0 then x
    else
      let q := max (numLog m e) (-126) - 23
      let k := if q ≤ e then m * 2 ^ (e - q).toNat else cdiv m (2 ^ (q - e).toNat)
      if magGt k q (2 ^ 24 - 1) 104 then .inf n else .fin n k q
  | y => y

/-- τ of R181 from P. -/
def tauOf (strict int : Bool) (k : Nat) (p : Num) : Num :=
  if int then numZero false
  else
    let up := roundUp32
    if strict then
      up (numAdd (up (numMul (up (.fin false k (-23))) (up p))) (up (.fin false k (-149))))
    else up (numAdd (up (numMul (up (.fin false (cdiv k 16) (-25))) (up p))) (.fin false 1 (-90)))

/-- A line of a check (R180, R181). -/
structure Line where
  check : Check
  /-- The check is skipped: an accumulator or Q is infinite, NaN or saturated (R181). -/
  skip  : Bool
  deriving DecidableEq, Repr

def cellNum : CellVal → Num
  | .fin n m e => .fin n m e
  | .inf n => .inf n
  | .nan => .nan

/-- The value that wrong cells give at a place, if they do. -/
def wrongAt (cells : List WrongCell) (m n : Nat) : Option Num :=
  (cells.find? fun c => c.m = m && c.n = n).map fun c => cellNum c.v

/-- The outputs of a pass with the values that wrong cells give. -/
def spoil (cells : List WrongCell) (outs : List Out) : List Out :=
  outs.map fun o => match wrongAt cells o.m o.n with
    | some v => { o with acc := ⟨v, false⟩ }
    | none => o

/-- The sums of two lists of numbers, place by place. -/
def addRows (xs ys : List Num) : List Num := (xs.zip ys).map fun (x, y) => numAdd x y

def sumRows (k : Nat) (rs : List (List Num)) : List Num := rs.foldl addRows (List.replicate k (numZero false))

/-- Check one line: the outputs on it, the operand rows summed, the row `r` they meet, and what a wrong checksum cell
gives for Q. -/
def checkLine (strict : Bool) (t : Tile) (line : List Out) (rows : List (List Num)) (r : List Num) (wq : Option Num) :
    Line :=
  let c0 := line.foldl (fun a o => numAdd a o.c0) (numZero false)
  let terms := ((sumRows t.k rows).zip r).map fun (x, y) => numMul x y
  let (q0, ev) := if tileInt t then (sumTerms c0 terms, ({} : Ev)) else accumulate strict c0 terms
  let q := wq.getD q0
  let p := sumTerms (line.foldl (fun a o => numAdd a (numAbs o.c0)) (numZero false))
    (((sumRows t.k (rows.map fun x => x.map numAbs)).zip r).map fun (x, y) => numMul x (numAbs y))
  { check := { s := line.foldl (fun a o => numAdd a o.acc.v) (numZero false), q := q, tau := tauOf strict (tileInt t) t.k p
               c0 := line.map (·.c0), rows := rows, other := r }
    skip := line.any (fun o => !(numIsFin o.acc.v) || o.acc.sat) || !(numIsFin q) || (wq.isNone && ev.ovf ≠ 0) }

/-- A side of a check disagrees with another by more than τ (R181, R189). -/
def apart (tau a b : Num) : Bool := !(numIsFin (numSub a b)) || numLt tau (numAbs (numSub a b))

def lineFails (l : Line) : Bool := !l.skip && apart l.check.tau l.check.s l.check.q

/-- DETAIL of a failed checksum: S − Q and τ as FP32 (R507). -/
def lineDetail (c : Check) : Nat :=
  (round32 true (numSub c.s c.q)).1 + 2 ^ 32 * (round32 true c.tau).1

/-- The row check of output column n. -/
def rowCheck (strict : Bool) (t : Tile) (p : Pass) (cells : List WrongCell) (n : Nat) : Line :=
  checkLine strict t (p.outs.filter fun o => o.n = n) (p.as.map (·.2))
    ((p.bs.find? fun x => x.1 = n).elim [] (·.2)) (wrongAt cells 128 n)

/-- The column check of output row m. -/
def colCheck (strict : Bool) (t : Tile) (p : Pass) (cells : List WrongCell) (m : Nat) : Line :=
  checkLine strict t (p.outs.filter fun o => o.m = m) (p.bs.map (·.2))
    ((p.as.find? fun x => x.1 = m).elim [] (·.2)) (wrongAt cells m 128)

/-- Every check of an MMA tile with CKEN. -/
def allChecks (strict : Bool) (t : Tile) (p : Pass) (cells : List WrongCell) : List Line :=
  if p.as.isEmpty then []
  else p.bs.map (fun x => rowCheck strict t p cells x.1) ++ p.as.map (fun x => colCheck strict t p cells x.1)

/-- The check that a pass fails (R181), or, when a wrong value of a presented cell stays within every bound, the column
check of its row, which it enters (R186: such a tile fails a check). `good` are the outputs before the wrong values. -/
def failingCheck (strict : Bool) (t : Tile) (p : Pass) (cells : List WrongCell) (good : List Out) : Option Check :=
  match (allChecks strict t p cells).find? lineFails with
  | some l => some l.check
  | none =>
    ((good.zip p.outs).find? fun (g, o) => !(numSame g.acc.v o.acc.v)).map fun x => (colCheck strict t p cells x.1.m).check

/-- The fed row that the checksum row recomputes, and the column that the checksum column recomputes, in a tile that is no
MMA (R182); a piece of a split share is a tile of its own columns (DEDUCED, log entry 122). -/
def dupRow (t : Tile) : Option Nat := (fedRows t)[t.seq % (fedRows t).length]?
def dupCol (t : Tile) (c0 c1 : Nat) : Nat := c0 + t.seq % (c1 - c0)

/-- Some duplicate of R182 differs from its original, bit for bit: `good` are the outputs before the wrong values. -/
def dupFails (t : Tile) (c0 c1 : Nat) (cells : List WrongCell) (good outs : List Out) : Bool :=
  (good.zip outs).any fun (g, o) =>
    (some g.m = dupRow t && !(numSame ((wrongAt cells 128 g.n).getD g.acc.v) o.acc.v))
      || (g.n = dupCol t c0 c1 && !(numSame ((wrongAt cells g.m 128).getD g.acc.v) o.acc.v))

/-- What BGH_MACTRL.INJECT adds to the accumulator of the lowest fed row and column 0, and the check it spoils (R196);
none when the arming passes to the next tile. -/
def injection (strict : Bool) (t : Tile) (p : Pass) (cells : List WrongCell) : Option Check :=
  if t.op ≠ 0 || p.as.isEmpty || !(p.bs.any fun x => x.1 = 0) then none
  else
    let l := rowCheck strict t p cells 0
    if l.skip then none
    else if tileInt t then some { l.check with s := numAdd l.check.s (numInt 1) }
    else
      match l.check.tau with
      | .fin _ m e =>
        let x := numLog m (e + 1) + 1
        if 128 ≤ x then none else some { l.check with s := numAdd l.check.s (.fin false 1 x) }
      | _ => none

/-- The split-path reference of both sides of a failed check (R189): Q from the summed operands and S output by output,
each value entering as FP32 (DESIGN CHOICE, log entry 123); with the events of the passes. -/
def checkRefs (c : Check) : (Num × Num) × Ev :=
  let as32 (x : Num) : Num := f32 (round32 true x).1
  let sum := (sumRows c.other.length c.rows).map as32
  let q := splitProduct (c.c0.foldl numAdd (numZero false)) sum c.other
  let outs := (c.c0.zip c.rows).map fun (a, r) => splitProduct a r c.other
  ((outs.foldl (fun a o => numAdd a (f32 o.1)) (numZero false), f32 q.1), outs.foldl (fun e o => evAdd e o.2) q.2)

/-! ## The drain (R177, R178, R655) -/

/-- A drain function on FP32 encodings: x, and y and s of the side operand (R178). RELU of −0 is +0 (DESIGN CHOICE, log
entry 122). -/
def drainFn (strict : Bool) (d x y s : Nat) : Nat × Ev :=
  let one := 0x3F800000
  let two (a : Nat × Ev) (f : Nat → Nat × Ev) : Nat × Ev :=
    let r := f a.1
    (r.1, evAdd a.2 r.2)
  match d with
  | 1 => (if numIsNan (f32 x) then nanEnc .fp32 else if numLt (numZero false) (f32 x) then x else 0, {})
  | 2 => (if numLt (numZero false) (f32 y) then x else 0, {})
  | 3 => two (two (fMul strict y y) fun a => fSub strict one a) fun a => fMul strict x a
  | 4 => two (two (fSub strict one y) fun a => fMul strict y a) fun a => fMul strict x a
  | 5 => two (two (two (fSub strict one s) fun a => fMul strict y a) fun a => fAdd strict s a) fun a => fMul strict x a
  | 6 => fAdd strict x y
  | 7 => fMul strict x y
  | _ => (x, {})

/-- The side operand's elements y and s of output (m, n) as FP32. -/
def sideOf (s : State) (b : Nat) (t : Tile) (i m n : Nat) : Nat × Nat :=
  let el (j : Nat) : Nat := (round32 true (cribElem s b (xRange t i).1 t.xfmt t.m (xRow t) (64 * t.ldc) m j)).1
  if !drainReadsX t.drain then (0, 0) else if t.drain = 5 then (el (2 * n), el (2 * n + 1)) else (el n, 0)

/-- The drained FP32 encoding of an accumulator after DRAIN. -/
def drained (s : State) (b : Nat) (strict : Bool) (t : Tile) (i : Nat) (o : Out) : Nat × Ev :=
  let (w, ev) := drain32 strict o.acc.v
  let sd := sideOf s b t i o.m o.n
  let r := drainFn strict t.drain w sd.1 sd.2
  (r.1, evAdd ev r.2)

def rndOf : Nat → Rnd
  | 1 => .rtz
  | 2 => .sr
  | _ => .rne

/-- What is written at an output: a kept value, a fill, or nothing (R177). -/
inductive Cell where
  | val (x : Num)
  | floor
  | leave
  deriving DecidableEq, Repr

/-- The most negative encoding of a format: −infinity, the most negative finite value, or the least integer (R177). -/
def floorEnc (c : Nat) : Nat :=
  let f := fmtD c
  if fmtHasInf f then (numEncode f false .rtz 0 (.inf true)).1
  else (numEncode f false .rtz 0 (.fin true 1 300)).1

/-- Write bits [at, at + n) of a byte list given as (offset, byte) pairs. -/
structure Patch where
  off : Nat
  mask : Nat
  val : Nat
  deriving DecidableEq, Repr

/-- The element writes of an unscaled C: every cell but those left (R177), and the unused bits of a row's last byte. -/
def plainPatches (strict : Bool) (t : Tile) (i m : Nat) (cells : List (Nat × Cell)) : List Patch × Ev :=
  let f := fmtD t.cfmt
  let bits := codeBits t.cfmt
  let base := (cRange t i).1 + m * 64 * t.ldc
  cells.foldl (fun (acc : List Patch × Ev) (n, c) =>
    let put (w : Nat) (ev : Ev) : List Patch × Ev :=
      let ps := if bits = 4 then
          let last := n % 2 = 0 && n + 1 = t.n
          [⟨base + n / 2, if n % 2 = 1 then 0xF0 else if last then 0xFF else 0x0F, if n % 2 = 1 then 16 * w else w⟩]
        else (List.range (bits / 8)).map fun k => ⟨base + n * (bits / 8) + k, 0xFF, w / 2 ^ (8 * k) % 256⟩
      (acc.1 ++ ps, evAdd acc.2 ev)
    match c with
    | .leave => acc
    | .floor => put (floorEnc t.cfmt) {}
    | .val x =>
      let r := numEncode f strict (rndOf t.rmode) 0 x
      put r.1 r.2) ([], {})

/-- One block of a scaled C (R115, R655): its scale byte and element encodings; cells left out hold `old`. -/
def blockOut (strict : Bool) (c mode : Nat) (cells : List (Cell × Num)) : Nat × List Nat × Ev :=
  let f := fmtD c
  let part := cells.filterMap fun (x, old) => match x with
    | .val v => some v
    | .leave => some old
    | .floor => none
  let fl := cells.any fun (x, _) => x = .floor
  let real := part.any fun v => numIsFin v && !(numIsZero v)
  let e := if fl && !real then 127 else blockScale f part
  let enc := cells.map fun (x, old) => match x with
    | .val v => numEncode f strict (rndOf mode) 0 (numScale v (-e))
    | .leave => numEncode f strict (rndOf mode) 0 (numScale old (-e))
    | .floor => (floorEnc c, ({} : Ev))
  ((e + 127).toNat, enc.map (·.1), enc.foldl (fun a x => evAdd a x.2) {})

/-- The block writes of row m of a scaled C, and the blocks decoded with a NaN scale. -/
def scaledPatches (s : State) (b : Nat) (strict : Bool) (t : Tile) (i m : Nat) (cells : List (Nat × Cell)) :
    List Patch × List Patch × Ev :=
  let base := (cRange t i).1
  let nb := cdiv t.n 32
  let bb := blockBytes t.cfmt
  (List.range nb).foldl (fun (acc : List Patch × List Patch × Ev) j =>
    let mine := (List.range 32).map fun k => ((cells.find? fun x => x.1 = 32 * j + k).elim (Cell.val (numZero false)) (·.2),
      32 * j + k)
    let real := mine.filter fun x => x.2 < t.n
    if real.all fun x => x.1 = .leave then acc
    else
      let so := base + scaleStart t.cfmt t.m t.n + m * nb + j
      let nan := if real.any (fun x => x.1 = .leave) && peekN s (cribBase b + so) 1 = 255 then 1 else 0
      let olds := mine.map fun x => (x.1, cribElem s b base t.cfmt t.m t.n 0 m x.2)
      let (sc, es, ev) := blockOut strict t.cfmt t.rmode olds
      let bytes := packElems (codeBits t.cfmt) es
      let eo := base + (m * nb + j) * bb
      let p := (List.range bb).map fun k => ⟨eo + k, 0xFF, ((bytes[k]?).getD 0).toNat⟩
      (acc.1 ++ p, acc.2.1 ++ [⟨so, 0xFF, sc⟩], evAdd acc.2.2 (evAdd ev { scnan := nan }))) ([], [], {})

/-- What the drain writes at output (m, n) of the fed and unfed rows (R177). -/
def cellAt (s : State) (b : Nat) (strict : Bool) (t : Tile) (i : Nat) (outs : List Out) (m n : Nat) : Cell × Ev :=
  if keptOut s b t i m n then
    match outs.find? fun o => o.m = m && o.n = n with
    | none => (.leave, {})
    | some o =>
      if t.cfmt = 12 then
        (.val o.acc.v, {})
      else
        let r := drained s b strict t i o
        (.val (f32 r.1), r.2)
  else if t.fill = 1 then (.val (numZero false), {}) else if t.fill = 2 then (.floor, {}) else (.leave, {})

/-- All that the drain writes of columns [c0, c1), in order, and its events. -/
def drainPatches (s : State) (b : Nat) (strict : Bool) (t : Tile) (i c0 c1 : Nat) (outs : List Out) : List Patch × Ev :=
  let row (m : Nat) : List Patch × List Patch × Ev :=
    let cs := ((List.range (c1 - c0)).map (· + c0)).map fun n => (n, cellAt s b strict t i outs m n)
    let ev := cs.foldl (fun e x => evAdd e x.2.2) {}
    let cells := cs.map fun x => (x.1, x.2.1)
    if codeScaled t.cfmt then
      let r := scaledPatches s b strict t i m cells
      (r.1, r.2.1, evAdd ev r.2.2)
    else
      let r := plainPatches strict t i m cells
      (r.1, [], evAdd ev r.2)
  let rows := (List.range t.m).map row
  (rows.flatMap (·.1) ++ rows.flatMap (·.2.1), rows.foldl (fun e x => evAdd e x.2.2) {})

/-- What the drain of a block-scaled C reads first: the stored scale and elements of every block that it writes and in
which FILL Leave leaves an output (R655). -/
def leftReads (s : State) (b : Nat) (t : Tile) (i c0 c1 : Nat) : List Range :=
  if codeScaled t.cfmt && t.fill = 0 then
    let nb := cdiv t.n 32
    let bb := blockBytes t.cfmt
    let base := (cRange t i).1
    (List.range t.m).flatMap fun m => (List.range nb).flatMap fun j =>
      let cols := ((List.range 32).map (· + 32 * j)).filter fun n => n < t.n
      let written (n : Nat) : Bool := decide (c0 ≤ n) && decide (n < c1) && keptOut s b t i m n
      if cols.any written && !(cols.all written) then
        [(base + scaleStart t.cfmt t.m t.n + m * nb + j, 1), (base + (m * nb + j) * bb, bb)]
      else []
  else []

/-- Merge the partial bytes of patches with what the Crib holds, and join neighbours into runs. -/
def patchRuns (s : State) (b : Nat) (ps : List Patch) : List (Nat × List Byte) :=
  let bytes := ps.foldl (fun (acc : List (Nat × Byte)) p =>
    match acc with
    | (o, v) :: t =>
      if o = p.off then (o, BitVec.ofNat 8 (v.toNat &&& (255 - p.mask) ||| p.val)) :: t
      else (p.off, BitVec.ofNat 8 ((byteAt s (cribBase b + p.off)).toNat &&& (255 - p.mask) ||| p.val)) :: acc
    | [] => [(p.off, BitVec.ofNat 8 ((byteAt s (cribBase b + p.off)).toNat &&& (255 - p.mask) ||| p.val))]) []
  -- `bytes` is latest first; fold it back into runs
  bytes.foldl (fun (acc : List (Nat × List Byte)) (o, v) =>
    match acc with
    | (o', run) :: t => if o + 1 = o' then (o, v :: run) :: t else (o, [v]) :: acc
    | [] => [(o, [v])]) []

/-- The whole-tile write of R184: nothing is written when a codeword it covers only in part gives no data. -/
def writeRuns (s : State) (b : Nat) (runs : List (Nat × List Byte)) : State × Option Bad :=
  let parts := runs.flatMap fun (o, bs) =>
    (partCws s 0 (cribBase b + o) bs.length).filter fun (k, e) => foundOf s k e = .uncorr
  let (s', r) := readCws s parts
  match r with
  | some a => (s', some ⟨tyUncorr, 0, a⟩)
  | none => (runs.foldl (fun s (o, bs) => (store s (cribBase b + o) bs).1) s, none)

end Sys2Proof.Machine
end

