-- ==== Sys2Proof/Machine/Arrays.lean ====
section
/-! DEFINITION. Tiles on the matrix arrays of a bough: issue, shares, passes, replay, the column test and the repair of
arrays (05_arrays.md). -/

namespace Sys2Proof.Machine

def mastat (s : State) (b a : Nat) (f : Fld) : Nat := fld s (Reg.BGH_MASTAT b a) f

def arrRetired (s : State) (b a : Nat) : Bool := mastat s b a Fld.BGH_MASTAT_RETIRED = 1

/-- Presented width of an array in output columns of a tile (R162, R187). -/
def arrWidth (s : State) (b a : Nat) (t : Tile) : Nat :=
  mastat s b a Fld.BGH_MASTAT_WIDTH / (tileCells (strictMode s) t).2

def setShares (s : State) (b : Nat) (f : List Share → List Share) : State :=
  setBough s b { bough s b with shares := f (bough s b).shares }

/-- Issue a tile: one queued share for each array it names (R164). -/
def runTile (s : State) (b id : Nat) (body : List Byte) : State :=
  let t := tileOf body
  setShares s b fun l => l ++ (tileArrays t).map fun i => { entry := id, named := i, arr := i, c0 := 0, c1 := t.n }

/-- A TILE item of one opcode (R169). -/
def tileCmd (op n t : Nat) (s : State) : Host.Outcome State Fault Refusal :=
  issue s n 1 t (fun body => (tileOf body).op = op) runTile

def execMma (n t : Nat) (s : State) : Host.Outcome State Fault Refusal := tileCmd 0 n t s
def execL1 (n t : Nat) (s : State) : Host.Outcome State Fault Refusal := tileCmd 1 n t s
def execL2sq (n t : Nat) (s : State) : Host.Outcome State Fault Refusal := tileCmd 2 n t s
def execMaxplus (n t : Nat) (s : State) : Host.Outcome State Fault Refusal := tileCmd 3 n t s
def execMinplus (n t : Nat) (s : State) : Host.Outcome State Fault Refusal := tileCmd 4 n t s
def execCmpcnt (n t : Nat) (s : State) : Host.Outcome State Fault Refusal := tileCmd 5 n t s
def execHamming (n t : Nat) (s : State) : Host.Outcome State Fault Refusal := tileCmd 6 n t s

/-! ## The end of a share -/

/-- A share is over: its entry has finished when no other share of the tile is left (R164). -/
def dropShare (s : State) (b : Nat) (sh : Share) : State :=
  let s := setShares s b fun l => l.erase sh
  if (bough s b).shares.any fun x => x.entry = sh.entry then s else markDone s b sh.entry

/-- Tile SEQ of an entry (R183). -/
def shareSeq (s : State) (b : Nat) (sh : Share) : Nat :=
  match entryOf s b sh.entry with
  | some e => (tileOf e.body).seq
  | none => 0

/-- After a stop on an array that is no uncorrectable read (R188): Blight while a step is open, else the job ends; a
CHECK record. -/
def stopCheckFail (s : State) (b a seq detail : Nat) : State :=
  let opn := stepOpen s
  let act := if opn then actBlight else if jobLoaded s then actJobEnd else actLogged
  let s := if opn then raiseBlight s srcUncorr else s
  let s := record s { kind := 3, type := tyCheck, action := act, unit := b, sub := a, detail := detail, seq := seq }
  if opn then s else endJob s 4 0

/-- The fault path (R188): C unwritten for this share, BGH_MAFAULT and FAULT, then Blight or the end of the job; `detail`
is the DETAIL of the check that failed. -/
def tileFault (s : State) (b : Nat) (sh : Share) (detail : Nat) (bad : Option Bad) : State :=
  let seq := shareSeq s b sh
  let s := dropShare s b sh
  let s := setShares s b fun l => l.map fun x =>
    if x.entry = sh.entry && x.named = sh.named then { x with lost := true } else x
  let s := raise (bump s (Reg.BGH_MAFAULT b) 1) (Reg.BGH_MAINTSTAT b) Fld.BGH_MAINTSTAT_FAULT.bit
  match bad with
  | some x => stopConsumer s false x seq
  | none => stopCheckFail s b sh.arr seq detail

/-! ## The start of a share (R187, R190) -/

/-- The unretired array that takes a share of a retired one: among those the item names, else of the bough (R190). -/
def moveTarget (s : State) (b : Nat) (t : Tile) : Option Nat :=
  match (tileArrays t).find? fun a => !arrRetired s b a with
  | some a => some a
  | none => (List.range 4).find? fun a => !arrRetired s b a

/-- Replace a share in the queue by the pieces that take its place. -/
def splitShare (sh : Share) (xs : List Share) (l : List Share) : List Share :=
  l.flatMap fun x => if x = sh then xs else [x]

/-- Begin a share on its array, splitting it at a narrowed width. -/
def beginShare (s : State) (b : Nat) (sh : Share) (t : Tile) : State :=
  let w := arrWidth s b sh.arr t
  if sh.c1 - sh.c0 ≤ w then setShares s b (splitShare sh [{ sh with phase := .running }])
  else setShares s b (splitShare sh
    [{ sh with phase := .running, c1 := sh.c0 + w }, { sh with c0 := sh.c0 + w }])

/-- The first share queued on array a. -/
def queuedShare (s : State) (b a : Nat) : Option Share :=
  (bough s b).shares.find? fun x => x.arr = a && x.phase = .queued

/-- The array is at work on a share, or has a column test to run (R186, R196). -/
def arrBusy (s : State) (b a : Nat) : Bool :=
  ((bough s b).shares.any fun x => x.arr = a && x.phase ≠ .queued)
    || ((bough s b).colTests.contains a && !arrRetired s b a)

/-- TILE_SHARE_START (R190): the placement is made against the array states of this moment. -/
def shareStart (s : State) (b a : Nat) : State :=
  if arrBusy s b a then s
  else
    match queuedShare s b a with
    | none => s
    | some sh =>
      match entryOf s b sh.entry with
      | none => s
      | some e =>
        if arrRetired s b a then
          match moveTarget s b (tileOf e.body) with
          | some a' => setShares s b fun l => l.erase sh ++ [{ sh with arr := a' }]
          | none => jobStopCheck (tileFault s b sh sh.detail none)
        else beginShare s b sh (tileOf e.body)

def execTileShareStart (n a : Nat) (s : State) : Host.Outcome State Fault Refusal :=
  finish s (if phys s n < 68 then shareStart s (phys s n) a else s)

/-! ## The end of a pass (R185) -/

/-- How a pass ended; a failed check of R180 is kept for a dispute. -/
inductive PassEnd where
  | good
  | unread (b : Bad)
  | failed (detail : Nat) (check : Option Check)
  deriving DecidableEq, Repr

/-- The other pieces of the same share of a split tile. -/
def siblings (s : State) (b : Nat) (sh : Share) : List Share :=
  (bough s b).shares.filter fun x => x ≠ sh && x.entry = sh.entry && x.named = sh.named

/-- A piece of a split share with a block-scaled C waits to be drained with the last piece (R655, log entry 31). -/
def holdsDrain (s : State) (b : Nat) (sh : Share) (t : Tile) : Bool :=
  codeScaled t.cfmt && !(siblings s b sh).isEmpty

/-- The outputs that the drain of a share writes: its own columns, or the whole row when C is block-scaled. -/
def drainCols (sh : Share) (t : Tile) : Nat × Nat := if codeScaled t.cfmt then (0, t.n) else (sh.c0, sh.c1)

/-- The drain of a good pass (R177, R184); `cells` gave wrong values that no check saw. When one piece of a split share
takes the fault path, the other pieces of an unscaled C are written (DESIGN CHOICE, log entry 122). -/
def drainShare (s : State) (b : Nat) (sh : Share) (t : Tile) (p : Pass) (cells : List WrongCell) : State × Option Bad :=
  if holdsDrain s b sh t then
    (setShares s b fun l => l.map fun x =>
      if x ≠ sh && x.entry = sh.entry && x.named = sh.named then { x with wrong := x.wrong ++ cells } else x, none)
  else if sh.lost && codeScaled t.cfmt then (s, none)
  else
    let (c0, c1) := drainCols sh t
    let strict := strictMode s
    let (s, r) := fetchAll s b (leftReads s b t sh.named c0 c1)
    match r with
    | some x => (s, some x)
    | none =>
      let outs := if c0 = sh.c0 && c1 = sh.c1 then p.outs
        else spoil (sh.wrong ++ cells) (runPass s b strict t sh.named c0 c1).outs
      let (ps, ev) := drainPatches s b strict t sh.named c0 c1 outs
      let (s, r) := writeRuns s b (patchRuns s b ps)
      match r with
      | some x => (s, some x)
      | none => (numEvB s (Reg.THR_NUMOVF b) ev, none)

/-- The cells of a pass that gave values of their own. -/
def PassFault.cells : PassFault → List WrongCell
  | .wrong cs => cs
  | _ => []

/-- Count the checks of a pass that were skipped (R181). -/
def countSkips (s : State) (b : Nat) (t : Tile) (p : Pass) (cells : List WrongCell) : State :=
  if t.cken && t.op = 0 then
    bump s (Reg.BGH_MASKIP b) ((allChecks (strictMode s) t p cells).countP (·.skip))
  else s

/-- The corruption of BGH_MACTRL.INJECT that this pass takes, if one is armed on its array (R196). -/
def takeInject (s : State) (b : Nat) (sh : Share) (t : Tile) (p : Pass) (cells : List WrongCell) : Option Check :=
  if t.cken && sh.pass = 1 && (bough s b).inject.contains sh.arr then injection (strictMode s) t p cells else none

/-- What the checks say of a pass (R180 to R182, R196): `good` as the cells should have computed it, `p` with the values
that the cells `f` gave. -/
def judge (s : State) (b : Nat) (sh : Share) (t : Tile) (good p : Pass) (f : PassFault) : State × PassEnd :=
  let cells := PassFault.cells f
  let s := countSkips (numEvB s (Reg.THR_NUMOVF b) p.ev) b t p cells
  match takeInject s b sh t p cells with
  | some c =>
    (setBough s b { bough s b with inject := (bough s b).inject.filter fun x => x ≠ sh.arr },
      .failed (lineDetail c) (some c))
  | none =>
    if f = .parity then ({ s with free := s.free + 1 }, .failed (Config.failDetail s.free) none)
    else if t.cken && t.op = 0 then
      match failingCheck (strictMode s) t p cells good.outs with
      | some c => (s, .failed (lineDetail c) (some c))
      | none => (s, .good)
    else if t.cken && dupFails t sh.c0 sh.c1 cells good.outs p.outs then
      ({ s with free := s.free + 1 }, .failed (Config.failDetail s.free) none)
    else (s, .good)

/-- The fetch of B (R164, R166): once for the item, and broadcast to every share of it that still has its first pass to
make; an array that replays fetches B for itself. -/
def fetchB (s : State) (b : Nat) (sh : Share) (t : Tile) : State × Option Bad :=
  match (if sh.pass = 1 then sh.bread else none) with
  | some r => (s, r)
  | none =>
    if sh.pass = 1 then
      let (s, r) := fetchAll s b (bFetch t 0 t.n)
      (setShares s b fun l => l.map fun x => if x.entry = sh.entry && x.pass = 1 then { x with bread := some r } else x, r)
    else fetchAll s b (bFetch t sh.c0 sh.c1)

/-- The operand fetch of a pass: the mask bits, A and the rest, then B; what gives no data. -/
def fetchPass (s : State) (b : Nat) (sh : Share) (t : Tile) : State × Option Bad :=
  let bits := if t.emask = 1 then (fedRows t).map fun m => ((xRange t sh.named).1 + 16 * m, 16) else []
  let (s, r0) := fetchAll s b bits
  let (s, r1) := match r0 with
    | some x => (s, some x)
    | none => fetchAll s b (tileFetch t sh.named (keptOut s b t sh.named) sh.c0 sh.c1)
  let (s, r2) := fetchB s b sh t
  (s, r1 <|> r2)

/-- Run a pass of a share whose operands were read: compute, check, and drain when all is good. -/
def passOf (s : State) (b : Nat) (sh : Share) (t : Tile) (f : PassFault) : State × PassEnd :=
  let good := runPass s b (strictMode s) t sh.named sh.c0 sh.c1
  let p := { good with outs := spoil (PassFault.cells f) good.outs }
  let (s, e) := judge s b sh t good p f
  match e with
  | .good =>
    let (s, r) := drainShare s b sh t p (PassFault.cells f)
    match r with
    | some x => (s, .unread x)
    | none => (s, .good)
  | e => (s, e)

/-- Pass 1 failed: the tile replays (R185). -/
def replay (s : State) (b : Nat) (sh : Share) (unread : Bool) (detail : Nat) : State :=
  let s := setShares s b (splitShare sh [{ sh with pass := 2, unread := unread, detail := detail }])
  raise (bump s (Reg.BGH_MAREPLAY b) 1) (Reg.BGH_MAINTSTAT b) Fld.BGH_MAINTSTAT_REPLAY.bit

/-- A pass 2 that passes is logged as corrected (R185, R507). -/
def logReplay (s : State) (b : Nat) (sh : Share) : State :=
  if sh.pass = 2 then
    record s { kind := (if sh.unread then 0 else 3), type := (if sh.unread then tyUncorr else tyCheck),
               action := actReplayed, unit := b, sub := sh.arr, detail := sh.detail, seq := shareSeq s b sh }
  else s

/-- What follows the end of a pass (R185). An uncorrectable read that pass 2 is the first to meet counts as met again
(DESIGN CHOICE, log entry 122). -/
def passNext (s : State) (b : Nat) (sh : Share) (r : PassEnd) : State :=
  match r with
  | .good => dropShare (logReplay s b sh) b sh
  | .unread x => if sh.pass = 1 then replay s b sh true 0 else jobStopCheck (tileFault s b sh sh.detail (some x))
  | .failed d c =>
    if sh.pass = 1 then replay s b sh false d
    else if sh.pass = 2 then
      setShares s b (splitShare sh [{ sh with phase := .colTest, detail := d, check := c }])
    else jobStopCheck (tileFault s b sh d none)

/-- TILE_PASS_DONE (R185). Every record of the tile carries its SEQ (R183). -/
def passDone (s : State) (b a : Nat) (f : PassFault) : State :=
  let running (s : State) : Option Share := (bough s b).shares.find? fun x => x.arr = a && x.phase = .running
  match running s with
  | none => s
  | some sh =>
    match entryOf s b sh.entry with
    | none => s
    | some e =>
      let (s', bad) := fetchPass s b sh (tileOf e.body)
      match running s' with
      | none => s
      | some sh' =>
        let (s'', r) := match bad with
          | some x => (s', .unread x)
          | none => passOf s' b sh' (tileOf e.body) f
        stamp s (shareSeq s b sh) false (passNext s'' b sh' r)

def execTilePassDone (n a : Nat) (f : PassFault) (s : State) : Host.Outcome State Fault Refusal :=
  finish s (if phys s n < 68 then passDone s (phys s n) a f else s)

/-! ## The column test (R185 to R190) -/

/-- The references of the column test (R186), which self-test computes by the split path (R123). -/
def testRefs : List Nat := Config.testPattern.map fun p => (splitProduct (numZero false) (p.1.map f32) (p.2.map f32)).1

/-- The cells (row, column) that gave a result other than the reference held in the Root (R186). -/
def wrongCells (s : State) (cells : List TestCell) : List (Nat × Nat) :=
  (cells.filter fun c => s.integ.refs[(c.tile * 129 + c.row) * 130 + c.col]? ≠ some c.w).map fun c => (c.row, c.col)

/-- What a column test asks for (R185). -/
inductive Finding where
  | none
  | bypass (c : Nat)
  | narrow (c : Nat)
  | retire
  deriving DecidableEq, Repr

/-- The physical column that serves as the checksum column: the spare once column 128 is bypassed (R187). -/
def checkCol (s : State) (b a : Nat) : Nat := if mastat s b a Fld.BGH_MASTAT_BYPASSCOL = 128 then 129 else 128

/-- Judge the cells found wrong (R185, R186). A column fails with any of its cells, and the checksum row with its cell in
the checksum column or its path of operand sums; columns already dropped and a spare not in use do not count as columns
of the array. A failing checksum column with a failed spare that is not in use retires the array (DESIGN CHOICE, log
entry 122: the table of R185 has no such row). -/
def finding (s : State) (b a : Nat) (cells : List (Nat × Nat)) (sumPath : Bool) : Finding :=
  let inUse : Bool := mastat s b a Fld.BGH_MASTAT_SPARE = 1
  let cols := (cells.map (·.2)).filter fun c => c < 130 && c ≠ mastat s b a Fld.BGH_MASTAT_BYPASSCOL
    && c ≠ mastat s b a Fld.BGH_MASTAT_NARROWCOL
  let fails := (cols.filter fun c => c ≠ 129 || inUse).eraseDups
  if sumPath || cells.contains (128, checkCol s b a) then .retire
  else
    match fails with
    | [] => .none
    | [c] =>
      if !inUse && !cols.contains 129 then .bypass c
      else if c = checkCol s b a then .retire
      else if mastat s b a Fld.BGH_MASTAT_NARROW = 0 then .narrow c
      else .retire
    | _ => .retire

/-- Take the repair of an array (R187, R190, R505, R506). -/
def repairArray (s : State) (b a : Nat) (f : Finding) : State :=
  let r := Reg.BGH_MASTAT b a
  match f with
  | .none => s
  | .bypass c =>
    let s := setFld (setFld s r Fld.BGH_MASTAT_SPARE 1) r Fld.BGH_MASTAT_BYPASSCOL c
    raise (repairTaken s 3 repBypass b a 0) (Reg.BGH_MAINTSTAT b) Fld.BGH_MAINTSTAT_BYPASS.bit
  | .narrow c =>
    let s := setFld (setFld s r Fld.BGH_MASTAT_NARROW 1) r Fld.BGH_MASTAT_NARROWCOL c
    let s := setFld s r Fld.BGH_MASTAT_WIDTH 127
    raise (repairTaken s 3 repNarrow b a 0) (Reg.BGH_MAINTSTAT b) Fld.BGH_MAINTSTAT_NARROW.bit
  | .retire =>
    let s := setFld (setFld s r Fld.BGH_MASTAT_RETIRED 1) r Fld.BGH_MASTAT_WIDTH 0
    let s := repairTaken s 3 repRetire b a 0
    let s := raise s (Reg.BGH_MAINTSTAT b) Fld.BGH_MAINTSTAT_RETIRE.bit
    let left := (List.range 4).countP fun i => !arrRetired s b i
    let s := if left = 0 then serviceCondition s 3 b a else s
    if left ≤ 2 then policySubst s b else s

/-- Pass 3 of the share that asked for the test, or its fault path (R185). -/
def afterTest (s : State) (b : Nat) (sh : Share) (f : Finding) : State :=
  match entryOf s b sh.entry with
  | none => s
  | some e =>
    let three := setShares s b (splitShare sh [{ sh with phase := .running, pass := 3 }])
    match f with
    | .retire => jobStopCheck (tileFault s b sh sh.detail none)
    | .narrow _ =>
      if sh.c1 - sh.c0 ≤ arrWidth s b sh.arr (tileOf e.body) then three
      else jobStopCheck (tileFault s b sh sh.detail none)
    | .none =>
      let d : Dispute := { arr := sh.arr, seq := (tileOf e.body).seq, detail := sh.detail, entry := some sh.entry
                           check := sh.check }
      let s := setBough three b { bough three b with disputes := (bough three b).disputes ++ [d] }
      raise s (Reg.BGH_MAINTSTAT b) Fld.BGH_MAINTSTAT_DISPUTE.bit
    | .bypass _ => three

/-- COLUMN_TEST_DONE (R186): the test of a failed tile, whose records carry the tile's SEQ (R183), else one asked by
BGH_MACTRL once the array is free (R196). -/
def colTestDone (s : State) (b a : Nat) (cells : List TestCell) (sumPath : Bool) : State :=
  let f := if arrRetired s b a then .none else finding s b a (wrongCells s cells) sumPath
  match (bough s b).shares.find? fun x => x.arr = a && x.phase = .colTest with
  | some sh =>
    stamp s (shareSeq s b sh) false (afterTest (repairArray (bump s (Reg.BGH_MACOLTEST b) 1) b a f) b sh f)
  | none =>
    if !(bough s b).colTests.contains a || (bough s b).shares.any (fun x => x.arr = a && x.phase = .running) then s
    else
      repairArray (bump (setBough s b { bough s b with colTests := (bough s b).colTests.erase a })
        (Reg.BGH_MACOLTEST b) 1) b a f

def execColumnTestDone (b a : Nat) (cells : List TestCell) (sumPath : Bool) (s : State) :
    Host.Outcome State Fault Refusal :=
  finish s (if b < 68 then colTestDone s b a cells sumPath else s)

/-- The INFO of a DISPUTE record: which of S (1) and Q (2) differ from their split-path references by more than the τ of
the failing check (R189). -/
def disputeInfo (c : Check) : Nat :=
  let r := (checkRefs c).1
  (if apart c.tau c.s r.1 then 1 else 0) + (if apart c.tau c.q r.2 then 2 else 0)

/-- DISPUTE_RECOMPUTE_DONE (R189): once the tile has retired, the split path recomputes S and Q, and the DISPUTE record
says which side disagreed; of a failure that compared no sums the command tells the sides (log entry 123). -/
def disputeDone (s : State) (b a : Nat) (sBad qBad : Bool) : State :=
  match (bough s b).disputes.find? fun d => d.arr = a && d.entry.isNone with
  | none => s
  | some d =>
    let s := setBough s b { bough s b with disputes := (bough s b).disputes.erase d }
    let (s, info) := match d.check with
      | some c => (numEvB s (Reg.THR_NUMOVF b) (checkRefs c).2, disputeInfo c)
      | none => (s, (if sBad then 1 else 0) + (if qBad then 2 else 0))
    record s { kind := 3, type := tyDispute, action := actLogged, info := info, unit := b, sub := a, detail := d.detail
               seq := d.seq }

def execDisputeRecomputeDone (n a : Nat) (sBad qBad : Bool) (s : State) : Host.Outcome State Fault Refusal :=
  finish s (if phys s n < 68 then disputeDone s (phys s n) a sBad qBad else s)

/-! ## Test controls (R196) -/

/-- MACTRL_INJECT: arm a corruption of the next checked tile on array a. -/
def mactrlInject (s : State) (b a : Nat) : State :=
  if 68 ≤ b || 4 ≤ a || (bough s b).inject.contains a then s
  else setBough s b { bough s b with inject := (bough s b).inject ++ [a] }

def execMactrlInject (b a : Nat) (s : State) : Host.Outcome State Fault Refusal := finish s (mactrlInject s b a)

/-- MACTRL_COLTEST: the column test runs on array a once the array is free. -/
def mactrlColtest (s : State) (b a : Nat) : State :=
  if 68 ≤ b || 4 ≤ a || (bough s b).colTests.contains a then s
  else setBough s b { bough s b with colTests := (bough s b).colTests ++ [a] }

def execMactrlColtest (b a : Nat) (s : State) : Host.Outcome State Fault Refusal := finish s (mactrlColtest s b a)

end Sys2Proof.Machine
end

