-- ==== Sys2Proof/Machine/Sickle.lean ====
section
/-! DEFINITION. The Sickle and model switching (06_sickle.md). -/

namespace Sys2Proof.Machine

/-! ## Switching models (R212, R213, R219) -/

def switchArmed (s : State) : Bool := fld s Reg.SKL_NEXT_LO Fld.SKL_NEXT_LO_ARMED = 1

/-- The table address that SKL_NEXT shows. -/
def nextTable (s : State) : Nat :=
  4096 * (fld s Reg.SKL_NEXT_LO Fld.SKL_NEXT_LO_ADDR + 2 ^ 20 * fld s Reg.SKL_NEXT_HI Fld.SKL_NEXT_HI_ADDR)

/-- Show a table in SKL_NEXT with ARMED as given. -/
def setNext (s : State) (table armed : Nat) : State :=
  setRegN (setRegN s Reg.SKL_NEXT_HI (table / 2 ^ 32 % 256)) Reg.SKL_NEXT_LO
    (table % 2 ^ 32 / 4096 * 4096 + armed)

def setSwConf (s : State) (v : Bool) : State := { s with frm := { s.frm with swConf := v } }

/-- Arms of one program frame named different tables: nothing is armed (R213). -/
def switchConflict (s : State) : State :=
  raise (setSwConf (setFld s Reg.SKL_NEXT_LO Fld.SKL_NEXT_LO_ARMED 0) true) Reg.SKL_INTSTAT Fld.SKL_INTSTAT_SWCONF.bit

/-- An arm by a SWITCH pass (R212, R213). -/
def armSwitch (s : State) (table : Nat) : State :=
  if s.frm.swConf then switchConflict s
  else if switchArmed s then (if nextTable s = table then s else switchConflict s)
  else setNext s table 1

/-- The class of the model that runs (R58): 1 Fixed, 2 Deadline. -/
def classNow (s : State) : Nat := if Config.deadlineModel (regN s Reg.SKL_MODEL) then 2 else 1

/-- The running program's class is shown and kept with the job. -/
def syncClass (s : State) : State :=
  match s.host.job with
  | none => s
  | some j =>
    if j.started then
      setFld { s with host := { s.host with job := some { j with cls := classNow s } } } Reg.FRM_STATUS
        Fld.FRM_STATUS_CLASS (classNow s)
    else s

/-- A table whose header cannot be used: the running table continues (R213). -/
def tableError (s : State) : State := raise s Reg.SKL_INTSTAT Fld.SKL_INTSTAT_TABERR.bit

/-- The presented boughs load their program lists (R212). -/
def loadPbase (s : State) (prog stride : Nat) : State :=
  (List.range 64).foldl (fun s n =>
    if phys s n < 68 then setReg64 s (Reg.BGH_PBASE_LO (phys s n)) ((prog + n * stride) % 2 ^ 40) else s) s

/-- A table takes effect: SKL_MTAB, SKL_MODEL and every BGH_PBASE (R212). -/
def takeTable (s : State) (table : Nat) (hdr : List Byte) : State :=
  let s := setReg64 s Reg.SKL_MTAB_LO table
  let s := setRegN s Reg.SKL_MODEL (leAt hdr 4 4)
  syncClass (loadPbase s (leAt hdr 8 8 % 2 ^ 40) (leAt hdr 16 4))

/-- The switch that an armed table makes at a frame boundary (R212, R213); it waits where the read of the header must
wait on a round (R310). -/
def modelSwitch (s : State) : State :=
  let s := setSwConf s false
  if !switchArmed s then s
  else
    let table := nextTable s
    let stalled := stalledBy s (accessMem s table 64)
    if rangeOk s table 64 && !stalled.isEmpty then closeOn s stalled
    else
    let s := setFld s Reg.SKL_NEXT_LO Fld.SKL_NEXT_LO_ARMED 0
    if !rangeOk s table 64 then tableError s
    else
      match load s table 64 with
      | (s, .error b) => stopConsumer (tableError s) false b 0
      | (s, .ok hdr) =>
        if tableHeaderBad hdr then tableError s
        else raise (bump (takeTable s table hdr) Reg.SKL_SWITCHES 1) Reg.SKL_INTSTAT Fld.SKL_INTSTAT_SWITCH.bit

/-- A host write to SKL_NEXT_LO with ARMED set (R219): ignored as a whole while a switch is armed. -/
def nextArm (s : State) (lo : Word) : State :=
  if switchArmed s then s
  else
    let s := setFld s Reg.SKL_NEXT_LO Fld.SKL_NEXT_LO_ADDR (Fld.SKL_NEXT_LO_ADDR.get lo)
    if s.frm.swConf then switchConflict s else setFld s Reg.SKL_NEXT_LO Fld.SKL_NEXT_LO_ARMED 1

def execSklNextArm (lo : Word) (s : State) : Host.Outcome State Fault Refusal := finish s (nextArm s lo)

/-- A host write to SKL_NEXT_LO with ARMED clear: an armed switch is cancelled and ADDR takes the written value
(R219). A cancelled arm is no arm any more: a later one of the same program frame is judged without it, so no SWCONF comes
of the two (DESIGN CHOICE, log entry 130: R213 does not say). -/
def nextCancel (s : State) (lo : Word) : State :=
  setFld (setFld s Reg.SKL_NEXT_LO Fld.SKL_NEXT_LO_ARMED 0) Reg.SKL_NEXT_LO Fld.SKL_NEXT_LO_ADDR
    (Fld.SKL_NEXT_LO_ADDR.get lo)

def execSklNextCancel (lo : Word) (s : State) : Host.Outcome State Fault Refusal := finish s (nextCancel s lo)

/-! ## Late weights (R215 to R217) -/

/-- Where a pass takes its lines. -/
inductive SklPath where
  | loft | shadow | direct
  deriving DecidableEq, Repr

/-- The object of a line is resident (R263). -/
def lineResident (s : State) (l : Nat) : Bool :=
  match objOfLine s l with
  | some j => (objAt s j).mstate = msResident
  | none => false

def deadlineJob (s : State) : Bool := s.host.job.any fun j => j.cls = 2

/-- The path of a DOT or STAGE pass, decided at issue (R215, R216). -/
def sklPath (s : State) (e : MEntry) : SklPath :=
  if !deadlineJob s || lineResident s e.wline then .loft
  else if e.shv && lineResident s e.sline then .shadow else .direct

/-- A pass on a cheaper path of output group g (R61, R217). -/
def countDegraded (s : State) (g cnt bit : Nat) : State :=
  let s := raise (bump s Reg.FRM_DEGRADED 1) Reg.FRM_INTSTAT Fld.FRM_INTSTAT_DEGRADED.bit
  let job := s.host.job.map fun j => { j with degraded := j.degraded ||| 2 ^ g }
  raise (bump { s with host := { s.host with job := job } } cnt 1) Reg.SKL_INTSTAT bit

def countPath (s : State) (g : Nat) : SklPath → State
  | .loft => s
  | .shadow => countDegraded s g Reg.SKL_SHADOW Fld.SKL_INTSTAT_SHADOW.bit
  | .direct => countDegraded s g Reg.SKL_DIRECT Fld.SKL_INTSTAT_DIRECT.bit

/-! ## Reading lines (R197, R198, R211) -/

/-- A line of a pass: the whole line, through the Loft with a fill where it misses, or from its Granary copy. -/
def sickleLine (s : State) (l : Nat) (direct : Bool) : State × Except Bad (List Byte) :=
  let a := 4096 * l
  if direct then
    match uninitIn s a 4096 with
    | some _ => load s a 4096
    | none =>
      match checkRange 9 s 2 a 4096 with
      | (s, some b) => (s, .error b)
      | (s, none) => (s, .ok (peek s a 4096))
  else
    match serveOf s l with
    | .hit => load (fetchLine s l) a 4096
    | .around => load s a 4096
    | .miss =>
      match load s a 4096 with
      | (s, .error b) => (bump s (Reg.LFT_MISSES (sliceOf a)) 1, .error b)
      | (s, .ok bs) => (fetchLine s l, .ok bs)

/-- The first line and format a pass reads from an entry. -/
def passLines (e : MEntry) (p : SklPath) : Nat × Nat := if p = .shadow then (e.sline, 0) else (e.wline, e.wfmt)

/-- The lines of a DOT pass on presented bough n: those of its own slice, ascending (R198). -/
def dotLines (e : MEntry) (p : SklPath) (n : Nat) : List Nat :=
  let lf := passLines e p
  ((List.range (e.lines lf.2)).map (· + lf.1)).filter fun l => sliceOf (4096 * l) = n

/-- Length of segment g of a row (R202). -/
def MEntry.segK (e : MEntry) (g : Nat) : Nat := if g + 1 = e.g then e.l - g * e.seglen else e.seglen

/-- The value of element i of the segment at position p of a line (R200). -/
def segElem (e : MEntry) (fmt : Nat) (line : List Byte) (p i : Nat) : Num :=
  operandAt line fmt (packOf fmt e.seglen) e.seglen (e.seglen * (codeBits fmt / 8)) p i

/-- Scale bytes of the blocks of a segment, k elements long. -/
def segScales (e : MEntry) (fmt : Nat) (line : List Byte) (p k : Nat) : List Byte :=
  let nb := e.seglen / 32
  bytesAt line (scaleStart fmt (packOf fmt e.seglen) e.seglen + p * nb) (cdiv k 32)

/-- The segments of a line: position and index (R200). -/
def lineSegs (e : MEntry) (first fmt l : Nat) : List (Nat × Nat) :=
  let pk := packOf fmt e.seglen
  ((List.range pk).map fun p => (p, (l - first) * pk + p)).filter fun x => x.2 < e.j

/-! ## DOT (R202, R203) -/

/-- One partial: segment j against a vector held as bytes. -/
def dotPartial (strict : Bool) (e : MEntry) (fmt vfmt : Nat) (line vec : List Byte) (p j : Nat) : Nat × Ev :=
  let g := j % e.g
  let terms := (List.range (e.segK g)).map fun i =>
    numMul (segElem e fmt line p i) (numDecode (fmtD vfmt) (elemAt vec vfmt 0 (g * e.seglen + i)))
  let a := accumulate strict (accStart strict) terms
  let r := drain32 strict a.1
  (r.1, evAdd a.2 r.2)

/-- The presented boughs whose Cribs take the partials: the pass's own, or those of DMASK. -/
def dotDests (s : State) (b : Nat) (d : Sickle) : List Nat :=
  if d.dmask = 0 then [fld s (Reg.BGH_STATUS b) Fld.BGH_STATUS_PRESENTED]
  else (maskBoughs d.dmask).filter fun n => phys s n < 68

/-- Write the four bytes of a partial to every destination, or hold it for a bough whose copy runs (R150); the first write
that cannot be made stops. -/
def writePartial (v : Nat) (a : Nat) (s : State) : List Nat → State × Option Bad
  | [] => (s, none)
  | n :: t =>
    if netHeld s n then
      writePartial v a { s with integ := { s.integ with heldParts := s.integ.heldParts ++ [(n, a, v)] } } t
    else
      match placePartial s n a v with
      | (s, some bad) => (s, some bad)
      | (s, none) => writePartial v a s t

/-- The partials of one segment against every vector. -/
def dotSegment (b : Nat) (d : Sickle) (e : MEntry) (fmt : Nat) (line : List Byte) (vecs : List (List Byte))
    (r : State × Option Bad) (seg : Nat × Nat) : State × Option Bad :=
  (vecs.zipIdx).foldl (fun (r : State × Option Bad) (vec, v) =>
    match r with
    | (s, some bad) => (s, some bad)
    | (s, none) =>
      let x := dotPartial (strictMode s) e fmt d.vfmt line vec seg.1 seg.2
      writePartial x.1 (64 * d.poff + 64 * v * d.pstep + 4 * seg.2) (numEvB s (Reg.THR_NUMOVF b) x.2) (dotDests s b d))
    r

/-- One line of a DOT pass. -/
def dotLine (b : Nat) (d : Sickle) (e : MEntry) (p : SklPath) (vecs : List (List Byte)) (r : State × Option Bad)
    (l : Nat) : State × Option Bad :=
  match r with
  | (s, some bad) => (s, some bad)
  | (s, none) =>
    let lf := passLines e p
    match sickleLine s l (p = .direct) with
    | (s, .error bad) => (s, some bad)
    | (s, .ok line) =>
      let segs := lineSegs e lf.1 lf.2 l
      let nan := if codeScaled lf.2 then
          (segs.map fun x => (segScales e lf.2 line x.1 (e.segK (x.2 % e.g))).countP (· = 255)).sum
        else 0
      segs.foldl (dotSegment b d e lf.2 line vecs) (numEvB s (Reg.THR_NUMOVF b) { scnan := nan }, none)

/-- Read the vectors of a DOT pass. -/
def readVecs (s : State) (b : Nat) (d : Sickle) (n : Nat) : Nat → State × Except Bad (List (List Byte))
  | 0 => (s, .ok [])
  | k + 1 =>
    match readVecs s b d n k with
    | (s, .error bad) => (s, .error bad)
    | (s, .ok vs) =>
      match load s (cribBase b + 64 * d.voff + 64 * k * d.vstep) n with
      | (s, .error bad) => (s, .error bad)
      | (s, .ok v) => (s, .ok (vs ++ [v]))

/-- After the last line of a pass, or the line that stopped it (R496). -/
def passEnd (r : State × Option Bad) : State :=
  match r with
  | (s, none) => s
  | (s, some bad) => stopConsumer s false bad 0

/-- Close the rounds of the lines of a pass (R310); false while one still holds contributions. -/
def closeLines (s : State) (ls : List Nat) : State × Bool :=
  ls.foldl (fun (r : State × Bool) l => let x := closeRounds r.1 (4096 * l) 4096; (x.1, r.2 && x.2)) (s, true)

/-- The presented number of a physical bough. -/
def presNo (s : State) (b : Nat) : Nat := fld s (Reg.BGH_STATUS b) Fld.BGH_STATUS_PRESENTED

def runDot (s : State) (b id : Nat) (body : List Byte) : State :=
  let d := sickleOf body
  let e := mentryAt s d.entry
  let p := sklPath s e
  let s := countPath s d.ogroup p
  let ls := dotLines e p (presNo s b)
  let s := (closeLines s ls).1
  let s :=
    if ls.isEmpty then s
    else
      match readVecs s b d (e.l * (codeBits d.vfmt / 8)) d.nvec with
      | (s, .error bad) => stopConsumer s false bad 0
      | (s, .ok vecs) => passEnd (ls.foldl (dotLine b d e p vecs) (s, none))
  markDone s b id

/-! ## STAGE (R214, R216) -/

/-- The rows of a STAGE pass. -/
def stageRows (d : Sickle) : Nat := d.dmask % 2 ^ 20

/-- The lines a STAGE pass reads, ascending. -/
def stageLines (d : Sickle) (e : MEntry) (p : SklPath) : List Nat :=
  let lf := passLines e p
  let pk := packOf lf.2 e.seglen
  let lo := d.row0 * e.g / pk
  let hi := ((d.row0 + stageRows d) * e.g - 1) / pk
  (List.range (hi + 1 - lo)).map (· + lo + lf.1)

/-- Write byte runs to a Crib up to the first that cannot be written. -/
def storeRuns (b : Nat) (r : State × Option Bad) (x : Nat × List Byte) : State × Option Bad :=
  match r with
  | (s, some bad) => (s, some bad)
  | (s, none) => store s (cribBase b + x.1) x.2

/-- Encode k elements as blocks of a scaled format (R115): element bytes and scale bytes. -/
def encodeBlocks (strict : Bool) (c : Nat) (xs : List Num) (nb : Nat) : List Byte × List Byte × Ev :=
  (List.range nb).foldl (fun (acc : List Byte × List Byte × Ev) j =>
    let cells := (List.range 32).map fun i => (Cell.val ((xs[32 * j + i]?).getD (numZero false)), numZero false)
    let (sc, es, ev) := blockOut strict c 0 cells
    (acc.1 ++ packElems (codeBits c) es, acc.2.1 ++ [BitVec.ofNat 8 sc], evAdd acc.2.2 ev)) ([], [], {})

/-- The bytes of a segment as the Crib takes them: element bytes, scale bytes and the events of a conversion. -/
def stageBytes (strict : Bool) (e : MEntry) (p : SklPath) (line : List Byte) (pos k : Nat) : List Byte × List Byte × Ev :=
  let nb := cdiv k 32
  if p = .shadow then
    let xs := (List.range k).map fun i => segElem e 0 line pos i
    let nan := (segScales e 0 line pos k).countP (· = 255)
    if codeScaled e.wfmt then
      let r := encodeBlocks strict e.wfmt xs nb
      (r.1, r.2.1, evAdd r.2.2 { scnan := nan })
    else
      let r := xs.map fun x => numEncode (fmtD e.wfmt) strict .rne 0 x
      (packElems (codeBits e.wfmt) (r.map (·.1)), [], r.foldl (fun a x => evAdd a x.2) { scnan := nan })
  else if codeScaled e.wfmt then
    (bytesAt line (pos * (e.seglen / 32) * blockBytes e.wfmt) (nb * blockBytes e.wfmt), segScales e e.wfmt line pos k, {})
  else
    let w := codeBits e.wfmt / 8
    (bytesAt line (pos * e.seglen * w) (k * w), [], {})

/-- One segment of a STAGE pass goes to its place in the Crib. -/
def stageSegment (b : Nat) (d : Sickle) (e : MEntry) (p : SklPath) (line : List Byte) (r : State × Option Bad)
    (seg : Nat × Nat) : State × Option Bad :=
  match r with
  | (s, some bad) => (s, some bad)
  | (s, none) =>
    let row := seg.2 / e.g - d.row0
    let g := seg.2 % e.g
    let base := 64 * d.voff
    let (es, ss, ev) := stageBytes (strictMode s) e p line seg.1 (e.segK g)
    let s := numEvB s (Reg.THR_NUMOVF b) ev
    if codeScaled e.wfmt then
      let nb := cdiv e.l 32
      let o := row * nb + g * (e.seglen / 32)
      storeRuns b (storeRuns b (s, none) (base + o * blockBytes e.wfmt, es))
        (base + scaleStart e.wfmt (stageRows d) e.l + o, ss)
    else storeRuns b (s, none) (base + row * 64 * d.vstep + g * e.seglen * (codeBits e.wfmt / 8), es)

def stageLine (b : Nat) (d : Sickle) (e : MEntry) (p : SklPath) (r : State × Option Bad) (l : Nat) :
    State × Option Bad :=
  match r with
  | (s, some bad) => (s, some bad)
  | (s, none) =>
    let lf := passLines e p
    match sickleLine s l (p = .direct) with
    | (s, .error bad) => (s, some bad)
    | (s, .ok line) =>
      let segs := (lineSegs e lf.1 lf.2 l).filter fun x =>
        d.row0 * e.g ≤ x.2 && x.2 < (d.row0 + stageRows d) * e.g
      segs.foldl (stageSegment b d e p line) (s, none)

def runStage (s : State) (b id : Nat) (body : List Byte) : State :=
  let d := sickleOf body
  let e := mentryAt s d.entry
  let p := sklPath s e
  let s := countPath s d.ogroup p
  let ls := stageLines d e p
  let s := (closeLines s ls).1
  markDone (passEnd (ls.foldl (stageLine b d e p) (s, none))) b id

/-! ## The passes -/

/-- The lines a pass would read if it issued now. -/
def passReads (s : State) (b : Nat) (body : List Byte) : List Nat :=
  let d := sickleOf body
  let e := mentryAt s d.entry
  match d.op with
  | 0 => dotLines e (sklPath s e) (presNo s b)
  | 1 => stageLines d e (sklPath s e)
  | _ => []

/-- A pass at the walk of bough n that must wait for a round to close (R310), and the state with the wait on record. -/
def passWaits (s : State) (n t op : Nat) : Option State :=
  match walkTo s n with
  | .item u b i body =>
    if i.kind = 3 && (sickleOf body).op = op && issueOk u b i body t then
      match closeLines u (passReads u b body) with
      | (v, false) => some v
      | (_, true) => none
    else none
  | _ => none

def sicklePass (op : Nat) (run : State → Nat → Nat → List Byte → State) (n t : Nat) (s : State) :
    Host.Outcome State Fault Refusal :=
  match passWaits s n t op with
  | some v => finish s v
  | none => issue s n 3 t (fun body => (sickleOf body).op = op) run

/-- DOT_PASS (R203). -/
def execDotPass (n t : Nat) (s : State) : Host.Outcome State Fault Refusal := sicklePass 0 runDot n t s

/-- STAGE_PASS (R214). -/
def execStagePass (n t : Nat) (s : State) : Host.Outcome State Fault Refusal := sicklePass 1 runStage n t s

/-- A SWITCH pass arms its table and is done (R212). -/
def runSwitch (s : State) (b id : Nat) (body : List Byte) : State :=
  markDone (armSwitch s (sickleOf body).table) b id

/-- SWITCH_PASS (R212). -/
def execSwitchPass (n t : Nat) (s : State) : Host.Outcome State Fault Refusal :=
  issue s n 3 t (fun body => (sickleOf body).op = 2) runSwitch

end Sys2Proof.Machine
end

