-- ==== Sys2Proof/Machine/Floor.lean ====
section
/-! DEFINITION. The Floor: bursts, ranging, joining, the tick leader, telemetry, leaving and hold-over (R459 to R489). -/

namespace Sys2Proof.Machine

/-- Burst types (R460). -/
def btBeacon : Nat := 1
def btRange : Nat := 2
def btJoin : Nat := 3
def btTelem : Nat := 4
def btLeave : Nat := 5
def btClaim : Nat := 6

/-- FLR_STATUS.STATE (R491). -/
def fsOff : Nat := 0
def fsListen : Nat := 1
def fsRange : Nat := 2
def fsJoin : Nat := 3
def fsMember : Nat := 4
def fsLeader : Nat := 5
def fsRefused : Nat := 6

/-- Reasons of R483. -/
def frPeriod : Nat := 1
def frUnlisted : Nat := 2
def frDuplicate : Nat := 3
def frForeign : Nat := 4

def mapFloor (s : State) (f : FloorSt → FloorSt) : State := { s with floor := f s.floor }
def flrState (s : State) : Nat := fld s Reg.FLR_STATUS Fld.FLR_STATUS_STATE
def setFlrState (s : State) (v : Nat) : State := setFld s Reg.FLR_STATUS Fld.FLR_STATUS_STATE v
def setReason (s : State) (v : Nat) : State := setFld s Reg.FLR_STATUS Fld.FLR_STATUS_REASON v
def fidx (s : State) : Nat := fld s Reg.FLR_CFG Fld.FLR_CFG_FIDX
def lrank (s : State) : Nat := fld s Reg.FLR_CFG Fld.FLR_CFG_LRANK
def joined (s : State) : Bool := fld s Reg.FRM_STATUS Fld.FRM_STATUS_JOINED = 1
def setJoined (s : State) (v : Nat) : State := setFld s Reg.FRM_STATUS Fld.FRM_STATUS_JOINED v

/-! ## Members (R476, R491) -/

def isMember (s : State) (i : Nat) : Bool := i < 256 && bitN (regN s (Reg.FLR_MEMBERS (i / 32))) (i % 32)

def memberCount (s : State) : Nat := ((List.range 256).filter (isMember s)).length

def syncNmem (s : State) : State := setFld s Reg.FLR_STATUS Fld.FLR_STATUS_NMEM (memberCount s)

def setMember (s : State) (i : Nat) (v : Bool) : State :=
  let a := Reg.FLR_MEMBERS (i / 32)
  syncNmem (setRegN s a (putBits (regN s a) (i % 32) (i % 32) (if v then 1 else 0)))

/-- Take the MEMBERS field of a beacon. -/
def takeMembers (s : State) (bs : List Byte) : State :=
  syncNmem ((List.range 8).foldl (fun s j => setRegN s (Reg.FLR_MEMBERS j) (leAt bs (24 + 4 * j) 4)) s)

def membersBytes (s : State) : List Byte := (List.range 8).flatMap fun j => leBytes 4 (regN s (Reg.FLR_MEMBERS j))

/-! ## Bursts (R460, R461) -/

/-- The header of a burst, whose payload length it carries. -/
def burstHeader (kind segment src idx frame len : Nat) : List Byte :=
  leBytes 1 kind ++ leBytes 1 0 ++ leBytes 2 segment ++ leBytes 3 src ++ leBytes 1 idx ++ leBytes 6 frame ++ leBytes 2 len
    ++ leBytes 16 0

def floorKey (s : State) : List Byte :=
  shake256 (ascii "YOCIA FLOOR" ++ linkSecret s ++ leBytes 2 (fld s Reg.FAB_PKEY Fld.FAB_PKEY_PKEY)) 32

/-- The header and the payload of a burst. -/
def burstBytes (bu : Burst) : List Byte :=
  burstHeader bu.kind bu.segment bu.src bu.fidx bu.frame bu.payload.length ++ bu.payload

def floorTag (s : State) (bu : Burst) : List Byte := kmac256 (floorKey s) (burstBytes bu) (ascii "YOCIA FLOOR")

/-- The CRC-32C of a burst: over the header, the payload and the tag (R460). -/
def burstCrc (bu : Burst) : Nat := crc32c (burstBytes bu ++ bu.tag)

def crcGood (bu : Burst) : Bool := bu.crc = burstCrc bu

def segmentOf (s : State) : Nat := fld s Reg.FLR_CFG Fld.FLR_CFG_SEGMENT

/-- A burst is valid (R461); one heard before the Seed gives the segment and the key is a stranger's. -/
def burstValid (s : State) (bu : Burst) : Bool :=
  s.seed.read && crcGood bu && bu.segment = segmentOf s && bu.tag = floorTag s bu

/-- A burst this device sends. -/
def mkBurst (s : State) (kind : Nat) (payload : List Byte) : Burst :=
  let bu : Burst := { kind := kind, segment := segmentOf s, src := deviceId s, fidx := fidx s, frame := frameNo s
                      payload := payload, tag := [], crc := 0 }
  let bu := { bu with tag := floorTag s bu }
  { bu with crc := burstCrc bu }

def sendBurst (s : State) (kind : Nat) (payload : List Byte) : State :=
  { s with wire := s.wire ++ [.burst (mkBurst s kind payload)] }

/-- A stranger's burst (R485). -/
def stranger (s : State) : State := raise (bump s Reg.FLR_STRANGER 1) Reg.FLR_INTSTAT Fld.FLR_INTSTAT_STRANGER.bit

/-! ## Draws (R469, R482) -/

/-- A wait after the n-th failure: 0 to 2^min(n, 10) − 1 contention slots. -/
def drawWait (s : State) (n : Nat) : State × Nat :=
  let (s, d) := drawNat s
  (s, d % 2 ^ min n 10)

/-- Draw one of the next W open ranging slots; `f` is the first frame that may hold one. -/
def drawRange (s : State) (f : Nat) : State :=
  let (s, d) := drawNat s
  let first := if f % 2 = 1 then f else f + 1
  mapFloor s fun x => { x with rslot := first + 2 * (d % x.w) }

/-- S contention slots of the join window. -/
def joinSlots (s : State) : Nat := 1000000 / s.frm.period

/-- Begin a join window at a frame's contention slot: an epoch and a slot within it, both drawn. -/
def joinWindow (s : State) (f : Nat) : State :=
  let (s, e) := drawNat s
  let (s, d) := drawNat s
  let n := joinSlots s
  let lo := e % 1024 * n / 1024
  let hi := (e % 1024 + 1) * n / 1024
  mapFloor s fun x => { x with jstart := f, jslot := f + lo + d % (hi - lo), fails := 0, jsent := none }

/-- A JOIN has failed; `f` is the frame of the next contention slot. -/
def joinFailed (s : State) (f : Nat) : State :=
  let n := s.floor.fails + 1
  let (s, d) := drawWait s n
  mapFloor s fun x => { x with fails := n, jslot := f + d, jsent := none }

/-- A corrupt burst is heard while one of this device's own is in the slot: its own is lost to a collision (R482, R490). -/
def ownLost (s : State) : State :=
  if s.floor.air then mapFloor (bump s Reg.FLR_COLLIDE 1) fun x => { x with air := false }
  else if s.floor.cont = some (frameNo s) then
    let s := mapFloor (bump s Reg.FLR_COLLIDE 1) fun x => { x with cont := none }
    if s.floor.jsent.isSome then joinFailed s (frameNo s + 1) else s
  else s

/-- A burst as a receiver hears it: `act` is what a valid one of the type does; a valid one of another type does nothing
here, and every other burst is a stranger's, whatever its type (R461, R485). -/
def hearBurst (kind : Nat) (bu : Burst) (act : State → State) (s : State) : State :=
  if !crcGood bu then stranger (bump (ownLost s) Reg.FLR_CRCERR 1)
  else if !burstValid s bu then stranger s
  else if bu.kind = kind then act s else s

/-! ## The tick leader (R477 to R480) -/

/-- The device has a time source (R479). -/
def timeSource (s : State) : Bool :=
  (flrState s = fsLeader && (isRootGw s || s.floor.broot)) || (isGateway s && portUp s (parentPort s))

/-- Begin beaconing; a device that was not joined is now joined to its own Floor. -/
def beginLeading (s : State) : State :=
  let s := if joined s then s else raise (takeMembers (setJoined s 1) []) Reg.FLR_INTSTAT Fld.FLR_INTSTAT_JOINED.bit
  let s := setMember s (fidx s) true
  let s := setFld s Reg.FLR_STATUS Fld.FLR_STATUS_LEADER (fidx s)
  let s := setFld s Reg.FRM_STATUS Fld.FRM_STATUS_LEADER 1
  let s := mapFloor s fun x => { x with takes := false, claims := [], refusals := [], silent := [], quiet := 0
                                        holdcnt := fld s Reg.FLR_HOLD Fld.FLR_HOLD_FRAMES }
  raise (setFlrState s fsLeader) Reg.FLR_INTSTAT Fld.FLR_INTSTAT_LEADER.bit

/-- Stop beaconing. -/
def stopLeading (s : State) (state : Nat) : State :=
  let s := if flrState s = fsLeader then setFld s Reg.FRM_STATUS Fld.FRM_STATUS_LEADER 0 else s
  setFlrState (mapFloor s fun x => { x with claims := [], takes := false }) state

/-- The lowest rank among the claims: its Floor index. -/
def bestClaim : List (Nat × Nat) → Option (Nat × Nat)
  | [] => none
  | x :: t =>
    match bestClaim t with
    | none => some x
    | some y => if y.1 < x.1 then some y else some x

def refusalBytes (r : Nat × Nat) : List Byte := leBytes 6 (r.1 % 2 ^ 18 + r.2 * 2 ^ 18)

/-- The payload of the next beacon (R476). -/
def beaconBytes (s : State) (hold : Bool) (yieldTo : Option Nat) (refs : List (Nat × Nat)) : List Byte :=
  let root := isRootGw s || s.floor.broot
  let flags := (if hold then 1 else 0) + (if root then 2 else 0) + (if yieldTo.isSome then 4 else 0)
  let rs := refs.flatMap refusalBytes
  leBytes 2 (fld s Reg.FAB_PKEY Fld.FAB_PKEY_PKEY) ++ leBytes 2 s.frm.period ++ leBytes 1 s.frm.win ++ leBytes 1 (lrank s)
    ++ leBytes 1 flags ++ leBytes 1 (yieldTo.getD 0) ++ leBytes 8 (pindex s) ++ leBytes 2 s.floor.holdcnt ++ leBytes 6 0
    ++ membersBytes s ++ rs ++ List.replicate (24 - rs.length) 0#8 ++ leBytes 16 0

/-- The beacon slot of the leader (R463, R476, R480, R483). -/
def sendBeacon (s : State) : State :=
  let hold := !timeSource s
  let s := mapFloor s fun x => { x with holdcnt := if hold then min (x.holdcnt + 1) 4096 else 0 }
  let refs := s.floor.refusals.take 4
  let y := (bestClaim s.floor.claims).map (·.2)
  let s := sendBurst s btBeacon (beaconBytes s hold y refs)
  let s := mapFloor (bump s Reg.FLR_JOINREF refs.length) fun x => { x with refusals := x.refusals.drop 4 }
  if y.isSome then stopLeading s fsMember else s

/-! ## Hold-over (R488) -/

/-- Show hold-over of this frame and FLR_HOLD. -/
def showHold (s : State) (hold : Bool) (n : Nat) : State :=
  let was := fld s Reg.FRM_STATUS Fld.FRM_STATUS_HOLDOVER = 1
  let s := setFld s Reg.FRM_STATUS Fld.FRM_STATUS_HOLDOVER (if hold then 1 else 0)
  let s := setFld s Reg.FLR_HOLD Fld.FLR_HOLD_FRAMES (if hold then min n 4096 else 0)
  if hold && !was then raise s Reg.FRM_INTSTAT Fld.FRM_INTSTAT_HOLDOVER.bit else s

/-- Judge the running frame once its beacon slot is over: a frame without a valid beacon is counted, and a member holds
over in it. -/
def judgeFrame (s : State) : State :=
  if s.floor.heard || s.floor.judged || !s.seed.read then s
  else
    let s := mapFloor (bump s Reg.FLR_BEACONMISS 1) fun x => { x with judged := true, run := min (x.run + 1) 4096 }
    if joined s then showHold s true (max s.floor.run (fld s Reg.FLR_HOLD Fld.FLR_HOLD_FRAMES)) else s

/-! ## Leaving (R487, R489) -/

/-- Begin to leave: LEAVE goes out from the next contention slot on. -/
def startLeave (s : State) (payload : Nat) : State :=
  mapFloor s fun x => { x with leaving := some payload, lslot := frameNo s, ltries := 0 }

/-- FLOOR_EXIT (R489, R622). -/
def floorExit (s : State) : State :=
  if fld s Reg.FLR_HOLD Fld.FLR_HOLD_FRAMES < 4096 || !joined s then s
  else
    let s := endJob (preemptAll s) 11 0
    let s := startLeave s 1
    let s := stopLeading s fsListen
    let s := setFld s Reg.FLR_HOLD Fld.FLR_HOLD_FRAMES 0
    let s := setFld s Reg.FRM_STATUS Fld.FRM_STATUS_HOLDOVER 0
    let s := { s with host := { s.host with mirror := [] } }
    let s := mapFloor s fun x => { x with ranged := false, w := 64, echo := false, run := 0, quiet := 0, known := false }
    raise (setJoined s 0) Reg.FRM_INTSTAT Fld.FRM_INTSTAT_EXIT.bit

def execFloorExit (s : State) : Host.Outcome State Fault Refusal := finish s (floorExit s)

/-! ## Beacons received (R476 to R485) -/

def beaconFlags (bu : Burst) : Nat := leAt bu.payload 6 1

/-- The reason of a refusal entry for a device, if the beacon holds one. -/
def refusalIn (bu : Burst) (id : Nat) : Option Nat :=
  ((List.range 4).map fun j => leAt bu.payload (56 + 6 * j) 6).findSome? fun v =>
    if v ≠ 0 && v % 2 ^ 18 = id then some (bitsN v 21 18) else none

/-- Bit i of a beacon's MEMBERS. -/
def beaconMember (bu : Burst) (i : Nat) : Bool := bitN (leAt bu.payload 24 32) i

/-- The device is joined from this beacon (R484). -/
def joinNow (s : State) (bu : Burst) : State :=
  let s := setReg64 (setReg64 s Reg.FRM_COUNT_LO bu.frame) Reg.FRM_PINDEX_LO (leAt bu.payload 8 8)
  let s := setFld (setFld s Reg.FRM_STATUS Fld.FRM_STATUS_TICKING 1) Reg.FRM_STATUS Fld.FRM_STATUS_LEADER 0
  let s := mapFloor s fun x => { x with jsent := none, fails := 0 }
  raise (setFlrState (setJoined s 1) fsMember) Reg.FLR_INTSTAT Fld.FLR_INTSTAT_JOINED.bit

/-- After an announced exit the device stays out (R506). -/
def exiting (s : State) : Bool := fld s Reg.INT_STATUS Fld.INT_STATUS_EXITING = 1

/-- PERIOD or WIN of the Seed differs from a beacon's (R481). -/
def otherPeriod (s : State) (bu : Burst) : Bool := leAt bu.payload 2 2 ≠ s.seed.period || leAt bu.payload 4 1 ≠ s.seed.win

/-- The way towards membership that a valid beacon opens; a device that is on its way sends no JOIN and keeps listening
while PERIOD or WIN differs (R481, R482, R484). -/
def beaconJoin (s : State) (bu : Burst) : State :=
  let mine := beaconMember bu (fidx s)
  let start := flrState s = fsListen || flrState s = fsRange || flrState s = fsJoin
  if start && otherPeriod s bu then setFlrState (setReason (mapFloor s fun x => { x with jsent := none }) frPeriod) fsListen
  else if flrState s = fsListen then
      let s := setReg64 s Reg.FRM_COUNT_LO bu.frame
      if s.floor.ranged then joinWindow (setFlrState s fsJoin) bu.frame else drawRange (setFlrState s fsRange) bu.frame
  else if flrState s = fsJoin then
    if mine then joinNow s bu
    else
      match refusalIn bu (deviceId s) with
      | some r =>
        raise (setFlrState (setReason s r) fsRefused) Reg.FLR_INTSTAT Fld.FLR_INTSTAT_REFUSED.bit
      | none => if s.floor.jsent.isSome then joinFailed s (frameNo s) else s
  else if flrState s = fsMember && !mine then joinWindow (setFlrState (setJoined s 0) fsJoin) (frameNo s)
  else s

/-- A leader that hears a valid beacon of lower rank stops beaconing, ranges and joins as a member (R479). -/
def yieldFloor (s : State) (bu : Burst) : State :=
  let s := mapFloor (setJoined (stopLeading s fsListen) 0) fun x => { x with ranged := false, w := 64, echo := false }
  if otherPeriod s bu then setReason s frPeriod else drawRange (setFlrState s fsRange) bu.frame

/-- A valid beacon of another device. -/
def beaconOther (s : State) (bu : Burst) : State :=
  if flrState s = fsLeader then
    if leAt bu.payload 5 1 < lrank s then yieldFloor s bu else s
  else
    let s := takeMembers (setFld s Reg.FLR_STATUS Fld.FLR_STATUS_LEADER bu.fidx) bu.payload
    let s := mapFloor s fun x => { x with
      takes := flrState s = fsMember && bitN (beaconFlags bu) 2 && leAt bu.payload 7 1 = fidx s
      leaving := if beaconMember bu (fidx s) then x.leaving else none
      ctries := if bitN (beaconFlags bu) 0 then x.ctries else 0 }
    if exiting s then s else beaconJoin s bu

/-- A valid beacon (R476, R488). -/
def beaconValid (bu : Burst) (s : State) : State :=
  let hold := bitN (beaconFlags bu) 0
  let s := mapFloor (bump s Reg.FLR_BEACONS 1) fun x => { x with
    heard := true, known := true, quiet := 0, run := 0, bhold := hold, broot := bitN (beaconFlags bu) 1
    brank := leAt bu.payload 5 1 }
  let s := if bu.src = deviceId s then s else beaconOther s bu
  if joined s then showHold s hold (leAt bu.payload 16 2) else s

/-- BEACON: any beacon-type burst with a good CRC ends the quiet of R479; a device that hears only strangers' beacons
holds back (R485). -/
def hearBeacon (s : State) (bu : Burst) : State :=
  let s := if bu.kind = btBeacon && crcGood bu then mapFloor s fun x => { x with quiet := 0 } else s
  let s := if bu.kind = btBeacon && crcGood bu && !burstValid s bu && flrState s = fsListen && !s.floor.known then
    setReason s frForeign else s
  hearBurst btBeacon bu (beaconValid bu) s

def execBeacon (bu : Burst) (s : State) : Host.Outcome State Fault Refusal := finish s (hearBeacon s bu)

/-! ## Slots of the Floor frame (R463) -/

/-- The Floor index that owns telemetry slot k (R486). -/
def telemOwner (s : State) (k : Nat) : Nat := (frameNo s * fld s Reg.FLR_NTEL Fld.FLR_NTEL_NTEL + k) % 256

/-- A member's telemetry slot ends with nothing valid heard from it (R486). -/
def endTelem (s : State) : State :=
  match s.floor.due with
  | none => s
  | some i => mapFloor s fun x => { x with
      due := none, silent := kset (fun _ => 0) x.silent i (kget (fun _ => 0) x.silent i + 1) }

/-- Send a burst whose echo comes back in the slot (R490). -/
def sendHeard (s : State) : State := mapFloor s fun x => { x with air := true }

/-- The slot before is over. -/
def endSlot (s : State) : State := mapFloor (endTelem s) fun x => { x with air := false }

/-- What this device sends in a slot that begins. -/
def slotBegins (s : State) : FloorSlot → State
  | .beacon => if flrState s = fsLeader then sendHeard (sendBeacon s) else s
  | .flags =>
    let s := judgeFrame s
    if joined s && s.floor.leaving.isNone then { s with wire := s.wire ++ (flashes s).map Wire.flash } else s
  | .ranging =>
    if joined s && frameNo s % 2 = 0 && frameNo s / 2 % 256 = fidx s then
      mapFloor (sendBurst s btRange []) fun x => { x with echo := true }
    else s
  | .telemetry k =>
    if !joined s || fld s Reg.FLR_NTEL Fld.FLR_NTEL_NTEL ≤ k then s
    else if telemOwner s k = fidx s then
      sendHeard { sendBurst s btTelem ((Config.telemetry s.free).take 448) with free := s.free + 1 }
    else if flrState s = fsLeader && isMember s (telemOwner s k) then
      mapFloor s fun x => { x with due := some (telemOwner s k) }
    else s

/-- FLOOR_SLOT (R463). -/
def floorSlot (s : State) (slot : FloorSlot) : State := slotBegins (endSlot s) slot

def execFloorSlot (slot : FloorSlot) (s : State) : Host.Outcome State Fault Refusal := finish s (floorSlot s slot)

/-! ## Ranging (R466, R469) -/

/-- RANGE_ATTEMPT: an unranged device sends RANGE in its drawn open slot. -/
def rangeAttempt (s : State) : State :=
  if flrState s = fsRange && !s.floor.ranged && !s.floor.echo && frameNo s % 2 = 1 && s.floor.rslot ≤ frameNo s then
    mapFloor (sendBurst s btRange []) fun x => { x with echo := true }
  else s

def execRangeAttempt (s : State) : Host.Outcome State Fault Refusal := finish s (rangeAttempt s)

/-- RANGE_ECHO: d in 1/16 ns, or a collision. -/
def rangeEcho (s : State) (delay : Nat) (whole : Bool) : State :=
  if !s.floor.echo then s
  else
    let s := mapFloor s fun x => { x with echo := false }
    if whole then
      let first := !s.floor.ranged
      let s := mapFloor s fun x => { x with ranged := true, w := 64, applied := if first then delay else x.applied }
      let s := setFld s Reg.FLR_RANGE Fld.FLR_RANGE_DELAY delay
      if flrState s = fsRange then joinWindow (setFlrState s fsJoin) (frameNo s) else s
    else
      let s := bump s Reg.FLR_COLLIDE 1
      if s.floor.ranged then s
      else drawRange (mapFloor s fun x => { x with w := min (2 * x.w) 1024 }) (frameNo s + 1)

def execRangeEcho (delay : Nat) (whole : Bool) (s : State) : Host.Outcome State Fault Refusal :=
  finish s (rangeEcho s delay whole)

/-! ## Joining (R482, R483) -/

/-- JOIN_ATTEMPT: JOIN goes out in the drawn contention slot. -/
def joinAttempt (s : State) : State :=
  if flrState s = fsJoin && s.floor.ranged && s.floor.jsent.isNone && s.floor.jslot ≤ frameNo s then
    let bs := leBytes 2 s.seed.period ++ leBytes 1 s.seed.win ++ leBytes 1 0
      ++ leBytes 2 (fld s Reg.FWM_VERSION Fld.FWM_VERSION_MAJOR) ++ leBytes 2 0
    mapFloor (sendBurst s btJoin bs) fun x => { x with jsent := some (frameNo s), cont := some (frameNo s) }
  else s

def execJoinAttempt (s : State) : Host.Outcome State Fault Refusal := finish s (joinAttempt s)

/-- The device that the member list pairs with an index (R462). -/
def listed (s : State) (i : Nat) : Option Nat := kfind s.seed.members i

/-- What the leader answers a JOIN with: no reason when it passes (R483). -/
def joinFault (s : State) (bu : Burst) : Option Nat :=
  if leAt bu.payload 0 2 ≠ s.frm.period || leAt bu.payload 2 1 ≠ s.frm.win
      || leAt bu.payload 4 2 ≠ fld s Reg.FWM_VERSION Fld.FWM_VERSION_MAJOR then some frPeriod
  else if listed s bu.fidx = some bu.src then none
  else if isMember s bu.fidx then some frDuplicate
  else some frUnlisted

/-- A valid JOIN at the leader. -/
def joinValid (bu : Burst) (s : State) : State :=
  if flrState s ≠ fsLeader then s
  else
    match joinFault s bu with
    | none => mapFloor (setMember s bu.fidx true) fun x => { x with silent := kset (fun _ => 0) x.silent bu.fidx 0 }
    | some r => mapFloor s fun x => { x with refusals := x.refusals ++ [(bu.src, r)] }

def execJoin (bu : Burst) (s : State) : Host.Outcome State Fault Refusal := finish s (hearBurst btJoin bu (joinValid bu) s)

/-! ## Telemetry and liveness (R486, R622) -/

/-- Write an entry of the telemetry mirror: WSEQ gains 1 before and 1 after. -/
def mirrorPut (s : State) (bu : Burst) : State :=
  let old := (kfind s.host.mirror (bu.fidx % 256)).getD []
  let e := leBytes 6 bu.frame ++ leBytes 1 bu.fidx ++ leBytes 1 1 ++ leBytes 3 bu.src ++ leBytes 1 0
    ++ leBytes 2 bu.payload.length ++ leBytes 2 0 ++ leBytes 4 (leAt old 16 4 + 2) ++ leBytes 44 0 ++ bytesAt bu.payload 0 448
  { s with host := { s.host with mirror := aput s.host.mirror (bu.fidx % 256) e } }

def telemValid (bu : Burst) (s : State) : State :=
  let s := if joined s then mirrorPut s bu else s
  if flrState s = fsLeader then
    mapFloor s fun x => { x with
      silent := kset (fun _ => 0) x.silent bu.fidx 0, due := if x.due = some bu.fidx then none else x.due }
  else s

def execTelem (bu : Burst) (s : State) : Host.Outcome State Fault Refusal :=
  finish s (hearBurst btTelem bu (telemValid bu) s)

/-- MEMBER_LOST: the leader drops a member that was silent in its last 8 telemetry slots. -/
def memberLost (s : State) (i : Nat) : State :=
  if flrState s = fsLeader && isMember s i && i ≠ fidx s && 8 ≤ kget (fun _ => 0) s.floor.silent i then
    let s := mapFloor (setMember s i false) fun x => { x with silent := kset (fun _ => 0) x.silent i 0 }
    raise s Reg.FLR_INTSTAT Fld.FLR_INTSTAT_MEMBERLOST.bit
  else s

def execMemberLost (i : Nat) (s : State) : Host.Outcome State Fault Refusal := finish s (memberLost s i)

/-! ## Leaving -/

/-- LEAVE_ATTEMPT (R487). -/
def leaveAttempt (s : State) : State :=
  match s.floor.leaving with
  | none => s
  | some r =>
    if frameNo s < s.floor.lslot then s
    else
      let n := s.floor.ltries + 1
      let (s, d) := drawWait (sendBurst s btLeave (leBytes 1 r)) n
      mapFloor s fun x => { x with ltries := n, lslot := frameNo s + 1 + d, cont := some (frameNo s)
                                   leaving := if n < 16 then some r else none }

def execLeaveAttempt (s : State) : Host.Outcome State Fault Refusal := finish s (leaveAttempt s)

/-- A valid LEAVE at the leader clears the member's bit. -/
def leaveValid (bu : Burst) (s : State) : State := if flrState s = fsLeader then setMember s bu.fidx false else s

def execLeave (bu : Burst) (s : State) : Host.Outcome State Fault Refusal :=
  finish s (hearBurst btLeave bu (leaveValid bu) s)

/-! ## Claims (R480) -/

/-- CLAIM_ATTEMPT: a joined member of lower rank with a time source claims a Floor that holds over. -/
def claimAttempt (s : State) : State :=
  if joined s && flrState s = fsMember && lrank s ≠ 0 && lrank s < s.floor.brank && timeSource s && s.floor.bhold
      && !s.floor.takes && s.floor.cslot ≤ frameNo s then
    let n := s.floor.ctries + 1
    let (s, d) := drawWait (sendBurst s btClaim []) n
    mapFloor s fun x => { x with ctries := n, cslot := frameNo s + 1 + d, cont := some (frameNo s) }
  else s

def execClaimAttempt (s : State) : Host.Outcome State Fault Refusal := finish s (claimAttempt s)

/-- A valid CLAIM at the leader. -/
def claimValid (bu : Burst) (s : State) : State :=
  let r := Config.claimRank bu.src
  if flrState s = fsLeader && isMember s bu.fidx && r ≠ 0 && r < lrank s then
    mapFloor s fun x => { x with claims := x.claims ++ [(r, bu.fidx)] }
  else s

def execClaim (bu : Burst) (s : State) : Host.Outcome State Fault Refusal :=
  finish s (hearBurst btClaim bu (claimValid bu) s)

/-- The wait of R479 is over: 16 × LRANK frames for a member, else 20 ms + LRANK × 10 ms. -/
def quietEnough (s : State) : Bool :=
  if joined s then 16 * lrank s ≤ s.floor.quiet else 20000 + lrank s * 10000 ≤ s.floor.quiet * s.frm.period

/-- BEACON_TIMEOUT (R479). -/
def beaconTimeout (s : State) : State :=
  if s.seed.read && !isStart s && lrank s ≠ 0 && flrState s ≠ fsLeader && flrState s ≠ fsOff && quietEnough s then
    beginLeading s
  else s

def execBeaconTimeout (s : State) : Host.Outcome State Fault Refusal := finish s (beaconTimeout s)

/-! ## Time from the flag-tree parent (R478) -/

/-- TIME_TRANSFER_START: every 16 frames the leader of a Floor without the root asks its parent. -/
def timeTransferStart (s : State) (t1 : Nat) : State :=
  if flrState s = fsLeader && isGateway s && !isRootGw s && portUp s (parentPort s)
      && (s.floor.tlast = 0 || s.floor.tlast + 16 ≤ frameNo s) then
    mapFloor (sendLinkctl s (parentPort s) (.time t1 0 0)) fun x => { x with tlast := frameNo s, twait := some t1 }
  else s

def execTimeTransferStart (t1 : Nat) (s : State) : Host.Outcome State Fault Refusal := finish s (timeTransferStart s t1)

/-- LINKCTL_TIME (R478): a parent answers a request with T2 and T3; the child takes its offset from an answer that comes
at T4. -/
def linkctlTime (s : State) (p : Nat) (k : Packet) (t2 t3 t4 : Nat) : State :=
  let t1 := leAt k.payload 8 8
  if isGateway s && p = parentPort s && s.floor.twait = some t1 then
    mapFloor s fun x => { x with
      twait := none
      steer := (sextN 64 (wrapN 64 ((leAt k.payload 16 8 : Int) - t1))
        + sextN 64 (wrapN 64 ((leAt k.payload 24 8 : Int) - t4))) / 2 }
  else if (childPorts s).contains p then sendLinkctl s p (.time t1 t2 t3)
  else s

def execLinkctlTime (p : Nat) (pkt : Packet) (t2 t3 t4 : Nat) (s : State) : Host.Outcome State Fault Refusal :=
  finish s (recvLocal opLinkctl p pkt (fun k s => if isTime k then linkctlTime s p k t2 t3 t4 else s) s)

/-- Move a value towards a target by at most `n`. -/
def approach (n x target : Nat) : Nat := if x < target then min (x + n) target else max (x - n) target

/-- What a tick does on the Floor: the frame that ends is judged, timing moves by at most 0.5 ns (R470, R478), the named
claimant begins to beacon, and a join window that ended is followed by another. -/
def floorTick (s : State) : State :=
  let s := judgeFrame (endSlot s)
  let step (z : Int) : Int := if z < 0 then min 0 (z + 128) else max 0 (z - 128)
  let s := mapFloor s fun x => { x with
    heard := false, judged := false, quiet := x.quiet + 1, steer := step x.steer
    applied := approach 8 x.applied (fld s Reg.FLR_RANGE Fld.FLR_RANGE_DELAY) }
  let s := if s.floor.takes then beginLeading s else s
  if flrState s = fsJoin && s.floor.jstart + joinSlots s ≤ frameNo s then joinWindow s (s.floor.jstart + joinSlots s) else s

end Sys2Proof.Machine
end

