-- ==== Sys2Proof/Machine/Integrity.lean ====
section
/-! DEFINITION. Scrubbing, repairs, the flip masks and the announced exit (R495, R500, R502 to R506), and the map-out of a
Loft layer (R316, R317). -/

namespace Sys2Proof.Machine

def mapInteg (s : State) (f : IntegSt → IntegSt) : State := { s with integ := f s.integ }
def mapEcc (s : State) (f : EccSt → EccSt) : State := { s with ecc := f s.ecc }

/-- Keep the notes that satisfy a test. -/
def keepNotes (s : State) (f : ErrNote → Bool) : State := mapEcc s fun e => { e with hist := e.hist.filter f }

/-! ## Granary rows and dies (R505) -/

/-- The row of a Granary address: its channel and row number. -/
def rowOf (a : Nat) : Nat × Nat := (channelOf a, Config.granaryRow a)

/-- Notes of a row in the running Gleaner pass. -/
def rowNotes (s : State) (r : Nat × Nat) : List ErrNote := s.ecc.hist.filter fun n => n.cls = 2 && !n.past && rowOf n.addr = r

/-- A row meets the repair rule: 4 distinct codewords corrected in one pass, or any uncorrectable one that no copy
carried here. -/
def rowDue (s : State) (r : Nat × Nat) : Bool :=
  let ns := rowNotes s r
  ns.any (fun n => n.uncorr && !n.pos.isEmpty)
    || 4 ≤ (((ns.filter fun n => !n.uncorr).map fun n => n.addr / 64).eraseDups).length

/-- Repairs a stack has made of its rows. -/
def rowsOfStack (s : State) (st : Nat) : Nat := (s.integ.rowsDone.filter fun r => r.1 / 32 = st).length

/-- Start the copy of a row, or meet a stack without spares (R505, R506). -/
def rowStart (s : State) (r : Nat × Nat) : State :=
  if s.integ.rows.contains r || s.integ.rowsRef.contains r || !rowDue s r then s
  else if Config.rowSpareOut (r.1 / 32) (rowsOfStack s (r.1 / 32)) then
    serviceCondition (mapInteg s fun i => { i with rowsRef := i.rowsRef ++ [r] }) 2 r.1 0xFFFF
  else mapInteg s fun i => { i with rows := i.rows ++ [r] }

/-- Corrected notes of one stack and hour whose errors lie within one die's symbols. -/
def dieNotes (s : State) (st d : Nat) : List ErrNote :=
  s.ecc.hist.filter fun n =>
    n.cls = 2 && !n.uncorr && n.hours = 0 && stackOf n.addr = st && !n.pos.isEmpty && n.pos.all fun p => symbolDie p = d

/-- A die meets the rule of R505: marked, or a service condition in a stack with a marked die (R506). -/
def dieMark (s : State) (st d : Nat) : State :=
  let ns := dieNotes s st d
  if (ns.map fun n => n.addr / 64).eraseDups.length < 16 || kfind s.ecc.dies st = some d then s
  else
    let a := (ns.head?.map (·.addr)).getD 0
    let sym := (ns.head?.map (·.pos.headD 0xFFFF)).getD 0xFFFF
    let s := keepNotes s fun n => !ns.contains n
    if (kfind s.ecc.dies st).isSome then serviceCondition s 2 (channelOf a) sym
    else
      let s := mapEcc s fun e => { e with dies := aput e.dies st d }
      let g := fld s Reg.INT_SPARES Fld.INT_SPARES_GDIE
      repairTaken (setFld s Reg.INT_SPARES Fld.INT_SPARES_GDIE (g ||| 2 ^ st)) 2 repDie (channelOf a) sym a

/-- More than CRIBLIM corrected Crib errors of a presented bough in this hour order a planned substitution. -/
def cribCheck (s : State) (b : Nat) : State :=
  let lim := fld s Reg.INT_POLICY Fld.INT_POLICY_CRIBLIM
  if lim ≠ 0 && lim < kget (fun _ => 0) s.ecc.hour (8 + b) then policySubst s b else s

/-- What the device's repair rules order by themselves after errors were found: row copies, die marks and planned
substitutions (R505). -/
def repairScan (s : State) : State :=
  let rows := ((s.ecc.hist.filter fun n => n.cls = 2 && !n.past).map fun n => rowOf n.addr).eraseDups
  let s := rows.foldl rowStart s
  let dies := ((s.ecc.hist.filter fun n => n.cls = 2 && !n.uncorr && !n.pos.isEmpty).map fun n =>
    (stackOf n.addr, symbolDie (n.pos.headD 0))).eraseDups
  let s := dies.foldl (fun s x => dieMark s x.1 x.2) s
  (presented s).foldl cribCheck s

/-- A copy of codewords that corrects what it can, counting it, and carries what it cannot (R493, R495, R499, R505). -/
def copyCw (s : State) (ks : List (Nat × CwErr)) : State :=
  let (s, bad) := readEvery s ks
  let s := ks.foldl (fun s (k, _) => setCw s k (if bad.contains k then { lost := true } else {})) s
  bad.foldl (fun s k =>
    let us := unitSub s (k % 4) (k / 4) {}
    record s { kind := k % 4, type := tyUncorr, action := actLogged, unit := us.1, sub := us.2, addr := k / 4 }) s

/-- ROW_REPAIR_DONE (R505): the row's codewords now lie in the spare row. -/
def rowDone (s : State) (ch row : Nat) : State :=
  let r := (ch, row)
  if !s.integ.rows.contains r then s
  else
    let s := copyCw s (s.ecc.cw.filter fun (k, _) => k % 4 = 2 && rowOf (k / 4) = r)
    let s := mapInteg s fun i => { i with rows := i.rows.erase r, rowsDone := i.rowsDone ++ [r] }
    let s := keepNotes s fun n => !(n.cls = 2 && rowOf n.addr = r)
    repairScan (repairTaken (bump s Reg.GRN_ROWREP 1) 2 repRow ch 0xFFFF 0)

def execRowRepairDone (ch row : Nat) (s : State) : Host.Outcome State Fault Refusal := finish s (rowDone s ch row)

/-! ## The Gleaners (R503) -/

/-- Codewords of one channel in the object range, and the address of codeword i in ascending order (R297, R298). -/
def channelWords : Nat := 50331648

def channelAddr (ch i : Nat) : Nat :=
  let hi := 4 * (i / 64) + ch % 4
  let r := (ch / 4) ^^^ sliceOf (4096 * (64 * hi))
  4096 * (64 * hi + r) + 64 * (i % 64)

/-- The scrubbers run: the Granary is up and not in self-refresh (R531, R533). -/
def scrubs (s : State) : Bool := rstState s = stIdle || rstState s = stRunning || rstState s = stQuiesce

/-- A scrubber reads codewords: corrected ones as any read, uncorrectable ones logged with action LOGGED (R500). -/
def scrubCw (s : State) (k : Nat) (e : CwErr) : State :=
  let (s, bad) := readCw s k e
  if bad then
    let us := unitSub s (k % 4) (k / 4) e
    record s { kind := k % 4, type := tyUncorr, action := actLogged, unit := us.1, sub := us.2, addr := k / 4,
               detail := Config.syndrome k }
  else s

/-- The Gleaner of a channel goes on to its next codeword; a pass of all channels is counted. -/
def gleanNext (s : State) (ch : Nat) : State :=
  let i := kget (fun _ => 0) s.integ.gpos ch + 1
  if i < channelWords then mapInteg s fun x => { x with gpos := kset (fun _ => 0) x.gpos ch i }
  else
    let n := kget (fun _ => 0) s.integ.gpass ch + 1
    let s := mapInteg s fun x => { x with gpos := kset (fun _ => 0) x.gpos ch 0, gpass := kset (fun _ => 0) x.gpass ch n }
    let s := mapEcc s fun e => { e with
      hist := e.hist.map fun y => if y.cls = 2 && channelOf y.addr = ch then { y with past := true } else y }
    if (List.range 256).all fun c => n ≤ kget (fun _ => 0) s.integ.gpass c then bump s Reg.GRN_GLPASS 1 else s

/-- GLEANER_READ (R500, R503): the next codeword of the channel; one in a block never written is passed over. -/
def gleanerRead (s : State) (ch : Nat) : State :=
  if 256 ≤ ch || !scrubs s then s
  else
    let a := channelAddr ch (kget (fun _ => 0) s.integ.gpos ch)
    if initMode1 s && !isInit s a then gleanNext s ch
    else
      match kfind s.ecc.cw (cwKey 2 a) with
      | none => gleanNext s ch
      | some e => gleanNext (repairScan (scrubCw s (cwKey 2 a) e)) ch

def execGleanerRead (ch : Nat) (s : State) : Host.Outcome State Fault Refusal := finish s (gleanerRead s ch)

/-- The hourly comparison of one stack (R503). -/
def adaptStack (s : State) (st : Nat) : State :=
  let e := kget (fun _ => 0) s.ecc.hour st
  let now := fld s (Reg.GRN_GLNOW st) Fld.GRN_GLNOW_HOURS
  let setTo (s : State) (v : Nat) : State :=
    if v = now then s
    else raise (setFld s (Reg.GRN_GLNOW st) Fld.GRN_GLNOW_HOURS v) Reg.INT_INTSTAT Fld.INT_INTSTAT_GLADAPT.bit
  let setCalm (s : State) (v : Nat) : State := mapInteg s fun i => { i with calm := kset (fun _ => 0) i.calm st v }
  if fld s Reg.GRN_GLADAPT Fld.GRN_GLADAPT_UP < e then setCalm (setTo s (max 1 (now / 2))) 0
  else if e ≤ fld s Reg.GRN_GLADAPT Fld.GRN_GLADAPT_DOWN then
    let c := kget (fun _ => 0) s.integ.calm st + 1
    if c < 24 then setCalm s c
    else setCalm (setTo s (max now (min (2 * now) (fld s Reg.GRN_GLRATE Fld.GRN_GLRATE_HOURS)))) 0
  else setCalm s 0

/-- A note of the error history counts for R505 after another hour: a corrected word of the Loft for 24 hours, one of the
Granary in its Gleaner's pass, and what counts without a limit of time. -/
def stillCounts (n : ErrNote) : Bool :=
  n.hours < 24 || (n.cls = 2 && !n.past) || (n.cls = 1 && (n.uncorr || n.lpar))

/-- GLEANER_ADAPT (R503): the hour ends; the windows of R505 move on. -/
def gleanerAdapt (s : State) : State :=
  let s := if scrubs s then (List.range 8).foldl adaptStack s else s
  mapEcc s fun e => { e with
    hour := []
    hist := (e.hist.map fun n => { n with hours := n.hours + 1 }).filter stillCounts }

def execGleanerAdapt (s : State) : Host.Outcome State Fault Refusal := finish s (gleanerAdapt s)

/-! ## The Rake (R504) -/

/-- Bank rows of a bank. -/
def bankRows : Nat := 24576

/-- The line that a slice holds at bank row i, way i / 1536 and set i mod 1536: its local offset, if it holds one
(R299, R300). -/
def lineAt (s : State) (k i : Nat) : Option Nat :=
  let way := i / 1536
  let set := i % 1536
  let first := nCache s + nPin s
  if first ≤ way then some (directBase + 4096 * (64 * (1536 * (way - first) + set) + k))
  else (s.loft.lines.find? fun (l, x) => x.way = way && sliceOf (4096 * l) = k && setOf (4096 * l) = set).map fun x => 4096 * x.1

/-- The quarters in bank row i of every presented bank of a slice: the four of one line, or after a map-out the three that
the remaining banks hold of the lines in ways 4 on (R295, R316, R504). -/
def rowQuarters (s : State) (k i : Nat) : List Nat :=
  if sliceMapped s k then
    (List.range 3).filterMap fun b =>
      let t := 3 * (i % 4) + b
      (lineAt s k (6144 + 3 * (i / 4) + t / 4)).map (· + 1024 * (t % 4))
  else (List.range 4).filterMap fun q => (lineAt s k i).map (· + 1024 * q)

/-- The Rake's write-back of a codeword waits until no access to its line comes first (R504). -/
def markRake (s : State) (k : Nat) : State :=
  match kfind s.ecc.cw k with
  | some e => if e.wb then setCw s k { e with rake := true } else s
  | none => s

/-- The Rake reads a quarter: its codewords, then its layer check (R494, R500). -/
def rakeQuarter (s : State) (a : Nat) : State :=
  let s := (cwIn s 1 a 1024).foldl (fun s x => markRake (scrubCw s x.1 x.2) x.1) s
  match lparIn s a 1024 with
  | none => s
  | some q =>
    record (takeUncorr s 1 q {} true)
      { kind := 1, type := tyLpar, action := actLogged, unit := sliceOf q, sub := layerOf s q, addr := q }

/-- RAKE_READ (R500, R504): the slice's next bank row in every presented bank. -/
def rakeRead (s : State) (k : Nat) : State :=
  if 64 ≤ k || !scrubs s then s
  else
    let i := kget (fun _ => 0) s.integ.rpos k
    let s := (rowQuarters s k i).foldl rakeQuarter s
    if i + 1 < bankRows then mapInteg s fun x => { x with rpos := kset (fun _ => 0) x.rpos k (i + 1) }
    else
      let n := kget (fun _ => 0) s.integ.rlaps k + 1
      let s := mapInteg s fun x => { x with
        rpos := kset (fun _ => 0) x.rpos k 0, rlaps := kset (fun _ => 0) x.rlaps k n, slow := x.slow.erase k }
      if (List.range 64).all fun c => n ≤ kget (fun _ => 0) s.integ.rlaps c then
        { setRegN (bump s Reg.LFT_RAKELAPS 1) Reg.LFT_RAKELAP (Config.rakeLap s.free) with free := s.free + 1 }
      else s

def execRakeRead (slice : Nat) (s : State) : Host.Outcome State Fault Refusal := finish s (rakeRead s slice)

/-- RAKE_SLOW (R504): a lap in progress is over its limit; recorded once per lap. -/
def rakeSlow (s : State) (k : Nat) : State :=
  if 64 ≤ k || !scrubs s || regN s Reg.LFT_RAKEMAX = 0 || s.integ.slow.contains k then s
  else
    let s := record (mapInteg s fun x => { x with slow := k :: x.slow })
      { kind := 1, type := tyRakeSlow, action := actLogged, unit := k }
    raise s Reg.INT_INTSTAT Fld.INT_INTSTAT_RAKESLOW.bit

def execRakeSlow (slice : Nat) (s : State) : Host.Outcome State Fault Refusal := finish s (rakeSlow s slice)

/-- CORRECTED_WRITEBACK (R495): the corrected word of a Crib or the Loft goes back, unless it has been written since. -/
def correctedWriteback (s : State) (k : Nat) : State :=
  match kfind s.ecc.cw k with
  | none => s
  | some e => if e.wb && k % 4 < 2 then setCw s k {} else s

def execCorrectedWriteback (cw : Nat) (s : State) : Host.Outcome State Fault Refusal := finish s (correctedWriteback s cw)

/-! ## Loft banks (R505) -/

/-- Notes of the Loft bank of a layer and slice. -/
def bankNotes (s : State) (layer bank : Nat) : List ErrNote :=
  s.ecc.hist.filter fun n => n.cls = 1 && !n.lpar && sliceOf n.addr = bank && layerOf s n.addr = layer

/-- A bank meets the rule of R505; its rows are told apart by the line quarter they hold. -/
def bankDue (s : State) (layer bank : Nat) : Bool :=
  let ns := bankNotes s layer bank
  2 ≤ (((ns.filter fun n => n.uncorr && !n.pos.isEmpty).map fun n => n.addr / 1024).eraseDups).length
    || 64 < (((ns.filter fun n => !n.uncorr).map fun n => n.addr / 1024).eraseDups).length

/-- Spare banks in use in a layer. -/
def sparesUsed (s : State) (layer : Nat) : Nat :=
  bitsN (fld s Reg.INT_SPARES Fld.INT_SPARES_LBANK) (4 * layer + 3) (4 * layer)

def sliceBusy (s : State) (k : Nat) : Bool :=
  (kfind s.loft.mapping k).isSome || s.loft.banks.any fun x => x.2 = k

/-- A spare bank of a layer is in use (R505). -/
def useSpareBank (s : State) (layer : Nat) : State :=
  setFld s Reg.INT_SPARES Fld.INT_SPARES_LBANK
    (putBits (fld s Reg.INT_SPARES Fld.INT_SPARES_LBANK) (4 * layer + 3) (4 * layer) (sparesUsed s layer + 1))

/-- BANK_SPARE_START, at a frame boundary (R505): a spare bank of the layer begins to take the bank's place. -/
def bankStart (s : State) (layer bank : Nat) : State :=
  if !atBoundary s || 4 ≤ layer || 64 ≤ bank || sliceBusy s bank || 4 ≤ sparesUsed s layer || !bankDue s layer bank then s
  else mapLoft (useSpareBank s layer) fun lo => { lo with banks := lo.banks ++ [(layer, bank)] }

def execBankSpareStart (layer bank : Nat) (s : State) : Host.Outcome State Fault Refusal :=
  finishTick s (repairScan (bankStart s layer bank))

/-- The listed Loft codewords of a slice, in one layer or in all. -/
def sliceCws (s : State) (k : Nat) (layer : Option Nat) : List (Nat × CwErr) :=
  s.ecc.cw.filter fun (q, _) => q % 4 = 1 && sliceOf (q / 4) = k && layer.all fun i => layerOf s (q / 4) = i

/-- BANK_COPY_DONE (R505). -/
def bankDone (s : State) (layer bank : Nat) : State :=
  if !s.loft.banks.contains (layer, bank) then s
  else
    let s := copyCw s (sliceCws s bank (some layer))
    let s := keepNotes s fun n => !(n.cls = 1 && !n.lpar && sliceOf n.addr = bank && layerOf s n.addr = layer)
    let s := mapLoft s fun lo => { lo with banks := lo.banks.erase (layer, bank) }
    let s := mapInteg s fun i => { i with banksDone := i.banksDone ++ [(layer, bank)] }
    settle (repairScan (repairTaken s 1 repBank bank layer 0))

def execBankCopyDone (layer bank : Nat) (s : State) : Host.Outcome State Fault Refusal := finish s (bankDone s layer bank)

/-! ## Layer map-out (R316, R317, R505, R506) -/

/-- The layer-parity rule: two distinct lines of the slice and layer. -/
def lparDue (s : State) (k layer : Nat) : Bool :=
  2 ≤ (((s.ecc.hist.filter fun n => n.cls = 1 && n.lpar && sliceOf n.addr = k && layerOf s n.addr = layer).map fun n =>
    n.addr / 4096).eraseDups).length

def mapoutDue (s : State) (k layer : Nat) : Bool := lparDue s k layer || (bankDue s layer k && 4 ≤ sparesUsed s layer)

/-- Lines of a slice held in ways 0 to 3. -/
def lowLines (s : State) (k : Nat) : List (Nat × LineSt) := s.loft.lines.filter fun (l, x) => x.way < 4 && sliceOf (4096 * l) = k

/-- Demote the objects that hold lines in the ways to be removed, as reclaim demotes them (R315, R317). -/
def mapDemote (s : State) (k : Nat) : State :=
  (((lowLines s k).filterMap fun x => x.2.obj).eraseDups).foldl reclaimOne s

/-- MAPOUT_START, at a frame boundary (R505): new rounds of the slice are diverted, nothing more goes into ways 0 to 3, and
the objects there are demoted; a second layer of one slice is a service condition. -/
def mapoutStart (s : State) (k layer : Nat) : State :=
  if !atBoundary s || 64 ≤ k || 4 ≤ layer || (kfind s.loft.mapping k).isSome || !mapoutDue s k layer then s
  else if sliceMapped s k then
    let s := keepNotes s fun n => !(n.cls = 1 && sliceOf n.addr = k && layerOf s n.addr = layer)
    serviceCondition s 1 k layer
  else mapDemote (mapLoft s fun lo => { lo with mapping := aput lo.mapping k layer }) k

def execMapoutStart (slice layer : Nat) (s : State) : Host.Outcome State Fault Refusal :=
  finishTick s (settle (repairScan (mapoutStart s slice layer)))

/-- No round is open in a slice; a diverted one is the merge queue's (R313). -/
def roundsClosed (s : State) (k : Nat) : Bool :=
  !(s.loft.rounds.any fun (l, r) => !r.diverted && sliceOf (4096 * l) = k)

/-- Before a line is rewritten over three layers, its failing clean sectors are refilled (R498, R505). -/
def refillSlice (s : State) (k : Nat) : State :=
  (s.loft.lines.filter fun (l, _) => sliceOf (4096 * l) = k).foldl (fun s (l, _) =>
    match failingClean s l with
    | [] => s
    | a :: _ => (refill s a).1) s

/-- A fill on its way into the ways to be removed. -/
def lowFills (s : State) (k : Nat) : Bool := s.loft.misses.any fun (l, e) => e.way < 4 && sliceOf (4096 * l) = k

/-- A slice shows its lost layer, and ways 0 to 3 leave the pool (R316). -/
def showMapout (s : State) (k layer : Nat) : State :=
  let s := setFld s (Reg.LFT_SLSTAT k) Fld.LFT_SLSTAT_MAPPED 1
  let s := setFld s (Reg.LFT_SLSTAT k) Fld.LFT_SLSTAT_LAYER layer
  let s := setFld s Reg.LFT_STATUS Fld.LFT_STATUS_MAPPED (fld s Reg.LFT_STATUS Fld.LFT_STATUS_MAPPED + 1)
  let s := setFld s Reg.LFT_POOL Fld.LFT_POOL_LINES (fld s Reg.LFT_POOL Fld.LFT_POOL_LINES - 6144)
  let s := setFld s Reg.LFT_POOLFREE Fld.LFT_POOLFREE_LINES (fld s Reg.LFT_POOLFREE Fld.LFT_POOLFREE_LINES - 6144)
  raise (repairTaken s 1 repMapout k layer 0) Reg.LFT_INTSTAT Fld.LFT_INTSTAT_MAPOUT.bit

/-- MAPOUT_DONE (R316, R317): the slice has lost ways 0 to 3. -/
def mapoutDone (s : State) (k : Nat) : State :=
  match kfind s.loft.mapping k with
  | none => s
  | some layer =>
    if !roundsClosed s k || lowFills s k || (lowLines s k).any (fun x => x.2.obj.isSome) then s
    else
      let s := ((lowLines s k).map (·.1)).foldl freeLine s
      let s := refillSlice s k
      let s := copyCw s (sliceCws s k none)
      let s := keepNotes s fun n => !(n.cls = 1 && sliceOf n.addr = k && layerOf s n.addr = layer)
      let s := mapLoft s fun lo => { lo with mapping := adel lo.mapping k }
      settle (showMapout s k layer)

def execMapoutDone (slice : Nat) (s : State) : Host.Outcome State Fault Refusal := finish s (mapoutDone s slice)

/-! ## Flip masks (R502) -/

def flipReg : FlipUnit → Nat
  | .crib => Reg.INT_FLIPCRB
  | .loft => Reg.INT_FLIPLFT
  | .granary => Reg.INT_FLIPGRN

/-- Bits of a flip-mask register that a write sets. -/
def flipMask : FlipUnit → Nat
  | .crib => 0xFFFFFF00
  | .loft => 0xFFFFFFC0
  | .granary => 0xFFFFFFE0

def flipWrite (s : State) (u : FlipUnit) (data : Word) : State := setRegN s (flipReg u) (data.toNat &&& flipMask u)

/-- FLIP_ARM: a write with ARM set replaces any mask not yet used. -/
def execFlipArm (u : FlipUnit) (data : Word) (s : State) : Host.Outcome State Fault Refusal :=
  finish s (if bitN data.toNat 31 then flipWrite s u data else s)

/-- FLIP_CANCEL: a write with ARM clear. -/
def execFlipCancel (u : FlipUnit) (data : Word) (s : State) : Host.Outcome State Fault Refusal :=
  finish s (if bitN data.toNat 31 then s else flipWrite s u data)

/-! ## The announced exit (R506) -/

/-- ANNOUNCED_EXIT: once every open step has resolved. -/
def announcedExit (s : State) : State :=
  if !s.integ.exitDue || stepOpen s || s.mill.res.isSome then s
  else
    let s := setFld (mapInteg s fun i => { i with exitDue := false }) Reg.INT_STATUS Fld.INT_STATUS_EXITING 1
    let s := endJob (preemptAll s) 12 0
    setJoined (stopLeading (startLeave s 0) fsOff) 0

def execAnnouncedExit (s : State) : Host.Outcome State Fault Refusal := finish s (announcedExit s)

end Sys2Proof.Machine
end

