-- ==== Sys2Proof/Machine/Thermal.lean ====
section
/-! DEFINITION. Temperature, power and clocks (R553 to R570). -/

namespace Sys2Proof.Machine

def mapHsk (s : State) (f : HskSt → HskSt) : State := { s with hsk := f s.hsk }

/-! ## Channels and the thermal model (R553 to R557) -/

/-- The value of a channel as a signed number. -/
def chan (s : State) (c : Nat) : Int := sextN 16 (fld s (Reg.HSK_CH c) Fld.HSK_CH_VALUE)

/-- The channel of Loft sensor j of layer i. -/
def siteChan (i j : Nat) : Nat := 84 + 32 * i + j

def siteSt (s : State) (i j : Nat) : SiteSt := kget (fun _ => {}) s.hsk.sites (32 * i + j)

/-- The model value T̂ of a site in 1/16 °C (R556), rounded down. -/
def modelTemp (s : State) (i j : Nat) : Int :=
  let above := if i = 3 then max (chan s (2 * j)) (chan s (2 * j + 1)) else chan s (siteChan (i + 1) j)
  let below := if i = 0 then chan s (212 + Config.rootSensor j % 24) else chan s (siteChan (i - 1) j)
  (Config.calA i * (above : Rat) + Config.calB i * (below : Rat) + Config.calG i * Config.siteEnergy j s.free
    + Config.calD i).floor

/-- One round of a site (R557). -/
def SiteSt.round (x : SiteSt) (d : Nat) : SiteSt :=
  if x.suspect then
    let calm := if d ≤ 64 then x.calm + 1 else 0
    if 16 ≤ calm then {} else { x with calm := calm, hot := if 128 < d then x.hot + 1 else 0 }
  else if 128 < d then { suspect := true, hot := 1 } else {}

/-- The effective temperature of a site (R557). -/
def siteEff (s : State) (i j : Nat) : Int :=
  if (siteSt s i j).suspect then max (chan s (siteChan i j)) (modelTemp s i j) else chan s (siteChan i j)

/-- The round of one site: its disagreement, and SUSPECT. -/
def siteRound (s : State) (i j : Nat) : State :=
  let d := (modelTemp s i j - chan s (siteChan i j)).natAbs
  let x := siteSt s i j
  let y := x.round d
  let s := mapHsk s fun h => { h with sites := kset (fun _ => {}) h.sites (32 * i + j) y }
  let s := setFld s (Reg.HSK_CH (siteChan i j)) Fld.HSK_CH_SUSPECT (if y.suspect then 1 else 0)
  if y.suspect && !x.suspect then raise s Reg.HSK_INTSTAT Fld.HSK_INTSTAT_SUSPECT.bit else s

def maxOf (xs : List Int) : Int := xs.foldl max (-32768)

/-- The round of one layer: its sites and HSK_LMODEL. -/
def layerRound (s : State) (i : Nat) : State :=
  let js := List.range 32
  let s := js.foldl (fun s j => siteRound s i j) s
  setRegN s (Reg.HSK_LMODEL i) (wrapN 16 (maxOf (js.map fun j => chan s (siteChan i j))) * 2 ^ 16
    + wrapN 16 (maxOf (js.map (modelTemp s i))))

/-- HSK_STATUS.SUSPECT. -/
def showSuspect (s : State) : State :=
  setFld s Reg.HSK_STATUS Fld.HSK_STATUS_SUSPECT
    (((List.range 4).filter fun i => (List.range 32).any fun j => (siteSt s i j).suspect).foldl (fun m i => m + 2 ^ i) 0)

/-- The effective temperatures by channel, 0 to 243. -/
def effTemp (s : State) (c : Nat) : Int :=
  if 84 ≤ c && c < 212 then siteEff s ((c - 84) / 32) ((c - 84) % 32) else chan s c

/-! ## The governors (R561, R562) -/

def thermalLevel (s : State) (row : Nat) : Nat := kget (fun _ => 0) s.hsk.thermal row
def powerLevel (s : State) (row : Nat) : Nat := kget (fun _ => 0) s.hsk.power row

/-- The channels that govern a row; the first eight Root sensors lie beside the Granary controllers. -/
def rowChans (row : Nat) : List Nat :=
  match row with
  | 0 => List.range 84
  | 1 => (List.range 128).map (· + 84)
  | 2 => (List.range 24).map (· + 212)
  | n => [236 + (n - 3), 212 + (n - 3)]

def rowMax (row : Nat) : Nat := if row < 3 then 17 else 8

/-- The applied level of a row. -/
def appliedLevel (s : State) (row : Nat) : Nat := max (thermalLevel s row) (powerLevel s row)

/-- HSK_LEVEL and HSK_GRNLEVEL. -/
def showLevels (s : State) : State :=
  let p := max (powerLevel s 0) (max (powerLevel s 1) (powerLevel s 2))
  let s := setRegN s Reg.HSK_LEVEL
    (appliedLevel s 2 * 2 ^ 24 + appliedLevel s 1 * 2 ^ 16 + appliedLevel s 0 * 2 ^ 8 + p)
  setRegN s Reg.HSK_GRNLEVEL ((List.range 8).foldl (fun m i => m + appliedLevel s (3 + i) * 16 ^ i) 0)

/-- One round of a row's governor. -/
def governor (s : State) (row : Nat) : State :=
  let t := maxOf ((rowChans row).map (effTemp s))
  let onset : Int := 16 * fld s Reg.HSK_CTRL Fld.HSK_CTRL_ONSET
  let l := thermalLevel s row
  let crit := decide (1680 ≤ t)
  let n := if crit then rowMax row else if onset < t then min (l + 1) (rowMax row) else if t < onset - 32 then l - 1 else l
  let s := mapHsk s fun h => { h with thermal := kset (fun _ => 0) h.thermal row n }
  let s := if crit then raise s Reg.HSK_INTSTAT Fld.HSK_INTSTAT_CRITICAL.bit else s
  if l = 0 && n ≠ 0 then raise s Reg.HSK_INTSTAT Fld.HSK_INTSTAT_THROTTLE.bit else s

/-- HSK_HOTTEST: the hottest effective temperature, the lowest channel of equals. -/
def showHottest (s : State) : State :=
  let best := (List.range 244).foldl (fun (b : Nat × Int) c => if b.2 < effTemp s c then (c, effTemp s c) else b)
    (0, effTemp s 0)
  setRegN s Reg.HSK_HOTTEST (best.1 * 2 ^ 16 + wrapN 16 best.2)

/-! ## Rails (R566, R636, R637) -/

/-- Nominal voltages in mV. -/
def railNominal : List Nat := [800, 1800, 750, 750, 800, 800, 900, 750, 750, 1200, 900, 3300, 1050, 750, 1800, 1800]

/-- A rail reads within its recommended range: ± 3 % up to 1.05 V, else ± 5 %. -/
def railOk (s : State) (r : Nat) : Bool :=
  let n := railNominal.getD r 0
  let pct := if n ≤ 1050 then 3 else 5
  decide (100 * (chan s (244 + r) - n).natAbs ≤ pct * n)

/-- The rails of a round: RAIL and FAULT# after two rounds out of range, FAULT# released after two in range. -/
def railRound (s : State) : State :=
  let rs := List.range 16
  let good := if rs.all (railOk s) then s.hsk.railGood + 1 else 0
  let s := mapHsk s fun h => { h with
    railGood := good
    railBad := rs.foldl (fun m r => kset (fun _ => 0) m r (if railOk s r then 0 else kget (fun _ => 0) m r + 1)) h.railBad }
  if s.hsk.railBad.any fun x => 2 ≤ x.2 then
    { raise s Reg.HSK_INTSTAT Fld.HSK_INTSTAT_RAIL.bit with rst := { s.rst with fault := true } }
  else if 2 ≤ good then { s with rst := { s.rst with fault := false } } else s

/-! ## The housekeeping round (R553) -/

/-- Put the values read into HSK_CH. -/
def putChans (s : State) (cs : List (BitVec 16)) : State :=
  (((List.range 301).zip cs)).foldl (fun s x => setRegN s (Reg.HSK_CH x.1) (2 ^ 17 + x.2.toNat)) s

/-- Measured power in W from rail voltages in mV and currents in 0.1 A (R563). -/
def measuredPower (s : State) : Nat :=
  (((List.range 16).map fun r => (chan s (244 + r)).toNat * (chan s (260 + r)).toNat).sum) / 10000

/-- Record the reference's offset in the present temperature class (R558). -/
def compensate (s : State) : State :=
  if joined s && fld s Reg.FRM_STATUS Fld.FRM_STATUS_HOLDOVER = 0 then
    let c := min 63 (((chan s (212 + Config.refSensor % 24)) / 16 - 40).toNat)
    mapHsk { s with free := s.free + 1 } fun h => { h with classes := kins c s.free h.classes }
  else s

/-- HOUSEKEEPING_ROUND (R553, R556 to R558, R562, R566). A round also ends the counting windows of R414, R567 and R581. -/
def housekeepingRound (s : State) (cs : List (BitVec 16)) : State :=
  let s := putChans s cs
  let s := (List.range 4).foldl layerRound s
  let s := showSuspect s
  let s := showLevels ((List.range 11).foldl governor s)
  let s := railRound (showHottest s)
  let s := setFld s Reg.HSK_POWER Fld.HSK_POWER_MEASURED (measuredPower s)
  let s := { s with free := s.free + 1
                    fab := { s.fab with ports := s.fab.ports.map fun x => (x.1, { x.2 with badRound := [] }) }
                    fwm := { s.fwm with rounds := s.fwm.rounds + 1 } }
  let s := mapHsk s fun h => { h with unlocked := h.unlocked.map fun x => (x.1, x.2 + 1) }
  compensate (bump s Reg.HSK_ROUNDS 1)

def execHousekeepingRound (chans : List (BitVec 16)) (s : State) : Host.Outcome State Fault Refusal :=
  finish s (housekeepingRound s chans)

/-- LAYER_FAULT (R557): a site suspect above 8 °C for 1 000 rounds in a row, once per spell. -/
def layerFault (s : State) (i j : Nat) : State :=
  let x := siteSt s i j
  if 4 ≤ i || 32 ≤ j || !x.suspect || x.hot < 1000 || x.told then s
  else
    let s := mapHsk s fun h => { h with sites := kset (fun _ => {}) h.sites (32 * i + j) { x with told := true } }
    raise (setRegN s Reg.HSK_LAYERFLT (2 ^ 31 + i * 2 ^ 5 + j)) Reg.HSK_INTSTAT Fld.HSK_INTSTAT_LAYERFAULT.bit

def execLayerFault (layer site : Nat) (s : State) : Host.Outcome State Fault Refusal := finish s (layerFault s layer site)

/-! ## The power manager (R563 to R565) -/

def plim (s : State) : Nat := fld s Reg.HSK_PLIM Fld.HSK_PLIM_WATTS

/-- The limit in force (R564). -/
def powerLimit (s : State) : Nat := if s.hsk.credit = 0 then plim s else 3000

def setPower (s : State) (row v : Nat) : State := mapHsk s fun h => { h with power := kset (fun _ => 0) h.power row v }

/-- Raise the first level in order that is below 8. -/
def powerUp (s : State) : State :=
  match (List.range 3).find? fun r => powerLevel s r < 8 with
  | none => s
  | some r =>
    let was := powerLevel s r
    let s := setPower s r (was + 1)
    if was = 0 then raise s Reg.HSK_INTSTAT Fld.HSK_INTSTAT_PWRSKIP.bit else s

/-- Lower one level, in the reverse order. -/
def powerDown (s : State) : State :=
  match [2, 1, 0].find? fun r => powerLevel s r ≠ 0 with
  | none => s
  | some r => setPower s r (powerLevel s r - 1)

/-- Sixteenths of a Crown core cycle skipped in 1 µs at a level (R559). -/
def skipped (l : Nat) : Nat := if l ≤ 8 then 2250 * l else if l ≤ 16 then 1125 * (l - 9) else 0

/-- POWER_MANAGER_TICK (R563 to R565). -/
def powerTick (s : State) : State :=
  let p := Config.projected s.free % 65536
  let exceeds := plim s < p
  let lim := powerLimit s
  let s := setFld { s with free := s.free + 1 } Reg.HSK_POWER Fld.HSK_POWER_PROJECTED p
  let s := setFld s Reg.HSK_STATUS Fld.HSK_STATUS_EXCUR (if exceeds then 1 else 0)
  let k := s.hsk.skip + skipped (appliedLevel s 0)
  let s := mapHsk (bump64 s Reg.HSK_SKIP_LO (k / 16)) fun h => { h with
    skip := k % 16, credit := if exceeds then h.credit - 4 else min (h.credit + 1) 40000 }
  let s := setFld s Reg.HSK_EXCREDIT Fld.HSK_EXCREDIT_US (s.hsk.credit / 4)
  let calm := if p + 50 ≤ lim then s.hsk.calm + 1 else 0
  let s := if lim < p then powerUp s else if 8 ≤ calm then powerDown s else s
  showLevels (mapHsk s fun h => { h with calm := if 8 ≤ calm then 0 else calm })

def execPowerManagerTick (s : State) : Host.Outcome State Fault Refusal := finish s (powerTick s)

/-- EXCURSION_EXHAUSTED (R564): the credit is at zero. -/
def execExcursionExhausted (s : State) : Host.Outcome State Fault Refusal :=
  finish s (if s.hsk.credit = 0 then raise s Reg.HSK_INTSTAT Fld.HSK_INTSTAT_EXCURSION.bit else s)

/-! ## Clock faults (R567) -/

/-- KIND of the error record of a domain's clock fault. -/
def domainKind (d : Nat) : Nat :=
  if d ≤ 2 then 4 else if d ≤ 6 then 1 else if d ≤ 8 then 6 else if d ≤ 16 then 2 else 5

/-- UNIT and SUB of that record: the first unit that the domain clocks, and the layer of a Loft domain (R24, R37, R507). Group
g of the optical engines serves ports 4g to 4g + 3, and Granary controller g channels 32g to 32g + 31. -/
def domainUnit (d : Nat) : Nat × Nat :=
  if 3 ≤ d && d ≤ 6 then (0, d - 3)
  else if 9 ≤ d && d ≤ 16 then (32 * (d - 9), 0xFFFF)
  else if 18 ≤ d && d ≤ 21 then (4 * (d - 18), 0xFFFF)
  else (0, 0xFFFF)

/-- A clock fault of a domain 1 to 21: its consumers count as having met an uncorrectable error. -/
def clockFault (s : State) (d : Nat) : State :=
  let s := raise s Reg.HSK_INTSTAT Fld.HSK_INTSTAT_CLKFAULT.bit
  let s := mapHsk s fun h => { h with unlocked := (h.unlocked.filter fun x => x.1 ≠ d) ++ [(d, 0)] }
  let opn := stepOpen s
  let ends := !opn && jobLoaded s
  let s := if opn then raiseBlight s srcUncorr else s
  let s := record s { kind := domainKind d, type := tyUncorr, unit := (domainUnit d).1, sub := (domainUnit d).2
                      action := if ends then actJobEnd else if opn then actBlight else actLogged }
  if ends then endJob s 4 0 else s

/-- PLL_RELOCK (R567). -/
def pllRelock (s : State) (d : Nat) : State := mapHsk s fun h => { h with unlocked := h.unlocked.filter fun x => x.1 ≠ d }

def execPllRelock (d : Nat) (s : State) : Host.Outcome State Fault Refusal := finish s (pllRelock s d)

/-- CLOCK_RELOCK_TIMEOUT (R567): the active management processor stops servicing its watchdog. -/
def clockRelockTimeout (s : State) (d : Nat) : State :=
  if s.hsk.unlocked.any fun x => x.1 = d && 3 ≤ x.2 then mapHsk s fun h => { h with starved := true } else s

def execClockRelockTimeout (d : Nat) (s : State) : Host.Outcome State Fault Refusal := finish s (clockRelockTimeout s d)

end Sys2Proof.Machine
end

