-- ==== Sys2Proof/Machine/Host.lean ====
section
/-! DEFINITION. The host port's stages, ACCEPT words and handles (R604 to R609, R613, R614), when a command may start
(R607), host-port resets and power states (R597, R624), and the completion log's start (R615). -/

namespace Sys2Proof.Machine

def mapHost (s : State) (f : HostSt → HostSt) : State := { s with host := f s.host }

/-! ## Command records (R608, R609) -/

def ocReset : Nat := 0x1
def ocFallow : Nat := 0x2
def ocWake : Nat := 0x3
def ocStore : Nat := 0x4
def ocStage : Nat := 0x5
def ocGraft : Nat := 0x6
def ocAbandon : Nat := 0x7
def ocSelect : Nat := 0x8
def ocNop : Nat := 0x10
def ocJobload : Nat := 0x11
def ocJobstop : Nat := 0x12
def ocBlight : Nat := 0x13
def ocSwap : Nat := 0x14
def ocObject : Nat := 0x15
def ocSubst : Nat := 0x16
def ocCopyin : Nat := 0x20
def ocCopyout : Nat := 0x21
def ocFill : Nat := 0x22
def ocFlashwrite : Nat := 0x30
def ocFlashread : Nat := 0x31
def ocFuse : Nat := 0x32
def ocAttest : Nat := 0x40
def ocIdentity : Nat := 0x41

def HostCmd.op (c : HostCmd) : Nat := leAt c.record 0 2
/-- `n` bytes of the record at offset `o` as a number. -/
def HostCmd.num (c : HostCmd) (o n : Nat) : Nat := leAt c.record o n

/-- The operand bytes an opcode uses, as (first, count); none for a reserved opcode. -/
def operandsOf : Nat → Option (List (Nat × Nat))
  | 0x01 => some [(8, 5)]
  | 0x02 | 0x03 | 0x06 | 0x07 | 0x10 | 0x12 | 0x13 => some []
  | 0x04 => some [(8, 8), (16, 32)]
  | 0x05 | 0x08 => some [(8, 4)]
  | 0x11 | 0x14 => some [(8, 8)]
  | 0x15 => some [(8, 1), (10, 2), (16, 8)]
  | 0x16 => some [(8, 1)]
  | 0x20 | 0x21 => some [(8, 8), (16, 8), (24, 4)]
  | 0x22 => some [(16, 8), (24, 4), (32, 8)]
  | 0x30 | 0x31 => some [(8, 8), (16, 4), (20, 4)]
  | 0x32 => some [(8, 3)]
  | 0x40 => some [(8, 32), (40, 8), (48, 4)]
  | 0x41 => some [(40, 8), (48, 4)]
  | _ => none

/-- An operand that the opcode does not use, or a Reserved field, is nonzero. -/
def strayBytes (r : List Byte) (used : List (Nat × Nat)) : Bool :=
  leAt r 2 2 ≠ 0 ||
    ((List.range 56).map (· + 8)).any fun i => leAt r i 1 ≠ 0 && !(used.any fun u => u.1 ≤ i && i < u.1 + u.2)

/-! ## Where the firmware slots lie (R571) -/

/-- Offset of a firmware slot in the flash. -/
def slotOff (s : State) (slot : Nat) : Nat :=
  if s.seed.slots.isEmpty then 0x100000 + 0x1000000 * slot else leAt s.seed.slots (4 * slot) 4

/-- A flash range meets a slot that is staging (R611). -/
def flashStaging (s : State) (off n : Nat) : Bool :=
  match s.fwm.staging with
  | some (_, slot) => meets (off, n) (slotOff s slot, 0x1000000)
  | none => false

/-! ## The conditions of R606 -/

/-- A job is loaded or its descriptor is validating (R619). -/
def jobInSight (s : State) : Bool := jobLoaded s || s.host.cmds.any fun c => c.op = ocJobload

/-- The states in which an opcode is accepted (R609). -/
def stateOk (s : State) (r : List Byte) : Bool :=
  let op := leAt r 0 2
  let st := rstState s
  if st = stDormant then
    (op = ocReset && leAt r 8 4 = 0) || (op = ocStore && leAt r 8 4 = ckStart)
      || [ocSelect, ocNop, ocFlashwrite, ocFlashread].contains op
  else if (op = ocFlashwrite && flashStaging s (leAt r 16 4) (leAt r 20 4)) then false
  else if st = stFallow then
    [ocReset, ocWake, ocStore, ocStage, ocGraft, ocAbandon, ocSelect, ocNop, ocJobload, ocFlashwrite, ocFlashread, ocFuse,
      ocAttest, ocIdentity].contains op
  else if op = ocWake then false
  else if op = ocFallow then st = stIdle && !jobLoaded s
  else if op = ocJobload then !jobLoaded s
  else if op = ocJobstop then jobInSight s
  else if op = ocBlight || op = ocSwap then jobLoaded s
  else true

/-- The range of ARG of a partial reset: a kind of RST_PARTIAL and a target it has (R544). -/
def partArgOk (arg : Nat) : Bool :=
  let t := arg % 256
  bitsN arg 27 8 = 0 &&
    match arg / 2 ^ 28 with
    | 1 => t = 0
    | 2 => t < 4
    | 3 => t < 68
    | 4 => t < 24
    | _ => false

/-- How many alternatives a pin group lists (R523). -/
def fuseAlts (g : Nat) : Nat :=
  if g = 0 then 2 else if [1, 2, 3, 5, 8, 9].contains g then 1 else 0

/-- The field of RST_FUSE of a pin group, as (high, low) bit. -/
def fuseBits (g : Nat) : Nat × Nat :=
  match g with
  | 0 => (1, 0)
  | 1 => (2, 2)
  | 2 => (3, 3)
  | 3 => (4, 4)
  | 5 => (12, 5)
  | 8 => (13, 13)
  | _ => (14, 14)

/-- An operand lies outside its range (R609, R610). -/
def operandBad (s : State) (r : List Byte) : Bool :=
  let op := leAt r 0 2
  let arg := leAt r 8 4
  let local_ := leAt r 16 8
  let len := leAt r 24 4
  if op = ocReset then
    2 ≤ leAt r 12 1 || (arg ≠ 0 && (leAt r 12 1 ≠ 0 || !partArgOk arg))
  else if op = ocStore then
    arg = 0 || 8 < arg || (arg ≠ ckStart && leAt r 12 4 ≠ 0) || (arg ≠ ckSecret && leAt r 16 32 ≠ 0)
  else if op = ocStage || op = ocSelect then 2 ≤ arg
  else if op = ocJobload then leAt r 8 8 % 64 ≠ 0 || objEnd < leAt r 8 8 + 512
  else if op = ocSwap then 2 ^ 40 ≤ leAt r 8 8 || leAt r 8 8 % 4096 ≠ 0
  else if op = ocObject then
    8 ≤ leAt r 8 1 || (if leAt r 8 1 = 0 then !rangeOk s local_ 64 else local_ ≠ 0)
  else if op = ocSubst then 64 ≤ leAt r 8 1
  else if op = ocCopyin || op = ocCopyout then len = 0 || len % 8 ≠ 0 || !rangeOk s local_ len
  else if op = ocFill then len = 0 || len % 8 ≠ 0 || local_ % 8 ≠ 0 || !rangeOk s local_ len
  else if op = ocFlashwrite || op = ocFlashread then
    leAt r 16 4 % 4096 ≠ 0 || leAt r 20 4 % 4096 ≠ 0 || 2 ^ 32 < leAt r 16 4 + leAt r 20 4
  else if op = ocFuse then
    let g := leAt r 8 1
    9 < g || leAt r 9 1 = 0 || fuseAlts g < leAt r 9 1 || (if g = 5 then leAt r 10 1 = 0 else leAt r 10 1 ≠ 0)
  else false

/-- An operation that is not open to the host (R606): a store only the device makes, a nonzero START, a group already
blown, ports already held disabled. -/
def denied (s : State) (r : List Byte) : Bool :=
  let op := leAt r 0 2
  if op = ocStore then ckLife ≤ leAt r 8 4 || (leAt r 8 4 = ckStart && leAt r 12 4 ≠ 0)
  else if op = ocFuse then
    let f := fuseBits (leAt r 8 1)
    let old := bitsN s.rst.fuses f.1 f.2
    if leAt r 8 1 = 5 then leAt r 10 1 ||| old = old else old ≠ 0
  else false

/-! ## Handles (R613, R614) -/

def handleState (s : State) (i : Nat) : Nat := leAt ((kfind s.host.handles i).getD []) 4 1

/-- The first entry from `i` on that is neither PENDING nor RUNNING, among `n`. -/
def scanHandle (s : State) : Nat → Nat → Option Nat
  | 0, _ => none
  | n + 1, i =>
    if handleState s i = 1 || handleState s i = 2 then scanHandle s n ((i + 1) % 4096) else some i

def nextHandle (s : State) : Option Nat := scanHandle s 4096 ((s.host.lastIdx + 1) % 4096)

/-- RESULT of an ACCEPT word (R606): the first condition that applies. -/
def judge606 (s : State) (r : List Byte) : Nat :=
  let op := leAt r 0 2
  if op = 0 then 1
  else
    match operandsOf op with
    | none => 2
    | some used =>
      if rstState s = 0 && !(op = ocNop) && !(op = ocReset && leAt r 8 4 = 0) then 3
      else if !stateOk s r then 4
      else if strayBytes r used || operandBad s r then 5
      else if op = ocSwap && switchArmed s then 6
      else if denied s r then 7
      else if (nextHandle s).isNone then 8
      else 0

/-! ## What the Cellar keeps of registers (R521, R546) -/

/-- The offsets of the rows of the register map with a given behaviour. -/
def rowRegs (p : Persist) : List Nat :=
  (regTable.filter fun r => r.persist = p).flatMap fun r =>
    (List.range r.n1).flatMap fun i => (List.range r.n2).map fun j => r.base + i * r.s1 + j * r.s2

/-- A record of entries of 16 bytes, key and value. -/
def pairBytes (l : List (Nat × Nat)) : List Byte := l.flatMap fun x => leBytes 8 x.1 ++ leBytes 8 x.2

def pairsOf : Nat → List Byte → List (Nat × Nat)
  | 0, _ => []
  | n + 1, bs => (leAt bs 0 8, leAt bs 8 8) :: pairsOf n (bs.drop 16)

def bodyPairs (bs : List Byte) : List (Nat × Nat) := pairsOf (bs.length / 16) bs

/-- The SETTINGS body: every RWC value. -/
def settingsBody (s : State) : List Byte := pairBytes ((rowRegs .cellar).map fun a => (a, regN s a))

/-- Key of a repair entry that is no register: its kind and number. -/
def repairKey (kind i : Nat) : Nat := 2 ^ 40 * (kind + 1) + i

/-- The REPAIR body: the live repair registers that differ from their reset values, the boughs out of service, die marks,
Granary rows repaired and refused, and Loft banks. -/
def repairBody (s : State) : List Byte :=
  let regs := (s.regs.filter fun x => (regRow x.1).any fun r => r.persist = .live).map fun x => (x.1, x.2.toNat)
  let failed := ((List.range 68).filter fun b => fld s (Reg.BGH_STATUS b) Fld.BGH_STATUS_FAILED = 1).map fun b =>
    (repairKey 0 b, 1)
  pairBytes (regs ++ failed ++ (s.ecc.dies.map fun x => (repairKey 1 x.1, x.2))
    ++ (s.integ.rowsDone.map fun x => (repairKey 2 x.1, x.2)) ++ (s.integ.rowsRef.map fun x => (repairKey 3 x.1, x.2))
    ++ s.integ.banksDone.map fun x => (repairKey 4 x.1, x.2))

/-- What a STORE command records, as it stands now; empty for any other command. -/
def acceptBody (s : State) (r : List Byte) : List Byte :=
  let kind := leAt r 8 4
  if leAt r 0 2 ≠ ocStore then []
  else if kind = ckSettings then settingsBody s
  else if kind = ckRepair then repairBody s
  else if kind = ckStart then leBytes 4 (leAt r 12 4)
  else bytesAt r 16 32

/-- A command that the scion of a trial accepts (R582). -/
def noteSince (s : State) (h : Nat) : State :=
  if fld s Reg.FWM_STATUS Fld.FWM_STATUS_STATE = 3 then { s with fwm := { s.fwm with since := s.fwm.since ++ [h] } } else s

/-- Commit a command under the next handle (R605, R613). -/
def commit606 (s : State) (r : List Byte) (i : Nat) : State × Nat :=
  let g := (kfind s.host.gens i).getD 0 % 0xFFFFF + 1
  let h := 4096 * g + i
  let s := mapHost s fun x => { x with
    gens := aput x.gens i g, lastIdx := i
    handles := aput x.handles i (handleEntry h 1 0 0 (2 ^ 64 - 1))
    cmds := x.cmds ++ [{ handle := h, record := r, body := acceptBody s r }] }
  (syncInflight (bump (noteSince s h) Reg.HST_COMMANDS 1), h)

/-- The host's memory accesses reach the device: configuration has begun (R519) and the function is in D0 (R597). -/
def hostReach (s : State) : Bool := s.host.config && !s.host.d3hot

/-- ACCEPT (R605, R606). -/
def acceptRead (s : State) (st size : Nat) : State :=
  if !hostReach s then s
  else if 64 ≤ st || size ≠ 8 then { badAccess s with rdata := 0 }
  else
    let r := bytesAt ((kfind s.host.stages st).getD []) 0 64
    let u := mapHost s fun x => { x with stages := adel x.stages st }
    match judge606 s r, nextHandle s with
    | 0, some i =>
      let (u, h) := commit606 u r i
      { u with rdata := BitVec.ofNat 64 (2 ^ 32 * h) }
    | v, _ => { bump u Reg.HST_REFUSALS 1 with rdata := BitVec.ofNat 64 v }

def execAccept (st size : Nat) (s : State) : Host.Outcome State Fault Refusal := finish s (acceptRead s st size)

/-! ## When a command starts (R607) -/

/-- Commands accepted before the command of a handle and not complete. -/
def earlier (s : State) (h : Nat) : List HostCmd := s.host.cmds.takeWhile fun c => c.handle ≠ h

/-- The command waits for a resource that an earlier command has: the job, the firmware state, the flash; or for the
device to be Idle. -/
def held (s : State) (c : HostCmd) : Bool :=
  let flash (o : Nat) : Bool := [ocFlashwrite, ocFlashread, ocStage, ocSelect].contains o
  let fw (o : Nat) : Bool := [ocStage, ocGraft, ocAbandon, ocSelect].contains o
  let others := earlier s c.handle
  (c.op = ocJobload && (rstState s ≠ stIdle || others.any fun e => e.op = ocJobload))
    || (c.op = ocFallow && rstState s ≠ stIdle)
    || (flash c.op && others.any fun e => flash e.op)
    || (fw c.op && others.any fun e => fw e.op)

/-- The command ends a JOBLOAD that is validating (R619): a JOBSTOP, a full RESET. -/
def endsLoad (c : HostCmd) : Bool := c.op = ocJobstop || (c.op = ocReset && c.num 8 4 = 0)

/-- A PENDING command may start: nothing holds it, and every command accepted before it has started, is held, or is a
JOBLOAD that it ends. -/
def canStart (s : State) (c : HostCmd) : Bool :=
  c.state = 1 && !held s c &&
    (earlier s c.handle).all fun e => e.state ≠ 1 || held s e || (endsLoad c && e.op = ocJobload)

/-- The command of an opcode that starts next. -/
def startable (s : State) (op : Nat) : Option HostCmd := s.host.cmds.find? fun c => c.op = op && canStart s c

/-- A command becomes RUNNING; its status entry shows STATUS `st` (R614). -/
def setRunning (s : State) (c : HostCmd) (st : Nat) : State :=
  let s := mapHost s fun x => { x with cmds := x.cmds.map fun e => if e.handle = c.handle then { e with state := 2 } else e }
  if c.gone then s
  else mapHost s fun x => { x with
    handles := aput x.handles (c.handle % 4096) (handleEntry c.handle 2 st 0 (2 ^ 64 - 1)) }

/-- A host command acts when one of its opcode may start. -/
def hostCmd (op : Nat) (act : State → HostCmd → State) (s : State) : State :=
  match startable s op with
  | none => s
  | some c => act s c

def done (s : State) (c : HostCmd) (status : Nat) : State := complete s c.handle { status := status }

/-- The JOBLOAD that is validating ends with STOPPED (R619). -/
def stopLoad (s : State) : State :=
  if jobLoaded s then s
  else
    match s.host.cmds.find? fun c => c.op = ocJobload with
    | some c => done s c 2
    | none => s

/-! ## Host-port resets and power states (R597, R624) -/

/-- The registers that a host-port reset returns to their reset values. -/
def hostRegs (a : Nat) : Bool := (regRow a).any fun r => r.persist = .host

/-- A host-port reset (R624). -/
def hostPortReset (s : State) : State :=
  let s := { s with regs := s.regs.filter fun (a, _) => !hostRegs a, latch := s.latch.filter fun (a, _) => !hostRegs a }
  syncInflight (mapHost s fun x => { x with
    stages := [], handles := [], cmds := x.cmds.map fun c => { c with gone := true } })

/-- FUNCTION_LEVEL_RESET (R596, R624). -/
def execFunctionLevelReset (s : State) : Host.Outcome State Fault Refusal :=
  finish s (if s.host.config then hostPortReset s else s)

def execD3hotEntry (s : State) : Host.Outcome State Fault Refusal :=
  finish s (if s.host.config then mapHost s fun x => { x with d3hot := true } else s)

def execD0Entry (s : State) : Host.Outcome State Fault Refusal :=
  finish s (if s.host.config then mapHost s fun x => { x with d3hot := false } else s)

/-- A write of 1 to HST_CTRL.LOGEN starts the log at entry 0 (R615, R626). -/
def startLog (s : State) : State := setReg64 (setFld s Reg.HST_CTRL Fld.HST_CTRL_LOGEN 1) Reg.HST_LOGSEQ_LO 0

def execLogEnable (s : State) : Host.Outcome State Fault Refusal := finish s (if hostReach s then startLog s else s)

/-! ## Commands that act at once -/

def execNop (s : State) : Host.Outcome State Fault Refusal := finish s (hostCmd ocNop (fun s c => done s c 0) s)

/-- BLIGHT (R611): Blight with the source RUNTIME. -/
def execBlight (s : State) : Host.Outcome State Fault Refusal :=
  finish s (hostCmd ocBlight (fun s c => done (raiseBlight s srcRuntime) c 0) s)

/-- SWAP (R219, R611). -/
def swapOf (s : State) (c : HostCmd) : State :=
  let t := c.num 8 8
  let s := if switchArmed s then s
    else
      let s := setNext s t 0
      if s.frm.swConf then switchConflict s else setNext s t 1
  done s c 0

def execSwap (s : State) : Host.Outcome State Fault Refusal := finish s (hostCmd ocSwap swapOf s)

/-- OBJECT (R281, R611): the operation joins its object's queue, and the command completes with it. -/
def objectOf (s : State) (c : HostCmd) : State :=
  let j := c.num 10 2
  let put (s : State) (offer : List Byte) : State :=
    let o : ObjOp := { op := c.num 8 1, offer := offer, handle := some c.handle }
    setObjSt s j { objSt s j with queue := (objSt s j).queue ++ [o] }
  let s := setRunning s c 0
  if c.num 8 1 = 0 then
    match load s (c.num 16 8) 64 with
    | (s, .error bad) => done (stopConsumer s false bad 0) c 4
    | (s, .ok bs) => put s bs
  else put s []

def execObject (s : State) : Host.Outcome State Fault Refusal := finishWait s (hostCmd ocObject objectOf s)

/-- SUBST (R151, R611): a planned substitution; the command completes with it, or at once where nothing presents. -/
def substOf (s : State) (c : HostCmd) : State :=
  let n := c.num 8 1
  if 68 ≤ phys s n then done s c 0
  else
    let s := orderSubst (setRunning s c 0) n false
    { s with integ := { s.integ with substCmds := s.integ.substCmds ++ [(n, c.handle)] } }

def execSubst (s : State) : Host.Outcome State Fault Refusal := finish s (hostCmd ocSubst substOf s)

/-- FUSE (R523, R609): the fuse is blown, and takes effect at the next full reset. -/
def fuseOf (s : State) (c : HostCmd) : State :=
  let f := fuseBits (c.num 8 1)
  let v := if c.num 8 1 = 5 then c.num 10 1 ||| bitsN s.rst.fuses f.1 f.2 else c.num 9 1
  done { s with rst := { s.rst with fuses := putBits s.rst.fuses f.1 f.2 v } } c 0

def execFuse (s : State) : Host.Outcome State Fault Refusal := finish s (hostCmd ocFuse fuseOf s)

/-! ## Commands with a transfer (R598, R610 to R612) -/

/-- A command that needs host memory begins; with Bus Master Enable clear it ends with HOSTDMA. -/
def beginDma (s : State) (c : HostCmd) : State := if s.host.bme then setRunning s c 0 else done s c 15

def execCopyin (s : State) : Host.Outcome State Fault Refusal := finish s (hostCmd ocCopyin beginDma s)
def execCopyout (s : State) : Host.Outcome State Fault Refusal := finish s (hostCmd ocCopyout beginDma s)
def execFlashwrite (s : State) : Host.Outcome State Fault Refusal := finish s (hostCmd ocFlashwrite beginDma s)
def execFlashread (s : State) : Host.Outcome State Fault Refusal := finish s (hostCmd ocFlashread beginDma s)
def execFill (s : State) : Host.Outcome State Fault Refusal :=
  finish s (hostCmd ocFill (fun s c => setRunning s c 0) s)

/-- Bytes of an ATTEST response (R592). -/
def attestBytes (s : State) : Nat := 192 + 9893 + 64 * s.fwm.log.length

/-- ATTEST (R592, R612): a buffer that is too short ends it; a signing index is reserved if none is at hand. -/
def attestOf (s : State) (c : HostCmd) : State :=
  if !s.host.bme then done s c 15
  else if c.num 48 4 < attestBytes s then done s c 16
  else
    let s := setRunning s c 0
    if sigNext s < sigRes s then s else reserveBlock s

def execAttest (s : State) : Host.Outcome State Fault Refusal := finish s (hostCmd ocAttest attestOf s)

/-- IDENTITY (R612). -/
def identityOf (s : State) (c : HostCmd) : State :=
  if !s.host.bme then done s c 15
  else if c.num 48 4 < 9977 then done s c 16
  else setRunning s c 0

def execIdentity (s : State) : Host.Outcome State Fault Refusal := finish s (hostCmd ocIdentity identityOf s)

/-- The chain value (R590). -/
def chainBytes (s : State) : List Byte := (List.range 8).flatMap fun k => leBytes 4 (regN s (Reg.FWM_CHAIN k))

/-- The body of an attestation response (R592). -/
def attestBody (s : State) (nonce : List Byte) : List Byte :=
  ascii "IXAT" ++ leBytes 2 1 ++ leBytes 2 0 ++ leBytes 3 (deviceId s) ++ leBytes 1 0 ++ leBytes 4 s.fwm.log.length
    ++ leBytes 8 (frameNo s) ++ nonce ++ chainBytes s ++ bytesAt (measurement s) 0 32 ++ bytesAt Config.identityKey 0 68
    ++ leBytes 4 0

/-- Write a response to the host buffer; VALUE is the bytes written. -/
def respond (s : State) (c : HostCmd) (bs : List Byte) : State :=
  let s := mapHost s fun x => { x with mem := hostWrite x.mem (c.num 40 8) bs }
  complete s c.handle { status := 0, value := bs.length }

/-- The local side of a copy or fill meets the rounds of its lines (R310); true when it may go on. -/
def hostLines (s : State) (a n : Nat) : State × Bool := closeRounds s a n

/-- A host write of local memory, and how the command ends. -/
def hostStore (s : State) (c : HostCmd) (a : Nat) (bs : List Byte) : State :=
  match hostLines s a bs.length with
  | (s, false) => s
  | (s, true) =>
    let s := (lineNos a bs.length).foldl (fun s l => fetchForWrite s a bs.length l) s
    match storeSeg s a bs with
    | (s, some b) => done (stopConsumer s false b 0) c 4
    | (s, none) => done s c 0

/-- Read `n` bytes of the flash (R611). -/
def flashRead (s : State) (a n : Nat) : List Byte := (List.range n).map fun i => kget (fun _ => 0xFF#8) s.rst.flash (a + i)

/-- Write bytes of the flash, its sectors erased first (R611). -/
def flashWrite (m : KMap Byte) (a : Nat) : List Byte → KMap Byte
  | [] => m
  | b :: t => flashWrite (kset (fun _ => 0xFF#8) m a b) (a + 1) t

/-- The opcodes whose transfer reaches host memory (R598). -/
def hostDma : List Nat := [ocCopyin, ocCopyout, ocFlashwrite, ocFlashread, ocAttest, ocIdentity]

/-- HOST_TRANSFER_COMPLETE: the data move and the command completes (R610 to R612); host memory that does not answer, or
Bus Master Enable clear, ends it with HOSTDMA and no data moved (R598, R616). -/
def transferDone (s : State) (h : Nat) (ok : Bool) : State :=
  match findCmd s h with
  | none => s
  | some c =>
    if c.state ≠ 2 then s
    else if c.op = ocFill then hostStore s c (c.num 16 8) (List.replicate (c.num 24 4 / 8) (bytesAt c.record 32 8)).flatten
    else if !(hostDma.contains c.op) then s
    else if !ok || !s.host.bme then done s c 15
    else if c.op = ocCopyin then hostStore s c (c.num 16 8) (hostRead s.host.mem (c.num 8 8) (c.num 24 4))
    else if c.op = ocCopyout then
      match hostLines s (c.num 16 8) (c.num 24 4) with
      | (s, false) => s
      | (s, true) =>
        let s := (lineNos (c.num 16 8) (c.num 24 4)).foldl fetchLine s
        match load s (c.num 16 8) (c.num 24 4) with
        | (s, .error b) => done (stopConsumer s false b 0) c 4
        | (s, .ok bs) => done (mapHost s fun x => { x with mem := hostWrite x.mem (c.num 8 8) bs }) c 0
    else if c.op = ocFlashwrite then
      let bs := hostRead s.host.mem (c.num 8 8) (c.num 20 4)
      done { s with rst := { s.rst with flash := flashWrite s.rst.flash (c.num 16 4) bs } } c 0
    else if c.op = ocFlashread then
      done (mapHost s fun x => { x with mem := hostWrite x.mem (c.num 8 8) (flashRead s (c.num 16 4) (c.num 20 4)) }) c 0
    else if c.op = ocIdentity then
      respond s c (bytesAt Config.serial 0 16 ++ bytesAt Config.identityKey 0 68 ++ bytesAt Config.factorySig 0 9893)
    else if sigNext s < sigRes s then
      if c.num 48 4 < attestBytes s then done s c 16
      else
        let body := attestBody s (bytesAt c.record 8 32)
        let (s, i) := takeIndex s
        respond s c (body ++ bytesAt (Config.identitySign i body) 0 9893 ++ s.fwm.log.flatten)
    else reserveBlock s

def execHostTransferComplete (h : Nat) (ok : Bool) (s : State) : Host.Outcome State Fault Refusal :=
  finishWait s (settle (transferDone s h ok))

end Sys2Proof.Machine
end

