-- ==== Sys2Proof/Machine/Firmware.lean ====
section
/-! DEFINITION. Firmware: images, the measurement log, staging, the graft, the trial and the versions of Cellar records
(17_firmware.md). -/

namespace Sys2Proof.Machine

def mapFwm (s : State) (f : FwmSt → FwmSt) : State := { s with fwm := f s.fwm }

def fwmState (s : State) : Nat := fld s Reg.FWM_STATUS Fld.FWM_STATUS_STATE
def setFwm (s : State) (f : Fld) (v : Nat) : State := setFld s Reg.FWM_STATUS f v
def fwsNone : Nat := 0
def fwsStaging : Nat := 1
def fwsStaged : Nat := 2
def fwsTrial : Nat := 3

/-- Outcome codes of R577. -/
def fcBadsig : Nat := 1
def fcBadhash : Nat := 2
def fcRollback : Nat := 3
def fcMajor : Nat := 4
def fcSlot : Nat := 5
def fcBusy : Nat := 6
def fcClrver : Nat := 7
def fcSelftest : Nat := 8
def fcState : Nat := 9
def fcFallback : Nat := 10

/-! ## Images (R572, R573, R575) -/

/-- FLOOR and ROOT of the ROLLBACK record; zero with no valid record. -/
def rollFloor (s : State) : Nat := leAt (cellBody s ckRollback) 0 4
def rollRoot (s : State) : Nat := leAt (cellBody s ckRollback) 4 1 % 2

/-- What an image's header says. -/
def imageOf (slot : Nat) (h : List Byte) : Image :=
  { slot := slot, major := leAt h 6 2, minor := leAt h 8 2, clrver := leAt h 10 2, svn := leAt h 12 4
    hash := bytesAt h 20 32 }

/-- The image of a slot, and 0 or the first code of R577 by which it fails R573. -/
def verify573 (s : State) (slot : Nat) : Nat × Image :=
  let off := slotOff s slot
  let h := flashRead s off 256
  let len := leAt h 16 4
  let img := imageOf slot h
  if h.take 4 ≠ ascii "IXFW" || leAt h 4 2 ≠ 1 || (h.drop 52).any (· ≠ 0#8) || len = 0 || 4194304 < len
      || !Config.firmwareVerify h (flashRead s (off + 256) 2820) then (fcBadsig, img)
  else if shake256 (flashRead s (off + 4096) len) 32 ≠ img.hash then (fcBadhash, img)
  else if img.svn < rollFloor s then (fcRollback, img)
  else (0, img)

/-- The registers that show the active image. -/
def showRun (s : State) : State :=
  match s.fwm.run with
  | none => s
  | some i =>
    let s := setFld (setFld s Reg.FWM_VERSION Fld.FWM_VERSION_MAJOR i.major) Reg.FWM_VERSION Fld.FWM_VERSION_MINOR i.minor
    setFwm (setRegN s Reg.FWM_SVN i.svn) Fld.FWM_STATUS_RUNSLOT i.slot

/-- FWM_SCION shows a staged scion, or zero. -/
def showScion (s : State) (i : Option Image) : State :=
  setRegN s Reg.FWM_SCION (match i with
    | some i => i.major * 2 ^ 16 + i.minor
    | none => 0)

/-! ## The measurement log (R590) -/

/-- TYPE values of R590. -/
def mtBootrom : Nat := 1
def mtFirmware : Nat := 2
def mtSeed : Nat := 3
def mtStage : Nat := 4
def mtGraft : Nat := 5
def mtConfirm : Nat := 6
def mtFallback : Nat := 7
def mtSelect : Nat := 8

/-- Measure an event: the chain value extends, and the first 1 024 entries are kept. -/
def measure (s : State) (type : Nat) (i : Option Image) (digest : List Byte) : State :=
  let g (f : Image → Nat) : Nat := (i.map f).getD 0
  let frame := if fld s Reg.FRM_STATUS Fld.FRM_STATUS_JOINED = 1 then frameNo s else 0
  let entry := leBytes 1 type ++ leBytes 1 (g (·.slot)) ++ leBytes 2 (g (·.major)) ++ leBytes 2 (g (·.minor))
    ++ leBytes 2 0 ++ leBytes 4 (g (·.svn)) ++ leBytes 4 0 ++ leBytes 6 frame ++ leBytes 10 0 ++ bytesAt digest 0 32
  let chain := bytesAt (shake256 (chainBytes s ++ entry) 32) 0 32
  let s := setWords s (Reg.FWM_CHAIN 0) chain 8
  let s := bump s Reg.FWM_LOGCOUNT 1
  if s.fwm.log.length < 1024 then mapFwm s fun x => { x with log := x.log ++ [entry] }
  else raise s Reg.FWM_INTSTAT Fld.FWM_INTSTAT_LOGTRUNC.bit

def measureImage (s : State) (type : Nat) (i : Option Image) : State := measure s type i ((i.map (·.hash)).getD [])

/-! ## Cellar record versions (R584 to R586) -/

/-- The VERSION and body that a record has once the stores accepted so far have run. -/
def lastBody (s : State) (kind : Nat) : Option (Nat × List Byte) :=
  match (s.cellar.stores.filter fun r => r.kind = kind).getLast? with
  | some r => some (r.version, r.body)
  | none => (cellCopy s kind).map fun c => (c.version, c.body)

/-- The MIGRATE record as it will stand; empty when there is none. -/
def lastMigrate (s : State) : List Byte := ((lastBody s ckMigrate).map (·.2)).getD []

/-- The record that an image reads: absent when its VERSION is higher than the image's and MIGRATE is empty (R584). -/
def recordFor (s : State) (i : Image) (kind : Nat) : Option (List Byte) :=
  match lastBody s kind with
  | none => none
  | some (v, bs) => if i.clrver < v && (lastMigrate s).isEmpty then none else some bs

/-- The kinds whose VERSION follows the image (R584), ascending. -/
def migratedKinds : List Nat := [ckRepair, ckSecret, ckLife, ckRollback, ckSignres]

/-- The records of a MIGRATE body: kind, version and old body. -/
def heldRecords : Nat → List Byte → List (Nat × Nat × List Byte)
  | 0, _ => []
  | n + 1, bs =>
    let len := leAt bs 4 4
    (leAt bs 0 2, leAt bs 2 2, bytesAt bs 8 len) :: heldRecords n (bs.drop (8 + len))

/-- The MIGRATE body of an image and the records it holds (R585). -/
def migrateBody (i : Image) (rs : List (Nat × Nat × List Byte)) : List Byte :=
  bytesAt i.hash 0 32 ++ leBytes 2 rs.length
    ++ rs.flatMap fun r => leBytes 2 r.1 ++ leBytes 2 r.2.1 ++ leBytes 4 r.2.2.length ++ r.2.2

/-- The bytes of a record that a rule of its own lays out whatever its VERSION: FLOOR and ROOT, NEXTRES (R575, R589). -/
def fixedBytes (kind : Nat) : Nat := if kind = ckRollback then 5 else if kind = ckSignres then 8 else 0

/-- A record's body after migration: what the layout of the image's version makes of it, those bytes apart. -/
def migratedBody (i : Image) (kind version : Nat) (bs : List Byte) : List Byte :=
  bs.take (fixedBytes kind) ++ (Config.migrate kind version i.clrver bs).drop (fixedBytes kind)

/-- Migrate the records of a lower VERSION: MIGRATE first, then each migrated record in ascending KIND (R585). -/
def migrate585 (s : State) (i : Image) : State :=
  let olds := migratedKinds.filterMap fun k =>
    (lastBody s k).bind fun (v, bs) => if v < i.clrver then some (k, v, bs) else none
  if olds.isEmpty then s
  else
    let s := queueStore s { kind := ckMigrate, version := i.clrver, body := migrateBody i olds }
    olds.foldl (fun s (k, v, bs) =>
      queueStore s { kind := k, version := i.clrver, body := migratedBody i k v bs }) s

/-- The body that goes back for a held record: NEXTRES of SIGNRES never falls, for no index may be used twice (R589). -/
def heldBack (s : State) (kind : Nat) (bs : List Byte) : List Byte :=
  if kind = ckSignres then leBytes 8 (max (leAt bs 0 8) (leAt (((lastBody s kind).map (·.2)).getD []) 0 8)) ++ bs.drop 8
  else bs

/-- The MIGRATE record ends: the held bodies go back unless the image owns the migration (R586). -/
def closeMigration (s : State) (i : Image) : State :=
  let m := lastMigrate s
  if m.isEmpty then s
  else
    let s := if m.take 32 = bytesAt i.hash 0 32 then s
      else (heldRecords (leAt m 32 2) (m.drop 34)).foldl (fun s (k, v, bs) =>
        queueStore s { kind := k, version := v, body := heldBack s k bs }) s
    queueStore s { kind := ckMigrate, version := i.clrver, body := [] }

/-- What an image that becomes active does first with the Cellar (R584 to R586). -/
def meetRecords (s : State) (i : Image) : State :=
  let s := closeMigration s i
  let high := migratedKinds.any fun k => (lastBody s k).any fun r => i.clrver < r.1
  let s := if high then raise s Reg.FWM_INTSTAT Fld.FWM_INTSTAT_CLRVER.bit else s
  migrate585 s i

/-- The ROLLBACK body that names an image: FLOOR is never lowered (R575). -/
def rollbackBody (s : State) (i : Image) : List Byte :=
  leBytes 4 (max (rollFloor s) i.svn) ++ leBytes 1 i.slot ++ leBytes 27 0

/-! ## The firmware commands (R576 to R583) -/

/-- A firmware command ends with a code of R577. -/
def fwmEnd (s : State) (h code : Nat) : State :=
  let s := if code = 0 then s else setFwm s Fld.FWM_STATUS_LASTERR code
  let s := if 1 ≤ code && code ≤ 9 then raise s Reg.FWM_INTSTAT Fld.FWM_INTSTAT_REFUSED.bit else s
  complete s h { status := 0, detail := code }

/-- STAGE (R577, R578). -/
def stageCmd (s : State) (c : HostCmd) : State :=
  let slot := c.num 8 1 % 2
  if fwmState s ≠ fwsNone then fwmEnd s c.handle fcBusy
  else if (s.fwm.run.map (·.slot)) = some slot then fwmEnd s c.handle fcSlot
  else mapFwm (setFwm (setRunning s c 0) Fld.FWM_STATUS_STATE fwsStaging) fun x => { x with staging := some (c.handle, slot) }

def execStage (s : State) : Host.Outcome State Fault Refusal := finish s (hostCmd ocStage stageCmd s)

/-- Why a slot may not be grafted, or 0 (R573, R577, R578). -/
def scionCode (s : State) (slot : Nat) (selfOk : Bool) : Nat :=
  let v := verify573 s slot
  let run (f : Image → Nat) : Nat := (s.fwm.run.map f).getD 0
  if v.1 ≠ 0 then v.1
  else if v.2.major ≠ run (·.major) then fcMajor
  else if v.2.clrver < run (·.clrver) then fcClrver
  else if !selfOk then fcSelftest
  else 0

/-- STAGE_COMPLETE (R578). -/
def stageComplete (s : State) (selfOk : Bool) : State :=
  match s.fwm.staging with
  | none => s
  | some (h, slot) =>
    let code := scionCode s slot selfOk
    let img := (verify573 s slot).2
    let s := mapFwm s fun x => { x with staging := none }
    if code ≠ 0 then fwmEnd (setFwm s Fld.FWM_STATUS_STATE fwsNone) h code
    else
      let s := mapFwm (setFwm s Fld.FWM_STATUS_STATE fwsStaged) fun x => { x with other := some img }
      let s := measureImage (showScion s (some img)) mtStage (some img)
      fwmEnd (raise s Reg.FWM_INTSTAT Fld.FWM_INTSTAT_STAGED.bit) h 0

def execStageComplete (selfOk : Bool) (s : State) : Host.Outcome State Fault Refusal := finish s (stageComplete s selfOk)

/-- GRAFT (R579): the hand-over waits for its frame boundary. -/
def graftOf (s : State) (c : HostCmd) : State :=
  if fwmState s = fwsStaged && s.fwm.graft.isNone then
    mapFwm (setRunning s c 0) fun x => { x with graft := some c.handle }
  else fwmEnd s c.handle (if fwmState s = fwsNone then fcState else fcBusy)

def execGraft (s : State) : Host.Outcome State Fault Refusal := finish s (hostCmd ocGraft graftOf s)

/-- The processors change places. -/
def swapRoles (s : State) : State :=
  let s := setFwm s Fld.FWM_STATUS_ACTIVEMP (1 - fld s Reg.FWM_STATUS Fld.FWM_STATUS_ACTIVEMP)
  let s := mapFwm s fun x => { x with run := x.other, other := x.run }
  showRun (setReg64 s Reg.FWM_SIGNEXT_LO (sigRes s))

/-- GRAFT_HANDOVER (R579): at a frame boundary with no Cellar store, partial reset or Fallow change in progress. -/
def handOver (s : State) : State :=
  match s.fwm.graft, s.fwm.other with
  | some h, some i =>
    if !atBoundary s || !s.cellar.stores.isEmpty || s.rst.parts.any (fun p => p.stage ≠ 0) || s.rst.waking then s
    else
      let s := showScion (swapRoles s) none
      let s := setFwm s Fld.FWM_STATUS_STATE fwsTrial
      let s := mapFwm s fun x => { x with
        graft := none, left := 1000000 * fld s Reg.FWM_GRAFTCFG Fld.FWM_GRAFTCFG_WINDOW, rounds := 0, fallDue := false
        confirming := false, since := [] }
      let s := raise (bump s Reg.FWM_GRAFTS 1) Reg.FWM_INTSTAT Fld.FWM_INTSTAT_GRAFT.bit
      fwmEnd (meetRecords (measureImage s mtGraft (some i)) i) h 0
  | _, _ => s

def execGraftHandover (s : State) : Host.Outcome State Fault Refusal := finishTick s (handOver s)

/-- A fallback is ordered (R582); a trial that has been confirmed falls back no more. -/
def orderFallback (s : State) : State :=
  if fwmState s = fwsTrial && !s.fwm.confirming then mapFwm s fun x => { x with fallDue := true } else s

/-- ABANDON (R576, R582). -/
def abandonOf (s : State) (c : HostCmd) : State :=
  if fwmState s = fwsStaged then
    let s := showScion (setFwm s Fld.FWM_STATUS_STATE fwsNone) none
    fwmEnd (mapFwm s fun x => { x with other := none }) c.handle 0
  else if fwmState s = fwsTrial && !s.fwm.confirming then fwmEnd (orderFallback s) c.handle 0
  else fwmEnd s c.handle fcState

def execAbandon (s : State) : Host.Outcome State Fault Refusal := finish s (hostCmd ocAbandon abandonOf s)

/-- SELECT (R583). -/
def selectOf (s : State) (c : HostCmd) : State :=
  if fwmState s ≠ fwsNone then fwmEnd s c.handle fcBusy
  else
    let v := verify573 s (c.num 8 1 % 2)
    if v.1 ≠ 0 then fwmEnd s c.handle v.1
    else
      let s := measureImage (setRunning s c 0) mtSelect (some v.2)
      queueStore s { kind := ckRollback, version := cellVersion s ckRollback, body := rollbackBody s v.2
                     handle := some c.handle }

def execSelect (s : State) : Host.Outcome State Fault Refusal := finish s (hostCmd ocSelect selectOf s)

/-- FWM_CONFIRM (R581): a write of CONFIRM by the scion, accepted after two housekeeping rounds and before the window
ends; what follows the two stores waits for them. -/
def confirm (s : State) : State :=
  match s.fwm.run with
  | none => s
  | some i =>
    if fwmState s ≠ fwsTrial || s.fwm.confirming || s.fwm.fallDue || s.fwm.rounds < 2 || s.fwm.left = 0 then s
    else
      let s := deviceStore s ckRollback (rollbackBody s i)
      mapFwm (deviceStore s ckMigrate []) fun x => { x with confirming := true }

def execFwmConfirm (s : State) : Host.Outcome State Fault Refusal := finish s (confirm s)

/-- The end of a confirmation (R581). -/
def confirmed (s : State) : State :=
  let s := mapFwm (setFwm s Fld.FWM_STATUS_STATE fwsNone) fun x => { x with other := none, confirming := false, since := [] }
  measureImage (raise s Reg.FWM_INTSTAT Fld.FWM_INTSTAT_CONFIRM.bit) mtConfirm s.fwm.run

def execFwmAbandon (s : State) : Host.Outcome State Fault Refusal := finish s (orderFallback s)

/-- TRIAL_EXPIRY (R582): the window has ended unconfirmed. -/
def execTrialExpiry (s : State) : Host.Outcome State Fault Refusal :=
  finish s (if s.fwm.left = 0 then orderFallback s else s)

/-- FALLBACK (R582): at a frame boundary the rootstock becomes active again. -/
def fallback (s : State) : State :=
  if !s.fwm.fallDue || fwmState s ≠ fwsTrial || !atBoundary s then s
  else
    let ended := s.fwm.since
    let s := mapFwm (setFwm (swapRoles s) Fld.FWM_STATUS_STATE fwsNone) fun x => { x with
      other := none, fallDue := false, since := [] }
    let s := ended.foldl (fun s h => if (findCmd s h).isSome then fwmEnd s h fcFallback else s) s
    let s := raise (bump s Reg.FWM_FALLBACKS 1) Reg.FWM_INTSTAT Fld.FWM_INTSTAT_FALLBACK.bit
    let s := measureImage s mtFallback s.fwm.run
    match s.fwm.run with
    | some i => meetRecords s i
    | none => s

def execFallback (s : State) : Host.Outcome State Fault Refusal := finishTick s (fallback s)

/-! ## Cellar stores (R546 to R548) -/

/-- Signatures that waited for a block go out while indices last. -/
def releaseSigns : List (Nat × List Byte) → State → State
  | [], s => s
  | (p, m) :: t, s =>
    if sigNext s < sigRes s then releaseSigns t (releaseProof s p m)
    else reserveBlock { s with signs := s.signs ++ (p, m) :: t }

/-- What the registers show of a record that has just been stored. -/
def stored (s : State) (r : StoreReq) : State :=
  if r.kind = ckRollback then
    setFwm (setRegN s Reg.FWM_FLOOR (rollFloor s)) Fld.FWM_STATUS_ROOTSLOT (rollRoot s)
  else if r.kind = ckSignres then
    let s := setReg64 s Reg.FWM_SIGRES_LO (leAt r.body 0 8)
    releaseSigns s.signs { s with signs := [] }
  else if r.kind = ckMigrate then
    let s := setFwm s Fld.FWM_STATUS_MIGRATING (if r.body.isEmpty then 0 else 1)
    if s.fwm.confirming && r.body.isEmpty then confirmed s else s
  else s

/-- STORE_COMPLETE (R547): the copy that was not valid holds the record. -/
def storeComplete (s : State) : State :=
  match s.cellar.stores with
  | [] => s
  | r :: t =>
    let recs := kset (fun _ => {}) s.cellar.recs r.kind ((cellRec s r.kind).write r.version r.body)
    let s := stored { s with cellar := { recs := recs, stores := t } } r
    match r.handle with
    | some h => complete s h { status := 0 }
    | none => s

end Sys2Proof.Machine
end

