-- ==== Sys2Proof/Machine/Bringup.lean ====
section
/-! DEFINITION. Full resets, start-up and what persists (15_bringup.md), the pins and supplies that bring them about
(19_package.md), and the clock faults that end in one (R567). -/

namespace Sys2Proof.Machine

def mapRst (s : State) (f : RstSt → RstSt) : State := { s with rst := f s.rst }

def setPhase (s : State) (n : Nat) : State := setFld s Reg.RST_STATUS Fld.RST_STATUS_PHASE n
def setRst (s : State) (n : Nat) : State := setFld s Reg.RST_STATUS Fld.RST_STATUS_STATE n

/-- Causes of R513. -/
def rcPor : Nat := 0
def rcMainpg : Nat := 1
def rcPerst : Nat := 2
def rcHost : Nat := 3
def rcMgmt : Nat := 4
def rcWatchdog : Nat := 5
def rcFailstart : Nat := 6

/-- Reasons of RST_FAILCNT.LASTREASON (R551). -/
def lrLoft : Nat := 1
def lrGranary : Nat := 2
def lrCrown : Nat := 3
def lrFwbad : Nat := 4
def lrSeedbad : Nat := 5
def lrWatchdog : Nat := 6
def lrDeadline : Nat := 7

/-! ## What persists (R549) -/

/-- A register that a warm reset keeps: RWS registers, counters since power-on, the event sequence and the error log. -/
def keptReg (a : Nat) : Bool := (regRow a).any fun r => r.persist = .kept || r.persist = .sticky

/-- The object range as the Granary holds it: dirty Loft lines are lost. -/
def granaryBytes (s : State) : KMap Byte :=
  s.loft.stale.foldl (fun m x => kset (fun _ => 0#8) m x.1 x.2) (s.mem.filter fun x => x.1 < objEnd)

/-- An object record of a Granary that a reset keeps: HOME and unpinned, with no line in the Loft. -/
def homeObj (s : State) (j : Nat) : State :=
  let s := setObj (setPinned (setMstate s j msHome) j 0) j 24 4 0
  s

/-- The store in progress completes before a reset that waits for it (R515). -/
def storesAfter (s : State) (cause : Nat) : CellarSt :=
  match s.cellar.stores with
  | r :: _ =>
    if cause = rcPor || cause = rcMainpg then { s.cellar with stores := [] }
    else { recs := kset (fun _ => {}) s.cellar.recs r.kind ((cellRec s r.kind).write r.version r.body), stores := [] }
  | [] => s.cellar

/-- The partial reset in progress that a full reset abandons (R515, R551). -/
def abandoned (s : State) : Option PartReq := s.rst.parts.find? fun p => p.stage ≠ 0

/-- The trial that a full reset ends counts as a fallback (R580, R582). -/
def resetInTrial (s : State) : Bool := fwmState s = fwsTrial && (s.fwm.run.any fun i => rollRoot s ≠ i.slot)

/-- State after a full reset with everything that R549 does not keep at its reset value: `regs` are the registers kept,
`keep` whether the Granary is (R516). -/
def resetState (s : State) (cause : Nat) (regs : KMap Word) (keep : Bool) : State :=
  { pending := s.pending, free := s.free, rdata := s.rdata, wire := s.wire
    regs := regs
    mem := if keep then granaryBytes s else []
    ecc := if keep then { cw := s.ecc.cw.filter fun x => x.1 % 4 = 2
                          written := s.ecc.written.filter fun x => x.1 < objEnd }
      else {}
    loft := if keep then { objs := s.loft.objs } else {}
    cellar := storesAfter s cause
    host := { mem := s.host.mem, completions := s.host.completions }
    msix := { sent := s.msix.sent }
    rst := { power := s.rst.power, mainPg := s.rst.mainPg, perst := s.rst.perst, fuses := s.rst.fuses
             flash := s.rst.flash, digests := (if cause = rcPor then [] else s.rst.digests), trips := s.rst.trips } }

/-- A full reset (R513 to R516): what R549 keeps is kept, and the start begins at phase 1 after POR, else at phase 2. -/
def fullReset (s : State) (cause : Nat) (keep : Bool) : State :=
  let por := cause = rcPor
  let regs := if por then [] else s.regs.filter fun x => keptReg x.1
  let t := resetState s cause regs keep
  let t := if keep then
      setFld (s.loft.objs.foldl homeObj (setReg64 t Reg.LFT_OBJBASE_LO (reg64 s Reg.LFT_OBJBASE_LO))) Reg.LFT_OBJCOUNT
        Fld.LFT_OBJCOUNT_COUNT s.loft.objs.length
    else t
  let t := setFld t Reg.RST_CAUSE Fld.RST_CAUSE_CAUSE cause
  let t := setFld t Reg.RST_CAUSE Fld.RST_CAUSE_TRIPPED (if s.rst.trip && (por || cause = rcMainpg) then 1 else 0)
  let t := setPhase t (if por then 1 else 2)
  let t := if resetInTrial s && !por then bump t Reg.FWM_FALLBACKS 1 else t
  match abandoned s with
  | some p =>
    if por then t
    else
      let t := setFld (setFld t Reg.RST_PARTSTAT Fld.RST_PARTSTAT_KIND p.kind) Reg.RST_PARTSTAT Fld.RST_PARTSTAT_TARGET p.target
      raise (setFld t Reg.RST_PARTSTAT Fld.RST_PARTSTAT_RESULT 3) Reg.RST_INTSTAT Fld.RST_INTSTAT_PARTREF.bit
  | none => t

/-- A start fails (R529). -/
def failStart (s : State) (reason : Nat) : State :=
  fullReset (setFld s Reg.RST_CAUSE Fld.RST_CAUSE_REASON reason) rcFailstart false

/-! ## Loading the Cellar records (R521, R549) -/

/-- Load one entry of a REPAIR record. -/
def loadRepair (s : State) (x : Nat × Nat) : State :=
  let i := x.1 % 2 ^ 40
  match x.1 / 2 ^ 40 with
  | 0 => if (regRow x.1).any fun r => r.persist = .live then setRegN s x.1 x.2 else s
  | 1 => setFld s (Reg.BGH_STATUS i) Fld.BGH_STATUS_FAILED 1
  | 2 => { s with ecc := { s.ecc with dies := aput s.ecc.dies i x.2 } }
  | 3 => { s with integ := { s.integ with rowsDone := s.integ.rowsDone ++ [(i, x.2)] } }
  | 4 => { s with integ := { s.integ with rowsRef := s.integ.rowsRef ++ [(i, x.2)] } }
  | _ => { s with integ := { s.integ with banksDone := s.integ.banksDone ++ [(i, x.2)] } }

/-- Phase 2 loads every RWC register from the SETTINGS record. -/
def loadSettings (s : State) : State :=
  (bodyPairs (cellBody s ckSettings)).foldl (fun s x => if (rowRegs .cellar).contains x.1 then setRegN s x.1 x.2 else s) s

/-! ## The Seed (R524 to R528) -/

def mapSeed (s : State) (f : SeedSt → SeedSt) : State := { s with seed := f s.seed }

/-- `n` bytes of the Seed buffer at offset `o`. -/
def seedBytes (s : State) (o n : Nat) : List Byte := (List.range n).map fun i => kget (fun _ => 0xFF#8) s.rst.seedBuf (o + i)

def seedN (s : State) (o n : Nat) : Nat := leNat (seedBytes s o n)

/-- A directory entry (R524). -/
structure Section where
  type : Nat
  off  : Nat
  len  : Nat
  crc  : Nat
  deriving DecidableEq, Repr

def sections (s : State) : List Section :=
  (List.range (seedN s 6 2)).map fun i =>
    let e := 64 + 16 * i
    ⟨seedN s e 2, seedN s (e + 4) 4, seedN s (e + 8) 4, seedN s (e + 12) 4⟩

/-- A section lies in the Seed, 64-byte aligned, and its CRC holds. -/
def sectionGood (s : State) (x : Section) : Bool :=
  x.off % 64 = 0 && x.off + x.len ≤ seedN s 8 4 && crc32c (seedBytes s x.off x.len) = x.crc

/-- The bytes of the section of a type; none when it is missing. -/
def sectionOf (s : State) (type : Nat) : Option (List Byte) :=
  ((sections s).find? fun x => x.type = type).map fun x => seedBytes s x.off x.len

/-- The first header field that fails, by its offset (R524). -/
def headerFault (s : State) : Option Nat :=
  if seedBytes s 0 4 ≠ ascii "IXSD" then some 0
  else if seedN s 4 2 ≠ 1 then some 4
  else if seedN s 6 2 = 0 || 64 < seedN s 6 2 then some 6
  else if 0x100000 < seedN s 8 4 then some 8
  else if crc32c (seedBytes s 0 60) ≠ seedN s 60 4 then some 60
  else none

/-- The sections that a Seed must have (R525). -/
def seedRequired : List Nat := [1, 2, 5, 6, 7, 8]

/-- The type of a section that occurs twice. -/
def seedTwice : List Section → Option Nat
  | [] => none
  | x :: t => if t.any fun y => y.type = x.type then some x.type else seedTwice t

/-- WAYS: C and P, or the default (R525). -/
def seedWays (s : State) : Nat × Nat :=
  match sectionOf s 3 with
  | some w => (leAt w 0 1, leAt w 1 1)
  | none => (8, 4)

/-- PERIOD and WIN lie in their bounds (R39, R51, R72, R76). -/
def periodOk (p : Nat) : Bool := 4 ≤ p && p ≤ 256
def winOk (p w : Nat) : Bool := 2 ≤ w && w ≤ 255 && 64 * w ≤ 500 * p

/-- The first value out of bounds, as section type and byte (R527). -/
def boundsFault (s : State) : Option (Nat × Nat) :=
  let f := (sectionOf s 2).getD []
  let fl := (sectionOf s 7).getD []
  let (c, p) := seedWays s
  let own := leAt fl (64 + 4 * leAt fl 2 1) 4
  let id := leAt ((sectionOf s 1).getD []) 0 3 % 2 ^ 18
  if !periodOk (leAt f 0 2) then some (2, 0)
  else if !winOk (leAt f 0 2) (leAt f 2 1) then some (2, 2)
  else if leAt f 3 1 = 0 || 15 < leAt f 3 1 then some (2, 3)
  else if 16 < c + p || c + p < 4 || 12 < p then some (3, 0)
  else if !bitN own 31 || own % 2 ^ 18 ≠ id then some (7, 64 + 4 * leAt fl 2 1)
  else none

/-- The first failure of the Seed check, as REASON, TYPE and OFFSET of RST_SEEDERR (R527, R528, R551). -/
def seedFault (s : State) : Option (Nat × Nat × Nat) :=
  if s.rst.seedErr then some (5, 0, 0)
  else
    match headerFault s with
    | some o => some (1, 0, o)
    | none =>
      match (sections s).find? fun x => !sectionGood s x with
      | some x => some (2, x.type % 256, 0)
      | none =>
        match seedTwice (sections s), seedRequired.find? fun t => (sectionOf s t).isNone with
        | some t, _ => some (3, t % 256, 0)
        | none, some t => some (3, t, 0)
        | none, none => (boundsFault s).map fun x => (4, x.1, x.2)

/-- Load consecutive register images, cut to the bits their fields have. -/
def loadImages (s : State) (bs : List Byte) (mask : Nat) : List Nat → Nat → State
  | [], _ => s
  | a :: t, o => loadImages (setRegN s a (leAt bs o 4 &&& mask)) bs mask t (o + 4)

/-- An item preceded by its 4-byte length, and what follows it (R525). -/
def takeItem (bs : List Byte) : List Byte × List Byte := (bytesAt bs 4 (leAt bs 0 4), bs.drop (4 + leAt bs 0 4))

def takeItems : Nat → List Byte → List (List Byte)
  | 0, _ => []
  | n + 1, bs => (takeItem bs).1 :: takeItems n (takeItem bs).2

/-- The slot arithmetic of the PERIOD and WIN that govern (R46 to R48, R75, R463). -/
def syncFrame (s : State) : State :=
  let p := 1000 * s.frm.period
  let c := p - 64 * s.frm.win
  let n := (p - 64) / 256
  let s := setFld (setFld s Reg.FRM_SLOTS Fld.FRM_SLOTS_COUNT n) Reg.FRM_SLOTS Fld.FRM_SLOTS_WORKSLOTS (c / 256)
  setFld (setFld s Reg.FRM_SLOTS Fld.FRM_SLOTS_GUARD (p - 256 * n)) Reg.FLR_NTEL Fld.FLR_NTEL_NTEL ((c - 1664) / 256)

def loadIdentity (s : State) (bs : List Byte) : State :=
  setRegN (setRegN s Reg.FAB_ID (leAt bs 0 3 % 2 ^ 18)) Reg.FAB_PKEY (leAt bs 4 2)

def loadFrame (s : State) (bs : List Byte) : State :=
  let s := setFld (setFld s Reg.FRM_CTRL Fld.FRM_CTRL_PERIOD (leAt bs 0 2)) Reg.FRM_CTRL Fld.FRM_CTRL_SLIPLIM (leAt bs 4 1)
  let s := setFld s Reg.FRM_SLIPWIN Fld.FRM_SLIPWIN_WIN (leAt bs 2 1)
  let s := setFld s Reg.MIL_GATE Fld.MIL_GATE_HORIZON (leAt bs 3 1)
  syncFrame { s with frm := { s.frm with period := leAt bs 0 2, win := leAt bs 2 1 }
                     seed := { s.seed with period := leAt bs 0 2, win := leAt bs 2 1 } }

/-- The partition of the ways and the pool that it gives (R267, R300, R316). -/
def loadWays (s : State) : State :=
  let (c, p) := seedWays s
  let d := 16 - c - p
  let s := setFld (setFld s Reg.LFT_WAYS Fld.LFT_WAYS_CACHE c) Reg.LFT_WAYS Fld.LFT_WAYS_PIN p
  let s := setFld (setFld s Reg.LFT_WAYS Fld.LFT_WAYS_DIRECT d) Reg.LFT_DIRECT Fld.LFT_DIRECT_WAYS d
  let n := (c + p) * 98304 - 6144 * fld s Reg.LFT_STATUS Fld.LFT_STATUS_MAPPED
  setFld (setFld s Reg.LFT_POOL Fld.LFT_POOL_LINES n) Reg.LFT_POOLFREE Fld.LFT_POOLFREE_LINES n

def loadPlacement (s : State) (bs : List Byte) : State :=
  let s := setReg64 s Reg.LFT_OBJBASE_LO (leAt bs 0 5 &&& 0xFFFFC00000)
  let s := setRegN s Reg.LFT_THRASH (leAt bs 8 4 &&& 0x80FFFFFF)
  let s := setReg64 (setRegN s Reg.LFT_REDCTRL (leAt bs 12 1)) Reg.LFT_NORECLAIM_LO (leAt bs 16 8)
  let s := loadImages s bs 0xFFFFFF ((List.range 256).map fun o => Reg.LFT_QUOTA o) 64
  mapLoft s fun lo => { lo with park := if bitN (leAt bs 7 1) 0 then some (leAt bs 5 2) else none }

def loadFabric (s : State) (bs : List Byte) : State :=
  let s := setRegN s Reg.FAB_CTRL (leAt bs 0 4 % 2)
  let s := setRegN s Reg.FAB_FLAG (leAt bs 4 4 &&& 0xDFFFFFFF)
  let s := loadImages s bs 0x8003FFFF ((List.range 24).map fun p => Reg.FAB_EXPECT p) 8
  let s := loadImages s bs 0x9F ((List.range 1024).map fun g => Reg.FAB_GROUTE g) 104
  loadImages s bs 0x9F ((List.range 256).map fun m => Reg.FAB_MROUTE m) 4200

def loadAdmission (s : State) (bs : List Byte) : State :=
  let (key, bs) := takeItem bs
  let (cert, bs) := takeItem bs
  let (sig, bs) := takeItem bs
  mapSeed s fun x => { x with
    authKey := key, cert := cert, certSig := sig, digests := takeItems (min (leAt bs 0 1) 8) (bs.drop 1) }

def loadFloor (s : State) (bs : List Byte) : State :=
  let s := setFld (setFld s Reg.FLR_CFG Fld.FLR_CFG_SEGMENT (leAt bs 0 2)) Reg.FLR_CFG Fld.FLR_CFG_FIDX (leAt bs 2 1)
  let s := setFld s Reg.FLR_CFG Fld.FLR_CFG_LRANK (leAt bs 3 1)
  mapSeed s fun x => { x with
    members := (List.range 256).filterMap fun i =>
      let e := leAt bs (64 + 4 * i) 4
      if bitN e 31 then some (i, e % 2 ^ 18) else none }

/-- Load every register from a Seed that has passed (R525 to R527). -/
def loadSeed (s : State) : State :=
  let sec (t : Nat) : List Byte := (sectionOf s t).getD []
  let s' := loadWays (loadFrame (loadIdentity s (sec 1)) (sec 2))
  let s' := match sectionOf s 4 with
    | some bs => loadPlacement s' bs
    | none => s'
  let s' := loadFloor (loadAdmission (loadFabric s' (sec 5)) (sec 6)) (sec 7)
  mapSeed s' fun x => { x with read := true }

/-! ## The phases (R517 to R523, R529 to R531) -/

/-- The FIRMWARE section as the boot ROM takes it from the Seed copy (R571): none when missing or with a bad CRC. -/
def bootSlots (s : State) : List Byte :=
  if s.rst.seedErr then []
  else
    match (sections s).find? fun x => x.type = 8 with
    | some x => if sectionGood s x then seedBytes s x.off x.len else []
    | none => []

def startCount (s : State) : Nat := leAt (cellBody s ckStart) 0 4

/-- The registers that show the ROLLBACK and MIGRATE records. -/
def showRecords (s : State) : State :=
  let s := setFwm (setRegN s Reg.FWM_FLOOR (rollFloor s)) Fld.FWM_STATUS_ROOTSLOT (rollRoot s)
  setFwm s Fld.FWM_STATUS_MIGRATING (if (cellBody s ckMigrate).isEmpty then 0 else 1)

/-- Dormant (R530, R531). -/
def enterDormant (s : State) : State :=
  let s := setPhase (setRst s stDormant) 0
  let s := setFld (setFld s Reg.HST_STATUS Fld.HST_STATUS_DORMANT 1) Reg.HST_STATUS Fld.HST_STATUS_ACCEPTING 1
  showRecords (mapHost s fun h => { h with config := true })

/-- Phase 2: option bytes, fuses and the failed-start count (R521, R523, R530). -/
def phase2 (s : State) : State :=
  let s := setRegN (loadSettings s) Reg.RST_FUSE s.rst.fuses
  let n := startCount s
  let s := setFld s Reg.RST_FAILCNT Fld.RST_FAILCNT_COUNT (min n 15)
  let s := setFld s Reg.RST_FAILCNT Fld.RST_FAILCNT_LASTREASON (fld s Reg.RST_CAUSE Fld.RST_CAUSE_REASON)
  let s := (List.range 8).foldl (fun s i => setRegN s (Reg.GRN_GLNOW i) (regN s Reg.GRN_GLRATE)) s
  if fld s Reg.RST_OPTIONS Fld.RST_OPTIONS_FAILLIM ≤ n then enterDormant s
  else setPhase (deviceStore s ckStart (leBytes 4 (n + 1))) 3

/-- Phase 5: the Root and the host port are up, and the Seed is copied; `ok` says that the flash read met no error. -/
def phase5 (s : State) (ok : Bool) : State :=
  let s := mapRst s fun r => { r with seedBuf := r.flash.filter fun x => x.1 < 0x100000, seedErr := !ok }
  let s := mapHost s fun h => { h with config := true }
  setPhase (mapSeed s fun x => { x with slots := bootSlots s }) 6

/-- A Loft bank that fails at self-test (R505, R517): a spare of its layer takes its place, or its slice loses the layer;
true when the slice has lost one already, so that the full Loft cannot be presented (R529). -/
def bankFails (r : State × Bool) (x : Nat × Nat) : State × Bool :=
  let s := r.1
  let gone := fld s (Reg.LFT_SLSTAT x.2) Fld.LFT_SLSTAT_MAPPED = 1
  if gone && fld s (Reg.LFT_SLSTAT x.2) Fld.LFT_SLSTAT_LAYER = x.1 then r
  else if sparesUsed s x.1 < 4 then
    let s := mapInteg (useSpareBank s x.1) fun i => { i with banksDone := i.banksDone ++ [x] }
    (repairTaken s 1 repBank x.2 x.1 0, r.2)
  else if gone then (s, true)
  else (showMapout s x.2 x.1, r.2)

/-- Phase 6: the repair map of the Cellar is applied, on top of the reset values, and new faults are repaired (R505, R517,
R521, R549). -/
def phase6 (s : State) (banks : List (Nat × Nat)) : State :=
  let r := banks.foldl bankFails ((bodyPairs (cellBody s ckRepair)).foldl loadRepair s, false)
  if r.2 then failStart r.1 lrLoft else setPhase r.1 7

/-- Phase 8: the fill, or the written maps, are in force (R501). -/
def phase8 (s : State) : State :=
  let m := fld s Reg.RST_OPTIONS Fld.RST_OPTIONS_INITMODE
  setPhase (setFld (setFld s Reg.INT_STATUS Fld.INT_STATUS_INITMODE m) Reg.INT_STATUS Fld.INT_STATUS_FILLED (1 - m)) 9

/-- A bough that fails at self-test: a spare takes its number, or it is presented no more (R505, R517). -/
def boughFails (s : State) (b : Nat) : State :=
  let n := fld s (Reg.BGH_STATUS b) Fld.BGH_STATUS_PRESENTED
  let s := setFld (setFld s (Reg.BGH_STATUS b) Fld.BGH_STATUS_FAILED 1) (Reg.BGH_STATUS b) Fld.BGH_STATUS_PRESENTED 127
  if 64 ≤ n then s
  else
    match freeSpare s with
    | none => setFld s (Reg.BGH_PMAP n) Fld.BGH_PMAP_PHYS 127
    | some b' =>
      let s := setFld (setFld s (Reg.BGH_STATUS b') Fld.BGH_STATUS_PRESENTED n) (Reg.BGH_PMAP n) Fld.BGH_PMAP_PHYS b'
      let s := setFld s Reg.INT_SPARES Fld.INT_SPARES_BOUGHS (fld s Reg.INT_SPARES Fld.INT_SPARES_BOUGHS + 1)
      repairTaken s 4 repBough b 0xFFFF 0

/-- An array's column test at self-test (R186, R191). -/
def arrayTested (s : State) (t : ArrayTest) : State :=
  if arrRetired s t.b t.a then s else repairArray s t.b t.a (finding s t.b t.a (wrongCells s t.cells) t.sumPath)

/-- Phase 9: the references of the column test are computed, BGH_STATUS shows the presentation map, and what self-test finds
is repaired; a device that cannot present 64 boughs fails its start (R186, R191, R517, R529). -/
def phase9 (s : State) (arrays : List ArrayTest) (boughs : List Nat) : State :=
  let s := mapInteg s fun i => { i with refs := testRefs }
  let s := (List.range 68).foldl (fun s b => setFld s (Reg.BGH_STATUS b) Fld.BGH_STATUS_PRESENTED 127) s
  let s := (List.range 64).foldl (fun s n =>
    if phys s n < 68 then setFld s (Reg.BGH_STATUS (phys s n)) Fld.BGH_STATUS_PRESENTED n else s) s
  let s := boughs.foldl boughFails (arrays.foldl arrayTested s)
  if (List.range 64).all fun n => phys s n < 68 then setPhase s 10 else failStart s lrCrown

/-- What phases 6 and 9 found. -/
def foundBanks : PhaseResult → List (Nat × Nat)
  | .loft banks => banks
  | _ => []

def foundArrays : PhaseResult → List ArrayTest
  | .crown arrays _ => arrays
  | _ => []

def foundBoughs : PhaseResult → List Nat
  | .crown _ boughs => boughs
  | _ => []

/-- An image starts at phase 10 (R574, R584 to R589). -/
def startImage (s : State) (i : Image) : State :=
  let s := showRun (mapFwm s fun x => { x with run := some i })
  let s := measureImage (measure s mtBootrom none Config.romDigest) mtFirmware (some i)
  let next := leAt ((recordFor s i ckSignres).getD []) 0 8
  let s := setReg64 (setReg64 s Reg.FWM_SIGNEXT_LO next) Reg.FWM_SIGRES_LO next
  setPhase (meetRecords s i) 11

/-- Phase 10: the rootstock slot, else the other (R574). -/
def phase10 (s : State) : State :=
  let s := showRecords s
  let r := verify573 s (rollRoot s)
  if r.1 = 0 then startImage s r.2
  else
    let o := verify573 s (1 - rollRoot s)
    if o.1 = 0 then
      startImage (raise (setFwm s Fld.FWM_STATUS_ALTBOOT 1) Reg.FWM_INTSTAT Fld.FWM_INTSTAT_ALTBOOT.bit) o.2
    else failStart s lrFwbad

/-- Phase 11: the Seed is checked and loaded, or the start fails (R527, R528). -/
def phase11 (s : State) : State :=
  match seedFault s with
  | some (r, t, o) =>
    let s := setRegN s Reg.RST_SEEDERR (2 ^ 31 + 2 ^ 24 * r + 2 ^ 16 * t + o)
    failStart s lrSeedbad
  | none =>
    let digest := shake256 (seedBytes s 0 (seedN s 8 4)) 32
    setPhase (setFlrState (measure (loadSeed s) mtSeed none digest) fsListen) 12

/-- The counts of a LIFE record: starts, trips and power-on hours (R546). -/
def lifeBody (starts trips hours : Nat) : List Byte := leBytes 8 starts ++ leBytes 8 trips ++ leBytes 8 hours

/-- A LIFE store that adds to the counts so far (R548). -/
def storeLife (s : State) (starts hours : Nat) : State :=
  let old := match s.fwm.run with
    | some i => (recordFor s i ckLife).getD []
    | none => []
  let s' := deviceStore s ckLife
    (lifeBody (leAt old 0 8 + starts) (leAt old 8 8 + s.rst.trips) (leAt old 16 8 + hours))
  mapRst s' fun r => { r with trips := 0 }

/-- Phase 12: Ready (R520, R548). -/
def phase12 (s : State) (us : Nat) : State :=
  let s := setPhase (setRst s stIdle) 0
  let s := raise (setRegN s Reg.RST_READY us) Reg.RST_INTSTAT Fld.RST_INTSTAT_READY.bit
  let s := mapRst (setFld s Reg.HST_STATUS Fld.HST_STATUS_ACCEPTING 1) fun r => { r with ready := true }
  storeLife (deviceStore s ckStart (leBytes 4 0)) 1 0

/-- START_PHASE_DONE (R517): the phase in progress ends. Phase 1 waits for MAIN_PG (R640), phase 4 for PERST# in full-reset
mode (R519). -/
def phaseDone (s : State) (r : PhaseResult) (us : Nat) : State :=
  let ok : Bool := r ≠ .fail
  if rstState s ≠ 0 then s
  else
    match rsPhase s with
    | 1 => setPhase s 2
    | 2 => phase2 s
    | 3 => setPhase s 4
    | 4 => if s.rst.perst && fld s Reg.RST_FUSE Fld.RST_FUSE_PERSTMODE = 0 then s else setPhase s 5
    | 5 => phase5 s ok
    | 6 => if ok then phase6 s (foundBanks r) else failStart s lrLoft
    | 7 => if ok then setPhase s 8 else failStart s lrGranary
    | 8 => phase8 s
    | 9 => if ok then phase9 s (foundArrays r) (foundBoughs r) else failStart s lrCrown
    | 10 => phase10 s
    | 11 => phase11 s
    | 12 => phase12 s us
    | _ => s

def execStartPhaseDone (r : PhaseResult) (us : Nat) (s : State) : Host.Outcome State Fault Refusal :=
  finish s (phaseDone s r us)

/-- START_DEADLINE (R529). -/
def execStartDeadline (s : State) : Host.Outcome State Fault Refusal :=
  finish s (if rstState s = 0 then failStart s lrDeadline else s)

/-! ## Supplies and pins (R513, R514, R519, R639, R640) -/

/-- Stores in progress stop with the supplies (R515, R547). -/
def dropStores (s : State) : State := { s with cellar := { s.cellar with stores := [] } }

/-- POR (R513): the always-on supply reaches power good. -/
def porOf (s : State) : State := mapRst (fullReset s rcPor false) fun r => { r with power := true }

def execPor (s : State) : Host.Outcome State Fault Refusal := finishAny s (porOf s)

/-- MAINPG (R513, R640): MAIN_PG rises; the start that POR began goes on, any other time a warm start begins. -/
def mainpgOf (s : State) : State :=
  if !s.rst.power || s.rst.mainPg then s
  else
    let up := mapRst s fun r => { r with mainPg := true }
    if rstState s = 0 && rsPhase s = 1 && !s.rst.trip then up else fullReset up rcMainpg false

def execMainpg (s : State) : Host.Outcome State Fault Refusal := finishAny s (mainpgOf s)

/-- MAIN_PG_FALL (R640): every domain but the always-on one stops. -/
def mainPgFall (s : State) : State :=
  if !s.rst.mainPg then s else mapRst (dropStores s) fun r => { r with mainPg := false, ready := false }

def execMainPgFall (s : State) : Host.Outcome State Fault Refusal := finishAny s (mainPgFall s)

/-- POWER_DOWN (R639): the always-on supplies fall. -/
def powerDownOf (s : State) : State :=
  mapRst (dropStores s) fun r => { r with power := false, mainPg := false, ready := false }

def execPowerDown (s : State) : Host.Outcome State Fault Refusal := finishAny s (powerDownOf s)

/-- THERMAL_TRIP (R514). -/
def thermalTrip (s : State) : State :=
  if alive s then mapRst (dropStores s) fun r => { r with trip := true, trips := r.trips + 1 } else s

def execThermalTrip (s : State) : Host.Outcome State Fault Refusal := finishAny s (thermalTrip s)

def perstMode (s : State) : Nat := fld s Reg.RST_FUSE Fld.RST_FUSE_PERSTMODE

/-- PERST_ASSERT (R519, R523): in host-port-only mode a host-port reset. -/
def perstAssert (s : State) : State :=
  let s := mapRst s fun r => { r with perst := true }
  if alive s && perstMode s = 1 then hostPortReset s else s

def execPerstAssert (s : State) : Host.Outcome State Fault Refusal := finishAny s (perstAssert s)

/-- PERST_DEASSERT (R513): in full-reset mode a warm reset. -/
def perstDeassert (s : State) : State :=
  if !s.rst.perst then s
  else
    let t := mapRst s fun r => { r with perst := false }
    if alive t && perstMode t = 0 then fullReset t rcPerst false else t

def execPerstDeassert (s : State) : Host.Outcome State Fault Refusal := finishAny s (perstDeassert s)

/-- WATCHDOG (R513, R529, R580): a failed start, a fallback, or a warm reset. -/
def watchdogOf (s : State) : State :=
  if rstState s = 0 then failStart s lrWatchdog
  else if fwmState s = fwsTrial && !s.fwm.confirming then orderFallback s
  else fullReset s rcWatchdog false

def execWatchdog (s : State) : Host.Outcome State Fault Refusal := finish s (watchdogOf s)

/-- CLOCK_FAULT (R567): domains 1 to 21 act on their consumers; 22 to 25 lead to a WATCHDOG reset. -/
def clockFaultOf (s : State) (d : Nat) : State :=
  if 1 ≤ d && d ≤ 21 then clockFault s d
  else if 22 ≤ d && d ≤ 25 then (if rstState s = 0 then failStart s lrWatchdog else fullReset s rcWatchdog false)
  else s

def execClockFault (d : Nat) (s : State) : Host.Outcome State Fault Refusal := finish s (clockFaultOf s d)

/-! ## Cellar stores (R546 to R548) -/

def execStoreComplete (s : State) : Host.Outcome State Fault Refusal := finish s (storeComplete s)

/-- LIFE_STORE_TIMER (R548): 24 more power-on hours. -/
def execLifeStoreTimer (s : State) : Host.Outcome State Fault Refusal :=
  finish s (if rstState s = 0 || rstState s = stDormant then s else storeLife s 0 24)

/-- STORE (R546, R609): the store of a host or MGMT command. -/
def storeOf (s : State) (c : HostCmd) : State :=
  let kind := c.num 8 4
  queueStore (setRunning s c 0) { kind := kind, version := cellVersion s kind, body := c.body, handle := some c.handle }

def execStore (s : State) : Host.Outcome State Fault Refusal := finish s (hostCmd ocStore storeOf s)

end Sys2Proof.Machine
end

