-- ==== Sys2Proof/Machine/Partial.lean ====
section
/-! DEFINITION. Partial resets (R535 to R541), Fallow (R533, R534), and the RESET, FALLOW and WAKE commands. -/

namespace Sys2Proof.Machine

/-! ## Requests and outcomes (R535, R551) -/

def pkRoot : Nat := 1
def pkLayer : Nat := 2
def pkBough : Nat := 3
def pkPort : Nat := 4

/-- A request that names a kind and a target the device has is queued; any other is ignored (R551). -/
def requestPartial (s : State) (arg : Nat) (handle : Option Nat) : State :=
  if partArgOk arg then
    mapRst s fun r => { r with parts := r.parts ++ [{ kind := arg / 2 ^ 28, target := arg % 256, handle := handle }] }
  else s

/-- The first request, when it is of a kind. -/
def partHead (s : State) (kind : Nat) : Option PartReq := (s.rst.parts.head?).filter fun p => p.kind = kind

def setHead (s : State) (f : PartReq → PartReq) : State :=
  mapRst s fun r => { r with parts := (match r.parts with
    | p :: t => f p :: t
    | [] => []) }

/-- A partial reset ends with a RESULT: RST_PARTSTAT shows it and its command completes. -/
def endPart (s : State) (p : PartReq) (result : Nat) : State :=
  let r := Reg.RST_PARTSTAT
  let s := setFld (setFld (setFld s r Fld.RST_PARTSTAT_KIND p.kind) r Fld.RST_PARTSTAT_TARGET p.target) r
    Fld.RST_PARTSTAT_RESULT result
  let s := raise s Reg.RST_INTSTAT (if result = 0 then Fld.RST_INTSTAT_PARTDONE.bit else Fld.RST_INTSTAT_PARTREF.bit)
  let s := mapRst s fun r => { r with parts := r.parts.tail }
  match p.handle with
  | some h => complete s h { status := 0 }
  | none => s

/-! ## RESET (R543, R609, R617) -/

/-- RESET: a full one ends a JOBLOAD that is validating (R619) and completes before it takes effect; a partial one joins the requests. -/
def resetOf (s : State) (c : HostCmd) : State :=
  let arg := c.num 8 4
  if arg = 0 then fullReset (done (stopLoad s) c 0) (if c.mgmt then rcMgmt else rcHost) (!c.mgmt && bitN (c.num 12 1) 0)
  else requestPartial (setRunning s c 0) arg (some c.handle)

def execReset (s : State) : Host.Outcome State Fault Refusal := finish s (hostCmd ocReset resetOf s)

/-! ## The Root sub-reset (R536) -/

/-- Blight with the source RUNTIME for every open step. -/
def blightAll (s : State) : State := s.step.opened.foldl (fun s x => blightStep s x.start srcRuntime) s

/-- Every cart still in flight ends with path-reset status; so do host copies and fills (R536, R616). -/
def cutCarts (s : State) : State :=
  let s := s.carts.foldl (fun s x => endCart s x.1) s
  (s.host.cmds.filter fun c => c.state = 2 && (c.op = ocCopyin || c.op = ocCopyout || c.op = ocFill)).foldl
    (fun s c => done s c 13) s

/-- Registers of the Root, the Mill, the Wain and the stash engine that the sub-reset returns to their reset values. -/
def rootReg (a : Nat) : Bool :=
  (regRow a).any fun r => r.persist = .other &&
    (r.base / 2 ^ 24 = 7 || r.base / 2 ^ 24 = 8 || (0x5009000 ≤ r.base && r.base ≤ 0x5009040))

/-- The sub-reset itself: the Root network, the Mill, the Wain, the stash engine, the merge units and local delivery. -/
def rootStop (s : State) : State :=
  let s := setHead (endJob (cutCarts s) 13 0) fun p => { p with stage := 2 }
  let gate := fld s Reg.MIL_GATE Fld.MIL_GATE_HORIZON
  let s := { s with
    regs := s.regs.filter fun x => !rootReg x.1
    mill := {}, wain := {}, stash := {}, carts := []
    fab := { s.fab with inb := [], trees := [] }
    step := { s.step with opened := [], next := 0, early := [] } }
  let s := setFld (setRegN s Reg.MIL_GATE 0) Reg.MIL_GATE Fld.MIL_GATE_HORIZON gate
  mapLoft s fun lo => { lo with
    returned := [], waiting := [], rounds := lo.rounds.filter fun x => !x.2.diverted }

/-- The quiesce ends as soon as no cart is in flight. -/
def quiesced (s : State) : State :=
  match partHead s pkRoot with
  | some p => if p.stage = 1 && s.carts.isEmpty then rootStop s else s
  | none => s

/-- ROOT_SUBRESET: the stack quiesce begins. -/
def rootSubreset (s : State) : State :=
  match partHead s pkRoot with
  | none => s
  | some p =>
    if p.stage ≠ 0 then s
    else
      let s := setHead s fun p => { p with stage := 1 }
      let s := if rstState s = stFallow then s else setRst s stQuiesce
      let job := s.host.job.map fun j => if j.ending.isNone then { j with ending := some (13, 0) } else j
      let s := preemptAll (mapHost s fun h => { h with job := job })
      let s := blightAll s
      quiesced { s with mill := { s.mill with walking := false }, wain := { s.wain with walking := false } }

def execRootSubreset (s : State) : Host.Outcome State Fault Refusal := finish s (rootSubreset s)

/-- QUIESCE_TIMEOUT: RST_QUIESCE.FRAMES program frames have passed. -/
def quiesceTimeout (s : State) : State :=
  match partHead s pkRoot with
  | none => s
  | some p =>
    if p.stage = 1 && fld s Reg.RST_QUIESCE Fld.RST_QUIESCE_FRAMES ≤ p.frames then rootStop s else s

def execQuiesceTimeout (s : State) : Host.Outcome State Fault Refusal := finish s (quiesceTimeout s)

/-- ROOT_SUBRESET_DONE. -/
def rootSubresetDone (s : State) : State :=
  let s := quiesced s
  match partHead s pkRoot with
  | none => s
  | some p =>
    if p.stage ≠ 2 then s
    else
      let s := if rstState s = stQuiesce then setRst s (if jobLoaded s then stRunning else stIdle) else s
      endPart s p 0

def execRootSubresetDone (s : State) : Host.Outcome State Fault Refusal := finish s (rootSubresetDone s)

/-! ## The Loft layer reset (R537 to R539) -/

/-- The valid parking object: registered, class Data, no shorter than the backed direct range. -/
def parkBase (s : State) : Option Nat :=
  s.loft.park.bind fun j =>
    if isReg s j && (objAt s j).cls = 0 && directSize s ≤ (objAt s j).len then some (objAt s j).base else none

/-- Copy the backed direct range to the parking object: each codeword is read and corrected (R495), and one that cannot be
read is carried (R499). -/
def parkDirect (s : State) (base : Nat) : State :=
  let n := directSize s
  let (s, lost) := readEvery s (s.ecc.cw.filter fun x => x.1 % 4 = 1 && isDirect s (x.1 / 4))
  let cw := s.ecc.cw.filter fun x => !(x.1 % 4 = 2 && base ≤ x.1 / 4 && x.1 / 4 < base + n)
  let s := { s with mem := moveCells s.mem 1 directBase base n, ecc := { s.ecc with cw := cw } }
  lost.foldl (fun s k => setCw s (cwKey 2 (base + (k / 4 - directBase))) { lost := true }) s

/-- Fill the direct range (R501). -/
def fillDirect (s : State) : State :=
  { s with mem := s.mem.filter fun x => !isDirect s x.1
           ecc := { s.ecc with cw := s.ecc.cw.filter fun x => !(x.1 % 4 = 1 && isDirect s (x.1 / 4))
                               written := s.ecc.written.filter fun x => !isDirect s x.1 } }

/-- Demote every promoted or pinned object, and write back and free the ordinary lines with no round open. -/
def emptyLoft (s : State) : State :=
  let js := s.loft.objs.filter fun j => (objAt s j).pinned || (objAt s j).mstate ≠ msHome
  let s := js.foldl deviceDemote s
  let ls := s.loft.lines.filter fun (l, x) => x.obj.isNone && (roundOn s l).isNone
  ls.foldl (fun s x => freeLine s x.1) s

def setLayerRst (s : State) (layer : Nat) (on : Bool) : State :=
  let v := fld s Reg.RST_STATUS Fld.RST_STATUS_LAYERRST
  let rest := v - (if bitN v layer then 2 ^ layer else 0)
  setFld s Reg.RST_STATUS Fld.RST_STATUS_LAYERRST (if on then rest + 2 ^ layer else rest)

/-- LOFT_LAYER_RESET: at a frame boundary, steps 1 to 3 of R537; refused for want of a parking object while a job is
loaded. -/
def layerReset (s : State) (layer : Nat) : State :=
  match partHead s pkLayer with
  | none => s
  | some p =>
    if p.target ≠ layer || p.stage ≠ 0 || !atBoundary s then s
    else
      match parkBase s with
      | none =>
        if jobLoaded s then endPart s p 2
        else fillDirect (start s layer)
      | some b => mapLoft (parkDirect (start s layer) b) fun lo => { lo with parked := true }
where
  start (s : State) (layer : Nat) : State :=
    let s := setHead (setLayerRst s layer true) fun p => { p with stage := 1 }
    emptyLoft (mapLoft s fun lo => { lo with granaryOnly := true })

def execLoftLayerReset (layer : Nat) (s : State) : Host.Outcome State Fault Refusal := finishTick s (layerReset s layer)

/-- The Loft holds nothing but the direct range: every round that is not the merge queue's has closed, every object is
HOME, no line is held. -/
def loftEmpty (s : State) : Bool :=
  s.loft.lines.isEmpty && (s.loft.rounds.all fun x => x.2.diverted) && s.loft.objs.all fun j => (objAt s j).mstate = msHome

/-- LAYER_RESET_DONE: the direct range is copied back and allocation resumes at a frame boundary (R537, R538). -/
def layerResetDone (s : State) (layer : Nat) : State :=
  match partHead s pkLayer with
  | none => s
  | some p =>
    if p.target ≠ layer || p.stage ≠ 1 || !atBoundary s then s
    else
      let s := emptyLoft s
      if !loftEmpty s then s
      else
        let s := match s.loft.parked, parkBase s with
          | true, some b => parkDirect s b
          | _, _ => s
        let keepCw (x : Nat × CwErr) : Bool := !(x.1 % 4 = 1) || foundOf s x.1 x.2 = .uncorr
        let s := { s with ecc := { s.ecc with cw := s.ecc.cw.filter keepCw, lpar := [] } }
        let s := mapLoft (setLayerRst s layer false) fun lo => { lo with granaryOnly := false, parked := false }
        endPart s p 0

def execLayerResetDone (layer : Nat) (s : State) : Host.Outcome State Fault Refusal := finishTick s (layerResetDone s layer)

/-! ## The bough reset (R540) -/

/-- Registers of a physical bough, its Thresher among them, that a bough reset returns to their reset values. -/
def boughReg (b a : Nat) : Bool :=
  ((0x2000000 + 0x1000 * b ≤ a && a < 0x2001000 + 0x1000 * b) || (0x3000000 + 0x400 * b ≤ a && a < 0x3000400 + 0x400 * b))
    && (regRow a).any fun r => r.persist = .other

/-- BOUGH_RESET: refused while a job is loaded and the bough is presented. -/
def boughReset (s : State) (b : Nat) : State :=
  match partHead s pkBough with
  | none => s
  | some p =>
    let st := Reg.BGH_STATUS b
    if p.target ≠ b || p.stage ≠ 0 then s
    else if jobLoaded s && fld s st Fld.BGH_STATUS_PRESENTED < 64 then endPart s p 1
    else
      let pres := fld s st Fld.BGH_STATUS_PRESENTED
      let failed := fld s st Fld.BGH_STATUS_FAILED
      let inCrib (a : Nat) : Bool := cribBase b ≤ a && a < cribBase (b + 1)
      let s := setBough { s with
        regs := s.regs.filter fun x => !boughReg b x.1
        mem := s.mem.filter fun x => !inCrib x.1
        ecc := { s.ecc with cw := s.ecc.cw.filter fun x => !(x.1 % 4 = 0 && inCrib (x.1 / 4))
                            written := s.ecc.written.filter fun x => !inCrib x.1 } } b {}
      let s := setFld (setFld s st Fld.BGH_STATUS_PRESENTED pres) st Fld.BGH_STATUS_FAILED failed
      setHead s fun p => { p with stage := 1 }

def execBoughReset (b : Nat) (s : State) : Host.Outcome State Fault Refusal := finish s (boughReset s b)

/-- BOUGH_RESET_DONE. -/
def boughResetDone (s : State) (b : Nat) : State :=
  match partHead s pkBough with
  | none => s
  | some p => if p.target = b && p.stage = 1 then endPart s p 0 else s

def execBoughResetDone (b : Nat) (s : State) : Host.Outcome State Fault Refusal := finish s (boughResetDone s b)

/-! ## The port reset (R541) -/

/-- PORT_RESET: the port goes down, its lanes, lane map and status registers return to their power-on state, and it trains
again with its LSEQ state and replay buffer (R541, R549). -/
def portReset (s : State) (p : Nat) : State :=
  match partHead s pkPort with
  | none => s
  | some r =>
    if r.target ≠ p || r.stage ≠ 0 then s
    else
      let s := retrain s p
      let s := setRegN (setRegN s (Reg.FAB_LANES p) (regReset (Reg.FAB_LANES p)).toNat) (Reg.FAB_PSTAT p) 0
      let s := setRegN s (Reg.FAB_PEER p) 0
      let s := mapPort (setPortState s p psTrain) p fun x => { x with moving := none, asked := [], badRound := [] }
      endPart s r 0

def execPortReset (p : Nat) (s : State) : Host.Outcome State Fault Refusal := finish s (portReset s p)

/-! ## Fallow (R533, R534) -/

/-- FALLOW: an Idle device enters Fallow. -/
def fallowOf (s : State) (c : HostCmd) : State :=
  done (raise (setRst s stFallow) Reg.RST_INTSTAT Fld.RST_INTSTAT_FALLOW.bit) c 0

def execFallow (s : State) : Host.Outcome State Fault Refusal := finish s (hostCmd ocFallow fallowOf s)

/-- WAKE: Fallow begins to end; the command completes when it has. -/
def wakeOf (s : State) (c : HostCmd) : State :=
  if rstState s = stFallow then
    mapRst (setRunning s c 0) fun r => { r with waking := true, wakes := r.wakes ++ [c.handle] }
  else done s c 0

def execWake (s : State) : Host.Outcome State Fault Refusal := finish s (hostCmd ocWake wakeOf s)

/-- FALLOW_WAKE_DONE: the device is Idle again. -/
def wakeDone (s : State) : State :=
  if rstState s = stFallow && s.rst.waking then
    let hs := s.rst.wakes
    let s := mapRst (setRst s stIdle) fun r => { r with waking := false, wakes := [] }
    let s := raise s Reg.RST_INTSTAT Fld.RST_INTSTAT_WAKE.bit
    hs.foldl (fun s h => complete s h { status := 0 }) s
  else s

def execFallowWakeDone (s : State) : Host.Outcome State Fault Refusal := finish s (wakeDone s)

/-! ## Partition manager commands (R542 to R544) -/

/-- The command record that an MGMT message stands for (R544). -/
def mgmtRecord (body : List Byte) : List Byte :=
  leBytes 2 (leAt body 3 1) ++ leBytes 6 0 ++ leBytes 4 (leAt body 4 4) ++ leBytes 52 0

/-- The conditions of R543. -/
def mgmtValid (s : State) (body sig : List Byte) : Bool :=
  let exp := leAt body 8 6
  body.length = 64 && Config.xmssVerify s.seed.authKey body sig && leAt body 0 3 % 2 ^ 18 = deviceId s
    && leAt body 14 2 = fld s Reg.FAB_PKEY Fld.FAB_PKEY_PKEY && frameNo s ≤ exp && exp ≤ frameNo s + 2 ^ 20
    && !(s.rst.digests.contains (shake256 body 32))

/-- The command may be given by the partition manager now: a CMD of R544 or R576, a store of SETTINGS or REPAIR only, and
nothing that the matching host command would be refused for. -/
def mgmtOpen (s : State) (r : List Byte) : Bool :=
  let op := leAt r 0 2
  1 ≤ op && op ≤ 8 && (op ≠ ocStore || leAt r 8 4 = ckSettings || leAt r 8 4 = ckRepair)
    && (judge606 s r = 0 || judge606 s r = 8)

/-- A number that is no handle. -/
def freshId (s : State) : Nat := (s.host.cmds.map (·.handle)).foldl max (2 ^ 32) + 1

/-- MGMT (R543): an accepted message waits as the matching host command would, without a handle. -/
def mgmtMessage (s : State) (msg : List Byte) : State :=
  let body := msg.take 64
  let r := mgmtRecord body
  if mgmtValid s body (msg.drop 64) && mgmtOpen s r then
    let s := raise s Reg.RST_INTSTAT Fld.RST_INTSTAT_MGMT.bit
    let s := mapRst s fun x => { x with digests := (shake256 body 32 :: x.digests).take 64 }
    let c : HostCmd := { handle := freshId s, record := r, body := acceptBody s r, gone := true, mgmt := true }
    mapHost (noteSince s c.handle) fun h => { h with cmds := h.cmds ++ [c] }
  else bump s Reg.RST_MGMTREF 1

/-- A packet of an MGMT message; the message is whole at LAST. -/
def mgmtPacket (k : Packet) (s : State) : State :=
  let msg := kget (fun _ => []) s.fab.mgmt k.src ++ k.payload
  let set_ (s : State) (bs : List Byte) : State :=
    { s with fab := { s.fab with mgmt := kset (fun _ => []) s.fab.mgmt k.src bs } }
  if k.last then mgmtMessage (set_ s []) msg else set_ s msg

/-- MGMT (R543): packets of a message come one after another. -/
def execMgmt (p : Nat) (before : List Packet) (pkt : Packet) (s : State) : Host.Outcome State Fault Refusal :=
  finish s ((before ++ [pkt]).foldl (fun s k => recvNow s p opMgmt k mgmtPacket) s)

end Sys2Proof.Machine
end

