-- ==== Sys2Proof/Machine/Slots.lean ====
section
/-! DEFINITION. Slots of the links (R47 to R53, R434 to R441): what a port sends in a slot. -/

namespace Sys2Proof.Machine

/-- An entry of a slot table (R434). -/
structure SlotEnt where
  cls : Nat
  slot : Nat
  phase : Nat
  cart : Nat
  treef : Bool
  down : Bool
  tree : Nat
  first : Nat
  nseg : Nat
  rsv : Bool
  deriving DecidableEq, Repr

def slotEntOf (bs : List Byte) : SlotEnt :=
  let w := leAt bs 0 2
  { cls := bitsN w 15 14, slot := bitsN w 9 0, phase := leAt bs 2 2, cart := leAt bs 4 2, treef := bitN (leAt bs 6 1) 7
    down := bitN (leAt bs 6 1) 6, tree := bitsN (leAt bs 6 1) 5 0, first := leAt bs 8 4, nseg := leAt bs 12 2
    rsv := bitsN w 13 10 ≠ 0 || leAt bs 7 1 ≠ 0 || leAt bs 14 2 ≠ 0 }

def stabBase (s : State) (p : Nat) : Nat := reg64 s (Reg.FAB_STAB_LO p)
def stabNent (s : State) (p : Nat) : Nat := if stabBase s p = 0 then 0 else peekN s (stabBase s p) 2
def stabCycle (s : State) (p : Nat) : Nat := peekN s (stabBase s p + 2) 2
def stabEnt (s : State) (p i : Nat) : SlotEnt := slotEntOf (peek s (stabBase s p + 16 + 16 * i) 16)

/-- The job frame index J (R435); none before the job's first program frame. -/
def jobFrame (s : State) : Option Nat :=
  match s.host.job with
  | some j => if j.started then some (pindex s - j.start) else none
  | none => none

/-- The entries of a port's table that apply in this frame (R435). -/
def frameEnts (s : State) (p : Nat) : List SlotEnt :=
  match jobFrame s with
  | none => []
  | some j =>
    ((List.range (stabNent s p)).map (stabEnt s p)).filter fun e => e.phase = j % stabCycle s p && e.cls ≠ 3

/-- Entries of this frame for one slot, Control entries included. -/
def slotEnts (s : State) (p slot : Nat) : List SlotEnt :=
  match jobFrame s with
  | none => []
  | some j =>
    ((List.range (stabNent s p)).map (stabEnt s p)).filter fun e => e.phase = j % stabCycle s p && e.slot = slot

/-- Something a slot entry names. -/
inductive Named where
  | seg (cart i : Nat)
  | up (tree i : Nat)
  | down (tree child i : Nat)
  deriving DecidableEq, Repr

/-- The traffic an entry names on port p, in its order (R436). -/
def namedOf (s : State) (p : Nat) (e : SlotEnt) : List Named :=
  let is := (List.range e.nseg).map (· + e.first)
  if e.cls = vlSched || (e.cls = vlReduce && !e.treef) then is.map (Named.seg e.cart)
  else if e.cls = vlReduce then
    if !e.down then is.map (Named.up e.tree)
    else
      let t := treeEnt s e.tree
      ((List.range t.nchild).filter fun c => routeOf s ((t.child[c]?).getD 0) = some p).flatMap fun c =>
        is.map (Named.down e.tree c)
  else []

/-- Segment i of a cart has left, or counts as having left (R46, R138). -/
def segLeft (s : State) (id i : Nat) : Bool :=
  match cart s id with
  | none => s.frm.cartsDone.contains id
  | some c => c.ended || (c.segs[i]?).any fun x => x = .left || x = .applied || x = .lost

/-- A tree whose run ended in this program frame has sent all that the frame's entries name, in a slip frame too (R46,
R53). -/
def treeOver (s : State) (t : Nat) : Bool := !(treeSt s t).run && s.frm.treesDone.contains t

def namedLeft (s : State) : Named → Bool
  | .seg c i => segLeft s c i
  | .up t i => (treeSt s t).upSent.contains i || treeOver s t
  | .down t c i => (treeSt s t).downSent.contains (c, i) || treeOver s t

/-- The class of the entries that may name a cart's segments: a push goes in Scheduled slots, a REDUCE in Reduction slots,
and the requests of a COPY from another device in none (R436, R441). -/
def cartClass (s : State) (c : CartSt) : Option Nat :=
  if landsHere s c then none else if c.op = 2 then some vlReduce else some vlSched

/-- Some entry of this frame names segment i of a cart on the port it leaves by (R436). -/
def segNamed (s : State) (id : Nat) (c : CartSt) (i : Nat) : Bool :=
  (List.range 24).any fun p => routeOf s (gDevice c.dst) = some p && (frameEnts s p).any fun e =>
    cartClass s c = some e.cls && !(e.cls = vlReduce && e.treef) && e.cart = id && e.first ≤ i && i < e.first + e.nseg

/-- The packet of segment i of a cart on a lane, from its source bytes (R427, R441). -/
def segPacket (s : State) (id : Nat) (c : CartSt) (i vl : Nat) (bs : List Byte) : Packet :=
  let k := mkPacket s (gDevice c.dst) vl (if c.op = 0 then opWrite else if c.op = 1 then opAtomic else opReduce)
  let addr := ((c.parts[i]?).map (·.1)).getD (gOffset c.dst + segDst c i)
  { k with cartid := id, cseq := (c.cseq + i) % 2 ^ 32, addr := addr, dtype := c.dtype
           rop := c.rop, last := decide (i + 1 = c.segs.length), len := bs.length, payload := bs
           aux := if c.op = 1 && c.reten then 1 else 0 }

/-- The bytes of segment i of a cart: from its source, or as the Wain gathered them. -/
def segBytes (s : State) (c : CartSt) (i : Nat) : State × Except Bad (List Byte) :=
  match c.parts[i]? with
  | some x => (s, .ok x.2)
  | none => readFor s ((c.cseq + i) % 2 ^ 32) (gOffset c.src + 512 * i) (segLen c i)

/-- The READREQ of segment i of a COPY from another device (R441). -/
def readPacket (s : State) (id : Nat) (c : CartSt) (i : Nat) : Packet :=
  { mkPacket s (gDevice c.src) vlBest opReadreq with
    cartid := id, cseq := (c.cseq + i) % 2 ^ 32, addr := gOffset c.src + 512 * i, aux := segLen c i
    last := decide (i + 1 = c.segs.length) }

/-- A slot in progress: the state and the bytes the slot still holds. -/
structure Slot where
  s    : State
  room : Nat

def fits (w : Slot) (p : Nat) (k : Packet) : Bool := 32 * pktUnits k ≤ w.room && mayStart w.s p k

def put (w : Slot) (p : Nat) (k : Packet) : Slot := ⟨transmit w.s p k false, w.room - 32 * pktUnits k⟩

/-- Segment i of a cart may be sent next: it is unsent, those before it have left, and no fence holds it (R285, R432). -/
def segNext (s : State) (id : Nat) (c : CartSt) (i : Nat) : Bool :=
  !c.ended && isRemote s c && fenceOpen s id c && (c.segs[i]?).any unsent
    && (c.segs.take i).all fun x => !unsent x

/-- The device that the packets of a cart go to. -/
def cartPeer (s : State) (c : CartSt) : Nat := if landsHere s c then gDevice c.src else gDevice c.dst

/-- A packet of this device has no route: it is dropped, and the REFUSE that the drop sends to its source, this device, is
handled as any (R289, R429). -/
def dropOwn (s : State) (k : Packet) : State := takeRefuse (bump s Reg.FAB_NOROUTE 1) (refusalOf s k 6)

/-- Send segment i of a cart through port p on a lane, if it is ready and fits; true when it has left. -/
def sendSeg (w : Slot) (p id i vl : Nat) : Slot × Bool :=
  match cart w.s id with
  | none => (w, false)
  | some c =>
    if !segNext w.s id c i || routeOf w.s (cartPeer w.s c) ≠ some p then (w, false)
    else if landsHere w.s c then
      let k := readPacket w.s id c i
      if vl = vlBest && fits w p k then
        let w := put w p k
        (⟨syncCart (setSeg w.s id i .left) id, w.room⟩, true)
      else (w, false)
    else if vl ≠ vlBest && cartClass w.s c ≠ some vl then (w, false)
    else
      let seen := ((c.segs[i]?).map segSeen).getD []
      let ready := if c.parts.isEmpty then request w.s (gOffset c.src + 512 * i) (segLen c i) seen else (w.s, true, seen)
      match ready with
      | (s, false, seen) => (⟨setSeg s id i (.filling seen), w.room⟩, false)
      | (s, true, _) =>
        match segBytes s c i with
        | (s, .error b) => (⟨segUncorr s id ((c.cseq + i) % 2 ^ 32) b, w.room⟩, false)
        | (s, .ok bs) =>
          let k := segPacket s id c i vl bs
          if fits ⟨s, w.room⟩ p k then
            let w := put ⟨s, w.room⟩ p k
            (⟨syncCart (setSeg w.s id i .left) id, w.room⟩, true)
          else (⟨s, w.room⟩, false)

/-- Send a tree segment to a device through port p (R444, R445). -/
def sendTree (w : Slot) (p t i dst child : Nat) (down : Bool) : Slot × Bool :=
  let e := treeEnt w.s t
  let t1 := accessMem w.s (e.buf + 512 * i) (e.segLen i)
  if routeOf w.s dst = none then
    (⟨dropOwn w.s { mkPacket w.s dst vlReduce opTree with cseq := i, aux := t * 2 ^ 18 }, w.room⟩, false)
  else if routeOf w.s dst ≠ some p then (w, false)
  else if !(stalledBy w.s t1).isEmpty then (⟨orWait w.s t1, w.room⟩, false)
  else
    match load w.s (e.buf + 512 * i) (e.segLen i) with
    | (s, .error b) => (⟨stopConsumer s false b 0, w.room⟩, false)
    | (s, .ok bs) =>
      let k := { mkPacket s dst vlReduce opTree with
        cseq := i, addr := 512 * i, dtype := e.dtype, rop := e.rop, len := bs.length, payload := bs
        aux := t * 2 ^ 18 + (if down then 2 ^ 17 else 0) + child }
      if fits ⟨s, w.room⟩ p k then (put ⟨s, w.room⟩ p k, true) else (⟨s, w.room⟩, false)

/-- Send what an entry names. -/
def sendNamed (w : Slot) (p vl : Nat) : Named → Slot × Bool
  | .seg c i => sendSeg w p c i vl
  | .up t i =>
    let e := treeEnt w.s t
    if !(treeSt w.s t).combined.contains i || e.isRoot w.s then (w, false)
    else
      match sendTree w p t i e.parent e.myidx false with
      | (w, true) =>
        let x := treeSt w.s t
        (⟨runCheck (setTree w.s t { x with upSent := x.upSent ++ [i] }) t, w.room⟩, true)
      | r => r
  | .down t c i =>
    let e := treeEnt w.s t
    if !downReady w.s t i || e.mode ≠ 2 then (w, false)
    else
      match sendTree w p t i ((e.child[c]?).getD 0) c true with
      | (w, true) =>
        let x := treeSt w.s t
        (⟨runCheck (setTree w.s t { x with downSent := x.downSent ++ [(c, i)] }) t, w.room⟩, true)
      | r => r

/-- The named traffic of a slot, in entry order; a segment that does not leave has missed its slot (R49, R437). -/
def sendAllNamed (p vl : Nat) (w : Slot) (n : Named) : Slot :=
  if namedLeft w.s n then w
  else
    match sendNamed w p vl n with
    | (w, true) => w
    | (w, false) => ⟨bump w.s (Reg.FAB_SLOTMISS p) 1, w.room⟩

/-- Replays, ahead of everything else (R412, R413). -/
def sendReplays : Nat → Slot → Nat → Slot
  | 0, w, _ => w
  | n + 1, w, p =>
    match (port w.s p).again with
    | [] => w
    | k :: t =>
      if 32 * pktUnits k ≤ w.room then
        let s := mapPort w.s p fun x => { x with again := t }
        sendReplays n ⟨bump (resend s p k) (Reg.FAB_REPLAY p) 1, w.room - 32 * pktUnits k⟩ p
      else w

/-- Send a queue of a port in order: a packet that cannot go holds back those that keep their order behind it, and no
others (R411, R432). -/
def sendQueue (p : Nat) : List Packet → List Packet → Slot → Slot × List Packet
  | [], kept, w => (w, kept)
  | k :: t, kept, w =>
    if fits w p k && !(kept.any fun x => keepsOrder x k) then sendQueue p t kept (put w p k)
    else sendQueue p t (kept ++ [k]) w

/-- The same for packets of other devices, whose receive buffers come free as they leave (R411). -/
def sendOthers (p : Nat) : List (Nat × Packet) → List (Nat × Packet) → Slot → Slot × List (Nat × Packet)
  | [], kept, w => (w, kept)
  | (q, k) :: t, kept, w =>
    if fits w p k && !(kept.any fun x => keepsOrder x.2 k) then sendOthers p t kept (put ⟨creditBack w.s q k, w.room⟩ p k)
    else sendOthers p t (kept ++ [(q, k)]) w

def sendTransit (w : Slot) (p : Nat) : Slot :=
  let (w, kept) := sendOthers p (port w.s p).transit [] w
  ⟨mapPort w.s p fun x => { x with transit := kept }, w.room⟩

/-- Control packets; a time transfer only in a Control slot (R478). -/
def sendCtrl (w : Slot) (p cls : Nat) : Slot :=
  let q := (port w.s p).ctrl
  let held := if cls = vlCtrl then [] else q.filter isTime
  let (w, kept) := sendQueue p (if cls = vlCtrl then q else q.filter fun k => !isTime k) [] w
  ⟨mapPort w.s p fun x => { x with ctrl := kept ++ held }, w.room⟩

/-- Own packets of the Best-effort lane that are ready. -/
def sendQueued (w : Slot) (p : Nat) : Slot :=
  let (w, kept) := sendQueue p (port w.s p).best [] w
  ⟨mapPort w.s p fun x => { x with best := kept }, w.room⟩

/-- ADMIT and LINKCTL packets of a link that is not up, or that has just come up (R417, R418). -/
def sendOut : List (Bool × Packet) → Slot → Nat → Slot
  | [], w, p => ⟨setAdm w.s p [], w.room⟩
  | (tagged, k) :: t, w, p =>
    if 32 * pktUnits k ≤ w.room then
      sendOut t ⟨sendOutside (if tagged then some (port w.s p).adm.next else none) w.s p k, w.room - 32 * pktUnits k⟩ p
    else ⟨setAdm w.s p ((tagged, k) :: t), w.room⟩
where
  setAdm (s : State) (p : Nat) (q : List (Bool × Packet)) : State := mapPort s p fun x => { x with adm := { x.adm with out := q } }

/-- Segments of carts that no entry of the frame names, in CSEQ order (R436). -/
def sendBestSegs (p : Nat) (w : Slot) : Slot :=
  w.s.carts.foldl (fun w (id, c) =>
    (List.range c.segs.length).foldl (fun w i => if segNamed w.s id c i then w else (sendSeg w p id i vlBest).1) w) w

def sendBest (w : Slot) (p : Nat) : Slot := sendBestSegs p (sendQueued w p)

/-- Drop the next segment of each cart of this device whose packets have no route (R429). -/
def dropUnrouted (s : State) : State :=
  s.carts.foldl (fun s (id, c) =>
    match (List.range c.segs.length).find? (segNext s id c) with
    | none => s
    | some i =>
      if routeOf s (cartPeer s c) ≠ none then s
      else dropOwn s { mkPacket s (cartPeer s c) vlBest opWrite with cartid := id, cseq := (c.cseq + i) % 2 ^ 32 }) s

/-- What a port sends in a slot of a class once its link may send, in the order of R437; replays that do not all fit leave
room for nothing else (R412). -/
def sendSlot (w : Slot) (p cls : Nat) (named : List Named) : Slot :=
  let w := sendReplays (port w.s p).again.length w p
  let w := if (port w.s p).again.isEmpty then w else ⟨w.s, 0⟩
  let w := named.foldl (sendAllNamed p cls) (sendTransit w p)
  let w := sendCtrl w p cls
  if cls = vlCtrl then w else sendBest w p

/-- Bytes of a slot (R415, R437). -/
def slotRoom (s : State) (p : Nat) : Nat := if portHalf s p then 25600 else 51200

/-- What a port sends in a slot of its link: after a re-admission bare trailers only, until its partner's LACK has come
(R416). -/
def linkSlot (p cls : Nat) (named : List Named) (s : State) : State :=
  let w := sendOut (port s p).adm.out ⟨s, slotRoom s p⟩ p
  (if (port s p).resume then named.foldl (sendAllNamed p cls) ⟨w.s, 0⟩ else sendSlot w p cls named).s

/-- The slot engine of a port reads its table, and the trees it names; when it cannot, it sends nothing the table names
(R496). -/
def tableSlot (p slot : Nat) (s : State) : State :=
  let ents := slotEnts s p slot
  let trees := (ents.filter (·.treef)).map (·.tree)
  let s' := trees.foldl (fun s t => withTree s t id) s
  if trees.any fun t => (checkRead s (reg64 s Reg.FAB_TTAB_LO + 64 * t) 64).2.isSome then linkSlot p vlBest [] s'
  else linkSlot p ((ents.head?.map (·.cls)).getD 0) (ents.flatMap (namedOf s p)) s'

/-- A slot of a link that is up; a port that has nothing to send sends a bare trailer (R410). -/
def upSlot (s : State) (p slot : Nat) : State :=
  let s := dropUnrouted (learnOwn s)
  let a := stabBase s p
  let t := if a = 0 || (jobFrame s).isNone then linkSlot p vlBest [] s
    else if (checkRead s a (16 + 16 * stabNent s p)).2.isSome then
      linkSlot p vlBest [] (guardRead s a (16 + 16 * stabNent s p) id)
    else guardRead s a (16 + 16 * stabNent s p) (tableSlot p slot)
  if t.wire.length = s.wire.length then sendBare t p else t

/-- SLOT_START (R47, R49, R437, R439): the class of the slot decides what the port sends in it; before its link is up a
port sends ADMIT and LINKCTL packets only (R417). -/
def slotStart (s : State) (p slot : Nat) : State :=
  if fld s Reg.FRM_SLOTS Fld.FRM_SLOTS_COUNT ≤ slot || 24 ≤ p then s
  else if portUp s p then upSlot s p slot
  else if portState s p = psAdmit || portState s p = psRefused then (sendOut (port s p).adm.out ⟨s, slotRoom s p⟩ p).s
  else s

def execSlotStart (p slot : Nat) (s : State) : Host.Outcome State Fault Refusal := finish s (slotStart s p slot)

/-- A tree has a run on or one to come: its named segments are work of the frame. -/
def treeDue (s : State) (t : Nat) : Bool := (treeSt s t).run || (treeSt s t).armed

/-- A named segment holds the frame up (R46): it has not left, and its cart is in use or its tree's run is due. A cart
not issued yet is its item's lateness. -/
def namedLate (s : State) (x : Named) : Bool :=
  match x with
  | .seg c _ => (cart s c).isSome && !namedLeft s x
  | .up t _ => treeDue s t && (!(treeSt s t).run || !namedLeft s x)
  | .down t _ _ => treeDue s t && (!(treeSt s t).run || !namedLeft s x)

/-- Every segment the frame's tables name has left in its slot (R46). -/
def namedRetired (s : State) : Bool :=
  (List.range 24).all fun p => (frameEnts s p).all fun e => !((namedOf s p e).any (namedLate s))

end Sys2Proof.Machine
end

