-- ==== Sys2Proof/Machine/Elementary.lean ====
section
/-! DEFINITION. Exponential, logarithm and reciprocal square root (R236): exact results with a sticky last bit, to be
rounded once. The fixed-point work carries 256 fraction bits, far more than any FP32 argument needs for its rounding to
be decided (PRESUMED, log entry 33). -/

namespace Sys2Proof.Machine

/-- ⌊ln 2 × 2^256⌋. -/
def ln2Fix : Nat := 0xB17217F7D1CF79ABC9E3B39803F2F6AF40F343267298B62D8A0D175B8BAAFA2B

/-- Terms of the exponential series at r, in units of 2^-256: the sum from term k on, the last term being t. -/
def expTerms (r : Nat) : Nat → Nat → Nat → Nat
  | 0, _, _ => 0
  | n + 1, k, t => t + expTerms r n (k + 1) (t * r / 2 ^ 256 / (k + 1))

/-- e to the power of x. -/
def numExp : Num → Num
  | .nan => .nan
  | .inf neg => if neg then numZero false else .inf false
  | .fin neg m e =>
    if m = 0 then .fin false 1 0
    else if 8 ≤ numLog m e then (if neg then .fin false 1 (-1000) else .fin false 1 1000)
    else
      let x := if 0 ≤ e + 256 then m * 2 ^ (e + 256).toNat else m / 2 ^ (-(e + 256)).toNat
      let k := x / ln2Fix
      let up := neg && decide (0 < x)
      let r := if up then (k + 1) * ln2Fix - x else x - k * ln2Fix
      let kk : Int := if up then -((k : Int) + 1) else k
      .fin false (2 * expTerms r 80 0 (2 ^ 256) + 1) (kk - 257)

/-- Terms of the series of the inverse hyperbolic tangent: z2 is z squared, p the running power, in units of 2^-256. -/
def atanhTerms (z2 : Nat) : Nat → Nat → Nat → Nat
  | 0, _, _ => 0
  | n + 1, k, p => p / (2 * k + 1) + atanhTerms z2 n (k + 1) (p * z2 / 2 ^ 256)

/-- The natural logarithm of x. -/
def numLn : Num → Num
  | .nan => .nan
  | .inf neg => if neg then .nan else .inf false
  | .fin neg m e =>
    if m = 0 then .inf true
    else if neg then .nan
    else
      let lg := Nat.log2 m
      let y := m * 2 ^ 256 / 2 ^ lg
      let k : Int := numLog m e
      if k = 0 ∧ y = 2 ^ 256 then numZero false
      else
        let z := (y - 2 ^ 256) * 2 ^ 256 / (y + 2 ^ 256)
        let ly := 2 * atanhTerms (z * z / 2 ^ 256) 90 0 z
        let v : Int := k * ln2Fix + ly
        .fin (decide (v < 0)) (2 * v.natAbs + 1) (-257)

/-- One over the square root of x. -/
def numRsqrt : Num → Num
  | .nan => .nan
  | .inf neg => if neg then .nan else numZero false
  | .fin neg m e =>
    if m = 0 then .inf neg
    else if neg then .nan
    else
      let m' := if e % 2 = 0 then m else 2 * m
      let e' := if e % 2 = 0 then e else e - 1
      let t := 200 + Nat.log2 m'
      let r := isqrt (2 ^ (2 * t) / m')
      let st := if r * r * m' = 2 ^ (2 * t) then 0 else 1
      .fin false (2 * r + st) (-(t : Int) - e' / 2 - 1)

/-- An FP32 result rounded once. -/
def fDiv (strict : Bool) (a b : Nat) : Nat × Ev := round32 strict (numDiv (f32 a) (f32 b))
def fExp (strict : Bool) (a : Nat) : Nat × Ev := round32 strict (numExp (f32 a))
def fLn (strict : Bool) (a : Nat) : Nat × Ev := round32 strict (numLn (f32 a))
def fSqrt (strict : Bool) (a : Nat) : Nat × Ev := round32 strict (numSqrt (f32 a))
def fRsqrt (strict : Bool) (a : Nat) : Nat × Ev := round32 strict (numRsqrt (f32 a))

/-- The larger or smaller of two FP32 encodings under R236: NaN when either is, +0 above −0. -/
def fPick (isMax : Bool) (a b : Nat) : Nat :=
  if numIsNan (f32 a) || numIsNan (f32 b) then nanEnc .fp32
  else if isMax then (if numBelow (f32 a) (f32 b) then b else a) else if numBelow (f32 b) (f32 a) then b else a

end Sys2Proof.Machine
end

