-- ==== Sys2Proof/Machine/Program.lean ====
section
/-! DEFINITION. The element program of a chain (R230 to R240): its configuration, its checks, and what one element goes
through. A lane value is kept as its FP32 encoding, which holds it exactly (R224). -/

namespace Sys2Proof.Machine

/-- The format of the lanes (R222) and the lane group size. -/
def laneFmt : Nat → Fmt
  | 0 => .fp32
  | 1 => .bf16
  | 2 => .e4m3
  | _ => .e5m2

def laneGroup : Nat → Nat
  | 0 => 256
  | 1 => 512
  | _ => 1024

/-- Round into the lane format (R224). -/
def toLane (strict : Bool) (f : Fmt) (x : Num) : Nat × Ev :=
  let r := numEncode f strict .rne 0 x
  if f = .fp32 then r else ((numEncode .fp32 true .rne 0 (numDecode f r.1)).1, r.2)

/-! ## Configuration -/

structure Stage where
  kind : Nat
  first : Nat
  count : Nat
  toff : Nat
  deriving DecidableEq, Repr

structure Ins where
  op : Nat
  d : Nat
  a : Nat
  b : Nat
  c : Nat
  mod : Nat
  deriving DecidableEq, Repr

structure Cfg where
  ninstr : Nat
  nstage : Nat
  hdr : Nat
  k : List Nat
  stages : List Stage
  ins : List Ins
  deriving DecidableEq, Repr

def stageOf (w : Nat) : Stage := ⟨bitsN w 31 29, bitsN w 28 23, bitsN w 22 16, bitsN w 15 0⟩

def insOf (w : Nat) : Ins :=
  ⟨bitsN w 31 26, bitsN w 25 22, bitsN w 21 18, bitsN w 17 14, bitsN w 13 10, bitsN w 9 0⟩

def cfgOf (bs : List Byte) : Cfg :=
  let h := leAt bs 0 4
  let ni := bitsN h 23 16
  let ns := bitsN h 3 0
  { ninstr := ni, nstage := ns, hdr := h, k := (List.range 4).map fun i => leAt bs (16 + 4 * i) 4
    stages := (List.range (min ns 12)).map fun i => stageOf (leAt bs (32 + 4 * i) 4)
    ins := (List.range (min ni 64)).map fun i => insOf (leAt bs (128 + 4 * i) 4) }

/-- Which operand fields an opcode uses: A, B, C and the mask of MOD (R234, R235). -/
structure Uses where
  a : Bool := true
  b : Bool := false
  c : Bool := false
  mod : Nat := 0
  deriving DecidableEq, Repr

def usesOf (i : Ins) : Uses :=
  if i.op = 0x05 || i.op = 0x2B || i.op = 0x2D then { b := true, c := true }
  else if i.op = 0x18 then { mod := 0x3F }
  else if i.op = 0x30 then { c := bitN i.mod 3, mod := 0xF }
  else if i.op = 0x01 || (0x08 ≤ i.op && i.op ≤ 0x0A) || (0x0C ≤ i.op && i.op ≤ 0x0F) || i.op = 0x20 || i.op = 0x21
      || i.op = 0x2C then {}
  else { b := true }

/-- Pair opcodes (R236). -/
def isPair (op : Nat) : Bool := 0x10 ≤ op && op ≤ 0x12

/-- The stage kind of an opcode; 0 for a reserved one (R231, R235). -/
def kindOf (op : Nat) : Nat :=
  if 0x01 ≤ op && op ≤ 0x12 then 1
  else if op = 0x18 then 2
  else if op = 0x20 || op = 0x21 then 3
  else if 0x28 ≤ op && op ≤ 0x2D then 4
  else if op = 0x30 then 5 else 0

/-- Source codes an instruction reads (R234, R236). -/
def srcsOf (i : Ins) : List Nat :=
  let u := usesOf i
  if i.op = 0x12 then [i.a, i.a + 1, i.b, i.b + 1]
  else [i.a] ++ (if u.b then [i.b] else []) ++ (if u.c then [i.c] else [])

/-- Destination codes of an instruction. -/
def destsOf (i : Ins) : List Nat := if isPair i.op then [i.d, i.d + 1] else [i.d]

def pairCode (c : Nat) : Bool := 3 ≤ c && c ≤ 9

/-- What makes an instruction of a stage of kind `kind` invalid (R234 to R240). -/
def insBad (c : Chain) (kind : Nat) (i : Ins) : Bool :=
  let u := usesOf i
  let xen (k : Nat) : Bool := (c.x[k]?).any (·.en)
  let yen (k : Nat) : Bool := (c.y[k]?).any (·.en)
  kindOf i.op = 0 || kindOf i.op ≠ kind || 10 < i.d
    || (!u.b && i.b ≠ 0) || (!u.c && i.c ≠ 0) || i.mod ≠ i.mod &&& u.mod
    || (srcsOf i).any (fun k => k < 3 && !xen k)
    || (i.d < 2 && !yen i.d)
    || (isPair i.op && (c.lf ≠ 0 || !pairCode i.d || (i.op = 0x12 && (!pairCode i.a || !pairCode i.b))))
    || (i.op = 0x18 && (bitsN i.mod 3 0 < 3 || 10 < bitsN i.mod 3 0 || bitsN i.mod 5 4 = 3))
    || (i.op = 0x30 && (2 ≤ c.lf || bitsN i.mod 1 0 = 3))

/-- Instructions with the table block offset of their stage. -/
def insStages (g : Cfg) : List (Stage × Ins) :=
  g.stages.flatMap fun st => ((g.ins.drop st.first).take st.count).map fun i => (st, i)

/-- The stages tile the program (R232). -/
def tiled : Nat → List Stage → Nat → Bool
  | at_, [], n => at_ = n
  | at_, st :: t, n => st.first = at_ && (st.kind = 6 || 1 ≤ st.count) && tiled (at_ + st.count) t n

def writesW (g : Cfg) : Bool := g.ins.any fun i => (destsOf i).contains 2

/-- Byte ranges of the table blocks of a chain. -/
def tableRanges (g : Cfg) : List Range := (g.stages.filter fun st => st.kind = 3).map fun st => (64 * st.toff, 2112)

/-- The checks of R240 on the configuration block (R656). -/
def cfgBad (c : Chain) (bs : List Byte) : Bool :=
  let g := cfgOf bs
  let packs := g.stages.countP fun st => st.kind = 6
  let anyY := c.y.any (·.en)
  let zero (o n : Nat) : Bool := leAt bs o n = 0
  g.ninstr = 0 || 64 < g.ninstr || g.nstage = 0 || 12 < g.nstage
    || bitsN g.hdr 31 24 ≠ 0 || bitsN g.hdr 15 4 ≠ 0 || !zero 4 12 || !zero 80 48
    || !zero (32 + 4 * g.nstage) (48 - 4 * g.nstage) || !zero (128 + 4 * g.ninstr) (256 - 4 * g.ninstr)
    || g.stages.any (fun st => st.kind = 0 || st.kind = 7 || (st.kind ≠ 3 && st.toff ≠ 0) || (st.kind = 6 && st.count ≠ 0))
    || !tiled 0 g.stages g.ninstr
    || packs ≠ (if anyY then 1 else 0) || (anyY && !(g.stages.getLast?.any fun st => st.kind = 6))
    || (insStages g).any (fun x => insBad c x.1.kind x.2)
    || [0, 1].any (fun k => (c.y[k]?).any (·.en) && !(g.ins.any fun i => (destsOf i).contains k))
    || ((c.wop ≠ 0 || c.sumsel = 4) && !writesW g)
    || rangesBad { chainRanges c with reads := (chainRanges c).reads ++ tableRanges g }

/-! ## Tables (R238) -/

structure Table where
  xlo : Nat
  rstep : Nat
  lo : Nat
  hi : Nat
  f : List Nat
  d : List Nat
  deriving DecidableEq, Repr

def tableOf (bs : List Byte) : Table :=
  let m := leAt bs 8 4
  { xlo := leAt bs 0 4, rstep := leAt bs 4 4, lo := bitsN m 1 0, hi := bitsN m 3 2
    f := (List.range 256).map fun i => leAt bs (64 + 4 * i) 4, d := (List.range 256).map fun i => leAt bs (1088 + 4 * i) 4 }

/-- What makes a table block invalid. -/
def tableBad (bs : List Byte) : Bool :=
  let t := tableOf bs
  !(numIsFin (f32 t.xlo)) || !(numIsFin (f32 t.rstep)) || !(numLt (numZero false) (f32 t.rstep)) || t.lo = 3 || t.hi = 3
    || bitsN (leAt bs 8 4) 31 4 ≠ 0 || leAt bs 12 52 ≠ 0

/-- ⌊u⌋ of a number that is not negative. -/
def numFloor : Num → Nat
  | .fin _ m e => if 0 ≤ e then m * 2 ^ e.toNat else m / 2 ^ (-e).toNat
  | _ => 0

/-- The interpolation of R238 at interval i. -/
def interp (strict : Bool) (e : List Nat) (u i : Nat) (ev : Ev) : Nat × Ev :=
  let at_ (k : Nat) : Nat := (e[k]?).getD 0
  let fi := (round32 strict (numInt i)).1
  let d := fSub strict u fi
  let w := fSub strict (at_ (i + 1)) (at_ i)
  let p := fMul strict d.1 w.1
  let r := fAdd strict (at_ i) p.1
  (r.1, evAdd ev (evAdd (evAdd d.2 w.2) (evAdd p.2 r.2)))

/-- lookup of R238. -/
def lookup (strict : Bool) (t : Table) (e : List Nat) (x : Nat) : Nat × Ev :=
  if numIsNan (f32 x) then (nanEnc .fp32, {})
  else
    let a := fSub strict x t.xlo
    let u := fMul strict a.1 t.rstep
    let ev := evAdd a.2 u.2
    let nu := f32 u.1
    let low := numLt nu (numZero false)
    let high := numLt (numInt 255) nu
    if !low && !high then interp strict e u.1 (min (numFloor nu) 254) ev
    else
      let mode := if low then t.lo else t.hi
      if mode = 2 then (x, ev)
      else if mode = 0 || !(numIsFin (f32 x)) then ((e[if low then 0 else 255]?).getD 0, ev)
      else interp strict e u.1 (if low then 0 else 254) ev

/-! ## One element (R233 to R239) -/

/-- What an element carries: sources by code (X0 to X2, T0 to T7, K0 to K3, COL), the outputs Y0, Y1 and W, and the
running folds of the scans by instruction. -/
structure Env where
  src : List Nat
  out : List Nat
  scan : List (Nat × Nat)
  ev : Ev
  deriving DecidableEq, Repr

def Env.get (e : Env) (c : Nat) : Nat := (e.src[c]?).getD 0

/-- Write a destination: 0 to 2 are the outputs, 3 to 10 the temporaries. -/
def Env.put (e : Env) (d v : Nat) : Env := if d < 3 then { e with out := e.out.set d v } else { e with src := e.src.set d v }

def one32 : Nat := 0x3F800000

/-- A comparison result. -/
def truth (b : Bool) : Nat := if b then one32 else 0

/-- A value is true when it is nonzero or NaN (R236). -/
def isTrue (w : Nat) : Bool := !(numIsZero (f32 w))

def numLe (a b : Num) : Bool := !numIsNan a && !numIsNan b && !numLt b a

/-- What the conversions of an element draw from. -/
structure Draw where
  step : Nat
  tensor : Nat
  element : Nat
  deriving DecidableEq, Repr

/-- CVT (R237). -/
def cvtOp (strict : Bool) (f : Fmt) (dr : Draw) (mod a : Nat) : Nat × Ev :=
  let t := fmtD (bitsN mod 3 0)
  let mode := match bitsN mod 5 4 with
    | 1 => Rnd.rtz
    | 2 => Rnd.sr
    | _ => Rnd.rne
  let r := numEncode t strict mode (if mode = .sr then srBits dr.step dr.tensor dr.element else 0) (f32 a)
  let b := toLane strict f (numDecode t r.1)
  (b.1, evAdd r.2 b.2)

/-- A scalar opcode other than a pair, table or scan (R235, R236). -/
def scalarOp (strict : Bool) (f : Fmt) (dr : Draw) (op mod a b c : Nat) : Nat × Ev :=
  let x := f32 a
  let y := f32 b
  let r (z : Num) : Nat × Ev := toLane strict f z
  match op with
  | 0x01 => (a, {})
  | 0x02 => r (numAdd x y)
  | 0x03 => r (numSub x y)
  | 0x04 => r (numMul x y)
  | 0x05 => r (numAdd (numMul x y) (f32 c))
  | 0x06 => (fPick true a b, {})
  | 0x07 => (fPick false a b, {})
  | 0x08 => r (numAbs x)
  | 0x09 => r (numNeg x)
  | 0x0A => r (numDiv (numInt 1) x)
  | 0x0B => r (numDiv x y)
  | 0x0C => r (numSqrt x)
  | 0x0D => r (numRsqrt x)
  | 0x0E => r (numExp x)
  | 0x0F => r (numLn x)
  | 0x18 => cvtOp strict f dr mod a
  | 0x28 => (truth (numLt x y), {})
  | 0x29 => (truth (numLe x y), {})
  | 0x2A => (truth (numLe x y && numLe y x), {})
  | 0x2B => (if isTrue a then b else c, {})
  | 0x2C => (truth (!(numIsFin x)), {})
  | _ => (fPick false (fPick true a b) c, {})

/-- Pair opcodes (R236): the pair written to D and D + 1. -/
def pairOp (strict : Bool) (e : Env) (i : Ins) : (Nat × Nat) × Ev :=
  match i.op with
  | 0x10 => pairSum strict (e.get i.a) (e.get i.b)
  | 0x11 => pairProduct strict (e.get i.a) (e.get i.b)
  | _ => pairAdd strict (e.get i.a, e.get (i.a + 1)) (e.get i.b, e.get (i.b + 1))

/-- The identity of a scan (R239). -/
def scanId : Nat → Nat
  | 1 => 0xFF800000
  | 2 => 0x7F800000
  | _ => 0

/-- SCAN, instruction number n of the program, at an element of column `col` (R239). -/
def scanOp (strict : Bool) (f : Fmt) (e : Env) (n col : Nat) (i : Ins) : Env :=
  let op := bitsN i.mod 1 0
  let fresh := col = 0 || (bitN i.mod 3 && isTrue (e.get i.c))
  let acc := if fresh then scanId op else (kfind e.scan n).getD (scanId op)
  let a := e.get i.a
  let r : Nat × Ev := match op with
    | 1 => (fPick true acc a, {})
    | 2 => (fPick false acc a, {})
    | _ => toLane strict f (numAdd (f32 acc) (f32 a))
  let e := { e with scan := kins n r.1 e.scan, ev := evAdd e.ev r.2 }
  e.put i.d (if bitN i.mod 2 then acc else r.1)

/-- Run instruction n of the program on an element. -/
def runIns (strict : Bool) (f : Fmt) (dr : Draw) (col : Nat) (e : Env) (x : (Option Table × Ins) × Nat) : Env :=
  let i := x.1.2
  if isPair i.op then
    let r := pairOp strict e i
    { (e.put i.d r.1.1).put (i.d + 1) r.1.2 with ev := evAdd e.ev r.2 }
  else if i.op = 0x30 then scanOp strict f e x.2 col i
  else if i.op = 0x20 || i.op = 0x21 then
    match x.1.1 with
    | none => e
    | some t =>
      let r := lookup strict t (if i.op = 0x20 then t.f else t.d) (e.get i.a)
      let v := toLane strict f (f32 r.1)
      { e.put i.d v.1 with ev := evAdd e.ev (evAdd r.2 v.2) }
  else
    let r := scalarOp strict f dr i.op i.mod (e.get i.a) (e.get i.b) (e.get i.c)
    { e.put i.d r.1 with ev := evAdd e.ev r.2 }

/-- The program of a chain with its tables loaded. -/
structure Prog where
  strict : Bool
  fmt : Fmt
  k : List Nat
  code : List ((Option Table × Ins) × Nat)
  usesCol : Bool
  deriving DecidableEq, Repr

/-- Load constants (R230). -/
def loadK (strict : Bool) (f : Fmt) (ks : List Nat) : List Nat × Ev :=
  let r := ks.map fun k => toLane strict f (f32 k)
  (r.map (·.1), r.foldl (fun a x => evAdd a x.2) {})

/-- One element: inputs as lane values, the scans' running folds, the column and the draw. -/
def runElem (p : Prog) (xs : List Nat) (scan : List (Nat × Nat)) (col : Nat) (dr : Draw) : Env :=
  let cl := if p.usesCol then toLane p.strict p.fmt (numInt col) else (0, {})
  let e : Env := { src := xs ++ List.replicate 8 0 ++ p.k ++ [cl.1], out := [0, 0, 0], scan := scan, ev := cl.2 }
  p.code.foldl (runIns p.strict p.fmt dr col) e

end Sys2Proof.Machine
end

