-- ==== Sys2Proof/Machine/MillBlock.lean ====
section
/-! DEFINITION. What the Mill does to one block: groups and schedule curves (R370 to R372), rule programs (R376 to R379),
the bins (R375) and the matrix hand-off (R388 to R390). -/

namespace Sys2Proof.Machine

/-! ## Groups and schedules (R370 to R372) -/

structure Group where
  sched : Nat
  rule : Nat
  post : Nat
  deriving DecidableEq, Repr

def groupOf (bs : List Byte) : Group := ⟨leAt bs 0 5, leAt bs 5 5, leAt bs 10 5⟩

def groupAddr (s : State) (g : Nat) : Nat := reg64 s Reg.MIL_GTAB_LO + 64 * g
def groupAt (s : State) (g : Nat) : Group := groupOf (peek s (groupAddr s g) 64)

/-! ## Tables under the codes (R384, R496) -/

/-- Read ranges of memory under the codes up to the first that gives no data. -/
def checkAll (s : State) : List (Nat × Nat) → State × Option Bad
  | [] => (s, none)
  | (a, n) :: t =>
    match checkRead s a n with
    | (s, some b) => (s, some b)
    | (s, none) => checkAll s t

/-- What the Mill reads of the tables for block k of record j: the record, its map byte, its group, the schedule when the
group has none yet in this step, and the matrix job of a matrix-class record. -/
def tableReads (s : State) (j k : Nat) : List (Nat × Nat) :=
  let r := precAt s j
  let c := (groupAt s r.group).sched
  [(precAddr s j, 64), (r.tmap + k, 1), (groupAddr s r.group, 64)]
    ++ (if (kfind s.mill.sched r.group).isSome then [] else [(c, 64 + 16 * peekN s c 2)])
    ++ (if r.mclass = 0 then [] else [(mjobAddr s r.mjob, 32)])

/-- The points of a schedule table: STEP and VALUE (R371). -/
def pointsOf (bs : List Byte) : List (Nat × Nat) :=
  (List.range (leAt bs 0 2)).map fun i => (leAt bs (64 + 16 * i) 8, leAt bs (72 + 16 * i) 4)

/-- sched(s) of R372 at a step beyond point p, for the points that follow it. -/
def schedFrom (strict : Bool) (s : Nat) (p : Nat × Nat) : List (Nat × Nat) → Nat × Ev
  | [] => (p.2, {})
  | q :: t =>
    if q.1 ≤ s then schedFrom strict s q t
    else
      let n := round32 strict (numInt ((s : Int) - p.1))
      let d := round32 strict (numInt ((q.1 : Int) - p.1))
      let f := fDiv strict n.1 d.1
      let w := fSub strict q.2 p.2
      let m := fMul strict f.1 w.1
      let r := fAdd strict p.2 m.1
      (r.1, evAdd (evAdd f.2 w.2) (evAdd m.2 r.2))

/-- sched(s) of R372. -/
def schedVal (strict : Bool) (s : Nat) : List (Nat × Nat) → Nat × Ev
  | [] => (0, {})
  | p :: t => if s ≤ p.1 then (p.2, {}) else schedFrom strict s p t

/-- The schedule value of a group for the step, evaluated once (R372). -/
def schedOf (s : State) (num g : Nat) : State × Nat :=
  match kfind s.mill.sched g with
  | some v => (s, v)
  | none =>
    let a := (groupAt s g).sched
    let r := schedVal (strictMode s) num (pointsOf (peek s a (64 + 16 * 64)))
    let s := numEvB s (Reg.MIL_NUMOVF 0) r.2
    ({ s with mill := { s.mill with sched := kins g r.1 s.mill.sched } }, r.1)

/-! ## The arrays of a block -/

/-- Elements of block k. -/
def PRec.blkLen (r : PRec) (k : Nat) : Nat := min 1024 (r.len - 1024 * k)

/-- The state lies on another device (R386). -/
def PRec.remote (s : State) (r : PRec) : Bool := r.statedev ≠ deviceId s

/-- Where a block of an array lies: address and bytes (R367). -/
def PRec.place (r : PRec) (base w bin k : Nat) : Nat × Nat := (base + bin * r.bin w + 1024 * k * w, r.blkLen k * w)

/-- The moments of a block in a bin. -/
def PRec.momPlaces (r : PRec) (bin k : Nat) : List (Nat × Nat) :=
  [r.mom1, r.mom2].take r.nmom |>.map fun a => r.place a r.wMom bin k

def PRec.avgPlaces (r : PRec) (bin k : Nat) : List (Nat × Nat) := if r.avgen then [r.place r.avg 4 bin k] else []

/-- The state of a block in a bin: master, moments, average. -/
def PRec.statePlaces (r : PRec) (bin k : Nat) : List (Nat × Nat) :=
  [r.place r.master r.wMaster bin k] ++ r.momPlaces bin k ++ r.avgPlaces bin k

/-- The bin that holds the committed state of a block (R373, R375). -/
def curBin (s : State) (r : PRec) (k : Nat) : Nat := if !r.hold && bitN (tmapAt s r k) tCur then 1 else 0

/-- Read pieces of memory in order and join them. -/
def loadAll (s : State) : List (Nat × Nat) → State × Except Bad (List Byte)
  | [] => (s, .ok [])
  | (a, n) :: t =>
    match load s a n with
    | (s, .error b) => (s, .error b)
    | (s, .ok x) =>
      match loadAll s t with
      | (s, .error b) => (s, .error b)
      | (s, .ok xs) => (s, .ok (x ++ xs))

/-- Write joined pieces to memory in order. -/
def storeAll (s : State) (bs : List Byte) : List (Nat × Nat) → State × Option Bad
  | [] => (s, none)
  | (a, n) :: t =>
    match storeSeg s a (bs.take n) with
    | (s, some b) => (s, some b)
    | (s, none) => storeAll s (bs.drop n) t

/-! ## Packets to a peer (R386) -/

/-- Read requests for bytes of a device, one for each 512 bytes. -/
def askPeer (dev id : Nat) (s : State) (x : Nat × Nat) : State :=
  (List.range (cdiv x.2 512)).foldl (fun s i => routeOut s { mkPacket s dev vlBest opReadreq with
    cartid := Config.engineCart id, cseq := i, addr := x.1 + 512 * i, aux := min 512 (x.2 - 512 * i)
    last := decide (i + 1 = cdiv x.2 512) }) s

/-- Write bytes to a device, 512 bytes a packet. -/
def tellPeer (dev id : Nat) (s : State) (a : Nat) (bs : List Byte) : State :=
  let n := cdiv bs.length 512
  (List.range n).foldl (fun s i => routeOut s { mkPacket s dev vlBest opWrite with
    cartid := Config.engineCart id, cseq := i, addr := a + 512 * i, payload := (bs.drop (512 * i)).take 512
    len := min 512 (bs.length - 512 * i), last := decide (i + 1 = n) }) s

def tellPeerAll (dev id : Nat) (s : State) (bs : List Byte) : List (Nat × Nat) → State
  | [] => s
  | (a, n) :: t => tellPeerAll dev id (tellPeer dev id s a (bs.take n)) (bs.drop n) t

/-- A number for the packets of block k of record j. -/
def blockId (j k : Nat) : Nat := 2 * (2 ^ 23 * j + k)

/-! ## Elements -/

/-- Elements of an array of w-byte elements as FP32 (exact; a NaN loses its sign and payload, R83). -/
def asF32 (f : Fmt) (w : Nat) (bs : List Byte) (n : Nat) : List Nat :=
  (List.range n).map fun i => (numEncode .fp32 true .rne 0 (numDecode f (leAt bs (w * i) (fmtBits f / 8)))).1

/-- Gradient elements; a pair is taken as hi (R90, R377). -/
def gradElems (r : PRec) (bs : List Byte) (n : Nat) : List Nat :=
  asF32 (if r.gfmt = 1 then .bf16 else .fp32) r.wGrad bs n

/-- Master elements as pairs. -/
def masterElems (r : PRec) (bs : List Byte) (n : Nat) : List (Nat × Nat) :=
  (asF32 .fp32 r.wMaster bs n).zip
    (if r.mfmt = 1 then asF32 .fp32 8 (bs.drop 4) n else List.replicate n 0)

def momElems (r : PRec) (bs : List Byte) (n : Nat) : List Nat :=
  asF32 (if r.sfmt = 1 then .bf16 else .fp32) r.wMom bs n

/-- The program of a configuration block (R376). -/
def millProg (strict : Bool) (bs : List Byte) : Prog :=
  let g := cfgOf bs
  let k := loadK strict .fp32 g.k
  { strict := strict, fmt := .fp32, k := k.1, code := (g.ins.map fun i => (none, i)).zipIdx, usesCol := false }

/-- What one element of a block leaves: new master, Y0, Y1, W. -/
structure MElem where
  m : Nat × Nat
  y0 : Nat
  y1 : Nat
  w : Nat
  ev : Ev
  deriving DecidableEq, Repr

/-- Run a Mill program on an element: X0 to X2, the master as a pair and S (R376, R377). -/
def millElem (p : Prog) (sv x0 x1 x2 : Nat) (m : Nat × Nat) : MElem :=
  let e : Env := { src := [x0, x1, x2, m.1, m.2] ++ List.replicate 6 0 ++ p.k ++ [sv], out := [0, 0, 0], scan := []
                   ev := {} }
  let e := p.code.foldl (runIns p.strict p.fmt ⟨0, 0, 0⟩ 0) e
  let t := pairSum p.strict (e.get 3) (e.get 4)
  { m := t.1, y0 := (e.out[0]?).getD 0, y1 := (e.out[1]?).getD 0, w := (e.out[2]?).getD 0, ev := evAdd e.ev t.2 }

/-! ## A block -/

/-- The inputs of a block. -/
structure BlkIn where
  x0 : List Nat
  m  : List (Nat × Nat)
  m1 : List Nat
  m2 : List Nat
  av : List Nat
  deriving DecidableEq, Repr

/-- What a block computes: bytes of the master, the moments joined, the average and the hand-off, the events, and
whether something stored is infinite or NaN. -/
structure BlkOut where
  master : List Byte
  moms : List Byte
  avg : List Byte
  hand : List Byte
  ev : Ev
  fault : Bool
  deriving DecidableEq, Repr

def badF (w : Nat) : Bool := !(numIsFin (f32 w))

/-- Encode the moments (R378). -/
def packMoms (strict : Bool) (r : PRec) (ys : List Nat) : List Byte × Ev × Bool :=
  let f : Fmt := if r.sfmt = 1 then .bf16 else .fp32
  let es := ys.map fun y => numEncode f strict .rne 0 (f32 y)
  (es.flatMap fun e => leBytes r.wMom e.1, es.foldl (fun a e => evAdd a e.2) {},
    es.any fun e => !(numIsFin (numDecode f e.1)))

/-- The average of an element (R378). -/
def avgStep (strict : Bool) (c s a : Nat) : Nat × Ev :=
  let d := fSub strict s a
  let r := fFma strict c d.1 a
  (r.1, evAdd d.2 r.2)

/-- Run a program over a block (R377, R378); `rule` says whether moments are stored and `final` whether the master and
the average are. -/
def runBlock (p : Prog) (r : PRec) (sv : Nat) (i : BlkIn) (rule final : Bool) : BlkOut :=
  let n := i.m.length
  let es := (List.range n).map fun q =>
    millElem p sv ((i.x0[q]?).getD 0) ((i.m1[q]?).getD 0) ((i.m2[q]?).getD 0) ((i.m[q]?).getD (0, 0))
  let ev := es.foldl (fun a e => evAdd a e.ev) {}
  let ys := [es.map (·.y0), es.map (·.y1)].take r.nmom
  let ms := if rule then ys.map (packMoms p.strict r) else []
  let c := (fSub p.strict one32 r.decay).1
  let avs := if final && r.avgen then
      (es.zip i.av).map fun (e, a) => avgStep p.strict c e.m.1 a
    else []
  { master := if final then es.flatMap fun e => leBytes 4 e.m.1 ++ (if r.mfmt = 1 then leBytes 4 e.m.2 else []) else []
    moms := ms.flatMap (·.1)
    avg := avs.flatMap fun a => leBytes 4 a.1
    hand := es.flatMap fun e => leBytes 4 e.w
    ev := avs.foldl (fun a x => evAdd a x.2) (ms.foldl (fun a x => evAdd a x.2.1) ev)
    fault := (final && (es.any fun e => badF e.m.1)) || ms.any (·.2.2) || avs.any fun a => badF a.1 }

/-- The inputs of a block from its joined state bytes: master, moments, average. -/
def cutState (r : PRec) (n : Nat) (x0 : List Nat) (bs moms : List Byte) : BlkIn :=
  let mB := n * r.wMaster
  let sB := n * r.wMom
  { x0 := x0, m := masterElems r bs n
    m1 := if 1 ≤ r.nmom then momElems r moms n else []
    m2 := if r.nmom = 2 then momElems r (moms.drop sB) n else []
    av := if r.avgen then asF32 .fp32 4 (bs.drop (mB + r.nmom * sB)) n else [] }

/-- The state bytes of a block in bin CUR: as the peer sent them, or from local memory. -/
def readState (s : State) (r : PRec) (b : MBlock) : State × Except Bad (List Byte) :=
  match b.state with
  | some x => (s, .ok x)
  | none => loadAll s (r.statePlaces (curBin s r b.blk) b.blk)

/-- The moments inside joined state bytes. -/
def cutMoms (r : PRec) (n : Nat) (bs : List Byte) : List Byte := (bs.drop (n * r.wMaster)).take (r.nmom * n * r.wMom)

/-- The gradient of a block: from the holding area, or from the sheaf (R386). -/
def readGrad (s : State) (r : PRec) (b : MBlock) : State × Except Bad (List Byte) :=
  load s (b.grad.getD (r.grad + 1024 * b.blk * r.wGrad)) (r.blkLen b.blk * r.wGrad)

/-- A block is read for RULE: its inputs and whether a gradient element is infinite or NaN, which raises Blight as soon as
it is read, save in hold mode (R384). -/
def readRule (s : State) (r : PRec) (b : MBlock) (hold : Bool) : State × Except Bad (BlkIn × Bool) :=
  let n := r.blkLen b.blk
  match readGrad s r b with
  | (s, .error e) => (s, .error e)
  | (s, .ok gb) =>
    let x0 := gradElems r gb n
    let bad := x0.any badF
    match readState (if bad && !hold then raiseBlight s srcNonfin else s) r b with
    | (s, .error e) => (s, .error e)
    | (s, .ok st) => (s, .ok (cutState r n x0 st (cutMoms r n st), bad))

/-- A block is read for POST (R377, R390). -/
def readPost (s : State) (r : PRec) (b : MBlock) (hin : Bool) : State × Except Bad BlkIn :=
  let n := r.blkLen b.blk
  let mj := mjobAt s r.mjob
  match load s ((if hin then mj.hin else mj.hout) + 4096 * b.blk) (4 * n) with
  | (s, .error e) => (s, .error e)
  | (s, .ok xb) =>
    match readState s r b with
    | (s, .error e) => (s, .error e)
    | (s, .ok st) =>
      let new : State × Except Bad (List Byte) := match b.moms with
        | some x => (s, .ok x)
        | none => loadAll s (r.momPlaces (1 - curBin s r b.blk) b.blk)
      match new with
      | (s, .error e) => (s, .error e)
      | (s, .ok ms) => (s, .ok (cutState r n (asF32 .fp32 4 xb n) st ms))

/-- The bin a block's results go to (R375). -/
def newBin (s : State) (r : PRec) (k : Nat) : Nat := if r.hold then 0 else 1 - curBin s r k

/-- Store joined results at places of a record: in local memory, or on the peer that holds the state. -/
def putState (s : State) (j : Nat) (r : PRec) (k : Nat) (bs : List Byte) (ps : List (Nat × Nat)) : State × Option Bad :=
  if r.remote s then (tellPeerAll r.statedev (blockId j k + 1) s bs ps, none) else storeAll s bs ps

end Sys2Proof.Machine
end

