-- ==== Sys2Proof/Machine/Mill.lean ====
section
/-! DEFINITION. The Mill and the step (R362 to R404): the Mill list, updates, the commit gate, working copies and the
version fence. -/

namespace Sys2Proof.Machine

def mapMill (s : State) (f : MillSt → MillSt) : State := { s with mill := f s.mill }
def setWork (s : State) (w : Option MillWork) : State := mapMill s fun m => { m with work := w }
def mapRes (s : State) (f : Resolve → Resolve) : State := mapMill s fun m => { m with res := m.res.map f }
def setMilFld (s : State) (f : Fld) (v : Nat) : State := setFld s Reg.MIL_STATUS f v
def millDry (s : State) : Bool := fld s Reg.MIL_STATUS Fld.MIL_STATUS_DRY = 1

/-- NOPEN, HORIZON and MIL_BSTAT follow the open steps (R403). -/
def syncMill (s : State) : State :=
  let s := setMilFld s Fld.MIL_STATUS_NOPEN s.step.opened.length
  let s := setMilFld s Fld.MIL_STATUS_HORIZON
    (if s.step.opened.any fun x => x.start + cframe s < pindex s then 1 else 0)
  syncWaits (syncBstat s)

/-- Change the earliest open step. -/
def mapHead (s : State) (f : OpenStep → OpenStep) : State :=
  { s with step := { s.step with opened := match s.step.opened with
      | [] => []
      | x :: t => f x :: t } }

/-- The Mill stops at an error and the job ends (R382). -/
def millError (s : State) : State :=
  let s := setMilFld (mapMill s fun m => { m with walking := false, work := none }) Fld.MIL_STATUS_BUSY 0
  endJob (raise s Reg.MIL_INTSTAT Fld.MIL_INTSTAT_ERR.bit) 8 0

/-- The walk restarts at descriptor 0 for the earliest open step (R381); a step already hit by Blight is walked dry. -/
def millBegin (s : State) : State :=
  match s.step.opened with
  | [] => s
  | x :: _ =>
    let s := mapMill s fun m => { m with walking := true, past := false, work := none, sched := [] }
    let s := setRegN s Reg.MIL_ITEM 0
    syncWaits (setMilFld (setMilFld s Fld.MIL_STATUS_BUSY 0) Fld.MIL_STATUS_DRY (if x.bad then 1 else 0))

/-- A SETSTEP of presented bough 0 in a training job opens a step (R362, R364). -/
def openStep (s : State) (num : Nat) : State :=
  let x : OpenStep := { start := pindex s, blight := s.step.next, no := s.step.count, num := num
                        heard := s.step.early.contains (pindex s) }
  let first := s.step.opened.isEmpty && s.mill.res.isNone
  let s := { s with step := { s.step with opened := s.step.opened ++ [x], count := s.step.count + 1, next := 0
                                          early := [] } }
  syncMill (if first then millBegin s else s)

/-! ## Blocks of an update -/

/-- The holding area: the CLASS 4 object that MIL_HOLD names, as start and length (R386). -/
def holdArea (s : State) : Option (Nat × Nat) :=
  let j := fld s Reg.MIL_HOLD Fld.MIL_HOLD_OBJ
  let o := objAt s j
  if fld s Reg.MIL_HOLD Fld.MIL_HOLD_VALID = 1 && isReg s j && o.cls = 4 then some (o.base, o.len) else none

/-- The parts of the holding area that held gradient blocks take. -/
def heldParts (s : State) (w : MillWork) : List Range :=
  w.todo.filterMap fun b => b.grad.map fun a =>
    let r := precAt s b.rec_
    (a, r.blkLen b.blk * r.wGrad)

/-- The lowest place of the holding area that takes n bytes (the manual names none). -/
def holdSpot (s : State) (w : MillWork) (n : Nat) : Option Nat :=
  match holdArea s with
  | none => none
  | some (a, len) =>
    let held := heldParts s w
    ((a :: held.map fun h => h.1 + h.2).filter fun x =>
      decide (x + n ≤ a + len) && !held.any (meets (x, n))).min?

/-- A hold-mode update met a fault, a gradient that is not finite or an uncorrectable read: the block stays as it was
(R396). -/
def holdFault (s : State) : State :=
  raise (bump s Reg.MIL_HOLDFAULT 1) Reg.MIL_INTSTAT Fld.MIL_INTSTAT_HOLDFAULT.bit

/-- An uncorrectable read of a block or of its tables (R384, R396). -/
def blockUncorr (s : State) (hold : Bool) (e : Bad) : State :=
  stopConsumer (if hold then holdFault s else s) hold e 0

/-- The block has something to do: it is touched, or of a matrix-class record (R374, R379). TOUCH is read at the visit. -/
def blockDue (s : State) (b : MBlock) : Bool :=
  let r := precAt s b.rec_
  b.post || r.mclass ≠ 0 || bitN (tmapAt s r b.blk) tTouch

/-- Take gradient blocks of records whose state is on a peer into the holding area while it has room, and ask the peer
for their state (R386). -/
def takeHolds (s : State) : List MBlock → State
  | [] => s
  | b :: t =>
    match s.mill.work with
    | none => s
    | some w =>
      let r := precAt s b.rec_
      let n := r.blkLen b.blk * r.wGrad
      if !r.remote s || b.post || b.grad.isSome || !blockDue s b then takeHolds s t
      else
        match holdSpot s w n with
        | none => s
        | some a =>
          match load s (r.grad + 1024 * b.blk * r.wGrad) n with
          | (s, .error e) => takeHolds (blockUncorr (setWork s (some { w with todo := w.todo.erase b })) w.hold e) t
          | (s, .ok g) =>
            match storeSeg s a g with
            | (s, some e) => takeHolds (blockUncorr (setWork s (some { w with todo := w.todo.erase b })) w.hold e) t
            | (s, none) =>
              let b' := { b with grad := some a }
              let s := setWork s (some { w with todo := w.todo.map fun x => if x = b then b' else x })
              let s := bump s Reg.MIL_HELD 1
              takeHolds ((r.statePlaces (curBin s r b.blk) b.blk).foldl (askPeer r.statedev (blockId b.rec_ b.blk)) s) t

/-- A rule fault found during an UPDATE (R384). -/
def ruleFault (s : State) : State :=
  raiseBlight (raise (bump s Reg.MIL_FAULT 1) Reg.MIL_INTSTAT Fld.MIL_INTSTAT_FAULT.bit) srcMillFault

/-- The number of the step whose state is being computed. -/
def workNum (s : State) : Nat :=
  match s.mill.res with
  | some r => r.num
  | none => (s.step.opened.head?.map (·.num)).getD 0

/-- A block is stored: it counts, its hold-mode update is noted, and in two-bin mode PEND is set (R375, R378, R384). -/
def blockStored (s : State) (j k : Nat) (hold fault : Bool) : State :=
  let r := precAt s j
  let s := bump s Reg.MIL_BLOCKS 1
  if hold then mapMill s fun m => { m with work := m.work.map fun w => { w with did := w.did ++ [(j, k)] } }
  else
    let s := setTmap s r k (putBits (tmapAt s r k) tPend tPend 1)
    if fault then ruleFault s else s

def laneSet (j k : Nat) : Nat := Reg.MIL_NUMOVF ((j + k) % 8)

/-- RULE over a block of a record without a matrix rule: the whole new state is stored (R379). -/
def runPlain (s : State) (b : MBlock) (hold : Bool) : State :=
  let j := b.rec_
  let k := b.blk
  let r := precAt s j
  let g := groupAt s r.group
  match load s g.rule 384 with
  | (s, .error e) => blockUncorr s hold e
  | (s, .ok cb) =>
    match readRule s r b hold with
    | (s, .error e) => blockUncorr s hold e
    | (s, .ok (i, nonfin)) =>
      let x := schedOf s (workNum s) r.group
      let o := runBlock (millProg (strictMode s) cb) r x.2 i true true
      let s := numEvB x.1 (laneSet j k) o.ev
      if hold && (nonfin || o.fault) then holdFault s
      else
        match putState s j r k (o.master ++ o.moms ++ o.avg) (r.statePlaces (newBin s r k) k) with
        | (s, some e) => blockUncorr s hold e
        | (s, none) => blockStored s j k hold o.fault

/-- RULE over a block of a matrix-class record: moments and hand-off are stored (R389). Moments of a hold-mode or remote
record stay in the Mill until POST. -/
def runRule (s : State) (b : MBlock) (hold : Bool) : State :=
  let j := b.rec_
  let k := b.blk
  let r := precAt s j
  let g := groupAt s r.group
  match load s g.rule 384 with
  | (s, .error e) => blockUncorr s hold e
  | (s, .ok cb) =>
    match readRule s r b hold with
    | (s, .error e) => blockUncorr s hold e
    | (s, .ok (i, nonfin)) =>
      let x := schedOf s (workNum s) r.group
      let o := runBlock (millProg (strictMode s) cb) r x.2 i true false
      let s := numEvB x.1 (laneSet j k) o.ev
      let stay := hold || r.remote s
      let kept : MBlock := { b with post := true, grad := none, moms := if stay then some o.moms else none }
      if hold && (nonfin || o.fault) then holdFault s
      else
        let put := if stay then (s, none) else storeAll s o.moms (r.momPlaces (newBin s r k) k)
        match put with
        | (s, some e) => blockUncorr s hold e
        | (s, none) =>
          match storeSeg s ((mjobAt s r.mjob).hin + 4096 * k) o.hand with
          | (s, some e) => blockUncorr s hold e
          | (s, none) =>
            let s := mapMill s fun m => { m with work := m.work.map fun w => { w with kept := w.kept ++ [kept] } }
            if o.fault then ruleFault s else s

/-- POST over a block: the master and the average are stored, and the moments that were kept (R389). -/
def runPost (s : State) (b : MBlock) (hold hin : Bool) : State :=
  let j := b.rec_
  let k := b.blk
  let r := precAt s j
  let g := groupAt s r.group
  match load s g.post 384 with
  | (s, .error e) => blockUncorr s hold e
  | (s, .ok cb) =>
    match readPost s r b hin with
    | (s, .error e) => blockUncorr s hold e
    | (s, .ok i) =>
      let x := schedOf s (workNum s) r.group
      let o := runBlock (millProg (strictMode s) cb) r x.2 i false true
      let s := numEvB x.1 (laneSet j k) o.ev
      if hold && o.fault then holdFault s
      else
        let bin := newBin s r k
        let ps := [r.place r.master r.wMaster bin k] ++ (if b.moms.isSome then r.momPlaces bin k else [])
          ++ r.avgPlaces bin k
        match putState s j r k (o.master ++ b.moms.getD [] ++ o.avg) ps with
        | (s, some e) => blockUncorr s hold e
        | (s, none) => blockStored s j k hold o.fault

/-- A block whose inputs are all here (R386). -/
def blockReady (s : State) (b : MBlock) : Bool :=
  b.post || !(precAt s b.rec_).remote s || (b.grad.isSome && b.state.isSome)

/-- Run a block of the work in progress and take it off the list. -/
def runMBlock (s : State) (w : MillWork) (b : MBlock) : State :=
  match checkAll (setWork s (some { w with todo := w.todo.erase b })) (tableReads s b.rec_ b.blk) with
  | (s, some e) => blockUncorr s w.hold e
  | (s, none) =>
    if b.post then runPost s b w.hold w.hin
    else if (precAt s b.rec_).mclass = 0 then runPlain s b w.hold else runRule s b w.hold

/-! ## Going on -/

/-- EPOCH of a record (R366, R395). -/
def putEpoch (s : State) (j e : Nat) : State :=
  match storeSeg s (precAddr s j + 12) (leBytes 4 e) with
  | (s, some b) => stopConsumer s false b 0
  | (s, none) => s

/-- The end of the settling of hold-mode records (R395, step 3): PREV, TOUCH and EPOCH, and what is to be regenerated. -/
def settleHold (did : List (Nat × Nat)) (s : State) (j : Nat) : State :=
  let r := precAt s j
  let blocks := List.range r.blocks
  let again := blocks.filter fun k => did.contains (j, k) || (r.wc2 && bitN (tmapAt s r k) tPrev)
  let s := blocks.foldl (fun s k =>
    setTmap s r k (putBits (putBits (tmapAt s r k) tPrev tPrev (if did.contains (j, k) then 1 else 0)) tTouch tTouch 0)) s
  match s.mill.res with
  | none => s
  | some x =>
    let s := putEpoch s j x.epoch
    mapMill s fun m => { m with res := some { x with regen := x.regen ++ (if again.isEmpty then [] else [(j, again)]) } }

/-- A step has resolved and its working copies are ready: the next step's walk begins, or the walk goes on behind the
COMMIT (R381). -/
def stepEnded (s : State) : State :=
  let s := setMilFld (mapMill s fun m => { m with res := none }) Fld.MIL_STATUS_BUSY 0
  if !s.step.opened.isEmpty && jobLoaded s then syncMill (millBegin s)
  else if s.mill.past && s.mill.walking then millError (syncMill s) else syncMill s

/-- OUTCNT and SIG of the COMMIT that the walk reached (R395). -/
def outcome (s : State) (c : Option (Nat × Nat)) (v : Nat) : State :=
  match c with
  | none => s
  | some (cnt, sig) => sendField (setCnt s cnt v) sig

/-- Every record is regenerated: EPCNT, OUTCNT, SIG and MIL_COMMITS (R395, R400). -/
def commitEnd (s : State) (x : Resolve) : State :=
  let s := setCnt s (fld s Reg.MIL_FENCE Fld.MIL_FENCE_EPCNT) (x.epoch % 2 ^ 32)
  let s := outcome s x.commit 1
  let s := raise (bump s Reg.MIL_COMMITS 1) Reg.MIL_INTSTAT Fld.MIL_INTSTAT_COMMIT.bit
  stepEnded (setMilFld s Fld.MIL_STATUS_REGEN 0)

/-- Settling is over: regeneration waits for its command, or there is none to do. -/
def settled (s : State) : State :=
  match s.mill.res with
  | none => s
  | some x =>
    if x.regen.isEmpty then commitEnd s x
    else
      let s := x.regen.foldl (fun s y =>
        let r := precAt s y.1
        if r.remote s then
          y.2.foldl (fun s k => askPeer r.statedev (blockId y.1 k) s (r.place r.master r.wMaster (curBin s r k) k)) s
        else s) s
      syncWaits s

/-- The work in progress is over. -/
def workEnd (s : State) (w : MillWork) : State :=
  let s := setWork s none
  if w.hold then
    let js := (s.mill.res.map (·.holds)).getD []
    settled (js.foldl (settleHold w.did) s)
  else
    let s := setMilFld (sendField s w.sig) Fld.MIL_STATUS_BUSY 0
    if s.mill.past then millError s else syncWaits s

/-- The blocks a record of an update covers; the untouched ones have nothing to do at their visit (R374, R379, R389). -/
def blocksFor (s : State) (j : Nat) : List MBlock :=
  (List.range (precAt s j).blocks).map fun k => { rec_ := j, blk := k }

/-- The walk of this work is dry: only DONECNT, waits and signals (R396). -/
def workDry (s : State) (w : MillWork) : Bool := millDry s && !w.hold

/-- Go on with the work as far as it can go without a block or a matrix job (R389). -/
def millGo : Nat → State → State
  | 0, s => s
  | n + 1, s =>
    match s.mill.work with
    | none => s
    | some w =>
      let w := if workDry s w then { w with todo := [] } else w
      match w.mats with
      | [] => if w.todo.any (blockDue s) then setWork s (some w) else workEnd s w
      | j :: t =>
        if w.todo.any (fun b => b.rec_ = j) then setWork s (some w)
        else if w.stage = 0 then
          match checkAll (setWork s (some { w with stage := 1 })) [(precAddr s j, 64), (mjobAddr s (precAt s j).mjob, 32)]
            with
          | (s, some e) => blockUncorr (setWork s (some { w with mats := t, stage := 0 })) w.hold e
          | (s, none) =>
            let mj := mjobAt s (precAt s j).mjob
            syncWaits (sendField (setCnt s mj.donecnt 0) mj.sig)
        else if w.stage = 1 then setWork s (some w)
        else
          let next := match t with
            | [] => []
            | i :: _ => if workDry s w then [] else blocksFor s i
          millGo n (setWork s (some { w with mats := t, stage := 0, todo := w.todo ++ next }))

def millRun (s : State) : State :=
  match s.mill.work with
  | none => s
  | some w => millGo (w.mats.length + 1) (if workDry s w then s else takeHolds s w.todo)

/-- A block of the work in progress is done (R380): its lane stores it, or a dry walk drops it. -/
def millBlock (s : State) (j k : Nat) : State :=
  match s.mill.work with
  | none => s
  | some w =>
    if workDry s w then millRun s
    else
      match w.todo.find? fun b => b.rec_ = j && b.blk = k with
      | none => s
      | some b =>
        if !blockDue s b then millRun (setWork s (some { w with todo := w.todo.erase b }))
        else if blockReady s b then millRun (runMBlock s w b)
        else millRun s

/-- MILL_BLOCK_DONE (R380). -/
def execMillBlockDone (j k : Nat) (s : State) : Host.Outcome State Fault Refusal := finishWait s (millBlock s j k)

/-- MILL_STATE_ARRIVE (R386): the state of a held block has come, or of one to be regenerated. -/
def stateArrive (s : State) (j k : Nat) (bs : List Byte) : State :=
  match s.mill.work with
  | some w =>
    match w.todo.find? fun b => b.rec_ = j && b.blk = k && b.grad.isSome && b.state.isNone with
    | none => s
    | some b =>
      let b' := { b with state := some bs }
      let s := setWork s (some { w with todo := w.todo.map fun x => if x = b then b' else x })
      millBlock s j k
  | none =>
    mapRes s fun x =>
      if x.regen.any (fun y => y.1 = j && y.2.contains k) then { x with arrived := x.arrived ++ [(j, k, bs)] } else x

def execMillStateArrive (j k : Nat) (state : List Byte) (s : State) : Host.Outcome State Fault Refusal :=
  finishWait s (stateArrive s j k state)

/-- The matrix job of record j has ended: POST begins (R389, R390). -/
def matrixDone (s : State) (j : Nat) : State :=
  match s.mill.work with
  | none => s
  | some w =>
    let mj := mjobAt s (precAt s j).mjob
    if w.mats.head? ≠ some j || w.stage ≠ 1 || sextN 64 (counter s mj.donecnt) < 1 then s
    else
      let mine := w.kept.filter fun b => b.rec_ = j
      let w := { w with stage := 2, kept := w.kept.filter fun b => b.rec_ ≠ j }
      let s := syncWaits (setWork s (some w))
      if workDry s w then millRun (setWork s (some w))
      else
        match load s mj.hstat 4 with
        | (s, .error e) => millRun (blockUncorr (setWork s (some w)) w.hold e)
        | (s, .ok h) =>
          let post (hin : Bool) (s : State) : State := setWork s (some { w with todo := w.todo ++ mine, hin := hin })
          if leNat h = 0 then millRun (post false s)
          else if leNat h = 1 then
            millRun (post true (raise (bump s Reg.MIL_IDSUB 1) Reg.MIL_INTSTAT Fld.MIL_INTSTAT_IDSUB.bit))
          else
            let s := setWork s (some w)
            millRun (if w.hold then holdFault s else ruleFault s)

/-- MATRIX_JOB_DONE (R389). -/
def execMatrixJobDone (j : Nat) (s : State) : Host.Outcome State Fault Refusal := finishWait s (matrixDone s j)

/-! ## The Mill list (R381, R382) -/

/-- The Mill starts the descriptor it stands at when it is of the asked kind and its gate is met. -/
def millCmd (s : State) (op : Nat) (act : State → MDesc → State) : State :=
  if !s.mill.walking || fld s Reg.MIL_STATUS Fld.MIL_STATUS_BUSY = 1 || s.mill.res.isSome then s
  else if s.mill.past then millError s
  else
    let a := mdescAddr s
    if !rangeOk s a 32 then millError s
    else
      match load s a 32 with
      | (s, .error e) => stopConsumer (mapMill s fun m => { m with walking := false }) false e 0
      | (s, .ok bs) =>
        let d := mdescOf bs
        if d.rsv then millError s
        else if d.op ≠ op then s
        else if sextN 64 (counter s d.gatecnt) < d.gateval then syncWaits s
        else syncWaits (act s d)

/-- A descriptor is in progress: MIL_ITEM names the next. -/
def millStart (s : State) : State :=
  let i := fld s Reg.MIL_ITEM Fld.MIL_ITEM_INDEX
  let s := if i = 4095 then mapMill s fun m => { m with past := true } else s
  setMilFld (setRegN s Reg.MIL_ITEM ((i + 1) % 4096)) Fld.MIL_STATUS_BUSY 1

/-- Read the records of an update: those that could be read, in order; another raises Blight and is left out (R384). -/
def readRecs (s : State) : List Nat → State × List Nat
  | [] => (s, [])
  | j :: t =>
    match checkRead s (precAddr s j) 64 with
    | (s, some e) => readRecs (stopConsumer s false e 0) t
    | (s, none) =>
      let r := readRecs s t
      (r.1, j :: r.2)

/-- UPDATE (R382, R383): FROZEN records are skipped, hold-mode records marked, the others' blocks begin. -/
def updateOf (s : State) (d : MDesc) : State :=
  match s.step.opened with
  | [] => s
  | x :: _ =>
    let js := (List.range d.count).map (· + d.first)
    if pcount s < d.first + d.count || js.any (x.named.contains ·) then millError s
    else
      let s := millStart (mapHead s fun x => { x with named := x.named ++ js })
      let (s, js) := readRecs s js
      let s := bump s Reg.MIL_FROZSKIP (js.countP fun j => (precAt s j).frozen)
      let live := js.filter fun j => !(precAt s j).frozen && !(precAt s j).hold
      let mats := live.filter fun j => (precAt s j).mclass ≠ 0
      let now := live.filter fun j => (precAt s j).mclass = 0 || mats.head? = some j
      millRun (setWork s (some { sig := d.sig, mats := mats, todo := now.flatMap (blocksFor s) }))

/-- UPDATE (R382). -/
def execUpdate (s : State) : Host.Outcome State Fault Refusal := finishWait s (millCmd s 1 updateOf)

/-- COMMIT (R382): the step's updates have ended; the descriptor completes at the resolution. -/
def commitOf (s : State) (d : MDesc) : State :=
  if s.step.opened.isEmpty then s else millStart (mapHead s fun x => { x with commit := some (d.outcnt, d.sig) })

def execCommit (s : State) : Host.Outcome State Fault Refusal := finishWait s (millCmd s 2 commitOf)

/-- MILL_END (R382): the walk stops until the next step frame 0. -/
def millEndOf (s : State) (_ : MDesc) : State := mapMill s fun m => { m with walking := false }

def execMillEnd (s : State) : Host.Outcome State Fault Refusal := finishWait s (millCmd s 0 millEndOf)

/-! ## The gate (R392 to R396) -/

/-- RUNTIME_COUNTER_TEST (R392): at the end of step frame CFRAME of an open step. -/
def runtimeTest (s : State) : State :=
  if fld s Reg.MIL_GATE Fld.MIL_GATE_RTEN = 1 && counter s (fld s Reg.MIL_GATE Fld.MIL_GATE_RTCNT) ≠ 0 then
    match s.step.opened.find? fun x => pindex s = x.start + cframe s with
    | some x => blightStep s x.start srcRuntime
    | none => s
  else s

def execRuntimeCounterTest (s : State) : Host.Outcome State Fault Refusal := finish s (runtimeTest s)

/-- A commit settles the blocks of a two-bin record (R395, step 2): answers the blocks to regenerate. -/
def settleTwo (s : State) (j : Nat) : State × List Nat :=
  let r := precAt s j
  match checkRead s r.tmap r.blocks with
  | (s, some e) => (stopConsumer s false e 0, [])
  | (s, none) => (List.range r.blocks).foldl (fun (acc : State × List Nat) k =>
    let t := tmapAt acc.1 r k
    let pend := bitN t tPend
    let again := pend || (r.wc2 && bitN t tPrev)
    let t' := putBits t tCur tCur (if bitN t tCur != pend then 1 else 0)
    let t' := putBits (putBits t' tPrev tPrev (if pend then 1 else 0)) tPend tTouch 0
    (setTmap acc.1 r k t', if again then acc.2 ++ [k] else acc.2)) (s, [])

/-- Clear map bits of every block of a record. -/
def clearMap (hi lo j : Nat) (s : State) : State :=
  let r := precAt s j
  match checkRead s r.tmap r.blocks with
  | (s, some e) => stopConsumer s false e 0
  | (s, none) => (List.range r.blocks).foldl (fun s k => setTmap s r k (putBits (tmapAt s r k) hi lo 0)) s

/-- One named record at a commit: a FROZEN one loses its TOUCH bits, a two-bin one is settled, a hold-mode one waits for
its update (R383, R395). -/
def commitRec (epoch : Nat) (s : State) (j : Nat) : State :=
  let r := precAt s j
  if r.frozen then clearMap tTouch tTouch j s
  else if r.hold then s
  else
    let x := settleTwo s j
    let s := putEpoch x.1 j epoch
    if x.2.isEmpty then s
    else mapMill s fun m => { m with res := m.res.map fun y => { y with regen := y.regen ++ [(j, x.2)] } }

/-- The blocks of hold-mode records that need no peer and no matrix job are updated at the commit itself (R395). -/
def runHoldNow : List MBlock → State → State
  | [], s => s
  | b :: t, s =>
    match s.mill.work with
    | none => s
    | some w =>
      runHoldNow t (if (precAt s b.rec_).mclass = 0 && !(precAt s b.rec_).remote s && blockDue s b then runMBlock s w b
        else s)

/-- The commit of a step (R395). -/
def commitStep (s : State) (x : OpenStep) : State :=
  let e := (reg64 s Reg.MIL_EPOCH_LO + 1) % 2 ^ 64
  let s := setReg64 s Reg.MIL_EPOCH_LO e
  let (s, js) := readRecs s (x.named.mergeSort (fun a b => decide (a ≤ b)))
  let holds := js.filter fun j => (precAt s j).hold && !(precAt s j).frozen
  let s := mapMill s fun m => { m with res := some { num := x.num, epoch := e, commit := x.commit, holds := holds } }
  let s := setMilFld s Fld.MIL_STATUS_REGEN 1
  let s := js.foldl (commitRec e) s
  if holds.isEmpty then settled s
  else
    let mats := holds.filter fun j => (precAt s j).mclass ≠ 0
    let now := holds.filter fun j => (precAt s j).mclass = 0 || mats.head? = some j
    let todo := now.flatMap (blocksFor s)
    let s := setWork s (some { hold := true, mats := mats, todo := todo })
    millRun (runHoldNow todo s)

/-- The discard of a step (R394, R395): later open steps are discarded too. -/
def discardStep (s : State) (x : OpenStep) : State :=
  let s := s.step.opened.foldl (fun s y => blightStep s y.start srcCascade) s
  let (s, js) := readRecs s (x.named.mergeSort (fun a b => decide (a ≤ b)))
  let s := js.foldl (fun s j => clearMap (if (precAt s j).frozen then tTouch else tPend) tTouch j s) s
  let s := outcome s x.commit 2
  let s := raise (bump s Reg.MIL_DISCARDS 1) Reg.MIL_INTSTAT Fld.MIL_INTSTAT_DISCARD.bit
  stepEnded s

/-- MIL_LASTB after a resolution (R394). -/
def lastb (s : State) (x : OpenStep) : State :=
  setRegN s Reg.MIL_LASTB (2 ^ 31 + (if x.bad then 2 ^ 30 else 0) + x.blight % 256)

/-- STEP_RESOLVE (R394): the earliest open step at the tick of its step frame CFRAME + H + 1. -/
def stepResolve (s : State) : State :=
  match s.step.opened with
  | [] => s
  | x :: t =>
    if pindex s < x.start + cframe s + horizon s + 1 || s.mill.res.isSome then s
    else
      let s := { s with step := { s.step with opened := t } }
      let s := setMilFld (setWork s none) Fld.MIL_STATUS_DRY 0
      let s := syncMill (lastb s x)
      if x.bad then discardStep s x else commitStep s x

def execStepResolve (s : State) : Host.Outcome State Fault Refusal := finishWait s (stepResolve s)

/-! ## Working copies (R398 to R400) -/

/-- The working copy of a block: its bytes from the master's, and the events (R398). -/
def wcBlock (strict : Bool) (r : PRec) (num j k : Nat) (bs : List Byte) : List Byte × Ev :=
  let es := ((masterElems r bs (r.blkLen k)).zipIdx).map fun (m, i) =>
    numEncode (fmtD r.wfmt) strict (match r.wcrm with
      | 1 => .rtz
      | 2 => .sr
      | _ => .rne) (if r.wcrm = 2 then srBits num (0xFFFF0000 + j) (1024 * k + i) else 0) (f32 m.1)
  (es.flatMap fun e => leBytes r.wWc e.1, es.foldl (fun a e => evAdd a e.2) {})

/-- Regenerate one block (R398). -/
def regenBlock (x : Resolve) (j : Nat) (s : State) (k : Nat) : State :=
  let r := precAt s j
  let p := r.place r.master r.wMaster (curBin s r k) k
  let got : State × Except Bad (List Byte) := match x.arrived.find? fun y => y.1 = j && y.2.1 = k with
    | some y => (s, .ok (y.2.2.take p.2))
    | none => load s p.1 p.2
  match got with
  | (s, .error e) => stopConsumer s false e 0
  | (s, .ok bs) =>
    let o := wcBlock (strictMode s) r x.num j k bs
    let s := numEvB s (laneSet j k) o.2
    match storeSeg s ((if r.wc2 && x.epoch % 2 = 1 then r.wc1 else r.wc0) + 1024 * k * r.wWc) o.1 with
    | (s, some e) => stopConsumer s false e 0
    | (s, none) => s

/-- A record may be regenerated now: its fence is zero and what it needs of a peer has come. -/
def regenReady (s : State) (x : Resolve) (y : Nat × List Nat) : Bool :=
  fenceOf s x.epoch y.1 = 0 && (!(precAt s y.1).remote s
    || y.2.all fun k => x.arrived.any fun z => z.1 = y.1 && z.2.1 = k)

/-- WC_REGENERATION (R400). -/
def wcRegen (s : State) : State :=
  match s.mill.res, s.mill.work with
  | some x, none =>
    let now := x.regen.filter (regenReady s x)
    let s := now.foldl (fun s y => y.2.foldl (regenBlock x y.1) s) s
    let x := { x with regen := x.regen.filter fun y => !(now.contains y) }
    let s := mapMill s fun m => { m with res := some x }
    if x.regen.isEmpty then commitEnd s x else syncWaits s
  | _, _ => s

def execWcRegeneration (s : State) : Host.Outcome State Fault Refusal := finishWait s (wcRegen s)

/-- FENCE_STALL (R400): once for a regeneration that has waited FSTALL program frames. -/
def fenceStall (s : State) : State :=
  let lim := fld s Reg.MIL_CTRL Fld.MIL_CTRL_FSTALL
  match s.mill.res with
  | none => s
  | some x =>
    if lim ≠ 0 && lim ≤ x.frames && !x.stalled && fenceWaits s then
      raise (mapMill s fun m => { m with res := some { x with stalled := true } }) Reg.MIL_INTSTAT
        Fld.MIL_INTSTAT_FENCESTALL.bit
    else s

def execFenceStall (s : State) : Host.Outcome State Fault Refusal := finish s (fenceStall s)

/-- A program frame begins while a regeneration waits on a fence (R400). -/
def fenceFrame (s : State) : State :=
  if fenceWaits s then mapRes s fun x => { x with frames := x.frames + 1 } else s

/-- The Mill has not reached the COMMIT of an open step at its step frame CFRAME (R385). -/
def millLate (s : State) : Bool :=
  s.step.opened.any fun x => pindex s = x.start + cframe s && x.commit.isNone

end Sys2Proof.Machine
end

