-- ==== Sys2Proof/Machine/Stash.lean ====
section
/-! DEFINITION. The stash engine (R329 to R344). -/

namespace Sys2Proof.Machine

/-! ## The stash table (R329 to R331) -/

structure StEnt where
  cls : Nat
  counter : Nat
  ckpt : Nat
  home : Nat
  lines : Nat
  stow : Nat
  use_ : Nat
  last : Nat
  state : Nat
  spillat : Nat
  rsv : Bool
  deriving DecidableEq, Repr

def stentOf (bs : List Byte) : StEnt :=
  let w := leAt bs 0 8
  { cls := bitsN w 63 62, counter := bitsN w 61 52, ckpt := bitsN w 51 40, home := w % 2 ^ 40
    lines := bitsN (leAt bs 8 4) 20 0, stow := leAt bs 12 2, use_ := leAt bs 14 2, last := leAt bs 16 2
    state := leAt bs 18 1, spillat := leAt bs 24 8, rsv := bitsN (leAt bs 8 4) 31 21 ≠ 0 || leAt bs 19 5 ≠ 0 }

def stCount (s : State) : Nat := fld s Reg.LFT_STCTRL Fld.LFT_STCTRL_COUNT
def stAddr (s : State) (e : Nat) : Nat := reg64 s Reg.LFT_STBASE_LO + 32 * e
def stAt (s : State) (e : Nat) : StEnt := stentOf (peek s (stAddr s e) 32)
def stAhead (s : State) : Nat := fld s Reg.LFT_STCTRL Fld.LFT_STCTRL_AHEAD

def setStState (v : Nat) (s : State) (e : Nat) : State := poke s (stAddr s e + 18) [BitVec.ofNat 8 v]

def esEmpty : Nat := 0
def esHome : Nat := 1
def esSpilling : Nat := 2
def esSpilled : Nat := 3
def esRestoring : Nat := 4
def esDropped : Nat := 5
def esDead : Nat := 6

/-! ## Claims (R333) -/

/-- k lies in the entry's idle window. -/
def inIdle (ahead : Nat) (e : StEnt) (k : Nat) : Bool := e.stow < k && k + ahead < e.use_

/-- The relative frame in which the use claim begins. -/
def useBegin (ahead : Nat) (e : StEnt) : Nat := max (e.use_ - ahead) (e.stow + 1)

/-- The entry occupies its home at frame k. -/
def occupies (ahead : Nat) (e : StEnt) (k : Nat) : Bool :=
  e.stow ≤ k && k ≤ e.last && (!inIdle ahead e k || e.state = esHome)

def movable (ahead : Nat) (e : StEnt) (k : Nat) : Bool := e.state = esHome && inIdle ahead e k

/-- A claim of the entry begins at frame k (R334). -/
def claims (ahead : Nat) (e : StEnt) (k : Nat) : Bool :=
  e.stow = k || (useBegin ahead e = k && e.state ≠ esHome && e.state ≠ esDead)

def homesMeet (a b : StEnt) : Bool := meets (a.home, 4096 * a.lines) (b.home, 4096 * b.lines)

/-! ## Spill space (R335) -/

/-- A region: whether it is there, its lines and its global address. The Granary region is a registered object of CLASS 3
(R261, R335). -/
def regionOf (s : State) (peer : Bool) : Bool × Nat × Nat :=
  if peer then
    let a := reg64 s Reg.LFT_STPEER_LO
    (a ≠ 0, fld s Reg.LFT_STPEERLEN Fld.LFT_STPEERLEN_LINES, a)
  else
    let j := fld s Reg.LFT_STREGION Fld.LFT_STREGION_OBJ
    let o := objAt s j
    (fld s Reg.LFT_STREGION Fld.LFT_STREGION_VALID = 1 && s.loft.objs.contains j && o.cls = 3, cdiv o.len 4096,
      deviceId s * 2 ^ 40 + o.base)

/-- The lowest run of free lines of a region that fits. -/
def lowestRun (runs : List SpillRun) (peer : Bool) (size lines : Nat) : Option Nat :=
  let mine := runs.filter fun x => x.peer = peer
  let fit (a : Nat) : Bool := a + lines ≤ size && !(mine.any fun x => meets (a, lines) (x.start, x.lines))
  (0 :: mine.map fun x => x.start + x.lines).foldl (fun (best : Option Nat) a =>
    if fit a then (match best with
      | none => some a
      | some b => some (min a b)) else best) none

/-- Space for a spill: the Granary region first, then the peer's. -/
def placeSpill (s : State) (runs : List SpillRun) (e lines : Nat) : Option SpillRun :=
  let at_ (peer : Bool) : Option SpillRun :=
    let r := regionOf s peer
    if r.1 then (lowestRun runs peer r.2.1 lines).map fun a => ⟨e, peer, a, lines⟩ else none
  match at_ false with
  | some x => some x
  | none => at_ true

/-! ## Home lines in use (R343) -/

def syncLive (s : State) : State :=
  let n := ((List.range (stCount s)).map fun e =>
    let x := stAt s e
    if x.state = esHome || x.state = esSpilling || x.state = esRestoring then x.lines else 0).sum
  let s := setRegN s Reg.LFT_STLIVE (n % 2 ^ 21)
  setRegN s Reg.LFT_STPEAK (max (regN s Reg.LFT_STPEAK) (n % 2 ^ 21))

/-! ## A boundary (R334 to R337) -/

/-- Entries past their last frame die; stows and use claims that begin now take their homes (R334, R336, R338). -/
def enterFrame (r : Nat) (s : State) (e : Nat) : State :=
  let x := stAt s e
  if x.last < r then setStState esDead s e
  else if x.stow = r then setStState esHome s e
  else if useBegin (stAhead s) x = r then
    if x.state = esDropped then setStState esHome s e
    else if x.state = esSpilled then
      let s := setStState esRestoring s e
      match s.stash.runs.find? fun y => y.entry = e with
      | some y =>
        if y.peer then askPeer (gDevice x.spillat) (2 ^ 40 + 2 * e) s (gOffset x.spillat, 4096 * x.lines) else s
      | none => s
    else s
  else s

/-- What an evaluation finds: entries to spill with their space, and entries to drop; or why it fails. -/
inductive Plan where
  | go (spills : List SpillRun) (drops : List Nat)
  | blocked (claim by_ : Nat)
  | noSpace (claim : Nat)
  deriving DecidableEq, Repr

/-- The occupants of a claim's home at frame k. -/
def occupants (s : State) (k c : Nat) : List Nat :=
  (List.range (stCount s)).filter fun e =>
    e ≠ c && homesMeet (stAt s e) (stAt s c) && occupies (stAhead s) (stAt s e) k

/-- Evaluate every claim that begins at frame k (R334). -/
def evaluate (s : State) (k : Nat) : Plan :=
  let es := List.range (stCount s)
  let cs := es.filter fun e => claims (stAhead s) (stAt s e) k
  let stuck := cs.findSome? fun c =>
    ((occupants s k c).find? fun e => (stAt s e).cls = 0 || !movable (stAhead s) (stAt s e) k).map fun e => (c, e)
  match stuck with
  | some (c, e) => .blocked c e
  | none =>
    let movers := es.filter fun e => cs.any fun c => (occupants s k c).contains e
    let free := s.stash.runs.filter fun x => (stAt s x.entry).state ≠ esDead && k ≤ (stAt s x.entry).use_
    let got := (movers.filter fun e => (stAt s e).cls = 1).foldl
      (fun (acc : List SpillRun × Option Nat) e =>
        match acc.2 with
        | some _ => acc
        | none =>
          match placeSpill s (free ++ acc.1) e (stAt s e).lines with
          | some x => (acc.1 ++ [x], none)
          | none => (acc.1, some e)) ([], none)
    match got.2 with
    | some e => .noSpace ((cs.find? fun c => (occupants s k c).contains e).getD 0)
    | none => .go got.1 (movers.filter fun e => (stAt s e).cls = 2)

/-- Begin a spill (R335). -/
def startSpill (s : State) (x : SpillRun) : State :=
  let g := (regionOf s x.peer).2.2 + 4096 * x.start
  let s := poke (setStState esSpilling s x.entry) (stAddr s x.entry + 24) (leBytes 8 g)
  let s := { s with stash := { s.stash with
    runs := (s.stash.runs.filter fun y => y.entry ≠ x.entry) ++ [x] } }
  if x.peer then raise (bump s Reg.LFT_STSPILLP x.lines) Reg.LFT_STINT Fld.LFT_STINT_SPILLP.bit
  else raise (bump s Reg.LFT_STSPILLG x.lines) Reg.LFT_STINT Fld.LFT_STINT_SPILL.bit

/-- Drop an entry (R336). -/
def dropEntry (s : State) (e : Nat) : State :=
  let key := eventKey s 0
  let s := countEvent (setStState esDropped s e)
  let s := { s with stash := { s.stash with drops := s.stash.drops ++ [(key, e)] } }
  addCnt (raise (bump s Reg.LFT_STDROPS 1) Reg.LFT_STINT Fld.LFT_STINT_DROP.bit) (stAt s e).counter 1

/-- The stash is exhausted (R337). -/
def exhausted (s : State) (rec_ : Nat) : State :=
  let s := raise (setRegN s Reg.LFT_STEXH rec_) Reg.LFT_STINT Fld.LFT_STINT_EXHAUST.bit
  endJob (preemptAll (raiseBlight s srcStash)) 6 0

/-- The engine reads the stash table before it acts (R496). -/
def withTable (s : State) (go : State → State) : State := guardRead s (stAddr s 0) (32 * stCount s) go

/-- The engine's work at the boundary that begins relative frame r (R332, R334). -/
def stashWork (r : Nat) (s : State) : State :=
  let s := setRegN s Reg.LFT_STFRAME (r % 65536)
  let t := (List.range (stCount s)).foldl (enterFrame r) s
  match evaluate t (r + 1) with
  | .blocked c e => exhausted s (2 ^ 31 + 2 ^ 16 * e + c)
  | .noSpace c => exhausted s (2 ^ 31 + 2 ^ 28 + c)
  | .go spills drops => syncLive (drops.foldl dropEntry (spills.foldl startSpill (freeRuns t r)))
where
  /-- Space of dead entries and of those restored by their USEPF is free (R335). -/
  freeRuns (s : State) (r : Nat) : State :=
    { s with stash := { s.stash with runs := s.stash.runs.filter fun x =>
        (stAt s x.entry).state ≠ esDead && r < (stAt s x.entry).use_ } }

/-- Relative frame r begins. -/
def stashFrame (s : State) (r : Nat) : State := withTable s (stashWork r)

/-- A SETSTEP makes every entry EMPTY and frees all spill space (R332). -/
def stashReset (s : State) : State :=
  let s := (List.range (stCount s)).foldl (setStState esEmpty) s
  stashFrame { s with stash := { s.stash with runs := [], peer := [] } } 0

/-! ## Transfers (R338, R340) -/

/-- Copy lines byte by byte; a line that cannot be read is not written, and its reader stops as R497 says. -/
def copyLines (src dst : Nat) (s : State) (i : Nat) : State :=
  match load s (src + 4096 * i) 4096 with
  | (s, .error b) => stopConsumer s false b 0
  | (s, .ok bs) =>
    match storeSeg s (dst + 4096 * i) bs with
    | (s, some b) => stopConsumer s false b 0
    | (s, none) => s

/-- Read an entry's home for the peer region. -/
def readHome (src : Nat) (acc : State × List Byte) (i : Nat) : State × List Byte :=
  match load acc.1 (src + 4096 * i) 4096 with
  | (s, .error b) => (stopConsumer s false b 0, acc.2 ++ List.replicate 4096 0#8)
  | (s, .ok bs) => (s, acc.2 ++ bs)

/-- The home of an entry holds what its producer writes: its stow frame is over, or every item of the frame has retired
(DEDUCED, log entry 129: a spill moves exact copies, R340). -/
def stowed (s : State) (x : StEnt) : Bool :=
  s.step.rel ≠ some x.stow || (presented s).all (boughRetired s)

/-- A spill finishes: the entry becomes SPILLED (R338). -/
def spillDone (s : State) (e : Nat) : State :=
  let x := stAt s e
  if stCount s ≤ e || x.state ≠ esSpilling || !stowed s x then s
  else
    match s.stash.runs.find? fun y => y.entry = e with
    | none => s
    | some y =>
      if y.peer then
        let r := (List.range x.lines).foldl (readHome x.home) (s, [])
        let s := tellPeer (gDevice x.spillat) (2 ^ 40 + 2 * e + 1) r.1 (gOffset x.spillat) r.2
        let s := { s with stash := { s.stash with peer := aput s.stash.peer e r.2 } }
        syncLive (setStState esSpilled s e)
      else
        let s := (List.range x.lines).foldl (copyLines x.home (gOffset x.spillat)) s
        syncLive (setStState esSpilled s e)

def execStashSpillDone (e : Nat) (s : State) : Host.Outcome State Fault Refusal := finishWait s (withTable s fun s => spillDone s e)

/-- A restore finishes: the entry is HOME again (R338). -/
def restoreDone (s : State) (e : Nat) : State :=
  let x := stAt s e
  if stCount s ≤ e || x.state ≠ esRestoring then s
  else
    let s := match kfind s.stash.peer e with
      | some bs =>
        match storeSeg s x.home bs with
        | (s, some b) => stopConsumer s false b 0
        | (s, none) => { s with stash := { s.stash with peer := adel s.stash.peer e } }
      | none => (List.range x.lines).foldl (copyLines (gOffset x.spillat) x.home) s
    syncLive (bump (setStState esHome s e) Reg.LFT_STRESTORE x.lines)

def execStashRestoreDone (e : Nat) (s : State) : Host.Outcome State Fault Refusal := finishWait s (withTable s fun s => restoreDone s e)

/-- A transfer that is work of the running frame has not finished (R338). -/
def stashLate (s : State) : Bool :=
  match s.step.rel with
  | none => false
  | some r => (List.range (stCount s)).any fun e =>
      (stAt s e).state = esSpilling || ((stAt s e).state = esRestoring && (stAt s e).use_ ≤ r + 1)

end Sys2Proof.Machine
end

