-- ==== Sys2Proof/Machine/Wain.lean ====
section
/-! DEFINITION. Expert exchange by the Wain (R346 to R358), and SETSTEP (R134, R332, R362). -/

namespace Sys2Proof.Machine

/-! ## Placement tables (R346, R347) -/

structure Member where
  dev : Nat
  nslot : Nat
  rbase : Nat
  retbase : Nat
  deriving DecidableEq, Repr

structure Place where
  nmem : Nat
  nexp : Nat
  me : Nat
  cap : Nat
  mems : List Member
  /-- Member and slot of each expert. -/
  exps : List (Nat × Nat)
  rsv : Bool
  deriving DecidableEq, Repr

def placeOf (h ms es : List Byte) : Place :=
  let nm := leAt h 0 2
  let ne := leAt h 2 2
  { nmem := nm, nexp := ne, me := leAt h 4 2, cap := leAt h 8 2
    mems := (List.range nm).map fun i =>
      ⟨bitsN (leAt ms (16 * i) 3) 17 0, leAt ms (16 * i + 3) 1, leAt ms (16 * i + 4) 5, leAt ms (16 * i + 9) 5⟩
    exps := (List.range ne).map fun i =>
      (bitsN (leAt es (4 * i) 4) 15 0, bitsN (leAt es (4 * i) 4) 21 16)
    rsv := leAt h 6 2 ≠ 0 || leAt h 10 54 ≠ 0
      || (List.range nm).any (fun i => bitsN (leAt ms (16 * i) 3) 23 18 ≠ 0 || leAt ms (16 * i + 14) 2 ≠ 0)
      || (List.range ne).any (fun i => bitsN (leAt es (4 * i) 4) 31 22 ≠ 0) }

/-- An invalid placement table (R346). -/
def placeBad (p : Place) : Bool :=
  p.rsv || p.nmem = 0 || 4096 < p.nmem || p.nexp = 0 || 4096 < p.nexp || p.nmem ≤ p.me || p.cap = 0
    || p.mems.any (fun m => 64 < m.nslot)
    || p.exps.any (fun e => !((p.mems[e.1]?).any fun m => e.2 < m.nslot))
    || p.exps.eraseDups.length ≠ p.exps.length || (p.mems.map (·.nslot)).sum ≠ p.exps.length

/-- share_i and start_i (R347). -/
def Place.share (p : Place) (i : Nat) : Nat := p.cap / p.nmem + (if i < p.cap % p.nmem then 1 else 0)
def Place.start (p : Place) (i : Nat) : Nat := i * (p.cap / p.nmem) + min i (p.cap % p.nmem)

/-- The expert that a member hosts in a slot. -/
def Place.expertAt (p : Place) (m slot : Nat) : Nat := p.exps.findIdx fun e => e = (m, slot)

/-! ## Descriptors (R348) -/

structure WDesc where
  op : Nat
  a : Nat
  fmt : Nat
  gatecnt : Nat
  cartid : Nat
  tokens : Nat
  cseq : Nat
  gateval : Int
  rld : Nat
  route : Nat
  sld : Nat
  src : Nat
  dld : Nat
  dst : Nat
  ptab : Nat
  tok : Nat
  sig : Nat
  rsv : Bool
  deriving DecidableEq, Repr

def wdescOf (bs : List Byte) : WDesc :=
  let w (i : Nat) : Nat := leAt bs (4 * i) 4
  let q (o : Nat) : Nat := leAt bs o 8
  let op := bitsN (w 0) 31 28
  let fmt := bitsN (w 0) 25 22
  { op := op, a := bitsN (w 0) 27 26 + 1, fmt := fmt, gatecnt := bitsN (w 0) 21 12, cartid := bitsN (w 1) 31 16
    tokens := bitsN (w 1) 15 0, cseq := w 2, gateval := sextN 32 (w 3), rld := bitsN (q 16) 55 40
    route := q 16 % 2 ^ 40, sld := bitsN (q 24) 55 40, src := q 24 % 2 ^ 40, dld := bitsN (q 32) 55 40
    dst := q 32 % 2 ^ 40, ptab := q 40 % 2 ^ 40, tok := leAt bs 54 2, sig := leAt bs 56 4
    rsv := 5 ≤ op || bitsN (w 0) 11 0 ≠ 0 || bitsN (q 16) 63 56 ≠ 0 || bitsN (q 24) 63 56 ≠ 0
      || bitsN (q 32) 63 56 ≠ 0 || bitsN (q 40) 63 40 ≠ 0 || leAt bs 48 6 ≠ 0 || leAt bs 60 4 ≠ 0
      || bitN (leAt bs 56 4) 30 || bitN (leAt bs 56 4) 23
      || (if op = 3 then fmt ≠ 5 && fmt ≠ 7 else fmt ≠ 0) || (op ≠ 0 && leAt bs 54 2 % 64 ≠ 0) }

def setWanFld (s : State) (f : Fld) (v : Nat) : State := setFld s Reg.WAN_STATUS f v

/-- Read the placement table; none when a range leaves R254 or the table is invalid. -/
def loadPlace (s : State) (a : Nat) : State × Except Bad (Option Place) :=
  if !rangeOk s a 64 || a % 64 ≠ 0 then (s, .ok none)
  else
    match load s a 64 with
    | (s, .error b) => (s, .error b)
    | (s, .ok h) =>
      let nm := leAt h 0 2
      let ne := leAt h 2 2
      if 4096 < nm || 4096 < ne || !rangeOk s a (64 + 16 * nm + 4 * ne) then (s, .ok none)
      else
        match load s (a + 64) (16 * nm + 4 * ne) with
        | (s, .error b) => (s, .error b)
        | (s, .ok t) =>
          let p := placeOf h (t.take (16 * nm)) (t.drop (16 * nm))
          (s, .ok (if placeBad p then none else some p))

/-- The Wain's reader stops at a codeword (R496): the walk goes no further. -/
def wainUncorr (s : State) (b : Bad) : State :=
  stopConsumer { s with wain := { s.wain with walking := false } } false b 0

/-- A descriptor is in progress: WAN_ITEM names the next. -/
def wainStart (s : State) : State :=
  let i := fld s Reg.WAN_ITEM Fld.WAN_ITEM_INDEX
  let s := if i = 4095 then { s with wain := { s.wain with past := true } } else s
  setWanFld (setRegN s Reg.WAN_ITEM ((i + 1) % 4096)) Fld.WAN_STATUS_BUSY 1

/-- The Wain starts the descriptor it stands at when it is of the asked kind and its gate is met (R348, R355). -/
def wainCmd (s : State) (op : Nat) (act : State → WDesc → Place → State) : State :=
  if !s.wain.walking || fld s Reg.WAN_STATUS Fld.WAN_STATUS_BUSY = 1 then s
  else
    let a := reg64 s Reg.WAN_PBASE_LO + 64 * fld s Reg.WAN_ITEM Fld.WAN_ITEM_INDEX
    if s.wain.past || !rangeOk s a 64 then wainError s
    else
      match load s a 64 with
      | (s, .error b) => wainUncorr s b
      | (s, .ok bs) =>
        let d := wdescOf bs
        if d.rsv then wainError s
        else if d.op ≠ op then s
        else if sextN 64 (counter s d.gatecnt) < d.gateval then setWanFld s Fld.WAN_STATUS_GATED 1
        else
          let s := setWanFld s Fld.WAN_STATUS_GATED 0
          if op = 0 then { s with wain := { s.wain with walking := false } }
          else
            match loadPlace s d.ptab with
            | (s, .error b) => wainUncorr s b
            | (s, .ok none) => wainError s
            | (s, .ok (some p)) =>
              if (List.range p.nmem).any fun m => (cart s (d.cartid + m)).isSome then s
              else wainSettle (act s d p)

/-- WAIN_END (R349). -/
def execWainEnd (s : State) : Host.Outcome State Fault Refusal := finishWait s (wainCmd s 0 fun s _ _ => s)

/-! ## Carts (R351, R352) -/

/-- A run of rows of a cart: where it lands and its bytes, cut into segments. -/
def cutRun (x : Nat × List Byte) : List (Nat × List Byte) :=
  (List.range (cdiv x.2.length 512)).map fun i => (x.1 + 512 * i, (x.2.drop (512 * i)).take 512)

/-- Write the segments of a cart that lands here. -/
def landRuns (s : State) : List (Nat × List Byte) → State × Option Bad
  | [] => (s, none)
  | (a, bs) :: t =>
    match storeSeg s a bs with
    | (s, some b) => (s, some b)
    | (s, none) => landRuns s t

/-- Send cart CARTID + m with the runs for member m: rows for this device are written at once and their landing signals
here, the others wait for slots. -/
def sendRuns (d : WDesc) (p : Place) (s : State) (m : Nat) (runs : List (Nat × List Byte)) : State :=
  match p.mems[m]? with
  | none => s
  | some x =>
    let parts := runs.flatMap cutRun
    if parts.isEmpty then s
    else if x.dev = deviceId s then
      match landRuns s parts with
      | (s, some b) => stopConsumer s false b 0
      | (s, none) => sendField s d.sig
    else
      let c : CartSt := { bough := none, entry := 0, op := 0, dtype := 0, rop := 0, reten := false, ff := false
                          cseq := d.cseq, len := (parts.map (·.2.length)).sum, src := deviceId s * 2 ^ 40
                          dst := x.dev * 2 ^ 40, ret := 0, rsig := d.sig, pframe := pindex s
                          segs := parts.map (fun _ => .unsent), parts := parts }
      let s := setCart s (d.cartid + m) c
      { s with wain := { s.wain with carts := s.wain.carts ++ [d.cartid + m] } }

/-- Local rows that a member's rows for this device would land outside of memory. -/
def landBad (s : State) (p : Place) (runs : Nat → List (Nat × Nat)) : Bool :=
  (List.range p.nmem).any fun m => (p.mems[m]?).any fun x =>
    x.dev = deviceId s && (runs m).any fun r => !rangeOk s r.1 r.2

/-! ## DISPATCH and REDISPATCH (R350, R351, R354) -/

/-- An accepted assignment: expert, place, value; none when it was dropped. -/
abbrev Assign := Option (Nat × Nat × Nat)

/-- Routing in progress: places taken by expert, and the counts of accepted, fallback and dropped. -/
structure Routing where
  taken : List (Nat × Nat) := []
  acc : Nat := 0
  fall : Nat := 0
  drop : Nat := 0
  recs : List (List Assign) := []
  deriving DecidableEq, Repr

/-- One assignment: candidate j, then fallback A + j (R350). -/
def assign (p : Place) (a : Nat) (cands : List (Nat × Nat)) (x : Routing × List Assign) (j : Nat) :
    Routing × List Assign :=
  let room (c : Nat) : Option (Nat × Nat × Nat) :=
    match cands[c]? with
    | none => none
    | some (v, e) =>
      let n := (kfind x.1.taken e).getD 0
      if e < p.nexp && n < p.share p.me then some (e, n, v) else none
  let take (y : Nat × Nat × Nat) (f : Nat) : Routing × List Assign :=
    ({ x.1 with taken := kins y.1 (y.2.1 + 1) x.1.taken, acc := x.1.acc + 1, fall := x.1.fall + f }, x.2 ++ [some y])
  match room j with
  | some y => take y 0
  | none =>
    match room (a + j) with
    | some y => take y 1
    | none => ({ x.1 with drop := x.1.drop + 1 }, x.2 ++ [none])

/-- The candidates of a TOPK row: values and indices (R245, R350). -/
def candsOf (k : Nat) (bs : List Byte) : List (Nat × Nat) :=
  (List.range k).map fun i => (leAt bs (4 * i) 4, leAt bs (4 * k + 4 * i) 4)

def routeToken (p : Place) (a : Nat) (x : Routing) (bs : List Byte) : Routing :=
  let y := (List.range a).foldl (assign p a (candsOf (2 * a) bs)) (x, [])
  { y.1 with recs := y.1.recs ++ [y.2] }

/-- Read one row a token. -/
def loadRows (s : State) (base pitch n : Nat) : Nat → State × Except Bad (List (List Byte))
  | 0 => (s, .ok [])
  | k + 1 =>
    match loadRows s base pitch n k with
    | (s, .error b) => (s, .error b)
    | (s, .ok xs) =>
      match load s (base + k * pitch) n with
      | (s, .error b) => (s, .error b)
      | (s, .ok x) => (s, .ok (xs ++ [x]))

/-- Rows at a base and pitch lie in memory. -/
def rowsOk (s : State) (base pitch n count : Nat) : Bool := count = 0 || rangeOk s base ((count - 1) * pitch + n)

/-- The routing record of a token (R350). -/
def recBytes (r : List Assign) : List Byte :=
  r.flatMap fun x => match x with
    | some (e, q, v) => leBytes 2 e ++ leBytes 2 q ++ leBytes 4 v
    | none => leBytes 2 0xFFFF ++ leBytes 6 0

/-- The assignments of a routing record. -/
def recOf (a : Nat) (bs : List Byte) : List Assign :=
  (List.range a).map fun j =>
    if leAt bs (8 * j) 2 = 0xFFFF then none else some (leAt bs (8 * j) 2, leAt bs (8 * j + 2) 2, leAt bs (8 * j + 4) 4)

/-- The runs for member m: for each of its slots the rows of this member, zero rows in unused places (R351). -/
def dispatchRuns (p : Place) (tok : Nat) (rows : List (List Byte)) (recs : List (List Assign)) (m : Nat) :
    List (Nat × List Byte) :=
  match p.mems[m]? with
  | none => []
  | some x => (List.range x.nslot).map fun slot =>
      let e := p.expertAt m slot
      let row (q : Nat) : List Byte :=
        match (recs.zip rows).find? fun y => y.1.any fun z => z.any fun w => w.1 = e && w.2.1 = q with
        | some y => y.2
        | none => List.replicate tok 0#8
      (x.rbase + (slot * p.cap + p.start p.me) * tok, (List.range (p.share p.me)).flatMap row)

/-- Where the runs for member m land. -/
def dispatchPlaces (p : Place) (tok m : Nat) : List (Nat × Nat) :=
  match p.mems[m]? with
  | none => []
  | some x => (List.range x.nslot).map fun slot =>
      (x.rbase + (slot * p.cap + p.start p.me) * tok, p.share p.me * tok)

/-- Send the rows of tokens along their assignments. -/
def sendRows (d : WDesc) (p : Place) (recs : List (List Assign)) (s : State) : State :=
  match loadRows s d.src (64 * d.sld) d.tok d.tokens with
  | (s, .error b) => wainUncorr s b
  | (s, .ok rows) =>
    (List.range p.nmem).foldl (fun s m => sendRuns d p s m (dispatchRuns p d.tok rows recs m)) s

/-- DISPATCH (R350, R351). -/
def dispatchOf (s : State) (d : WDesc) (p : Place) : State :=
  let k := 2 * d.a
  if !rowsOk s d.route (64 * d.rld) (8 * k) d.tokens || !rowsOk s d.src (64 * d.sld) d.tok d.tokens
      || !rowsOk s d.dst (8 * d.a) (8 * d.a) d.tokens || landBad s p (dispatchPlaces p d.tok) then wainError s
  else
    let s := wainStart s
    match loadRows s d.route (64 * d.rld) (8 * k) d.tokens with
    | (s, .error b) => wainUncorr s b
    | (s, .ok cs) =>
      let r := cs.foldl (routeToken p d.a) {}
      let s := bump (bump (bump s Reg.WAN_TOKENS r.acc) Reg.WAN_FALLBACK r.fall) Reg.WAN_DROPS r.drop
      let s := if r.fall ≠ 0 then raise s Reg.WAN_INTSTAT Fld.WAN_INTSTAT_FALLBACK.bit else s
      let s := if r.drop ≠ 0 then raise s Reg.WAN_INTSTAT Fld.WAN_INTSTAT_DROP.bit else s
      match storeSeg s d.dst (r.recs.flatMap recBytes) with
      | (s, some b) => wainUncorr s b
      | (s, none) => sendRows d p r.recs s

def execDispatch (s : State) : Host.Outcome State Fault Refusal := finishWait s (wainCmd s 1 dispatchOf)

/-- REDISPATCH (R354). -/
def redispatchOf (s : State) (d : WDesc) (p : Place) : State :=
  if !rowsOk s d.route (8 * d.a) (8 * d.a) d.tokens || !rowsOk s d.src (64 * d.sld) d.tok d.tokens
      || landBad s p (dispatchPlaces p d.tok) then wainError s
  else
    match loadRows (wainStart s) d.route (8 * d.a) (8 * d.a) d.tokens with
    | (s, .error b) => wainUncorr s b
    | (s, .ok rs) => sendRows d p (rs.map (recOf d.a)) s

def execRedispatch (s : State) : Host.Outcome State Fault Refusal := finishWait s (wainCmd s 4 redispatchOf)

/-! ## RETURN (R352) -/

/-- Where the rows for member i go, and where each run is read. -/
def returnPlaces (d : WDesc) (p : Place) (i : Nat) : List (Nat × Nat × Nat) :=
  match p.mems[p.me]?, p.mems[i]? with
  | some me, some x => (List.range me.nslot).map fun slot =>
      let e := p.expertAt p.me slot
      (x.retbase + e * p.share i * d.tok, d.src + (slot * p.cap + p.start i) * d.tok, p.share i * d.tok)
  | _, _ => []

/-- Read the runs of one member. -/
def loadRuns (s : State) : List (Nat × Nat × Nat) → State × Except Bad (List (Nat × List Byte))
  | [] => (s, .ok [])
  | (a, src, n) :: t =>
    match load s src n with
    | (s, .error b) => (s, .error b)
    | (s, .ok bs) =>
      match loadRuns s t with
      | (s, .error b) => (s, .error b)
      | (s, .ok xs) => (s, .ok ((a, bs) :: xs))

/-- RETURN (R352). -/
def returnOf (s : State) (d : WDesc) (p : Place) : State :=
  if (List.range p.nmem).any (fun i => (returnPlaces d p i).any fun x => x.2.2 ≠ 0 && !rangeOk s x.2.1 x.2.2)
      || landBad s p (fun i => (returnPlaces d p i).map fun x => (x.1, x.2.2)) then wainError s
  else
    (List.range p.nmem).foldl (fun s i =>
      match loadRuns s (returnPlaces d p i) with
      | (s, .error b) => wainUncorr s b
      | (s, .ok runs) => sendRuns d p s i runs) (wainStart s)

def execReturnRows (s : State) : Host.Outcome State Fault Refusal := finishWait s (wainCmd s 2 returnOf)

/-! ## COMBINE (R353) -/

/-- Σ w × y of one element, in ascending assignment. Its overflows and squashes count in no numeric status set (DESIGN
CHOICE, log entry 77: R116 gives the Wain none). -/
def combineElem (strict : Bool) (f : Fmt) (w i : Nat) (xs : List (Nat × List Byte)) : Nat :=
  let sum := xs.foldl (fun acc (x : Nat × List Byte) =>
    let y := (numEncode .fp32 true .rne 0 (numDecode f (leAt x.2 (w * i) w))).1
    (fAdd strict acc (fMul strict x.1 y).1).1) 0
  (numEncode f strict .rne 0 (f32 sum)).1

/-- The returned rows of a token's accepted assignments. -/
def loadBack (s : State) (p : Place) (tok : Nat) : List Assign → State × Except Bad (List (Nat × List Byte))
  | [] => (s, .ok [])
  | none :: t => loadBack s p tok t
  | some (e, q, v) :: t =>
    match p.mems[p.me]? with
    | none => (s, .ok [])
    | some me =>
      match load s (me.retbase + (e * p.share p.me + q) * tok) tok with
      | (s, .error b) => (s, .error b)
      | (s, .ok bs) =>
        match loadBack s p tok t with
        | (s, .error b) => (s, .error b)
        | (s, .ok xs) => (s, .ok ((v, bs) :: xs))

/-- One token of a COMBINE; `none` once a reader or a writer has stopped. -/
def combineToken (d : WDesc) (p : Place) (acc : State × Option Bad) (x : List Assign × Nat) : State × Option Bad :=
  match acc with
  | (s, some b) => (s, some b)
  | (s, none) =>
    match loadBack s p d.tok x.1 with
    | (s, .error b) => (s, some b)
    | (s, .ok ys) =>
      let f := fmtD d.fmt
      let w := codeBits d.fmt / 8
      let row := (List.range (d.tok / w)).flatMap fun i => leBytes w (combineElem (strictMode s) f w i ys)
      storeSeg s (d.dst + 64 * x.2 * d.dld) row

/-- The returned rows that a routing record names lie in memory. -/
def backOk (s : State) (d : WDesc) (p : Place) (rs : List (List Assign)) : Bool :=
  rs.all fun r => r.all fun x => match x, p.mems[p.me]? with
    | some (e, q, _), some me => rangeOk s (me.retbase + (e * p.share p.me + q) * d.tok) d.tok
    | _, _ => true

/-- COMBINE (R353). -/
def combineOf (s : State) (d : WDesc) (p : Place) : State :=
  if !rowsOk s d.route (8 * d.a) (8 * d.a) d.tokens || !rowsOk s d.dst (64 * d.dld) d.tok d.tokens then wainError s
  else
    match loadRows s d.route (8 * d.a) (8 * d.a) d.tokens with
    | (s, .error b) => wainUncorr s b
    | (s, .ok rs) =>
      let recs := rs.map (recOf d.a)
      if !backOk s d p recs then wainError s
      else
        match (recs.zipIdx).foldl (combineToken d p) (wainStart s, none) with
        | (s, none) => s
        | (s, some b) => wainUncorr s b

def execCombine (s : State) : Host.Outcome State Fault Refusal := finishWait s (wainCmd s 3 combineOf)

/-! ## SETSTEP (R134) -/

/-- Relative frame 0 begins: the stash and the Wain start again (R332, R348). -/
def relativeZero (s : State) : State :=
  let s := { s with step := { s.step with rel := some 0 }, wain := { s.wain with walking := true, past := false } }
  stashReset (setRegN s Reg.WAN_ITEM 0)

/-- A training job is loaded (R362). -/
def training (s : State) : Bool := jobLoaded s && pcount s ≠ 0

/-- SETSTEP: the slot is copied into BGH_STEP; on presented bough 0 relative frame 0 begins, and in a training job a step
opens, waiting while two are open (R134, R332, R362, R363). -/
def setstepOf (n : Nat) (s : State) (b : Nat) (i : Item) : State :=
  let k := bitsN i.w1 4 0
  if slotBusy s b k || (n = 0 && training s && decide (2 ≤ s.step.opened.length)) then s
  else
    let v := slot s b k
    let s := advance (setReg64 s (Reg.BGH_STEP_LO b) v) b
    if n = 0 then relativeZero (if training s then openStep s v else s) else s

def execSetstep (n : Nat) (s : State) : Host.Outcome State Fault Refusal := control s n 15 (setstepOf n)

end Sys2Proof.Machine
end

