-- ==== Sys2Proof/Machine/Job.lean ====
section
/-! DEFINITION. Job load, job start and job stop (R618, R619), with the checks of the tables a job brings (R339, R366 to
R371, R376, R377, R388, R440, R443). -/

namespace Sys2Proof.Machine

/-! ## The job descriptor (R618) -/

/-- Write the image of a register: its Reserved bits take nothing (R10). -/
def image (s : State) (a v : Nat) : State := setRegN s a (v &&& ((regRow a).map (·.rw)).getD 0)

/-- The image of a 64-bit register whose _LO lies at `a`. -/
def image64 (s : State) (a v : Nat) : State := image (image s a (v % 2 ^ 32)) (a + 4) (v / 2 ^ 32)

/-- The registers that a job descriptor loads, but for the model table's. -/
def images (s : State) (d : List Byte) : State :=
  let s := image64 s Reg.MIL_PTAB_LO (leAt d 24 8)
  let s := image s Reg.MIL_PCOUNT (leAt d 32 4)
  let s := image s Reg.MIL_GCOUNT (leAt d 36 4)
  let s := image64 s Reg.MIL_GTAB_LO (leAt d 40 8)
  let s := image64 s Reg.MIL_MJTAB_LO (leAt d 48 8)
  let s := image64 s Reg.MIL_LIST_LO (leAt d 56 8)
  let s := setRegN s Reg.MIL_GATE (horizon s * 2 ^ 28 + leAt d 64 4 % 2 ^ 27)
  let s := image s Reg.MIL_FENCE (leAt d 68 4)
  let s := image s Reg.MIL_HOLD (leAt d 72 4)
  let s := image64 s Reg.MIL_EPOCH_LO (leAt d 80 8)
  let s := image64 s Reg.LFT_STBASE_LO (leAt d 88 8)
  let ahead := if bitsN (leAt d 96 4) 19 16 = 0 then stAhead s else bitsN (leAt d 96 4) 19 16
  let s := image s Reg.LFT_STCTRL (putBits (leAt d 96 4) 19 16 ahead)
  let s := image s Reg.LFT_STREGION (leAt d 100 4)
  let s := image64 s Reg.LFT_STPEER_LO (leAt d 104 8)
  let s := image s Reg.LFT_STPEERLEN (leAt d 112 4)
  let s := image64 s Reg.WAN_PBASE_LO (leAt d 120 8)
  let s := image64 s Reg.FAB_TTAB_LO (leAt d 128 8)
  let s := image s Reg.FAB_TCOUNT (leAt d 136 4)
  let s := (List.range 8).foldl (fun s b => image s (Reg.FAB_PBAR b) (leAt d (144 + 4 * b) 4)) s
  (List.range 24).foldl (fun s p => image64 s (Reg.FAB_STAB_LO p) (leAt d (176 + 8 * p) 8)) s

/-! ## Checks -/

/-- Why a job does not load: DETAIL of R618, and the codeword that could not be read when that is why. -/
structure JobBad where
  detail : Nat
  bad    : Option Bad := none
  deriving DecidableEq, Repr

/-- A check of a job with the descriptor's registers loaded as `v s`; reading memory may change `s`. -/
abbrev JobChk := (State → State) → State → State × Option JobBad

def chkAll : List JobChk → JobChk
  | [], _, s => (s, none)
  | c :: t, v, s =>
    match c v s with
    | (s, some b) => (s, some b)
    | (s, none) => chkAll t v s

/-- Refuse with a DETAIL unless the condition holds. -/
def must (detail : Nat) (p : State → Bool) : JobChk := fun v s => (s, if p (v s) then none else some { detail := detail })

/-- A check that depends on what the registers and the tables read so far say. -/
def chkWith (f : State → JobChk) : JobChk := fun v s => f (v s) v s

/-- Read a table under the codes: a range that is not backed is refused. -/
def rdTab (detail a n : Nat) : JobChk := fun _ s =>
  if n = 0 then (s, none)
  else if !rangeOk s a n then (s, some { detail := detail })
  else
    match checkRead s a n with
    | (s, some b) => (s, some { detail := detail, bad := some b })
    | (s, none) => (s, none)

/-! ### Parameter table, groups and matrix jobs (R366 to R371, R376, R377, R388) -/

def inObj (a n : Nat) : Bool := isObj a && decide (a + n ≤ objEnd)

/-- An address of a record: unused and zero, or 4 KiB-aligned with its range in the object range (R367, R368). -/
def arrOk (used : Bool) (a n : Nat) : Bool := if used then a % 4096 = 0 && inObj a n else a = 0

/-- Bins of a record's state arrays. -/
def PRec.bins (r : PRec) : Nat := if r.hold then 1 else 2

/-- A record keeps R366 to R368. -/
def precOk (groups : Nat) (r : PRec) : Bool :=
  r.group < groups && r.mclass ≠ 3 && r.gfmt ≠ 3 && 3 ≤ r.wfmt && r.wfmt ≤ 5 && r.nmom ≤ 2 && r.wcrm ≠ 3 && r.len ≠ 0
    && !r.rsv
    && arrOk true r.master (r.bins * r.bin r.wMaster)
    && arrOk (1 ≤ r.nmom) r.mom1 (r.bins * r.bin r.wMom) && arrOk (2 ≤ r.nmom) r.mom2 (r.bins * r.bin r.wMom)
    && arrOk r.avgen r.avg (r.bins * r.bin 4)
    && arrOk true r.wc0 (r.len * r.wWc) && arrOk r.wc2 r.wc1 (r.len * r.wWc)
    && arrOk true r.tmap r.blocks && arrOk true r.grad (r.len * r.wGrad)

def precs (s : State) : List PRec := (List.range (pcount s)).map (precAt s)
def gcount (s : State) : Nat := fld s Reg.MIL_GCOUNT Fld.MIL_GCOUNT_COUNT

/-- Two records of one STATEDEV whose masters overlap, both bins counted (R369). -/
def mastersMeet (x y : PRec) : Bool :=
  x.statedev = y.statedev && meets (x.master, x.bins * x.bin x.wMaster) (y.master, y.bins * y.bin y.wMaster)

def gradsMeet (x y : PRec) : Bool := meets (x.grad, x.len * x.wGrad) (y.grad, y.len * y.wGrad)

/-- The first pair of a numbered list for which `p` holds: the lowest lower number, then the lowest higher one. -/
def firstPair (p : PRec → PRec → Bool) : List (PRec × Nat) → Option (Nat × Nat)
  | [] => none
  | x :: t =>
    match t.find? fun y => p x.1 y.1 with
    | some y => some (x.2, y.2)
    | none => firstPair p t

/-- Overlapping masters are refused, and MIL_CONFLICT names the pair (R369). -/
def conflictChk : JobChk := fun v s =>
  match firstPair mastersMeet (precs (v s)).zipIdx with
  | some (a, b) => (setRegN s Reg.MIL_CONFLICT (b % 2 ^ 16 * 2 ^ 16 + a % 2 ^ 16), some { detail := 3 })
  | none => (s, none)

/-- Steps rise strictly and values are finite (R371). -/
def pointsOk : List (Nat × Nat) → Bool
  | [] => true
  | [p] => numIsFin (f32 p.2)
  | p :: q :: t => numIsFin (f32 p.2) && decide (p.1 < q.1) && pointsOk (q :: t)

/-- Group g's schedule table and configuration blocks (R370, R371). -/
def groupChk (g : Nat) : JobChk := chkWith fun v =>
  let x := groupAt v g
  let keepsMat := (precs v).any fun r => r.group = g && r.mclass ≠ 0
  chkAll [
    must 3 fun _ => x.sched % 64 = 0 && x.rule % 64 = 0 && x.post % 64 = 0 && (x.post ≠ 0) = keepsMat,
    rdTab 3 x.sched 64,
    must 3 fun v => 1 ≤ peekN v x.sched 2 && peekN v x.sched 2 ≤ 64,
    chkWith fun v => rdTab 3 (x.sched + 64) (16 * peekN v x.sched 2),
    must 3 fun v => pointsOk (pointsOf (peek v x.sched (64 + 16 * 64))),
    rdTab 3 x.rule 384,
    rdTab 3 x.post (if x.post = 0 then 0 else 384)]

/-- The matrix job that record r names (R388). -/
def mjobChk (r : PRec) : JobChk := chkWith fun v =>
  if r.mclass = 0 then chkAll []
  else chkAll [
    rdTab 3 (reg64 v Reg.MIL_MJTAB_LO + 32 * r.mjob) 32,
    must 3 fun v =>
      let m := mjobAt v r.mjob
      m.rows * m.cols = r.len && inObj m.hin (4 * r.len) && inObj m.hout (4 * r.len)]

/-- A configuration block keeps the form of R230 with the changes of R376; `post` for a POST program, `y0` and `y1` for
what a RULE program has to write (R377). -/
def millProgOk (post y0 y1 : Bool) (bs : List Byte) : Bool :=
  let g := cfgOf bs
  let zero (o n : Nat) : Bool := leAt bs o n = 0
  let all : Chain := chainOf []
  let st : Stream := ⟨true, 0, 0, 0, 0, 0⟩
  let c := { all with lf := 0, x := [st, st, st], y := [st, st] }
  let writes (k : Nat) : Bool := g.ins.any fun i => (destsOf i).contains k
  1 ≤ g.ninstr && g.ninstr ≤ 64 && g.nstage = 1 && bitsN g.hdr 31 24 = 0 && bitsN g.hdr 15 4 = 0
    && zero 4 12 && zero 32 96 && zero (128 + 4 * g.ninstr) (256 - 4 * g.ninstr)
    && g.ins.all (fun i => (kindOf i.op = 1 || kindOf i.op = 4) && !insBad c (kindOf i.op) i)
    && (if post then !(writes 0 || writes 1 || writes 2) else (!y0 || writes 0) && (!y1 || writes 1))

/-- The programs of group g (R376, R377). -/
def progChk (g : Nat) : JobChk := must 8 fun v =>
  let x := groupAt v g
  let keeps (n : Nat) : Bool := (precs v).any fun r => r.group = g && n ≤ r.nmom
  millProgOk false (keeps 1) (keeps 2) (peek v x.rule 384)
    && (x.post = 0 || millProgOk true false false (peek v x.post 384))

def paramChk : JobChk := chkWith fun v => chkAll [
  must 3 fun v => pcount v ≤ 65536 && gcount v ≤ 256,
  rdTab 3 (precAddr v 0) (64 * pcount v),
  must 3 fun v => (precs v).all (precOk (gcount v)),
  conflictChk,
  must 3 fun v => firstPair gradsMeet (precs v).zipIdx = none,
  rdTab 3 (groupAddr v 0) (64 * gcount v),
  chkWith fun v => chkAll ((List.range (gcount v)).map groupChk),
  chkWith fun v => chkAll ((precs v).map mjobChk),
  chkWith fun v => chkAll ((List.range (gcount v)).map progChk)]

/-! ### The stash table (R330, R339) -/

def stentOk (s : State) (x : StEnt) : Bool :=
  x.cls ≠ 3 && !x.rsv && x.state = 0 && x.spillat = 0
    && isDirect s x.home && decide (x.home + 4096 * x.lines ≤ directBase + directSize s)
    && 1 ≤ x.stow && decide (x.stow < x.use_) && x.use_ ≤ x.last
    && (x.cls ≠ 2 || (
      let k := stAt s x.ckpt
      decide (x.ckpt < stCount s) && k.cls < 2 && k.stow ≤ x.stow && x.use_ ≤ k.last))

def stashChk : JobChk := chkWith fun v => chkAll [
  must 4 fun v => stCount v ≤ 4096,
  rdTab 4 (stAddr v 0) (32 * stCount v),
  must 4 fun v => (List.range (stCount v)).all fun e => stentOk v (stAt v e)]

/-! ### Trees and slot tables (R434, R440, R443) -/

def treeOk (s : State) (e : Tree) : Bool :=
  e.mode = 0 || (
    e.mode ≠ 3 && !e.rsv && 2 ≤ e.dtype && e.dtype ≤ 4 && e.rop < 3 && e.nchild ≤ 10 && e.myidx < 10
      && e.len % dtypeSize e.dtype = 0 && rangeOk s e.buf e.len && (e.nchild = 0 || rangeOk s e.scratch (e.nchild * e.len)))

def treesChk : JobChk := chkWith fun v =>
  let n := fld v Reg.FAB_TCOUNT Fld.FAB_TCOUNT_COUNT
  chkAll [
    must 6 fun _ => n ≤ 64,
    rdTab 6 (reg64 v Reg.FAB_TTAB_LO) (64 * n),
    must 6 fun v => (List.range n).all fun t => treeOk v (treeEnt v t)]

/-- A slot entry of port p keeps R434 and R440 by itself. -/
def slotEntOk (s : State) (p : Nat) (e : SlotEnt) : Bool :=
  !e.rsv && decide (e.phase < stabCycle s p) && decide (e.slot < fld s Reg.FRM_SLOTS Fld.FRM_SLOTS_COUNT)
    && (if e.cls = vlCtrl then e.cart = 0 && !e.treef && e.first = 0 && e.nseg = 0 else 1 ≤ e.nseg && e.nseg ≤ 88)
    && (!(e.cls = vlSched || e.cls = vlReduce) || decide (e.slot < fld s Reg.FRM_SLOTS Fld.FRM_SLOTS_WORKSLOTS))
    && (!e.treef || (
      let t := treeEnt s e.tree
      treeUsed s e.tree &&
        (if e.down then (t.child.take t.nchild).any fun c => routeOf s c = some p else routeOf s t.parent = some p)))

/-- Entries rise by PHASE and SLOT, and one such pair carries one class (R434, R440). -/
def slotOrder : List SlotEnt → Bool
  | [] => true
  | [_] => true
  | x :: y :: t =>
    (decide (x.phase < y.phase) || (x.phase = y.phase && (decide (x.slot < y.slot) || (x.slot = y.slot && x.cls = y.cls))))
      && slotOrder (y :: t)

def stabChk (p : Nat) : JobChk := chkWith fun v =>
  if stabBase v p = 0 then chkAll []
  else chkAll [
    rdTab 5 (stabBase v p) 16,
    must 5 fun v => stabNent v p ≤ 4096 && 1 ≤ stabCycle v p,
    chkWith fun v => rdTab 5 (stabBase v p + 16) (16 * stabNent v p),
    must 5 fun v =>
      let es := (List.range (stabNent v p)).map (stabEnt v p)
      slotOrder es && es.all (slotEntOk v p)]

/-- BARTAB or CNTTAB is read when it is backed. -/
def loadsChk (a n : Nat) : JobChk := chkWith fun v => if a ≠ 0 && rangeOk v a n then rdTab 0 a n else chkAll []

/-- Every check of a descriptor in table order (R618). -/
def jobChk (d : List Byte) : JobChk :=
  chkAll ([
    must 1 fun _ => bytesAt d 0 4 = [0x49#8, 0x58#8, 0x4A#8, 0x42#8],
    must 1 fun _ => leAt d 5 1 ≤ 64,
    must 7 fun v => decide (pindex v < leAt d 8 8),
    must 2 fun _ => leAt d 16 8 % 4096 = 0 && inObj (leAt d 16 8) 4096,
    rdTab 2 (leAt d 16 8) 64,
    must 2 fun v => !tableHeaderBad (peek v (leAt d 16 8) 64),
    paramChk, stashChk, treesChk] ++ (List.range 24).map stabChk
    ++ [loadsChk (leAt d 368 8) 256, loadsChk (leAt d 376 8) 8192])

/-! ## JOBLOAD (R618) -/

/-- What a job load returns to zero: slots, semaphores, barrier units, BGH_STEP, the item index and the counters since
job load (R129, R140, R143, R343, R358, R403). -/
def jobZero (a : Nat) : Bool :=
  let bgh := decide (0x2000000 ≤ a) && decide (a < 0x2044000)
  let o := (a - 0x2000000) % 0x1000
  (bgh && ((0x100 ≤ o && o < 0x480) || (0x8 ≤ o && o < 0x10) || (0x18 ≤ o && o < 0x28)))
    || (Reg.MIL_LASTB = a) || (Reg.MIL_COMMITS ≤ a && a ≤ Reg.MIL_FAULT) || [Reg.MIL_ITEM, Reg.MIL_STATUS, Reg.MIL_BSTAT].contains a
    || (Reg.LFT_STFRAME ≤ a && a ≤ Reg.LFT_STEXH) || (Reg.WAN_ITEM ≤ a && a ≤ Reg.WAN_DROPS)

/-- A presented bough is ready for the job's walk. -/
def freshBough (s : State) (b : Nat) : State :=
  let s := setBough s b { bough s b with walking := false, cut := false, halted := false, barWait := none }
  let w := reg s (Reg.BGH_STATUS b)
  let w := Fld.BGH_STATUS_STOPPED.put w 0
  let w := Fld.BGH_STATUS_ACTIVE.put w 0
  let w := Fld.BGH_STATUS_SEMWAIT.put w 0
  setReg s (Reg.BGH_STATUS b) (Fld.BGH_STATUS_BARWAIT.put w 0)

/-- The barrier masks of every bough, from BARTAB; a zero address loads zeros. -/
def loadMasks (s : State) (a : Nat) : State :=
  (List.range 68).foldl (fun s b => (List.range 32).foldl (fun s u =>
    setReg64 s (Reg.BGH_BARMASK_LO b u) (if a = 0 then 0 else peekN s (a + 8 * u) 8)) s) s

/-- The device counters, from CNTTAB; a zero address loads zeros. -/
def loadCounters (s : State) (a : Nat) : State :=
  (List.range 1024).foldl (fun s c => setReg64 s (Reg.BGH_CNT_LO c) (if a = 0 then 0 else peekN s (a + 8 * c) 8)) s

/-- The job of descriptor d loads; its handle reads PENDING until the job starts (R614). -/
def loadJob (s : State) (c : HostCmd) (d : List Byte) : State :=
  let s := takeTable (images s d) (leAt d 16 8) (peek s (leAt d 16 8) 64)
  let s := { s with
    regs := s.regs.filter fun x => !jobZero x.1
    bars := [], integ := { s.integ with heldBars := [] }, step := { reports := s.step.reports }, mill := {}, wain := {}
    stash := { s.stash with runs := [], peer := [] }
    fab := { s.fab with trees := [], flags := { s.fab.flags with 
      gens := [], came := [], mine := [], rack := [], rel := []
      sent := s.fab.flags.sent.filter fun x => !(x.1 = fkArrive || x.1 = fkRelease) } }
    frm := { s.frm with lateSlip := false }
    host := { s.host with job := some { handle := c.handle, strict := bitN (leAt d 4 1) 0, nout := leAt d 5 1, start := leAt d 8 8 } } }
  let s := (presented s).foldl freshBough s
  let s := loadCounters (loadMasks s (leAt d 368 8)) (leAt d 376 8)
  let s := (List.range 8).foldl pbarCheck s
  let s := setFld s Reg.HST_STATUS Fld.HST_STATUS_JOB 1
  let s := setFld s Reg.RST_STATUS Fld.RST_STATUS_STATE stRunning
  mapHost s fun x => { x with cmds := x.cmds.map fun e => if e.handle = c.handle then { e with state := 2 } else e }

/-- A JOBLOAD that does not load ends with BADJOB, or with UNCORR and an error record when a codeword could not be read. -/
def refuseJob (s : State) (c : HostCmd) (x : JobBad) : State :=
  match x.bad with
  | none =>
    complete s c.handle { status := 14, detail := x.detail, aux := if x.detail = 3 then regN s Reg.MIL_CONFLICT else 0 }
  | some b =>
    let us := unitSub s b.cls b.addr {}
    let s := record s { kind := b.cls, type := b.type, action := actLogged, unit := us.1, sub := us.2, addr := b.addr,
                        detail := Config.syndrome (cwKey b.cls b.addr) }
    complete s c.handle { status := 4, detail := x.detail }

def jobloadOf (s : State) (c : HostCmd) : State :=
  let a := c.num 8 8
  if (presented s).length < 64 then refuseJob s c { detail := 9 }
  else
    match rdTab 1 a 512 id s with
    | (s, some x) => refuseJob s c x
    | (s, none) =>
      let d := peek s a 512
      match jobChk d (fun s => images s d) s with
      | (s, some x) => refuseJob s c x
      | (s, none) => loadJob s c d

/-- In Fallow a JOBLOAD first wakes the device (R534). -/
def wakeForJob (s : State) : State :=
  if rstState s = stFallow && s.host.cmds.any (fun c => c.op = ocJobload) then mapRst s fun r => { r with waking := true }
  else s

/-- JOBLOAD (R618). -/
def execJobload (s : State) : Host.Outcome State Fault Refusal := finish s (hostCmd ocJobload jobloadOf (wakeForJob s))

/-! ## JOB_START (R618) -/

/-- The walk of a presented bough begins at item 0. -/
def beginWalk (s : State) (b : Nat) : State :=
  if (bough s b).halted then s
  else
    let s := setBough s b { bough s b with walking := true, cut := false, barWait := none }
    let s := setFld s (Reg.BGH_ITEM b) Fld.BGH_ITEM_INDEX 0
    setFld s (Reg.BGH_STATUS b) Fld.BGH_STATUS_ACTIVE 1

/-- The STARTED entry of a job (R616, R618); its handle shows STARTED (R614). -/
def startedEntry (s : State) (h : Nat) : State :=
  match findCmd s h with
  | none => s
  | some c =>
    if c.gone then s
    else
      let (s, n) := logEntry s c { status := 1, value := pindex s }
      mapHost s fun x => { x with handles := aput x.handles (h % 4096) (handleEntry h 2 1 0 n) }

/-- JOB_START: at the tick that begins program frame START. -/
def jobStart (s : State) : State :=
  match s.host.job with
  | none => s
  | some j =>
    if j.started || !atBoundary s || pindex s ≠ j.start then s
    else
      let s := mapHost s fun x => { x with job := some { j with started := true } }
      startedEntry ((presented s).foldl beginWalk (syncClass s)) j.handle

def execJobStart (s : State) : Host.Outcome State Fault Refusal := finishTick s (jobStart s)

/-! ## JOBSTOP (R619) -/

/-- JOBSTOP: the loaded job ends with STOPPED, and the command completes after it; a JOBLOAD that is validating ends. -/
def jobstopOf (s : State) (c : HostCmd) : State :=
  match s.host.job with
  | none => done (stopLoad s) c 0
  | some j =>
    let s := setRunning s c 0
    endJob (mapHost s fun x => { x with job := some { j with stops := j.stops ++ [c.handle] } }) 2 0

def execJobstop (s : State) : Host.Outcome State Fault Refusal := finish s (hostCmd ocJobstop jobstopOf s)

end Sys2Proof.Machine
end

