-- ==== Sys2Proof/Machine/HostRegs.lean ====
section
/-! DEFINITION. Host accesses to registers, MSI-X, stages, handles and the mirror (R14 to R17, R599 to R605, R622, R653),
and the register writes that have rows of their own (R72, R76, R119). -/

namespace Sys2Proof.Machine


/-! ## FRM_CTRL and FRM_SLIPWIN (R51, R72, R76) -/

/-- The accepted PERIOD and WIN govern the frame from now on (R72, R75). -/
def governFrame (s : State) : State :=
  syncFrame { s with frm := { s.frm with period := fld s Reg.FRM_CTRL Fld.FRM_CTRL_PERIOD
                                         win := fld s Reg.FRM_SLIPWIN Fld.FRM_SLIPWIN_WIN } }

/-- FRM_CTRL_WRITE: SLIPLIM always, PERIOD within the bounds and while not joined. -/
def frmCtrlWrite (s : State) (v : Nat) : State :=
  let s := setFld s Reg.FRM_CTRL Fld.FRM_CTRL_SLIPLIM (bitsN v 23 16)
  let p := bitsN v 8 0
  if joined s || !periodOk p || !winOk p (fld s Reg.FRM_SLIPWIN Fld.FRM_SLIPWIN_WIN) then s
  else
    let s := setFld s Reg.FRM_CTRL Fld.FRM_CTRL_PERIOD p
    if ticking s then s else governFrame s

def execFrmCtrlWrite (data : Word) (s : State) : Host.Outcome State Fault Refusal :=
  finish s (if hostReach s && !deadBlock s Reg.FRM_CTRL then frmCtrlWrite s data.toNat else s)

/-- FRM_SLIPWIN_WRITE. -/
def frmSlipwinWrite (s : State) (v : Nat) : State :=
  let w := bitsN v 7 0
  if joined s || !winOk (fld s Reg.FRM_CTRL Fld.FRM_CTRL_PERIOD) w then s
  else
    let s := setFld s Reg.FRM_SLIPWIN Fld.FRM_SLIPWIN_WIN w
    if ticking s then s else governFrame s

def execFrmSlipwinWrite (data : Word) (s : State) : Host.Outcome State Fault Refusal :=
  finish s (if hostReach s && !deadBlock s Reg.FRM_SLIPWIN then frmSlipwinWrite s data.toNat else s)

/-! ## NUMCLR (R119) -/

/-- Whether a numeric status set begins at a control offset. -/
def isNumSet (a : Nat) : Bool := inRun a (Reg.THR_NUMOVF 0) 68 0x400 || inRun a (Reg.LFT_NUMOVF 0) 64 0x80 ||
  inRun a (Reg.MIL_NUMOVF 0) 8 0x20

/-- Zero the counters named, then count the events of the same cycle. -/
def numClear (s : State) (set v c : Nat) : State :=
  let s := [0, 1, 2, 3].foldl (fun s i => if bitN v i then setRegN s (set + 4 * i) 0 else s) s
  let n (i : Nat) : Nat := if bitN c i then 1 else 0
  numEvB s set { ovf := n 0, nansq := n 1, flush := n 2, scnan := n 3 }

/-- NUMCLR_WRITE. -/
def execNumclrWrite (set : Nat) (data coincide : Word) (s : State) : Host.Outcome State Fault Refusal :=
  finish s (
    if !hostReach s || !isNumSet set then s
    else if deadBlock s set then deadReg s
    else numClear s set data.toNat coincide.toNat)

/-! ## Writes (R16, R653) -/

/-- A written value with the fields whose value the device ignores left as they are (R653). -/
def acceptFields (s : State) (a v : Nat) : Nat :=
  let keep (v : Nat) (f : Fld) (ok : Nat → Bool) : Nat :=
    if ok (bitsN v f.hi f.lo) then v else putBits v f.hi f.lo (fld s a f)
  if a = Reg.HST_LOGSIZE then keep v Fld.HST_LOGSIZE_ORDER fun x => 6 ≤ x && x ≤ 16
  else if a = Reg.LFT_STCTRL then keep v Fld.LFT_STCTRL_AHEAD fun x => x ≠ 0
  else if a = Reg.MIL_GATE then keep v Fld.MIL_GATE_HORIZON fun x => x ≠ 0
  else if a = Reg.GRN_GLRATE then keep v Fld.GRN_GLRATE_HOURS fun x => 1 ≤ x && x ≤ 168
  else if a = Reg.HSK_CTRL then keep v Fld.HSK_CTRL_ONSET fun x => 70 ≤ x && x ≤ 95
  else if a = Reg.HSK_PLIM then keep v Fld.HSK_PLIM_WATTS fun x => 500 ≤ x && x ≤ 2500
  else if a = Reg.RST_OPTIONS then
    keep (keep v Fld.RST_OPTIONS_WDOG fun x => x ≠ 0) Fld.RST_OPTIONS_FAILLIM fun x => 2 ≤ x && x ≤ 7
  else if a = Reg.RST_QUIESCE then keep v Fld.RST_QUIESCE_FRAMES fun x => x ≠ 0
  else if a = Reg.FWM_GRAFTCFG then keep v Fld.FWM_GRAFTCFG_WINDOW fun x => 1 ≤ x && x ≤ 64
  else v

/-- The register of a control offset lies in the window of a bough: the bough and the offset in it. -/
def boughWin (a : Nat) : Option (Nat × Nat) :=
  if 0x2000000 ≤ a && a < 0x2044000 then some ((a - 0x2000000) / 0x1000, a % 0x1000) else none

/-- Program base, slots and barrier masks of a bough (R155). -/
def walkReg (o : Nat) : Bool := (0x10 ≤ o && o < 0x18) || (0x100 ≤ o && o < 0x200) || (0x500 ≤ o && o < 0x600)

/-- Registers that a job load sets and that take no writes while a job runs (R343, R403, R457). -/
def jobReg (a : Nat) : Bool :=
  (Reg.MIL_PTAB_LO ≤ a && a ≤ Reg.MIL_EPOCH_HI && a ≠ Reg.MIL_ITEM) || (Reg.LFT_STBASE_LO ≤ a && a ≤ Reg.LFT_STPEERLEN)
    || (Reg.FAB_TTAB_LO ≤ a && a < Reg.FAB_PBAR 0 + 32)
    || inRun a (Reg.FAB_STAB_LO 0) 24 0x80 || inRun a (Reg.FAB_STAB_HI 0) 24 0x80

/-- The device ignores writes to the register now. -/
def writeIgnored (s : State) (a : Nat) : Bool :=
  (fld s Reg.HST_CTRL Fld.HST_CTRL_LOGEN = 1 && Reg.HST_LOGBASE_LO ≤ a && a ≤ Reg.HST_LOGSIZE)
    || (jobLoaded s && (jobReg a || inRun a (Reg.FAB_EXPECT 0) 24 0x80))
    || (joined s && (inRun a (Reg.FAB_GROUTE 0) 1024 4 || inRun a (Reg.FAB_MROUTE 0) 256 4))
    || (fld s Reg.LFT_OBJCOUNT Fld.LFT_OBJCOUNT_COUNT ≠ 0 && (a = Reg.LFT_OBJBASE_LO || a = Reg.LFT_OBJBASE_HI))
    || (switchArmed s && a = Reg.SKL_NEXT_HI)
    || a = Reg.FWM_CTRL
    || (match boughWin a with
        | some (b, o) => fld s (Reg.BGH_STATUS b) Fld.BGH_STATUS_ACTIVE = 1 && walkReg o
        | none => false)

/-- A write to a register with no action of its own: RW bits take the value, and RW1C bits written 1 clear. -/
def plainWrite (s : State) (r : RegRow) (a v : Nat) : State :=
  let rw := BitVec.ofNat 32 r.rw
  let x := (reg s a &&& ~~~rw) ||| (BitVec.ofNat 32 (acceptFields s a v) &&& rw)
  setReg s a (x &&& ~~~(BitVec.ofNat 32 v &&& BitVec.ofNat 32 r.w1c))

/-- A device counter, half by half (R145). -/
def counterWrite (s : State) (a v : Nat) : State :=
  let c := (a - Reg.BGH_CNT_LO 0) / 8
  let old := counter s c
  setCnt s c (if a % 8 = 0 then putBits old 31 0 v else putBits old 63 32 v)

/-- BGH_MACTRL: a corruption armed or a column test asked for each bit (R196). -/
def mactrlWrite (s : State) (b v : Nat) : State :=
  let s := (bitList 4 0 (bitsN v 3 0)).foldl (fun s a => mactrlColtest s b a) s
  (bitList 4 0 (bitsN v 7 4)).foldl (fun s a => mactrlInject s b a) s

def flipUnit (a : Nat) : Option FlipUnit :=
  if a = Reg.INT_FLIPCRB then some .crib
  else if a = Reg.INT_FLIPLFT then some .loft
  else if a = Reg.INT_FLIPGRN then some .granary
  else none

/-- What a write of RST_PARTIAL asks for: KIND and TARGET, which a Root sub-reset does not use (R535). -/
def partialWord (v : Nat) : Nat := if v / 2 ^ 28 % 16 = 1 then v &&& 0xF0000000 else v &&& 0xF00000FF

/-- A write that reaches a register which answers and takes writes. -/
def takeWrite (s : State) (r : RegRow) (a v : Nat) : State :=
  match boughWin a, flipUnit a with
  | some (b, 0), _ => if bitN v 0 then bghPreempt s b else s
  | some (b, 0x628), _ => mactrlWrite s b v
  | _, some u => flipWrite s u (BitVec.ofNat 32 v)
  | _, _ =>
    if a = Reg.HST_CTRL then (if bitN v 0 then startLog s else setFld s Reg.HST_CTRL Fld.HST_CTRL_LOGEN 0)
    else if a = Reg.FRM_CTRL then frmCtrlWrite s v
    else if a = Reg.FRM_SLIPWIN then frmSlipwinWrite s v
    else if a = Reg.SKL_NEXT_LO then
      (if bitN v 0 then nextArm s (BitVec.ofNat 32 v) else nextCancel s (BitVec.ofNat 32 v))
    else if a = Reg.RST_PARTIAL then requestPartial s (partialWord v) none
    else if isNumSet (a - 0x14) && decide (0x14 ≤ a) then numClear s (a - 0x14) v 0
    else if Reg.BGH_CNT_LO 0 ≤ a && a < Reg.BGH_CNT_LO 1024 then counterWrite s a v
    else plainWrite s r a v

/-- Write a register at a control offset (R602, R603). -/
def writeReg (s : State) (a v : Nat) : State :=
  match regRow a with
  | none => badAccess s
  | some r => if deadBlock s a then deadReg s else if writeIgnored s a then s else takeWrite s r a v

/-! ## BAR0 (R599, R602) -/

/-- What a BAR0 offset reaches. -/
inductive Bar0 where
  | ctl (a : Nat)
  | table (o : Nat)
  | pba (o : Nat)
  | none
  deriving DecidableEq, Repr

def bar0Of (s : State) (off : Nat) : Bar0 :=
  if off < 0x1000 then .ctl off
  else if 0x8000 ≤ off && off < 0x8200 then .table (off - 0x8000)
  else if 0x9000 ≤ off && off < 0x9008 then .pba (off - 0x9000)
  else if 0x10000 ≤ off && off < 0x40000 then
    .ctl (fld s (Reg.HST_WIN (off / 0x10000 - 1)) Fld.HST_WIN_PAGE * 0x10000 + off % 0x10000)
  else .none

/-- An access of 4 or 8 bytes, aligned to its size. -/
def sizeOk (off size : Nat) : Bool := (size = 4 || size = 8) && off % size = 0

def ctlWrite (s : State) (a size v : Nat) : State :=
  if inPage a then (if a % 4 = 0 && size = 4 && (pageRead s a).isSome then s else badAccess s)
  else if !regSizeOk a size then badAccess s
  else
    let s := writeReg s a (v % 2 ^ 32)
    if size = 8 then writeReg s (a + 4) (v / 2 ^ 32) else s

/-! ## Carts that write the own control space (R254, R288) -/

/-- Write bytes into the control space: each whole aligned word is one access, and what is left at an end is an access that
R602 does not accept. -/
def ctlStore : Nat → State → Nat → List Byte → State
  | 0, s, _, _ => s
  | fuel + 1, s, a, bs =>
    if bs.isEmpty then s
    else if a % 4 = 0 && 4 ≤ bs.length then ctlStore fuel (ctlWrite s (a - ctlBase) 4 (leNat (bs.take 4))) (a + 4) (bs.drop 4)
    else
      let k := min bs.length (4 - a % 4)
      ctlStore fuel (badAccess s) (a + k) (bs.drop k)

/-- The register writes of a cart take place, in the order of its segments (DESIGN CHOICE, log entry 138: when). -/
def ctlLand (s : State) (id : Nat) : State :=
  match cart s id with
  | none => s
  | some c =>
    c.ctl.foldl (fun s (i, a, bs) => setSeg (ctlStore (bs.length + 1) s a bs) id i .applied)
      (setCart s id { c with ctl := [] })

def execCartComplete (cartid : Nat) (s : State) : Host.Outcome State Fault Refusal :=
  finish s (settle (cartComplete (syncCart (ctlLand s cartid) cartid) cartid))

/-- Bits of an MSI-X table word that a write sets (R596, PCI Express). -/
def msixMask (o : Nat) : Nat := if o % 16 = 12 then 1 else if o % 16 = 0 then 0xFFFFFFFC else 0xFFFFFFFF

def tableWrite (s : State) (o v : Nat) : State :=
  { s with msix := { s.msix with table := kset msixReset s.msix.table o (BitVec.ofNat 32 (v &&& msixMask o)) } }

def tableRead (s : State) (o : Nat) : Nat := (kget msixReset s.msix.table o).toNat

def bar0Read (s : State) (off size : Nat) : State × Nat :=
  match bar0Of s off with
  | .ctl a => ctlRead s a size
  | .table o =>
    if sizeOk off size then (s, tableRead s o + (if size = 8 then 2 ^ 32 * tableRead s (o + 4) else 0))
    else (badAccess s, 0)
  | .pba o => if sizeOk off size then (s, s.msix.pba / 2 ^ (8 * o) % 2 ^ (8 * size)) else (badAccess s, 0)
  | .none => (badAccess s, 0)

def bar0Write (s : State) (off size v : Nat) : State :=
  match bar0Of s off with
  | .ctl a => ctlWrite s a size v
  | .table o =>
    if sizeOk off size then
      let s := tableWrite s o (v % 2 ^ 32)
      if size = 8 then tableWrite s (o + 4) (v / 2 ^ 32) else s
    else badAccess s
  | .pba _ => if sizeOk off size then s else badAccess s
  | .none => badAccess s

/-! ## BAR2 (R604, R605, R614, R622) -/

/-- Bytes of a handle or mirror entry. -/
def entryRead (l : List (Nat × List Byte)) (i o n : Nat) : Nat := leAt ((kfind l i).getD []) o n

def bar2Read (s : State) (off size : Nat) : State :=
  if 0x1000 ≤ off && off < 0x1200 && off % 8 = 0 then acceptRead s ((off - 0x1000) / 8) size
  else if sizeOk off size && 0x10000 ≤ off && off < 0x20000 then
    { s with rdata := BitVec.ofNat 64 (entryRead s.host.handles ((off - 0x10000) / 16) (off % 16) size) }
  else if sizeOk off size && 0x20000 ≤ off && off < 0x40000 then
    { s with rdata := BitVec.ofNat 64 (entryRead s.host.mirror ((off - 0x20000) / 512) (off % 512) size) }
  else { badAccess s with rdata := 0 }

/-- A stage takes bytes; every other area of BAR2 is only read. -/
def bar2Write (s : State) (off size v : Nat) : State :=
  if !sizeOk off size then badAccess s
  else if off < 0x1000 then
    let st := off / 64
    let old := bytesAt ((kfind s.host.stages st).getD []) 0 64
    mapHost s fun x => { x with stages := aput x.stages st (bytesPut old (off % 64) (leBytes size v)) }
  else if (0x1000 ≤ off && off < 0x1200) || (0x10000 ≤ off && off < 0x40000) then s
  else badAccess s

/-! ## The rows -/

/-- REGISTER_WRITE. -/
def hostWriteAt (s : State) (bar : Bar) (off size v : Nat) : State :=
  if !hostReach s then s
  else
    match bar with
    | .bar0 => bar0Write s off size v
    | .bar2 => bar2Write s off size v

def execRegisterWrite (bar : Bar) (off size : Nat) (data : Dword) (s : State) : Host.Outcome State Fault Refusal :=
  finish s (hostWriteAt s bar off size data.toNat)

/-- LO_READ_LATCH: a host read. -/
def hostReadAt (s : State) (bar : Bar) (off size : Nat) : State :=
  if !hostReach s then s
  else
    match bar with
    | .bar0 =>
      let r := bar0Read s off size
      { r.1 with rdata := BitVec.ofNat 64 r.2 }
    | .bar2 => bar2Read s off size

def execLoReadLatch (bar : Bar) (off size : Nat) (s : State) : Host.Outcome State Fault Refusal :=
  finish s (hostReadAt s bar off size)

/-- RW1C_CLEAR (R17): bits that the device sets in the same cycle stay set. -/
def rw1cClear (s : State) (a : Nat) (v c : Word) : State :=
  match regRow a with
  | none => badAccess s
  | some r =>
    if deadBlock s a then deadReg s
    else setReg s a ((reg s a &&& ~~~(v &&& BitVec.ofNat 32 r.w1c)) ||| (c &&& BitVec.ofNat 32 r.w1c))

def execRw1cClear (a : Nat) (data coincide : Word) (s : State) : Host.Outcome State Fault Refusal :=
  finish s (if hostReach s then rw1cClear s a data coincide else s)

end Sys2Proof.Machine
end

