-- ==== Sys2Proof/Machine/Frame.lean ====
section
/-! DEFINITION. The tick (R42 to R44, R52 to R54, R57) with what happens at a frame boundary, and the check offset (R46,
R50). -/

namespace Sys2Proof.Machine

def mapFrm (s : State) (f : FrameSt → FrameSt) : State := { s with frm := f s.frm }

def slipFrame (s : State) : Bool := fld s Reg.FRM_STATUS Fld.FRM_STATUS_SLIPFRAME = 1

/-! ## CHECK_OFFSET (R46, R50, R54, R338, R385) -/

/-- The device has retired the running program frame (R46), the stash's transfers and the Mill's COMMIT among its work. -/
def retired (s : State) : Bool :=
  (presented s).all (boughRetired s) && namedRetired s && !stashLate s && !millLate s

/-- CHECK_OFFSET: a device that has not retired raises the slip flag for the running program frame. -/
def checkOffset (s : State) : State :=
  if !ticking s || retired s then s
  else learnUp (mapFrm s fun f => { f with slipFlag := true, slipOwn := true }) (fkSlip, pindex s)

def execCheckOffset (s : State) : Host.Outcome State Fault Refusal := finish s (checkOffset s)

/-- SLIPRUN_LIMIT (R57). -/
def sliprunLimit (s : State) : State :=
  let lim := fld s Reg.FRM_CTRL Fld.FRM_CTRL_SLIPLIM
  if lim ≠ 0 && regN s Reg.FRM_SLIPRUN = lim && slipFrame s then
    raise s Reg.FRM_INTSTAT Fld.FRM_INTSTAT_SLIPRUN.bit
  else s

def execSliprunLimit (s : State) : Host.Outcome State Fault Refusal := finish s (sliprunLimit s)

/-! ## A frame boundary (R44) -/

/-- Pinned objects that pin reclaim may demote (R315). -/
def reclaimable (s : State) : List Nat :=
  s.loft.objs.filter fun j =>
    let o := objAt s j
    o.pinned && !(o.owner < 64 && bitN (reg64 s Reg.LFT_NORECLAIM_LO) o.owner)

/-- PIN_RECLAIM (R315). -/
def pinReclaim (s : State) : State :=
  if fld s Reg.LFT_THRASH Fld.LFT_THRASH_RECLAIM = 0 || !s.loft.thrash then s
  else
    match oldest s (reclaimable s) with
    | none => s
    | some j => reclaimOne s j

/-- THRASH_COUNT (R314): the program frame that ended. -/
def thrashCount (s : State) : State :=
  let n := s.loft.young
  let hot := decide (fld s Reg.LFT_THRASH Fld.LFT_THRASH_LIMIT < n)
  let s := setRegN (mapLoft s fun lo => { lo with young := 0, thrash := hot }) Reg.LFT_THRCNT (min n 0xFFFFFFFF)
  if hot then raise s Reg.LFT_INTSTAT Fld.LFT_INTSTAT_THRASH.bit else s

/-- SUBST commands whose substitution found no spare complete. -/
def substOver (s : State) : State :=
  let open_ (n : Nat) : Bool := s.integ.copies.any fun x => x.1 = n
  let over_ := s.integ.substCmds.filter fun c => !open_ c.1
  let s := mapInteg s fun i => { i with substCmds := i.substCmds.filter fun c => open_ c.1 }
  over_.foldl (fun s c => complete s c.2 { status := 0 }) s

/-- The next relative frame of the stash engine (R332, R334). -/
def nextRelative (s : State) : State :=
  match s.step.rel with
  | none => s
  | some r => stashFrame { s with step := { s.step with rel := some (r + 1) } } (r + 1)

/-- Every bough of a started job restarts its walk at item 0 (R124, R148). -/
def restartWalks (s : State) : State :=
  if s.host.job.any (·.started) && !s.frm.lateSlip then (presented s).foldl beginWalk s else s

/-- A program frame that a quiesce waits through (R536). -/
def quiesceFrame (s : State) : State :=
  quiesced (match partHead s pkRoot with
    | some p => if p.stage = 1 then setHead s fun p => { p with frames := p.frames + 1 } else s
    | none => s)

/-- What a tick that begins a program frame does (R44). -/
def boundary (s : State) : State :=
  let s := pinReclaim (thrashCount (governFrame s))
  let s := substOver (substStart (repairScan s))
  let s := syncClass (modelSwitch s)
  let s := syncMill (fenceFrame (nextRelative s))
  { quiesceFrame (restartWalks s) with edge := true }

/-! ## FRAME_TICK (R43) -/

/-- A tick with the slip flag set begins a slip frame (R52, R77); the flag instance of the program frame may be raised
anew. -/
def slipBegin (s : State) : State :=
  let first := !slipFrame s
  let own := s.frm.slipOwn && !s.frm.ownDone
  let s := if first then bump (bump s Reg.FRM_SLIPCNT 1) Reg.FRM_SLIPRUN 1 else s
  let s := if own then bump s Reg.FRM_SLIPOWN 1 else s
  let s := raise (bump s Reg.FRM_SLIPFRM 1) Reg.FRM_INTSTAT Fld.FRM_INTSTAT_SLIP.bit
  let s := setFld s Reg.FRM_STATUS Fld.FRM_STATUS_SLIPFRAME 1
  let p := pindex s
  let s := mapFlags s fun f => { f with
    known := f.known.filter fun x => x ≠ (fkSlip, p), downs := f.downs.filter fun x => x ≠ (fkSlip, p)
    sent := f.sent.filter fun x => !(x.1 = fkSlip && x.2.1 = p) }
  mapFrm s fun f => { f with slipFlag := false, slipOwn := false, ownDone := f.ownDone || own, slipped := true }

/-- A tick with the flag clear: the numbers and flags of the next program frame (R52, R54, R77). -/
def programStart (s : State) : State :=
  let s := if s.frm.slipped then s else setRegN s Reg.FRM_SLIPRUN 0
  let s := bump64 s Reg.FRM_PINDEX_LO 1
  let s := setFld s Reg.FRM_STATUS Fld.FRM_STATUS_SLIPFRAME 0
  mapFrm s fun f => { f with slipOwn := false, ownDone := false, slipped := false, cartsDone := [], treesDone := [] }

/-- What every tick does: waits of closing accesses, the trial window, the REL flags and the Floor (R310, R581, R474,
R470). -/
def everyTick (s : State) : State :=
  let s := mapLoft s fun lo => { lo with
    rounds := lo.rounds.map fun x => (x.1, if x.2.closing then { x.2 with ticks := x.2.ticks + 1 } else x.2) }
  let s := if fwmState s = fwsTrial then mapFwm s fun f => { f with left := f.left - s.frm.period } else s
  let s := mapFlags s fun f => { f with rel := f.rel.filterMap fun x => if x.2 then none else some (x.1, true) }
  settle (dueMoves (floorTick s))

/-- The tick runs: the device is ready, or a member of a partition already. -/
def mayTick (s : State) : Bool := joined s || (rstState s ≠ 0 && rstState s ≠ stDormant)

/-- The first tick of a device alone in its partition: it is its own tick leader and its tick runs (R42, R73). -/
def firstTick (s : State) : State :=
  setFld (setFld s Reg.FRM_STATUS Fld.FRM_STATUS_TICKING 1) Reg.FRM_STATUS Fld.FRM_STATUS_LEADER 1

/-- FRAME_TICK: the first tick of a device alone begins frame 0; every later one advances the frame number, and the program
frame index unless the slip flag is set (R42, R43). -/
def frameTick (s : State) : State :=
  if !mayTick s then s
  else if !ticking s then everyTick (boundary (firstTick s))
  else
    let s := setReg64 s Reg.FRM_COUNT_LO ((frameNo s + 1) % 2 ^ 48)
    everyTick (if s.frm.slipFlag then { slipBegin s with edge := false } else boundary (programStart s))

def execFrameTick (s : State) : Host.Outcome State Fault Refusal := finishTick s (frameTick s)

end Sys2Proof.Machine
end

