-- ==== Sys2Proof/Machine/Winnow.lean ====
section
/-! DEFINITION. The Winnow (R241 to R246): reductions of the W elements of a chain, given as FP32 encodings. -/

namespace Sys2Proof.Machine

/-! ## The order of combination (R242) -/

/-- A partial result; none when every leaf beneath it was skipped. -/
abbrev Node := Option (List Nat)

/-- Combine two nodes with `f`, passing the other through when one is empty; events are summed. -/
def nodeJoin (f : List Nat → List Nat → List Nat × Ev) (a b : Node × Ev) : Node × Ev :=
  let ev := evAdd a.2 b.2
  match a.1, b.1 with
  | none, y => (y, ev)
  | x, none => (x, ev)
  | some x, some y =>
    let r := f x y
    (some r.1, evAdd ev r.2)

/-- reduce of R242 over a list of leaves. -/
def treeFold (f : List Nat → List Nat → List Nat × Ev) : Nat → List (Node × Ev) → Node × Ev
  | 0, _ => (none, {})
  | k + 1, l =>
    match l with
    | [] => (none, {})
    | [x] => x
    | _ =>
      let h := 2 ^ Nat.log2 (l.length - 1)
      nodeJoin f (treeFold f k (l.take h)) (treeFold f k (l.drop h))

/-- sequential of R242. -/
def seqFold (f : List Nat → List Nat → List Nat × Ev) : List (Node × Ev) → Node × Ev
  | [] => (none, {})
  | x :: t => t.foldl (nodeJoin f) x

/-! ## Leaves, combines and finals (R243) -/

def addJoin (strict : Bool) (p q : List Nat) : List Nat × Ev :=
  let r := fAdd strict (p.headD 0) (q.headD 0)
  ([r.1], r.2)

/-- pair_add on each pair of two flat lists of pairs. -/
def pairJoin (strict : Bool) : List Nat → List Nat → List Nat × Ev
  | a :: b :: t, c :: d :: u =>
    let r := pairAdd strict (a, b) (c, d)
    let q := pairJoin strict t u
    (r.1.1 :: r.1.2 :: q.1, evAdd r.2 q.2)
  | _, _ => ([], {})

def lseJoin (strict : Bool) (p q : List Nat) : List Nat × Ev :=
  match p, q with
  | [m1, s1], [m2, s2] =>
    let m := fPick true m1 m2
    let part (mi si : Nat) : Nat × Ev :=
      let d := fSub strict mi m
      let x := fExp strict d.1
      let y := fMul strict si x.1
      (y.1, evAdd d.2 (evAdd x.2 y.2))
    let a := part m1 s1
    let b := part m2 s2
    let s := fAdd strict a.1 b.1
    ([m, s.1], evAdd (evAdd a.2 b.2) s.2)
  | _, _ => (p, {})

/-- pair_div of R243. -/
def pairDiv (strict : Bool) (x : Nat × Nat) (n : Nat) : (Nat × Nat) × Ev :=
  let fn := (round32 true (numInt n)).1
  let q := fDiv strict x.1 fn
  let pe := pairProduct strict q.1 fn
  let u := fSub strict x.1 pe.1.1
  let v := fSub strict u.1 pe.1.2
  let r := fAdd strict v.1 x.2
  let d := fDiv strict r.1 fn
  let y := pairFast strict q.1 d.1
  (y.1, evAdd (evAdd (evAdd q.2 pe.2) (evAdd u.2 v.2)) (evAdd (evAdd r.2 d.2) y.2))

/-- mean_var of R243: mean.hi, mean.lo, var.hi, var.lo. -/
def meanVar (strict : Bool) (v : List Nat) (n : Nat) : List Nat × Ev :=
  match v with
  | [sh, sl, qh, ql] =>
    let mean := pairDiv strict (sh, sl) n
    let ab := pairProduct strict mean.1.1 mean.1.1
    let two : Nat := 0x40000000
    let m := fMul strict mean.1.1 mean.1.2
    let m2 := fMul strict two m.1
    let b := fAdd strict ab.1.2 m2.1
    let msq := pairFast strict ab.1.1 b.1
    let d := pairDiv strict (qh, ql) n
    let var := pairAdd strict d.1 (negF msq.1.1, negF msq.1.2)
    let ev := evAdd (evAdd (evAdd mean.2 ab.2) (evAdd m.2 m2.2)) (evAdd (evAdd b.2 msq.2) (evAdd d.2 var.2))
    let neg := numLt (f32 var.1.1) (numZero false)
    ([mean.1.1, mean.1.2] ++ (if neg then [0, 0] else [var.1.1, var.1.2]), ev)
  | _ => ([], {})

/-- The leaf of an element. -/
def leafOf (strict : Bool) (wop x : Nat) : Node × Ev :=
  match wop with
  | 2 => (some [x, 0], {})
  | 6 => if f32 x = .inf true then (none, {}) else (some [x, one], {})
  | 8 =>
    let r := pairProduct strict x x
    (some [x, 0, r.1.1, r.1.2], r.2)
  | _ => (some [x], {})
where
  one : Nat := 0x3F800000

def joinOf (strict : Bool) : Nat → List Nat → List Nat → List Nat × Ev
  | 2 | 8 => pairJoin strict
  | 6 => lseJoin strict
  | _ => addJoin strict

/-- A summing reduction of a list: SUM, PSUM, LSE, MEANVAR and FOLD. -/
def sumReduce (strict : Bool) (wop : Nat) (xs : List Nat) : List Nat × Ev :=
  let nan := nanEnc .fp32
  if wop = 8 && xs.any (fun x => !(numIsFin (f32 x))) then ([nan, 0, nan, 0], {})
  else if wop = 6 && xs.any (fun x => numIsNan (f32 x)) then ([nan], {})
  else if wop = 6 && xs.any (fun x => f32 x = .inf false) then ([0x7F800000], {})
  else
    let ls := xs.map (leafOf strict wop)
    let r := if strict || wop = 9 then seqFold (joinOf strict wop) ls else treeFold (joinOf strict wop) ls.length ls
    match wop, r.1 with
    | 6, none => ([0xFF800000], r.2)
    | 6, some v =>
      let l := fLn strict ((v[1]?).getD 0)
      let y := fAdd strict (v.headD 0) l.1
      ([y.1], evAdd r.2 (evAdd l.2 y.2))
    | 8, some v =>
      let y := meanVar strict v xs.length
      (y.1, evAdd r.2 y.2)
    | _, some v => (v, r.2)
    | _, none => ([0], r.2)

/-! ## Selections (R244) -/

/-- The largest or smallest of the elements that are not NaN; the earliest of equals. -/
def bestOf (isMax : Bool) (xs : List Nat) : Option (Nat × Nat) :=
  xs.zipIdx.foldl (fun (best : Option (Nat × Nat)) y =>
    if numIsNan (f32 y.1) then best
    else
      match best with
      | none => some y
      | some b =>
        if (if isMax then numBelow (f32 b.1) (f32 y.1) else numBelow (f32 y.1) (f32 b.1)) then some y else some b) none

/-- Put an element into a descending list, behind equals. -/
def insertDesc (y : Nat × Nat) : List (Nat × Nat) → List (Nat × Nat)
  | [] => [y]
  | b :: t => if numBelow (f32 b.1) (f32 y.1) then y :: b :: t else b :: insertDesc y t

/-- The k largest elements in descending order, ties to the lower index, padded with −infinity. -/
def topOf (k : Nat) (xs : List Nat) : List (Nat × Nat) :=
  let l := ((xs.zipIdx.filter fun y => !(numIsNan (f32 y.1))).foldl (fun acc y => insertDesc y acc) []).take k
  l ++ List.replicate (k - l.length) (0xFF800000, 0xFFFFFFFF)

/-- The words of one result, in the order they are stored (R245). -/
def winResult (strict : Bool) (wop k : Nat) (xs : List Nat) : List Nat × Ev :=
  match wop with
  | 3 => ([((bestOf true xs).map (·.1)).getD 0xFF800000], {})
  | 4 => ([((bestOf false xs).map (·.1)).getD 0x7F800000], {})
  | 5 => ([((bestOf true xs).map (·.2)).getD 0xFFFFFFFF], {})
  | 7 =>
    let l := topOf k xs
    (l.map (·.1) ++ l.map (·.2), {})
  | w => sumReduce strict w xs

/-- Columns of a list of rows, n of them. -/
def columnsOf (rows : List (List Nat)) (n : Nat) : List (List Nat) :=
  (List.range n).map fun c => rows.map fun r => (r[c]?).getD 0

/-- A chain's summary (R246): the W elements in row order and the results. -/
def summaryOf (sumsel wop k : Nat) (ws : List Nat) (results : List (List Nat)) : Nat :=
  match sumsel with
  | 0 => ws.countP fun w => !(numIsFin (f32 w))
  | 1 => ws.countP fun w => !(numIsZero (f32 w))
  | 2 => ((bestOf true ws).map (·.1)).getD 0xFF800000
  | 3 => ((bestOf false ws).map (·.1)).getD 0x7F800000
  | _ =>
    match results.getLast? with
    | none => 0
    | some r =>
      let at_ (i : Nat) : Nat := (r[i]?).getD 0
      match wop with
      | 2 => at_ 0 + 2 ^ 32 * at_ 1
      | 8 => at_ 0 + 2 ^ 32 * at_ 2
      | 7 => at_ (k - 1)
      | _ => at_ 0

end Sys2Proof.Machine
end

