-- ==== Sys2Proof/Machine/Thresher.lean ====
section
/-! DEFINITION. The CHAIN item on the Thresher and the Winnow (R222 to R229, R240, R245 to R249, R656). -/

namespace Sys2Proof.Machine

/-! ## Streams of a lane group -/

/-- Byte ranges that a lane group of a stream occupies: elements, then scales (R226). -/
def groupRanges (c : Chain) (st : Stream) (r c0 c1 : Nat) : List Range :=
  let base := 64 * st.off
  if codeScaled st.fmt then
    let nb := cdiv c.len 32
    let b0 := c0 / 32
    let b1 := cdiv c1 32
    [(base + (r * nb + b0) * blockBytes st.fmt, (b1 - b0) * blockBytes st.fmt),
     (base + scaleStart st.fmt c.rows c.len + r * nb + b0, b1 - b0)]
  else
    let bits := codeBits st.fmt
    let row := base + (if st.ld = 0 then r * c.len * bits / 8 else r * 64 * st.ld)
    [(row + c0 * bits / 8, cdiv (c1 * bits) 8 - c0 * bits / 8)]

/-- Element `i` of a lane group held as the bytes of its ranges. -/
def groupElem (fmt : Nat) (bss : List (List Byte)) (i : Nat) : Num :=
  match bss with
  | [es, ss] => scaledDecode (fmtD fmt) (leAt ss (i / 32) 1) (elemAt es fmt (i / 32 * blockBytes fmt) (i % 32))
  | [es] => numDecode (fmtD fmt) (elemAt es fmt 0 i)
  | _ => .nan

/-- Read Crib ranges up to the first that gives no data. -/
def readRanges (s : State) (b : Nat) : List Range → State × Except Bad (List (List Byte))
  | [] => (s, .ok [])
  | (o, n) :: t =>
    match load s (cribBase b + o) n with
    | (s, .error bad) => (s, .error bad)
    | (s, .ok x) =>
      match readRanges s b t with
      | (s, .error bad) => (s, .error bad)
      | (s, .ok xs) => (s, .ok (x :: xs))

/-- The lane values of one input over a group, and the events of their conversion (R227). -/
def groupIn (p : Prog) (fmt : Nat) (bss : List (List Byte)) (n : Nat) : List Nat × Ev :=
  let r := (List.range n).map fun i => toLane p.strict p.fmt (groupElem fmt bss i)
  let nan := match bss with
    | [_, ss] => ss.countP (· = 255)
    | _ => 0
  (r.map (·.1), r.foldl (fun a x => evAdd a x.2) { scnan := nan })

/-- Read the inputs of a group: lane values by stream, zeros for a disabled one. -/
def groupIns (p : Prog) (c : Chain) (b r c0 c1 : Nat) (s : State) :
    List Stream → State × Except Bad (List (List Nat) × Ev)
  | [] => (s, .ok ([], {}))
  | st :: t =>
    let here : State × Except Bad (List Nat × Ev) :=
      if !st.en then (s, .ok ([], {}))
      else
        match readRanges s b (groupRanges c st r c0 c1) with
        | (s, .error bad) => (s, .error bad)
        | (s, .ok bss) => (s, .ok (groupIn p st.fmt bss (c1 - c0)))
    match here with
    | (s, .error bad) => (s, .error bad)
    | (s, .ok x) =>
      match groupIns p c b r c0 c1 s t with
      | (s, .error bad) => (s, .error bad)
      | (s, .ok y) => (s, .ok (x.1 :: y.1, evAdd x.2 y.2))

/-! ## Computing and packing a group -/

/-- What a group computes: the outputs of every element, and the running folds. -/
structure GroupOut where
  outs : List (List Nat)
  scan : List (Nat × Nat)
  ev   : Ev
  deriving DecidableEq, Repr

/-- The draw keys of an element (R228). -/
def elemKey (c : Chain) (r col : Nat) : Nat := (c.ebase + r * c.estride + col) % 2 ^ 48

def runGroup (p : Prog) (c : Chain) (step r c0 c1 : Nat) (xs : List (List Nat)) (scan : List (Nat × Nat)) : GroupOut :=
  (List.range (c1 - c0)).foldl (fun g i =>
    let e := runElem p (xs.map fun x => (x[i]?).getD 0) g.scan (c0 + i) ⟨step, c.cvttensor, elemKey c r (c0 + i)⟩
    ⟨g.outs ++ [e.out], e.scan, evAdd g.ev e.ev⟩) ⟨[], scan, {}⟩

/-- The encodings of an output over a group, in an unscaled format (R228). -/
def packPlain (p : Prog) (c : Chain) (st : Stream) (step r c0 : Nat) (vs : List Nat) : List Nat × Ev :=
  let enc := vs.zipIdx.map fun (v, i) =>
    let mode := rndOf st.rm
    numEncode (fmtD st.fmt) p.strict mode (if st.rm = 2 then srBits step st.tensor (elemKey c r (c0 + i)) else 0) (f32 v)
  (enc.map (·.1), enc.foldl (fun a x => evAdd a x.2) {})

/-- One block of an output (R115): scale byte, encodings, events. -/
def packBlock (p : Prog) (c : Chain) (st : Stream) (step r c0 : Nat) (vs : List Nat) : Nat × List Nat × Ev :=
  let f := fmtD st.fmt
  let e := blockScale f (vs.map f32)
  let enc := vs.zipIdx.map fun (v, i) =>
    numEncode f p.strict (rndOf st.rm) (if st.rm = 2 then srBits step st.tensor (elemKey c r (c0 + i)) else 0)
      (numScale (f32 v) (-e))
  ((e + 127).toNat, enc.map (·.1) ++ List.replicate (32 - vs.length) 0, enc.foldl (fun a x => evAdd a x.2) {})

/-- The bytes of an output over a group, in the order of its ranges. -/
def packGroup (p : Prog) (c : Chain) (st : Stream) (step r c0 : Nat) (vs : List Nat) : List (List Byte) × Ev :=
  let bits := codeBits st.fmt
  if codeScaled st.fmt then
    let blocks := (List.range (cdiv vs.length 32)).map fun j =>
      packBlock p c st step r (c0 + 32 * j) ((vs.drop (32 * j)).take 32)
    ([blocks.flatMap fun x => packElems bits x.2.1, blocks.map fun x => BitVec.ofNat 8 x.1],
      blocks.foldl (fun a x => evAdd a x.2.2) {})
  else
    let x := packPlain p c st step r c0 vs
    ([packElems bits x.1], x.2)

/-- Write an output of a group. -/
def writeRanges (b : Nat) (r : State × Option Bad) (x : Range × List Byte) : State × Option Bad :=
  match r with
  | (s, some bad) => (s, some bad)
  | (s, none) => store s (cribBase b + x.1.1) x.2

/-- Pack and write the enabled outputs of a group (R228). -/
def writeGroup (p : Prog) (c : Chain) (step b r c0 c1 : Nat) (outs : List (List Nat)) (s : State) : State × Option Bad :=
  c.y.zipIdx.foldl (fun (acc : State × Option Bad) (st, k) =>
    match acc with
    | (s, some bad) => (s, some bad)
    | (s, none) =>
      if !st.en then (s, none)
      else
        let (bss, ev) := packGroup p c st step r c0 (outs.map fun o => (o[k]?).getD 0)
        ((groupRanges c st r c0 c1).zip bss).foldl (writeRanges b) (numEvB s (Reg.THR_NUMOVF b) ev, none)) (s, none)

/-! ## A chain -/

/-- A chain in progress: the W elements by row, latest row last, and the read that stopped it. -/
structure Chn where
  s    : State
  rows : List (List Nat)
  scan : List (Nat × Nat)
  bad  : Option Bad

/-- Append to the last row. -/
def addLast (l : List (List Nat)) (xs : List Nat) : List (List Nat) :=
  match l.reverse with
  | [] => [xs]
  | r :: t => (t.reverse) ++ [r ++ xs]

/-- One lane group (R223). -/
def chainGroup (p : Prog) (c : Chain) (hasW : Bool) (step b r : Nat) (w : Chn) (g : Nat) : Chn :=
  match w.bad with
  | some _ => w
  | none =>
    let c0 := g * laneGroup c.lf
    let c1 := min c.len (c0 + laneGroup c.lf)
    match groupIns p c b r c0 c1 w.s c.x with
    | (s, .error bad) => { w with s := s, bad := some bad }
    | (s, .ok (xs, ev)) =>
      let o := runGroup p c step r c0 c1 xs w.scan
      let s := numEvB s (Reg.THR_NUMOVF b) (evAdd ev o.ev)
      match writeGroup p c step b r c0 c1 o.outs s with
      | (s, some bad) => { w with s := s, bad := some bad }
      | (s, none) =>
        { s := s, rows := if hasW then addLast w.rows (o.outs.map fun x => (x[2]?).getD 0) else w.rows
          scan := o.scan, bad := none }

/-- One row: its groups by ascending column; a scan starts afresh. -/
def chainRow (p : Prog) (c : Chain) (hasW : Bool) (step b : Nat) (w : Chn) (r : Nat) : Chn :=
  match w.bad with
  | some _ => w
  | none =>
    (List.range (cdiv c.len (laneGroup c.lf))).foldl (chainGroup p c hasW step b r)
      { w with scan := [], rows := if hasW then w.rows ++ [[]] else w.rows }

/-- Write the results of the Winnow (R245). -/
def writeResults (c : Chain) (b : Nat) (results : List (List Nat)) (s : State) : State × Option Bad :=
  if c.wop = 7 then
    results.zipIdx.foldl (fun (acc : State × Option Bad) (r, i) =>
      writeRanges b acc ((64 * c.woff + 64 * i * c.wld, 0), r.flatMap (leBytes 4))) (s, none)
  else writeRanges b (s, none) ((64 * c.woff, 0), results.flatMap fun r => r.flatMap (leBytes 4))

/-- A chain stops on a read that gives no data (R249). -/
def chainFault (s : State) (b id : Nat) (bad : Bad) : State :=
  let s := raise (bump s (Reg.THR_FAULT b) 1) (Reg.THR_INTSTAT b) Fld.THR_INTSTAT_FAULT.bit
  stopConsumer (mapEntry s b id fun e => { e with stopped := true, done := true }) false bad 0

/-- Count the non-finite W elements (R247). -/
def countNonfin (s : State) (b id : Nat) (ws : List Nat) : State :=
  let n := ws.countP fun w => !(numIsFin (f32 w))
  let s := setReg64 s (Reg.THR_NONFIN_LO b) (min (reg64 s (Reg.THR_NONFIN_LO b) + n) (2 ^ 64 - 1))
  let s := if n = 0 then s else raise s (Reg.THR_INTSTAT b) Fld.THR_INTSTAT_NONFIN.bit
  mapEntry s b id fun e => { e with nonfin := n }

/-- The end of a chain whose groups have all passed: results, then the summary (R245 to R247). -/
def chainEnd (p : Prog) (c : Chain) (b id : Nat) (w : Chn) : State :=
  let ws := w.rows.flatten
  let s := countNonfin w.s b id ws
  match w.bad with
  | some bad => chainFault s b id bad
  | none =>
    let lists := if c.wcol then columnsOf w.rows c.len else w.rows
    let rs := if c.wop = 0 then [] else lists.map (winResult p.strict c.wop (c.topk + 1))
    let s := numEvB s (Reg.THR_NUMOVF b) (rs.foldl (fun a x => evAdd a x.2) {})
    match (if c.wop = 0 then (s, none) else writeResults c b (rs.map (·.1)) s) with
    | (s, some bad) => chainFault s b id bad
    | (s, none) =>
      mapEntry s b id fun e => { e with
        summary := summaryOf c.sumsel c.wop (c.topk + 1) ws (rs.map (·.1)), done := true }

/-- Read the table blocks of a program (R238, R656): by stage offset. -/
def readTables (s : State) (b : Nat) (offs : List Nat) : State × Except Bad (List (Nat × List Byte)) :=
  match readRanges s b (offs.map fun o => (64 * o, 2112)) with
  | (s, .error bad) => (s, .error bad)
  | (s, .ok xs) => (s, .ok (offs.zip xs))

/-- The program of a configuration with its tables. -/
def progOf (strict : Bool) (c : Chain) (g : Cfg) (tabs : List (Nat × List Byte)) : Prog × Ev :=
  let f := laneFmt c.lf
  let k := loadK strict f g.k
  let code := (insStages g).map fun x =>
    ((if x.1.kind = 3 then (tabs.find? fun t => t.1 = x.1.toff).map fun t => tableOf t.2 else none), x.2)
  ({ strict := strict, fmt := f, k := k.1, code := code.zipIdx, usesCol := g.ins.any fun i => (srcsOf i).contains 15 },
    k.2)

/-- A chain whose blocks fail their checks: it retires without output (R656). -/
def chainRefused (s : State) (b id : Nat) : State := mapEntry s b id fun e => { e with badCfg := true, done := true }

/-- Run a chain (R233, R656). -/
def runChain (s : State) (b id : Nat) (body : List Byte) : State :=
  let c := chainOf body
  let step := ((entryOf s b id).map (·.step)).getD 0
  let s := setFld s (Reg.THR_STATUS b) Fld.THR_STATUS_BUSY 1
  match load s (cribBase b + 64 * c.cfg) 384 with
  | (s, .error bad) => chainFault s b id bad
  | (s, .ok bs) =>
    let g := cfgOf bs
    if cfgBad c bs then chainRefused s b id
    else
      let s := setFld s (Reg.THR_STATUS b) Fld.THR_STATUS_NSTAGE g.nstage
      match readTables s b ((g.stages.filter fun st => st.kind = 3).map (·.toff)) with
      | (s, .error bad) => chainFault s b id bad
      | (s, .ok tabs) =>
        if tabs.any fun t => tableBad t.2 then chainRefused s b id
        else
          let (p, ev) := progOf (strictMode s) c g tabs
          let s := numEvB s (Reg.THR_NUMOVF b) ev
          chainEnd p c b id
            ((List.range c.rows).foldl (chainRow p c (writesW g) step b) ⟨s, [], [], none⟩)

/-- CHAIN (R233). -/
def execChain (n t : Nat) (s : State) : Host.Outcome State Fault Refusal := issue s n 2 t (fun _ => true) runChain

end Sys2Proof.Machine
end

