-- ==== Sys2Proof/Machine/Dispatch.lean ====
section
/-! DEFINITION. The meaning of each command, one arm per row of spec/opcode_table.json. -/

namespace Sys2Proof.Machine

def exec (i : Instr) (s : State) : Host.Outcome State Fault Refusal :=
  match i with
  | .registerWrite bar off size data => Sys2Proof.Machine.execRegisterWrite bar off size data s
  | .rw1cClear reg data coincide => Sys2Proof.Machine.execRw1cClear reg data coincide s
  | .loReadLatch bar off size => Sys2Proof.Machine.execLoReadLatch bar off size s
  | .numclrWrite set data coincide => Sys2Proof.Machine.execNumclrWrite set data coincide s
  | .frameTick => Sys2Proof.Machine.execFrameTick s
  | .checkOffset => Sys2Proof.Machine.execCheckOffset s
  | .sliprunLimit => Sys2Proof.Machine.execSliprunLimit s
  | .slotStart p slot => Sys2Proof.Machine.execSlotStart p slot s
  | .timeTransferStart t1 => Sys2Proof.Machine.execTimeTransferStart t1 s
  | .frmCtrlWrite data => Sys2Proof.Machine.execFrmCtrlWrite data s
  | .frmSlipwinWrite data => Sys2Proof.Machine.execFrmSlipwinWrite data s
  | .endItem n => Sys2Proof.Machine.execEndItem n s
  | .branch n => Sys2Proof.Machine.execBranch n s
  | .setslot n => Sys2Proof.Machine.execSetslot n s
  | .addslot n => Sys2Proof.Machine.execAddslot n s
  | .semwait n => Sys2Proof.Machine.execSemwait n s
  | .signal n => Sys2Proof.Machine.execSignal n s
  | .semaphoreSignal n sem => Sys2Proof.Machine.execSemaphoreSignal n sem s
  | .barrier n => Sys2Proof.Machine.execBarrier n s
  | .counterAdd n => Sys2Proof.Machine.execCounterAdd n s
  | .counterRead n => Sys2Proof.Machine.execCounterRead n s
  | .setstep n => Sys2Proof.Machine.execSetstep n s
  | .stashSpillDone e => Sys2Proof.Machine.execStashSpillDone e s
  | .stashRestoreDone e => Sys2Proof.Machine.execStashRestoreDone e s
  | .workItemRetire n id => Sys2Proof.Machine.execWorkItemRetire n id s
  | .bghPreempt b => Sys2Proof.Machine.execBghPreempt b s
  | .boughFailStop n => Sys2Proof.Machine.execBoughFailStop n s
  | .substitutionCopyDone n => Sys2Proof.Machine.execSubstitutionCopyDone n s
  | .mma n t => Sys2Proof.Machine.execMma n t s
  | .l1 n t => Sys2Proof.Machine.execL1 n t s
  | .l2sq n t => Sys2Proof.Machine.execL2sq n t s
  | .maxplus n t => Sys2Proof.Machine.execMaxplus n t s
  | .minplus n t => Sys2Proof.Machine.execMinplus n t s
  | .cmpcnt n t => Sys2Proof.Machine.execCmpcnt n t s
  | .hamming n t => Sys2Proof.Machine.execHamming n t s
  | .tileShareStart n a => Sys2Proof.Machine.execTileShareStart n a s
  | .tilePassDone n a f => Sys2Proof.Machine.execTilePassDone n a f s
  | .columnTestDone b a cells sumPath => Sys2Proof.Machine.execColumnTestDone b a cells sumPath s
  | .disputeRecomputeDone n a sBad qBad => Sys2Proof.Machine.execDisputeRecomputeDone n a sBad qBad s
  | .mactrlInject b a => Sys2Proof.Machine.execMactrlInject b a s
  | .mactrlColtest b a => Sys2Proof.Machine.execMactrlColtest b a s
  | .dotPass n t => Sys2Proof.Machine.execDotPass n t s
  | .stagePass n t => Sys2Proof.Machine.execStagePass n t s
  | .switchPass n t => Sys2Proof.Machine.execSwitchPass n t s
  | .sklNextArm lo => Sys2Proof.Machine.execSklNextArm lo s
  | .sklNextCancel lo => Sys2Proof.Machine.execSklNextCancel lo s
  | .chain n t => Sys2Proof.Machine.execChain n t s
  | .copyCart n t => Sys2Proof.Machine.execCopyCart n t s
  | .atomicCart n t => Sys2Proof.Machine.execAtomicCart n t s
  | .reduceCart n t => Sys2Proof.Machine.execReduceCart n t s
  | .contributionResend cartid seq => Sys2Proof.Machine.execContributionResend cartid seq s
  | .roundClose line => Sys2Proof.Machine.execRoundClose line s
  | .reductionStall line => Sys2Proof.Machine.execReductionStall line s
  | .objectCart n t => Sys2Proof.Machine.execObjectCart n t s
  | .register j => Sys2Proof.Machine.execRegister j s
  | .release j => Sys2Proof.Machine.execRelease j s
  | .promote j => Sys2Proof.Machine.execPromote j s
  | .pin j => Sys2Proof.Machine.execPin j s
  | .unpin j => Sys2Proof.Machine.execUnpin j s
  | .demote j => Sys2Proof.Machine.execDemote j s
  | .stream j => Sys2Proof.Machine.execStream j s
  | .evict j => Sys2Proof.Machine.execEvict j s
  | .promotionComplete j => Sys2Proof.Machine.execPromotionComplete j s
  | .unpinMoveDone j => Sys2Proof.Machine.execUnpinMoveDone j s
  | .demotionComplete j => Sys2Proof.Machine.execDemotionComplete j s
  | .cartComplete cartid => Sys2Proof.Machine.execCartComplete cartid s
  | .fillComplete line => Sys2Proof.Machine.execFillComplete line s
  | .mapoutStart slice layer => Sys2Proof.Machine.execMapoutStart slice layer s
  | .mapoutDone slice => Sys2Proof.Machine.execMapoutDone slice s
  | .bankSpareStart layer bank => Sys2Proof.Machine.execBankSpareStart layer bank s
  | .bankCopyDone layer bank => Sys2Proof.Machine.execBankCopyDone layer bank s
  | .dispatch => Sys2Proof.Machine.execDispatch s
  | .returnRows => Sys2Proof.Machine.execReturnRows s
  | .combine => Sys2Proof.Machine.execCombine s
  | .redispatch => Sys2Proof.Machine.execRedispatch s
  | .wainEnd => Sys2Proof.Machine.execWainEnd s
  | .update => Sys2Proof.Machine.execUpdate s
  | .commit => Sys2Proof.Machine.execCommit s
  | .millEnd => Sys2Proof.Machine.execMillEnd s
  | .millBlockDone j k => Sys2Proof.Machine.execMillBlockDone j k s
  | .millStateArrive j k state => Sys2Proof.Machine.execMillStateArrive j k state s
  | .matrixJobDone j => Sys2Proof.Machine.execMatrixJobDone j s
  | .runtimeCounterTest => Sys2Proof.Machine.execRuntimeCounterTest s
  | .stepResolve => Sys2Proof.Machine.execStepResolve s
  | .wcRegeneration => Sys2Proof.Machine.execWcRegeneration s
  | .fenceStall => Sys2Proof.Machine.execFenceStall s
  | .write p pkt => Sys2Proof.Machine.execWrite p pkt s
  | .readreq p pkt => Sys2Proof.Machine.execReadreq p pkt s
  | .readrsp p pkt => Sys2Proof.Machine.execReadrsp p pkt s
  | .atomic p pkt => Sys2Proof.Machine.execAtomic p pkt s
  | .atomrsp p pkt => Sys2Proof.Machine.execAtomrsp p pkt s
  | .reduce p pkt => Sys2Proof.Machine.execReduce p pkt s
  | .tree p pkt => Sys2Proof.Machine.execTree p pkt s
  | .treeRunStart tr => Sys2Proof.Machine.execTreeRunStart tr s
  | .ack p pkt => Sys2Proof.Machine.execAck p pkt s
  | .refuse p pkt => Sys2Proof.Machine.execRefuse p pkt s
  | .flagSlip p pkt => Sys2Proof.Machine.execFlagSlip p pkt s
  | .flagBlight p pkt => Sys2Proof.Machine.execFlagBlight p pkt s
  | .flagArrive p pkt => Sys2Proof.Machine.execFlagArrive p pkt s
  | .flagRelease p pkt => Sys2Proof.Machine.execFlagRelease p pkt s
  | .mgmt p before pkt => Sys2Proof.Machine.execMgmt p before pkt s
  | .transitPacket p pkt bad => Sys2Proof.Machine.execTransitPacket p pkt bad s
  | .nak p tr => Sys2Proof.Machine.execNak p tr s
  | .portRetrain p => Sys2Proof.Machine.execPortRetrain p s
  | .portLockLoss p => Sys2Proof.Machine.execPortLockLoss p s
  | .wavelengthFail p lane => Sys2Proof.Machine.execWavelengthFail p lane s
  | .linkctlFailover p m => Sys2Proof.Machine.execLinkctlFailover p m s
  | .laneFailover p => Sys2Proof.Machine.execLaneFailover p s
  | .linkctlReason p m => Sys2Proof.Machine.execLinkctlReason p m s
  | .linkctlTime p pkt t2 t3 t4 => Sys2Proof.Machine.execLinkctlTime p pkt t2 t3 t4 s
  | .trainingSequence p deskewed locked => Sys2Proof.Machine.execTrainingSequence p deskewed locked s
  | .hello p m => Sys2Proof.Machine.execHello p m s
  | .proof p m => Sys2Proof.Machine.execProof p m s
  | .confirm p pkt => Sys2Proof.Machine.execConfirm p pkt s
  | .admitRetry p => Sys2Proof.Machine.execAdmitRetry p s
  | .floorSlot slot => Sys2Proof.Machine.execFloorSlot slot s
  | .beacon bu => Sys2Proof.Machine.execBeacon bu s
  | .rangeAttempt => Sys2Proof.Machine.execRangeAttempt s
  | .rangeEcho delay whole => Sys2Proof.Machine.execRangeEcho delay whole s
  | .joinAttempt => Sys2Proof.Machine.execJoinAttempt s
  | .join bu => Sys2Proof.Machine.execJoin bu s
  | .telem bu => Sys2Proof.Machine.execTelem bu s
  | .memberLost idx => Sys2Proof.Machine.execMemberLost idx s
  | .leaveAttempt => Sys2Proof.Machine.execLeaveAttempt s
  | .leave bu => Sys2Proof.Machine.execLeave bu s
  | .claimAttempt => Sys2Proof.Machine.execClaimAttempt s
  | .claim bu => Sys2Proof.Machine.execClaim bu s
  | .beaconTimeout => Sys2Proof.Machine.execBeaconTimeout s
  | .floorFlagBlock seen => Sys2Proof.Machine.execFloorFlagBlock seen s
  | .slipFlagSlot j light => Sys2Proof.Machine.execSlipFlagSlot j light s
  | .floorExit => Sys2Proof.Machine.execFloorExit s
  | .correctedWriteback cw => Sys2Proof.Machine.execCorrectedWriteback cw s
  | .gleanerRead ch => Sys2Proof.Machine.execGleanerRead ch s
  | .rowRepairDone ch row => Sys2Proof.Machine.execRowRepairDone ch row s
  | .gleanerAdapt => Sys2Proof.Machine.execGleanerAdapt s
  | .rakeRead slice => Sys2Proof.Machine.execRakeRead slice s
  | .rakeSlow slice => Sys2Proof.Machine.execRakeSlow slice s
  | .flipArm u data => Sys2Proof.Machine.execFlipArm u data s
  | .flipCancel u data => Sys2Proof.Machine.execFlipCancel u data s
  | .announcedExit => Sys2Proof.Machine.execAnnouncedExit s
  | .por => Sys2Proof.Machine.execPor s
  | .mainpg => Sys2Proof.Machine.execMainpg s
  | .mainPgFall => Sys2Proof.Machine.execMainPgFall s
  | .perstAssert => Sys2Proof.Machine.execPerstAssert s
  | .perstDeassert => Sys2Proof.Machine.execPerstDeassert s
  | .watchdog => Sys2Proof.Machine.execWatchdog s
  | .thermalTrip => Sys2Proof.Machine.execThermalTrip s
  | .startPhaseDone r us => Sys2Proof.Machine.execStartPhaseDone r us s
  | .startDeadline => Sys2Proof.Machine.execStartDeadline s
  | .rootSubreset => Sys2Proof.Machine.execRootSubreset s
  | .quiesceTimeout => Sys2Proof.Machine.execQuiesceTimeout s
  | .rootSubresetDone => Sys2Proof.Machine.execRootSubresetDone s
  | .loftLayerReset layer => Sys2Proof.Machine.execLoftLayerReset layer s
  | .layerResetDone layer => Sys2Proof.Machine.execLayerResetDone layer s
  | .boughReset b => Sys2Proof.Machine.execBoughReset b s
  | .portReset p => Sys2Proof.Machine.execPortReset p s
  | .storeComplete => Sys2Proof.Machine.execStoreComplete s
  | .lifeStoreTimer => Sys2Proof.Machine.execLifeStoreTimer s
  | .fallowWakeDone => Sys2Proof.Machine.execFallowWakeDone s
  | .housekeepingRound chans => Sys2Proof.Machine.execHousekeepingRound chans s
  | .layerFault layer site => Sys2Proof.Machine.execLayerFault layer site s
  | .powerManagerTick => Sys2Proof.Machine.execPowerManagerTick s
  | .excursionExhausted => Sys2Proof.Machine.execExcursionExhausted s
  | .clockFault d => Sys2Proof.Machine.execClockFault d s
  | .clockRelockTimeout d => Sys2Proof.Machine.execClockRelockTimeout d s
  | .stage => Sys2Proof.Machine.execStage s
  | .stageComplete selfOk => Sys2Proof.Machine.execStageComplete selfOk s
  | .graft => Sys2Proof.Machine.execGraft s
  | .graftHandover => Sys2Proof.Machine.execGraftHandover s
  | .abandon => Sys2Proof.Machine.execAbandon s
  | .select => Sys2Proof.Machine.execSelect s
  | .fwmConfirm => Sys2Proof.Machine.execFwmConfirm s
  | .fwmAbandon => Sys2Proof.Machine.execFwmAbandon s
  | .trialExpiry => Sys2Proof.Machine.execTrialExpiry s
  | .fallback => Sys2Proof.Machine.execFallback s
  | .accept st size => Sys2Proof.Machine.execAccept st size s
  | .reset => Sys2Proof.Machine.execReset s
  | .fallow => Sys2Proof.Machine.execFallow s
  | .wake => Sys2Proof.Machine.execWake s
  | .store => Sys2Proof.Machine.execStore s
  | .nop => Sys2Proof.Machine.execNop s
  | .jobload => Sys2Proof.Machine.execJobload s
  | .jobStart => Sys2Proof.Machine.execJobStart s
  | .jobstop => Sys2Proof.Machine.execJobstop s
  | .blight => Sys2Proof.Machine.execBlight s
  | .swap => Sys2Proof.Machine.execSwap s
  | .object => Sys2Proof.Machine.execObject s
  | .subst => Sys2Proof.Machine.execSubst s
  | .copyin => Sys2Proof.Machine.execCopyin s
  | .copyout => Sys2Proof.Machine.execCopyout s
  | .fill => Sys2Proof.Machine.execFill s
  | .flashwrite => Sys2Proof.Machine.execFlashwrite s
  | .flashread => Sys2Proof.Machine.execFlashread s
  | .fuse => Sys2Proof.Machine.execFuse s
  | .attest => Sys2Proof.Machine.execAttest s
  | .identity => Sys2Proof.Machine.execIdentity s
  | .logEnable => Sys2Proof.Machine.execLogEnable s
  | .functionLevelReset => Sys2Proof.Machine.execFunctionLevelReset s
  | .d3hotEntry => Sys2Proof.Machine.execD3hotEntry s
  | .powerDown => Sys2Proof.Machine.execPowerDown s
  | .linkPacketDiscard p f => Sys2Proof.Machine.execLinkPacketDiscard p f s
  | .bareTrailer p tr => Sys2Proof.Machine.execBareTrailer p tr s
  | .reservedOpPacket p pkt => Sys2Proof.Machine.execReservedOpPacket p pkt s
  | .d0Entry => Sys2Proof.Machine.execD0Entry s
  | .hostTransferComplete handle ok => Sys2Proof.Machine.execHostTransferComplete handle ok s
  | .boughResetDone b => Sys2Proof.Machine.execBoughResetDone b s
  | .pllRelock d => Sys2Proof.Machine.execPllRelock d s

end Sys2Proof.Machine
end

