-- ==== Sys2Proof/Safety.lean ====
section
/-! DEFINITION. The terms that claims use: what a run keeps safe, when a command runs, and what it leaves alone. -/

namespace Sys2Proof.Machine

/-! ## Safe states -/

/-- Every vector sent is one of the 14 vectors of R620. -/
def vectorsOk (s : State) : Prop := ∀ v ∈ s.msix.sent, v < 14

/-- The sparse maps that hold registers, local memory, host memory and flash are canonical. -/
def Memory.wf (s : State) : Bool :=
  kwf regReset s.regs && kwf (fun _ => 0#8) s.mem && kwf (fun _ => 0#8) s.host.mem && kwf (fun _ => 0xFF#8) s.rst.flash

/-! ## Running a command -/

/-- The command `c` in state `s` answers a next state of which `P` holds. -/
def Runs (c : Instr) (s : State) (P : State → Prop) : Prop := ∃ t, exec c s = .next t ∧ P t

/-- Every register but those named reads as before. -/
def RegsBut (s t : State) (changed : List Nat) : Prop := ∀ a, a ∉ changed → reg t a = reg s a

/-- Nothing but registers, the queue and MSI-X differs, and of the registers at most those named. -/
def OnlyRegs (s t : State) (changed : List Nat) : Prop :=
  t = { s with regs := t.regs, msix := t.msix, pending := t.pending, edge := t.edge } ∧ RegsBut s t changed

/-- Every byte of local memory, and its codes, are as before. -/
def MemSame (s t : State) : Prop := t.mem = s.mem ∧ t.ecc = s.ecc

/-- The walk of presented bough n stands at an item that a row can act on: what the walk finds satisfies `p`. -/
def walkHas (s : State) (n : Nat) (p : State → Nat → Item → List Byte → Bool) : Bool :=
  match walkTo s n with
  | .item u b i body => p u b i body
  | _ => false

end Sys2Proof.Machine
end

