-- ==== Sys2Proof/WellFormed.lean ====
section
/-! DEFINITION. Commands that can come about: every operand in the range that the spec gives it. The machine does not rely
on it; a command outside it does nothing or acts on the number as it stands. -/

namespace Sys2Proof

/-- A presented bough (R28), a time in the longest frame in ns (R39), a physical bough (R27). -/
def wfBough (n : Nat) : Bool := n < 64
def wfTime (t : Nat) : Bool := t < 256000
def wfPhys (b : Nat) : Bool := b < 68

/-- An array of a bough (05_arrays.md), a fabric port (12_fabric.md), a slice (R26), a Loft layer (R505). -/
def wfArray (a : Nat) : Bool := a < 4
def wfPort (p : Nat) : Bool := p < 24
def wfSlice (k : Nat) : Bool := k < 64
def wfLayer (l : Nat) : Bool := l < 4

/-- A local offset has 40 bits (R254). -/
def wfOffset (a : Nat) : Bool := a < 2 ^ 40

/-- The fields of a trailer fit it (R410). -/
def Trailer.wf (t : Trailer) : Bool :=
  t.tag.length = 16 && t.lseq < 2 ^ 32 && t.lack < 2 ^ 32 && t.crvl < 4 && t.credits < 2 ^ 14 && t.rsv < 2 ^ 14
    && t.crc < 2 ^ 32

/-- The fields of a packet fit its header, KPH is zero when ENC is clear, and LEN says how long the payload is (R425). -/
def Packet.wf (k : Packet) : Bool :=
  k.dst < 2 ^ 18 && k.vl < 4 && k.op < 2 ^ 6 && (k.enc || !k.kph) && k.src < 2 ^ 18 && k.ttl < 2 ^ 6 && k.dtype < 2 ^ 4
    && k.rop < 2 ^ 4 && k.pkey < 2 ^ 16 && k.frame < 2 ^ 16 && k.cartid < 2 ^ 16 && k.len ≤ 512
    && k.payload.length = k.len && k.cseq < 2 ^ 32 && k.addr < 2 ^ 40 && k.aux < 2 ^ 24 && k.rsv < 2 ^ 9
    && k.hcrc < 2 ^ 32 && k.trailer.wf

/-- The fields of a burst fit its header (R460). -/
def Burst.wf (b : Burst) : Bool :=
  b.kind < 2 ^ 8 && b.segment < 2 ^ 16 && b.src < 2 ^ 18 && b.fidx < 2 ^ 8 && b.frame < 2 ^ 48 && b.payload.length ≤ 448
    && b.tag.length = 16 && b.crc < 2 ^ 32

/-- The numbers and the nonce of a HELLO (R418). -/
def Hello.wf (h : Hello) : Bool := h.device < 2 ^ 18 && h.pkey < 2 ^ 16 && h.major < 2 ^ 16 && h.nonce.length = 32

/-- An access of the host port: its size in bytes and an offset in its window (R599, R602). -/
def wfAccess (bar : Bar) (off size : Nat) : Bool :=
  [1, 2, 4, 8].contains size && match bar with
    | .bar0 => off < 2 ^ 18
    | .bar2 => off < 2 ^ 20

/-- A packet row: the port, the packet, and the OP the row is for (R426). -/
def wfPacketRow (p op : Nat) (k : Packet) : Bool := wfPort p && k.wf && k.op = op

/-- The TYPEs of bursts that have a row of their own (R460). -/
def rowKinds : List Nat := [1, 3, 4, 5, 6]

/-- A burst row: the burst, of the TYPE the row is for (R460) or of one that has no row, as a stranger's may be (R485). -/
def wfBurstRow (kind : Nat) (b : Burst) : Bool := b.wf && (b.kind = kind || !rowKinds.contains b.kind)

/-- A slot of a Floor frame (R463): telemetry slots are numbered below the 256 indices. -/
def FloorSlot.wf : FloorSlot → Bool
  | .beacon => true
  | .flags => true
  | .ranging => true
  | .telemetry k => k < 1000

/-- Every operand of a command is in its range. -/
def Instr.wf : Instr → Bool
  | .registerWrite bar off size _ => wfAccess bar off size
  | .rw1cClear reg _ _ => reg < 2 ^ 28 && reg % 4 = 0
  | .loReadLatch bar off size => wfAccess bar off size
  | .numclrWrite set _ _ => set < 2 ^ 28 && set % 4 = 0
  | .frameTick => true
  | .checkOffset => true
  | .sliprunLimit => true
  | .slotStart p slot => wfPort p && slot < 1000
  | .timeTransferStart t1 => t1 < 2 ^ 64
  | .frmCtrlWrite _ => true
  | .frmSlipwinWrite _ => true
  | .endItem n => wfBough n
  | .branch n => wfBough n
  | .setslot n => wfBough n
  | .addslot n => wfBough n
  | .semwait n => wfBough n
  | .signal n => wfBough n
  | .semaphoreSignal n sem => wfBough n && sem < 128
  | .barrier n => wfBough n
  | .counterAdd n => wfBough n
  | .counterRead n => wfBough n
  | .setstep n => wfBough n
  | .stashSpillDone e => e < 4096
  | .stashRestoreDone e => e < 4096
  | .workItemRetire n id => wfBough n && id < 64
  | .bghPreempt b => wfPhys b
  | .boughFailStop n => wfBough n
  | .substitutionCopyDone n => wfBough n
  | .mma n t => wfBough n && wfTime t
  | .l1 n t => wfBough n && wfTime t
  | .l2sq n t => wfBough n && wfTime t
  | .maxplus n t => wfBough n && wfTime t
  | .minplus n t => wfBough n && wfTime t
  | .cmpcnt n t => wfBough n && wfTime t
  | .hamming n t => wfBough n && wfTime t
  | .tileShareStart n a => wfBough n && wfArray a
  | .tilePassDone n a _ => wfBough n && wfArray a
  | .columnTestDone b a cells _ => wfPhys b && wfArray a && cells.all (fun c => c.row ≤ 128 && c.col ≤ 129)
  | .disputeRecomputeDone n a _ _ => wfBough n && wfArray a
  | .mactrlInject b a => wfPhys b && wfArray a
  | .mactrlColtest b a => wfPhys b && wfArray a
  | .dotPass n t => wfBough n && wfTime t
  | .stagePass n t => wfBough n && wfTime t
  | .switchPass n t => wfBough n && wfTime t
  | .sklNextArm lo => lo.getLsbD 0
  | .sklNextCancel lo => !lo.getLsbD 0
  | .chain n t => wfBough n && wfTime t
  | .copyCart n t => wfBough n && wfTime t
  | .atomicCart n t => wfBough n && wfTime t
  | .reduceCart n t => wfBough n && wfTime t
  | .contributionResend cartid seq => cartid < 2 ^ 16 && seq < 2 ^ 32
  | .roundClose line => wfOffset line
  | .reductionStall line => wfOffset line
  | .objectCart n t => wfBough n && wfTime t
  | .register j => j < 65536
  | .release j => j < 65536
  | .promote j => j < 65536
  | .pin j => j < 65536
  | .unpin j => j < 65536
  | .demote j => j < 65536
  | .stream j => j < 65536
  | .evict j => j < 65536
  | .promotionComplete j => j < 65536
  | .unpinMoveDone j => j < 65536
  | .demotionComplete j => j < 65536
  | .cartComplete cartid => cartid < 2 ^ 16
  | .fillComplete line => wfOffset line
  | .mapoutStart slice layer => wfSlice slice && wfLayer layer
  | .mapoutDone slice => wfSlice slice
  | .bankSpareStart layer bank => wfLayer layer && wfSlice bank
  | .bankCopyDone layer bank => wfLayer layer && wfSlice bank
  | .dispatch => true
  | .returnRows => true
  | .combine => true
  | .redispatch => true
  | .wainEnd => true
  | .update => true
  | .commit => true
  | .millEnd => true
  | .millBlockDone j _ => j < 65536
  | .millStateArrive j _ _ => j < 65536
  | .matrixJobDone j => j < 65536
  | .runtimeCounterTest => true
  | .stepResolve => true
  | .wcRegeneration => true
  | .fenceStall => true
  | .write p pkt => wfPacketRow p 1 pkt
  | .readreq p pkt => wfPacketRow p 2 pkt
  | .readrsp p pkt => wfPacketRow p 3 pkt
  | .atomic p pkt => wfPacketRow p 4 pkt
  | .atomrsp p pkt => wfPacketRow p 5 pkt
  | .reduce p pkt => wfPacketRow p 6 pkt
  | .tree p pkt => wfPacketRow p 7 pkt
  | .treeRunStart tr => tr < 64
  | .ack p pkt => wfPacketRow p 8 pkt
  | .refuse p pkt => wfPacketRow p 9 pkt
  | .flagSlip p pkt => wfPort p && pkt.wf
  | .flagBlight p pkt => wfPort p && pkt.wf
  | .flagArrive p pkt => wfPort p && pkt.wf
  | .flagRelease p pkt => wfPort p && pkt.wf
  | .mgmt p ks k => (k :: ks).all (wfPacketRow p 13)
  | .transitPacket p pkt _ => wfPort p && pkt.wf
  | .nak p tr => wfPort p && tr.wf && tr.nak
  | .portRetrain p => wfPort p
  | .portLockLoss p => wfPort p
  | .wavelengthFail p lane => wfPort p && lane < 9
  | .linkctlFailover p m => wfPacketRow p 12 m.pkt && m.text.1 < 8
  | .laneFailover p => wfPort p
  | .linkctlReason p m => wfPacketRow p 12 m.pkt && m.text < 10
  | .linkctlTime p k t2 t3 t4 => wfPacketRow p 12 k && [t2, t3, t4].all (· < 2 ^ 64)
  | .trainingSequence p _ locked => wfPort p && locked < 512
  | .hello p m => wfPacketRow p 11 m.pkt && m.text.wf
  | .proof p m => wfPacketRow p 11 m.pkt
  | .confirm p k => wfPacketRow p 11 k
  | .admitRetry p => wfPort p
  | .floorSlot slot => slot.wf
  | .beacon bu => wfBurstRow 1 bu
  | .rangeAttempt => true
  | .rangeEcho delay _ => delay < 2 ^ 12
  | .joinAttempt => true
  | .join bu => wfBurstRow 3 bu
  | .telem bu => wfBurstRow 4 bu
  | .memberLost idx => idx < 256
  | .leaveAttempt => true
  | .leave bu => wfBurstRow 5 bu
  | .claimAttempt => true
  | .claim bu => wfBurstRow 6 bu
  | .beaconTimeout => true
  | .floorFlagBlock seen => seen < 2 ^ 32
  | .slipFlagSlot _ _ => true
  | .floorExit => true
  | .correctedWriteback _ => true
  | .gleanerRead ch => ch < 256
  | .rowRepairDone ch _ => ch < 256
  | .gleanerAdapt => true
  | .rakeRead slice => wfSlice slice
  | .rakeSlow slice => wfSlice slice
  | .flipArm _ _ => true
  | .flipCancel _ _ => true
  | .announcedExit => true
  | .por => true
  | .mainpg => true
  | .mainPgFall => true
  | .perstAssert => true
  | .perstDeassert => true
  | .watchdog => true
  | .thermalTrip => true
  | .startPhaseDone r us => us < 2 ^ 32 && (match r with
    | .loft banks => banks.all fun x => x.1 < 4 && x.2 < 64
    | .crown arrays boughs => (arrays.all fun t => t.b < 68 && t.a < 4) && boughs.all (· < 68)
    | _ => true)
  | .startDeadline => true
  | .rootSubreset => true
  | .quiesceTimeout => true
  | .rootSubresetDone => true
  | .loftLayerReset layer => wfLayer layer
  | .layerResetDone layer => wfLayer layer
  | .boughReset b => wfPhys b
  | .portReset p => wfPort p
  | .storeComplete => true
  | .lifeStoreTimer => true
  | .fallowWakeDone => true
  | .housekeepingRound chans => chans.length = 301
  | .layerFault layer site => wfLayer layer && site < 32
  | .powerManagerTick => true
  | .excursionExhausted => true
  | .clockFault d => 1 ≤ d && d ≤ 25
  | .clockRelockTimeout d => 1 ≤ d && d ≤ 25
  | .stage => true
  | .stageComplete _ => true
  | .graft => true
  | .graftHandover => true
  | .abandon => true
  | .select => true
  | .fwmConfirm => true
  | .fwmAbandon => true
  | .trialExpiry => true
  | .fallback => true
  | .accept st size => st < 64 && [1, 2, 4, 8].contains size
  | .reset => true
  | .fallow => true
  | .wake => true
  | .store => true
  | .nop => true
  | .jobload => true
  | .jobStart => true
  | .jobstop => true
  | .blight => true
  | .swap => true
  | .object => true
  | .subst => true
  | .copyin => true
  | .copyout => true
  | .fill => true
  | .flashwrite => true
  | .flashread => true
  | .fuse => true
  | .attest => true
  | .identity => true
  | .logEnable => true
  | .functionLevelReset => true
  | .d3hotEntry => true
  | .powerDown => true
  | .linkPacketDiscard p f => wfPort p && (match f with
    | .uncorrectable lane => lane < 9
    | _ => true)
  | .bareTrailer p tr => wfPort p && tr.wf
  | .reservedOpPacket p pkt => wfPort p && pkt.wf
  | .d0Entry => true
  | .hostTransferComplete handle _ => handle < 2 ^ 32
  | .boughResetDone b => wfPhys b
  | .pllRelock d => 1 ≤ d && d ≤ 25

/-- The fabric port a command acts on. -/
def Instr.port : Instr → Option Nat
  | .registerWrite _ _ _ _ => none
  | .rw1cClear _ _ _ => none
  | .loReadLatch _ _ _ => none
  | .numclrWrite _ _ _ => none
  | .frameTick => none
  | .checkOffset => none
  | .sliprunLimit => none
  | .slotStart p _ => some p
  | .timeTransferStart _ => none
  | .frmCtrlWrite _ => none
  | .frmSlipwinWrite _ => none
  | .endItem _ => none
  | .branch _ => none
  | .setslot _ => none
  | .addslot _ => none
  | .semwait _ => none
  | .signal _ => none
  | .semaphoreSignal _ _ => none
  | .barrier _ => none
  | .counterAdd _ => none
  | .counterRead _ => none
  | .setstep _ => none
  | .stashSpillDone _ => none
  | .stashRestoreDone _ => none
  | .workItemRetire _ _ => none
  | .bghPreempt _ => none
  | .boughFailStop _ => none
  | .substitutionCopyDone _ => none
  | .mma _ _ => none
  | .l1 _ _ => none
  | .l2sq _ _ => none
  | .maxplus _ _ => none
  | .minplus _ _ => none
  | .cmpcnt _ _ => none
  | .hamming _ _ => none
  | .tileShareStart _ _ => none
  | .tilePassDone _ _ _ => none
  | .columnTestDone _ _ _ _ => none
  | .disputeRecomputeDone _ _ _ _ => none
  | .mactrlInject _ _ => none
  | .mactrlColtest _ _ => none
  | .dotPass _ _ => none
  | .stagePass _ _ => none
  | .switchPass _ _ => none
  | .sklNextArm _ => none
  | .sklNextCancel _ => none
  | .chain _ _ => none
  | .copyCart _ _ => none
  | .atomicCart _ _ => none
  | .reduceCart _ _ => none
  | .contributionResend _ _ => none
  | .roundClose _ => none
  | .reductionStall _ => none
  | .objectCart _ _ => none
  | .register _ => none
  | .release _ => none
  | .promote _ => none
  | .pin _ => none
  | .unpin _ => none
  | .demote _ => none
  | .stream _ => none
  | .evict _ => none
  | .promotionComplete _ => none
  | .unpinMoveDone _ => none
  | .demotionComplete _ => none
  | .cartComplete _ => none
  | .fillComplete _ => none
  | .mapoutStart _ _ => none
  | .mapoutDone _ => none
  | .bankSpareStart _ _ => none
  | .bankCopyDone _ _ => none
  | .dispatch => none
  | .returnRows => none
  | .combine => none
  | .redispatch => none
  | .wainEnd => none
  | .update => none
  | .commit => none
  | .millEnd => none
  | .millBlockDone _ _ => none
  | .millStateArrive _ _ _ => none
  | .matrixJobDone _ => none
  | .runtimeCounterTest => none
  | .stepResolve => none
  | .wcRegeneration => none
  | .fenceStall => none
  | .write p _ => some p
  | .readreq p _ => some p
  | .readrsp p _ => some p
  | .atomic p _ => some p
  | .atomrsp p _ => some p
  | .reduce p _ => some p
  | .tree p _ => some p
  | .treeRunStart _ => none
  | .ack p _ => some p
  | .refuse p _ => some p
  | .flagSlip p _ => some p
  | .flagBlight p _ => some p
  | .flagArrive p _ => some p
  | .flagRelease p _ => some p
  | .mgmt p _ _ => some p
  | .transitPacket p _ _ => some p
  | .nak p _ => some p
  | .portRetrain p => some p
  | .portLockLoss p => some p
  | .wavelengthFail p _ => some p
  | .linkctlFailover p _ => some p
  | .laneFailover p => some p
  | .linkctlReason p _ => some p
  | .linkctlTime p _ _ _ _ => some p
  | .trainingSequence p _ _ => some p
  | .hello p _ => some p
  | .proof p _ => some p
  | .confirm p _ => some p
  | .admitRetry p => some p
  | .floorSlot _ => none
  | .beacon _ => none
  | .rangeAttempt => none
  | .rangeEcho _ _ => none
  | .joinAttempt => none
  | .join _ => none
  | .telem _ => none
  | .memberLost _ => none
  | .leaveAttempt => none
  | .leave _ => none
  | .claimAttempt => none
  | .claim _ => none
  | .beaconTimeout => none
  | .floorFlagBlock _ => none
  | .slipFlagSlot _ _ => none
  | .floorExit => none
  | .correctedWriteback _ => none
  | .gleanerRead _ => none
  | .rowRepairDone _ _ => none
  | .gleanerAdapt => none
  | .rakeRead _ => none
  | .rakeSlow _ => none
  | .flipArm _ _ => none
  | .flipCancel _ _ => none
  | .announcedExit => none
  | .por => none
  | .mainpg => none
  | .mainPgFall => none
  | .perstAssert => none
  | .perstDeassert => none
  | .watchdog => none
  | .thermalTrip => none
  | .startPhaseDone _ _ => none
  | .startDeadline => none
  | .rootSubreset => none
  | .quiesceTimeout => none
  | .rootSubresetDone => none
  | .loftLayerReset _ => none
  | .layerResetDone _ => none
  | .boughReset _ => none
  | .portReset p => some p
  | .storeComplete => none
  | .lifeStoreTimer => none
  | .fallowWakeDone => none
  | .housekeepingRound _ => none
  | .layerFault _ _ => none
  | .powerManagerTick => none
  | .excursionExhausted => none
  | .clockFault _ => none
  | .clockRelockTimeout _ => none
  | .stage => none
  | .stageComplete _ => none
  | .graft => none
  | .graftHandover => none
  | .abandon => none
  | .select => none
  | .fwmConfirm => none
  | .fwmAbandon => none
  | .trialExpiry => none
  | .fallback => none
  | .accept _ _ => none
  | .reset => none
  | .fallow => none
  | .wake => none
  | .store => none
  | .nop => none
  | .jobload => none
  | .jobStart => none
  | .jobstop => none
  | .blight => none
  | .swap => none
  | .object => none
  | .subst => none
  | .copyin => none
  | .copyout => none
  | .fill => none
  | .flashwrite => none
  | .flashread => none
  | .fuse => none
  | .attest => none
  | .identity => none
  | .logEnable => none
  | .functionLevelReset => none
  | .d3hotEntry => none
  | .powerDown => none
  | .linkPacketDiscard p _ => some p
  | .bareTrailer p _ => some p
  | .reservedOpPacket p _ => some p
  | .d0Entry => none
  | .hostTransferComplete _ _ => none
  | .boughResetDone _ => none
  | .pllRelock _ => none

end Sys2Proof
end

