-- ==== Sys2Proof/Certificates/Slice0/Obligations.lean ====
section
/-! DEFINITION. The statements for the provers, family by family of the command table. -/

section
open Sys2Proof Sys2Proof.Machine

/-! ## The queue, the vectors and a device without power -/

/-- A step takes the command at the front of the queue and runs it with the rest of the queue. -/
def Obligations.StepRunsFront : Prop :=
  ∀ (c : Instr) (q : List Instr) (s : State), step { s with pending := c :: q } = exec c { s with pending := q }

/-- With no command waiting a step changes nothing (the model's choice, log entry 1). -/
def Statements.IdleStep : Prop := ∀ s : State, s.pending = [] → step s = .next s

/-- After reset no vector has been sent, every sparse map is canonical, no command waits, and nothing is registered,
walking or in flight. -/
def Obligations.ResetInvariant : Prop :=
  vectorsOk State.reset ∧ Memory.wf State.reset = true ∧ State.reset.pending = [] ∧ State.reset.boughs = []
    ∧ State.reset.carts = [] ∧ State.reset.loft.objs = [] ∧ State.reset.host.cmds = [] ∧ State.reset.wire = []

/-- R620: vectors 14 to 31 are never sent. Every step keeps the vectors sent within 0 to 13, and only adds to them. -/
def Obligations.StepKeepsVectors : Prop :=
  ∀ s t : State, vectorsOk s → step s = .next t → vectorsOk t ∧ s.msix.sent <:+ t.msix.sent

/-- The queue is first in, first out: a step that answers a next state took the front command and left the rest of the
queue as it was, whatever the command did. -/
def Statements.StepKeepsQueue : Prop :=
  ∀ s t : State, step s = .next t → t.pending = s.pending.tail

/-- Of the queue: an empty one lets the block idle, and no command touches what waits. -/
def Obligations.QueueAndIdle : Prop := Statements.IdleStep ∧ Statements.StepKeepsQueue

/-- R597, R598, R621: a command that finds the function in D3hot, or Bus Master Enable clear, and leaves it so, sends no
vector. -/
def Obligations.NoVectorWithoutMastering : Prop :=
  ∀ (c : Instr) (s t : State), exec c s = .next t →
    (s.host.d3hot = true ∨ s.host.bme = false) → (t.host.d3hot = true ∨ t.host.bme = false) →
    t.msix.sent = s.msix.sent

/-- The commands of the supplies, the pins and the trip, which a stopped device takes too. -/
def Statements.powerCommands : List Instr :=
  [.por, .mainpg, .mainPgFall, .powerDown, .thermalTrip, .perstAssert, .perstDeassert]

/-- R514, R639, R640 (log entry 8): while the supplies are down or a trip is latched, every other command answers a next
state that differs in MSI-X and in the frame boundary being past (R44) alone. -/
def Obligations.DeadDeviceIgnores : Prop :=
  ∀ (c : Instr) (s : State), alive s = false → c ∉ Statements.powerCommands →
    Runs c s fun t => t = { s with msix := t.msix, edge := t.edge }

/-- The presented bough whose program a command walks on, if it walks one. -/
def Statements.walks : Instr → Option Nat
  | .endItem n | .branch n | .setslot n | .addslot n | .semwait n | .signal n | .barrier n | .counterAdd n
  | .counterRead n | .setstep n | .mma n _ | .l1 n _ | .l2sq n _ | .maxplus n _ | .minplus n _ | .cmpcnt n _
  | .hamming n _ | .dotPass n _ | .stagePass n _ | .switchPass n _ | .chain n _ | .copyCart n _ | .atomicCart n _
  | .reduceCart n _ | .objectCart n _ => some n
  | _ => none

/-- Every command answers a next state in every state, but for one that walks a frame program whose next item is unmapped
(R254, log entry 29): there, and nowhere else, the machine stops, with the fault that says so. No command is refused. -/
def Obligations.OnlyStop : Prop :=
  (∀ (c : Instr) (s : State), Statements.walks c = none → ∃ t, exec c s = .next t) ∧
  (∀ (c : Instr) (s : State) (n : Nat), Statements.walks c = some n → walkTo s n ≠ .unmapped → ∃ t, exec c s = .next t) ∧
  (∀ (c : Instr) (s : State) (n : Nat), Statements.walks c = some n → alive s = true → walkTo s n = .unmapped →
    (∃ t, exec c s = .next t) ∨ exec c s = .fault .unmappedItem) ∧
  (∀ (s : State) (n : Nat), alive s = true → walkTo s n = .unmapped → exec (.endItem n) s = .fault .unmappedItem)

/-! ## Boughs: control items (R124 to R146) -/

/-- R124, R128 (what an END and a taken or untaken BRANCH do to the walk): END ends the walk for the program frame and
changes nothing else; BRANCH moves the list position to its target when its condition holds, else to the next item, and
changes nothing else. -/
def Obligations.WalkItems : Prop :=
  ∀ (s u : State) (n b : Nat) (i : Item) (body : List Byte), alive s = true → walkTo s n = .item u b i body →
    (i.fence = true → allRetired u b = true) →
    (i.kind = 0 → Runs (.endItem n) s fun t =>
      t = { u with boughs := t.boughs, msix := t.msix, pending := s.pending, edge := false } ∧ (bough t b).walking = false
        ∧ (bough t b).sb = (bough u b).sb ∧ ∀ c, c ≠ b → bough t c = bough u c) ∧
    (i.kind = 8 → slotBusy u b (bitsN i.w1 31 27) = false →
      (bitN i.w1 23 = true → slotBusy u b (bitsN i.w1 22 18) = false) → itemIdx u b ≠ 65535 →
      Runs (.branch n) s fun t =>
        OnlyRegs u t [Reg.BGH_ITEM b] ∧
          itemIdx t b = if branchTaken (bitsN i.w1 26 24) (slot u b (bitsN i.w1 31 27)) (branchB u b i) then
            bitsN i.w3 15 0 else itemIdx u b + 1)

/-- R127, R129, R145: SETSLOT loads its 64-bit value, ADDSLOT adds its signed 32-bit addend modulo 2^64, and a COUNTER
read copies the counter, each into the slot it names; the walk goes on and nothing else changes. -/
def Obligations.SlotItems : Prop :=
  ∀ (s u : State) (n b : Nat) (i : Item) (body : List Byte), alive s = true → b < 68 →
    walkTo s n = .item u b i body → ((i.fence || i.kind = 14) = true → allRetired u b = true) → itemIdx u b ≠ 65535 →
    (i.kind = 9 → slotBusy u b (bitsN i.w1 4 0) = false → Runs (.setslot n) s fun t =>
      OnlyRegs u t [Reg.BGH_SLOT_LO b (bitsN i.w1 4 0), Reg.BGH_SLOT_HI b (bitsN i.w1 4 0), Reg.BGH_ITEM b]
        ∧ slot t b (bitsN i.w1 4 0) = (i.w2 + 2 ^ 32 * i.w3) % 2 ^ 64 ∧ itemIdx t b = itemIdx u b + 1) ∧
    (i.kind = 10 → slotBusy u b (bitsN i.w1 4 0) = false → Runs (.addslot n) s fun t =>
      OnlyRegs u t [Reg.BGH_SLOT_LO b (bitsN i.w1 4 0), Reg.BGH_SLOT_HI b (bitsN i.w1 4 0), Reg.BGH_ITEM b]
        ∧ slot t b (bitsN i.w1 4 0) = wrapN 64 ((slot u b (bitsN i.w1 4 0) : Int) + sextN 32 i.w2)
        ∧ itemIdx t b = itemIdx u b + 1) ∧
    (i.kind = 14 → bitN i.w1 15 = true → Runs (.counterRead n) s fun t =>
      OnlyRegs u t [Reg.BGH_SLOT_LO b (bitsN i.w1 14 10), Reg.BGH_SLOT_HI b (bitsN i.w1 14 10), Reg.BGH_ITEM b]
        ∧ slot t b (bitsN i.w1 14 10) = counter u (bitsN i.w1 9 0) ∧ itemIdx t b = itemIdx u b + 1)

/-- R140: a wait takes its count from a semaphore that holds at least that much; R140, R141: a SIGNAL item sends its count
on the network, and the counts that arrive at a semaphore together are added to it. -/
def Statements.SemaphoreItems : Prop :=
  (∀ (s u : State) (n b : Nat) (i : Item) (body : List Byte), alive s = true → b < 68 →
    walkTo s n = .item u b i body → ((i.fence || i.kind = 12) = true → allRetired u b = true) → itemIdx u b ≠ 65535 →
    (i.kind = 11 → bitsN i.w2 23 0 ≤ sem u b (bitsN i.w1 6 0) → Runs (.semwait n) s fun t =>
      OnlyRegs u t [Reg.BGH_SEM b (bitsN i.w1 6 0), Reg.BGH_STATUS b, Reg.BGH_ITEM b]
        ∧ sem t b (bitsN i.w1 6 0) = sem u b (bitsN i.w1 6 0) - bitsN i.w2 23 0
        ∧ fld t (Reg.BGH_STATUS b) Fld.BGH_STATUS_SEMWAIT = 0 ∧ itemIdx t b = itemIdx u b + 1) ∧
    (i.kind = 12 → Runs (.signal n) s fun t =>
      OnlyRegs { u with net := u.net ++ [⟨bitsN i.w1 29 24, bitsN i.w1 22 16, bitsN i.w2 15 0⟩] } t [Reg.BGH_ITEM b]
        ∧ itemIdx t b = itemIdx u b + 1)) ∧
  (∀ (s : State) (n k : Nat), alive s = true → netHeld s n = false → phys s n < 68 → k < 128 →
    (∃ x ∈ s.net, x.bough = n ∧ x.sem = k) → fld s (Reg.BGH_STATUS (phys s n)) Fld.BGH_STATUS_SEMWAIT = 0 →
    sem s (phys s n) k + ((s.net.filter fun x => x.bough = n && x.sem = k).map (·.count)).sum ≤ 2 ^ 24 - 1 →
    Runs (.semaphoreSignal n k) s fun t =>
      OnlyRegs { s with net := s.net.filter fun x => !(x.bough = n && x.sem = k) } t [Reg.BGH_SEM (phys s n) k]
        ∧ sem t (phys s n) k =
          sem s (phys s n) k + ((s.net.filter fun x => x.bough = n && x.sem = k).map (·.count)).sum)

/-- R141: counts that bring a semaphore above 2^24 − 1 leave it there, set SEMOVF and pre-empt the receiving bough, whether a job
runs or none; what waits on the network for other semaphores waits on. -/
def Statements.SemaphoreOverflow : Prop :=
  ∀ (s : State) (n k : Nat), alive s = true → netHeld s n = false → phys s n < 68 → k < 128 →
    2 ^ 24 - 1 < sem s (phys s n) k + ((s.net.filter fun x => x.bough = n && x.sem = k).map (·.count)).sum →
    Runs (.semaphoreSignal n k) s fun t =>
      (bough t (phys s n)).halted = true ∧ fld t (Reg.BGH_INTSTAT (phys s n)) Fld.BGH_INTSTAT_SEMOVF = 1
        ∧ sem t (phys s n) k = 2 ^ 24 - 1 ∧ t.net = (s.net.filter fun x => !(x.bough = n && x.sem = k)) ∧ MemSame s t

/-- SEMWAIT, SIGNAL and incoming signals, and what a signal past the maximum does. -/
def Obligations.Semaphores : Prop := Statements.SemaphoreItems ∧ Statements.SemaphoreOverflow

/-- R143: a BARRIER whose mask names its own bough and that finds the unit free and other members missing waits with BARWAIT
set and its arrival recorded; one whose mask names its own bough alone is released at once: the unit is free again, its GEN
has toggled and the walk goes on. -/
def Obligations.BarrierItems : Prop :=
  ∀ (s u : State) (n b : Nat) (i : Item) (body : List Byte), alive s = true → b < 68 → b = phys s n →
    phys u n = phys s n → walkTo s n = .item u b i body → i.kind = 13 → allRetired u b = true →
    barSt u (bitsN i.w1 4 0) = {} → itemIdx u b ≠ 65535 → netHeld u n = false →
    (reg64 u (Reg.BGH_BARMASK_LO b (bitsN i.w1 4 0)) = 2 ^ n → n < 64 → Runs (.barrier n) s fun t =>
      barSt t (bitsN i.w1 4 0) = {} ∧ (bough t b).barWait = none ∧ itemIdx t b = itemIdx u b + 1
        ∧ fld t (Reg.BGH_BAR b (bitsN i.w1 4 0)) Fld.BGH_BAR_GEN =
          1 - fld u (Reg.BGH_BAR b (bitsN i.w1 4 0)) Fld.BGH_BAR_GEN) ∧
    ((∃ m ∈ maskBoughs (reg64 u (Reg.BGH_BARMASK_LO b (bitsN i.w1 4 0))), m ≠ n) → Runs (.barrier n) s fun t =>
      (bough t b).barWait = some (bitsN i.w1 4 0) ∧ (barSt t (bitsN i.w1 4 0)).arrived = [n]
        ∧ (barSt t (bitsN i.w1 4 0)).mask = reg64 u (Reg.BGH_BARMASK_LO b (bitsN i.w1 4 0))
        ∧ fld t (Reg.BGH_STATUS b) Fld.BGH_STATUS_BARWAIT = 1 ∧ itemIdx t b = itemIdx u b)

/-! ## Boughs: retirement, pre-emption and failure (R138, R148 to R152) -/

/-- R138: when the unit of an issued work item has finished, its retirement frees its scoreboard entry, counts it in
BGH_RETIRED and sends the signal of its fourth word; of whatever kind the item is, whether a job runs, and on a bough that is
pre-empted too. R132, R252: a CHAIN also counts in THR_CHAINS and, when it ended well and SUMEN is set, leaves its summary in
the slot it names. R148: a pre-empted bough with nothing left in flight shows STOPPED. -/
def Obligations.WorkItemRetires : Prop :=
  ∀ (s : State) (n id : Nat) (e : SbEntry), alive s = true → phys s n < 68 → entryOf s (phys s n) id = some e →
    e.done = true → Runs (.workItemRetire n id) s fun t =>
      entryOf t (phys s n) id = none ∧ (∀ x ∈ (bough s (phys s n)).sb, x.id ≠ id → x ∈ (bough t (phys s n)).sb)
        ∧ reg64 t (Reg.BGH_RETIRED_LO (phys s n)) = (reg64 s (Reg.BGH_RETIRED_LO (phys s n)) + 1) % 2 ^ 64
        ∧ fld t (Reg.BGH_STATUS (phys s n)) Fld.BGH_STATUS_SBOCC = (bough t (phys s n)).sb.length % 128
        ∧ t.net = (if bitN e.w3 31 then s.net ++ [⟨bitsN e.w3 29 24, bitsN e.w3 22 16, bitsN e.w3 15 0⟩] else s.net)
        ∧ MemSame s t
        ∧ (e.w0 / 2 ^ 28 = 2 →
            reg64 t (Reg.THR_CHAINS_LO (phys s n)) = min (reg64 s (Reg.THR_CHAINS_LO (phys s n)) + 1) (2 ^ 64 - 1)
            ∧ (bitN e.w0 23 = true → e.stopped = false → e.badCfg = false →
                slot t (phys s n) (bitsN e.w0 22 18) = e.summary % 2 ^ 64))
        ∧ ((bough s (phys s n)).halted = true → (bough t (phys s n)).sb = [] → isStopped t (phys s n) = true)
        ∧ (e.w0 / 2 ^ 28 ≠ 2 → (bough s (phys s n)).halted = false → s.host.job = none →
            RegsBut s t [Reg.BGH_STATUS (phys s n), Reg.BGH_RETIRED_LO (phys s n), Reg.BGH_RETIRED_LO (phys s n) + 4])

/-- R148: a pre-empted bough issues nothing further, whether a job runs or none, and once nothing it issued is left it shows
STOPPED and sets BGH_INTSTAT.STOPPED; what is in flight stays in flight. While another presented bough has not stopped, or no
job is loaded, no other register changes. -/
def Obligations.Preemption : Prop :=
  ∀ (s : State) (b : Nat), alive s = true → b < 68 → Runs (.bghPreempt b) s fun t =>
      (bough t b).halted = true ∧ walkReady t b = false ∧ (bough t b).sb = (bough s b).sb ∧ MemSame s t
        ∧ (∀ c, c ≠ b → bough t c = bough s c)
        ∧ (isStopped t b = (isStopped s b || (bough s b).sb.isEmpty))
        ∧ ((bough s b).sb = [] → isStopped s b = false → fld t (Reg.BGH_INTSTAT b) Fld.BGH_INTSTAT_STOPPED = 1)
        ∧ ((s.host.job = none ∨ ∃ c ∈ presented s, c ≠ b ∧ isStopped s c = false) →
            RegsBut s t [Reg.BGH_STATUS b, Reg.BGH_INTSTAT b])

/-- R152: a bough that fails stops at once with its unretired items abandoned, shows FAILED and FAILSTOP, and a substitution
of its number is ordered unless one is under way. While a step is open Blight is raised and no other bough is touched; with
none open the job ends: every presented bough is pre-empted. -/
def Statements.BoughFails : Prop :=
  ∀ (s : State) (n : Nat), alive s = true → phys s n < 68 → Runs (.boughFailStop n) s fun t =>
      (bough t (phys s n)).sb = [] ∧ (bough t (phys s n)).walking = false
        ∧ fld t (Reg.BGH_STATUS (phys s n)) Fld.BGH_STATUS_FAILED = 1
        ∧ fld t (Reg.BGH_INTSTAT (phys s n)) Fld.BGH_INTSTAT_FAILSTOP = 1
        ∧ ((∃ x ∈ t.integ.substDue, x.1 = n) ∨ ∃ x ∈ s.integ.copies, x.1 = n)
        ∧ ((∀ x ∈ s.integ.substDue, x.1 ≠ n) → (∀ x ∈ s.integ.copies, x.1 ≠ n) →
            t.integ.substDue = s.integ.substDue ++ [(n, true)])
        ∧ MemSame s t
        ∧ (stepOpen s = true → (∀ c, c ≠ phys s n → bough t c = bough s c)
            ∧ t.step.reports.length = s.step.reports.length + 1)
        ∧ (stepOpen s = false → s.host.job ≠ none → ∀ c ∈ presented s, (bough t c).halted = true)

/-- R150, R151: when the copy to a spare is done, the presentation map names the spare, the old bough presents nothing and
is marked failed, the spare has what the old bough's walk held, and a read of the spare's Crib gives what a read of the old
one's gave, where no codeword of the Crib is in error. What the networks held for the bough is delivered after that, and is
no part of the last two clauses. -/
def Statements.SpareTakesOver : Prop :=
  ∀ (s : State) (n b b' : Nat), alive s = true → n < 64 → b < 68 → b' < 68 → b ≠ b' →
    (s.integ.copies.find? fun c => c.1 = n) = some (n, b, b') → Runs (.substitutionCopyDone n) s fun t =>
      phys t n = b' ∧ bough t b = {} ∧ (∀ c ∈ t.integ.copies, c.1 ≠ n) ∧ (∀ c ∈ t.integ.substCmds, c.1 ≠ n)
        ∧ fld t (Reg.BGH_INTSTAT b') Fld.BGH_INTSTAT_SUBST = 1
        ∧ fld t (Reg.BGH_STATUS b) Fld.BGH_STATUS_FAILED = 1 ∧ fld t (Reg.BGH_STATUS b) Fld.BGH_STATUS_PRESENTED = 127
        ∧ fld t (Reg.BGH_STATUS b') Fld.BGH_STATUS_PRESENTED = n
        ∧ ((∀ x ∈ s.integ.heldBars, x.1 ≠ n) → (∀ x ∈ s.integ.heldParts, x.1 ≠ n) →
            bough t b' = { walking := (bough s b).walking, cut := (bough s b).cut, halted := (bough s b).halted
                           barWait := (bough s b).barWait }
            ∧ (s.ecc.cw = [] → ∀ o, o < 0x400000 → peek t (cribBase b' + o) 1 = peek s (cribBase b + o) 1))

/-- A bough fails, and its spare takes over. -/
def Obligations.BoughSubstitution : Prop := Statements.BoughFails ∧ Statements.SpareTakesOver

/-! ## The frame (R42 to R57, R72 to R78) -/

/-- The state in which a tick's work begins: FRM_COUNT has counted the tick, modulo 2^48 (R42, R43). -/
def Statements.counted (s : State) : State := setReg64 s Reg.FRM_COUNT_LO ((frameNo s + 1) % 2 ^ 48)

/-- Nothing that acts of its own accord at a boundary is at work: no job, walk, cart, step, repair, partial reset, model switch
or link, and no Floor. -/
def Statements.AtRest (s : State) : Prop :=
  s.host.job = none ∧ s.boughs = [] ∧ s.net = [] ∧ s.carts = [] ∧ s.loft = {} ∧ s.step = {} ∧ s.mill = {} ∧ s.stash = {}
    ∧ s.wain = {} ∧ s.integ = {} ∧ s.fab = {} ∧ s.floor = {} ∧ s.rst.parts = [] ∧ switchArmed s = false ∧ flrState s = 0

/-- R42, R43, R52, R57, R77: what a tick does to the numbers of the frame. With the slip flag clear a program frame begins:
FRM_PINDEX gains one, SLIPFRAME is clear, FRM_SLIPRUN is cleared unless the ended program frame slipped, and the work of a
frame boundary follows. With the flag set a slip frame begins: FRM_PINDEX stands, SLIPFRAME and FRM_INTSTAT.SLIP are set,
FRM_SLIPFRM gains one, FRM_SLIPCNT and FRM_SLIPRUN gain one in the first slip frame of the event only, and no boundary work
is done. The first tick of a device starts the tick, with the device its own tick leader (R73), and counts nothing. On a
device at rest these numbers, and memory, stand so after the whole tick. -/
def Obligations.FrameTick : Prop :=
  ∀ s : State, alive s = true → mayTick s = true →
    (ticking s = true → s.frm.slipFlag = false →
      (Runs .frameTick s fun t => t.regs = (everyTick (boundary (programStart (Statements.counted s)))).regs
        ∧ t.mem = (everyTick (boundary (programStart (Statements.counted s)))).mem) ∧
      ∀ u, u = programStart (Statements.counted s) →
        pindex u = (pindex s + 1) % 2 ^ 64 ∧ frameNo u = (frameNo s + 1) % 2 ^ 48 ∧ slipFrame u = false
          ∧ (s.frm.slipped = false → regN u Reg.FRM_SLIPRUN = 0)
          ∧ (s.frm.slipped = true → regN u Reg.FRM_SLIPRUN = regN s Reg.FRM_SLIPRUN)
          ∧ u.frm.slipOwn = false ∧ MemSame s u ∧ u.boughs = s.boughs ∧ u.carts = s.carts) ∧
    (ticking s = true → s.frm.slipFlag = false → Statements.AtRest s → Runs .frameTick s fun t =>
      pindex t = (pindex s + 1) % 2 ^ 64 ∧ frameNo t = (frameNo s + 1) % 2 ^ 48 ∧ slipFrame t = false ∧ atBoundary t = true
        ∧ (s.frm.slipped = false → regN t Reg.FRM_SLIPRUN = 0)
        ∧ (s.frm.slipped = true → regN t Reg.FRM_SLIPRUN = regN s Reg.FRM_SLIPRUN)
        ∧ t.frm.slipped = false ∧ MemSame s t ∧ t.carts = []) ∧
    (ticking s = true → s.frm.slipFlag = true → Statements.AtRest s → Runs .frameTick s fun t =>
      pindex t = pindex s ∧ frameNo t = (frameNo s + 1) % 2 ^ 48 ∧ slipFrame t = true ∧ atBoundary t = false
        ∧ fld t Reg.FRM_INTSTAT Fld.FRM_INTSTAT_SLIP = 1
        ∧ regN t Reg.FRM_SLIPFRM = min (regN s Reg.FRM_SLIPFRM + 1) 0xFFFFFFFF
        ∧ regN t Reg.FRM_SLIPCNT = min (regN s Reg.FRM_SLIPCNT + if slipFrame s then 0 else 1) 0xFFFFFFFF
        ∧ regN t Reg.FRM_SLIPRUN = min (regN s Reg.FRM_SLIPRUN + if slipFrame s then 0 else 1) 0xFFFFFFFF
        ∧ t.frm.slipFlag = false ∧ t.frm.slipped = true ∧ MemSame s t ∧ t.carts = []) ∧
    (ticking s = false → Statements.AtRest s → Runs .frameTick s fun t => ticking t = true
      ∧ fld t Reg.FRM_STATUS Fld.FRM_STATUS_LEADER = 1 ∧ frameNo t = frameNo s ∧ pindex t = pindex s ∧ MemSame s t) ∧
    (ticking s = true → s.frm.slipFlag = true →
      (Runs .frameTick s fun t => t.regs = (everyTick { slipBegin (Statements.counted s) with edge := false }).regs
        ∧ t.mem = (everyTick { slipBegin (Statements.counted s) with edge := false }).mem) ∧
      ∀ u, u = slipBegin (Statements.counted s) →
        pindex u = pindex s ∧ frameNo u = (frameNo s + 1) % 2 ^ 48 ∧ slipFrame u = true
          ∧ fld u Reg.FRM_INTSTAT Fld.FRM_INTSTAT_SLIP = 1
          ∧ regN u Reg.FRM_SLIPFRM = min (regN s Reg.FRM_SLIPFRM + 1) 0xFFFFFFFF
          ∧ regN u Reg.FRM_SLIPCNT = min (regN s Reg.FRM_SLIPCNT + if slipFrame s then 0 else 1) 0xFFFFFFFF
          ∧ regN u Reg.FRM_SLIPRUN = min (regN s Reg.FRM_SLIPRUN + if slipFrame s then 0 else 1) 0xFFFFFFFF
          ∧ u.frm.slipFlag = false ∧ MemSame s u ∧ u.boughs = s.boughs ∧ u.carts = s.carts) ∧
    (ticking s = false → Runs .frameTick s fun t =>
      t.regs = (everyTick (boundary (firstTick s))).regs
        ∧ ticking (firstTick s) = true ∧ fld (firstTick s) Reg.FRM_STATUS Fld.FRM_STATUS_LEADER = 1)

/-- R50: at the check offset a device that has not retired the running program frame raises the slip flag for it; a device
that has retired it contributes nothing. -/
def Statements.CheckOffset : Prop :=
  ∀ s : State, alive s = true → ticking s = true →
    (retired s = false → Runs .checkOffset s fun t =>
      t.frm = { s.frm with slipFlag := true, slipOwn := true } ∧ t.regs = s.regs ∧ MemSame s t ∧ t.boughs = s.boughs
        ∧ knows t (fkSlip, pindex s) = true) ∧
    (retired s = true → Runs .checkOffset s fun t => t = { s with msix := t.msix, edge := false })

/-- R57, R72, R76: FRM_INTSTAT.SLIPRUN is set when FRM_SLIPRUN has come to a nonzero SLIPLIM in a slip frame. A write of
FRM_CTRL takes SLIPLIM in every case, and PERIOD only while the device is not joined and within the bounds of R51; a write
of FRM_SLIPWIN takes WIN under the same conditions. While the tick runs neither governs the running frame. -/
def Statements.FrameSettings : Prop :=
  (∀ s : State, alive s = true → slipFrame s = true → fld s Reg.FRM_CTRL Fld.FRM_CTRL_SLIPLIM ≠ 0 →
    regN s Reg.FRM_SLIPRUN = fld s Reg.FRM_CTRL Fld.FRM_CTRL_SLIPLIM → Runs .sliprunLimit s fun t =>
      OnlyRegs s t [Reg.FRM_INTSTAT] ∧ fld t Reg.FRM_INTSTAT Fld.FRM_INTSTAT_SLIPRUN = 1) ∧
  (∀ (s : State) (d : Word), alive s = true → hostReach s = true → deadBlock s Reg.FRM_CTRL = false →
    Runs (.frmCtrlWrite d) s fun t =>
      fld t Reg.FRM_CTRL Fld.FRM_CTRL_SLIPLIM = bitsN d.toNat 23 16
        ∧ fld t Reg.FRM_CTRL Fld.FRM_CTRL_PERIOD =
            (if !joined s && periodOk (bitsN d.toNat 8 0)
                && winOk (bitsN d.toNat 8 0) (fld s Reg.FRM_SLIPWIN Fld.FRM_SLIPWIN_WIN) then bitsN d.toNat 8 0
              else fld s Reg.FRM_CTRL Fld.FRM_CTRL_PERIOD)
        ∧ (ticking s = true → t.frm = s.frm)
        ∧ RegsBut s t [Reg.FRM_CTRL, Reg.FRM_SLOTS, Reg.FLR_NTEL] ∧ MemSame s t) ∧
  (∀ (s : State) (d : Word), alive s = true → hostReach s = true → deadBlock s Reg.FRM_SLIPWIN = false →
    Runs (.frmSlipwinWrite d) s fun t =>
      fld t Reg.FRM_SLIPWIN Fld.FRM_SLIPWIN_WIN =
          (if !joined s && winOk (fld s Reg.FRM_CTRL Fld.FRM_CTRL_PERIOD) (bitsN d.toNat 7 0) then bitsN d.toNat 7 0
            else fld s Reg.FRM_SLIPWIN Fld.FRM_SLIPWIN_WIN)
        ∧ (ticking s = true → t.frm = s.frm)
        ∧ RegsBut s t [Reg.FRM_SLIPWIN, Reg.FRM_SLOTS, Reg.FLR_NTEL] ∧ MemSame s t)

/-- The check offset, and the settings of the frame. -/
def Obligations.FrameChecks : Prop := Statements.CheckOffset ∧ Statements.FrameSettings

/-- R437, R439: with no job's traffic named, a slot of a port that is up sends the Control packet that waits first, when the
partner's credit and the slot have room for it: the packet leaves once, joins the replay buffer and takes the next LSEQ, and
the queue is one shorter. -/
def Statements.SlotSendsControl : Prop :=
  ∀ (s : State) (p slot : Nat) (k : Packet), alive s = true → portUp s p = true →
    slot < fld s Reg.FRM_SLOTS Fld.FRM_SLOTS_COUNT → s.host.job = none → s.carts = [] → s.step.opened = [] →
    (port s p).again = [] → (port s p).transit = [] → (port s p).best = [] → (port s p).ctrl = [k] → k.vl = vlCtrl →
    mayStart s p k = true → 32 * pktUnits k ≤ 25600 →
    Runs (.slotStart p slot) s fun t => ∃ k', t.wire = s.wire ++ [.packet p k'] ∧ k'.payload = k.payload ∧ k'.dst = k.dst
      ∧ k'.op = k.op ∧ k'.trailer.lseq = (port s p).txNext ∧ (port t p).ctrl = []
      ∧ (port t p).replay = (port s p).replay ++ [k'] ∧ (port t p).txNext = ((port s p).txNext + 1) % 2 ^ 32
      ∧ t.regs = s.regs ∧ MemSame s t

/-- R478: the leader of a Floor without the root asks its flag-tree parent for the time, 16 frames after the last exchange
at the earliest: a LINKCTL packet of 32 bytes with 0x20 and T1 joins the Control packets of the parent port, which leave in
Control slots (R47), and nothing but the exchange is noted besides. -/
def Statements.TimeTransferStarts : Prop :=
  ∀ (s : State) (t1 : Nat), alive s = true → flrState s = fsLeader → isGateway s = true → isRootGw s = false →
    portUp s (parentPort s) = true → (s.floor.tlast = 0 ∨ s.floor.tlast + 16 ≤ frameNo s) →
    Runs (.timeTransferStart t1) s fun t => t.wire = s.wire ∧ t.regs = s.regs ∧ MemSame s t
      ∧ t.floor = { s.floor with tlast := frameNo s, twait := some t1 }
      ∧ ∃ k, (port t (parentPort s)).ctrl = (port s (parentPort s)).ctrl ++ [k] ∧ k.op = opLinkctl ∧ k.vl = vlCtrl
        ∧ k.len = 32 ∧ k.last = true
        ∧ k.payload = 0x20#8 :: List.replicate 7 0#8 ++ leBytes 8 t1 ++ leBytes 8 0 ++ leBytes 8 0

/-! ## Host accesses (R14 to R17, R119, R602, R603) -/

/-- A register that a host write reaches, with no action of its own. -/
def Statements.plainReg (s : State) (a : Nat) : Bool :=
  !deadBlock s a && !writeIgnored s a && (match boughWin a with | some (_, o) => o ≠ 0 && o ≠ 0x628 | none => true)
    && (flipUnit a).isNone
    && !([Reg.HST_CTRL, Reg.FRM_CTRL, Reg.FRM_SLIPWIN, Reg.SKL_NEXT_LO, Reg.RST_PARTIAL].contains a)
    && !(isNumSet (a - 0x14) && decide (0x14 ≤ a)) && !(Reg.BGH_CNT_LO 0 ≤ a && a < Reg.BGH_CNT_LO 1024)

/-- R16, R653: a 4-byte write to a register of BAR0 that has no action of its own loads the RW bits of the accepted value,
clears the RW1C bits written 1, leaves the other bits, and changes nothing else. -/
def Statements.RegisterWrite : Prop :=
  ∀ (s : State) (off a : Nat) (r : RegRow) (d : Dword), alive s = true → hostReach s = true → bar0Of s off = .ctl a →
    inPage a = false → a % 4 = 0 → regRow a = some r → Statements.plainReg s a = true →
    Runs (.registerWrite .bar0 off 4 d) s fun t =>
      OnlyRegs s t [a] ∧
        reg t a = ((reg s a &&& ~~~(BitVec.ofNat 32 r.rw))
            ||| (BitVec.ofNat 32 (acceptFields s a (d.toNat % 2 ^ 32)) &&& BitVec.ofNat 32 r.rw))
          &&& ~~~(BitVec.ofNat 32 (d.toNat % 2 ^ 32) &&& BitVec.ofNat 32 r.w1c)

/-- R17: a bit that the device sets in the cycle in which a write of 1 clears it stays set; every other RW1C bit written 1
is clear afterwards, and every other bit of the register, and every other register, is as before. -/
def Obligations.Rw1cClear : Prop :=
  ∀ (s : State) (a : Nat) (r : RegRow) (d c : Word), alive s = true → hostReach s = true → regRow a = some r →
    deadBlock s a = false → Runs (.rw1cClear a d c) s fun t =>
      OnlyRegs s t [a] ∧ ∀ i, i < 32 → (reg t a).getLsbD i =
        if (BitVec.ofNat 32 r.w1c).getLsbD i && c.getLsbD i then true
        else if (BitVec.ofNat 32 r.w1c).getLsbD i && d.getLsbD i then false else (reg s a).getLsbD i

/-- R15: a read of a _LO register returns its value and latches the _HI value; the next read of the _HI register returns the
latched value, whatever the quantity is by then, and uses the latch up; a read of _HI with no latch returns the live value.
No register changes. -/
def Obligations.LoHiLatch : Prop :=
  ∀ (s : State) (off a : Nat), alive s = true → hostReach s = true → bar0Of s off = .ctl a → inPage a = false →
    a % 4 = 0 → (regRow a).isSome = true → deadBlock s a = false →
    (isLo a = true → Runs (.loReadLatch .bar0 off 4) s fun t =>
      t.rdata = BitVec.ofNat 64 (shown s a) ∧ kfind t.latch (a + 4) = some (BitVec.ofNat 32 (shown s (a + 4)))
        ∧ t.regs = s.regs) ∧
    (∀ v, isLo a = false → kfind s.latch a = some v → Runs (.loReadLatch .bar0 off 4) s fun t =>
      t.rdata = BitVec.ofNat 64 v.toNat ∧ kfind t.latch a = none ∧ t.regs = s.regs) ∧
    (isLo a = false → kfind s.latch a = none → Runs (.loReadLatch .bar0 off 4) s fun t =>
      t.rdata = BitVec.ofNat 64 (shown s a) ∧ t.latch = s.latch ∧ t.regs = s.regs)

/-- R603: in Dormant, and in a block whose clock is stopped in Fallow, a read of a register returns zero, a write is
ignored, and HST_INTSTAT.DEADREG is set; in Dormant the HST, RST, HSK, FWM, FLR and INT blocks alone respond. -/
def Obligations.DeadBlocks : Prop :=
  (∀ (s : State) (off a : Nat) (d : Dword), alive s = true → hostReach s = true → bar0Of s off = .ctl a →
    inPage a = false → a % 4 = 0 → (regRow a).isSome = true → deadBlock s a = true →
    (Runs (.loReadLatch .bar0 off 4) s fun t =>
      t.rdata = 0 ∧ fld t Reg.HST_INTSTAT Fld.HST_INTSTAT_DEADREG = 1 ∧ RegsBut s t [Reg.HST_INTSTAT]) ∧
    (Runs (.registerWrite .bar0 off 4 d) s fun t =>
      OnlyRegs s t [Reg.HST_INTSTAT] ∧ fld t Reg.HST_INTSTAT Fld.HST_INTSTAT_DEADREG = 1)) ∧
  (∀ (s : State) (n o : Nat), o < 2 ^ 24 → rstState s = stDormant →
    (deadBlock s (n * 2 ^ 24 + o) = false ↔ n = 0x00 ∨ n = 0x0A ∨ n = 0x0B ∨ n = 0x0C ∨ n = 0x0D ∨ n = 0x0F)) ∧
  (∀ (s : State) (n o : Nat), o < 2 ^ 24 → rstState s = stFallow →
    (deadBlock s (n * 2 ^ 24 + o) = true ↔ 2 ≤ n ∧ n ≤ 8))

/-- R602: an access to a reserved offset of BAR0, or of a size or alignment that no register takes, reads zero and writes
nothing, and sets HST_INTSTAT.BADACCESS. -/
def Statements.BadAccess : Prop :=
  ∀ (s : State) (off size : Nat) (d : Dword), alive s = true → hostReach s = true →
    (bar0Of s off = .none ∨ ∃ a, bar0Of s off = .ctl a ∧ inPage a = false ∧
      (regRow a = none ∨ regSizeOk a size = false)) →
    (Runs (.loReadLatch .bar0 off size) s fun t =>
      t.rdata = 0 ∧ fld t Reg.HST_INTSTAT Fld.HST_INTSTAT_BADACCESS = 1 ∧ RegsBut s t [Reg.HST_INTSTAT] ∧ MemSame s t) ∧
    (Runs (.registerWrite .bar0 off size d) s fun t =>
      fld t Reg.HST_INTSTAT Fld.HST_INTSTAT_BADACCESS = 1 ∧ OnlyRegs s t [Reg.HST_INTSTAT])

/-- R119: a write to NUMCLR clears each counter of the set whose bit is written 1; events of the same cycle are counted after
the clear, in their counters, which saturate, and in the sticky bits; without one no other register changes. -/
def Statements.NumClear : Prop :=
  ∀ (s : State) (set : Nat) (d c : Word), alive s = true → hostReach s = true → isNumSet set = true →
    deadBlock s set = false → Runs (.numclrWrite set d c) s fun t => MemSame s t ∧
      (∀ i, i < 4 → regN t (set + 4 * i) =
        min ((if bitN d.toNat i then 0 else regN s (set + 4 * i)) + (if bitN c.toNat i then 1 else 0)) 0xFFFFFFFF) ∧
      (∀ i, i < 4 → bitN c.toNat i = true → bitN (regN t (set + 0x10)) i = true) ∧
      (c = 0 → OnlyRegs s t [set, set + 4, set + 8, set + 12])

/-- Register writes, accesses that no register takes, and NUMCLR. -/
def Obligations.RegisterAccess : Prop := Statements.RegisterWrite ∧ Statements.BadAccess ∧ Statements.NumClear

/-! ## Commands (R605 to R617) -/

/-- R605, R606, R613: an 8-byte ACCEPT read commits the staged record when no condition of R606 applies: it returns result 0
and the handle in its upper half, the record waits as PENDING behind those accepted before it and the stage is empty; when a
condition applies it returns the first that does, counts a refusal and accepts nothing. -/
def Obligations.Accept : Prop :=
  ∀ (s : State) (st : Nat), alive s = true → hostReach s = true → st < 64 →
    (∀ i, judge606 s (bytesAt ((kfind s.host.stages st).getD []) 0 64) = 0 → nextHandle s = some i →
      Runs (.accept st 8) s fun t => ∃ c, t.host.cmds = s.host.cmds ++ [c]
        ∧ c.record = bytesAt ((kfind s.host.stages st).getD []) 0 64 ∧ c.state = 1 ∧ c.handle % 4096 = i % 4096
        ∧ t.rdata = BitVec.ofNat 64 (2 ^ 32 * c.handle) ∧ kfind t.host.stages st = none
        ∧ kfind t.host.handles i = some (handleEntry c.handle 1 0 0 (2 ^ 64 - 1)) ∧ MemSame s t) ∧
    (judge606 s (bytesAt ((kfind s.host.stages st).getD []) 0 64) ≠ 0 → Runs (.accept st 8) s fun t =>
      t.rdata = BitVec.ofNat 64 (judge606 s (bytesAt ((kfind s.host.stages st).getD []) 0 64))
        ∧ t.host.cmds = s.host.cmds ∧ kfind t.host.stages st = none ∧ OnlyRegs { s with rdata := t.rdata, host := t.host } t
          [Reg.HST_REFUSALS]
        ∧ regN t Reg.HST_REFUSALS = min (regN s Reg.HST_REFUSALS + 1) 0xFFFFFFFF)

/-- The command of an opcode that R607 lets start now is `c`, under its own handle. -/
def Statements.Starts (s : State) (op : Nat) (c : HostCmd) : Prop :=
  startable s op = some c ∧ findCmd s c.handle = some c ∧ c.gone = false

/-- The command `c` is over with a status and a detail: nothing waits under its handle, and its status entry reads DONE. -/
def Statements.Completed (t : State) (c : HostCmd) (status detail : Nat) : Prop :=
  findCmd t c.handle = none ∧ ∃ n, kfind t.host.handles (c.handle % 4096) = some (handleEntry c.handle 3 status detail n)

/-- The fuses after group `g`, in the bits `f`, was blown with an alternative or, for group 5, with more ports (R523). -/
def Statements.blown (fuses : Nat) (f : Nat × Nat) (g alt ports : Nat) : Nat :=
  putBits fuses f.1 f.2 (if g = 5 then ports ||| bitsN fuses f.1 f.2 else alt)

/-- R609, R611, R523, R219 (with R616, R617): commands that act at once complete with status DONE: NOP with no other effect
on memory, boughs or jobs; BLIGHT with one more Blight report; SWAP with its table shown in SKL_NEXT and armed, with nothing
changed while a switch is armed, and with SWCONF and nothing armed where a conflict stands (R213); FUSE of every group with the
fuse recorded for the next full reset. -/
def Obligations.CommandsAtOnce : Prop :=
  ∀ (s : State) (c : HostCmd), alive s = true →
    (Statements.Starts s ocNop c → Runs .nop s fun t => Statements.Completed t c 0 0
      ∧ MemSame s t ∧ t.boughs = s.boughs ∧ t.host.job = s.host.job ∧ t.rst = s.rst ∧ t.wire = s.wire) ∧
    (Statements.Starts s ocBlight c → Runs .blight s fun t => Statements.Completed t c 0 0
      ∧ t.step.reports.length = s.step.reports.length + 1 ∧ MemSame s t ∧ t.boughs = s.boughs) ∧
    (Statements.Starts s ocSwap c → c.num 8 8 < 2 ^ 40 → c.num 8 8 % 4096 = 0 → Runs .swap s fun t =>
      Statements.Completed t c 0 0 ∧ MemSame s t ∧ t.boughs = s.boughs
        ∧ (switchArmed s = true → switchArmed t = true ∧ nextTable t = nextTable s)
        ∧ (switchArmed s = false → s.frm.swConf = false → switchArmed t = true ∧ nextTable t = c.num 8 8)
        ∧ (switchArmed s = false → s.frm.swConf = true → switchArmed t = false
            ∧ fld t Reg.SKL_INTSTAT Fld.SKL_INTSTAT_SWCONF = 1)) ∧
    (Statements.Starts s ocFuse c → Runs .fuse s fun t => Statements.Completed t c 0 0
      ∧ t.rst = { s.rst with fuses := Statements.blown s.rst.fuses (fuseBits (c.num 8 1)) (c.num 8 1) (c.num 9 1) (c.num 10 1) }
      ∧ MemSame s t ∧ t.boughs = s.boughs)

/-- R598, R607, R610 to R612: a command with a transfer starts: its status entry reads RUNNING and it has state 2, and
memory is as before; with Bus Master Enable clear, a command that needs host memory completes with HOSTDMA instead, and an
IDENTITY whose buffer is too short with HOSTBUF. -/
def Statements.TransfersStart : Prop :=
  ∀ (s : State) (c : HostCmd) (i : Instr) (op : Nat), alive s = true →
    (i, op) ∈ [(Instr.copyin, ocCopyin), (Instr.copyout, ocCopyout), (Instr.flashwrite, ocFlashwrite),
      (Instr.flashread, ocFlashread), (Instr.fill, ocFill), (Instr.identity, ocIdentity)] →
    Statements.Starts s op c →
    ((op = ocFill ∨ s.host.bme = true) → (op = ocIdentity → 9977 ≤ c.num 48 4) → Runs i s fun t =>
      findCmd t c.handle = some { c with state := 2 }
        ∧ kfind t.host.handles (c.handle % 4096) = some (handleEntry c.handle 2 0 0 (2 ^ 64 - 1))
        ∧ t = { s with host := t.host, msix := t.msix, edge := t.edge } ∧ t.host.mem = s.host.mem) ∧
    (op = ocIdentity → s.host.bme = true → c.num 48 4 < 9977 → Runs i s fun t =>
      Statements.Completed t c 16 0 ∧ MemSame s t) ∧
    (op ≠ ocFill → s.host.bme = false → Runs i s fun t => Statements.Completed t c 15 0 ∧ MemSame s t)

/-- R592, R593, R612: an ATTEST with a buffer that holds the response starts, and while no signing index is at hand the store
that reserves a block of them is under way; one whose buffer is shorter completes with HOSTBUF, and without Bus Master Enable
with HOSTDMA. -/
def Statements.AttestStarts : Prop :=
  ∀ (s : State) (c : HostCmd), alive s = true → Statements.Starts s ocAttest c →
    (s.host.bme = true → attestBytes s ≤ c.num 48 4 → Runs .attest s fun t =>
      findCmd t c.handle = some { c with state := 2 } ∧ t.regs = s.regs ∧ MemSame s t ∧ t.boughs = s.boughs
        ∧ (sigNext s < sigRes s → t.cellar = s.cellar)
        ∧ (sigRes s ≤ sigNext s → ∃ r ∈ t.cellar.stores, r.kind = ckSignres)) ∧
    (s.host.bme = true → c.num 48 4 < attestBytes s → Runs .attest s fun t => Statements.Completed t c 16 0 ∧ MemSame s t) ∧
    (s.host.bme = false → Runs .attest s fun t => Statements.Completed t c 15 0 ∧ MemSame s t)

/-- Host commands with a transfer start, ATTEST among them. -/
def Obligations.TransferStarts : Prop := Statements.TransfersStart ∧ Statements.AttestStarts

/-- Nothing else is under way that could go on: no cart is in use or coming in, no request waits, no round is open, no bank is
being copied, and the Wain is idle. -/
def Statements.Calm (s : State) : Prop :=
  s.carts = [] ∧ s.fab.inb = [] ∧ s.loft.waiting = [] ∧ s.loft.rounds = [] ∧ s.loft.banks = []
    ∧ fld s Reg.WAN_STATUS Fld.WAN_STATUS_BUSY = 0

/-- No codeword or layer check of memory is in error, and reads before writes are not caught (R501). -/
def Statements.Clean (s : State) : Prop := s.ecc.cw = [] ∧ s.ecc.lpar = [] ∧ initMode1 s = false

/-- What the transfer of a running command leaves in `t` that `s` did not have: the data where its opcode puts them, and its
completion. What the completion log writes to host memory, when it is on, is not told here. -/
def Statements.Transferred (s t : State) (c : HostCmd) : Prop :=
  (c.op = ocFlashread → Statements.Completed t c 0 0 ∧ MemSame s t ∧ (fld s Reg.HST_CTRL Fld.HST_CTRL_LOGEN = 0 →
    t.host.mem = hostWrite s.host.mem (c.num 8 8) (flashRead s (c.num 16 4) (c.num 20 4)))) ∧
  (c.op = ocFlashwrite → Statements.Completed t c 0 0 ∧ MemSame s t ∧
    t.rst.flash = flashWrite s.rst.flash (c.num 16 4) (hostRead s.host.mem (c.num 8 8) (c.num 20 4))) ∧
  (c.op = ocCopyout → Statements.Clean s → Statements.Completed t c 0 0 ∧ t.mem = s.mem ∧
    (fld s Reg.HST_CTRL Fld.HST_CTRL_LOGEN = 0 →
      t.host.mem = hostWrite s.host.mem (c.num 8 8) (peek s (c.num 16 8) (c.num 24 4)))) ∧
  (c.op = ocCopyin → Statements.Clean s → pcount s = 0 → Statements.Completed t c 0 0 ∧
    t.mem = memPut s.mem (c.num 16 8) (hostRead s.host.mem (c.num 8 8) (c.num 24 4))) ∧
  (c.op = ocIdentity → Statements.Completed t c 0 0 ∧ MemSame s t ∧ (fld s Reg.HST_CTRL Fld.HST_CTRL_LOGEN = 0 →
    t.host.mem = hostWrite s.host.mem (c.num 40 8)
      (bytesAt Config.serial 0 16 ++ bytesAt Config.identityKey 0 68 ++ bytesAt Config.factorySig 0 9893))) ∧
  (c.op = ocAttest → sigNext s < sigRes s → attestBytes s ≤ c.num 48 4 → Statements.Completed t c 0 0 ∧ MemSame s t
    ∧ sigNext t = sigNext s + 1)

/-- R592, R598, R610 to R612: when its transfer completes, a COPYOUT leaves the local bytes at its host address, a FLASHREAD
the flash bytes, an IDENTITY and an ATTEST their response, and a FLASHWRITE leaves the host bytes in the flash; a COPYIN and a
FILL have written local memory. Each then completes DONE. When host memory does not answer, or Bus Master Enable is clear, the
command completes with HOSTDMA and no data moves. Stated for a device on which nothing else could go on, and for the flash
commands and a transfer that fails on every device: the state that the transfer leaves then goes on with what waited
(`settle`). -/
def Obligations.TransferCompletes : Prop :=
  ∀ (s : State) (c : HostCmd), alive s = true → findCmd s c.handle = some c → c.gone = false → c.state = 2 →
    (s.host.bme = true → Statements.Calm s → hostDma.contains c.op = true → Runs (.hostTransferComplete c.handle true) s fun t =>
      Statements.Transferred s t c) ∧
    (∀ ok, c.op = ocFill → Statements.Calm s → Statements.Clean s → pcount s = 0 → c.num 24 4 % 8 = 0 →
      Runs (.hostTransferComplete c.handle ok) s fun t => Statements.Completed t c 0 0
        ∧ t.mem = memPut s.mem (c.num 16 8) (List.replicate (c.num 24 4 / 8) (bytesAt c.record 32 8)).flatten) ∧
    (s.host.bme = true → c.op = ocFlashread ∨ c.op = ocFlashwrite → ∃ u, Statements.Transferred s u c ∧
      Runs (.hostTransferComplete c.handle true) s fun t =>
        t.mem = (orWait s (settle u)).mem ∧ t.host = (orWait s (settle u)).host) ∧
    (∀ ok, (ok = false ∨ s.host.bme = false) → hostDma.contains c.op = true →
      (∃ u, Statements.Completed u c 15 0 ∧ MemSame s u ∧ Runs (.hostTransferComplete c.handle ok) s fun t =>
        t.mem = (orWait s (settle u)).mem ∧ t.host = (orWait s (settle u)).host) ∧
      (Statements.Calm s → Runs (.hostTransferComplete c.handle ok) s fun t =>
        Statements.Completed t c 15 0 ∧ MemSame s t
          ∧ (fld s Reg.HST_CTRL Fld.HST_CTRL_LOGEN = 0 → t.host.mem = s.host.mem)))

/-- R611: an OBJECT command joins its object's queue, a REGISTER with the record it names, and runs until the operation ends;
SUBST orders a planned substitution of a presented bough, unless one is under way, and runs until it is done; where nothing
presents the number it is done at once. -/
def Obligations.ObjectAndSubst : Prop :=
  ∀ (s : State) (c : HostCmd), alive s = true →
    (Statements.Starts s ocObject c → c.num 8 1 ≠ 0 → Runs .object s fun t =>
      (objSt t (c.num 10 2)).queue =
          (objSt s (c.num 10 2)).queue ++ [{ op := c.num 8 1, offer := [], handle := some c.handle }]
        ∧ findCmd t c.handle = some { c with state := 2 } ∧ t.regs = s.regs ∧ MemSame s t) ∧
    (Statements.Starts s ocObject c → c.num 8 1 = 0 → Statements.Calm s → Statements.Clean s → Runs .object s fun t =>
      (objSt t (c.num 10 2)).queue = (objSt s (c.num 10 2)).queue ++
          [{ op := 0, offer := peek s (c.num 16 8) 64, handle := some c.handle }]
        ∧ findCmd t c.handle = some { c with state := 2 } ∧ MemSame s t) ∧
    (Statements.Starts s ocSubst c → phys s (c.num 8 1) < 68 → Runs .subst s fun t =>
      t.integ.substCmds = s.integ.substCmds ++ [(c.num 8 1, c.handle)]
        ∧ ((∃ x ∈ t.integ.substDue, x.1 = c.num 8 1) ∨ ∃ x ∈ s.integ.copies, x.1 = c.num 8 1)
        ∧ ((∀ x ∈ s.integ.substDue, x.1 ≠ c.num 8 1) → (∀ x ∈ s.integ.copies, x.1 ≠ c.num 8 1) →
            t.integ.substDue = s.integ.substDue ++ [(c.num 8 1, false)])
        ∧ findCmd t c.handle = some { c with state := 2 } ∧ t.regs = s.regs ∧ MemSame s t) ∧
    (Statements.Starts s ocSubst c → 68 ≤ phys s (c.num 8 1) → Runs .subst s fun t =>
      Statements.Completed t c 0 0 ∧ t.integ = s.integ ∧ MemSame s t)

/-- R615, R626: a write of 1 to LOGEN starts the log at entry 0. R624: a function-level reset empties stages and handle
entries, lets commands in progress run on without a handle and returns the host port's registers to their reset values.
R597: D3hot entry and D0 entry change the power state and nothing else. -/
def Obligations.HostPortPower : Prop :=
  ∀ s : State, alive s = true →
    (hostReach s = true → Runs .logEnable s fun t =>
      fld t Reg.HST_CTRL Fld.HST_CTRL_LOGEN = 1 ∧ reg64 t Reg.HST_LOGSEQ_LO = 0
        ∧ OnlyRegs s t [Reg.HST_CTRL, Reg.HST_LOGSEQ_LO, Reg.HST_LOGSEQ_LO + 4]) ∧
    (s.host.config = true → Runs .functionLevelReset s fun t =>
      t.host.stages = [] ∧ t.host.handles = [] ∧ (∀ c ∈ t.host.cmds, c.gone = true)
        ∧ t.host.cmds.length = s.host.cmds.length ∧ t.host.gens = s.host.gens ∧ MemSame s t
        ∧ (∀ a, hostRegs a = true → a ≠ Reg.HST_INFLIGHT → reg t a = regReset a)
        ∧ regN t Reg.HST_INFLIGHT = 0 ∧ (∀ a, hostRegs a = false → a ≠ Reg.HST_INFLIGHT → reg t a = reg s a)) ∧
    (s.host.config = true → Runs .d3hotEntry s fun t =>
      t = { s with host := { s.host with d3hot := true }, msix := t.msix, edge := t.edge }) ∧
    (s.host.config = true → Runs .d0Entry s fun t =>
      t = { s with host := { s.host with d3hot := false }, msix := t.msix, edge := t.edge })

/-! ## Work items issue (R134 to R137); tiles on the arrays (R164 to R196) -/

/-- The walk of bough n stands at a work item of a kind that R137 lets issue at frame time t, `body` its body: b is its
physical bough and u the state after the look. -/
def Statements.CanIssue (s u : State) (n t b : Nat) (i : Item) (body : List Byte) (kind : Nat) : Prop :=
  alive s = true ∧ walkTo s n = .item u b i body ∧ i.kind = kind ∧ issueOk u b i body t = true ∧ waitOk u b i = true
    ∧ itemIdx u b ≠ 65535

/-- One work item more is in flight on bough b: its entry, unused before, holds its body and the step number in force, and
the walk has gone on to the next item. -/
def Statements.Issued (u t : State) (b : Nat) (body : List Byte) : Prop :=
  itemIdx t b = itemIdx u b + 1 ∧ ∃ e ∈ (bough t b).sb, e.body = body ∧ e.step = reg64 u (Reg.BGH_STEP_LO b)
    ∧ (∀ x ∈ (bough u b).sb, x.id ≠ e.id) ∧ (bough t b).sb.length = (bough u b).sb.length + 1

/-- R134, R137, R164, R169: a TILE item of each opcode issues: its entry joins the scoreboard with the step number in force,
and one share is queued on each array it names, behind those queued before. Memory is as before. -/
def Obligations.TilesIssue : Prop :=
  ∀ (s u : State) (n t b : Nat) (i : Item) (body : List Byte) (c : Instr) (op : Nat),
    (c, op) ∈ [(Instr.mma n t, 0), (.l1 n t, 1), (.l2sq n t, 2), (.maxplus n t, 3), (.minplus n t, 4), (.cmpcnt n t, 5),
      (.hamming n t, 6)] → (tileOf body).op = op → Statements.CanIssue s u n t b i body 1 →
    Runs c s fun v => Statements.Issued u v b body ∧ MemSame u v
      ∧ (bough v b).shares.length = (bough u b).shares.length + (tileArrays (tileOf body)).length
      ∧ (bough u b).shares <+: (bough v b).shares
      ∧ ((bough v b).shares.drop (bough u b).shares.length).map (·.arr) = tileArrays (tileOf body)

/-- R187, R190: the first share queued on a free array starts there: it runs whole when the array's width takes its
columns, else in two pieces, the first of that width. A share queued on a retired array goes to the array that takes its
place; with every array of the bough retired it takes the fault path. -/
def Statements.ShareStarts : Prop :=
  ∀ (s : State) (n a : Nat) (sh : Share) (e : SbEntry), alive s = true → phys s n < 68 → arrBusy s (phys s n) a = false →
    queuedShare s (phys s n) a = some sh → entryOf s (phys s n) sh.entry = some e →
    (arrRetired s (phys s n) a = false → sh.c1 - sh.c0 ≤ arrWidth s (phys s n) sh.arr (tileOf e.body) →
      Runs (.tileShareStart n a) s fun t => { sh with phase := .running } ∈ (bough t (phys s n)).shares
        ∧ (bough t (phys s n)).sb = (bough s (phys s n)).sb ∧ t.regs = s.regs ∧ MemSame s t) ∧
    (∀ w, w = arrWidth s (phys s n) sh.arr (tileOf e.body) → arrRetired s (phys s n) a = false → w < sh.c1 - sh.c0 →
      Runs (.tileShareStart n a) s fun t =>
        { sh with phase := .running, c1 := sh.c0 + w } ∈ (bough t (phys s n)).shares
          ∧ { sh with c0 := sh.c0 + w } ∈ (bough t (phys s n)).shares ∧ t.regs = s.regs ∧ MemSame s t) ∧
    (∀ a', arrRetired s (phys s n) a = true → moveTarget s (phys s n) (tileOf e.body) = some a' →
      Runs (.tileShareStart n a) s fun t => { sh with arr := a' } ∈ (bough t (phys s n)).shares
        ∧ arrRetired s (phys s n) a' = false ∧ t.regs = s.regs ∧ MemSame s t) ∧
    (arrRetired s (phys s n) a = true → moveTarget s (phys s n) (tileOf e.body) = none → Runs (.tileShareStart n a) s fun t =>
      fld t (Reg.BGH_MAINTSTAT (phys s n)) Fld.BGH_MAINTSTAT_FAULT = 1 ∧ MemSame s t
        ∧ regN t (Reg.BGH_MAFAULT (phys s n)) = min (regN s (Reg.BGH_MAFAULT (phys s n)) + 1) 0xFFFFFFFF)

/-- Array a of bough b runs share `sh` of a tile with the entry `e`. -/
def Statements.Running (s : State) (b a : Nat) (sh : Share) (e : SbEntry) : Prop :=
  alive s = true ∧ b < 68 ∧ (bough s b).shares.find? (fun x => x.arr = a && x.phase = .running) = some sh
    ∧ entryOf s b sh.entry = some e

/-- R184, R185, R188: the end of a pass. A pass that meets an uncorrectable operand, or that a parity error spoils, writes
nothing: the first is replayed (its share goes to pass 2, BGH_MAREPLAY gains one, BGH_MAINTSTAT.REPLAY is set), a second that
a check fails asks for the column test, and a third, or a second that cannot be read, takes the fault path (BGH_MAFAULT gains
one and FAULT is set). Of a tile without checks and without a block-scaled C, operands and outputs free of errors, a pass
that no parity error spoils writes the outputs it computed; the share is over, and with the last share the entry is done. -/
def Statements.PassEnds : Prop :=
  ∀ (s : State) (n a b : Nat) (f : PassFault) (sh : Share) (e : SbEntry), b = phys s n → Statements.Running s b a sh e →
    (Statements.Clean s → f = .parity →
      (sh.pass = 1 → Runs (.tilePassDone n a f) s fun t => (∃ x ∈ (bough t b).shares, x.entry = sh.entry ∧ x.named = sh.named
          ∧ x.arr = a ∧ x.phase = .running ∧ x.pass = 2)
        ∧ regN t (Reg.BGH_MAREPLAY b) = min (regN s (Reg.BGH_MAREPLAY b) + 1) 0xFFFFFFFF
        ∧ fld t (Reg.BGH_MAINTSTAT b) Fld.BGH_MAINTSTAT_REPLAY = 1 ∧ MemSame s t) ∧
      (sh.pass = 2 → Runs (.tilePassDone n a f) s fun t => (∃ x ∈ (bough t b).shares, x.entry = sh.entry ∧ x.named = sh.named
          ∧ x.arr = a ∧ x.phase = .colTest) ∧ MemSame s t) ∧
      (sh.pass = 3 → Runs (.tilePassDone n a f) s fun t =>
        regN t (Reg.BGH_MAFAULT b) = min (regN s (Reg.BGH_MAFAULT b) + 1) 0xFFFFFFFF
          ∧ fld t (Reg.BGH_MAINTSTAT b) Fld.BGH_MAINTSTAT_FAULT = 1 ∧ MemSame s t)) ∧
    (∀ u x, fetchPass s b sh (tileOf e.body) = (u, some x) →
      (sh.pass = 1 → Runs (.tilePassDone n a f) s fun t => (∃ y ∈ (bough t b).shares, y.entry = sh.entry ∧ y.arr = a
          ∧ y.phase = .running ∧ y.pass = 2 ∧ y.unread = true)
        ∧ fld t (Reg.BGH_MAINTSTAT b) Fld.BGH_MAINTSTAT_REPLAY = 1 ∧ t.mem = s.mem) ∧
      (sh.pass ≠ 1 → Runs (.tilePassDone n a f) s fun t =>
        fld t (Reg.BGH_MAINTSTAT b) Fld.BGH_MAINTSTAT_FAULT = 1 ∧ t.mem = s.mem)) ∧
    (∀ p, p = runPass s b (strictMode s) (tileOf e.body) sh.named sh.c0 sh.c1 → Statements.Clean s → f ≠ .parity →
      (tileOf e.body).cken = false → codeScaled (tileOf e.body).cfmt = false → Runs (.tilePassDone n a f) s fun t =>
        t.mem = (writeRuns s b (patchRuns s b (drainPatches s b (strictMode s) (tileOf e.body) sh.named sh.c0 sh.c1
            (spoil (PassFault.cells f) p.outs)).1)).1.mem
          ∧ (bough t b).shares.length + 1 = (bough s b).shares.length
          ∧ ((bough s b).shares.countP (fun x => x.entry = sh.entry) = 1 →
              ∀ x ∈ (bough t b).sb, x.id = sh.entry → x.done = true))

/-- Shares start and passes of a tile end. -/
def Obligations.TilePasses : Prop := Statements.ShareStarts ∧ Statements.PassEnds

/-- R185 to R187, R189, R190, R196: the end of a column test, with the cells that gave another result than the reference held
in the Root. Of a test that BGH_MACTRL asked for, on an array with no share at work: it is counted, and a sound array is left
as it is; one failing column with the spare unused and good is bypassed; a second one narrows the array; a failing checksum
row retires it. A test after a failed tile that finds nothing is a dispute, and the tile gets its third pass. -/
def Statements.ColumnTest : Prop :=
  ∀ (s : State) (b a : Nat) (cells : List TestCell) (sumPath : Bool), alive s = true → b < 68 → a < 4 →
    arrRetired s b a = false →
    ((bough s b).shares.find? (fun x => x.arr = a && x.phase = .colTest) = none → (bough s b).colTests.contains a = true →
      ((bough s b).shares.any fun x => x.arr = a && x.phase = .running) = false →
      (wrongCells s cells = [] → sumPath = false → Runs (.columnTestDone b a cells sumPath) s fun t =>
        (bough t b).colTests = (bough s b).colTests.erase a
          ∧ OnlyRegs { s with boughs := t.boughs } t [Reg.BGH_MACOLTEST b]
          ∧ regN t (Reg.BGH_MACOLTEST b) = min (regN s (Reg.BGH_MACOLTEST b) + 1) 0xFFFFFFFF) ∧
      (∀ c, c ≤ 128 → wrongCells s cells ≠ [] → (∀ x ∈ wrongCells s cells, x.2 = c ∧ x.1 < 128) → sumPath = false →
        c ≠ mastat s b a Fld.BGH_MASTAT_BYPASSCOL → c ≠ mastat s b a Fld.BGH_MASTAT_NARROWCOL →
        (mastat s b a Fld.BGH_MASTAT_SPARE = 0 → Runs (.columnTestDone b a cells sumPath) s fun t =>
          mastat t b a Fld.BGH_MASTAT_SPARE = 1 ∧ mastat t b a Fld.BGH_MASTAT_BYPASSCOL = c
            ∧ fld t (Reg.BGH_MAINTSTAT b) Fld.BGH_MAINTSTAT_BYPASS = 1
            ∧ fld t Reg.INT_INTSTAT Fld.INT_INTSTAT_REPAIR = 1 ∧ (bough t b).colTests = (bough s b).colTests.erase a) ∧
        (mastat s b a Fld.BGH_MASTAT_SPARE = 1 → mastat s b a Fld.BGH_MASTAT_NARROW = 0 → c ≠ checkCol s b a →
          Runs (.columnTestDone b a cells sumPath) s fun t =>
            mastat t b a Fld.BGH_MASTAT_NARROW = 1 ∧ mastat t b a Fld.BGH_MASTAT_NARROWCOL = c
              ∧ mastat t b a Fld.BGH_MASTAT_WIDTH = 127
              ∧ fld t (Reg.BGH_MAINTSTAT b) Fld.BGH_MAINTSTAT_NARROW = 1)) ∧
      (sumPath = true → Runs (.columnTestDone b a cells sumPath) s fun t => arrRetired t b a = true
        ∧ mastat t b a Fld.BGH_MASTAT_WIDTH = 0
        ∧ fld t (Reg.BGH_MAINTSTAT b) Fld.BGH_MAINTSTAT_RETIRE = 1)) ∧
    (∀ sh e, (bough s b).shares.find? (fun x => x.arr = a && x.phase = .colTest) = some sh → entryOf s b sh.entry = some e →
      wrongCells s cells = [] → sumPath = false → Runs (.columnTestDone b a cells sumPath) s fun t =>
        { sh with phase := .running, pass := 3 } ∈ (bough t b).shares
          ∧ fld t (Reg.BGH_MAINTSTAT b) Fld.BGH_MAINTSTAT_DISPUTE = 1
          ∧ (∃ d ∈ (bough t b).disputes, d.arr = a ∧ d.entry = some sh.entry)
          ∧ regN t (Reg.BGH_MACOLTEST b) = min (regN s (Reg.BGH_MACOLTEST b) + 1) 0xFFFFFFFF)

/-- R189, R196, R507: the recomputation of a dispute, once its tile has retired, ends it with one DISPUTE record, which tells
the sides that disagree: those it finds where the failure compared sums, else those of the command; a write of BGH_MACTRL arms a corruption or asks for a column test on
an array, once, and changes nothing else. -/
def Statements.ArrayControls : Prop :=
  (∀ (s : State) (n a b k : Nat) (x y : Bool) (d : Dispute), alive s = true → b = phys s n → b < 68 →
    (bough s b).disputes.find? (fun d => d.arr = a && d.entry.isNone) = some d → k = reg64 s Reg.INT_LOGCOUNT_LO →
    Runs (.disputeRecomputeDone n a x y) s fun t =>
      (bough t b).disputes = (bough s b).disputes.erase d ∧ reg64 t Reg.INT_LOGCOUNT_LO = (k + 1) % 2 ^ 64
        ∧ regN t (Reg.INT_LOG (k % 1024) 0 + 24) % 2 ^ 16 = 3 + 256 * tyDispute
        ∧ (∀ c, d.check = some c → regN t (Reg.INT_LOG (k % 1024) 0 + 24) / 2 ^ 24 = disputeInfo c)
        ∧ (d.check = none → regN t (Reg.INT_LOG (k % 1024) 0 + 24) / 2 ^ 24 = (if x then 1 else 0) + (if y then 2 else 0))
        ∧ MemSame s t) ∧
  (∀ (s : State) (b a : Nat), alive s = true → b < 68 → a < 4 →
    (Runs (.mactrlInject b a) s fun t => a ∈ (bough t b).inject
      ∧ ((bough s b).inject.contains a = false → bough t b = { bough s b with inject := (bough s b).inject ++ [a] })
      ∧ ((bough s b).inject.contains a = true → bough t b = bough s b) ∧ (∀ c, c ≠ b → bough t c = bough s c)
      ∧ t = { s with boughs := t.boughs, msix := t.msix, edge := t.edge }) ∧
    (Runs (.mactrlColtest b a) s fun t => a ∈ (bough t b).colTests
      ∧ ((bough s b).colTests.contains a = false → bough t b = { bough s b with colTests := (bough s b).colTests ++ [a] })
      ∧ ((bough s b).colTests.contains a = true → bough t b = bough s b) ∧ (∀ c, c ≠ b → bough t c = bough s c)
      ∧ t = { s with boughs := t.boughs, msix := t.msix, edge := t.edge }))

/-- The column test and the controls of an array. -/
def Obligations.ArrayTests : Prop := Statements.ColumnTest ∧ Statements.ArrayControls

/-! ## The Sickle, the chains and the carts (R197 to R219, R220 to R252, R278 to R289, R307 to R313) -/

/-- The state in which a work item that may issue has taken its semaphore count and joined the scoreboard (R126, R135). -/
def Statements.onBoard (u : State) (b : Nat) (i : Item) (body : List Byte) : State :=
  pushEntry (if bitN i.w2 31 then setSemwait (semTake u b (bitsN i.w2 30 24) (bitsN i.w2 23 0)) b 0 else u) b
    ((freeEntry (bough u b)).getD 0) i body

/-- The scoreboard entry that the next item of bough b takes. -/
def Statements.entryId (u : State) (b : Nat) : Nat := (freeEntry (bough u b)).getD 0

/-- The command runs to the state w of which `P` holds, and then whatever waited on memory goes on (R285, R305). -/
def Statements.Settles (c : Instr) (s : State) (P : State → Prop) : Prop :=
  ∃ t w, exec c s = .next t ∧ t = { settle w with pending := s.pending, msix := t.msix, edge := t.edge } ∧ P w

/-- R203, R214: a DOT or STAGE pass whose lines no round holds up issues: memory takes exactly what the pass writes after
the entry has joined the scoreboard, and the entry is done. R212, R213: a SWITCH pass arms its table when none is armed;
an arm that names another table than the one armed arms nothing and raises SWCONF. -/
def Statements.SicklePasses : Prop :=
  ∀ (s u : State) (n t b : Nat) (i : Item) (body : List Byte), Statements.CanIssue s u n t b i body 3 →
    ((sickleOf body).op = 0 → (closeLines u (passReads u b body)).2 = true → Runs (.dotPass n t) s fun v =>
      MemSame (runDot (Statements.onBoard u b i body) b (Statements.entryId u b) body) v
        ∧ ∀ e ∈ (bough v b).sb, e.id = Statements.entryId u b → e.done = true) ∧
    ((sickleOf body).op = 1 → (closeLines u (passReads u b body)).2 = true → Runs (.stagePass n t) s fun v =>
      MemSame (runStage (Statements.onBoard u b i body) b (Statements.entryId u b) body) v
        ∧ ∀ e ∈ (bough v b).sb, e.id = Statements.entryId u b → e.done = true) ∧
    ((sickleOf body).op = 2 → Runs (.switchPass n t) s fun v => itemIdx v b = itemIdx u b + 1 ∧ MemSame u v
      ∧ (u.frm.swConf = false → switchArmed u = false →
          switchArmed v = true ∧ nextTable v = (sickleOf body).table % 2 ^ 40 / 4096 * 4096)
      ∧ (u.frm.swConf = false → switchArmed u = true → nextTable u = (sickleOf body).table →
          switchArmed v = true ∧ nextTable v = nextTable u)
      ∧ ((u.frm.swConf = true ∨ switchArmed u = true ∧ nextTable u ≠ (sickleOf body).table) → switchArmed v = false
          ∧ v.frm.swConf = true ∧ fld v Reg.SKL_INTSTAT Fld.SKL_INTSTAT_SWCONF = 1))

/-- R310: a DOT or STAGE pass one of whose lines has a round that holds contributions does not issue yet: every round of its
lines that holds any is marked closing, and nothing joins the scoreboard. -/
def Statements.PassWaits : Prop :=
  ∀ (s u : State) (n t b : Nat) (i : Item) (body : List Byte), Statements.CanIssue s u n t b i body 3 →
    (closeLines u (passReads u b body)).2 = false →
    ∀ c ∈ [(Instr.dotPass n t, 0), (Instr.stagePass n t, 1)], (sickleOf body).op = c.2 → Runs c.1 s fun v =>
      v = { (closeLines u (passReads u b body)).1 with pending := s.pending, msix := v.msix, edge := v.edge }
        ∧ v.boughs = u.boughs ∧ v.mem = u.mem

/-- Passes of the Sickle, and what they wait for. -/
def Obligations.ElementPasses : Prop := Statements.SicklePasses ∧ Statements.PassWaits

/-- R219: the host's write of SKL_NEXT_LO. Armed: ignored as a whole. Not armed: ADDR takes the written value and ARMED is
set, unless arms of the program frame named different tables (R213): then SWCONF is raised and nothing is armed. Cleared: an
armed switch is cancelled. Nothing but SKL_NEXT_LO changes. -/
def Obligations.SwitchByHost : Prop :=
  ∀ (s : State) (lo : Word), alive s = true →
    (switchArmed s = true → Runs (.sklNextArm lo) s fun t => t = { s with msix := t.msix, edge := t.edge }) ∧
    (switchArmed s = false → s.frm.swConf = false → Runs (.sklNextArm lo) s fun t =>
      OnlyRegs s t [Reg.SKL_NEXT_LO] ∧ switchArmed t = true
        ∧ fld t Reg.SKL_NEXT_LO Fld.SKL_NEXT_LO_ADDR = Fld.SKL_NEXT_LO_ADDR.get lo) ∧
    (switchArmed s = false → s.frm.swConf = true → Runs (.sklNextArm lo) s fun t => switchArmed t = false
      ∧ fld t Reg.SKL_INTSTAT Fld.SKL_INTSTAT_SWCONF = 1 ∧ RegsBut s t [Reg.SKL_NEXT_LO, Reg.SKL_INTSTAT] ∧ MemSame s t) ∧
    (Runs (.sklNextCancel lo) s fun t => OnlyRegs s t [Reg.SKL_NEXT_LO] ∧ switchArmed t = false
      ∧ fld t Reg.SKL_NEXT_LO Fld.SKL_NEXT_LO_ADDR = Fld.SKL_NEXT_LO_ADDR.get lo)

/-- R233, R249, R656: a chain issues: memory takes exactly what the chain writes after its entry has joined the scoreboard,
and the entry is done. A chain whose configuration fails its checks writes nothing and is marked so, for ITEMERR. -/
def Obligations.ChainIssues : Prop :=
  ∀ (s u : State) (n t b : Nat) (i : Item) (body : List Byte), Statements.CanIssue s u n t b i body 2 →
    (Runs (.chain n t) s fun v =>
      MemSame (runChain (Statements.onBoard u b i body) b (Statements.entryId u b) body) v
        ∧ ∀ e ∈ (bough v b).sb, e.id = Statements.entryId u b → e.done = true) ∧
    (∀ x bs, load (setFld (Statements.onBoard u b i body) (Reg.THR_STATUS b) Fld.THR_STATUS_BUSY 1)
        (cribBase b + 64 * (chainOf body).cfg) 384 = (x, .ok bs) → cfgBad (chainOf body) bs = true →
      Runs (.chain n t) s fun v => MemSame x v ∧ fld v (Reg.THR_STATUS b) Fld.THR_STATUS_BUSY = 1
        ∧ ∀ e ∈ (bough v b).sb, e.id = Statements.entryId u b → e.done = true ∧ e.badCfg = true)

/-- R278 to R285, R309: a CART item of each operation issues: its CARTID is in use for its bough and entry, with its
operation, length and places. Where nothing else is under way and no codeword is in error: a COPY from Crib to Crib writes the
bytes it read, and an ATOMIC there applies its operation; each leaves every segment applied. A REDUCE of one segment
leaves its contribution with the line. A cart to another device waits with every segment still to be sent. An OBJECT cart other
than REGISTER joins the queue of its object, with its RSIG and its CARTID, which stays in use until the operation ends. -/
def Obligations.CartsIssue : Prop :=
  ∀ (s u : State) (n t b : Nat) (i : Item) (body : List Byte), Statements.CanIssue s u n t b i body 4 →
    let d := cartOf body
    (∀ c ∈ [(Instr.copyCart n t, 0), (.atomicCart n t, 1), (.reduceCart n t, 2), (.objectCart n t, 3)], d.op = c.2 →
      Runs c.1 s fun v => ∃ x, cart v d.cartid = some x ∧ x.op = d.op ∧ x.bough = some b ∧ x.entry = Statements.entryId u b
        ∧ x.cseq = d.cseq ∧ x.rsig = d.rsig ∧ x.pframe = pindex u
        ∧ (d.op ≠ 3 → x.len = d.len ∧ x.src = d.src ∧ x.dst = d.dst ∧ x.segs.length = cdiv d.len 512)) ∧
    (Statements.Calm u → Statements.Clean u → gLocal u d.src = true → gLocal u d.dst = true → isCrib (gOffset d.src) = true →
      isCrib (gOffset d.dst) = true →
      (d.op = 0 → (gOffset d.src + d.len ≤ gOffset d.dst ∨ gOffset d.dst + d.len ≤ gOffset d.src) →
        Runs (.copyCart n t) s fun v => v.mem = memPut u.mem (gOffset d.dst) (peek u (gOffset d.src) d.len)
          ∧ ∃ c, cart v d.cartid = some c ∧ c.segs = List.replicate (cdiv d.len 512) .applied) ∧
      (d.op = 1 → d.rop < 3 → d.reten = false → d.len ≤ 512 → Runs (.atomicCart n t) s fun v =>
        v.mem = memPut u.mem (gOffset d.dst) (atomicOps (strictMode u) d.dtype d.rop (dtypeSize d.dtype)
            (peek u (gOffset d.dst) d.len) (peek u (gOffset d.src) d.len)).1
          ∧ ∃ c, cart v d.cartid = some c ∧ c.segs = [.applied])) ∧
    (d.op = 2 → Statements.Calm u → Statements.Clean u → gLocal u d.src = true → gLocal u d.dst = true →
      isCrib (gOffset d.src) = true → 0 < d.len → d.len ≤ 512 → Runs (.reduceCart n t) s fun v =>
        v.mem = (contribute (Statements.onBoard u b i body) {
          cart := d.cartid, seq := d.cseq % 2 ^ 32, addr := gOffset d.dst, dtype := d.dtype, rop := d.rop,
          data := peek u (gOffset d.src) d.len, origin := none }).1.mem) ∧
    (∀ c ∈ [(Instr.copyCart n t, 0), (.atomicCart n t, 1), (.reduceCart n t, 2)], u.carts = [] → d.op = c.2 →
      gLocal u d.dst = false → Runs c.1 s fun v => MemSame u v ∧ ∃ x, v.carts = [(d.cartid, x)]
        ∧ x.segs = List.replicate (cdiv d.len 512) .unsent) ∧
    (d.op = 3 → d.objop ≠ 0 → Statements.Calm u → Runs (.objectCart n t) s fun v => MemSame u v
      ∧ objSt v d.obj = { objSt u d.obj with
          queue := (objSt u d.obj).queue ++ [{ op := d.objop, offer := [], rsig := d.rsig, cart := some d.cartid }] }
      ∧ ∃ c, cart v d.cartid = some c ∧ c.segs = [.applied])

/-- R284, R442: a data cart whose segments have all been applied and whose data lands here completes: its CARTID is free
again, it counts among the carts of the program frame and its RSIG goes out; one to another device completes so, without a
signal here, once that device has acknowledged it. With no other cart in use nothing else of registers and memory changes, and
what waited then goes on; with nothing waiting, the command leaves it so. -/
def Statements.CartCompletes : Prop :=
  ∀ (s : State) (id : Nat) (c : CartSt), alive s = true → cart s id = some c → c.op ≠ 3 → allApplied c = true →
    (landsHere s c = true ∨ c.acked = true) →
    let net := if landsHere s c && bitN c.rsig 31 then
        s.net ++ [⟨bitsN c.rsig 29 24, bitsN c.rsig 22 16, bitsN c.rsig 15 0⟩] else s.net
    (Statements.Settles (.cartComplete id) s fun w => cart w id = none ∧ w.net = net
      ∧ w.frm.cartsDone = s.frm.cartsDone ++ [id]
      ∧ (s.carts = [(id, c)] → s.loft.rounds = [] → w.regs = s.regs ∧ MemSame s w)) ∧
    (Statements.Calm { s with carts := [] } → s.carts = [(id, c)] → Runs (.cartComplete id) s fun t => t.carts = []
      ∧ t.net = net ∧ t.frm.cartsDone = s.frm.cartsDone ++ [id] ∧ t.regs = s.regs ∧ MemSame s t)

/-- R308, R310: an access that is no contribution closes an empty round of its line, and is on record as closing one that
still holds contributions; REDSTALL is raised once for a round whose closing access has waited STALLFR ticks. A
contribution that was returned and whose rank has not come is held by its line again; one whose rank is next in its sector is
applied, and the next rank counts on. -/
def Statements.Rounds : Prop :=
  (∀ (s : State) (a : Nat) (r : Round), alive s = true →
    (isObj (a - a % 4096) || isDirect s (a - a % 4096)) = true →
    roundOn s (a / 4096) = some r → s.carts = [] →
    (r.held = [] → Statements.Settles (.roundClose a) s fun w => roundOn w (a / 4096) = none ∧ w.mem = s.mem
      ∧ RegsBut s w ((List.range 64).map Reg.LFT_SLSTAT)) ∧
    (r.held ≠ [] → Statements.Settles (.roundClose a) s fun w => roundOn w (a / 4096) = some { r with closing := true }
      ∧ w.mem = s.mem ∧ RegsBut s w ((List.range 64).map Reg.LFT_SLSTAT))) ∧
  (∀ (s : State) (a : Nat) (r : Round), alive s = true → roundOn s (lineNo a) = some r → r.closing = true →
    r.stalled = false → 0 < fld s Reg.LFT_REDCTRL Fld.LFT_REDCTRL_STALLFR →
    fld s Reg.LFT_REDCTRL Fld.LFT_REDCTRL_STALLFR ≤ r.ticks → Runs (.reductionStall a) s fun t =>
      fld t Reg.LFT_INTSTAT Fld.LFT_INTSTAT_REDSTALL = 1 ∧ roundOn t (lineNo a) = some { r with stalled := true }
        ∧ RegsBut s t [Reg.LFT_INTSTAT] ∧ MemSame s t) ∧
  (∀ (s : State) (c : Contrib) (r : Round), alive s = true → s.carts = [] → s.loft.returned = [c] → c.origin = none →
    roundOn s (lineNo c.addr) = some r → s.loft.banks = [] → r.closing = false →
    (r.held.length < 64 → (∀ x ∈ r.held ++ [c], x.seq % 64 ≠ nextRank r (x.addr % 4096 / 512)) →
      Statements.Settles (.contributionResend c.cart c.seq) s fun w => w.loft.returned = []
        ∧ roundOn w (lineNo c.addr) = some { r with held := r.held ++ [c] }
        ∧ RegsBut s w ((List.range 64).map Reg.LFT_SLSTAT) ∧ MemSame s w) ∧
    (r.held = [] → roundReady s (lineNo c.addr) r = true → c.seq % 64 = nextRank r (c.addr % 4096 / 512) →
      Statements.Settles (.contributionResend c.cart c.seq) s fun w => w.loft.returned = []
        ∧ ∃ x, roundOn w (lineNo c.addr) = some x ∧ x.held = []
          ∧ nextRank x (c.addr % 4096 / 512) = nextRank r (c.addr % 4096 / 512) + 1))

/-- Carts complete and rounds close. -/
def Obligations.CartsAndRounds : Prop := Statements.CartCompletes ∧ Statements.Rounds

/-! ## Objects and the Loft (R260 to R277, R302 to R317) -/

/-- Object j is registered, or not, and `o` is the operation that waits first at its record, nothing being in progress on it,
no eviction either. -/
def Statements.Waits (s : State) (j op : Nat) (o : ObjOp) (q : List ObjOp) (registered : Bool) : Prop :=
  alive s = true ∧ objSt s j = { queue := o :: q, current := none } ∧ o.op = op ∧ isReg s j = registered
    ∧ (objAt s j).mstate ≠ msDemoting

/-- The operation has ended with a status: LASTST shows it, OPS has counted it, its signal is out, and the host command that
asked for it, if one did, is over (R261, R265, R281, R611). -/
def Statements.OpEnded (s t : State) (j : Nat) (o : ObjOp) (status : Nat) : Prop :=
  peekN t (objRec s j + 19) 1 = status ∧ peekN t (objRec s j + 28) 4 = (peekN s (objRec s j + 28) 4 + 1) % 2 ^ 32
    ∧ t.net = (sendField s o.rsig).net ∧ (objSt t j).current = none ∧ ∀ h, o.handle = some h → findCmd t h = none

/-- The record of object j is memory that can hold it, and no codeword of memory is in error. -/
def Statements.RecordOk (s : State) (j : Nat) : Prop := rangeOk s (objRec s j) 64 = true ∧ Statements.Clean s

/-- R264, R265: REGISTER of a free number with a good record: the record takes the offer, with AGE the program frame, and
OBJCOUNT.COUNT counts it; of a number in use it is refused with INUSE and changes no other object; a bad or an overlapping
record is refused and nothing is registered. RELEASE of a HOME object that is not pinned removes it; of any other it is refused
with STATE. (What the record then holds is the model's choice, log entry 136.) -/
def Obligations.RegisterRelease : Prop :=
  ∀ (s : State) (j : Nat) (o : ObjOp) (q : List ObjOp), Statements.RecordOk s j →
    (Statements.Waits s j 0 o q false → o.offer.length = 64 → offerBad o.offer = false →
      offerOverlap s (objOf o.offer) = false → Runs (.register j) s fun t =>
        t.loft.objs = s.loft.objs ++ [j] ∧ peek t (objRec s j) 17 = o.offer.take 17 ∧ (objAt t j).mstate = msHome
          ∧ (objAt t j).age = pindex s % 2 ^ 32 ∧ peekN t (objRec s j + 19) 1 = osDone
          ∧ fld t Reg.LFT_OBJCOUNT Fld.LFT_OBJCOUNT_COUNT
              = (s.loft.objs.length + 1) % 2 ^ (Fld.LFT_OBJCOUNT_COUNT.hi + 1 - Fld.LFT_OBJCOUNT_COUNT.lo)
          ∧ (objSt t j).queue = q ∧ t.loft.lines = s.loft.lines ∧ ∀ h, o.handle = some h → findCmd t h = none) ∧
    (Statements.Waits s j 0 o q true → Runs (.register j) s fun t => Statements.OpEnded s t j o osInuse
      ∧ t.loft.objs = s.loft.objs ∧ t.loft.lines = s.loft.lines
      ∧ fld t Reg.LFT_PLCINT Fld.LFT_PLCINT_REFUSE = 1
      ∧ ∀ a, (a < objRec s j ∨ objRec s j + 64 ≤ a) → byteAt t a = byteAt s a) ∧
    (Statements.Waits s j 0 o q false → (offerBad o.offer || offerOverlap s (objOf o.offer)) = true →
      Runs (.register j) s fun t => t.loft.objs = s.loft.objs ∧ t.mem = s.mem ∧ (objSt t j).queue = q
        ∧ fld t Reg.LFT_PLCINT Fld.LFT_PLCINT_REFUSE = 1 ∧ ∀ h, o.handle = some h → findCmd t h = none) ∧
    (Statements.Waits s j 1 o q true → (objAt s j).mstate = msHome → (objAt s j).pinned = false →
      Runs (.release j) s fun t => t.loft.objs = s.loft.objs.erase j
        ∧ t.loft.lines = s.loft.lines ∧ (∀ h, o.handle = some h → findCmd t h = none)
        ∧ ∀ a, (a < objRec s j ∨ objRec s j + 64 ≤ a) → byteAt t a = byteAt s a) ∧
    (Statements.Waits s j 1 o q true → ((objAt s j).mstate ≠ msHome ∨ (objAt s j).pinned = true) →
      Runs (.release j) s fun t => Statements.OpEnded s t j o osState ∧ t.loft.objs = s.loft.objs
        ∧ t.loft.lines = s.loft.lines)

/-- R262, R269 to R271, R276: PROMOTE of an object that is resident is done at once. PROMOTE of a HOME object within its quota
copies its lines in: of an object of one line, which takes a free cache way, the line is held for it and charged, MSTATE is
PROMOTING and the operation is in progress; of any object the lines are copied in order, each into the way that promoteLine
finds. PIN of a HOME object whose lines all have a pinnable way free takes those ways. UNPIN of a pinned object clears PINNED at
once and moves the lines later; of one that is not pinned it is done. An object of a class that is never promoted is refused. -/
def Statements.PromotePin : Prop :=
  ∀ (s : State) (j : Nat) (o : ObjOp) (q : List ObjOp), Statements.RecordOk s j →
    (∀ c ∈ [(Instr.promote j, 2), (.pin j, 3)], Statements.Waits s j c.2 o q true →
      (classFixed (objAt s j) || s.loft.granaryOnly) = true → Runs c.1 s fun t => Statements.OpEnded s t j o osState
        ∧ (objAt t j).mstate = (objAt s j).mstate ∧ t.loft.lines = s.loft.lines) ∧
    (Statements.Waits s j 2 o q true → classFixed (objAt s j) = false → s.loft.granaryOnly = false →
      ((objAt s j).mstate = msResident → Runs (.promote j) s fun t => Statements.OpEnded s t j o osDone
        ∧ t.loft.lines = s.loft.lines ∧ (objAt t j).age = pindex s % 2 ^ 32) ∧
      (∀ l w, (objAt s j).mstate = msHome → quotaOk s (objAt s j).owner 1 = true → objLines (objAt s j) = [l] →
        lineOf s l = none → freeWay s l false = some w → Runs (.promote j) s fun t => (objAt t j).mstate = msPromoting
          ∧ (objSt t j).current = some o ∧ (∃ x, lineOf t l = some x ∧ x.way = w ∧ x.obj = some j ∧ x.dirty = 0)
          ∧ (∀ m, m ≠ l → lineOf t m = lineOf s m) ∧ t.loft.objs = s.loft.objs) ∧
      (∀ w, (objAt s j).mstate = msHome → quotaOk s (objAt s j).owner (objAt s j).lines = true →
        (objLines (objAt s j)).foldl (promoteLine j)
          (begin_ (setMstate (setObjSt s j { queue := q, current := none }) j msPromoting) j o, osDone) = (w, osDone) →
        Runs (.promote j) s fun t => t.loft = w.loft ∧ t.regs = w.regs
          ∧ t.mem = memPut w.mem (objRec w j + 24) (leBytes 4 (heldFor w j).length))) ∧
    (Statements.Waits s j 3 o q true → classFixed (objAt s j) = false → s.loft.granaryOnly = false →
      ((objAt s j).mstate = msResident → (objAt s j).pinned = true → Runs (.pin j) s fun t =>
        Statements.OpEnded s t j o osDone ∧ t.loft.lines = s.loft.lines) ∧
      (∀ l w, (objAt s j).mstate = msHome → quotaOk s (objAt s j).owner (1 - (heldFor s j).length) = true →
        objLines (objAt s j) = [l] → lineOf s l = none → freeWay s l true = some w → Runs (.pin j) s fun t =>
          (objAt t j).mstate = msPromoting ∧ (objAt t j).pinned = true ∧ (objSt t j).current = some o
            ∧ (∃ x, lineOf t l = some x ∧ x.way = w ∧ x.obj = some j) ∧ (∀ m, m ≠ l → lineOf t m = lineOf s m)) ∧
      (∀ ws, (objAt s j).mstate = msHome → quotaOk s (objAt s j).owner ((objAt s j).lines - (heldFor s j).length) = true →
        reservePins s (objAt s j) = some ws → ∀ x,
        ws.foldl (pinLine j) (setPinned (setMstate (begin_ (setObjSt s j { queue := q, current := none }) j o) j
          msPromoting) j 1, true) = (x, true) → Runs (.pin j) s fun t => t.loft = x.loft ∧ t.regs = x.regs)) ∧
    (Statements.Waits s j 4 o q true → (objAt s j).pinned = true → Runs (.unpin j) s fun t =>
      (objAt t j).pinned = false ∧ (objAt t j).mstate = (objAt s j).mstate ∧ objSt t j = { queue := q, current := some o }
        ∧ t.loft.lines = s.loft.lines ∧ t.regs = s.regs
        ∧ ∀ a, a ≠ objRec s j + 18 → byteAt t a = byteAt s a) ∧
    (Statements.Waits s j 4 o q true → (objAt s j).pinned = false → Runs (.unpin j) s fun t =>
      Statements.OpEnded s t j o osDone ∧ (objAt t j).mstate = (objAt s j).mstate ∧ t.loft.lines = s.loft.lines)

/-- R264, R274, R275: DEMOTE, STREAM and EVICT of an object that is resident and not pinned begin its demotion: MSTATE is
DEMOTING and the operation is in progress; EVICT counts. EVICT of a pinned object is refused with PINNED; a pinned object that
DEMOTE or STREAM demotes is pinned no longer. DEMOTE and EVICT of a HOME object are done at once, and so is STREAM, which sets
STREAM; a class that is never promoted has no STREAM. -/
def Statements.DemoteStreamEvict : Prop :=
  ∀ (s : State) (j : Nat) (o : ObjOp) (q : List ObjOp), Statements.RecordOk s j →
    (∀ c ∈ [(Instr.demote j, 5), (.stream j, 6), (.evict j, 7)], Statements.Waits s j c.2 o q true →
      (c.2 = 6 → classFixed (objAt s j) = false) → (objAt s j).mstate = msResident →
      (c.2 = 7 → (objAt s j).pinned = false) →
      Runs c.1 s fun t => (objAt t j).mstate = msDemoting ∧ (objAt t j).pinned = false
        ∧ (objAt t j).stream = (objAt s j).stream ∧ objSt t j = { queue := q, current := some o }
        ∧ t.loft.lines = s.loft.lines ∧ RegsBut s t [Reg.LFT_EVICTS]
        ∧ regN t Reg.LFT_EVICTS = min (regN s Reg.LFT_EVICTS + if c.2 = 7 then 1 else 0) 0xFFFFFFFF
        ∧ ∀ a, a ≠ objRec s j + 18 → byteAt t a = byteAt s a) ∧
    (Statements.Waits s j 7 o q true → (objAt s j).pinned = true → Runs (.evict j) s fun t =>
      Statements.OpEnded s t j o osPinned ∧ (objAt t j).mstate = (objAt s j).mstate ∧ (objAt t j).pinned = true
        ∧ t.loft.lines = s.loft.lines) ∧
    (Statements.Waits s j 6 o q true → classFixed (objAt s j) = true → Runs (.stream j) s fun t =>
      Statements.OpEnded s t j o osState ∧ (objAt t j).stream = (objAt s j).stream ∧ t.loft.lines = s.loft.lines) ∧
    (∀ c ∈ [(Instr.demote j, 5), (.evict j, 7)], Statements.Waits s j c.2 o q true → (objAt s j).mstate = msHome →
      (objAt s j).pinned = false → Runs c.1 s fun t => Statements.OpEnded s t j o osDone ∧ (objAt t j).mstate = msHome
        ∧ t.loft.lines = s.loft.lines) ∧
    (Statements.Waits s j 6 o q true → classFixed (objAt s j) = false → (objAt s j).mstate = msHome →
      Runs (.stream j) s fun t => Statements.OpEnded s t j o osDone ∧ (objAt t j).mstate = msHome
        ∧ (objAt t j).stream = true)

/-- Promotion, pinning, demotion, streaming and eviction of objects. -/
def Obligations.ObjectMoves : Prop := Statements.PromotePin ∧ Statements.DemoteStreamEvict

/-- R264, R270, R271, R274: the ends of migrations, no round being open on a line of the object: a promotion or pin in progress
leaves it RESIDENT; an UNPIN whose lines all lie in cache ways is done; a demotion frees the lines it holds and leaves it HOME,
and with it the operation in progress, if one is, ends; the STREAM that asked for it has set STREAM. -/
def Statements.MigrationsEnd : Prop :=
  ∀ (s : State) (j : Nat), Statements.RecordOk s j → alive s = true → isReg s j = true →
    (∀ o, (objSt s j).current = some o → (o.op = 2 ∨ o.op = 3) → (objAt s j).mstate = msPromoting →
      (∀ l ∈ objLines (objAt s j), roundOn s l = none) →
      Runs (.promotionComplete j) s fun t => (objAt t j).mstate = msResident ∧ (objSt t j).current = none
        ∧ peekN t (objRec s j + 19) 1 = osDone ∧ t.loft.lines = s.loft.lines
        ∧ peekN t (objRec s j + 24) 4 = (heldFor s j).length % 2 ^ 32) ∧
    (∀ o, (objSt s j).current = some o → o.op = 4 → (objAt s j).mstate = msResident →
      (∀ y ∈ heldFor s j, ∀ x, lineOf s y.1 = some x → x.way < nCache s) →
      Runs (.unpinMoveDone j) s fun t => Statements.OpEnded s t j o osDone ∧ t.loft.lines = s.loft.lines
        ∧ (objAt t j).mstate = msResident) ∧
    ((objAt s j).mstate = msDemoting → (∀ y ∈ heldFor s j, roundOn s y.1 = none) →
      Runs (.demotionComplete j) s fun t => (objAt t j).mstate = msHome ∧ (objSt t j).current = none
        ∧ heldFor t j = [] ∧ peekN t (objRec s j + 24) 4 = 0
        ∧ (∀ y ∈ s.loft.lines, (∀ z ∈ heldFor s j, z.1 ≠ y.1) → (∀ o, (objSt s j).current = some o → o.op ≠ 6) →
            y ∈ t.loft.lines)
        ∧ (∀ o, (objSt s j).current = some o → o.op = 6 → (objAt t j).stream = true))

/-- R302, R304, R305: a fill of a line with no uncorrectable codeword, no round open on it and its object, if it has one, HOME
without STREAM: its miss entry is gone, MISSOCC shows so, and the line is held in the way that the fill took. A line that has
come to be held meanwhile stays as it is. -/
def Statements.FillLands : Prop :=
  ∀ (s : State) (a : Nat) (e : MissEnt), alive s = true → kfind s.loft.misses (lineNo a) = some e →
    cwIn s 2 (4096 * lineNo a) 4096 = [] → roundOn s (lineNo a) = none →
    (lineOf s (lineNo a) = none → objStreams s (lineNo a) = false → Statements.Settles (.fillComplete a) s fun v =>
      kfind v.loft.misses (lineNo a) = none ∧ MemSame s v
        ∧ (∃ x, lineOf v (lineNo a) = some x ∧ x.way = e.way ∧ x.obj = none ∧ x.dirty = 0 ∧ x.fill = pindex s)
        ∧ (∀ l, l ≠ lineNo a → lineOf v l = lineOf s l)
        ∧ RegsBut s v [Reg.LFT_SLSTAT (sliceOf (4096 * lineNo a))]) ∧
    ((lineOf s (lineNo a) ≠ none ∨ objStreams s (lineNo a) = true) → Statements.Settles (.fillComplete a) s fun v =>
      kfind v.loft.misses (lineNo a) = none ∧ MemSame s v ∧ v.loft.lines = s.loft.lines
        ∧ RegsBut s v [Reg.LFT_SLSTAT (sliceOf (4096 * lineNo a))]) ∧
    (Statements.Calm s → lineOf s (lineNo a) = none → objStreams s (lineNo a) = false → Runs (.fillComplete a) s fun v =>
      kfind v.loft.misses (lineNo a) = none ∧ MemSame s v
        ∧ ∃ x, lineOf v (lineNo a) = some x ∧ x.way = e.way ∧ x.obj = none ∧ x.fill = pindex s)

/-- Migrations and fills end. -/
def Obligations.LoftMovesEnd : Prop := Statements.MigrationsEnd ∧ Statements.FillLands

/-! ## Packets, trees and flags (R405 to R452) -/

/-- The packets for this device that each opcode's row takes. -/
def Statements.packetRows (p : Nat) (k : Packet) : List (Instr × Nat) :=
  [(.write p k, opWrite), (.readreq p k, opReadreq), (.readrsp p k, opReadrsp), (.atomic p k, opAtomic),
    (.atomrsp p k, opAtomrsp), (.reduce p k, opReduce), (.tree p k, opTree), (.ack p k, opAck), (.refuse p k, opRefuse),
    (.flagSlip p k, opFlag), (.flagBlight p k, opFlag), (.flagArrive p k, opFlag), (.flagRelease p k, opFlag),
    (.mgmt p [] k, opMgmt)]

/-- The link takes the packet k of an opcode that comes in on port p and hands on k', its payload in clear, leaving u (R410
to R412, R424, R426). -/
def Statements.Taken (s u : State) (p op : Nat) (k k' : Packet) : Prop :=
  alive s = true ∧ k.op = op ∧ arrive s p k = (u, some k')

/-- The link takes a packet whose route ends at this device (R429). -/
def Statements.Accepted (s u : State) (p op : Nat) (k k' : Packet) : Prop :=
  Statements.Taken s u p op k k' ∧ routeOf u k'.dst = some 30

/-- R411, R412, R422, R456: the link takes a packet with nothing wrong in it that is in sequence on a port that is up, with
this partition's key, on a lane of its opcode and with a payload in clear or one that decrypts: the port then expects the next
LSEQ, and what the lanes corrected is counted. A packet out of sequence is not taken: the gap is waited out and a NAK is due. -/
def Statements.LinkAccepts : Prop :=
  ∀ (s : State) (p : Nat) (k : Packet), p < 24 → portUp s p = true → linkFault s p k = none →
    (∀ bs, k.trailer.lseq = (port s p).rxNext → k.trailer.stomp = false → k.pkey = fld s Reg.FAB_PKEY Fld.FAB_PKEY_PKEY →
      laneOk k.op k.vl = true → (if k.enc then decrypt s p k else some k.payload) = some bs →
      ∃ u, arrive s p k = (u, some { k with payload := bs, enc := false, kph := false })
        ∧ u = { s with fab := u.fab, regs := u.regs } ∧ RegsBut s u [Reg.FAB_FECCORR p]
        ∧ regN u (Reg.FAB_FECCORR p) = min (regN s (Reg.FAB_FECCORR p) + k.trailer.fec) 0xFFFFFFFF
        ∧ (port u p).rxNext = ((port s p).rxNext + 1) % 2 ^ 32 ∧ (port u p).gap = false
        ∧ (port u p).owed = (port s p).owed ∧ ∀ q, q ≠ p → port u q = port s q) ∧
    (k.trailer.lseq ≠ (port s p).rxNext → ∃ u, arrive s p k = (u, none) ∧ u = { s with fab := u.fab, regs := u.regs }
      ∧ RegsBut s u [Reg.FAB_FECCORR p] ∧ (port u p).rxNext = (port s p).rxNext ∧ (port u p).gap = true
      ∧ ((port s p).gap = false → (port u p).nakDue = true))

/-- R424: a packet in sequence whose PKEY differs from FAB_PKEY is discarded whatever its opcode: FAB_BADKEY counts it, and
nothing is written, forwarded or refused. -/
def Statements.BadKey : Prop :=
  ∀ (s : State) (p : Nat) (k : Packet), alive s = true → p < 24 → portUp s p = true → linkFault s p k = none →
    k.trailer.lseq = (port s p).rxNext → k.trailer.stomp = false → (k.enc = false ∨ decrypt s p k ≠ none) →
    k.pkey ≠ fld s Reg.FAB_PKEY Fld.FAB_PKEY_PKEY →
    (∀ c ∈ Statements.packetRows p k, k.op = c.2 → Runs c.1 s fun t =>
      regN t Reg.FAB_BADKEY = min (regN s Reg.FAB_BADKEY + 1) 0xFFFFFFFF ∧ RegsBut s t [Reg.FAB_BADKEY, Reg.FAB_FECCORR p]
        ∧ t = { s with regs := t.regs, fab := t.fab, msix := t.msix, edge := t.edge }
        ∧ (∀ q, (port t q).ctrl = (port s q).ctrl ∧ (port t q).best = (port s q).best)) ∧
    (routeOf s k.dst ≠ some 30 → Runs (.transitPacket p k false) s fun t =>
      regN t Reg.FAB_BADKEY = min (regN s Reg.FAB_BADKEY + 1) 0xFFFFFFFF ∧ RegsBut s t [Reg.FAB_BADKEY, Reg.FAB_FECCORR p]
        ∧ t = { s with regs := t.regs, fab := t.fab, msix := t.msix, edge := t.edge }
        ∧ (∀ q, (port t q).transit = (port s q).transit ∧ (port t q).best = (port s q).best))

/-- What a link accepts, and a packet with another partition's key. -/
def Obligations.LinkReceives : Prop := Statements.LinkAccepts ∧ Statements.BadKey

/-- No other segment of the packet's cart waits before it (R285). -/
def Statements.first (u : State) (k : Packet) : Prop := (u.loft.waiting.any fun x => sameCart x.2.1 k) = false

/-- R280, R284, R441, R442, R455: requests to a Crib of this device and their answers, on a device whose memory is in order
and on which nothing else is under way. WRITE stores its payload and ATOMIC applies its operation; when it was all of its
cart, the cart is acknowledged to its source. REDUCE hands its contribution to the line; READREQ is answered with the bytes
on the Best-effort lane; READRSP and ATOMRSP store what they bring, and with the last segment their cart is over. A WRITE to
the mailbox raises MAILBOX. A request that is refused writes nothing and is answered with its code. -/
def Statements.ServedAlone (s u : State) (p : Nat) (k k' : Packet) : Prop :=
  Statements.Calm u → Statements.Clean u →
    (∀ c ∈ [(Instr.write p k, opWrite), (.atomic p k, opAtomic)], Statements.Accepted s u p c.2 k k' → refuseCode u k' = none →
      isCrib k'.addr = true → Runs c.1 s fun t =>
        (c.2 = opWrite → t.mem = memPut u.mem k'.addr k'.payload) ∧
        (c.2 = opAtomic → t.mem = memPut u.mem k'.addr (atomicOps (strictMode u) k'.dtype k'.rop (dtypeSize k'.dtype)
          (peek u k'.addr (if k'.rop = 3 then k'.payload.length / 2 else k'.payload.length)) k'.payload).1) ∧
        (∀ q, k'.last = true → routeOf u k'.src = some q → q < 24 →
          ∃ x ∈ (port t q).ctrl, x.op = opAck ∧ x.dst = k'.src ∧ x.cartid = k'.cartid)) ∧
    (Statements.Accepted s u p opWrite k k' → refuseCode u k' = none → isCtl k'.addr = true → Runs (.write p k) s fun t =>
      t.mem = memPut u.mem k'.addr k'.payload ∧ fld t Reg.FAB_INTSTAT Fld.FAB_INTSTAT_MAILBOX = 1) ∧
    (∀ y, Statements.Accepted s u p opReduce k k' → refuseCode u k' = none →
      contribute (dropReturned (noteArrived u k') k') {
        cart := k'.cartid, seq := k'.cseq, addr := k'.addr, dtype := k'.dtype, rop := k'.rop, data := k'.payload,
        origin := some k'.src } = (y, true) → Runs (.reduce p k) s fun t => t.mem = y.mem) ∧
    (∀ q, Statements.Accepted s u p opReadreq k k' → refuseCode u k' = none → isCrib k'.addr = true →
      routeOf u k'.src = some q → q < 24 → Runs (.readreq p k) s fun t => MemSame u t
        ∧ ∃ x ∈ (port t q).best, x.op = opReadrsp ∧ x.dst = k'.src ∧ x.payload = peek u k'.addr (bitsN k'.aux 9 0)
          ∧ x.cartid = k'.cartid ∧ x.cseq = k'.cseq ∧ x.vl = vlBest) ∧
    (∀ q, ∀ c ∈ [(Instr.write p k, opWrite), (.atomic p k, opAtomic), (.reduce p k, opReduce), (.readreq p k, opReadreq)],
      Statements.Accepted s u p c.2 k k' → ∀ code, refuseCode u k' = some code → routeOf u k'.src = some q → q < 24 →
      Runs c.1 s fun t => MemSame u t ∧ ∃ x ∈ (port t q).ctrl, x.op = opRefuse ∧ x.dst = k'.src ∧ x.cartid = k'.cartid
        ∧ x.cseq = k'.cseq ∧ bitsN x.aux 7 0 = code)

/-- R284, R304, R427 to R429, R432, R455: requests that a packet brings to a Crib or to the mailbox of this device. A write
lands, an atomic operation and a read are answered to their source, a contribution joins its round and its buffer is free
again, and a request that may not be served is refused with its code. What a response brings lands in the place of its
cart. The device then goes on with what waited for memory (`settle`); alone, without any, it is done. -/
def Obligations.PacketsServed : Prop :=
  ∀ (s u : State) (p : Nat) (k k' : Packet), Statements.ServedAlone s u p k k' ∧
    (Statements.Accepted s u p opWrite k k' → refuseCode u k' = none → isCrib k'.addr = true → Statements.first u k' →
      ∀ y, storeSeg (noteArrived u k') k'.addr k'.payload = (y, none) →
      Statements.Settles (.write p k) s fun w => w.mem = y.mem) ∧
    (Statements.Accepted s u p opWrite k k' → refuseCode u k' = none → isCtl k'.addr = true → Statements.first u k' →
      Statements.Settles (.write p k) s fun w => w.mem = memPut u.mem k'.addr k'.payload
        ∧ fld w Reg.FAB_INTSTAT Fld.FAB_INTSTAT_MAILBOX = 1 ∧ RegsBut u w [Reg.FAB_INTSTAT]) ∧
    (Statements.Accepted s u p opAtomic k k' → refuseCode u k' = none → isCrib k'.addr = true → Statements.first u k' →
      ∀ y old, atomicAt (noteArrived u k') k'.dtype k'.rop k'.addr k'.payload = (y, .ok old) →
      Statements.Settles (.atomic p k) s fun w => w.mem = y.mem ∧ ∀ q, bitN k'.aux 0 = true → routeOf y k'.src = some q →
        q < 24 → ∃ x ∈ (port w q).best, x.op = opAtomrsp ∧ x.dst = k'.src ∧ x.payload = old ∧ x.cartid = k'.cartid) ∧
    (Statements.Accepted s u p opReduce k k' → refuseCode u k' = none → Statements.first u k' → ∀ y,
      contribute (dropReturned (noteArrived u k') k') {
        cart := k'.cartid, seq := k'.cseq, addr := k'.addr, dtype := k'.dtype, rop := k'.rop, data := k'.payload,
        origin := some k'.src } = (y, true) →
      Statements.Settles (.reduce p k) s fun w => w = creditBack y p k') ∧
    (Statements.Accepted s u p opReadreq k k' → refuseCode u k' = none → isCrib k'.addr = true → Statements.first u k' →
      ∀ y bs q, load u k'.addr (bitsN k'.aux 9 0) = (y, .ok bs) → routeOf y k'.src = some q → q < 24 →
      Statements.Settles (.readreq p k) s fun w => w.mem = y.mem ∧ ∃ x ∈ (port w q).best,
        x.op = opReadrsp ∧ x.dst = k'.src ∧ x.payload = bs ∧ x.cartid = k'.cartid ∧ x.cseq = k'.cseq ∧ x.vl = vlBest) ∧
    (∀ c ∈ [(Instr.readrsp p k, opReadrsp), (.atomrsp p k, opAtomrsp)], Statements.Accepted s u p c.2 k k' → ∀ x i d,
      responsePlace u k' = some (x, i, d) → x.op ≠ 3 → isCrib d = true → x.segs[i]? = some .left →
      (∀ y, storeSeg u d k'.payload = (y, none) → Statements.Settles c.1 s fun w => w.mem = y.mem
        ∧ ∃ z, cart w k'.cartid = some z ∧ z.segs = x.segs.set i .applied) ∧
      (u.carts = [(k'.cartid, x)] → Statements.Calm { u with carts := [] } → Statements.Clean u →
        Runs c.1 s fun t => t.mem = memPut u.mem d k'.payload
          ∧ ∃ z, cart t k'.cartid = some z ∧ z.segs[i]? = some .applied))

/-- R289, R428, R442: an ACK from the device where its data landed ends the cart that it names, under RETEN once its old
values are all here. A REFUSE is counted and shown, and the error is recorded; memory is as before. -/
def Statements.CartAnswers : Prop :=
  ∀ (s u : State) (p : Nat) (k k' : Packet),
    (∀ c, Statements.Accepted s u p opAck k k' → cart u k'.cartid = some c → gDevice c.dst = k'.src → landsHere u c = false →
      c.ended = false →
      ((c.reten = false ∨ allApplied c = true) → Statements.Settles (.ack p k) s fun w => cart w k'.cartid = none
        ∧ w.regs = u.regs ∧ (∀ id, id ≠ k'.cartid → cart w id = cart u id) ∧ MemSame s w) ∧
      ((c.reten = false ∨ allApplied c = true) → u.carts = [(k'.cartid, c)] → Statements.Calm { u with carts := [] } →
        Runs (.ack p k) s fun t => t.carts = [] ∧ t.frm.cartsDone = s.frm.cartsDone ++ [k'.cartid] ∧ t.regs = u.regs
          ∧ MemSame s t) ∧
      (c.reten = true → allApplied c = false → Runs (.ack p k) s fun t => cart t k'.cartid = some { c with acked := true }
        ∧ t.regs = u.regs ∧ MemSame s t)) ∧
    (Statements.Accepted s u p opRefuse k k' → Runs (.refuse p k) s fun t =>
      regN t Reg.FAB_REFUSED = min (regN s Reg.FAB_REFUSED + 1) 0xFFFFFFFF
        ∧ fld t Reg.FAB_INTSTAT Fld.FAB_INTSTAT_REFUSED = 1
        ∧ regN t Reg.LFT_ADDRERR = min (regN s Reg.LFT_ADDRERR + 1) 0xFFFFFFFF
        ∧ fld t Reg.LFT_PLCINT Fld.LFT_PLCINT_ADDRERR = 1
        ∧ reg64 t Reg.INT_LOGCOUNT_LO = (reg64 s Reg.INT_LOGCOUNT_LO + 1) % 2 ^ 64 ∧ MemSame s t
        ∧ (∀ d, cart t k'.cartid = some d → d.ended = true))

/-- R145, R444 to R446: a counter takes a signed amount modulo 2^64 and the walk goes on. A tree run begins when its gate is
open and it is armed; one that has nothing to wait for is over at once. An up segment that arrives before its run has begun
lands in SCRATCH, a down segment in BUF; one that names a tree not in use counts as a bad opcode and raises TREEERR, and
where the device is not ready (R428) it is refused. -/
def Statements.CountersAndTrees : Prop :=
  (∀ (s u : State) (n b : Nat) (i : Item) (body : List Byte), alive s = true → walkTo s n = .item u b i body → i.kind = 14 →
    bitN i.w1 15 = false → allRetired u b = true → itemIdx u b ≠ 65535 → Runs (.counterAdd n) s fun t =>
      counter t (bitsN i.w1 9 0) = wrapN 64 ((counter u (bitsN i.w1 9 0) : Int) + sextN 32 i.w2)
        ∧ itemIdx t b = itemIdx u b + 1 ∧ MemSame u t
        ∧ RegsBut u t [Reg.BGH_CNT_LO (bitsN i.w1 9 0), Reg.BGH_CNT_LO (bitsN i.w1 9 0) + 4, Reg.BGH_ITEM b,
          Reg.MIL_STATUS]) ∧
  (∀ (s : State) (tr : Nat), alive s = true → treeUsed s tr = true → (treeSt s tr).run = false →
    (treeSt s tr).armed = true → gateOpen s (treeEnt s tr) = true → Statements.Calm s → Statements.Clean s →
    (Runs (.treeRunStart tr) s fun t => (treeSt t tr).armed = false ∧ ((treeSt t tr).run = true ∨ tr ∈ t.frm.treesDone)) ∧
    (treeSt s tr = { armed := true } → (treeEnt s tr).nchild ≠ 0 → (treeEnt s tr).len ≠ 0 →
      Runs (.treeRunStart tr) s fun t => treeSt t tr = { run := true, armed := false } ∧ t.regs = s.regs ∧ MemSame s t
        ∧ t.net = s.net)) ∧
  (∀ (s u : State) (p : Nat) (k k' : Packet), Statements.Accepted s u p opTree k k' → Statements.Calm u →
    Statements.Clean u → let tr := bitsN k'.aux 23 18; let e := treeEnt u tr
    (notReady u = false → treeUsed u tr = true → k'.cseq < e.segs → pcount u = 0 →
      (bitN k'.aux 17 = false → bitsN k'.aux 3 0 < e.nchild → (treeSt u tr).run = false → Runs (.tree p k) s fun t =>
        t.mem = memPut u.mem (e.scratch + bitsN k'.aux 3 0 * e.len + 512 * k'.cseq) k'.payload
          ∧ (bitsN k'.aux 3 0, k'.cseq) ∈ (treeSt t tr).landed) ∧
      (bitN k'.aux 17 = true → Runs (.tree p k) s fun t => t.mem = memPut u.mem (e.buf + 512 * k'.cseq) k'.payload
        ∧ (k'.cseq ∈ (treeSt t tr).down ∨ tr ∈ t.frm.treesDone))) ∧
    (notReady u = false → treeUsed u tr = false → Runs (.tree p k) s fun t =>
      fld t Reg.FAB_INTSTAT Fld.FAB_INTSTAT_TREEERR = 1 ∧ regN t Reg.FAB_BADOP = min (regN s Reg.FAB_BADOP + 1) 0xFFFFFFFF
        ∧ RegsBut u t [Reg.FAB_INTSTAT, Reg.FAB_BADOP] ∧ MemSame s t) ∧
    (∀ q, notReady u = true → routeOf u k'.src = some q → q < 24 → Runs (.tree p k) s fun t => MemSame s t
      ∧ ∃ x ∈ (port t q).ctrl, x.op = opRefuse ∧ x.dst = k'.src ∧ bitsN x.aux 7 0 = 3))

/-- Answers to carts, and counters and trees that packets feed. -/
def Obligations.CartsBetweenDevices : Prop := Statements.CartAnswers ∧ Statements.CountersAndTrees

/-- R393, R449 to R451, R473: what a gateway learns from FLAG packets of a child port, going up, and of its parent's, going
down. A slip of the running program frame sets the slip flag; a Blight is heard by the open step it names; both join what is
known. An ARRIVE from a child port is noted for its barrier and generation; a RELEASE from the parent signals SEM once and
ends the generation. -/
def Statements.FlagsLearnt : Prop :=
  ∀ (s u : State) (p : Nat) (k k' : Packet), isGateway u = true → Statements.Taken s u p opFlag k k' →
    ((if flagDown k' then parentPort u = p else (childPorts u).contains p = true) →
      (flagKind k' = fkSlip → flagKey k' = pindex u → knows u (fkSlip, flagKey k') = false → Runs (.flagSlip p k) s fun t =>
        t.frm.slipFlag = true ∧ knows t (fkSlip, flagKey k') = true ∧ t.regs = u.regs ∧ MemSame s t) ∧
      (flagKind k' = fkBlight → (∃ x ∈ u.step.opened, x.start = flagKey k') → knows u (fkBlight, flagKey k') = false →
        Runs (.flagBlight p k) s fun t => (∀ x ∈ t.step.opened, x.start = flagKey k' → x.heard = true)
          ∧ t.step.opened.length = u.step.opened.length ∧ knows t (fkBlight, flagKey k') = true ∧ MemSame s t) ∧
      (flagKind k' = fkArrive → flagDown k' = false → pbarOn u (flagKey k' % 256) = true →
        flagKey k' / 256 = pbarGen u (flagKey k' % 256) → Runs (.flagArrive p k) s fun t =>
          (flagKey k' % 256, flagKey k' / 256, p) ∈ t.fab.flags.came ∧ t.regs = u.regs ∧ MemSame s t)) ∧
    (flagDown k' = true → parentPort u = p → flagKind k' = fkRelease → pbarOn u (flagKey k' % 256) = true →
      flagKey k' / 256 = pbarGen u (flagKey k' % 256) → Runs (.flagRelease p k) s fun t =>
        pbarGen t (flagKey k' % 256) = pbarGen u (flagKey k' % 256) + 1
          ∧ t.net = s.net ++ [⟨0, pbar u (flagKey k' % 256) Fld.FAB_PBAR_SEM, 1⟩] ∧ t.regs = u.regs ∧ MemSame s t)

/-! ## Transit, links and admission (R405 to R433) -/

/-- R429 to R431, R437: a packet for another device that the link takes. With a route, TTL left, credit and nothing before it
it leaves at once with one TTL less; otherwise it waits in order. Without a route, or with TTL 0, it is dropped and counted,
and a data packet is answered with a REFUSE to its source. One whose trailer check fails after forwarding has begun goes on
as a STOMP packet, and is waited for. -/
def Statements.Transit : Prop :=
  (∀ (s u : State) (p q : Nat) (k k' : Packet), alive s = true → routeOf s k.dst ≠ some 30 → arrive s p k = (u, some k') →
    let ready := linkClear u q && !((port u q).transit.any fun x => keepsOrder x.2 k') && mayStart u q k'
    (routeOf u k'.dst = some q → q < 24 → k'.ttl ≠ 0 →
      (ready = true → Runs (.transitPacket p k false) s fun t =>
        t = { s with regs := t.regs, fab := t.fab, wire := t.wire, msix := t.msix, edge := t.edge }
          ∧ RegsBut s t [Reg.FAB_FECCORR p] ∧ ∃ x, t.wire = s.wire ++ [.packet q x] ∧ x.ttl = k'.ttl - 1 ∧ x.dst = k'.dst
          ∧ x.src = k'.src ∧ x.cartid = k'.cartid ∧ x.cseq = k'.cseq ∧ x.trailer.lseq = (port u q).txNext
          ∧ (linkEnc u k' = false → x.payload = k'.payload)) ∧
      (ready = false → Runs (.transitPacket p k false) s fun t =>
        t = { s with regs := t.regs, fab := t.fab, msix := t.msix, edge := t.edge } ∧ RegsBut s t [Reg.FAB_FECCORR p]
          ∧ (port t q).transit = (port u q).transit ++ [(p, { k' with ttl := k'.ttl - 1 })])) ∧
    (∀ r ∈ [(Reg.FAB_NOROUTE, 6), (Reg.FAB_TTLDROP, 7)],
      (if r.2 = 6 then routeOf u k'.dst = none else k'.ttl = 0 ∧ routeOf u k'.dst ≠ none) →
      (answers k'.op = false → Runs (.transitPacket p k false) s fun t =>
        regN t r.1 = min (regN s r.1 + 1) 0xFFFFFFFF ∧ RegsBut s t [r.1, Reg.FAB_FECCORR p] ∧ MemSame s t) ∧
      (answers k'.op = true → routeOf u k'.src = some q → q < 24 → Runs (.transitPacket p k false) s fun t =>
        regN t r.1 = min (regN s r.1 + 1) 0xFFFFFFFF ∧ RegsBut s t [r.1, Reg.FAB_FECCORR p] ∧ MemSame s t
          ∧ ∃ x ∈ (port t q).ctrl, x.op = opRefuse ∧ x.dst = k'.src ∧ x.cartid = k'.cartid
            ∧ x.cseq = k'.cseq ∧ bitsN x.aux 7 0 = r.2))) ∧
  (∀ (s : State) (p q : Nat) (k : Packet), alive s = true → p < 24 → portUp s p = true → k.hcrc = hcrcOf k →
    k.pkey = fld s Reg.FAB_PKEY Fld.FAB_PKEY_PKEY → laneOk k.op k.vl = true → routeOf s k.dst = some q → q < 24 →
    linkClear s q = true → mayStart s q k = true → k.ttl ≠ 0 → Runs (.transitPacket p k true) s fun t =>
      (port t p).rxNext = (port s p).rxNext ∧ (port t p).gap = true ∧ MemSame s t
        ∧ ∃ x, t.wire = s.wire ++ [.packet q x] ∧ x.trailer.stomp = true ∧ x.ttl = k.ttl - 1 ∧ x.dst = k.dst)

/-- R410 to R414, R426, R456: what arrives on a port that is up. A trailer's LACK frees the packets before it, its credits are
added, and a NAK asks for every packet that is left. A packet that fails a check is counted by its kind and waited for; one
with a reserved opcode counts in FAB_BADOP. -/
def Statements.LinkEvents : Prop :=
  ∀ (s : State) (p : Nat), alive s = true → p < 24 → portUp s p = true →
    (∀ tr : Trailer, tr.lseq = bareLseq → tr.crc = bareCrc tr →
      let kept := (port s p).replay.filter (fun k =>
        seqDist k.trailer.lseq tr.lack = 0 || 2 ^ 31 ≤ seqDist k.trailer.lseq tr.lack);
      ∀ c ∈ [Instr.bareTrailer p tr, .nak p tr], (c = .nak p tr → tr.nak = true) → Runs c s fun t =>
        t = { s with regs := t.regs, fab := t.fab, msix := t.msix, edge := t.edge } ∧ RegsBut s t [Reg.FAB_FECCORR p]
          ∧ regN t (Reg.FAB_FECCORR p) = min (regN s (Reg.FAB_FECCORR p) + tr.fec) 0xFFFFFFFF ∧ (port t p).replay = kept
          ∧ (port t p).credit = (port s p).credit.set tr.crvl (((port s p).credit[tr.crvl]?).getD 0 + tr.credits)
          ∧ (∀ q, q ≠ p → port t q = port s q) ∧ (tr.nak = true → (port t p).again = kept)) ∧
    (∀ x ∈ [(LinkFault.badHcrc, Reg.FAB_CRCERR p), (.badCrc, Reg.FAB_CRCERR p), (.badTag, Reg.FAB_TAGERR p)],
      Runs (.linkPacketDiscard p x.1) s fun t =>
        regN t x.2 = min (regN s x.2 + 1) 0xFFFFFFFF ∧ RegsBut s t [x.2] ∧ (port t p).gap = true
          ∧ (port t p).rxNext = (port s p).rxNext ∧ MemSame s t) ∧
    (∀ lane, Runs (.linkPacketDiscard p (.uncorrectable lane)) s fun t =>
      regN t (Reg.FAB_FECUNC p) = min (regN s (Reg.FAB_FECUNC p) + 1) 0xFFFFFFFF ∧ (port t p).gap = true
        ∧ (port t p).rxNext = (port s p).rxNext
        ∧ kget (fun _ => 0) (port t p).badRound lane = kget (fun _ => 0) (port s p).badRound lane + 1 ∧ MemSame s t
        ∧ (kget (fun _ => 0) (port s p).badRound lane ≠ 3 → RegsBut s t [Reg.FAB_FECUNC p])
        ∧ (kget (fun _ => 0) (port s p).badRound lane = 3 → p < 16 → lane ≤ 8 → bitN (lanesFailed t p) lane = true)) ∧
    (Runs (.linkPacketDiscard p .wrongLseq) s fun t => t.regs = s.regs ∧ (port t p).gap = true
      ∧ (port t p).rxNext = (port s p).rxNext ∧ MemSame s t) ∧
    (∀ k : Packet, linkFault s p k = none → k.trailer.lseq = (port s p).rxNext → k.trailer.stomp = false →
      (k.enc = false ∨ decrypt s p k ≠ none) → k.pkey = fld s Reg.FAB_PKEY Fld.FAB_PKEY_PKEY → laneOk k.op k.vl = false →
      Runs (.reservedOpPacket p k) s fun t => regN t Reg.FAB_BADOP = min (regN s Reg.FAB_BADOP + 1) 0xFFFFFFFF
        ∧ RegsBut s t [Reg.FAB_BADOP, Reg.FAB_FECCORR p]
        ∧ t = { s with regs := t.regs, fab := t.fab, msix := t.msix, edge := t.edge })

/-- Packets in transit, and what becomes of a link. -/
def Obligations.LinkTraffic : Prop := Statements.Transit ∧ Statements.LinkEvents

/-- A LINKCTL or ADMIT packet k comes in on port p and is heard as k' in the state v: on a link that is up in its order, on
one in admission outside it (R410, R417). -/
def Statements.Came (s v : State) (p op : Nat) (k k' : Packet) : Prop :=
  alive s = true ∧ p < 24 ∧ k.op = op ∧
    ((portUp s p = true ∧ ∃ u, arrive s p k = (u, some k') ∧ v = creditBack u p k') ∨
      (portUp s p = false ∧ (portState s p = psAdmit ∨ portState s p = psRefused) ∧ k.hcrc = hcrcOf k
        ∧ k.trailer.crc = crcOf k ∧ laneOk k.op k.vl = true ∧ k' = k ∧ v = countFec s p k.trailer))

/-- A packet on the wire that takes no place in the LSEQ order (R417). -/
def Statements.outside (v : State) (p : Nat) (keys : Option (List Byte)) (k : Packet) : Wire :=
  .packet p (sealPkt keys { k with frame := frameNo v % 65536, trailer := trailerOf {} bareLseq false })

/-- A link-local message of an opcode goes to the partner of port p: into the queue of a link that is up; on a link that is
not, to its next slot, or at once when no frame runs (R47, R417). -/
def Statements.Sent (v t : State) (p op : Nat) (tagged : Bool) (msg : List Byte) : Prop :=
  let ks := msgPackets v p op msg
  if portUp v p then (port t p).ctrl = (port v p).ctrl ++ ks
  else if ticking v then (port t p).adm.out = (port v p).adm.out ++ ks.map fun k => (tagged, k)
  else t.wire = v.wire ++ ks.map (Statements.outside v p (if tagged then some (port t p).adm.next else none))

/-- R413 to R416: a port that has counted 16 NAKs, or has lost lock, retrains and keeps its LSEQ state and replay buffer. A
failed wavelength or lane is shown; one of an optical port whose spare is free is asked to move; the partner's request is
acknowledged; at the tick after an acknowledgement the lane is on the spare and everything unacknowledged is sent again. A
failed lane of an electrical port narrows it. -/
def Obligations.LanesAndLocks : Prop :=
  ∀ (s : State) (p : Nat), alive s = true → p < 24 →
    (∀ c ∈ [Instr.portRetrain p, .portLockLoss p], (if c = .portLockLoss p then portState s p ≠ psDown
        else portUp s p = true ∧ 16 ≤ (port s p).naks) → Runs c s fun t =>
      portState t p = psTrain ∧ fld t Reg.FAB_INTSTAT Fld.FAB_INTSTAT_LINKDOWN = 1 ∧ (port t p).replay = (port s p).replay
        ∧ (port t p).txNext = (port s p).txNext ∧ (port t p).rxNext = (port s p).rxNext
        ∧ RegsBut s t [Reg.FAB_PSTAT p, Reg.FAB_INTSTAT] ∧ MemSame s t) ∧
    (∀ lane, lane < 8 ∨ (lane = 8 ∧ p < 16) → bitN (lanesFailed s p) lane = false →
      (Runs (.wavelengthFail p lane) s fun t => lanesFailed t p = lanesFailed s p ||| 2 ^ lane ∧ MemSame s t) ∧
      (lane < 8 → p < 16 → bitN (lanesFailed s p) 8 = false → spareLane s p = 15 → coveredLane s p = none →
        Runs (.wavelengthFail p lane) s fun t => lanesFailed t p = lanesFailed s p ||| 2 ^ lane ∧ (port t p).asked = [lane]
          ∧ Statements.Sent s t p opLinkctl false (linkctlPayload (.failover lane)) ∧ RegsBut s t [Reg.FAB_LANES p]) ∧
      (16 ≤ p → lanesFailed s p = 0 → spareLane s p = 15 → Runs (.wavelengthFail p lane) s fun t =>
        lanesFailed t p = 2 ^ lane ∧ portHalf t p = true ∧ fld t Reg.FAB_INTSTAT Fld.FAB_INTSTAT_FAILOVER = 1
          ∧ portState t p = portState s p)) ∧
    (∀ v k k' lane, Statements.Came s v p opLinkctl k k' →
      (p < 16 → lane < 8 → spareLane v p = 15 → bitN (lanesFailed v p) 8 = false →
        Runs (.linkctlFailover p ⟨k, lane, false⟩) s fun t => (port t p).moving = some (lane, false) ∧ (port t p).asked = []
          ∧ Statements.Sent v t p opLinkctl false (linkctlPayload (.failoverAck lane)) ∧ t.regs = v.regs ∧ MemSame s t) ∧
      ((port v p).asked = [lane] → Runs (.linkctlFailover p ⟨k, lane, true⟩) s fun t =>
        (port t p).moving = some (lane, false) ∧ (port t p).asked = [] ∧ t.regs = v.regs ∧ MemSame s t)) ∧
    (∀ lane, lane < 8 → (port s p).moving = some (lane, true) → Runs (.laneFailover p) s fun t =>
      spareLane t p = lane ∧ fld t (Reg.FAB_PSTAT p) Fld.FAB_PSTAT_SPARE = 1 ∧ (port t p).again = (port s p).replay
        ∧ (port t p).moving = none ∧ fld t Reg.FAB_INTSTAT Fld.FAB_INTSTAT_FAILOVER = 1 ∧ MemSame s t)

/-- R478: the answer to a time request from this device gives the steer of its Floor; a child's request is answered on its
port with the time it came and the time of the answer. -/
def Statements.LinkTime : Prop :=
  ∀ (s v : State) (p t2 t3 t4 : Nat) (k k' : Packet), Statements.Came s v p opLinkctl k k' → isTime k' = true →
    let t1 := leAt k'.payload 8 8
    (isGateway v = true → p = parentPort v → v.floor.twait = some t1 → Runs (.linkctlTime p k t2 t3 t4) s fun t =>
      t.floor.twait = none ∧ t.floor.steer = (sextN 64 (wrapN 64 ((leAt k'.payload 16 8 : Int) - t1))
          + sextN 64 (wrapN 64 ((leAt k'.payload 24 8 : Int) - t4))) / 2
        ∧ t = { v with floor := t.floor, msix := t.msix, edge := t.edge }) ∧
    ((childPorts v).contains p = true → p ≠ parentPort v → Runs (.linkctlTime p k t2 t3 t4) s fun t =>
      Statements.Sent v t p opLinkctl false (linkctlPayload (.time t1 t2 t3))
        ∧ t = { v with wire := t.wire, fab := t.fab, msix := t.msix, edge := t.edge })

/-- What a slot sends in the control class, and the transfer of time over a link. -/
def Obligations.ControlAndTime : Prop := Statements.SlotSendsControl ∧ Statements.TimeTransferStarts ∧ Statements.LinkTime

/-- An admission has failed on port p with a reason (R423). -/
def Statements.Refused (t : State) (p reason : Nat) : Prop :=
  portState t p = psRefused ∧ fld t (Reg.FAB_PSTAT p) Fld.FAB_PSTAT_REASON = reason
    ∧ fld t Reg.FAB_INTSTAT Fld.FAB_INTSTAT_ADMITFAIL = 1

/-- The HELLO of an admission that begins: its nonce, its step, and its packets on their way (R418). -/
def Statements.Begun (s t : State) (p : Nat) : Prop :=
  portState t p = psAdmit ∧ (port t p).adm.step = 1 ∧ (port t p).adm.nonce = Config.nonce s.free ∧ t.free = s.free + 1
    ∧ (port t p).adm.own = Config.helloBytes (ownHello s (Config.nonce s.free)) ∧ (port t p).adm.peer = none

/-- R417, R418, R423: training that fails refuses the port; training that passes leads to admission, and a device that is
joined sends its HELLO with a fresh nonce. A device that is not ready answers every ADMIT message with NOTREADY. A partner's
reason refuses the port, and a refused port tries again. -/
def Statements.AdmissionBegins : Prop :=
  ∀ (s : State) (p : Nat), alive s = true → p < 24 →
    (∀ desk locked, isDormant s = false → (rstState s ≠ 0 ∨ 3 ≤ rsPhase s) → portDisabled s p = false →
      (portState s p = psDown ∨ portState s p = psTrain) →
      (trainOk p desk locked = false → Runs (.trainingSequence p desk locked) s fun t => Statements.Refused t p arNone
        ∧ RegsBut s t [Reg.FAB_PSTAT p, Reg.FAB_INTSTAT] ∧ MemSame s t) ∧
      (trainOk p desk locked = true → Runs (.trainingSequence p desk locked) s fun t => portState t p = psAdmit
        ∧ (port t p).adm.step = 1 ∧ RegsBut s t [Reg.FAB_PSTAT p, Reg.FAB_LANES p] ∧ MemSame s t
        ∧ (admitOpen s = true → Statements.Begun s t p ∧ (if ticking s
            then (port t p).adm.out = (msgPackets s p opAdmit (port t p).adm.own).map fun k => (false, k)
            else t.wire = s.wire ++ (msgPackets s p opAdmit (port t p).adm.own).map (Statements.outside s p none))))) ∧
    (∀ v k k', Statements.Came s v p opAdmit k k' → portUp s p = false → k'.last = true → admitBlocked v = true →
      ∀ c, (∃ h, c = .hello p ⟨k, h⟩) ∨ (∃ sig, c = .proof p ⟨k, sig⟩) ∨ c = .confirm p k → Runs c s fun t =>
        Statements.Sent v t p opLinkctl false (linkctlPayload (.reason arNotready)) ∧ portState t p = portState s p
          ∧ (port t p).adm.asm = [] ∧ t = { v with fab := t.fab, wire := t.wire, msix := t.msix, edge := t.edge }) ∧
    (∀ v k k', Statements.Came s v p opAdmit k k' → k'.last = false →
      ∀ c, (∃ h, c = .hello p ⟨k, h⟩) ∨ (∃ sig, c = .proof p ⟨k, sig⟩) ∨ c = .confirm p k → Runs c s fun t =>
        (port t p).adm.asm = (port v p).adm.asm ++ k'.payload ∧ t = { v with fab := t.fab, msix := t.msix, edge := t.edge }) ∧
    (∀ v k k' r, Statements.Came s v p opLinkctl k k' → 0 < r → r ≤ 9 → portState s p = psAdmit →
      Runs (.linkctlReason p ⟨k, r⟩) s fun t => Statements.Refused t p r ∧ RegsBut v t [Reg.FAB_PSTAT p, Reg.FAB_INTSTAT]
        ∧ MemSame s t) ∧
    (portState s p = psRefused → (port s p).adm.step = 0 → Runs (.admitRetry p) s fun t => portState t p = psTrain
      ∧ OnlyRegs s t [Reg.FAB_PSTAT p]) ∧
    (portState s p = psRefused → (port s p).adm.step ≠ 0 → admitOpen s = true → Runs (.admitRetry p) s fun t =>
      Statements.Begun s t p ∧ Statements.Sent s t p opAdmit false (port t p).adm.own ∧ RegsBut s t [Reg.FAB_PSTAT p])

/-- R416, R418 to R422: the steps of an admission on a joined device. Each message that fails its check refuses the port with
the reason of that check; a HELLO that passes is remembered with the keys of the session and answered with a PROOF, a PROOF
that verifies is answered with CONFIRM, and the partner's CONFIRM brings the link up: a partner that was admitted last keeps
the LSEQ state, another starts it anew. -/
def Statements.AdmissionSteps : Prop :=
  ∀ (s v : State) (p : Nat) (k k' : Packet), Statements.Came s v p opAdmit k k' → portUp s p = false → k'.last = true →
    admitOpen v = true → portState v p = psAdmit →
    (∀ h r, (port v p).adm.step = 1 → (port v p).adm.nonce ≠ [] → helloFault v p h = some r →
      Runs (.hello p ⟨k, h⟩) s fun t => Statements.Refused t p r ∧ RegsBut v t [Reg.FAB_PSTAT p, Reg.FAB_INTSTAT]) ∧
    (∀ h, (port v p).adm.step = 1 → (port v p).adm.nonce ≠ [] → helloFault v p h = none →
      let hash := sessionHash (deviceId v) h.device (port v p).adm.own ((port v p).adm.asm ++ k'.payload)
      Runs (.hello p ⟨k, h⟩) s fun t => (port t p).adm.step = 2 ∧ (port t p).adm.peer = some h ∧ portState t p = psAdmit
        ∧ (port t p).adm.hash = hash ∧ (port t p).adm.next = sessionKeys v hash
        ∧ (sigNext v < sigRes v → sigNext t = sigNext v + 1 ∧ Statements.Sent v t p opAdmit false
            (Config.proofBytes (Config.identitySign (sigNext v) (proofMsg hash (deviceId v)))))) ∧
    (∀ h sig, (port v p).adm.peer = some h → (port v p).adm.step = 2 →
      (Config.xmssVerify h.idkey (proofMsg (port v p).adm.hash h.device) sig = false →
        Runs (.proof p ⟨k, sig⟩) s fun t => Statements.Refused t p arBadsig) ∧
      (Config.xmssVerify h.idkey (proofMsg (port v p).adm.hash h.device) sig = true →
        Runs (.proof p ⟨k, sig⟩) s fun t => (port t p).adm.step = 3 ∧ t.regs = v.regs
          ∧ Statements.Sent v t p opAdmit true ((Config.confirmBytes (deviceId v)).take 512))) ∧
    (∀ h, (port v p).adm.peer = some h → (port v p).adm.step = 3 →
      (k'.trailer.tag ≠ ctlTag (port v p).adm.next k' → Runs (.confirm p k) s fun t => Statements.Refused t p arConfirm) ∧
      (k'.trailer.tag = ctlTag (port v p).adm.next k' → Runs (.confirm p k) s fun t => portState t p = psUp
        ∧ fld t Reg.FAB_INTSTAT Fld.FAB_INTSTAT_LINKUP = 1
        ∧ regN t (Reg.FAB_PEER p) = 2 ^ 31 + h.device % 2 ^ 18
        ∧ regN t (Reg.FAB_ADMITS p) = min (regN s (Reg.FAB_ADMITS p) + 1) 0xFFFFFFFF
        ∧ (port t p).credit = fullCredit ∧ (port t p).adm.keys = (port v p).adm.next
        ∧ (if (port v p).adm.last = some (h.device, shake256 h.idkey 32)
            then (port t p).resume = true ∧ (port t p).replay = (port v p).replay ∧ (port t p).rxNext = (port v p).rxNext
              ∧ (port t p).txNext = (port v p).txNext
            else (port t p).replay = [] ∧ (port t p).rxNext = 0 ∧ (port t p).txNext = 0)))

/-- Admission begins, and goes from step to step. -/
def Obligations.Admission : Prop := Statements.AdmissionBegins ∧ Statements.AdmissionSteps

/-! ## The Floor (R459 to R491) -/

/-- A burst of a kind that this device takes as valid (R461). -/
def Statements.Heard (s : State) (kind : Nat) (bu : Burst) : Prop :=
  alive s = true ∧ bu.kind = kind ∧ burstValid s bu = true ∧ bu.fidx < 256

/-- R466, R469, R482, R484: the way in. An unranged device sends RANGE in its drawn slot; a whole echo ranges it, FLR_RANGE
shows the delay, and a collided one doubles W up to 1 024 for one that is not ranged. A device that listens takes the frame
number of a beacon and goes on to range or to join, and keeps listening while PERIOD or WIN differs (R481). A ranged device
sends JOIN in its drawn slot. The beacon that shows its bit joins it, with the frame number and the program frame of the
beacon. -/
def Statements.FloorJoining : Prop :=
  ∀ (s : State), alive s = true →
    (flrState s = fsRange → s.floor.ranged = false → s.floor.echo = false → frameNo s % 2 = 1 →
      s.floor.rslot ≤ frameNo s → Runs .rangeAttempt s fun t => t.floor = { s.floor with echo := true }
        ∧ t = { s with floor := t.floor, wire := s.wire ++ [.burst (mkBurst s btRange [])], msix := t.msix, edge := t.edge }) ∧
    (∀ d, s.floor.echo = true → flrState s ≠ fsRange → Runs (.rangeEcho d true) s fun t =>
      fld t Reg.FLR_RANGE Fld.FLR_RANGE_DELAY = d % 2 ^ (Fld.FLR_RANGE_DELAY.hi + 1 - Fld.FLR_RANGE_DELAY.lo)
        ∧ t.floor.ranged = true ∧ t.floor.echo = false ∧ t.floor.w = 64 ∧ OnlyRegs { s with floor := t.floor } t [Reg.FLR_RANGE]) ∧
    (∀ d, s.floor.echo = true → flrState s = fsRange → Runs (.rangeEcho d true) s fun t =>
      t.floor.ranged = true ∧ t.floor.applied = (if s.floor.ranged then s.floor.applied else d) ∧ flrState t = fsJoin
        ∧ RegsBut s t [Reg.FLR_RANGE, Reg.FLR_STATUS]) ∧
    (∀ d, s.floor.echo = true → Runs (.rangeEcho d false) s fun t =>
      t.floor.w = (if s.floor.ranged then s.floor.w else min (2 * s.floor.w) 1024) ∧ t.floor.ranged = s.floor.ranged
        ∧ t.floor.echo = false
        ∧ regN t Reg.FLR_COLLIDE = min (regN s Reg.FLR_COLLIDE + 1) 0xFFFFFFFF ∧ RegsBut s t [Reg.FLR_COLLIDE]) ∧
    (flrState s = fsJoin → s.floor.ranged = true → s.floor.jsent = none → s.floor.jslot ≤ frameNo s →
      Runs .joinAttempt s fun t => t.floor.jsent = some (frameNo s) ∧ t.regs = s.regs
        ∧ ∃ x, t.wire = s.wire ++ [.burst x] ∧ x.kind = btJoin ∧ x.src = deviceId s ∧ x.frame = frameNo s
          ∧ leAt x.payload 0 2 = s.seed.period % 2 ^ 16 ∧ leAt x.payload 2 1 = s.seed.win % 2 ^ 8) ∧
    (∀ bu, Statements.Heard s btBeacon bu → bu.src ≠ deviceId s → exiting s = false →
      (flrState s = fsListen ∨ flrState s = fsRange ∨ flrState s = fsJoin) →
      (otherPeriod s bu = true → Runs (.beacon bu) s fun t => flrState t = fsListen
        ∧ fld t Reg.FLR_STATUS Fld.FLR_STATUS_REASON = frPeriod ∧ t.floor.jsent = none ∧ MemSame s t) ∧
      (otherPeriod s bu = false → flrState s = fsListen → Runs (.beacon bu) s fun t => frameNo t = bu.frame % 2 ^ 64
        ∧ flrState t = (if s.floor.ranged then fsJoin else fsRange) ∧ MemSame s t)) ∧
    (∀ bu, Statements.Heard s btBeacon bu → bu.src ≠ deviceId s → exiting s = false → flrState s = fsJoin →
      otherPeriod s bu = false → beaconMember bu (fidx s) = true → Runs (.beacon bu) s fun t => flrState t = fsMember ∧ joined t = true
        ∧ frameNo t = bu.frame % 2 ^ 64 ∧ pindex t = leAt bu.payload 8 8
        ∧ fld t Reg.FLR_INTSTAT Fld.FLR_INTSTAT_JOINED = 1 ∧ fld t Reg.FRM_STATUS Fld.FRM_STATUS_TICKING = 1
        ∧ fld t Reg.FRM_STATUS Fld.FRM_STATUS_LEADER = 0
        ∧ t.floor.heard = true ∧ t.floor.jsent = none
        ∧ regN t Reg.FLR_BEACONS = min (regN s Reg.FLR_BEACONS + 1) 0xFFFFFFFF ∧ MemSame s t)

/-- R461, R476, R479, R480, R483, R486, R487: what the leader does with the bursts it takes. A JOIN that passes sets the member's
bit; one that does not waits for a beacon to refuse it. A CLAIM of a lower rank is noted; LEAVE, or silence in 8 telemetry
slots, clears the bit. In its slot it sends the beacon. A member's telemetry is kept in the mirror. -/
def Obligations.FloorLeading : Prop :=
  ∀ (s : State), alive s = true →
    (flrState s = fsLeader →
      (∀ bu, Statements.Heard s btJoin bu → joinFault s bu = none → Runs (.join bu) s fun t =>
        isMember t bu.fidx = true ∧ (∀ i, i ≠ bu.fidx → isMember t i = isMember s i)
          ∧ RegsBut s t [Reg.FLR_MEMBERS (bu.fidx / 32), Reg.FLR_STATUS] ∧ MemSame s t) ∧
      (∀ bu r, Statements.Heard s btJoin bu → joinFault s bu = some r → Runs (.join bu) s fun t =>
        t.floor.refusals = s.floor.refusals ++ [(bu.src, r)] ∧ t = { s with floor := t.floor, msix := t.msix, edge := t.edge }) ∧
      (∀ bu, Statements.Heard s btClaim bu → isMember s bu.fidx = true → 0 < Config.claimRank bu.src →
        Config.claimRank bu.src < lrank s → Runs (.claim bu) s fun t =>
          t.floor.claims = s.floor.claims ++ [(Config.claimRank bu.src, bu.fidx)]
            ∧ t = { s with floor := t.floor, msix := t.msix, edge := t.edge }) ∧
      (∀ bu, Statements.Heard s btLeave bu → Runs (.leave bu) s fun t => isMember t bu.fidx = false
        ∧ (∀ i, i ≠ bu.fidx → isMember t i = isMember s i)
        ∧ OnlyRegs s t [Reg.FLR_MEMBERS (bu.fidx / 32), Reg.FLR_STATUS]) ∧
      (∀ i, isMember s i = true → i ≠ fidx s → 8 ≤ kget (fun _ => 0) s.floor.silent i → Runs (.memberLost i) s fun t =>
        isMember t i = false ∧ (∀ k, k ≠ i → isMember t k = isMember s k)
          ∧ fld t Reg.FLR_INTSTAT Fld.FLR_INTSTAT_MEMBERLOST = 1
          ∧ RegsBut s t [Reg.FLR_MEMBERS (i / 32), Reg.FLR_STATUS, Reg.FLR_INTSTAT]) ∧
      (s.floor.claims = [] → Runs (.floorSlot .beacon) s fun t => flrState t = fsLeader
        ∧ (∃ x, t.wire = s.wire ++ [.burst x] ∧ x.kind = btBeacon ∧ x.src = deviceId s ∧ x.fidx = fidx s
            ∧ (beaconMember x (fidx s) = isMember s (fidx s)) ∧ leAt x.payload 8 8 = pindex s)
        ∧ t.floor.holdcnt = (if timeSource s then 0 else min (s.floor.holdcnt + 1) 4096)
        ∧ RegsBut s t [Reg.FLR_JOINREF]) ∧
      (∀ m, bestClaim s.floor.claims = some m → Runs (.floorSlot .beacon) s fun t => flrState t = fsMember
        ∧ fld t Reg.FRM_STATUS Fld.FRM_STATUS_LEADER = 0 ∧ t.floor.claims = []
        ∧ ∃ x, t.wire = s.wire ++ [.burst x] ∧ x.kind = btBeacon ∧ bitN (beaconFlags x) 2 = true
          ∧ leAt x.payload 7 1 = m.2 % 2 ^ 8)) ∧
    (∀ bu, Statements.Heard s btTelem bu → joined s = true → Runs (.telem bu) s fun t =>
      t = { s with host := t.host, floor := t.floor, msix := t.msix, edge := t.edge }
        ∧ t.host = { s.host with mirror := t.host.mirror }
        ∧ (if flrState s = fsLeader then kget (fun _ => 0) t.floor.silent bu.fidx = 0 else t.floor = s.floor)
        ∧ ∃ e, kfind t.host.mirror bu.fidx = some e ∧ leAt e 0 6 = bu.frame % 2 ^ 48 ∧ leAt e 8 3 = bu.src % 2 ^ 24
          ∧ leAt e 6 1 = bu.fidx) ∧
    (s.seed.read = true → isStart s = false → lrank s ≠ 0 → flrState s ≠ fsLeader → flrState s ≠ fsOff →
      quietEnough s = true → Runs .beaconTimeout s fun t => flrState t = fsLeader
        ∧ fld t Reg.FRM_STATUS Fld.FRM_STATUS_LEADER = 1 ∧ joined t = true ∧ isMember t (fidx s) = true
        ∧ fld t Reg.FLR_INTSTAT Fld.FLR_INTSTAT_LEADER = 1 ∧ MemSame s t)

/-- R463, R480, R486 to R489: what a member sends: RANGE in its ranging slot, telemetry in its own slots, its flags, CLAIM to
a Floor that holds over, and LEAVE up to 16 times. A frame without a beacon is counted at its flag slots. At 4 096 frames of
hold-over it leaves the Floor. -/
def Statements.FloorMember : Prop :=
  ∀ (s : State), alive s = true →
    (joined s = true → frameNo s % 2 = 0 → frameNo s / 2 % 256 = fidx s → Runs (.floorSlot .ranging) s fun t =>
      t.floor.echo = true
        ∧ t = { s with floor := t.floor, wire := s.wire ++ [.burst (mkBurst s btRange [])], msix := t.msix, edge := t.edge }) ∧
    (∀ k, joined s = true → k < fld s Reg.FLR_NTEL Fld.FLR_NTEL_NTEL → telemOwner s k = fidx s →
      Runs (.floorSlot (.telemetry k)) s fun t => t.regs = s.regs
        ∧ t.wire = s.wire ++ [.burst (mkBurst s btTelem ((Config.telemetry s.free).take 448))]) ∧
    (∀ k, joined s = true → k < fld s Reg.FLR_NTEL Fld.FLR_NTEL_NTEL → telemOwner s k ≠ fidx s → flrState s = fsLeader →
      isMember s (telemOwner s k) = true → Runs (.floorSlot (.telemetry k)) s fun t => t.floor.due = some (telemOwner s k)
        ∧ t = { s with floor := t.floor, msix := t.msix, edge := t.edge }) ∧
    (∀ slot i, s.floor.due = some i → Runs (.floorSlot slot) s fun t =>
      kget (fun _ => 0) t.floor.silent i = kget (fun _ => 0) s.floor.silent i + 1) ∧
    (joined s = true → s.floor.leaving = none → s.floor.heard = false → s.floor.judged = false → s.seed.read = true →
      Runs (.floorSlot .flags) s fun t => t.wire = s.wire ++ (flashes s).map Wire.flash
        ∧ regN t Reg.FLR_BEACONMISS = min (regN s Reg.FLR_BEACONMISS + 1) 0xFFFFFFFF
        ∧ fld t Reg.FRM_STATUS Fld.FRM_STATUS_HOLDOVER = 1 ∧ t.floor.run = min (s.floor.run + 1) 4096) ∧
    (joined s = true → s.floor.leaving = none → s.floor.heard = true → Runs (.floorSlot .flags) s fun t =>
      t = { s with wire := s.wire ++ (flashes s).map Wire.flash, floor := t.floor, msix := t.msix, edge := t.edge }) ∧
    (joined s = true → flrState s = fsMember → 0 < lrank s → lrank s < s.floor.brank → timeSource s = true →
      s.floor.bhold = true → s.floor.takes = false → s.floor.cslot ≤ frameNo s → Runs .claimAttempt s fun t =>
        t.wire = s.wire ++ [.burst (mkBurst s btClaim [])] ∧ t.floor.ctries = s.floor.ctries + 1
          ∧ frameNo s < t.floor.cslot ∧ t.regs = s.regs) ∧
    (∀ r, s.floor.leaving = some r → s.floor.lslot ≤ frameNo s → Runs .leaveAttempt s fun t =>
      t.wire = s.wire ++ [.burst (mkBurst s btLeave (leBytes 1 r))] ∧ t.floor.ltries = s.floor.ltries + 1
        ∧ t.floor.leaving = (if s.floor.ltries < 15 then some r else none) ∧ t.regs = s.regs) ∧
    (4096 ≤ fld s Reg.FLR_HOLD Fld.FLR_HOLD_FRAMES → joined s = true → Runs .floorExit s fun t => joined t = false
      ∧ flrState t = fsListen ∧ t.floor.leaving = some 1 ∧ t.floor.ranged = false ∧ t.host.mirror = []
      ∧ fld t Reg.FRM_INTSTAT Fld.FRM_INTSTAT_EXIT = 1 ∧ fld t Reg.FRM_STATUS Fld.FRM_STATUS_HOLDOVER = 0 ∧ MemSame s t)

/-- Joining the Floor, and what a member hears. -/
def Obligations.FloorMembers : Prop := Statements.FloorJoining ∧ Statements.FloorMember

/-- R471 to R474: what the flag block of the Floor tells. A BLIGHT flag of the parity of an open step is heard by that step; a
REL flag releases its barrier on a member that is no gateway; light in a slip flag slot sets the slip flag of the frame, and
no light changes nothing; a member that the slip concerns flashes there itself. -/
def Statements.FloorFlags : Prop :=
  ∀ (s : State), alive s = true →
    (∀ x seen, s.step.opened = [x] → bitN seen (x.no % 2) = true → x.bad = false → knows s (fkBlight, x.start) = false →
      Runs (.floorFlagBlock seen) s fun t => t.step.opened = [{ x with heard := true }]
        ∧ knows t (fkBlight, x.start) = true ∧ MemSame s t) ∧
    (∀ b, s.step.opened = [] → b < 8 → isGateway s = false → pbarOn s b = true →
      Runs (.floorFlagBlock (2 ^ (b + 10))) s fun t => pbarGen t b = pbarGen s b + 1
        ∧ t.net = s.net ++ [⟨0, pbar s b Fld.FAB_PBAR_SEM, 1⟩] ∧ t.regs = s.regs ∧ MemSame s t) ∧
    (∀ j, j + 7 < s.frm.win →
      (s.frm.slipFlag = false → Runs (.slipFlagSlot j true) s fun t => t.frm.slipFlag = true
        ∧ knows t (fkSlip, pindex s) = true ∧ t.regs = s.regs ∧ MemSame s t) ∧
      (∀ light, (light = false ∨ s.frm.slipFlag = true) → Runs (.slipFlagSlot j light) s fun t =>
        t = { s with wire := t.wire, msix := t.msix, edge := t.edge }) ∧
      (∀ light, Runs (.slipFlagSlot j light) s fun t =>
        t.wire = if slipFlashes s then s.wire ++ [.slipFlash j] else s.wire))

/-- Flags learnt over links and over the Floor. -/
def Obligations.FlagsSeen : Prop := Statements.FlagsLearnt ∧ Statements.FloorFlags

/-! ## Scrubbing, repairs and the announced exit (R316, R317, R495, R500 to R506) -/

/-- No note of the error history asks for a repair of the Granary or of a bough. -/
def Statements.NoRepairDue (s : State) : Prop := (∀ n ∈ s.ecc.hist, n.cls = 1) ∧ s.ecc.hour = []

/-- R495, R500, R502 to R504: the scrubbers. A Gleaner that finds its codeword clean goes on to the next; one that it can
correct is counted and written back. A Rake goes on to its next bank row. A slow lap is recorded and shown once. Each hour a
stack with more than UP corrected errors halves its pass time. A corrected word of the Crib or the Loft goes back. A flip mask
is armed, replaced or cancelled by a write of its register. -/
def Statements.Scrubbing : Prop :=
  ∀ (s : State), alive s = true →
    (∀ ch, ch < 256 → scrubs s = true → kget (fun _ => 0) s.integ.gpos ch + 1 < channelWords →
      (kfind s.ecc.cw (cwKey 2 (channelAddr ch (kget (fun _ => 0) s.integ.gpos ch))) = none →
        Runs (.gleanerRead ch) s fun t => kget (fun _ => 0) t.integ.gpos ch = kget (fun _ => 0) s.integ.gpos ch + 1
          ∧ t = { s with integ := t.integ, msix := t.msix, edge := t.edge }) ∧
      (∀ e, kfind s.ecc.cw (cwKey 2 (channelAddr ch (kget (fun _ => 0) s.integ.gpos ch))) = some e →
        foundOf s (cwKey 2 (channelAddr ch (kget (fun _ => 0) s.integ.gpos ch))) e = .corrected →
        initMode1 s = false → s.ecc.hist = [] → s.ecc.hour = [] → Runs (.gleanerRead ch) s fun t =>
          kfind t.ecc.cw (cwKey 2 (channelAddr ch (kget (fun _ => 0) s.integ.gpos ch))) = none
            ∧ regN t Reg.INT_CORRGRN = min (regN s Reg.INT_CORRGRN + 1) 0xFFFFFFFF ∧ t.mem = s.mem)) ∧
    (∀ k, k < 64 → scrubs s = true → (rowQuarters s k (kget (fun _ => 0) s.integ.rpos k) = [] ∨ Statements.Clean s) →
      kget (fun _ => 0) s.integ.rpos k + 1 < bankRows → Runs (.rakeRead k) s fun t =>
        kget (fun _ => 0) t.integ.rpos k = kget (fun _ => 0) s.integ.rpos k + 1
          ∧ t = { s with integ := t.integ, msix := t.msix, edge := t.edge }) ∧
    (∀ k, k < 64 → scrubs s = true → regN s Reg.LFT_RAKEMAX ≠ 0 → s.integ.slow.contains k = false →
      Runs (.rakeSlow k) s fun t => t.integ.slow = k :: s.integ.slow
        ∧ fld t Reg.INT_INTSTAT Fld.INT_INTSTAT_RAKESLOW = 1
        ∧ reg64 t Reg.INT_LOGCOUNT_LO = (reg64 s Reg.INT_LOGCOUNT_LO + 1) % 2 ^ 64 ∧ MemSame s t) ∧
    (∀ st, st < 8 → scrubs s = true → fld s Reg.GRN_GLADAPT Fld.GRN_GLADAPT_UP < kget (fun _ => 0) s.ecc.hour st →
      Runs .gleanerAdapt s fun t => fld t (Reg.GRN_GLNOW st) Fld.GRN_GLNOW_HOURS
          = max 1 (fld s (Reg.GRN_GLNOW st) Fld.GRN_GLNOW_HOURS / 2)
        ∧ t.ecc.hour = [] ∧ t.mem = s.mem) ∧
    (∀ k e, kfind s.ecc.cw k = some e → e.wb = true → k % 4 < 2 → Runs (.correctedWriteback k) s fun t =>
      kfind t.ecc.cw k = none ∧ (∀ j, j ≠ k → kfind t.ecc.cw j = kfind s.ecc.cw j)
        ∧ t = { s with ecc := { s.ecc with cw := t.ecc.cw }, msix := t.msix, edge := t.edge }) ∧
    (∀ u (data : Word), (bitN data.toNat 31 = true → Runs (.flipArm u data) s fun t => OnlyRegs s t [flipReg u]
        ∧ regN t (flipReg u) = data.toNat &&& flipMask u) ∧
      (bitN data.toNat 31 = false → Runs (.flipCancel u data) s fun t => OnlyRegs s t [flipReg u]
        ∧ regN t (flipReg u) = data.toNat &&& flipMask u))

/-- R316, R317, R505, R506: repairs. A row whose copy ends is in its spare row and counted. A Loft bank that meets its
rule takes a spare bank of its layer at a frame boundary, and has it when the copy ends. A layer of a slice that meets its rule
begins to be mapped out; without lines in ways 0 to 3 and without a round it then loses them, and the pool shrinks by 6 144
lines. A second layer of one slice is a service condition. The announced exit leaves the Floor once no step is open. -/
def Statements.Repairs : Prop :=
  ∀ (s : State), alive s = true →
    (∀ ch row, s.integ.rows.contains (ch, row) = true → s.ecc.hist = [] → s.ecc.hour = [] →
      Runs (.rowRepairDone ch row) s fun t => t.integ.rows = s.integ.rows.erase (ch, row)
        ∧ t.integ.rowsDone = s.integ.rowsDone ++ [(ch, row)]
        ∧ regN t Reg.GRN_ROWREP = min (regN s Reg.GRN_ROWREP + 1) 0xFFFFFFFF
        ∧ regN t Reg.INT_REPAIRS = min (regN s Reg.INT_REPAIRS + 1) 0xFFFFFFFF
        ∧ fld t Reg.INT_INTSTAT Fld.INT_INTSTAT_REPAIR = 1 ∧ t.mem = s.mem) ∧
    (∀ layer bank, Statements.NoRepairDue s → atBoundary s = true → layer < 4 → bank < 64 → sliceBusy s bank = false →
      sparesUsed s layer < 4 → bankDue s layer bank = true → Runs (.bankSpareStart layer bank) s fun t =>
        sparesUsed t layer = sparesUsed s layer + 1 ∧ (∀ l, l < 4 → l ≠ layer → sparesUsed t l = sparesUsed s l)
          ∧ t.loft.banks = s.loft.banks ++ [(layer, bank)] ∧ RegsBut s t [Reg.INT_SPARES] ∧ MemSame s t) ∧
    (∀ layer bank, Statements.NoRepairDue s → s.loft.banks.contains (layer, bank) = true →
      (Statements.Settles (.bankCopyDone layer bank) s fun w => w.loft.banks = s.loft.banks.erase (layer, bank)
        ∧ w.integ.banksDone = s.integ.banksDone ++ [(layer, bank)]
        ∧ regN w Reg.INT_REPAIRS = min (regN s Reg.INT_REPAIRS + 1) 0xFFFFFFFF
        ∧ fld w Reg.INT_INTSTAT Fld.INT_INTSTAT_REPAIR = 1 ∧ w.mem = s.mem) ∧
      (s.loft.banks = [(layer, bank)] → Statements.Calm { s with loft := { s.loft with banks := [] } } →
        Runs (.bankCopyDone layer bank) s fun t => t.loft.banks = [] ∧ t.mem = s.mem
          ∧ t.integ.banksDone = s.integ.banksDone ++ [(layer, bank)]
          ∧ regN t Reg.INT_REPAIRS = min (regN s Reg.INT_REPAIRS + 1) 0xFFFFFFFF)) ∧
    (∀ k layer, Statements.NoRepairDue s → k < 64 → layer < 4 → atBoundary s = true → kfind s.loft.mapping k = none →
      mapoutDue s k layer = true →
      (sliceMapped s k = false → Statements.Calm s → lowLines s k = [] → Runs (.mapoutStart k layer) s fun t =>
        kfind t.loft.mapping k = some layer ∧ t.regs = s.regs ∧ MemSame s t) ∧
      (sliceMapped s k = false → Statements.Settles (.mapoutStart k layer) s fun w =>
        kfind w.loft.mapping k = some layer ∧ w.mem = s.mem ∧ (lowLines s k = [] → w.regs = s.regs ∧ w.ecc = s.ecc)) ∧
      (sliceMapped s k = true → Statements.Settles (.mapoutStart k layer) s fun w =>
        fld w Reg.INT_STATUS Fld.INT_STATUS_SERVICE = 1 ∧ fld w Reg.INT_INTSTAT Fld.INT_INTSTAT_SERVICE = 1
          ∧ w.integ.exitDue = (s.integ.exitDue || autoExit s) ∧ w.loft = s.loft ∧ w.mem = s.mem)) ∧
    (∀ k layer, k < 64 → layer < 4 → kfind s.loft.mapping k = some layer → roundsClosed s k = true →
      lowFills s k = false → ((lowLines s k).any fun x => x.2.obj.isSome) = false →
      (Statements.Calm s → Statements.Clean s → Runs (.mapoutDone k) s fun t => kfind t.loft.mapping k = none
        ∧ sliceMapped t k = true ∧ lowLines t k = [] ∧ fld t (Reg.LFT_SLSTAT k) Fld.LFT_SLSTAT_LAYER = layer) ∧
      Statements.Settles (.mapoutDone k) s fun w => kfind w.loft.mapping k = none ∧ sliceMapped w k = true
        ∧ fld w (Reg.LFT_SLSTAT k) Fld.LFT_SLSTAT_LAYER = layer
        ∧ fld w Reg.LFT_POOL Fld.LFT_POOL_LINES = fld s Reg.LFT_POOL Fld.LFT_POOL_LINES - 6144
        ∧ fld w Reg.LFT_POOLFREE Fld.LFT_POOLFREE_LINES = fld s Reg.LFT_POOLFREE Fld.LFT_POOLFREE_LINES - 6144
        ∧ fld w Reg.LFT_INTSTAT Fld.LFT_INTSTAT_MAPOUT = 1 ∧ (lowLines s k = [] → Statements.Clean s → w.mem = s.mem)) ∧
    (s.integ.exitDue = true → stepOpen s = false → s.mill.res = none → Runs .announcedExit s fun t =>
      fld t Reg.INT_STATUS Fld.INT_STATUS_EXITING = 1 ∧ joined t = false ∧ flrState t = fsOff
        ∧ t.floor.leaving = some 0 ∧ t.integ.exitDue = false ∧ MemSame s t)

/-- Scrubbing, and repairs. -/
def Obligations.IntegrityUpkeep : Prop := Statements.Scrubbing ∧ Statements.Repairs

/-! ## Steps, the Mill, the Wain and the stash (R134, R329 to R404) -/

/-- The Mill stands at a good descriptor, u being the state after it was read (R381, R382). -/
def Statements.MillAt (s u : State) (d : MDesc) : Prop :=
  alive s = true ∧ s.loft.rounds = [] ∧ s.mill.walking = true ∧ fld s Reg.MIL_STATUS Fld.MIL_STATUS_BUSY = 0
    ∧ s.mill.work = none ∧ s.mill.res = none ∧ s.mill.past = false
    ∧ rangeOk s (reg64 s Reg.MIL_LIST_LO + 32 * fld s Reg.MIL_ITEM Fld.MIL_ITEM_INDEX) 32 = true
    ∧ (∃ bs, load s (reg64 s Reg.MIL_LIST_LO + 32 * fld s Reg.MIL_ITEM Fld.MIL_ITEM_INDEX) 32 = (u, .ok bs)
        ∧ d = mdescOf bs)
    ∧ d.rsv = false

/-- Its gate is met. -/
def Statements.MillGate (u : State) (d : MDesc) : Prop := d.gateval ≤ sextN 64 (counter u d.gatecnt)

/-- R381 to R383: the Mill list. A descriptor whose gate is not met waits with GATED set. END stops the walk. COMMIT is noted
with the step and the Mill is busy until it resolves. UPDATE names its records in the step; of FROZEN ones it skips and counts
them and writes nothing; of records without a matrix rule and with their state here it takes up the blocks, and when none of
them is touched it is over at once. With a record named before, or one that is not there, the Mill stops (R382). -/
def Statements.MillList : Prop :=
  ∀ (s u : State) (d : MDesc), Statements.MillAt s u d →
    (∀ c ∈ [(Instr.millEnd, 0), (.update, 1), (.commit, 2)], d.op = c.2 → ¬ Statements.MillGate u d →
      Runs c.1 s fun t => fld t Reg.MIL_STATUS Fld.MIL_STATUS_GATED = 1 ∧ t.mill = u.mill ∧ t.step = u.step
        ∧ RegsBut u t [Reg.MIL_STATUS] ∧ MemSame u t) ∧
    (d.op = 0 → Statements.MillGate u d → Runs .millEnd s fun t => t.mill = { u.mill with walking := false }
      ∧ fld t Reg.MIL_STATUS Fld.MIL_STATUS_GATED = 0 ∧ RegsBut u t [Reg.MIL_STATUS] ∧ MemSame u t) ∧
    (∀ x l, d.op = 2 → Statements.MillGate u d → u.step.opened = x :: l → Runs .commit s fun t =>
      t.step.opened = { x with commit := some (d.outcnt, d.sig) } :: l
        ∧ fld t Reg.MIL_STATUS Fld.MIL_STATUS_BUSY = 1
        ∧ fld t Reg.MIL_ITEM Fld.MIL_ITEM_INDEX = (fld u Reg.MIL_ITEM Fld.MIL_ITEM_INDEX + 1) % 4096
        ∧ RegsBut u t [Reg.MIL_STATUS, Reg.MIL_ITEM] ∧ MemSame u t) ∧
    (∀ x l, d.op = 1 → Statements.MillGate u d → u.step.opened = x :: l →
      (pcount u < d.first + d.count ∨ ∃ j ∈ x.named, d.first ≤ j ∧ j < d.first + d.count) → Runs .update s fun t =>
        t.mill.walking = false ∧ fld t Reg.MIL_INTSTAT Fld.MIL_INTSTAT_ERR = 1 ∧ MemSame u t) ∧
    (∀ x l, d.op = 1 → Statements.MillGate u d → Statements.Clean u → u.step.opened = x :: l →
      d.first + d.count ≤ pcount u → (∀ j ∈ x.named, ¬ (d.first ≤ j ∧ j < d.first + d.count)) →
      fld u Reg.MIL_ITEM Fld.MIL_ITEM_INDEX < 4095 →
      let blocks := ((List.range d.count).map (· + d.first)).flatMap (blocksFor u)
      ((∀ j, d.first ≤ j → j < d.first + d.count → (precAt u j).frozen = true) → Runs .update s fun t =>
        regN t Reg.MIL_FROZSKIP = min (regN u Reg.MIL_FROZSKIP + d.count) 0xFFFFFFFF ∧ t.mill.work = none
          ∧ t.step.opened = { x with named := x.named ++ (List.range d.count).map (· + d.first) } :: l
          ∧ fld t Reg.MIL_STATUS Fld.MIL_STATUS_BUSY = 0 ∧ t.net = (sendField u d.sig).net
          ∧ RegsBut u t [Reg.MIL_FROZSKIP, Reg.MIL_STATUS, Reg.MIL_ITEM] ∧ MemSame u t) ∧
      ((∀ j, d.first ≤ j → j < d.first + d.count → (precAt u j).frozen = false ∧ (precAt u j).hold = false
          ∧ (precAt u j).mclass = 0 ∧ (precAt u j).remote u = false) → Runs .update s fun t =>
        t.step.opened = { x with named := x.named ++ (List.range d.count).map (· + d.first) } :: l ∧ MemSame u t
          ∧ (if millDry u = false ∧ blocks.any (blockDue u) = true
              then t.mill.work = some { sig := d.sig, mats := [], todo := blocks }
                ∧ fld t Reg.MIL_STATUS Fld.MIL_STATUS_BUSY = 1 ∧ t.net = u.net
              else t.mill.work = none ∧ fld t Reg.MIL_STATUS Fld.MIL_STATUS_BUSY = 0
                ∧ t.net = (sendField u d.sig).net)))

/-- R374, R375, R380, R386, R389: the work of an UPDATE. A block without TOUCH has nothing to do; one whose inputs are here is
run, counted when its results are stored, and the work goes on; the state that a peer sent is kept for its block. When the
matrix job of a record has ended, its POST begins, with the hand-off in place of the result where the job reports the
identity, which is counted; a job that reports a fault has its blocks dropped. -/
def Statements.MillBlocks : Prop :=
  (∀ (s : State) (j k : Nat) (w : MillWork) (b : MBlock), alive s = true → s.loft.rounds = [] → s.mill.work = some w →
    workDry s w = false → (w.todo.find? fun x => x.rec_ = j && x.blk = k) = some b →
    (blockDue s b = false → (∀ x ∈ w.todo, (precAt s x.rec_).remote s = false) → w.mats = [] →
      (w.todo.erase b).any (blockDue s) = true → Runs (.millBlockDone j k) s fun t =>
        t.mill.work = some { w with todo := w.todo.erase b } ∧ t.regs = s.regs ∧ MemSame s t) ∧
    (blockDue s b = true → blockReady s b = true →
      (∃ t u, exec (.millBlockDone j k) s = .next t ∧ u = millRun (runMBlock s w b) ∧
        (u.loft.stall = s.loft.stall → t = { u with pending := s.pending, msix := t.msix, edge := t.edge })) ∧
      (Statements.Clean s → b.post = false → w.hold = false → (precAt s j).mclass = 0 → (precAt s j).remote s = false →
        Runs (.millBlockDone j k) s fun t =>
          regN t Reg.MIL_BLOCKS = min (regN s Reg.MIL_BLOCKS + 1) 0xFFFFFFFF))) ∧
  (∀ (s : State) (j k : Nat) (bs : List Byte), alive s = true → s.loft.rounds = [] →
    (∀ x, s.mill.work = none → s.mill.res = some x → (∃ y ∈ x.regen, y.1 = j ∧ k ∈ y.2) →
      Runs (.millStateArrive j k bs) s fun t => t.mill.res = some { x with arrived := x.arrived ++ [(j, k, bs)] }
        ∧ t = { s with mill := t.mill, msix := t.msix, edge := t.edge }) ∧
    (∀ w b, s.mill.work = some w → b ∈ w.todo → b.rec_ = j → b.blk = k → b.grad.isSome = true → b.state = none →
      (w.todo.find? fun x => x.rec_ = j && x.blk = k && x.grad.isSome && x.state.isNone) = some b →
      ∃ t u, exec (.millStateArrive j k bs) s = .next t
        ∧ u = millBlock { s with mill := { s.mill with work := some { w with
            todo := w.todo.map fun x => if x = b then { b with state := some bs } else x } } } j k
        ∧ (u.loft.stall = s.loft.stall → t = { u with pending := s.pending, msix := t.msix, edge := t.edge }))) ∧
  (∀ (s : State) (j : Nat) (l : List Nat) (w : MillWork), alive s = true → s.loft.rounds = [] → Statements.Clean s →
    s.mill.work = some w → w.mats = j :: l → w.stage = 1 → w.todo = [] → workDry s w = false → w.hold = false →
    1 ≤ sextN 64 (counter s (mjobAt s (precAt s j).mjob).donecnt) →
    (∃ b ∈ w.kept, b.rec_ = j) → (∀ b ∈ w.kept, b.post = true) →
    let stat := peekN s (mjobAt s (precAt s j).mjob).hstat 4
    (stat < 2 → Runs (.matrixJobDone j) s fun t => MemSame s t
      ∧ (stat = 1 → regN t Reg.MIL_IDSUB = min (regN s Reg.MIL_IDSUB + 1) 0xFFFFFFFF
          ∧ fld t Reg.MIL_INTSTAT Fld.MIL_INTSTAT_IDSUB = 1)
      ∧ ∃ v, t.mill.work = some v ∧ (v.hin = true ↔ stat = 1) ∧ v.stage = 2
        ∧ v.todo = w.kept.filter fun b => b.rec_ = j) ∧
    (2 ≤ stat → Runs (.matrixJobDone j) s fun t =>
      fld t Reg.MIL_INTSTAT Fld.MIL_INTSTAT_FAULT = 1 ∧ regN t Reg.MIL_FAULT = min (regN s Reg.MIL_FAULT + 1) 0xFFFFFFFF
        ∧ MemSame s t))

/-- The Mill's update list, and its blocks. -/
def Obligations.MillUpdates : Prop := Statements.MillList ∧ Statements.MillBlocks

/-- R392, R394, R395, R397 to R400: the commit gate. A run-time counter that is not zero at the end of step frame CFRAME
raises Blight with the source RUNTIME. The earliest open step resolves at its gate: without Blight the epoch gains one and
OUTCNT shows 1, with Blight the step is discarded and OUTCNT shows 2; MIL_LASTB tells which. A regeneration waits for its
fence, and a long wait is shown once; when its last block is done the commit is counted. -/
def Statements.StepGate : Prop :=
  ∀ (s : State), alive s = true →
    (∀ x, s.step.opened = [x] → pindex s = x.start + cframe s → fld s Reg.MIL_GATE Fld.MIL_GATE_RTEN = 1 →
      counter s (fld s Reg.MIL_GATE Fld.MIL_GATE_RTCNT) ≠ 0 → Runs .runtimeCounterTest s fun t =>
        t.step.opened = [{ x with blight := x.blight ||| 1 }] ∧ regN t Reg.MIL_BSTAT = (x.blight ||| 1) % 256
          ∧ t.step.reports.length = s.step.reports.length + 1 ∧ MemSame s t) ∧
    (fld s Reg.MIL_GATE Fld.MIL_GATE_RTEN = 0 ∨ counter s (fld s Reg.MIL_GATE Fld.MIL_GATE_RTCNT) = 0 → Runs .runtimeCounterTest s fun t => t = { s with msix := t.msix, edge := t.edge }) ∧
    (∀ x l, s.loft.rounds = [] → s.step.opened = x :: l → x.start + cframe s + horizon s + 1 ≤ pindex s →
      s.mill.res = none → Runs .stepResolve s fun t =>
        (x.bad = false → reg64 t Reg.MIL_EPOCH_LO = (reg64 s Reg.MIL_EPOCH_LO + 1) % 2 ^ 64) ∧
        (x.bad = true → reg64 t Reg.MIL_EPOCH_LO = reg64 s Reg.MIL_EPOCH_LO
          ∧ regN t Reg.MIL_DISCARDS = min (regN s Reg.MIL_DISCARDS + 1) 0xFFFFFFFF)) ∧
    (∀ x cnt sig, s.loft.rounds = [] → s.step.opened = [x] → x.start + cframe s + horizon s + 1 ≤ pindex s → s.mill.res = none →
      s.mill.past = false → x.named = [] → x.commit = some (cnt, sig) → cnt < 1024 →
      (x.bad = false → Runs .stepResolve s fun t => t.step.opened = [] ∧ t.mill.res = none
        ∧ reg64 t Reg.MIL_EPOCH_LO = (reg64 s Reg.MIL_EPOCH_LO + 1) % 2 ^ 64 ∧ counter t cnt = 1
        ∧ regN t Reg.MIL_COMMITS = min (regN s Reg.MIL_COMMITS + 1) 0xFFFFFFFF
        ∧ fld t Reg.MIL_INTSTAT Fld.MIL_INTSTAT_COMMIT = 1 ∧ Fld.MIL_LASTB_VALID.get (reg t Reg.MIL_LASTB) = 1
        ∧ Fld.MIL_LASTB_DISCARD.get (reg t Reg.MIL_LASTB) = 0 ∧ t.net = (sendField s sig).net ∧ MemSame s t) ∧
      (x.bad = true → Runs .stepResolve s fun t => t.step.opened = [] ∧ t.mill.res = none
        ∧ reg64 t Reg.MIL_EPOCH_LO = reg64 s Reg.MIL_EPOCH_LO ∧ counter t cnt = 2
        ∧ regN t Reg.MIL_DISCARDS = min (regN s Reg.MIL_DISCARDS + 1) 0xFFFFFFFF
        ∧ fld t Reg.MIL_INTSTAT Fld.MIL_INTSTAT_DISCARD = 1 ∧ Fld.MIL_LASTB_VALID.get (reg t Reg.MIL_LASTB) = 1
        ∧ Fld.MIL_LASTB_DISCARD.get (reg t Reg.MIL_LASTB) = 1 ∧ t.net = (sendField s sig).net ∧ MemSame s t)) ∧
    (∀ x j k, s.loft.rounds = [] → s.mill.work = none → s.mill.res = some x → x.regen = [(j, [k])] →
      (regenReady s x (j, [k]) = true → x.commit = none → Runs .wcRegeneration s fun t =>
        t.mem = (regenBlock x j s k).mem ∧ t.mill.res = none ∧ fld t Reg.MIL_STATUS Fld.MIL_STATUS_REGEN = 0
          ∧ regN t Reg.MIL_COMMITS = min (regN (regenBlock x j s k) Reg.MIL_COMMITS + 1) 0xFFFFFFFF) ∧
      (fenceOf s x.epoch j ≠ 0 → Runs .wcRegeneration s fun t => t.mill.res = some x
        ∧ fld t Reg.MIL_STATUS Fld.MIL_STATUS_FENCEWAIT = 1 ∧ RegsBut s t [Reg.MIL_STATUS] ∧ MemSame s t) ∧
      (fenceOf s x.epoch j ≠ 0 → x.stalled = false → 0 < fld s Reg.MIL_CTRL Fld.MIL_CTRL_FSTALL →
        fld s Reg.MIL_CTRL Fld.MIL_CTRL_FSTALL ≤ x.frames → Runs .fenceStall s fun t =>
          t.mill.res = some { x with stalled := true } ∧ fld t Reg.MIL_INTSTAT Fld.MIL_INTSTAT_FENCESTALL = 1
            ∧ RegsBut s t [Reg.MIL_INTSTAT] ∧ MemSame s t))

/-- R134, R332, R338, R362: SETSTEP copies its slot into BGH_STEP and the walk goes on; on presented bough 0 relative frame 0
begins with it, the Wain's list and the stash start again, and in a training job a step opens; while two steps are open it
waits. A spill that ends leaves its entry SPILLED, a restore leaves it HOME, each after its lines have been copied or, with a
peer, sent and brought. -/
def Statements.StepsAndStash : Prop :=
  (∀ (s u : State) (n b : Nat) (i : Item) (body : List Byte), alive s = true → walkTo s n = .item u b i body → i.kind = 15 →
    (i.fence = true → allRetired u b = true) → slotBusy u b (bitsN i.w1 4 0) = false → itemIdx u b ≠ 65535 →
    (n = 0 → training u = true → 2 ≤ u.step.opened.length → Runs (.setstep n) s fun t =>
      itemIdx t b = itemIdx u b ∧ t.step = u.step ∧ t.regs = u.regs ∧ MemSame u t) ∧
    (n ≠ 0 → Runs (.setstep n) s fun t => reg64 t (Reg.BGH_STEP_LO b) = slot u b (bitsN i.w1 4 0)
      ∧ itemIdx t b = itemIdx u b + 1
      ∧ OnlyRegs u t [Reg.BGH_STEP_LO b, Reg.BGH_STEP_LO b + 4, Reg.BGH_ITEM b]) ∧
    (n = 0 → (training u = false ∨ u.step.opened.length < 2) → Runs (.setstep n) s fun t =>
      reg64 t (Reg.BGH_STEP_LO b) = slot u b (bitsN i.w1 4 0)
        ∧ (stCount u ≠ 0 → Statements.Clean u → regN t Reg.LFT_STFRAME = 0)
        ∧ (stCount u = 0 → itemIdx t b = itemIdx u b + 1 ∧ t.step.rel = some 0 ∧ t.wain.walking = true
          ∧ regN t Reg.WAN_ITEM = 0 ∧ MemSame u t
          ∧ t.step.opened = if training u then u.step.opened ++ [{
              start := pindex u, blight := u.step.next,
              no := u.step.count, num := slot u b (bitsN i.w1 4 0), heard := u.step.early.contains (pindex u) }]
            else u.step.opened))) ∧
  (∀ (s : State) (e : Nat) (y : SpillRun), alive s = true → s.loft.rounds = [] → Statements.Clean s → e < stCount s →
    (stAt s e).state = esSpilling → stowed s (stAt s e) = true → (s.stash.runs.find? fun y => y.entry = e) = some y →
    (y.peer = false → Runs (.stashSpillDone e) s fun t =>
      let w := (List.range (stAt s e).lines).foldl (copyLines (stAt s e).home (gOffset (stAt s e).spillat)) s
      t.mem = memPut w.mem (stAddr s e + 18) [3#8]) ∧
    (y.peer = true → Runs (.stashSpillDone e) s fun t => t.mem = memPut s.mem (stAddr s e + 18) [3#8]
      ∧ kfind t.stash.peer e = some (((List.range (stAt s e).lines).map fun i =>
        peek s ((stAt s e).home + 4096 * i) 4096).flatten))) ∧
  (∀ (s : State) (e : Nat), alive s = true → s.loft.rounds = [] → Statements.Clean s → e < stCount s →
    (stAt s e).state = esRestoring →
    (kfind s.stash.peer e = none → Runs (.stashRestoreDone e) s fun t =>
      let w := (List.range (stAt s e).lines).foldl (copyLines (gOffset (stAt s e).spillat) (stAt s e).home) s
      t.mem = memPut w.mem (stAddr s e + 18) [1#8]
        ∧ regN t Reg.LFT_STRESTORE = min (regN w Reg.LFT_STRESTORE + (stAt s e).lines) 0xFFFFFFFF) ∧
    (∀ bs, kfind s.stash.peer e = some bs → pcount s = 0 → Runs (.stashRestoreDone e) s fun t =>
      t.mem = memPut (memPut s.mem (stAt s e).home bs) (stAddr s e + 18) [1#8] ∧ kfind t.stash.peer e = none
        ∧ regN t Reg.LFT_STRESTORE = min (regN s Reg.LFT_STRESTORE + (stAt s e).lines) 0xFFFFFFFF))

/-- The gate of a step, steps and the stash. -/
def Obligations.StepsAndGate : Prop := Statements.StepGate ∧ Statements.StepsAndStash

/-- The Wain stands at a good descriptor, u being the state after it was read (R348, R349). -/
def Statements.WainAt (s u : State) (d : WDesc) : Prop :=
  alive s = true ∧ s.loft.rounds = [] ∧ s.wain.walking = true ∧ fld s Reg.WAN_STATUS Fld.WAN_STATUS_BUSY = 0 ∧ s.wain.past = false
    ∧ rangeOk s (reg64 s Reg.WAN_PBASE_LO + 64 * fld s Reg.WAN_ITEM Fld.WAN_ITEM_INDEX) 64 = true
    ∧ (∃ bs, load s (reg64 s Reg.WAN_PBASE_LO + 64 * fld s Reg.WAN_ITEM Fld.WAN_ITEM_INDEX) 64 = (u, .ok bs)
        ∧ d = wdescOf bs)
    ∧ d.rsv = false

/-- R346 to R354: the Wain list. A descriptor whose gate is not met waits with GATED set; END stops the walk; DISPATCH, RETURN,
COMBINE and REDISPATCH with a good placement table and no cart of theirs in use have their effect, and complete with their
carts; with a bad table the Wain stops and raises ERR. -/
def Statements.WainList : Prop :=
  ∀ (s u : State) (d : WDesc), Statements.WainAt s u d →
    (∀ c ∈ [(Instr.wainEnd, 0), (.dispatch, 1), (.returnRows, 2), (.combine, 3), (.redispatch, 4)], d.op = c.2 →
      sextN 64 (counter u d.gatecnt) < d.gateval → Runs c.1 s fun t =>
        fld t Reg.WAN_STATUS Fld.WAN_STATUS_GATED = 1 ∧ t.wain = u.wain ∧ RegsBut u t [Reg.WAN_STATUS] ∧ MemSame u t) ∧
    (d.gateval ≤ sextN 64 (counter u d.gatecnt) →
      (d.op = 0 → Runs .wainEnd s fun t => t.wain = { u.wain with walking := false }
        ∧ fld t Reg.WAN_STATUS Fld.WAN_STATUS_GATED = 0 ∧ RegsBut u t [Reg.WAN_STATUS] ∧ MemSame u t) ∧
      (∀ v p, loadPlace (setWanFld u Fld.WAN_STATUS_GATED 0) d.ptab = (v, .ok (some p)) →
        (∀ m, m < p.nmem → cart v (d.cartid + m) = none) →
        ∀ c ∈ [(Instr.dispatch, 1, dispatchOf v d p), (.returnRows, 2, returnOf v d p), (.combine, 3, combineOf v d p),
            (.redispatch, 4, redispatchOf v d p)], d.op = c.2.1 →
          (∃ t, exec c.1 s = .next t
            ∧ (c.2.2.loft.stall = s.loft.stall →
                t = { wainSettle c.2.2 with pending := s.pending, msix := t.msix, edge := t.edge })
            ∧ (t.wain.walking = true → Statements.Clean v →
                fld t Reg.WAN_ITEM Fld.WAN_ITEM_INDEX = (fld u Reg.WAN_ITEM Fld.WAN_ITEM_INDEX + 1) % 4096)) ∧
          (c.2.1 = 1 → Statements.Clean v → c.2.2.wain.walking = true → Runs .dispatch s fun t =>
            let r := ((List.range d.tokens).map fun k => peek v (d.route + k * (64 * d.rld)) (8 * (2 * d.a))).foldl
              (routeToken p d.a) {}
            regN t Reg.WAN_TOKENS = min (regN v Reg.WAN_TOKENS + r.acc) 0xFFFFFFFF
              ∧ regN t Reg.WAN_FALLBACK = min (regN v Reg.WAN_FALLBACK + r.fall) 0xFFFFFFFF
              ∧ regN t Reg.WAN_DROPS = min (regN v Reg.WAN_DROPS + r.drop) 0xFFFFFFFF)) ∧
      (∀ v, loadPlace (setWanFld u Fld.WAN_STATUS_GATED 0) d.ptab = (v, .ok none) →
        ∀ c ∈ [(Instr.dispatch, 1), (.returnRows, 2), (.combine, 3), (.redispatch, 4)], d.op = c.2 → Runs c.1 s fun t =>
          t.wain.walking = false ∧ fld t Reg.WAN_INTSTAT Fld.WAN_INTSTAT_ERR = 1 ∧ MemSame v t))

/-- R347, R350: the shares of a group's members add up to CAP; and routing never gives an expert more rows than this member's
share of it, gives every assignment one outcome, and counts no more fallbacks than assignments accepted. -/
def Statements.WainShares : Prop :=
  (∀ p : Place, p.nmem ≠ 0 → ((List.range p.nmem).map p.share).sum = p.cap) ∧
  (∀ (p : Place) (a : Nat) (cs : List (List Byte)), let r := cs.foldl (routeToken p a) {}
    (∀ e n, kfind r.taken e = some n → n ≤ p.share p.me) ∧ r.acc + r.drop = a * cs.length ∧ r.fall ≤ r.acc
      ∧ r.recs.length = cs.length)

/-- The Wain's list, and the shares it moves. -/
def Obligations.WainMoves : Prop := Statements.WainList ∧ Statements.WainShares

/-! ## Full resets, supplies and start-up (R513 to R532, R567, R639, R640) -/

/-- After a full reset from `s` for a cause that keeps no Granary (R513 to R516, R549): the start begins at phase 2 with
RST_CAUSE.CAUSE at the cause; a register that a warm reset keeps is as before and every other has its reset value, but for
those that report the reset; memory is lost; of the rest only what R549 keeps is left. A partial reset that was in
progress is reported as abandoned, and a trial that the reset ends counts as a fallback. -/
def Statements.FullReset (s t : State) (cause : Nat) : Prop :=
  t = { State.reset with
        pending := t.pending, free := s.free, rdata := s.rdata, wire := s.wire, regs := t.regs
        cellar := storesAfter s cause, msix := t.msix, edge := t.edge
        host := { State.reset.host with mem := s.host.mem, completions := s.host.completions }
        rst := { State.reset.rst with
                 power := s.rst.power, mainPg := s.rst.mainPg, perst := s.rst.perst, fuses := s.rst.fuses
                 flash := s.rst.flash, digests := s.rst.digests, trips := s.rst.trips } }
    ∧ rstState t = 0 ∧ rsPhase t = 2 ∧ fld t Reg.RST_CAUSE Fld.RST_CAUSE_CAUSE = cause
    ∧ (∀ a, a ∉ [Reg.RST_CAUSE, Reg.RST_STATUS, Reg.RST_PARTSTAT, Reg.RST_INTSTAT, Reg.FWM_FALLBACKS] →
        reg t a = if keptReg a then reg s a else regReset a)
    ∧ regN t Reg.FWM_FALLBACKS = min (regN s Reg.FWM_FALLBACKS + if resetInTrial s then 1 else 0) 0xFFFFFFFF
    ∧ ((abandoned s).isSome = true → fld t Reg.RST_PARTSTAT Fld.RST_PARTSTAT_RESULT = 3
        ∧ fld t Reg.RST_INTSTAT Fld.RST_INTSTAT_PARTREF = 1)

/-- A failed start (R529): a warm reset of its own cause, with the reason kept in RST_CAUSE. -/
def Statements.FailStart (s t : State) (reason : Nat) : Prop :=
  Statements.FullReset (setFld s Reg.RST_CAUSE Fld.RST_CAUSE_REASON reason) t 6
    ∧ fld t Reg.RST_CAUSE Fld.RST_CAUSE_REASON = reason

/-- R513, R515, R516, R529, R543, R567: POR begins a start at phase 1 with every register at its reset value but the cause;
MAIN_PG begins a warm start unless it lets the start of POR go on; PERST# in full-reset mode, a watchdog outside an
unconfirmed trial, a clock fault of a domain that the management processor needs, and RESET with argument 0 bring about a
full reset with their own cause. In a start a watchdog, such a clock fault and the deadline fail it. -/
def Obligations.FullResets : Prop :=
  (∀ s : State, Runs .por s fun t =>
    t = { State.reset with
          pending := t.pending, free := s.free, rdata := s.rdata, wire := s.wire, regs := t.regs
          cellar := { s.cellar with stores := [] }, msix := t.msix, edge := t.edge
          host := { State.reset.host with mem := s.host.mem, completions := s.host.completions }
          rst := { State.reset.rst with
                   power := true, mainPg := s.rst.mainPg, perst := s.rst.perst, fuses := s.rst.fuses
                   flash := s.rst.flash, trips := s.rst.trips } }
      ∧ rsPhase t = 1 ∧ fld t Reg.RST_CAUSE Fld.RST_CAUSE_CAUSE = 0
      ∧ fld t Reg.RST_CAUSE Fld.RST_CAUSE_TRIPPED = (if s.rst.trip then 1 else 0)
      ∧ ∀ a, a ≠ Reg.RST_CAUSE → reg t a = regReset a) ∧
  (∀ s : State, s.rst.power = true → s.rst.mainPg = false →
    (rstState s = 0 → rsPhase s = 1 → s.rst.trip = false → Runs .mainpg s fun t =>
      t = { s with rst := { s.rst with mainPg := true }, msix := t.msix, edge := t.edge }) ∧
    (¬(rstState s = 0 ∧ rsPhase s = 1 ∧ s.rst.trip = false) → Runs .mainpg s fun t =>
      Statements.FullReset { s with rst := { s.rst with mainPg := true } } t 1
        ∧ fld t Reg.RST_CAUSE Fld.RST_CAUSE_TRIPPED = if s.rst.trip then 1 else 0)) ∧
  (∀ s : State, alive s = true →
    (s.rst.perst = true → perstMode s = 0 → Runs .perstDeassert s fun t =>
      Statements.FullReset { s with rst := { s.rst with perst := false } } t 2) ∧
    (s.rst.perst = true → perstMode s = 1 → Runs .perstDeassert s fun t =>
      t = { s with rst := { s.rst with perst := false }, msix := t.msix, edge := t.edge }) ∧
    (rstState s = 0 → Runs .watchdog s fun t => Statements.FailStart s t 6) ∧
    (rstState s ≠ 0 → (fwmState s ≠ fwsTrial ∨ s.fwm.confirming = true) → Runs .watchdog s fun t =>
      Statements.FullReset s t 5) ∧
    (rstState s ≠ 0 → fwmState s = fwsTrial → s.fwm.confirming = false → Runs .watchdog s fun t =>
      t = { s with fwm := { s.fwm with fallDue := true }, msix := t.msix, edge := t.edge }) ∧
    (∀ d, 22 ≤ d → d ≤ 25 →
      (rstState s = 0 → Runs (.clockFault d) s fun t => Statements.FailStart s t 6) ∧
      (rstState s ≠ 0 → Runs (.clockFault d) s fun t => Statements.FullReset s t 5)) ∧
    (rstState s = 0 → Runs .startDeadline s fun t => Statements.FailStart s t 7) ∧
    (rstState s ≠ 0 → Runs .startDeadline s fun t => t = { s with msix := t.msix, edge := t.edge }) ∧
    (∀ c, startable s ocReset = some c → c.num 8 4 = 0 →
      (c.mgmt = false → bitN (c.num 12 1) 0 = false → Runs .reset s fun t =>
        Statements.FullReset (done (stopLoad s) c 0) t 3) ∧
      (c.mgmt = true → Runs .reset s fun t => Statements.FullReset (done (stopLoad s) c 0) t 4) ∧
      (c.mgmt = false → bitN (c.num 12 1) 0 = true → Runs .reset s fun t =>
        (∀ a, isObj a = true → (∀ j ∈ s.loft.objs, ¬(objRec s j ≤ a ∧ a < objRec s j + 64)) →
            byteAt t a = kget (fun _ => 0) (granaryBytes s) a) ∧ t.loft.objs = s.loft.objs ∧ t.loft.lines = []
          ∧ rsPhase t = 2 ∧ fld t Reg.RST_CAUSE Fld.RST_CAUSE_CAUSE = 3)))

/-- R514, R515, R519, R523, R547, R639, R640: when MAIN_PG or the supplies fall, and at a thermal trip, the stores in progress
are lost and the rest is held; PERST# asserted in full-reset mode only holds the device's pin state, in host-port-only mode
it resets the host port. -/
def Obligations.SuppliesAndPins : Prop :=
  ∀ s : State,
    (s.rst.mainPg = true → Runs .mainPgFall s fun t =>
      t = { s with cellar := { s.cellar with stores := [] }, rst := { s.rst with mainPg := false, ready := false }
                   msix := t.msix, edge := t.edge }) ∧
    (Runs .powerDown s fun t =>
      t = { s with cellar := { s.cellar with stores := [] }
                   rst := { s.rst with power := false, mainPg := false, ready := false }, msix := t.msix, edge := t.edge }) ∧
    (alive s = true → Runs .thermalTrip s fun t =>
      t = { s with cellar := { s.cellar with stores := [] }
                   rst := { s.rst with trip := true, trips := s.rst.trips + 1 }, msix := t.msix, edge := t.edge } ∧ alive t = false) ∧
    (perstMode s = 0 → Runs .perstAssert s fun t =>
      t = { s with rst := { s.rst with perst := true }, msix := t.msix, edge := t.edge }) ∧
    (alive s = true → perstMode s = 1 → Runs .perstAssert s fun t =>
      t.rst = { s.rst with perst := true } ∧ t.host.stages = [] ∧ t.host.handles = []
        ∧ (∀ c ∈ t.host.cmds, c.gone = true) ∧ MemSame s t
        ∧ ∀ a, hostRegs a = true → a ≠ Reg.HST_INFLIGHT → reg t a = regReset a)

/-- R505, R517 to R523, R529, R530, R640: a start goes from phase to phase, and nothing but the phase changes where the spec
says no more: phases 1, 3, 4 (which waits for PERST# in full-reset mode) and 7. Phase 2 counts the start, or enters Dormant
at the limit; phase 5 copies the Seed, unless the flash cannot be read, and lets the host configure; phases 6, 7 and 9 that
find nothing fit end the start with their reason. Of the Loft banks that fail in phase 6, one takes a spare of its layer, one
for which none is left takes its layer from its slice, and a second layer of one slice fails the start. Phase 8 reports how
memory was filled; phase 9 shows the presentation map and puts a spare in the place of a bough that fails; without one it
fails the start. -/
def Statements.StartPhases : Prop :=
  ∀ (s : State) (r : PhaseResult) (us : Nat), alive s = true → rstState s = 0 →
    (∀ k k', (k, k') ∈ [(1, 2), (3, 4)] ∨ ((k, k') = (7, 8) ∧ r ≠ .fail)
        ∨ ((k, k') = (4, 5) ∧ ¬(s.rst.perst = true ∧ perstMode s = 0)) → rsPhase s = k →
      Runs (.startPhaseDone r us) s fun t => OnlyRegs s t [Reg.RST_STATUS] ∧ rsPhase t = k' ∧ rstState t = 0) ∧
    (rsPhase s = 4 → s.rst.perst = true → perstMode s = 0 → Runs (.startPhaseDone r us) s fun t =>
      t = { s with msix := t.msix, edge := t.edge }) ∧
    (rsPhase s = 2 → Runs (.startPhaseDone r us) s fun t => MemSame s t
      ∧ (fld (loadSettings s) Reg.RST_OPTIONS Fld.RST_OPTIONS_FAILLIM ≤ startCount s →
          rstState t = stDormant ∧ t.host.config = true ∧ fld t Reg.HST_STATUS Fld.HST_STATUS_DORMANT = 1
            ∧ t.cellar = s.cellar)
      ∧ (startCount s < fld (loadSettings s) Reg.RST_OPTIONS Fld.RST_OPTIONS_FAILLIM →
          rsPhase t = 3 ∧ ∃ q, t.cellar = { s.cellar with stores := s.cellar.stores ++ [q] } ∧ q.kind = ckStart
            ∧ q.body = leBytes 4 (startCount s + 1))) ∧
    (rsPhase s = 5 → Runs (.startPhaseDone r us) s fun t => OnlyRegs
      { s with
        host := { s.host with config := true }, seed := { s.seed with slots := t.seed.slots }
        rst := { s.rst with seedBuf := s.rst.flash.filter fun x => x.1 < 0x100000, seedErr := decide (r = .fail) } }
      t [Reg.RST_STATUS] ∧ rsPhase t = 6 ∧ (r = .fail → t.seed.slots = [])) ∧
    (rsPhase s = 6 → r ≠ .fail → foundBanks r = [] → Runs (.startPhaseDone r us) s fun t =>
      rsPhase t = 7 ∧ t.mem = s.mem ∧ t.host = s.host) ∧
    (∀ l k, rsPhase s = 6 → r = .loft [(l, k)] → l < 4 → k < 64 → cellBody s ckRepair = [] →
      (sliceMapped s k = false → sparesUsed s l < 4 → Runs (.startPhaseDone r us) s fun t => rsPhase t = 7
        ∧ sparesUsed t l = sparesUsed s l + 1 ∧ t.integ.banksDone = s.integ.banksDone ++ [(l, k)]
        ∧ regN t Reg.INT_REPAIRS = min (regN s Reg.INT_REPAIRS + 1) 0xFFFFFFFF ∧ t.mem = s.mem) ∧
      (sliceMapped s k = false → sparesUsed s l = 4 → Runs (.startPhaseDone r us) s fun t => rsPhase t = 7
        ∧ sliceMapped t k = true ∧ fld t (Reg.LFT_SLSTAT k) Fld.LFT_SLSTAT_LAYER = l ∧ t.mem = s.mem) ∧
      (sliceMapped s k = true → fld s (Reg.LFT_SLSTAT k) Fld.LFT_SLSTAT_LAYER ≠ l → sparesUsed s l = 4 →
        Runs (.startPhaseDone r us) s fun t => Statements.FailStart s t 1)) ∧
    (∀ k reason, (k, reason) ∈ [(6, 1), (7, 2), (9, 3)] → rsPhase s = k → r = .fail →
      Runs (.startPhaseDone r us) s fun t => Statements.FailStart s t reason) ∧
    (rsPhase s = 8 → Runs (.startPhaseDone r us) s fun t => OnlyRegs s t [Reg.RST_STATUS, Reg.INT_STATUS] ∧ rsPhase t = 9
      ∧ fld t Reg.INT_STATUS Fld.INT_STATUS_FILLED = 1 - fld s Reg.RST_OPTIONS Fld.RST_OPTIONS_INITMODE) ∧
    (rsPhase s = 9 → r ≠ .fail → foundArrays r = [] → (∀ n, n < 64 → phys s n < 68) →
      (foundBoughs r = [] → Runs (.startPhaseDone r us) s fun t =>
        OnlyRegs { s with integ := { s.integ with refs := testRefs } } t
          (Reg.RST_STATUS :: (List.range 68).map fun b => Reg.BGH_STATUS b) ∧ rsPhase t = 10) ∧
      (∀ n, n < 64 → foundBoughs r = [phys s n] → (∀ m, m < 64 → phys s m < 64) →
        (∀ m, m < 64 → phys s m = phys s n → m = n) → fld s (Reg.BGH_STATUS 64) Fld.BGH_STATUS_FAILED = 0 →
        s.integ.copies = [] → Runs (.startPhaseDone r us) s fun t =>
          rsPhase t = 10 ∧ phys t n ≠ phys s n ∧ phys t n < 68 ∧ (∀ m, m < 64 → m ≠ n → phys t m = phys s m)
            ∧ fld t (Reg.BGH_STATUS (phys s n)) Fld.BGH_STATUS_FAILED = 1
            ∧ fld t (Reg.BGH_STATUS (phys t n)) Fld.BGH_STATUS_PRESENTED = n ∧ t.mem = s.mem) ∧
      (∀ b, foundBoughs r = [b] → (∃ n, n < 64 ∧ phys s n = b) → (∀ m n, m < n → n < 64 → phys s m ≠ phys s n) →
        (∀ d, d < 68 → (∀ n, n < 64 → phys s n ≠ d) → fld s (Reg.BGH_STATUS d) Fld.BGH_STATUS_FAILED = 1) →
        Runs (.startPhaseDone r us) s fun t => rsPhase t = 2 ∧ fld t Reg.RST_CAUSE Fld.RST_CAUSE_CAUSE = 6
          ∧ fld t Reg.RST_CAUSE Fld.RST_CAUSE_REASON = 3 ∧ t.mem = []))

/-- R520, R527 to R529, R546, R574: phase 10 starts the image of the rootstock slot, or the other with ALTBOOT; with neither
good the start fails. Phase 11 names a Seed fault in RST_SEEDERR and fails, or loads the Seed. After phase 12 the device is
Idle and Ready: it accepts commands, and the start count returns to zero. -/
def Statements.StartEnds : Prop :=
  ∀ (s : State) (r : PhaseResult) (us : Nat), alive s = true → rstState s = 0 →
    (rsPhase s = 10 →
      ((verify573 s (rollRoot s)).1 = 0 → Runs (.startPhaseDone r us) s fun t =>
        rsPhase t = 11 ∧ t.fwm.run = some (verify573 s (rollRoot s)).2 ∧ t.mem = s.mem) ∧
      ((verify573 s (rollRoot s)).1 ≠ 0 → (verify573 s (1 - rollRoot s)).1 = 0 → Runs (.startPhaseDone r us) s fun t =>
        rsPhase t = 11 ∧ t.fwm.run = some (verify573 s (1 - rollRoot s)).2 ∧ t.mem = s.mem
          ∧ fld t Reg.FWM_STATUS Fld.FWM_STATUS_ALTBOOT = 1) ∧
      ((verify573 s (rollRoot s)).1 ≠ 0 → (verify573 s (1 - rollRoot s)).1 ≠ 0 → Runs (.startPhaseDone r us) s fun t =>
        Statements.FailStart (showRecords s) t 4)) ∧
    (rsPhase s = 11 →
      (∀ k ty o, seedFault s = some (k, ty, o) → Runs (.startPhaseDone r us) s fun t =>
        Statements.FailStart (setRegN s Reg.RST_SEEDERR (2 ^ 31 + 2 ^ 24 * k + 2 ^ 16 * ty + o)) t 5) ∧
      (seedFault s = none → Runs (.startPhaseDone r us) s fun t => rsPhase t = 12 ∧ t.seed.read = true ∧ t.mem = s.mem)) ∧
    (rsPhase s = 12 → Runs (.startPhaseDone r us) s fun t =>
      rstState t = stIdle ∧ rsPhase t = 0 ∧ regN t Reg.RST_READY = us % 2 ^ 32 ∧ t.rst.ready = true
        ∧ fld t Reg.HST_STATUS Fld.HST_STATUS_ACCEPTING = 1 ∧ fld t Reg.RST_INTSTAT Fld.RST_INTSTAT_READY = 1 ∧ MemSame s t
        ∧ ∃ x y, t.cellar = { s.cellar with stores := s.cellar.stores ++ [x, y] } ∧ x.kind = ckStart
            ∧ x.body = leBytes 4 0 ∧ y.kind = ckLife)

/-- A start from phase to phase, and its end. -/
def Obligations.StartUp : Prop := Statements.StartPhases ∧ Statements.StartEnds

/-! ## Partial resets (R535 to R541) -/

/-- The partial reset at the head is over with a RESULT: RST_PARTSTAT shows it and its command has completed. -/
def Statements.PartEnded (s t : State) (p : PartReq) (result : Nat) : Prop :=
  t.rst.parts = s.rst.parts.tail
    ∧ fld t Reg.RST_PARTSTAT Fld.RST_PARTSTAT_KIND = p.kind
    ∧ fld t Reg.RST_PARTSTAT Fld.RST_PARTSTAT_TARGET = p.target % 256
    ∧ fld t Reg.RST_PARTSTAT Fld.RST_PARTSTAT_RESULT = result
    ∧ fld t Reg.RST_INTSTAT (if result = 0 then Fld.RST_INTSTAT_PARTDONE else Fld.RST_INTSTAT_PARTREF) = 1
    ∧ ∀ h, p.handle = some h → findCmd t h = none

/-- R536: the Root sub-reset first quiesces: the device leaves Running or Idle for Quiesce, every presented bough is
pre-empted, and no list is walked. When the frames of RST_QUIESCE have passed the carts still in flight are cut and the Root,
the Mill, the Wain and the stash engine return to their reset state, but for HORIZON. At its end the request is over and the
device is Idle, or Running where a job is left. -/
def Obligations.RootSubReset : Prop :=
  ∀ (s : State) (p : PartReq), alive s = true → partHead s pkRoot = some p →
    (p.stage = 0 → s.carts ≠ [] → Runs .rootSubreset s fun t =>
      rstState t = (if rstState s = stFallow then stFallow else stQuiesce)
        ∧ t.rst.parts = { p with stage := 1 } :: s.rst.parts.tail ∧ (∀ b ∈ presented s, (bough t b).halted = true)
        ∧ t.mill.walking = false ∧ t.wain.walking = false ∧ t.carts = s.carts ∧ MemSame s t) ∧
    (p.stage = 1 → fld s Reg.RST_QUIESCE Fld.RST_QUIESCE_FRAMES ≤ p.frames → Runs .quiesceTimeout s fun t =>
      t.carts = [] ∧ t.mill = {} ∧ t.wain = {} ∧ t.stash = {} ∧ t.fab.inb = [] ∧ t.step.opened = []
        ∧ t.rst.parts = { p with stage := 2 } :: s.rst.parts.tail
        ∧ fld t Reg.MIL_GATE Fld.MIL_GATE_HORIZON = fld s Reg.MIL_GATE Fld.MIL_GATE_HORIZON
        ∧ ∀ a, rootReg a = true → a ≠ Reg.MIL_GATE → reg t a = regReset a) ∧
    (p.stage = 1 → p.frames < fld s Reg.RST_QUIESCE Fld.RST_QUIESCE_FRAMES → Runs .quiesceTimeout s fun t =>
      t = { s with msix := t.msix, edge := t.edge }) ∧
    (p.stage = 2 → Runs .rootSubresetDone s fun t => Statements.PartEnded s t p 0 ∧ MemSame s t
      ∧ rstState t = (if rstState s = stQuiesce then (if jobLoaded s then stRunning else stIdle) else rstState s))

/-- Nothing is in the Loft but the direct range, and no codeword of that range is in error. -/
def Statements.LoftBare (s : State) : Prop :=
  s.loft.lines = [] ∧ (∀ j ∈ s.loft.objs, (objAt s j).pinned = false ∧ (objAt s j).mstate = msHome)
    ∧ ∀ x ∈ s.ecc.cw, x.1 % 4 = 1 → isDirect s (x.1 / 4) = false

/-- R537 to R539: a layer reset starts at a frame boundary, away from which it waits: the Loft holds nothing but the direct
range, which is parked in the parking object, or filled without one; it is refused for want of a parking object while a job
is loaded. At its end, at a frame boundary, allocation resumes. What becomes of memory is stated for a Loft that holds
nothing else, and no error. -/
def Statements.LayerReset : Prop :=
  ∀ (s : State) (p : PartReq) (layer : Nat), alive s = true → layer < 4 → partHead s pkLayer = some p → p.target = layer →
    (atBoundary s = false → ∀ c ∈ [Instr.loftLayerReset layer, .layerResetDone layer], Runs c s fun t =>
      t = { s with msix := t.msix }) ∧
    (atBoundary s = true → p.stage = 0 →
      (parkBase s = none → s.host.job.isSome = true → Runs (.loftLayerReset layer) s fun t =>
        Statements.PartEnded s t p 2 ∧ MemSame s t) ∧
      ((parkBase s).isSome = true ∨ s.host.job = none → Runs (.loftLayerReset layer) s fun t =>
        t.loft.granaryOnly = true ∧ bitN (fld t Reg.RST_STATUS Fld.RST_STATUS_LAYERRST) layer = true
          ∧ t.rst.parts = { p with stage := 1 } :: s.rst.parts.tail)) ∧
    (atBoundary s = true → p.stage = 0 → Statements.LoftBare s →
      (parkBase s = none → s.host.job = none → Runs (.loftLayerReset layer) s fun t =>
        t.loft = { s.loft with granaryOnly := true } ∧ bitN (fld t Reg.RST_STATUS Fld.RST_STATUS_LAYERRST) layer = true
          ∧ t.rst.parts = { p with stage := 1 } :: s.rst.parts.tail
          ∧ ∀ a, byteAt t a = if isDirect s a then 0 else byteAt s a) ∧
      (∀ b, parkBase s = some b → Runs (.loftLayerReset layer) s fun t =>
        t.loft = { s.loft with granaryOnly := true, parked := true }
          ∧ bitN (fld t Reg.RST_STATUS Fld.RST_STATUS_LAYERRST) layer = true
          ∧ t.mem = moveCells s.mem 1 directBase b (directSize s))) ∧
    (atBoundary s = true → p.stage = 1 → s.loft.lines = [] →
      (∀ j ∈ s.loft.objs, (objAt s j).pinned = false ∧ (objAt s j).mstate = msHome) →
      (∀ x ∈ s.loft.rounds, x.2.diverted = true) → Runs (.layerResetDone layer) s fun t =>
      Statements.PartEnded s t p 0 ∧ t.loft.granaryOnly = false ∧ t.loft.parked = false ∧ t.ecc.lpar = []
        ∧ bitN (fld t Reg.RST_STATUS Fld.RST_STATUS_LAYERRST) layer = false)

/-- R540, R541: a bough reset is refused while a job is loaded and the bough is presented; else it returns the bough to its
reset state, its Crib to zeros and its registers to their reset values, PRESENTED and FAILED kept, and touches no other
memory; it ends when the bough has come back. A port reset takes the port down to train again with its replay buffer, its
lanes at their reset state and no partner. -/
def Statements.BoughAndPortReset : Prop :=
  (∀ (s : State) (p : PartReq) (b : Nat), alive s = true → b < 68 → partHead s pkBough = some p → p.target = b →
    (p.stage = 0 → jobLoaded s = true → fld s (Reg.BGH_STATUS b) Fld.BGH_STATUS_PRESENTED < 64 →
      Runs (.boughReset b) s fun t => Statements.PartEnded s t p 1 ∧ MemSame s t ∧ t.boughs = s.boughs) ∧
    (p.stage = 0 → ¬(jobLoaded s = true ∧ fld s (Reg.BGH_STATUS b) Fld.BGH_STATUS_PRESENTED < 64) →
      Runs (.boughReset b) s fun t =>
        bough t b = {} ∧ (∀ d, d ≠ b → bough t d = bough s d)
          ∧ (∀ a, byteAt t a = if cribBase b ≤ a ∧ a < cribBase (b + 1) then 0 else byteAt s a)
          ∧ fld t (Reg.BGH_STATUS b) Fld.BGH_STATUS_PRESENTED = fld s (Reg.BGH_STATUS b) Fld.BGH_STATUS_PRESENTED
          ∧ fld t (Reg.BGH_STATUS b) Fld.BGH_STATUS_FAILED = fld s (Reg.BGH_STATUS b) Fld.BGH_STATUS_FAILED
          ∧ (∀ a, a ≠ Reg.BGH_STATUS b → reg t a = if boughReg b a then regReset a else reg s a)
          ∧ t.rst.parts = { p with stage := 1 } :: s.rst.parts.tail) ∧
    (p.stage = 1 → Runs (.boughResetDone b) s fun t => Statements.PartEnded s t p 0 ∧ MemSame s t ∧ t.boughs = s.boughs)) ∧
  (∀ (s : State) (q : PartReq) (p : Nat), alive s = true → p < 24 → partHead s pkPort = some q → q.target = p →
    q.stage = 0 → Runs (.portReset p) s fun t =>
      Statements.PartEnded s t q 0 ∧ portState t p = psTrain ∧ reg t (Reg.FAB_LANES p) = regReset (Reg.FAB_LANES p)
        ∧ regN t (Reg.FAB_PEER p) = 0
        ∧ (port t p).replay = (port s p).replay ∧ fld t Reg.FAB_INTSTAT Fld.FAB_INTSTAT_LINKDOWN = 1 ∧ MemSame s t)

/-- Layer resets, and bough and port resets. -/
def Obligations.SmallResets : Prop := Statements.LayerReset ∧ Statements.BoughAndPortReset

/-! ## Jobs, and the device's own commands (R533, R534, R542 to R548, R609, R618, R619) -/

/-- R533, R534, R543, R546 to R548, R609: FALLOW takes an Idle device to Fallow, WAKE ends it when the clocks are back;
RESET with a partial reset's argument and STORE run until what they ask for is done; a Cellar store that completes leaves its
record in the copy that was not valid; the LIFE timer stores the life record. -/
def Statements.DeviceCommands : Prop :=
  ∀ s : State, alive s = true →
    (∀ c, Statements.Starts s ocFallow c → Runs .fallow s fun t =>
      Statements.Completed t c 0 0 ∧ rstState t = stFallow ∧ MemSame s t
        ∧ fld t Reg.RST_INTSTAT Fld.RST_INTSTAT_FALLOW = 1) ∧
    (∀ c, Statements.Starts s ocWake c → rstState s = stFallow → Runs .wake s fun t =>
      findCmd t c.handle = some { c with state := 2 }
        ∧ t.rst = { s.rst with waking := true, wakes := s.rst.wakes ++ [c.handle] } ∧ t.regs = s.regs) ∧
    (∀ c, Statements.Starts s ocWake c → rstState s ≠ stFallow → Runs .wake s fun t =>
      Statements.Completed t c 0 0 ∧ t.rst = s.rst ∧ MemSame s t) ∧
    (rstState s = stFallow → s.rst.waking = true → Runs .fallowWakeDone s fun t =>
      rstState t = stIdle ∧ t.rst = { s.rst with waking := false, wakes := [] }
        ∧ fld t Reg.RST_INTSTAT Fld.RST_INTSTAT_WAKE = 1 ∧ (∀ h ∈ s.rst.wakes, findCmd t h = none) ∧ MemSame s t) ∧
    (∀ c, Statements.Starts s ocReset c → c.num 8 4 ≠ 0 → partArgOk (c.num 8 4) = true → Runs .reset s fun t =>
      findCmd t c.handle = some { c with state := 2 } ∧ t.regs = s.regs
        ∧ t.rst = { s.rst with parts := s.rst.parts ++
            [{ kind := c.num 8 4 / 2 ^ 28, target := c.num 8 4 % 256, handle := some c.handle }] }) ∧
    (∀ c, Statements.Starts s ocStore c → Runs .store s fun t =>
      findCmd t c.handle = some { c with state := 2 } ∧ t.regs = s.regs
        ∧ t.cellar = { s.cellar with stores := s.cellar.stores ++
            [{ kind := c.num 8 4, version := cellVersion s (c.num 8 4), body := c.body, handle := some c.handle }] }) ∧
    (∀ r rest, s.cellar.stores = r :: rest → Runs .storeComplete s fun t =>
      cellRec t r.kind = (cellRec s r.kind).write r.version r.body
        ∧ (∀ k, k ≠ r.kind → cellRec t k = cellRec s k) ∧ (∃ more, t.cellar.stores = rest ++ more)
        ∧ (∀ h, r.handle = some h → findCmd t h = none) ∧ MemSame s t) ∧
    (rstState s ≠ 0 → rstState s ≠ stDormant → Runs .lifeStoreTimer s fun t =>
      (∃ q, t.cellar = { s.cellar with stores := s.cellar.stores ++ [q] } ∧ q.kind = ckLife)
        ∧ t.rst = { s.rst with trips := 0 } ∧ t.regs = s.regs)

/-- R418, R543, R544: an MGMT message comes in packets of its source, which are put together until the one with LAST. A whole
message, 64 bytes of body and its signature, that its checks pass waits as the matching host command would, without a handle,
and sets RST_INTSTAT.MGMT; any other is counted in RST_MGMTREF and does nothing. Packets that come together do what they do
one after another. -/
def Statements.MgmtMessage : Prop :=
  (∀ (s u : State) (p : Nat) (k k' : Packet), Statements.Accepted s u p opMgmt k k' →
    let msg := kget (fun _ => []) u.fab.mgmt k'.src ++ k'.payload
    let body := msg.take 64
    (k'.last = false → Runs (.mgmt p [] k) s fun t => kget (fun _ => []) t.fab.mgmt k'.src = msg
      ∧ (∀ d, d ≠ k'.src → kget (fun _ => []) t.fab.mgmt d = kget (fun _ => []) s.fab.mgmt d)
      ∧ t = { s with regs := u.regs, fab := t.fab, msix := t.msix, edge := t.edge }) ∧
    (k'.last = true → mgmtValid u body (msg.drop 64) = true → mgmtOpen u (mgmtRecord body) = true → Runs (.mgmt p [] k) s fun t =>
      (∃ c, t.host.cmds = s.host.cmds ++ [c] ∧ c.record = mgmtRecord body ∧ c.mgmt = true ∧ c.gone = true ∧ c.state = 1)
        ∧ t.host.handles = s.host.handles ∧ fld t Reg.RST_INTSTAT Fld.RST_INTSTAT_MGMT = 1
        ∧ shake256 body 32 ∈ t.rst.digests ∧ RegsBut u t [Reg.RST_INTSTAT]
        ∧ kget (fun _ => []) t.fab.mgmt k'.src = []
        ∧ t = { s with regs := t.regs, fab := t.fab, host := t.host, rst := t.rst, fwm := t.fwm, msix := t.msix
                       edge := t.edge }) ∧
    (k'.last = true → (mgmtValid u body (msg.drop 64) = false ∨ mgmtOpen u (mgmtRecord body) = false) →
      Runs (.mgmt p [] k) s fun t => RegsBut u t [Reg.RST_MGMTREF]
        ∧ regN t Reg.RST_MGMTREF = min (regN s Reg.RST_MGMTREF + 1) 0xFFFFFFFF
        ∧ kget (fun _ => []) t.fab.mgmt k'.src = []
        ∧ t = { s with regs := t.regs, fab := t.fab, msix := t.msix, edge := t.edge })) ∧
  (∀ (s : State) (p : Nat) (x k : Packet) (more : List Packet), alive s = true →
    let u := recvNow s p opMgmt x mgmtPacket
    alive u = true → Runs (.mgmt p (x :: more) k) s fun t => Runs (.mgmt p more k) u fun w =>
      t = { w with pending := t.pending, msix := t.msix, edge := t.edge })

/-- The device's own commands, and those of the partition manager. -/
def Obligations.CommandsAndManager : Prop := Statements.DeviceCommands ∧ Statements.MgmtMessage

/-- R614, R616, R618, R619: a JOBLOAD that 64 presented boughs and every check of the descriptor allow leaves its job loaded
under its handle and the device Running, and starts no bough; a job whose check fails ends with BADJOB and the check's
DETAIL, with nothing loaded. JOB_START begins the walk of every presented bough at item 0 in program frame START. JOBSTOP
completes at once with no job; with a job whose boughs have nothing in flight it ends the job and completes after it. -/
def Obligations.Jobs : Prop :=
  ∀ s : State, alive s = true →
    (∀ c u v, Statements.Starts s ocJobload c → rstState s = stIdle → 64 ≤ (presented s).length →
      rdTab 1 (c.num 8 8) 512 id s = (u, none) →
      (jobChk (peek u (c.num 8 8) 512) (fun x => images x (peek u (c.num 8 8) 512)) u = (v, none) →
        Runs .jobload s fun t =>
          t.host.job = some { handle := c.handle, strict := bitN (leAt (peek u (c.num 8 8) 512) 4 1) 0
                              nout := leAt (peek u (c.num 8 8) 512) 5 1, start := leAt (peek u (c.num 8 8) 512) 8 8 }
            ∧ rstState t = stRunning ∧ fld t Reg.HST_STATUS Fld.HST_STATUS_JOB = 1 ∧ t.mem = v.mem
            ∧ ∀ b ∈ presented v, (bough t b).walking = false ∧ (bough t b).halted = false) ∧
      (∀ x, jobChk (peek u (c.num 8 8) 512) (fun x => images x (peek u (c.num 8 8) 512)) u = (v, some x) → x.bad = none →
        findCmd v c.handle = some c →
        Runs .jobload s fun t => Statements.Completed t c 14 x.detail ∧ t.host.job = v.host.job ∧ t.mem = v.mem)) ∧
    (∀ j, s.host.job = some j → j.started = false → atBoundary s = true → pindex s = j.start →
      (∀ b ∈ presented s, (bough s b).halted = false) → Runs .jobStart s fun t =>
        (∃ k, t.host.job = some k ∧ k.started = true ∧ k.handle = j.handle)
          ∧ (∀ b ∈ presented s, (bough t b).walking = true ∧ fld t (Reg.BGH_ITEM b) Fld.BGH_ITEM_INDEX = 0)
          ∧ MemSame s t ∧ t.carts = s.carts) ∧
    (∀ c, Statements.Starts s ocJobstop c → s.host.job = none → (∀ x ∈ s.host.cmds, x.op ≠ ocJobload) →
      Runs .jobstop s fun t => Statements.Completed t c 0 0 ∧ MemSame s t ∧ t.boughs = s.boughs) ∧
    (∀ c j, Statements.Starts s ocJobstop c → s.host.job = some j → j.ending = none → j.stops = [] →
      c.handle ≠ j.handle → (∀ b ∈ presented s, (bough s b).sb = []) → Runs .jobstop s fun t =>
        t.host.job = none ∧ Statements.Completed t c 0 0 ∧ findCmd t j.handle = none
          ∧ fld t Reg.HST_STATUS Fld.HST_STATUS_JOB = 0 ∧ t.mem = s.mem)

/-! ## Temperature, power and clocks (R553 to R570) -/

/-- R553, R557, R563, R564, R567, R569: a housekeeping round leaves each value read, valid, in HSK_CH and counts itself; a
layer fault names its site; the power manager publishes the projected power, says whether it exceeds the limit and moves the
credit; the credit's end, a clock fault and a relock are reported as the spec says. -/
def Obligations.Housekeeping : Prop :=
  ∀ s : State, alive s = true →
    (∀ cs : List (BitVec 16), cs.length = 301 → Runs (.housekeepingRound cs) s fun t =>
      regN t Reg.HSK_ROUNDS = min (regN s Reg.HSK_ROUNDS + 1) 0xFFFFFFFF ∧ t.fwm = { s.fwm with rounds := s.fwm.rounds + 1 }
        ∧ (∀ c v, c < 84 → cs[c]? = some v → regN t (Reg.HSK_CH c) = 2 ^ 17 + v.toNat) ∧ MemSame s t
        ∧ t.boughs = s.boughs ∧ t.host = s.host) ∧
    (∀ i j, i < 4 → j < 32 → (siteSt s i j).suspect = true → 1000 ≤ (siteSt s i j).hot → (siteSt s i j).told = false →
      Runs (.layerFault i j) s fun t =>
        OnlyRegs { s with hsk := t.hsk } t [Reg.HSK_LAYERFLT, Reg.HSK_INTSTAT] ∧ (siteSt t i j).told = true
          ∧ fld t Reg.HSK_LAYERFLT Fld.HSK_LAYERFLT_VALID = 1 ∧ fld t Reg.HSK_LAYERFLT Fld.HSK_LAYERFLT_LAYER = i
          ∧ fld t Reg.HSK_LAYERFLT Fld.HSK_LAYERFLT_SITE = j) ∧
    (Runs .powerManagerTick s fun t =>
      fld t Reg.HSK_POWER Fld.HSK_POWER_PROJECTED = Config.projected s.free % 65536
        ∧ fld t Reg.HSK_STATUS Fld.HSK_STATUS_EXCUR = (if plim s < Config.projected s.free % 65536 then 1 else 0)
        ∧ t.hsk.credit = (if plim s < Config.projected s.free % 65536 then s.hsk.credit - 4 else min (s.hsk.credit + 1) 40000)
        ∧ MemSame s t ∧ t.boughs = s.boughs ∧ t.host = s.host) ∧
    (s.hsk.credit = 0 → Runs .excursionExhausted s fun t =>
      OnlyRegs s t [Reg.HSK_INTSTAT] ∧ fld t Reg.HSK_INTSTAT Fld.HSK_INTSTAT_EXCURSION = 1) ∧
    (∀ d, 1 ≤ d → d ≤ 21 → Runs (.clockFault d) s fun t =>
      fld t Reg.HSK_INTSTAT Fld.HSK_INTSTAT_CLKFAULT = 1 ∧ (d, 0) ∈ t.hsk.unlocked
        ∧ reg64 t Reg.INT_LOGCOUNT_LO = (reg64 s Reg.INT_LOGCOUNT_LO + 1) % 2 ^ 64 ∧ MemSame s t) ∧
    (∀ d, (∃ n, 3 ≤ n ∧ (d, n) ∈ s.hsk.unlocked) → Runs (.clockRelockTimeout d) s fun t =>
      t = { s with hsk := { s.hsk with starved := true }, msix := t.msix, edge := t.edge }) ∧
    (∀ d, Runs (.pllRelock d) s fun t =>
      t = { s with hsk := { s.hsk with unlocked := s.hsk.unlocked.filter fun x => x.1 ≠ d }, msix := t.msix, edge := t.edge })

/-! ## Firmware (R576 to R583) -/

/-- R576 to R579: STAGE takes the slot that does not run while nothing is staged, and ends with BUSY or SLOT otherwise; staging ends
with the image staged, or with the code of the check that failed. GRAFT waits for its boundary; with nothing staged it ends
with STATE, else, with nothing to graft, with BUSY; at the boundary the processors change places and the trial begins. -/
def Statements.StageAndGraft : Prop :=
  ∀ s : State, alive s = true →
    (∀ c, Statements.Starts s ocStage c → fwmState s = fwsNone → (s.fwm.run.map (·.slot)) ≠ some (c.num 8 1 % 2) →
      Runs .stage s fun t => fwmState t = fwsStaging ∧ t.fwm = { s.fwm with staging := some (c.handle, c.num 8 1 % 2) }
        ∧ findCmd t c.handle = some { c with state := 2 } ∧ RegsBut s t [Reg.FWM_STATUS] ∧ MemSame s t) ∧
    (∀ c, Statements.Starts s ocStage c → fwmState s ≠ fwsNone → Runs .stage s fun t =>
      Statements.Completed t c 0 fcBusy ∧ t.fwm = s.fwm ∧ fwmState t = fwmState s) ∧
    (∀ c, Statements.Starts s ocStage c → fwmState s = fwsNone → (s.fwm.run.map (·.slot)) = some (c.num 8 1 % 2) →
      Runs .stage s fun t => Statements.Completed t c 0 fcSlot ∧ t.fwm = s.fwm
        ∧ fld t Reg.FWM_STATUS Fld.FWM_STATUS_LASTERR = fcSlot ∧ fld t Reg.FWM_INTSTAT Fld.FWM_INTSTAT_REFUSED = 1) ∧
    (∀ h slot, s.fwm.staging = some (h, slot) → ∀ ok,
      (scionCode s slot ok = 0 → Runs (.stageComplete ok) s fun t =>
        fwmState t = fwsStaged ∧ t.fwm.staging = none ∧ t.fwm.other = some (verify573 s slot).2 ∧ findCmd t h = none) ∧
      (scionCode s slot ok ≠ 0 → Runs (.stageComplete ok) s fun t =>
        fwmState t = fwsNone ∧ t.fwm = { s.fwm with staging := none } ∧ findCmd t h = none
          ∧ fld t Reg.FWM_STATUS Fld.FWM_STATUS_LASTERR = scionCode s slot ok)) ∧
    (∀ c, Statements.Starts s ocGraft c → fwmState s = fwsStaged → s.fwm.graft = none → Runs .graft s fun t =>
      t.fwm = { s.fwm with graft := some c.handle } ∧ findCmd t c.handle = some { c with state := 2 } ∧ t.regs = s.regs) ∧
    (∀ c, Statements.Starts s ocGraft c → ¬(fwmState s = fwsStaged ∧ s.fwm.graft = none) → Runs .graft s fun t =>
      Statements.Completed t c 0 (if fwmState s = fwsNone then fcState else fcBusy) ∧ t.fwm = s.fwm) ∧
    (∀ h i, s.fwm.graft = some h → s.fwm.other = some i → atBoundary s = true → s.cellar.stores = [] →
      (∀ p ∈ s.rst.parts, p.stage = 0) → s.rst.waking = false → Runs .graftHandover s fun t =>
        fwmState t = fwsTrial ∧ t.fwm.run = some i ∧ t.fwm.other = s.fwm.run ∧ t.fwm.graft = none ∧ t.fwm.rounds = 0
          ∧ fld t Reg.FWM_STATUS Fld.FWM_STATUS_ACTIVEMP = 1 - fld s Reg.FWM_STATUS Fld.FWM_STATUS_ACTIVEMP
          ∧ regN t Reg.FWM_GRAFTS = min (regN s Reg.FWM_GRAFTS + 1) 0xFFFFFFFF ∧ findCmd t h = none ∧ MemSame s t)

/-- R576, R577, R581 to R583: ABANDON drops a staged image or orders a trial's fallback, and ends with STATE otherwise; SELECT
stores the ROLLBACK record of a good image while nothing is staged, and ends with the code of what fails otherwise; the scion's confirmation, after two rounds within the window, stores ROLLBACK and
clears MIGRATE; the scion's abandonment and the end of the window order the fallback, and at the boundary the rootstock is
active again. -/
def Statements.TrialEnds : Prop :=
  ∀ s : State, alive s = true →
    (∀ c, Statements.Starts s ocAbandon c → fwmState s = fwsStaged → Runs .abandon s fun t =>
      fwmState t = fwsNone ∧ t.fwm = { s.fwm with other := none } ∧ Statements.Completed t c 0 0
        ∧ regN t Reg.FWM_SCION = 0) ∧
    (∀ c, Statements.Starts s ocAbandon c → fwmState s = fwsTrial → s.fwm.confirming = false → Runs .abandon s fun t =>
      t.fwm = { s.fwm with fallDue := true } ∧ Statements.Completed t c 0 0) ∧
    (∀ c, Statements.Starts s ocAbandon c → fwmState s ≠ fwsStaged → (fwmState s ≠ fwsTrial ∨ s.fwm.confirming = true) →
      Runs .abandon s fun t => Statements.Completed t c 0 fcState ∧ t.fwm = s.fwm ∧ fwmState t = fwmState s) ∧
    (∀ c, Statements.Starts s ocSelect c → fwmState s = fwsNone → (verify573 s (c.num 8 1 % 2)).1 ≠ 0 →
      Runs .select s fun t => Statements.Completed t c 0 (verify573 s (c.num 8 1 % 2)).1 ∧ t.cellar = s.cellar) ∧
    (∀ c, Statements.Starts s ocSelect c → fwmState s = fwsNone → (verify573 s (c.num 8 1 % 2)).1 = 0 → Runs .select s fun t =>
      findCmd t c.handle = some { c with state := 2 } ∧ ∃ q, t.cellar = { s.cellar with stores := s.cellar.stores ++ [q] }
        ∧ q.kind = ckRollback ∧ q.handle = some c.handle ∧ q.body = rollbackBody s (verify573 s (c.num 8 1 % 2)).2) ∧
    (∀ c, Statements.Starts s ocSelect c → fwmState s ≠ fwsNone → Runs .select s fun t =>
      Statements.Completed t c 0 fcBusy ∧ t.cellar = s.cellar) ∧
    (∀ i, s.fwm.run = some i → fwmState s = fwsTrial → s.fwm.confirming = false → s.fwm.fallDue = false → 2 ≤ s.fwm.rounds →
      s.fwm.left ≠ 0 → Runs .fwmConfirm s fun t =>
        t.fwm = { s.fwm with confirming := true } ∧ t.regs = s.regs ∧ ∃ x y,
          t.cellar = { s.cellar with stores := s.cellar.stores ++ [x, y] } ∧ x.kind = ckRollback ∧ x.body = rollbackBody s i
            ∧ y.kind = ckMigrate ∧ y.body = []) ∧
    (fwmState s = fwsTrial → s.fwm.confirming = false → Runs .fwmAbandon s fun t =>
      t = { s with fwm := { s.fwm with fallDue := true }, msix := t.msix, edge := t.edge }) ∧
    (fwmState s = fwsTrial → s.fwm.confirming = false → s.fwm.left = 0 → Runs .trialExpiry s fun t =>
      t = { s with fwm := { s.fwm with fallDue := true }, msix := t.msix, edge := t.edge }) ∧
    (s.fwm.fallDue = true → fwmState s = fwsTrial → atBoundary s = true → s.fwm.since = [] → Runs .fallback s fun t =>
      fwmState t = fwsNone ∧ t.fwm.run = s.fwm.other ∧ t.fwm.other = none ∧ t.fwm.fallDue = false
        ∧ fld t Reg.FWM_STATUS Fld.FWM_STATUS_ACTIVEMP = 1 - fld s Reg.FWM_STATUS Fld.FWM_STATUS_ACTIVEMP
        ∧ regN t Reg.FWM_FALLBACKS = min (regN s Reg.FWM_FALLBACKS + 1) 0xFFFFFFFF ∧ MemSame s t)

/-- Staging and grafting, and how a trial ends. -/
def Obligations.FirmwareChange : Prop := Statements.StageAndGraft ∧ Statements.TrialEnds

end
end

