-- ==== Sys2Proof/Laws/Bits.lean ====
section
/-! SUPPORT. Laws of bit fields: a field read after a field written. -/

namespace Sys2Proof.Machine

set_option Elab.async false

/-- A number as what lies below a field, the field, and what lies above it. -/
theorem split_bits (v lo w : Nat) :
    v = v % 2 ^ lo + 2 ^ lo * (v / 2 ^ lo % 2 ^ w) + 2 ^ lo * 2 ^ w * (v / 2 ^ lo / 2 ^ w) := by
  have h1 := Nat.mod_add_div v (2 ^ lo)
  have h2 := Nat.mod_add_div (v / 2 ^ lo) (2 ^ w)
  calc v = v % 2 ^ lo + 2 ^ lo * (v / 2 ^ lo) := h1.symm
    _ = v % 2 ^ lo + 2 ^ lo * (v / 2 ^ lo % 2 ^ w + 2 ^ w * (v / 2 ^ lo / 2 ^ w)) := by rw [h2]
    _ = _ := by ring

/-- A number with a field replaced, in the same three parts. -/
theorem putBits_eq (v hi lo x : Nat) :
    putBits v hi lo x = v % 2 ^ lo + 2 ^ lo * (x % 2 ^ (hi + 1 - lo))
      + 2 ^ lo * 2 ^ (hi + 1 - lo) * (v / 2 ^ lo / 2 ^ (hi + 1 - lo)) := by
  have h := split_bits v lo (hi + 1 - lo)
  simp only [putBits, bitsN]
  generalize v / 2 ^ lo % 2 ^ (hi + 1 - lo) = b at *
  generalize v / 2 ^ lo / 2 ^ (hi + 1 - lo) = c at *
  generalize v % 2 ^ lo = a at *
  subst h
  have : a + 2 ^ lo * b + 2 ^ lo * 2 ^ (hi + 1 - lo) * c - b * 2 ^ lo = a + 2 ^ lo * 2 ^ (hi + 1 - lo) * c := by
    rw [Nat.mul_comm b]; omega
  rw [this]; ring

theorem bitsN_lt (v hi lo : Nat) : bitsN v hi lo < 2 ^ (hi + 1 - lo) := Nat.mod_lt _ (by positivity)

/-- A field reads as what was written, cut to its width. -/
@[simp] theorem bitsN_putBits (v hi lo x : Nat) : bitsN (putBits v hi lo x) hi lo = x % 2 ^ (hi + 1 - lo) := by
  rw [putBits_eq]; unfold bitsN
  have hlt : x % 2 ^ (hi + 1 - lo) < 2 ^ (hi + 1 - lo) := Nat.mod_lt _ (by positivity)
  generalize x % 2 ^ (hi + 1 - lo) = b' at *
  have e : v % 2 ^ lo + 2 ^ lo * b' + 2 ^ lo * 2 ^ (hi + 1 - lo) * (v / 2 ^ lo / 2 ^ (hi + 1 - lo))
      = v % 2 ^ lo + 2 ^ lo * (b' + 2 ^ (hi + 1 - lo) * (v / 2 ^ lo / 2 ^ (hi + 1 - lo))) := by ring
  rw [e, Nat.add_mul_div_left _ _ (by positivity), Nat.div_eq_of_lt (Nat.mod_lt _ (by positivity)), Nat.zero_add,
    Nat.add_mul_mod_self_left, Nat.mod_eq_of_lt hlt]

/-- A field wholly below the one written keeps its value. -/
theorem bitsN_putBits_below (v hi lo x hi' lo' : Nat) (h : hi' < lo) (h' : lo' ≤ hi') :
    bitsN (putBits v hi lo x) hi' lo' = bitsN v hi' lo' := by
  have key (w : Nat) : w / 2 ^ lo' % 2 ^ (hi' + 1 - lo') = w % 2 ^ (hi' + 1) / 2 ^ lo' := by
    conv_rhs => rw [show hi' + 1 = lo' + (hi' + 1 - lo') by omega, pow_add, Nat.mod_mul_right_div_self]
  have hd : 2 ^ lo = 2 ^ (hi' + 1) * 2 ^ (lo - (hi' + 1)) := by rw [← pow_add]; congr 1; omega
  unfold bitsN
  rw [key, key, putBits_eq]
  congr 1
  rw [show v % 2 ^ lo + 2 ^ lo * (x % 2 ^ (hi + 1 - lo))
      + 2 ^ lo * 2 ^ (hi + 1 - lo) * (v / 2 ^ lo / 2 ^ (hi + 1 - lo))
      = v % 2 ^ lo + 2 ^ (hi' + 1) * (2 ^ (lo - (hi' + 1)) * (x % 2 ^ (hi + 1 - lo)
        + 2 ^ (hi + 1 - lo) * (v / 2 ^ lo / 2 ^ (hi + 1 - lo)))) by rw [hd]; ring,
    Nat.add_mul_mod_self_left]
  exact Nat.mod_mod_of_dvd _ (pow_dvd_pow 2 (by omega))

/-- A field wholly above the one written keeps its value. -/
theorem bitsN_putBits_above (v hi lo x hi' lo' : Nat) (h : hi < lo') (hl : lo ≤ hi) :
    bitsN (putBits v hi lo x) hi' lo' = bitsN v hi' lo' := by
  unfold bitsN
  congr 1
  have hd : 2 ^ lo' = 2 ^ (hi + 1) * 2 ^ (lo' - (hi + 1)) := by rw [← pow_add]; congr 1; omega
  have hc : 2 ^ (hi + 1) = 2 ^ lo * 2 ^ (hi + 1 - lo) := by rw [← pow_add]; congr 1; omega
  rw [hd, ← Nat.div_div_eq_div_mul, ← Nat.div_div_eq_div_mul]
  congr 1
  have hx : v % 2 ^ lo + 2 ^ lo * (x % 2 ^ (hi + 1 - lo)) < 2 ^ (hi + 1) := by
    have h1 : v % 2 ^ lo < 2 ^ lo := Nat.mod_lt _ (by positivity)
    have h2 : x % 2 ^ (hi + 1 - lo) + 1 ≤ 2 ^ (hi + 1 - lo) := Nat.mod_lt _ (by positivity)
    calc _ < 2 ^ lo + 2 ^ lo * (x % 2 ^ (hi + 1 - lo)) := by omega
      _ = 2 ^ lo * (x % 2 ^ (hi + 1 - lo) + 1) := by ring
      _ ≤ 2 ^ lo * 2 ^ (hi + 1 - lo) := Nat.mul_le_mul_left _ h2
      _ = _ := hc.symm
  rw [putBits_eq, ← hc, Nat.add_mul_div_left _ _ (by positivity), Nat.div_eq_of_lt hx, Nat.zero_add,
    Nat.div_div_eq_div_mul, ← hc]

/-- A word stays a word. -/
theorem putBits_lt (v hi lo x n : Nat) (hv : v < 2 ^ n) (hh : hi < n) (hl : lo ≤ hi) : putBits v hi lo x < 2 ^ n := by
  have hn : 2 ^ n = 2 ^ (hi + 1) * 2 ^ (n - (hi + 1)) := by rw [← pow_add]; congr 1; omega
  have hc : 2 ^ (hi + 1) = 2 ^ lo * 2 ^ (hi + 1 - lo) := by rw [← pow_add]; congr 1; omega
  have hq : putBits v hi lo x / 2 ^ (hi + 1) = v / 2 ^ (hi + 1) := by
    have := bitsN_putBits_above v hi lo x (hi + n + 1) (hi + 1) (by omega) hl
    have big : ∀ w, w < 2 ^ (hi + 1) * 2 ^ n * 2 → bitsN w (hi + n + 1) (hi + 1) = w / 2 ^ (hi + 1) := by
      intro w hw
      unfold bitsN
      refine Nat.mod_eq_of_lt (Nat.div_lt_of_lt_mul ?_)
      rw [← pow_add]
      refine lt_of_lt_of_le hw ?_
      rw [← pow_add, ← pow_succ]
      exact Nat.pow_le_pow_right (by omega) (by omega)
    have hp : putBits v hi lo x ≤ v + 2 ^ (hi + 1) := by
      rw [putBits_eq]
      have h0 := split_bits v lo (hi + 1 - lo)
      have h1 : 2 ^ lo * (x % 2 ^ (hi + 1 - lo)) ≤ 2 ^ (hi + 1) := by
        rw [hc]; exact Nat.mul_le_mul_left _ (Nat.le_of_lt (Nat.mod_lt _ (by positivity)))
      generalize 2 ^ lo * 2 ^ (hi + 1 - lo) * (v / 2 ^ lo / 2 ^ (hi + 1 - lo)) = c at *
      generalize 2 ^ lo * (v / 2 ^ lo % 2 ^ (hi + 1 - lo)) = b at *
      omega
    have e1 : 1 ≤ 2 ^ n := Nat.one_le_two_pow
    have e2 : 1 ≤ 2 ^ (hi + 1) := Nat.one_le_two_pow
    have e3 : 2 ^ n ≤ 2 ^ (hi + 1) * 2 ^ n := Nat.le_mul_of_pos_left _ (by positivity)
    have e4 : 2 ^ (hi + 1) ≤ 2 ^ (hi + 1) * 2 ^ n := Nat.le_mul_of_pos_right _ (by positivity)
    rw [big _ (by omega), big _ (by omega)] at this
    exact this
  rw [hn] at hv ⊢
  have : v / 2 ^ (hi + 1) < 2 ^ (n - (hi + 1)) := Nat.div_lt_of_lt_mul hv
  rw [← hq] at this
  exact (Nat.div_lt_iff_lt_mul (by positivity)).1 this |>.trans_eq (Nat.mul_comm _ _)

/-- The field of a register reads as what was written to it. -/
theorem Fld.get_put (f : Fld) (w : BitVec 32) (x : Nat) (h : f.lo ≤ f.hi) (h' : f.hi < 32) :
    f.get (f.put w x) = x % 2 ^ (f.hi + 1 - f.lo) := by
  have := putBits_lt w.toNat f.hi f.lo x 32 w.isLt h' h
  simp only [Fld.get, Fld.put, BitVec.toNat_ofNat, Nat.mod_eq_of_lt this, bitsN_putBits]

/-- Another field of the register keeps its value. -/
theorem Fld.get_put_ne (f g : Fld) (w : BitVec 32) (x : Nat) (h : f.lo ≤ f.hi) (h' : f.hi < 32) (hg : g.lo ≤ g.hi)
    (hd : g.hi < f.lo ∨ f.hi < g.lo) : g.get (f.put w x) = g.get w := by
  have := putBits_lt w.toNat f.hi f.lo x 32 w.isLt h' h
  simp only [Fld.get, Fld.put, BitVec.toNat_ofNat, Nat.mod_eq_of_lt this]
  rcases hd with hd | hd
  · exact bitsN_putBits_below _ _ _ _ _ _ hd hg
  · exact bitsN_putBits_above _ _ _ _ _ _ hd h

/-! ## One-bit fields -/

/-- A one-bit field is a bit of the word. -/
theorem Fld.get_bit (i : Nat) (w : BitVec 32) : Fld.get ⟨i, i⟩ w = (w.toNat.testBit i).toNat := by
  simp only [Fld.get, bitsN, Nat.add_sub_cancel_left, pow_one]
  rw [← Nat.shiftRight_eq_div_pow, Nat.testBit]
  simp only [Nat.one_and_eq_mod_two]
  rcases Nat.mod_two_eq_zero_or_one (w.toNat >>> i) with h | h <;> simp [h]

/-- A bit that is set in what the device adds reads 1. -/
theorem Fld.get_or_bit (i : Nat) (h : i < 32) (w : BitVec 32) : Fld.get ⟨i, i⟩ (w ||| BitVec.ofNat 32 (2 ^ i)) = 1 := by
  rw [Fld.get_bit, BitVec.toNat_or, Nat.testBit_or, BitVec.toNat_ofNat,
    Nat.mod_eq_of_lt (Nat.pow_lt_pow_right (by omega) h), Nat.testBit_two_pow_self]
  simp

/-- A bit that is set stays set when bits are added. -/
theorem Fld.get_or_of_one (i : Nat) (w m : BitVec 32) (h : Fld.get ⟨i, i⟩ w = 1) : Fld.get ⟨i, i⟩ (w ||| m) = 1 := by
  rw [Fld.get_bit] at *
  rw [BitVec.toNat_or, Nat.testBit_or]
  have : w.toNat.testBit i = true := by cases hb : w.toNat.testBit i <;> simp_all
  simp [this]

/-- Another bit than the one added keeps its value. -/
theorem Fld.get_or_ne (i j : Nat) (hj : j < 32) (hij : i ≠ j) (w : BitVec 32) :
    Fld.get ⟨i, i⟩ (w ||| BitVec.ofNat 32 (2 ^ j)) = Fld.get ⟨i, i⟩ w := by
  rw [Fld.get_bit, Fld.get_bit, BitVec.toNat_or, Nat.testBit_or, BitVec.toNat_ofNat,
    Nat.mod_eq_of_lt (Nat.pow_lt_pow_right (by omega) hj), Nat.testBit_two_pow]
  simp [Ne.symm hij]

end Sys2Proof.Machine
end

