-- ==== Sys2Proof/Laws/Map.lean ====
section
/-! SUPPORT. Laws of the sparse maps: a read after a write, and the canonical form that every write keeps. -/

namespace Sys2Proof.Machine

set_option Elab.async false

variable {α : Type}

theorem kget_kins (d : Nat → α) (m : KMap α) (k j : Nat) (v : α) :
    kget d (kins k v m) j = if k = j then v else kget d m j := by
  induction m with
  | nil => simp [kins, kget]
  | cons x t ih =>
    obtain ⟨a, y⟩ := x
    simp only [kins]
    split
    · simp [kget]
    · split
      · next h => subst h; by_cases hj : k = j <;> simp [kget, hj]
      · next h => by_cases ha : a = j
                  · subst ha; simp [kget, h]
                  · simp [kget, ha, ih]

theorem kget_kdel (d : Nat → α) (m : KMap α) (k j : Nat) :
    kget d (kdel k m) j = if k = j then d j else kget d m j := by
  induction m with
  | nil => simp [kdel, kget]
  | cons x t ih =>
    obtain ⟨a, y⟩ := x
    simp only [kdel]
    by_cases ha : a = k
    · subst ha; by_cases hj : a = j
      · subst hj; simpa using ih
      · simp [ih, kget, hj]
    · by_cases hj : a = j
      · subst hj; simp [ha, kget, Ne.symm ha]
      · simp [ha, hj, kget, ih]

/-- A read after a write. -/
theorem kget_kset [DecidableEq α] (d : Nat → α) (m : KMap α) (k j : Nat) (v : α) :
    kget d (kset d m k v) j = if k = j then v else kget d m j := by
  unfold kset
  by_cases hv : v = d k
  · by_cases hj : k = j
    · subst hj; simp [hv, kget_kdel]
    · simp [hv, kget_kdel, hj]
  · simp [hv, kget_kins]

@[simp] theorem kget_kset_self [DecidableEq α] (d : Nat → α) (m : KMap α) (k : Nat) (v : α) :
    kget d (kset d m k v) k = v := by simp [kget_kset]

theorem kget_kset_ne [DecidableEq α] (d : Nat → α) (m : KMap α) {k j : Nat} (v : α) (h : k ≠ j) :
    kget d (kset d m k v) j = kget d m j := by simp [kget_kset, h]

theorem kfind_kins (m : KMap α) (k j : Nat) (v : α) :
    kfind (kins k v m) j = if k = j then some v else kfind m j := by
  induction m with
  | nil => simp [kins, kfind]
  | cons x t ih =>
    obtain ⟨a, y⟩ := x
    simp only [kins]
    split
    · simp [kfind]
    · split
      · next h => subst h; by_cases hj : k = j <;> simp [kfind, hj]
      · next h => by_cases ha : a = j
                  · subst ha; simp [kfind, h]
                  · simp [kfind, ha, ih]

theorem kfind_kdel (m : KMap α) (k j : Nat) : kfind (kdel k m) j = if k = j then none else kfind m j := by
  induction m with
  | nil => simp [kdel, kfind]
  | cons x t ih =>
    obtain ⟨a, y⟩ := x
    simp only [kdel]
    by_cases ha : a = k
    · subst ha; by_cases hj : a = j
      · subst hj; simpa using ih
      · simp [ih, kfind, hj]
    · by_cases hj : a = j
      · subst hj; simp [ha, kfind, Ne.symm ha]
      · simp [ha, hj, kfind, ih]

theorem kabove_mono {i k : Nat} (h : i ≤ k) : ∀ m : KMap α, kabove k m = true → kabove i m = true
  | [], _ => rfl
  | (a, x) :: t, hm => by
    simp only [kabove, Bool.and_eq_true, decide_eq_true_eq] at hm ⊢
    exact ⟨Nat.lt_of_le_of_lt h hm.1, kabove_mono h t hm.2⟩

theorem kabove_kins {i k : Nat} (v : α) (h : i < k) : ∀ m : KMap α, kabove i m = true → kabove i (kins k v m) = true
  | [], _ => by simp [kins, kabove, h]
  | (a, x) :: t, hm => by
    simp only [kabove, Bool.and_eq_true, decide_eq_true_eq] at hm
    simp only [kins]
    split
    · simp [kabove, h, hm]
    · split <;> simp [kabove, h, hm, kabove_kins v h t hm.2]

theorem kabove_kdel {i : Nat} (k : Nat) : ∀ m : KMap α, kabove i m = true → kabove i (kdel k m) = true
  | [], _ => rfl
  | (a, x) :: t, hm => by
    simp only [kabove, Bool.and_eq_true, decide_eq_true_eq] at hm
    simp only [kdel]
    split <;> simp [kabove, hm, kabove_kdel k t hm.2]

theorem kwf_kdel [DecidableEq α] (d : Nat → α) (k : Nat) : ∀ m : KMap α, kwf d m = true → kwf d (kdel k m) = true
  | [], _ => rfl
  | (a, x) :: t, hm => by
    simp only [kwf, Bool.and_eq_true] at hm
    simp only [kdel]
    split
    · exact kwf_kdel d k t hm.2
    · simp only [kwf, Bool.and_eq_true]
      exact ⟨⟨kabove_kdel k t hm.1.1, hm.1.2⟩, kwf_kdel d k t hm.2⟩

theorem kwf_kins [DecidableEq α] (d : Nat → α) {k : Nat} {v : α} (hv : v ≠ d k) :
    ∀ m : KMap α, kwf d m = true → kwf d (kins k v m) = true
  | [], _ => by simp [kins, kwf, kabove, hv]
  | (a, x) :: t, hm => by
    have h := hm
    simp only [kwf, Bool.and_eq_true] at hm
    simp only [kins]
    split
    · next hk =>
      have hab : kabove k ((a, x) :: t) = true := by
        simp [kabove, hk, kabove_mono (Nat.le_of_lt hk) t hm.1.1]
      show (kabove k ((a, x) :: t) && decide (v ≠ d k) && kwf d ((a, x) :: t)) = true
      simp [hab, hv, h]
    · split
      · next hk => subst hk; simp only [kwf, Bool.and_eq_true]; exact ⟨⟨hm.1.1, by simp [hv]⟩, hm.2⟩
      · next h1 h2 =>
        simp only [kwf, Bool.and_eq_true]
        exact ⟨⟨kabove_kins v (by omega) t hm.1.1, hm.1.2⟩, kwf_kins d hv t hm.2⟩

/-- A write keeps the canonical form. -/
theorem kwf_kset [DecidableEq α] (d : Nat → α) (m : KMap α) (k : Nat) (v : α) (h : kwf d m = true) :
    kwf d (kset d m k v) = true := by
  unfold kset
  split
  · exact kwf_kdel d k m h
  · next hv => exact kwf_kins d hv m h

theorem kabove_filter {i : Nat} (p : Nat × α → Bool) : ∀ m : KMap α, kabove i m = true → kabove i (m.filter p) = true
  | [], _ => rfl
  | (a, x) :: t, hm => by
    simp only [kabove, Bool.and_eq_true, decide_eq_true_eq] at hm
    simp only [List.filter_cons]
    split <;> simp [kabove, hm, kabove_filter p t hm.2]

/-- Taking entries out keeps the canonical form. -/
theorem kwf_filter [DecidableEq α] (d : Nat → α) (p : Nat × α → Bool) :
    ∀ m : KMap α, kwf d m = true → kwf d (m.filter p) = true
  | [], _ => rfl
  | (a, x) :: t, hm => by
    simp only [kwf, Bool.and_eq_true] at hm
    simp only [List.filter_cons]
    split
    · simp only [kwf, Bool.and_eq_true]
      exact ⟨⟨kabove_filter p t hm.1.1, hm.1.2⟩, kwf_filter d p t hm.2⟩
    · exact kwf_filter d p t hm.2

end Sys2Proof.Machine
end

