-- ==== Sys2Proof/Laws/State.lean ====
section
/-! SUPPORT. What each named update of the state leaves as it was, one lemma per field and update, and what a register
holds after it was written. -/

namespace Sys2Proof.Machine

set_option Elab.async false

variable (s : State)

/-! ## setReg -/

@[simp] theorem setReg_pending (a : Nat) (v : Word) : (setReg s a v).pending = s.pending := rfl
@[simp] theorem setReg_edge (a : Nat) (v : Word) : (setReg s a v).edge = s.edge := rfl
@[simp] theorem setReg_free (a : Nat) (v : Word) : (setReg s a v).free = s.free := rfl
@[simp] theorem setReg_latch (a : Nat) (v : Word) : (setReg s a v).latch = s.latch := rfl
@[simp] theorem setReg_rdata (a : Nat) (v : Word) : (setReg s a v).rdata = s.rdata := rfl
@[simp] theorem setReg_mem (a : Nat) (v : Word) : (setReg s a v).mem = s.mem := rfl
@[simp] theorem setReg_ecc (a : Nat) (v : Word) : (setReg s a v).ecc = s.ecc := rfl
@[simp] theorem setReg_frm (a : Nat) (v : Word) : (setReg s a v).frm = s.frm := rfl
@[simp] theorem setReg_boughs (a : Nat) (v : Word) : (setReg s a v).boughs = s.boughs := rfl
@[simp] theorem setReg_net (a : Nat) (v : Word) : (setReg s a v).net = s.net := rfl
@[simp] theorem setReg_bars (a : Nat) (v : Word) : (setReg s a v).bars = s.bars := rfl
@[simp] theorem setReg_integ (a : Nat) (v : Word) : (setReg s a v).integ = s.integ := rfl
@[simp] theorem setReg_carts (a : Nat) (v : Word) : (setReg s a v).carts = s.carts := rfl
@[simp] theorem setReg_loft (a : Nat) (v : Word) : (setReg s a v).loft = s.loft := rfl
@[simp] theorem setReg_fab (a : Nat) (v : Word) : (setReg s a v).fab = s.fab := rfl
@[simp] theorem setReg_step (a : Nat) (v : Word) : (setReg s a v).step = s.step := rfl
@[simp] theorem setReg_mill (a : Nat) (v : Word) : (setReg s a v).mill = s.mill := rfl
@[simp] theorem setReg_stash (a : Nat) (v : Word) : (setReg s a v).stash = s.stash := rfl
@[simp] theorem setReg_wain (a : Nat) (v : Word) : (setReg s a v).wain = s.wain := rfl
@[simp] theorem setReg_floor (a : Nat) (v : Word) : (setReg s a v).floor = s.floor := rfl
@[simp] theorem setReg_seed (a : Nat) (v : Word) : (setReg s a v).seed = s.seed := rfl
@[simp] theorem setReg_cellar (a : Nat) (v : Word) : (setReg s a v).cellar = s.cellar := rfl
@[simp] theorem setReg_signs (a : Nat) (v : Word) : (setReg s a v).signs = s.signs := rfl
@[simp] theorem setReg_fwm (a : Nat) (v : Word) : (setReg s a v).fwm = s.fwm := rfl
@[simp] theorem setReg_hsk (a : Nat) (v : Word) : (setReg s a v).hsk = s.hsk := rfl
@[simp] theorem setReg_rst (a : Nat) (v : Word) : (setReg s a v).rst = s.rst := rfl
@[simp] theorem setReg_host (a : Nat) (v : Word) : (setReg s a v).host = s.host := rfl
@[simp] theorem setReg_msix (a : Nat) (v : Word) : (setReg s a v).msix = s.msix := rfl
@[simp] theorem setReg_wire (a : Nat) (v : Word) : (setReg s a v).wire = s.wire := rfl

/-! ## setRegN -/

@[simp] theorem setRegN_pending (a v : Nat) : (setRegN s a v).pending = s.pending := rfl
@[simp] theorem setRegN_edge (a v : Nat) : (setRegN s a v).edge = s.edge := rfl
@[simp] theorem setRegN_free (a v : Nat) : (setRegN s a v).free = s.free := rfl
@[simp] theorem setRegN_latch (a v : Nat) : (setRegN s a v).latch = s.latch := rfl
@[simp] theorem setRegN_rdata (a v : Nat) : (setRegN s a v).rdata = s.rdata := rfl
@[simp] theorem setRegN_mem (a v : Nat) : (setRegN s a v).mem = s.mem := rfl
@[simp] theorem setRegN_ecc (a v : Nat) : (setRegN s a v).ecc = s.ecc := rfl
@[simp] theorem setRegN_frm (a v : Nat) : (setRegN s a v).frm = s.frm := rfl
@[simp] theorem setRegN_boughs (a v : Nat) : (setRegN s a v).boughs = s.boughs := rfl
@[simp] theorem setRegN_net (a v : Nat) : (setRegN s a v).net = s.net := rfl
@[simp] theorem setRegN_bars (a v : Nat) : (setRegN s a v).bars = s.bars := rfl
@[simp] theorem setRegN_integ (a v : Nat) : (setRegN s a v).integ = s.integ := rfl
@[simp] theorem setRegN_carts (a v : Nat) : (setRegN s a v).carts = s.carts := rfl
@[simp] theorem setRegN_loft (a v : Nat) : (setRegN s a v).loft = s.loft := rfl
@[simp] theorem setRegN_fab (a v : Nat) : (setRegN s a v).fab = s.fab := rfl
@[simp] theorem setRegN_step (a v : Nat) : (setRegN s a v).step = s.step := rfl
@[simp] theorem setRegN_mill (a v : Nat) : (setRegN s a v).mill = s.mill := rfl
@[simp] theorem setRegN_stash (a v : Nat) : (setRegN s a v).stash = s.stash := rfl
@[simp] theorem setRegN_wain (a v : Nat) : (setRegN s a v).wain = s.wain := rfl
@[simp] theorem setRegN_floor (a v : Nat) : (setRegN s a v).floor = s.floor := rfl
@[simp] theorem setRegN_seed (a v : Nat) : (setRegN s a v).seed = s.seed := rfl
@[simp] theorem setRegN_cellar (a v : Nat) : (setRegN s a v).cellar = s.cellar := rfl
@[simp] theorem setRegN_signs (a v : Nat) : (setRegN s a v).signs = s.signs := rfl
@[simp] theorem setRegN_fwm (a v : Nat) : (setRegN s a v).fwm = s.fwm := rfl
@[simp] theorem setRegN_hsk (a v : Nat) : (setRegN s a v).hsk = s.hsk := rfl
@[simp] theorem setRegN_rst (a v : Nat) : (setRegN s a v).rst = s.rst := rfl
@[simp] theorem setRegN_host (a v : Nat) : (setRegN s a v).host = s.host := rfl
@[simp] theorem setRegN_msix (a v : Nat) : (setRegN s a v).msix = s.msix := rfl
@[simp] theorem setRegN_wire (a v : Nat) : (setRegN s a v).wire = s.wire := rfl

/-! ## setFld -/

@[simp] theorem setFld_pending (a : Nat) (f : Fld) (v : Nat) : (setFld s a f v).pending = s.pending := rfl
@[simp] theorem setFld_edge (a : Nat) (f : Fld) (v : Nat) : (setFld s a f v).edge = s.edge := rfl
@[simp] theorem setFld_free (a : Nat) (f : Fld) (v : Nat) : (setFld s a f v).free = s.free := rfl
@[simp] theorem setFld_latch (a : Nat) (f : Fld) (v : Nat) : (setFld s a f v).latch = s.latch := rfl
@[simp] theorem setFld_rdata (a : Nat) (f : Fld) (v : Nat) : (setFld s a f v).rdata = s.rdata := rfl
@[simp] theorem setFld_mem (a : Nat) (f : Fld) (v : Nat) : (setFld s a f v).mem = s.mem := rfl
@[simp] theorem setFld_ecc (a : Nat) (f : Fld) (v : Nat) : (setFld s a f v).ecc = s.ecc := rfl
@[simp] theorem setFld_frm (a : Nat) (f : Fld) (v : Nat) : (setFld s a f v).frm = s.frm := rfl
@[simp] theorem setFld_boughs (a : Nat) (f : Fld) (v : Nat) : (setFld s a f v).boughs = s.boughs := rfl
@[simp] theorem setFld_net (a : Nat) (f : Fld) (v : Nat) : (setFld s a f v).net = s.net := rfl
@[simp] theorem setFld_bars (a : Nat) (f : Fld) (v : Nat) : (setFld s a f v).bars = s.bars := rfl
@[simp] theorem setFld_integ (a : Nat) (f : Fld) (v : Nat) : (setFld s a f v).integ = s.integ := rfl
@[simp] theorem setFld_carts (a : Nat) (f : Fld) (v : Nat) : (setFld s a f v).carts = s.carts := rfl
@[simp] theorem setFld_loft (a : Nat) (f : Fld) (v : Nat) : (setFld s a f v).loft = s.loft := rfl
@[simp] theorem setFld_fab (a : Nat) (f : Fld) (v : Nat) : (setFld s a f v).fab = s.fab := rfl
@[simp] theorem setFld_step (a : Nat) (f : Fld) (v : Nat) : (setFld s a f v).step = s.step := rfl
@[simp] theorem setFld_mill (a : Nat) (f : Fld) (v : Nat) : (setFld s a f v).mill = s.mill := rfl
@[simp] theorem setFld_stash (a : Nat) (f : Fld) (v : Nat) : (setFld s a f v).stash = s.stash := rfl
@[simp] theorem setFld_wain (a : Nat) (f : Fld) (v : Nat) : (setFld s a f v).wain = s.wain := rfl
@[simp] theorem setFld_floor (a : Nat) (f : Fld) (v : Nat) : (setFld s a f v).floor = s.floor := rfl
@[simp] theorem setFld_seed (a : Nat) (f : Fld) (v : Nat) : (setFld s a f v).seed = s.seed := rfl
@[simp] theorem setFld_cellar (a : Nat) (f : Fld) (v : Nat) : (setFld s a f v).cellar = s.cellar := rfl
@[simp] theorem setFld_signs (a : Nat) (f : Fld) (v : Nat) : (setFld s a f v).signs = s.signs := rfl
@[simp] theorem setFld_fwm (a : Nat) (f : Fld) (v : Nat) : (setFld s a f v).fwm = s.fwm := rfl
@[simp] theorem setFld_hsk (a : Nat) (f : Fld) (v : Nat) : (setFld s a f v).hsk = s.hsk := rfl
@[simp] theorem setFld_rst (a : Nat) (f : Fld) (v : Nat) : (setFld s a f v).rst = s.rst := rfl
@[simp] theorem setFld_host (a : Nat) (f : Fld) (v : Nat) : (setFld s a f v).host = s.host := rfl
@[simp] theorem setFld_msix (a : Nat) (f : Fld) (v : Nat) : (setFld s a f v).msix = s.msix := rfl
@[simp] theorem setFld_wire (a : Nat) (f : Fld) (v : Nat) : (setFld s a f v).wire = s.wire := rfl

/-! ## setReg64 -/

@[simp] theorem setReg64_pending (a v : Nat) : (setReg64 s a v).pending = s.pending := rfl
@[simp] theorem setReg64_edge (a v : Nat) : (setReg64 s a v).edge = s.edge := rfl
@[simp] theorem setReg64_free (a v : Nat) : (setReg64 s a v).free = s.free := rfl
@[simp] theorem setReg64_latch (a v : Nat) : (setReg64 s a v).latch = s.latch := rfl
@[simp] theorem setReg64_rdata (a v : Nat) : (setReg64 s a v).rdata = s.rdata := rfl
@[simp] theorem setReg64_mem (a v : Nat) : (setReg64 s a v).mem = s.mem := rfl
@[simp] theorem setReg64_ecc (a v : Nat) : (setReg64 s a v).ecc = s.ecc := rfl
@[simp] theorem setReg64_frm (a v : Nat) : (setReg64 s a v).frm = s.frm := rfl
@[simp] theorem setReg64_boughs (a v : Nat) : (setReg64 s a v).boughs = s.boughs := rfl
@[simp] theorem setReg64_net (a v : Nat) : (setReg64 s a v).net = s.net := rfl
@[simp] theorem setReg64_bars (a v : Nat) : (setReg64 s a v).bars = s.bars := rfl
@[simp] theorem setReg64_integ (a v : Nat) : (setReg64 s a v).integ = s.integ := rfl
@[simp] theorem setReg64_carts (a v : Nat) : (setReg64 s a v).carts = s.carts := rfl
@[simp] theorem setReg64_loft (a v : Nat) : (setReg64 s a v).loft = s.loft := rfl
@[simp] theorem setReg64_fab (a v : Nat) : (setReg64 s a v).fab = s.fab := rfl
@[simp] theorem setReg64_step (a v : Nat) : (setReg64 s a v).step = s.step := rfl
@[simp] theorem setReg64_mill (a v : Nat) : (setReg64 s a v).mill = s.mill := rfl
@[simp] theorem setReg64_stash (a v : Nat) : (setReg64 s a v).stash = s.stash := rfl
@[simp] theorem setReg64_wain (a v : Nat) : (setReg64 s a v).wain = s.wain := rfl
@[simp] theorem setReg64_floor (a v : Nat) : (setReg64 s a v).floor = s.floor := rfl
@[simp] theorem setReg64_seed (a v : Nat) : (setReg64 s a v).seed = s.seed := rfl
@[simp] theorem setReg64_cellar (a v : Nat) : (setReg64 s a v).cellar = s.cellar := rfl
@[simp] theorem setReg64_signs (a v : Nat) : (setReg64 s a v).signs = s.signs := rfl
@[simp] theorem setReg64_fwm (a v : Nat) : (setReg64 s a v).fwm = s.fwm := rfl
@[simp] theorem setReg64_hsk (a v : Nat) : (setReg64 s a v).hsk = s.hsk := rfl
@[simp] theorem setReg64_rst (a v : Nat) : (setReg64 s a v).rst = s.rst := rfl
@[simp] theorem setReg64_host (a v : Nat) : (setReg64 s a v).host = s.host := rfl
@[simp] theorem setReg64_msix (a v : Nat) : (setReg64 s a v).msix = s.msix := rfl
@[simp] theorem setReg64_wire (a v : Nat) : (setReg64 s a v).wire = s.wire := rfl

/-! ## bump -/

@[simp] theorem bump_pending (a n : Nat) : (bump s a n).pending = s.pending := rfl
@[simp] theorem bump_edge (a n : Nat) : (bump s a n).edge = s.edge := rfl
@[simp] theorem bump_free (a n : Nat) : (bump s a n).free = s.free := rfl
@[simp] theorem bump_latch (a n : Nat) : (bump s a n).latch = s.latch := rfl
@[simp] theorem bump_rdata (a n : Nat) : (bump s a n).rdata = s.rdata := rfl
@[simp] theorem bump_mem (a n : Nat) : (bump s a n).mem = s.mem := rfl
@[simp] theorem bump_ecc (a n : Nat) : (bump s a n).ecc = s.ecc := rfl
@[simp] theorem bump_frm (a n : Nat) : (bump s a n).frm = s.frm := rfl
@[simp] theorem bump_boughs (a n : Nat) : (bump s a n).boughs = s.boughs := rfl
@[simp] theorem bump_net (a n : Nat) : (bump s a n).net = s.net := rfl
@[simp] theorem bump_bars (a n : Nat) : (bump s a n).bars = s.bars := rfl
@[simp] theorem bump_integ (a n : Nat) : (bump s a n).integ = s.integ := rfl
@[simp] theorem bump_carts (a n : Nat) : (bump s a n).carts = s.carts := rfl
@[simp] theorem bump_loft (a n : Nat) : (bump s a n).loft = s.loft := rfl
@[simp] theorem bump_fab (a n : Nat) : (bump s a n).fab = s.fab := rfl
@[simp] theorem bump_step (a n : Nat) : (bump s a n).step = s.step := rfl
@[simp] theorem bump_mill (a n : Nat) : (bump s a n).mill = s.mill := rfl
@[simp] theorem bump_stash (a n : Nat) : (bump s a n).stash = s.stash := rfl
@[simp] theorem bump_wain (a n : Nat) : (bump s a n).wain = s.wain := rfl
@[simp] theorem bump_floor (a n : Nat) : (bump s a n).floor = s.floor := rfl
@[simp] theorem bump_seed (a n : Nat) : (bump s a n).seed = s.seed := rfl
@[simp] theorem bump_cellar (a n : Nat) : (bump s a n).cellar = s.cellar := rfl
@[simp] theorem bump_signs (a n : Nat) : (bump s a n).signs = s.signs := rfl
@[simp] theorem bump_fwm (a n : Nat) : (bump s a n).fwm = s.fwm := rfl
@[simp] theorem bump_hsk (a n : Nat) : (bump s a n).hsk = s.hsk := rfl
@[simp] theorem bump_rst (a n : Nat) : (bump s a n).rst = s.rst := rfl
@[simp] theorem bump_host (a n : Nat) : (bump s a n).host = s.host := rfl
@[simp] theorem bump_msix (a n : Nat) : (bump s a n).msix = s.msix := rfl
@[simp] theorem bump_wire (a n : Nat) : (bump s a n).wire = s.wire := rfl

/-! ## bump64 -/

@[simp] theorem bump64_pending (a n : Nat) : (bump64 s a n).pending = s.pending := rfl
@[simp] theorem bump64_edge (a n : Nat) : (bump64 s a n).edge = s.edge := rfl
@[simp] theorem bump64_free (a n : Nat) : (bump64 s a n).free = s.free := rfl
@[simp] theorem bump64_latch (a n : Nat) : (bump64 s a n).latch = s.latch := rfl
@[simp] theorem bump64_rdata (a n : Nat) : (bump64 s a n).rdata = s.rdata := rfl
@[simp] theorem bump64_mem (a n : Nat) : (bump64 s a n).mem = s.mem := rfl
@[simp] theorem bump64_ecc (a n : Nat) : (bump64 s a n).ecc = s.ecc := rfl
@[simp] theorem bump64_frm (a n : Nat) : (bump64 s a n).frm = s.frm := rfl
@[simp] theorem bump64_boughs (a n : Nat) : (bump64 s a n).boughs = s.boughs := rfl
@[simp] theorem bump64_net (a n : Nat) : (bump64 s a n).net = s.net := rfl
@[simp] theorem bump64_bars (a n : Nat) : (bump64 s a n).bars = s.bars := rfl
@[simp] theorem bump64_integ (a n : Nat) : (bump64 s a n).integ = s.integ := rfl
@[simp] theorem bump64_carts (a n : Nat) : (bump64 s a n).carts = s.carts := rfl
@[simp] theorem bump64_loft (a n : Nat) : (bump64 s a n).loft = s.loft := rfl
@[simp] theorem bump64_fab (a n : Nat) : (bump64 s a n).fab = s.fab := rfl
@[simp] theorem bump64_step (a n : Nat) : (bump64 s a n).step = s.step := rfl
@[simp] theorem bump64_mill (a n : Nat) : (bump64 s a n).mill = s.mill := rfl
@[simp] theorem bump64_stash (a n : Nat) : (bump64 s a n).stash = s.stash := rfl
@[simp] theorem bump64_wain (a n : Nat) : (bump64 s a n).wain = s.wain := rfl
@[simp] theorem bump64_floor (a n : Nat) : (bump64 s a n).floor = s.floor := rfl
@[simp] theorem bump64_seed (a n : Nat) : (bump64 s a n).seed = s.seed := rfl
@[simp] theorem bump64_cellar (a n : Nat) : (bump64 s a n).cellar = s.cellar := rfl
@[simp] theorem bump64_signs (a n : Nat) : (bump64 s a n).signs = s.signs := rfl
@[simp] theorem bump64_fwm (a n : Nat) : (bump64 s a n).fwm = s.fwm := rfl
@[simp] theorem bump64_hsk (a n : Nat) : (bump64 s a n).hsk = s.hsk := rfl
@[simp] theorem bump64_rst (a n : Nat) : (bump64 s a n).rst = s.rst := rfl
@[simp] theorem bump64_host (a n : Nat) : (bump64 s a n).host = s.host := rfl
@[simp] theorem bump64_msix (a n : Nat) : (bump64 s a n).msix = s.msix := rfl
@[simp] theorem bump64_wire (a n : Nat) : (bump64 s a n).wire = s.wire := rfl

/-! ## raise -/

@[simp] theorem raise_pending (a m : Nat) : (raise s a m).pending = s.pending := rfl
@[simp] theorem raise_edge (a m : Nat) : (raise s a m).edge = s.edge := rfl
@[simp] theorem raise_free (a m : Nat) : (raise s a m).free = s.free := rfl
@[simp] theorem raise_latch (a m : Nat) : (raise s a m).latch = s.latch := rfl
@[simp] theorem raise_rdata (a m : Nat) : (raise s a m).rdata = s.rdata := rfl
@[simp] theorem raise_mem (a m : Nat) : (raise s a m).mem = s.mem := rfl
@[simp] theorem raise_ecc (a m : Nat) : (raise s a m).ecc = s.ecc := rfl
@[simp] theorem raise_frm (a m : Nat) : (raise s a m).frm = s.frm := rfl
@[simp] theorem raise_boughs (a m : Nat) : (raise s a m).boughs = s.boughs := rfl
@[simp] theorem raise_net (a m : Nat) : (raise s a m).net = s.net := rfl
@[simp] theorem raise_bars (a m : Nat) : (raise s a m).bars = s.bars := rfl
@[simp] theorem raise_integ (a m : Nat) : (raise s a m).integ = s.integ := rfl
@[simp] theorem raise_carts (a m : Nat) : (raise s a m).carts = s.carts := rfl
@[simp] theorem raise_loft (a m : Nat) : (raise s a m).loft = s.loft := rfl
@[simp] theorem raise_fab (a m : Nat) : (raise s a m).fab = s.fab := rfl
@[simp] theorem raise_step (a m : Nat) : (raise s a m).step = s.step := rfl
@[simp] theorem raise_mill (a m : Nat) : (raise s a m).mill = s.mill := rfl
@[simp] theorem raise_stash (a m : Nat) : (raise s a m).stash = s.stash := rfl
@[simp] theorem raise_wain (a m : Nat) : (raise s a m).wain = s.wain := rfl
@[simp] theorem raise_floor (a m : Nat) : (raise s a m).floor = s.floor := rfl
@[simp] theorem raise_seed (a m : Nat) : (raise s a m).seed = s.seed := rfl
@[simp] theorem raise_cellar (a m : Nat) : (raise s a m).cellar = s.cellar := rfl
@[simp] theorem raise_signs (a m : Nat) : (raise s a m).signs = s.signs := rfl
@[simp] theorem raise_fwm (a m : Nat) : (raise s a m).fwm = s.fwm := rfl
@[simp] theorem raise_hsk (a m : Nat) : (raise s a m).hsk = s.hsk := rfl
@[simp] theorem raise_rst (a m : Nat) : (raise s a m).rst = s.rst := rfl
@[simp] theorem raise_host (a m : Nat) : (raise s a m).host = s.host := rfl
@[simp] theorem raise_msix (a m : Nat) : (raise s a m).msix = s.msix := rfl
@[simp] theorem raise_wire (a m : Nat) : (raise s a m).wire = s.wire := rfl

/-! ## setBough -/

@[simp] theorem setBough_pending (b : Nat) (x : BoughSt) : (setBough s b x).pending = s.pending := rfl
@[simp] theorem setBough_edge (b : Nat) (x : BoughSt) : (setBough s b x).edge = s.edge := rfl
@[simp] theorem setBough_free (b : Nat) (x : BoughSt) : (setBough s b x).free = s.free := rfl
@[simp] theorem setBough_regs (b : Nat) (x : BoughSt) : (setBough s b x).regs = s.regs := rfl
@[simp] theorem setBough_latch (b : Nat) (x : BoughSt) : (setBough s b x).latch = s.latch := rfl
@[simp] theorem setBough_rdata (b : Nat) (x : BoughSt) : (setBough s b x).rdata = s.rdata := rfl
@[simp] theorem setBough_mem (b : Nat) (x : BoughSt) : (setBough s b x).mem = s.mem := rfl
@[simp] theorem setBough_ecc (b : Nat) (x : BoughSt) : (setBough s b x).ecc = s.ecc := rfl
@[simp] theorem setBough_frm (b : Nat) (x : BoughSt) : (setBough s b x).frm = s.frm := rfl
@[simp] theorem setBough_net (b : Nat) (x : BoughSt) : (setBough s b x).net = s.net := rfl
@[simp] theorem setBough_bars (b : Nat) (x : BoughSt) : (setBough s b x).bars = s.bars := rfl
@[simp] theorem setBough_integ (b : Nat) (x : BoughSt) : (setBough s b x).integ = s.integ := rfl
@[simp] theorem setBough_carts (b : Nat) (x : BoughSt) : (setBough s b x).carts = s.carts := rfl
@[simp] theorem setBough_loft (b : Nat) (x : BoughSt) : (setBough s b x).loft = s.loft := rfl
@[simp] theorem setBough_fab (b : Nat) (x : BoughSt) : (setBough s b x).fab = s.fab := rfl
@[simp] theorem setBough_step (b : Nat) (x : BoughSt) : (setBough s b x).step = s.step := rfl
@[simp] theorem setBough_mill (b : Nat) (x : BoughSt) : (setBough s b x).mill = s.mill := rfl
@[simp] theorem setBough_stash (b : Nat) (x : BoughSt) : (setBough s b x).stash = s.stash := rfl
@[simp] theorem setBough_wain (b : Nat) (x : BoughSt) : (setBough s b x).wain = s.wain := rfl
@[simp] theorem setBough_floor (b : Nat) (x : BoughSt) : (setBough s b x).floor = s.floor := rfl
@[simp] theorem setBough_seed (b : Nat) (x : BoughSt) : (setBough s b x).seed = s.seed := rfl
@[simp] theorem setBough_cellar (b : Nat) (x : BoughSt) : (setBough s b x).cellar = s.cellar := rfl
@[simp] theorem setBough_signs (b : Nat) (x : BoughSt) : (setBough s b x).signs = s.signs := rfl
@[simp] theorem setBough_fwm (b : Nat) (x : BoughSt) : (setBough s b x).fwm = s.fwm := rfl
@[simp] theorem setBough_hsk (b : Nat) (x : BoughSt) : (setBough s b x).hsk = s.hsk := rfl
@[simp] theorem setBough_rst (b : Nat) (x : BoughSt) : (setBough s b x).rst = s.rst := rfl
@[simp] theorem setBough_host (b : Nat) (x : BoughSt) : (setBough s b x).host = s.host := rfl
@[simp] theorem setBough_msix (b : Nat) (x : BoughSt) : (setBough s b x).msix = s.msix := rfl
@[simp] theorem setBough_wire (b : Nat) (x : BoughSt) : (setBough s b x).wire = s.wire := rfl

/-! ## setCw -/

@[simp] theorem setCw_pending (k : Nat) (e : CwErr) : (setCw s k e).pending = s.pending := rfl
@[simp] theorem setCw_edge (k : Nat) (e : CwErr) : (setCw s k e).edge = s.edge := rfl
@[simp] theorem setCw_free (k : Nat) (e : CwErr) : (setCw s k e).free = s.free := rfl
@[simp] theorem setCw_regs (k : Nat) (e : CwErr) : (setCw s k e).regs = s.regs := rfl
@[simp] theorem setCw_latch (k : Nat) (e : CwErr) : (setCw s k e).latch = s.latch := rfl
@[simp] theorem setCw_rdata (k : Nat) (e : CwErr) : (setCw s k e).rdata = s.rdata := rfl
@[simp] theorem setCw_mem (k : Nat) (e : CwErr) : (setCw s k e).mem = s.mem := rfl
@[simp] theorem setCw_frm (k : Nat) (e : CwErr) : (setCw s k e).frm = s.frm := rfl
@[simp] theorem setCw_boughs (k : Nat) (e : CwErr) : (setCw s k e).boughs = s.boughs := rfl
@[simp] theorem setCw_net (k : Nat) (e : CwErr) : (setCw s k e).net = s.net := rfl
@[simp] theorem setCw_bars (k : Nat) (e : CwErr) : (setCw s k e).bars = s.bars := rfl
@[simp] theorem setCw_integ (k : Nat) (e : CwErr) : (setCw s k e).integ = s.integ := rfl
@[simp] theorem setCw_carts (k : Nat) (e : CwErr) : (setCw s k e).carts = s.carts := rfl
@[simp] theorem setCw_loft (k : Nat) (e : CwErr) : (setCw s k e).loft = s.loft := rfl
@[simp] theorem setCw_fab (k : Nat) (e : CwErr) : (setCw s k e).fab = s.fab := rfl
@[simp] theorem setCw_step (k : Nat) (e : CwErr) : (setCw s k e).step = s.step := rfl
@[simp] theorem setCw_mill (k : Nat) (e : CwErr) : (setCw s k e).mill = s.mill := rfl
@[simp] theorem setCw_stash (k : Nat) (e : CwErr) : (setCw s k e).stash = s.stash := rfl
@[simp] theorem setCw_wain (k : Nat) (e : CwErr) : (setCw s k e).wain = s.wain := rfl
@[simp] theorem setCw_floor (k : Nat) (e : CwErr) : (setCw s k e).floor = s.floor := rfl
@[simp] theorem setCw_seed (k : Nat) (e : CwErr) : (setCw s k e).seed = s.seed := rfl
@[simp] theorem setCw_cellar (k : Nat) (e : CwErr) : (setCw s k e).cellar = s.cellar := rfl
@[simp] theorem setCw_signs (k : Nat) (e : CwErr) : (setCw s k e).signs = s.signs := rfl
@[simp] theorem setCw_fwm (k : Nat) (e : CwErr) : (setCw s k e).fwm = s.fwm := rfl
@[simp] theorem setCw_hsk (k : Nat) (e : CwErr) : (setCw s k e).hsk = s.hsk := rfl
@[simp] theorem setCw_rst (k : Nat) (e : CwErr) : (setCw s k e).rst = s.rst := rfl
@[simp] theorem setCw_host (k : Nat) (e : CwErr) : (setCw s k e).host = s.host := rfl
@[simp] theorem setCw_msix (k : Nat) (e : CwErr) : (setCw s k e).msix = s.msix := rfl
@[simp] theorem setCw_wire (k : Nat) (e : CwErr) : (setCw s k e).wire = s.wire := rfl

/-! ## poke -/

@[simp] theorem poke_pending (a : Nat) (bs : List Byte) : (poke s a bs).pending = s.pending := rfl
@[simp] theorem poke_edge (a : Nat) (bs : List Byte) : (poke s a bs).edge = s.edge := rfl
@[simp] theorem poke_free (a : Nat) (bs : List Byte) : (poke s a bs).free = s.free := rfl
@[simp] theorem poke_regs (a : Nat) (bs : List Byte) : (poke s a bs).regs = s.regs := rfl
@[simp] theorem poke_latch (a : Nat) (bs : List Byte) : (poke s a bs).latch = s.latch := rfl
@[simp] theorem poke_rdata (a : Nat) (bs : List Byte) : (poke s a bs).rdata = s.rdata := rfl
@[simp] theorem poke_ecc (a : Nat) (bs : List Byte) : (poke s a bs).ecc = s.ecc := rfl
@[simp] theorem poke_frm (a : Nat) (bs : List Byte) : (poke s a bs).frm = s.frm := rfl
@[simp] theorem poke_boughs (a : Nat) (bs : List Byte) : (poke s a bs).boughs = s.boughs := rfl
@[simp] theorem poke_net (a : Nat) (bs : List Byte) : (poke s a bs).net = s.net := rfl
@[simp] theorem poke_bars (a : Nat) (bs : List Byte) : (poke s a bs).bars = s.bars := rfl
@[simp] theorem poke_integ (a : Nat) (bs : List Byte) : (poke s a bs).integ = s.integ := rfl
@[simp] theorem poke_carts (a : Nat) (bs : List Byte) : (poke s a bs).carts = s.carts := rfl
@[simp] theorem poke_loft (a : Nat) (bs : List Byte) : (poke s a bs).loft = s.loft := rfl
@[simp] theorem poke_fab (a : Nat) (bs : List Byte) : (poke s a bs).fab = s.fab := rfl
@[simp] theorem poke_step (a : Nat) (bs : List Byte) : (poke s a bs).step = s.step := rfl
@[simp] theorem poke_mill (a : Nat) (bs : List Byte) : (poke s a bs).mill = s.mill := rfl
@[simp] theorem poke_stash (a : Nat) (bs : List Byte) : (poke s a bs).stash = s.stash := rfl
@[simp] theorem poke_wain (a : Nat) (bs : List Byte) : (poke s a bs).wain = s.wain := rfl
@[simp] theorem poke_floor (a : Nat) (bs : List Byte) : (poke s a bs).floor = s.floor := rfl
@[simp] theorem poke_seed (a : Nat) (bs : List Byte) : (poke s a bs).seed = s.seed := rfl
@[simp] theorem poke_cellar (a : Nat) (bs : List Byte) : (poke s a bs).cellar = s.cellar := rfl
@[simp] theorem poke_signs (a : Nat) (bs : List Byte) : (poke s a bs).signs = s.signs := rfl
@[simp] theorem poke_fwm (a : Nat) (bs : List Byte) : (poke s a bs).fwm = s.fwm := rfl
@[simp] theorem poke_hsk (a : Nat) (bs : List Byte) : (poke s a bs).hsk = s.hsk := rfl
@[simp] theorem poke_rst (a : Nat) (bs : List Byte) : (poke s a bs).rst = s.rst := rfl
@[simp] theorem poke_host (a : Nat) (bs : List Byte) : (poke s a bs).host = s.host := rfl
@[simp] theorem poke_msix (a : Nat) (bs : List Byte) : (poke s a bs).msix = s.msix := rfl
@[simp] theorem poke_wire (a : Nat) (bs : List Byte) : (poke s a bs).wire = s.wire := rfl

/-! ## sendSignal -/

@[simp] theorem sendSignal_pending (n m c : Nat) : (sendSignal s n m c).pending = s.pending := rfl
@[simp] theorem sendSignal_edge (n m c : Nat) : (sendSignal s n m c).edge = s.edge := rfl
@[simp] theorem sendSignal_free (n m c : Nat) : (sendSignal s n m c).free = s.free := rfl
@[simp] theorem sendSignal_regs (n m c : Nat) : (sendSignal s n m c).regs = s.regs := rfl
@[simp] theorem sendSignal_latch (n m c : Nat) : (sendSignal s n m c).latch = s.latch := rfl
@[simp] theorem sendSignal_rdata (n m c : Nat) : (sendSignal s n m c).rdata = s.rdata := rfl
@[simp] theorem sendSignal_mem (n m c : Nat) : (sendSignal s n m c).mem = s.mem := rfl
@[simp] theorem sendSignal_ecc (n m c : Nat) : (sendSignal s n m c).ecc = s.ecc := rfl
@[simp] theorem sendSignal_frm (n m c : Nat) : (sendSignal s n m c).frm = s.frm := rfl
@[simp] theorem sendSignal_boughs (n m c : Nat) : (sendSignal s n m c).boughs = s.boughs := rfl
@[simp] theorem sendSignal_bars (n m c : Nat) : (sendSignal s n m c).bars = s.bars := rfl
@[simp] theorem sendSignal_integ (n m c : Nat) : (sendSignal s n m c).integ = s.integ := rfl
@[simp] theorem sendSignal_carts (n m c : Nat) : (sendSignal s n m c).carts = s.carts := rfl
@[simp] theorem sendSignal_loft (n m c : Nat) : (sendSignal s n m c).loft = s.loft := rfl
@[simp] theorem sendSignal_fab (n m c : Nat) : (sendSignal s n m c).fab = s.fab := rfl
@[simp] theorem sendSignal_step (n m c : Nat) : (sendSignal s n m c).step = s.step := rfl
@[simp] theorem sendSignal_mill (n m c : Nat) : (sendSignal s n m c).mill = s.mill := rfl
@[simp] theorem sendSignal_stash (n m c : Nat) : (sendSignal s n m c).stash = s.stash := rfl
@[simp] theorem sendSignal_wain (n m c : Nat) : (sendSignal s n m c).wain = s.wain := rfl
@[simp] theorem sendSignal_floor (n m c : Nat) : (sendSignal s n m c).floor = s.floor := rfl
@[simp] theorem sendSignal_seed (n m c : Nat) : (sendSignal s n m c).seed = s.seed := rfl
@[simp] theorem sendSignal_cellar (n m c : Nat) : (sendSignal s n m c).cellar = s.cellar := rfl
@[simp] theorem sendSignal_signs (n m c : Nat) : (sendSignal s n m c).signs = s.signs := rfl
@[simp] theorem sendSignal_fwm (n m c : Nat) : (sendSignal s n m c).fwm = s.fwm := rfl
@[simp] theorem sendSignal_hsk (n m c : Nat) : (sendSignal s n m c).hsk = s.hsk := rfl
@[simp] theorem sendSignal_rst (n m c : Nat) : (sendSignal s n m c).rst = s.rst := rfl
@[simp] theorem sendSignal_host (n m c : Nat) : (sendSignal s n m c).host = s.host := rfl
@[simp] theorem sendSignal_msix (n m c : Nat) : (sendSignal s n m c).msix = s.msix := rfl
@[simp] theorem sendSignal_wire (n m c : Nat) : (sendSignal s n m c).wire = s.wire := rfl

/-! ## Registers -/

/-- A register reads as what was written to it, and no other register changes. -/
theorem reg_setReg (a b : Nat) (v : Word) : reg (setReg s a v) b = if a = b then v else reg s b := kget_kset _ _ _ _ _

@[simp] theorem reg_setReg_self (a : Nat) (v : Word) : reg (setReg s a v) a = v := by simp [reg_setReg]

theorem reg_setReg_ne {a b : Nat} (v : Word) (h : a ≠ b) : reg (setReg s a v) b = reg s b := by simp [reg_setReg, h]

theorem reg_congr {s t : State} (h : t.regs = s.regs) (a : Nat) : reg t a = reg s a := by simp [reg, h]

theorem fld_congr {s t : State} (h : t.regs = s.regs) (a : Nat) (f : Fld) : fld t a f = fld s a f := by
  simp [fld, reg_congr h]

theorem regN_congr {s t : State} (h : t.regs = s.regs) (a : Nat) : regN t a = regN s a := by simp [regN, reg_congr h]

theorem reg64_congr {s t : State} (h : t.regs = s.regs) (a : Nat) : reg64 t a = reg64 s a := by
  simp [reg64, regN_congr h]

theorem regN_setRegN (a b v : Nat) : regN (setRegN s a v) b = if a = b then v % 2 ^ 32 else regN s b := by
  unfold regN setRegN
  rw [reg_setReg]
  split <;> simp

theorem reg_setRegN_ne {a b : Nat} (v : Nat) (h : a ≠ b) : reg (setRegN s a v) b = reg s b := reg_setReg_ne s _ h

theorem reg_setFld_ne {a b : Nat} (f : Fld) (v : Nat) (h : a ≠ b) : reg (setFld s a f v) b = reg s b :=
  reg_setReg_ne s _ h

theorem reg_setReg64_ne {a b : Nat} (v : Nat) (h : a ≠ b) (h' : a + 4 ≠ b) : reg (setReg64 s a v) b = reg s b := by
  unfold setReg64
  rw [reg_setRegN_ne _ _ h', reg_setRegN_ne _ _ h]

theorem reg_bump_ne {a b : Nat} (n : Nat) (h : a ≠ b) : reg (bump s a n) b = reg s b := reg_setReg_ne s _ h

theorem reg_bump64_ne {a b : Nat} (n : Nat) (h : a ≠ b) (h' : a + 4 ≠ b) : reg (bump64 s a n) b = reg s b :=
  reg_setReg64_ne s _ h h'

theorem reg_raise_ne {a b : Nat} (m : Nat) (h : a ≠ b) : reg (raise s a m) b = reg s b := reg_setReg_ne s _ h

/-- A field reads as what was written to it, cut to its width. -/
theorem fld_setFld (a : Nat) (f : Fld) (v : Nat) (h : f.lo ≤ f.hi) (h' : f.hi < 32) :
    fld (setFld s a f v) a f = v % 2 ^ (f.hi + 1 - f.lo) := by
  simp [fld, setFld, Fld.get_put _ _ _ h h']

/-- Another field of the same register keeps its value. -/
theorem fld_setFld_ne (a : Nat) (f g : Fld) (v : Nat) (h : f.lo ≤ f.hi) (h' : f.hi < 32) (hg : g.lo ≤ g.hi)
    (hd : g.hi < f.lo ∨ f.hi < g.lo) : fld (setFld s a f v) a g = fld s a g := by
  simp [fld, setFld, Fld.get_put_ne _ _ _ _ h h' hg hd]

theorem fld_of_reg {s t : State} {a : Nat} (h : reg t a = reg s a) (f : Fld) : fld t a f = fld s a f := by simp [fld, h]

/-- A 64-bit quantity reads as what was written to it. -/
theorem reg64_setReg64 (a v : Nat) : reg64 (setReg64 s a v) a = v % 2 ^ 64 := by
  unfold reg64 setReg64
  rw [regN_setRegN, regN_setRegN, regN_setRegN]
  simp only [if_pos, show ¬ a + 4 = a by omega, if_false]
  omega

theorem reg64_setReg64_ne {a b : Nat} (v : Nat) (h : a ≠ b) (h1 : a + 4 ≠ b) (h2 : a ≠ b + 4) :
    reg64 (setReg64 s a v) b = reg64 s b := by
  unfold reg64 regN
  rw [reg_setReg64_ne _ _ h h1, reg_setReg64_ne _ _ h2 (by omega)]

theorem reg64_of_reg {s t : State} {a : Nat} (h : reg t a = reg s a) (h' : reg t (a + 4) = reg s (a + 4)) :
    reg64 t a = reg64 s a := by simp [reg64, regN, h, h']

/-- Bits that the device sets stay set and clear none. -/
theorem reg_raise_self (a m : Nat) : reg (raise s a m) a = reg s a ||| BitVec.ofNat 32 m := by simp [raise]

/-- An event that the device sets reads 1. -/
theorem fld_raise (a i : Nat) (h : i < 32) : fld (raise s a (2 ^ i)) a ⟨i, i⟩ = 1 := by
  unfold fld; rw [reg_raise_self]; exact Fld.get_or_bit i h _

/-- An event that is set stays set when the device sets another. -/
theorem fld_raise_of_one (a i m : Nat) (h : fld s a ⟨i, i⟩ = 1) : fld (raise s a m) a ⟨i, i⟩ = 1 := by
  unfold fld; rw [reg_raise_self]; exact Fld.get_or_of_one i _ _ h

theorem regN_bump (a n : Nat) : regN (bump s a n) a = min (regN s a + n) 0xFFFFFFFF := by
  unfold bump
  rw [regN_setRegN]
  simp only [if_true]
  omega

theorem reg64_bump64 (a n : Nat) : reg64 (bump64 s a n) a = (reg64 s a + n) % 2 ^ 64 := by
  unfold bump64
  rw [reg64_setReg64]
  omega

/-! ## A register update changes the registers alone -/

theorem setReg_form (a : Nat) (v : Word) : setReg s a v = { s with regs := (setReg s a v).regs } := rfl
theorem setRegN_form (a v : Nat) : setRegN s a v = { s with regs := (setRegN s a v).regs } := rfl
theorem setFld_form (a : Nat) (f : Fld) (v : Nat) : setFld s a f v = { s with regs := (setFld s a f v).regs } := rfl
theorem setReg64_form (a v : Nat) : setReg64 s a v = { s with regs := (setReg64 s a v).regs } := rfl
theorem bump_form (a n : Nat) : bump s a n = { s with regs := (bump s a n).regs } := rfl
theorem bump64_form (a n : Nat) : bump64 s a n = { s with regs := (bump64 s a n).regs } := rfl
theorem raise_form (a m : Nat) : raise s a m = { s with regs := (raise s a m).regs } := rfl

/-! ## The canonical form of the registers -/

theorem setReg_wf (a : Nat) (v : Word) (h : kwf regReset s.regs = true) : kwf regReset (setReg s a v).regs = true :=
  kwf_kset _ _ _ _ h

/-! ## Boughs -/

theorem bough_setBough (b c : Nat) (x : BoughSt) : bough (setBough s b x) c = if b = c then x else bough s c :=
  kget_kset _ _ _ _ _

@[simp] theorem bough_setBough_self (b : Nat) (x : BoughSt) : bough (setBough s b x) b = x := by simp [bough_setBough]

theorem bough_congr {s t : State} (h : t.boughs = s.boughs) (b : Nat) : bough t b = bough s b := by simp [bough, h]

@[simp] theorem reg_setBough (b : Nat) (x : BoughSt) (a : Nat) : reg (setBough s b x) a = reg s a := rfl

@[simp] theorem fld_setBough (b : Nat) (x : BoughSt) (a : Nat) (f : Fld) : fld (setBough s b x) a f = fld s a f := rfl

@[simp] theorem bough_setReg (a : Nat) (v : Word) (b : Nat) : bough (setReg s a v) b = bough s b := rfl
@[simp] theorem bough_setRegN (a v b : Nat) : bough (setRegN s a v) b = bough s b := rfl
@[simp] theorem bough_setFld (a : Nat) (f : Fld) (v b : Nat) : bough (setFld s a f v) b = bough s b := rfl
@[simp] theorem bough_setReg64 (a v b : Nat) : bough (setReg64 s a v) b = bough s b := rfl
@[simp] theorem bough_bump (a n b : Nat) : bough (bump s a n) b = bough s b := rfl
@[simp] theorem bough_bump64 (a n b : Nat) : bough (bump64 s a n) b = bough s b := rfl
@[simp] theorem bough_raise (a m b : Nat) : bough (raise s a m) b = bough s b := rfl

/-! ## Local memory -/

/-- A byte of memory after bytes were put at an address. -/
theorem kget_memPut (m : KMap Byte) (a : Nat) (bs : List Byte) (k : Nat) :
    kget (fun _ => 0#8) (memPut m a bs) k = if a ≤ k ∧ k < a + bs.length then (bs[k - a]?).getD 0#8
      else kget (fun _ => 0#8) m k := by
  induction bs generalizing m a with
  | nil => simp [memPut]
  | cons b t ih =>
    simp only [memPut, ih, kget_kset, List.length_cons]
    by_cases h : a = k
    · subst h; simp
    · by_cases h1 : a + 1 ≤ k ∧ k < a + 1 + t.length
      · rw [if_pos h1, if_pos (by omega)]
        obtain ⟨n, hn⟩ : ∃ n, k - a = n + 1 := ⟨k - a - 1, by omega⟩
        rw [hn, show k - (a + 1) = n by omega]; simp
      · rw [if_neg h1, if_neg h, if_neg (by omega)]

/-- Every write keeps the canonical form of memory. -/
theorem memPut_wf (m : KMap Byte) (a : Nat) (bs : List Byte) (h : kwf (fun _ => 0#8) m = true) :
    kwf (fun _ => 0#8) (memPut m a bs) = true := by
  induction bs generalizing m a with
  | nil => exact h
  | cons b t ih => exact ih _ _ (kwf_kset _ _ _ _ h)

theorem poke_wf (a : Nat) (bs : List Byte) (h : kwf (fun _ => 0#8) s.mem = true) :
    kwf (fun _ => 0#8) (poke s a bs).mem = true := memPut_wf _ _ _ h

end Sys2Proof.Machine
end

