-- ==== Sys2Proof/Laws/Control.lean ====
section
/-! SUPPORT. How commands end, what the shared forms of items and host commands do, and what a link takes, each said once. -/

namespace Sys2Proof.Machine

set_option Elab.async false

/-! ## The end of a command -/

/-- What a command of a working device leaves: its effect, with the queue as the step left it and its vectors. -/
def ended (s t : State) : State :=
  { t with pending := s.pending, edge := false, msix := msixAfter s { t with edge := false } }

theorem finish_alive {s t : State} (h : alive s = true) : finish s t = .next (ended s t) := by
  simp [finish, finishAny, finishEdge, h, ended]

/-- A device that is off or stopped takes no command. -/
theorem finish_dead {s t : State} (h : alive s = false) : finish s t = .next (ended s s) := by
  simp [finish, finishAny, finishEdge, h, ended]

theorem runs_finish {c : Instr} {s t : State} {P : State → Prop} (hc : exec c s = finish s t) (h : alive s = true)
    (hp : P (ended s t)) : Runs c s P := ⟨_, hc.trans (finish_alive h), hp⟩

@[simp] theorem ended_regs (s t : State) : (ended s t).regs = t.regs := rfl
@[simp] theorem ended_reg (s t : State) (a : Nat) : reg (ended s t) a = reg t a := rfl
@[simp] theorem ended_fld (s t : State) (a : Nat) (f : Fld) : fld (ended s t) a f = fld t a f := rfl
@[simp] theorem ended_regN (s t : State) (a : Nat) : regN (ended s t) a = regN t a := rfl
@[simp] theorem ended_reg64 (s t : State) (a : Nat) : reg64 (ended s t) a = reg64 t a := rfl
@[simp] theorem ended_mem (s t : State) : (ended s t).mem = t.mem := rfl
@[simp] theorem ended_ecc (s t : State) : (ended s t).ecc = t.ecc := rfl
@[simp] theorem ended_bough (s t : State) (b : Nat) : bough (ended s t) b = bough t b := rfl
@[simp] theorem ended_pending (s t : State) : (ended s t).pending = s.pending := rfl

/-! ## Vectors (R620, R621) -/

theorem irqOf_le {a st en v : Nat} (h : irqOf a = some (st, en, v)) : v < 14 := by
  unfold irqOf at h
  obtain ⟨x, hx, hp⟩ := List.exists_of_findSome?_eq_some h
  have hall : ∀ x ∈ irqRows, x.2.2.2.2 < 14 := by decide
  have := hall x hx
  obtain ⟨st', en', n, k, v'⟩ := x
  simp only at hp this
  split at hp
  · cases hp; exact this
  · split at hp
    · cases hp; exact this
    · cases hp

theorem irqEdges_lt (s t : State) : ∀ v ∈ irqEdges s t, v < 14 := by
  intro v hv
  simp only [irqEdges, List.mem_eraseDups, List.mem_filterMap] at hv
  obtain ⟨⟨a, w⟩, -, h⟩ := hv
  simp only at h
  split at h
  · cases h
  · next st en v' ho => split at h
                        · cases h
                        · cases h; exact irqOf_le ho

/-- A vector that is sent joins those sent; one that is held back does not. -/
theorem msixSend_sent (t : State) (m : MsixSt) (v : Nat) :
    (msixSend t m v).sent = (if msixOpen t v then [v] else []) ++ m.sent := by
  unfold msixSend; split <;> simp [*]

/-- Sending only adds to the vectors sent. -/
theorem foldl_msixSend_sent (t : State) (l : List Nat) (m : MsixSt) :
    ∃ new, (l.foldl (msixSend t) m).sent = new ++ m.sent ∧ ∀ v ∈ new, v ∈ l ∧ msixOpen t v = true := by
  induction l generalizing m with
  | nil => exact ⟨[], rfl, by simp⟩
  | cons a l ih =>
    obtain ⟨new, h, hn⟩ := ih (msixSend t m a)
    refine ⟨new ++ (if msixOpen t a then [a] else []), ?_, ?_⟩
    · simp [h, msixSend_sent]
    · intro v hv
      rcases List.mem_append.1 hv with hv | hv
      · exact ⟨List.mem_cons_of_mem _ (hn v hv).1, (hn v hv).2⟩
      · split at hv
        · next ho => simp only [List.mem_singleton] at hv; subst hv; exact ⟨by simp, ho⟩
        · cases hv

theorem msixFlush_sent (t : State) (m : MsixSt) :
    ∃ new, (msixFlush t m).sent = new ++ m.sent ∧ ∀ v ∈ new, v < 14 ∧ msixOpen t v = true := by
  unfold msixFlush
  have : ∀ (l : List Nat) (m : MsixSt), (∀ v ∈ l, v < 14) →
      ∃ new, (l.foldl (fun m v => if bitN m.pba v && msixOpen t v then msixSend t m v else m) m).sent = new ++ m.sent
        ∧ ∀ v ∈ new, v < 14 ∧ msixOpen t v = true := by
    intro l
    induction l with
    | nil => intro m _; exact ⟨[], rfl, by simp⟩
    | cons a l ih =>
      intro m hl
      obtain ⟨new, h, hn⟩ := ih (if bitN m.pba a && msixOpen t a then msixSend t m a else m)
        fun v hv => hl v (List.mem_cons_of_mem _ hv)
      by_cases hc : (bitN m.pba a && msixOpen t a) = true
      · refine ⟨new ++ [a], ?_, ?_⟩
        · have ho := (Bool.and_eq_true _ _ ▸ hc).2
          rw [List.foldl_cons, h, if_pos hc, msixSend_sent, if_pos ho]; simp
        · intro v hv
          rcases List.mem_append.1 hv with hv | hv
          · exact hn v hv
          · simp only [List.mem_singleton] at hv; subst hv
            exact ⟨hl v (by simp), (Bool.and_eq_true _ _ ▸ hc).2⟩
      · exact ⟨new, by rw [List.foldl_cons, h, if_neg hc], hn⟩
  exact this _ _ fun v hv => List.mem_range.1 hv

/-- The vectors sent only grow, and each new one is a vector of R620 that the function may send. -/
theorem msixAfter_sent (s t : State) :
    ∃ new, (msixAfter s t).sent = new ++ s.msix.sent
      ∧ ∀ v ∈ new, v < 14 ∧ (msixOpen s v = true ∨ msixOpen t v = true) := by
  simp only [msixAfter]
  obtain ⟨n1, h1, p1⟩ := msixFlush_sent t
    ((irqEdges s t ++ List.replicate (t.host.completions - s.host.completions) 0).foldl (msixSend s)
      { t.msix with sent := s.msix.sent })
  obtain ⟨n2, h2, p2⟩ := foldl_msixSend_sent s
    (irqEdges s t ++ List.replicate (t.host.completions - s.host.completions) 0) { t.msix with sent := s.msix.sent }
  refine ⟨n1 ++ n2, by rw [h1, h2, List.append_assoc], ?_⟩
  intro v hv
  rcases List.mem_append.1 hv with hv | hv
  · exact ⟨(p1 v hv).1, .inr (p1 v hv).2⟩
  · refine ⟨?_, .inl (p2 v hv).2⟩
    rcases List.mem_append.1 (p2 v hv).1 with h | h
    · exact irqEdges_lt _ _ v h
    · have := List.eq_of_mem_replicate h; omega

/-! ## Items -/

theorem walkHas_item {s : State} {n : Nat} {p : State → Nat → Item → List Byte → Bool} (h : walkHas s n p = true) :
    ∃ u b i body, walkTo s n = .item u b i body ∧ p u b i body = true := by
  unfold walkHas at h
  split at h
  · next u b i body hw => exact ⟨u, b, i, body, hw, h⟩
  · cases h

/-- A control item that the walk stands at, its fence open, has its effect. -/
theorem control_item {s u : State} {n b : Nat} {i : Item} {body : List Byte} (act : State → Nat → Item → State)
    (ha : alive s = true) (hw : walkTo s n = .item u b i body)
    (hf : (i.fence || i.kind = 12 || i.kind = 13 || i.kind = 14) = true → allRetired u b = true) :
    control s n i.kind act = .next (ended s (act u b i)) := by
  unfold control
  simp only [ha, hw]
  by_cases hx : (i.fence || decide (i.kind = 12) || decide (i.kind = 13) || decide (i.kind = 14)) = true
  · simp [hf hx, finish_alive ha]
  · simp only [Bool.not_eq_true] at hx
    simp [hx, finish_alive ha]

/-- A control item ends in a next state or, at an unmapped offset, in the one fault. -/
theorem control_cases (s : State) (n kind : Nat) (act : State → Nat → Item → State) :
    (∃ t, control s n kind act = finish s t) ∨ control s n kind act = .fault .unmappedItem := by
  unfold control
  split
  · exact .inl ⟨_, rfl⟩
  · split
    · exact .inr rfl
    · exact .inl ⟨_, rfl⟩
    · split
      · exact .inl ⟨_, rfl⟩
      · split
        · exact .inl ⟨_, rfl⟩
        · exact .inl ⟨_, rfl⟩

/-- The state in which a work item that may issue takes its semaphore count (R126, R137). -/
def waited (u : State) (b : Nat) (i : Item) : State :=
  if bitN i.w2 31 then setSemwait (semTake u b (bitsN i.w2 30 24) (bitsN i.w2 23 0)) b 0 else u

/-- A work item that the walk stands at and that R137 lets issue joins the scoreboard and its unit runs. -/
theorem issue_item {s u : State} {n t b kind : Nat} {i : Item} {body : List Byte} (pick : List Byte → Bool)
    (run : State → Nat → Nat → List Byte → State) (ha : alive s = true) (hw : walkTo s n = .item u b i body)
    (hk : i.kind = kind) (hp : pick body = true) (hi : issueOk u b i body t = true) (hs : waitOk u b i = true) :
    issue s n kind t pick run = .next (ended s (advance (run (pushEntry (waited u b i) b
      ((freeEntry (bough (waited u b i) b)).getD 0) i body) b ((freeEntry (bough (waited u b i) b)).getD 0) body) b)) := by
  unfold issue waited
  simp [ha, hw, hk, hp, hi, hs, finish_alive ha]

/-- A work item ends in a next state or, at an unmapped offset, in the one fault. -/
theorem issue_cases (s : State) (n kind t : Nat) (pick : List Byte → Bool)
    (run : State → Nat → Nat → List Byte → State) :
    (∃ u, issue s n kind t pick run = finish s u) ∨ issue s n kind t pick run = .fault .unmappedItem := by
  unfold issue
  split
  · exact .inl ⟨_, rfl⟩
  · split
    · exact .inr rfl
    · exact .inl ⟨_, rfl⟩
    · split
      · exact .inl ⟨_, rfl⟩
      · split
        · exact .inl ⟨_, rfl⟩
        · exact .inl ⟨_, rfl⟩

@[simp] theorem port_bump (s : State) (a n p : Nat) : port (bump s a n) p = port s p := rfl

/-! ## Links (R410 to R412, R421, R425) -/

/-- The CRC of a packet does not see its tag or the CRC itself. -/
theorem crcOf_tag (k : Packet) (tag : List Byte) (crc : Nat) :
    crcOf { k with trailer := { k.trailer with tag := tag, crc := crc } } = crcOf k := by
  simp only [crcOf, header32, headerBytes, padded, trailerBytes]

theorem hcrcOf_fields (k : Packet) (h : Nat) (t : Trailer) : hcrcOf { k with hcrc := h, trailer := t } = hcrcOf k := by
  simp only [hcrcOf, headerBytes]

theorem ctlTag_tag (keys : List Byte) (k : Packet) (tag : List Byte) (crc : Nat) :
    ctlTag keys { k with trailer := { k.trailer with tag := tag, crc := crc } } = ctlTag keys k := by
  simp only [ctlTag, header32, headerBytes, padded]

/-- What sealing a packet makes true of it. -/
theorem sealPkt_checks (keys : List Byte) (k : Packet) :
    let k' := sealPkt (some keys) k
    k'.hcrc = hcrcOf k' ∧ k'.trailer.crc = crcOf k' ∧ (k'.vl = vlCtrl → k'.trailer.tag = ctlTag keys k') := by
  unfold sealPkt
  by_cases hv : k.vl = vlCtrl
  · simp only [if_pos hv]
    exact ⟨(hcrcOf_fields _ _ _).symm, (crcOf_tag _ _ _).symm, fun _ => (ctlTag_tag _ _ _ _).symm⟩
  · simp only [if_neg hv]
    exact ⟨(hcrcOf_fields _ _ _).symm, (crcOf_tag _ _ _).symm, fun h => absurd h hv⟩

/-- A packet sealed as a link sends it passes the checks of that link. -/
theorem linkFault_sealed (s : State) (p : Nat) (k : Packet) :
    linkFault s p (sealPkt (some (port s p).adm.keys) k) = none := by
  obtain ⟨h1, h2, h3⟩ := sealPkt_checks (port s p).adm.keys k
  unfold linkFault
  rw [if_neg (not_not.mpr h1), if_neg (not_not.mpr h2), if_neg]
  simp only [Bool.and_eq_true, decide_eq_true_eq, not_and, not_not]
  exact h3

/-- A sealed packet on a link that is up: its trailer is taken, and then the packet, if it is in sequence. -/
theorem arrive_sealed {s : State} {p : Nat} {k : Packet} (hp : portUp s p = true) :
    arrive s p (sealPkt (some (port s p).adm.keys) k) =
      (let k' := sealPkt (some (port s p).adm.keys) k
       let v := takeTrailer (countFec s p k'.trailer) p k'.trailer
       if k'.trailer.lseq ≠ (port v p).rxNext then (discard v p, none) else inOrder v p k') := by
  have h : p < 24 ∧ portState s p = psUp := by simpa [portUp] using hp
  have hk : port (countFec s p (sealPkt (some (port s p).adm.keys) k).trailer) p = port s p := by
    unfold countFec
    split <;> rfl
  have hf := linkFault_sealed (countFec s p (sealPkt (some (port s p).adm.keys) k).trailer) p k
  rw [hk] at hf
  unfold arrive
  rw [if_neg (by omega), if_neg (by rw [h.2]; decide), hp]
  simp [hf]

end Sys2Proof.Machine
end

