-- ==== Sys2Proof/Laws/Bough.lean ====
section
/-! SUPPORT. What the shared operations of a bough do: the walk's advance, slots and semaphores, pre-emption, and the end
of a job. -/

namespace Sys2Proof.Machine

set_option Elab.async false

theorem wrapN_lt (n : Nat) (z : Int) : wrapN n z < 2 ^ n := by
  unfold wrapN
  have : (0 : Int) < 2 ^ n := by positivity
  have := Int.emod_lt_of_pos z this
  have := Int.emod_nonneg z (show (2 ^ n : Int) ≠ 0 by positivity)
  zify; rw [Int.toNat_of_nonneg this]; assumption

theorem regN_lt (s : State) (a : Nat) : regN s a < 2 ^ 32 := (reg s a).isLt

theorem reg64_lt (s : State) (a : Nat) : reg64 s a < 2 ^ 64 := by
  unfold reg64
  have := regN_lt s a
  have := regN_lt s (a + 4)
  omega

/-! ## What a command's end leaves of a state that differs in registers alone -/

theorem onlyRegs_ended {s u t : State} {l : List Nat} (h : t = { u with regs := t.regs }) (hr : RegsBut u t l) :
    OnlyRegs u (ended s t) l := by
  refine ⟨?_, fun a ha => hr a ha⟩
  rw [h]; rfl

/-! ## The walk -/

/-- Short of item 65 535 the walk goes on to the next item. -/
theorem advance_eq {s : State} {b : Nat} (h : itemIdx s b ≠ 65535) :
    advance s b = setFld s (Reg.BGH_ITEM b) Fld.BGH_ITEM_INDEX (itemIdx s b + 1) := by
  unfold advance; simp [h]

theorem itemIdx_lt (s : State) (b : Nat) : itemIdx s b < 2 ^ 16 := bitsN_lt _ _ _

theorem itemIdx_setFld (s : State) (b v : Nat) (h : v < 2 ^ 16) :
    itemIdx (setFld s (Reg.BGH_ITEM b) Fld.BGH_ITEM_INDEX v) b = v := by
  unfold itemIdx
  rw [fld_setFld _ _ _ _ (by decide) (by decide)]
  exact Nat.mod_eq_of_lt h

theorem itemIdx_advance {s : State} {b : Nat} (h : itemIdx s b ≠ 65535) :
    itemIdx (advance s b) b = itemIdx s b + 1 := by
  rw [advance_eq h, itemIdx_setFld]
  have := itemIdx_lt s b
  omega

theorem itemIdx_of_reg {s t : State} {b : Nat} (h : reg t (Reg.BGH_ITEM b) = reg s (Reg.BGH_ITEM b)) :
    itemIdx t b = itemIdx s b := fld_of_reg h _

/-! ## Slots and semaphores -/

theorem slot_setSlot (s : State) (b k v : Nat) : slot (setSlot s b k v) b k = v % 2 ^ 64 := reg64_setReg64 _ _ _

theorem sem_lt (s : State) (b k : Nat) : sem s b k < 2 ^ 24 := bitsN_lt _ _ _

theorem sem_setFld (s : State) (b k v : Nat) (h : v < 2 ^ 24) :
    sem (setFld s (Reg.BGH_SEM b k) Fld.BGH_SEM_COUNT v) b k = v := by
  unfold sem
  rw [fld_setFld _ _ _ _ (by decide) (by decide)]
  exact Nat.mod_eq_of_lt h

/-- A signal field changes the network alone (R126, R278). -/
theorem sendField_form (s : State) (w : Nat) : sendField s w =
    { s with net := if bitN w 31 then s.net ++ [⟨bitsN w 29 24, bitsN w 22 16, bitsN w 15 0⟩] else s.net } := by
  unfold sendField sendSignal; split <;> rfl

/-! ## Jobs -/

/-- With no job loaded there is nothing to end. -/
theorem jobStopCheck_none {s : State} (h : s.host.job = none) : jobStopCheck s = s := by
  unfold jobStopCheck; simp [h]

theorem endJob_none {s : State} (st d : Nat) (h : s.host.job = none) : endJob s st d = s := by
  unfold endJob; simp [h]

/-! ## Pre-emption -/

/-- A stop changes the bough, its status and its event register alone. -/
theorem stopBough_form (s : State) (b : Nat) :
    stopBough s b = { s with regs := (stopBough s b).regs, boughs := (stopBough s b).boughs } := rfl

theorem stopBough_regs (s : State) (b : Nat) : RegsBut s (stopBough s b) [Reg.BGH_STATUS b, Reg.BGH_INTSTAT b] := by
  intro a ha
  simp only [List.mem_cons, List.not_mem_nil, or_false, not_or] at ha
  unfold stopBough
  rw [reg_raise_ne _ _ (Ne.symm ha.2), reg_setReg_ne _ _ (Ne.symm ha.1)]
  rfl

theorem stopBough_bough (s : State) (b c : Nat) :
    bough (stopBough s b) c = if b = c then
      { bough s b with walking := false, cut := (bough s b).cut || (bough s b).walking, barWait := none }
    else bough s c := by
  show bough (setBough s b _) c = _
  rw [bough_setBough]

theorem stopCheck_cases (s : State) (b : Nat) : stopCheck s b = s ∨
    (stopCheck s b = stopBough s b ∧ (bough s b).halted = true ∧ (bough s b).sb = [] ∧ isStopped s b = false) := by
  unfold stopCheck
  split
  · next h => simp only [Bool.and_eq_true, List.isEmpty_iff, Bool.not_eq_true'] at h
              exact .inr ⟨rfl, h.1.1, h.1.2, h.2⟩
  · exact .inl rfl

/-- A bough that is not pre-empted does not stop. -/
theorem stopCheck_running {s : State} {b : Nat} (h : (bough s b).halted = false) : stopCheck s b = s := by
  unfold stopCheck; simp [h]

end Sys2Proof.Machine
end

