-- ==== Sys2Proof/Laws/Ops.lean ====
section
/-! SUPPORT. What the shared memory operations can do: every one keeps its map canonical, and reads and writes of memory that
no code finds fault with. -/

namespace Sys2Proof.Machine

set_option Elab.async false

variable (s : State)

/-! ## Canonical form -/

theorem hostWrite_wf (m : KMap Byte) (a : Nat) (bs : List Byte) (h : kwf (fun _ => 0#8) m = true) :
    kwf (fun _ => 0#8) (hostWrite m a bs) = true := by
  induction bs generalizing m a with
  | nil => exact h
  | cons b t ih => exact ih _ _ (kwf_kset _ _ _ _ h)

theorem flashWrite_wf (m : KMap Byte) (a : Nat) (bs : List Byte) (h : kwf (fun _ => 0xFF#8) m = true) :
    kwf (fun _ => 0xFF#8) (flashWrite m a bs) = true := by
  induction bs generalizing m a with
  | nil => exact h
  | cons b t ih => exact ih _ _ (kwf_kset _ _ _ _ h)

/-- Entries of a canonical map hold no value that an unlisted key reads as. -/
theorem kwf_value {α : Type} [DecidableEq α] (d : Nat → α) :
    ∀ m : KMap α, kwf d m = true → ∀ x ∈ m, x.2 ≠ d x.1
  | [], _, x, hx => by simp at hx
  | (a, v) :: t, h, x, hx => by
    simp only [kwf, Bool.and_eq_true, decide_eq_true_eq] at h
    rcases List.mem_cons.1 hx with rfl | hx
    · exact h.1.2
    · exact kwf_value d t h.2 x hx

/-- Copying a range of a canonical map over another keeps the form. -/
theorem moveCells_wf {α : Type} [DecidableEq α] (z : α) (m : KMap α) (scale base base' n : Nat)
    (h : kwf (fun _ => z) m = true) : kwf (fun _ => z) (moveCells m scale base base' n) = true := by
  have main : ∀ (l : KMap α) (r : KMap α), (∀ x ∈ l, x.2 ≠ z) → kwf (fun _ => z) r = true →
      kwf (fun _ => z) (l.foldl (fun m x => kins (x.1 - scale * base + scale * base') x.2 m) r) = true := by
    intro l
    induction l with
    | nil => intro r _ hr; exact hr
    | cons x t ih =>
      intro r hl hr
      exact ih _ (fun y hy => hl y (List.mem_cons_of_mem _ hy)) (kwf_kins _ (hl x List.mem_cons_self) r hr)
  exact main _ _ (fun x hx => kwf_value (fun _ => z) m h x (List.mem_of_mem_filter hx)) (kwf_filter _ _ m h)

theorem granaryBytes_wf (h : kwf (fun _ => 0#8) s.mem = true) : kwf (fun _ => 0#8) (granaryBytes s) = true := by
  have main : ∀ (l : List (Nat × Byte)) (r : KMap Byte), kwf (fun _ => 0#8) r = true →
      kwf (fun _ => 0#8) (l.foldl (fun m x => kset (fun _ => 0#8) m x.1 x.2) r) = true := by
    intro l
    induction l with
    | nil => intro r hr; exact hr
    | cons x t ih => intro r hr; exact ih _ (kwf_kset _ _ _ _ hr)
  exact main _ _ (kwf_filter _ _ _ h)

theorem initUnitWrite_wf (u : Nat) (h : kwf (fun _ => 0#8) s.mem = true) :
    kwf (fun _ => 0#8) (initUnitWrite s u).mem = true := by
  unfold initUnitWrite
  split
  · exact h
  · exact kwf_filter _ _ _ h

/-! ## Memory without errors (R495, R496, R501) -/

/-- No codeword, no layer check and no write-before-read stands in the way of a read. -/
def Sound : Prop := s.ecc.cw = [] ∧ s.ecc.lpar = [] ∧ initMode1 s = false

theorem checkRange_sound (hs : Sound s) (fuel cls a n : Nat) : checkRange fuel s cls a n = (s, none) := by
  cases fuel with
  | zero => rfl
  | succ k => simp [checkRange, checkCws, cwIn, lparIn, readCws, hs.1, hs.2.1]

theorem checkParts_sound (hs : Sound s) (l : List (Nat × Nat)) : checkParts s l = (s, none) := by
  induction l with
  | nil => rfl
  | cons x t ih => simp [checkParts, checkRange_sound s hs, ih]

/-- A read changes nothing and answers the bytes of memory. -/
theorem loadRaw_sound (hs : Sound s) (a n : Nat) : loadRaw s a n = (s, .ok (peek s a n)) := by
  simp [loadRaw, checkRead, uninitIn, hs.2.2, checkParts_sound s hs]

/-- Outside objects and direct ranges an access is no use of a line and meets no round. -/
theorem accessMem_plain {a n : Nat} (h : roundLines s a n = []) : accessMem s a n = s := by
  simp [accessMem, h]

theorem load_sound (hs : Sound s) {a n : Nat} (h : roundLines s a n = []) : load s a n = (s, .ok (peek s a n)) := by
  simp [load, accessMem_plain s h, loadRaw_sound s hs]

/-- A write within one line or Crib is never stopped. -/
theorem storePart_sound (hs : Sound s) (a : Nat) (bs : List Byte) : (storePart s a bs).2 = none := by
  simp [storePart, checkCws, partCws, partLpar, cwIn, lparIn, readCws, hs.1, hs.2.1]
  split_ifs <;> rfl

end Sys2Proof.Machine
end

