-- ==== Sys2Proof/Laws/PerInstr.lean ====
section
/-! SUPPORT. Statements made per command: a well-formed command names only fabric ports that the device has. -/

namespace Sys2Proof.Laws.Wf

set_option Elab.async false

/-- The port of a well-formed command is one of the 24. -/
def Statement (i : Instr) : Prop := i.wf = true → ∀ p, i.port = some p → p < 24

theorem port_lt {o : Option Nat} {p : Nat} (ho : o = some p) (h : wfPort p = true) : ∀ q, o = some q → q < 24 := by
  intro q hq
  cases ho.symm.trans hq
  simpa [wfPort] using h

theorem none_lt {o : Option Nat} (h : o = none) : ∀ p, o = some p → p < 24 := by simp [h]

theorem registerWrite (bar : Bar) (off : Nat) (size : Nat) (data : Dword) : Statement (.registerWrite bar off size data) := fun _ => none_lt rfl
theorem rw1cClear (reg : Nat) (data : Word) (coincide : Word) : Statement (.rw1cClear reg data coincide) := fun _ => none_lt rfl
theorem loReadLatch (bar : Bar) (off : Nat) (size : Nat) : Statement (.loReadLatch bar off size) := fun _ => none_lt rfl
theorem numclrWrite (set : Nat) (data : Word) (coincide : Word) : Statement (.numclrWrite set data coincide) := fun _ => none_lt rfl
theorem frameTick : Statement .frameTick := fun _ => none_lt rfl
theorem checkOffset : Statement .checkOffset := fun _ => none_lt rfl
theorem sliprunLimit : Statement .sliprunLimit := fun _ => none_lt rfl
theorem slotStart (p : Nat) (slot : Nat) : Statement (.slotStart p slot) := fun h => port_lt rfl (by simp [Instr.wf] at h; simp [h])
theorem timeTransferStart (t1 : Nat) : Statement (.timeTransferStart t1) := fun _ => none_lt rfl
theorem frmCtrlWrite (data : Word) : Statement (.frmCtrlWrite data) := fun _ => none_lt rfl
theorem frmSlipwinWrite (data : Word) : Statement (.frmSlipwinWrite data) := fun _ => none_lt rfl
theorem endItem (n : Nat) : Statement (.endItem n) := fun _ => none_lt rfl
theorem branch (n : Nat) : Statement (.branch n) := fun _ => none_lt rfl
theorem setslot (n : Nat) : Statement (.setslot n) := fun _ => none_lt rfl
theorem addslot (n : Nat) : Statement (.addslot n) := fun _ => none_lt rfl
theorem semwait (n : Nat) : Statement (.semwait n) := fun _ => none_lt rfl
theorem signal (n : Nat) : Statement (.signal n) := fun _ => none_lt rfl
theorem semaphoreSignal (n : Nat) (sem : Nat) : Statement (.semaphoreSignal n sem) := fun _ => none_lt rfl
theorem barrier (n : Nat) : Statement (.barrier n) := fun _ => none_lt rfl
theorem counterAdd (n : Nat) : Statement (.counterAdd n) := fun _ => none_lt rfl
theorem counterRead (n : Nat) : Statement (.counterRead n) := fun _ => none_lt rfl
theorem setstep (n : Nat) : Statement (.setstep n) := fun _ => none_lt rfl
theorem stashSpillDone (e : Nat) : Statement (.stashSpillDone e) := fun _ => none_lt rfl
theorem stashRestoreDone (e : Nat) : Statement (.stashRestoreDone e) := fun _ => none_lt rfl
theorem workItemRetire (n : Nat) (id : Nat) : Statement (.workItemRetire n id) := fun _ => none_lt rfl
theorem bghPreempt (b : Nat) : Statement (.bghPreempt b) := fun _ => none_lt rfl
theorem boughFailStop (n : Nat) : Statement (.boughFailStop n) := fun _ => none_lt rfl
theorem substitutionCopyDone (n : Nat) : Statement (.substitutionCopyDone n) := fun _ => none_lt rfl
theorem mma (n : Nat) (t : Nat) : Statement (.mma n t) := fun _ => none_lt rfl
theorem l1 (n : Nat) (t : Nat) : Statement (.l1 n t) := fun _ => none_lt rfl
theorem l2sq (n : Nat) (t : Nat) : Statement (.l2sq n t) := fun _ => none_lt rfl
theorem maxplus (n : Nat) (t : Nat) : Statement (.maxplus n t) := fun _ => none_lt rfl
theorem minplus (n : Nat) (t : Nat) : Statement (.minplus n t) := fun _ => none_lt rfl
theorem cmpcnt (n : Nat) (t : Nat) : Statement (.cmpcnt n t) := fun _ => none_lt rfl
theorem hamming (n : Nat) (t : Nat) : Statement (.hamming n t) := fun _ => none_lt rfl
theorem tileShareStart (n : Nat) (a : Nat) : Statement (.tileShareStart n a) := fun _ => none_lt rfl
theorem tilePassDone (n : Nat) (a : Nat) (f : PassFault) : Statement (.tilePassDone n a f) := fun _ => none_lt rfl
theorem columnTestDone (b : Nat) (a : Nat) (cells : List TestCell) (sumPath : Bool) : Statement (.columnTestDone b a cells sumPath) := fun _ => none_lt rfl
theorem disputeRecomputeDone (n a : Nat) (sBad qBad : Bool) : Statement (.disputeRecomputeDone n a sBad qBad) :=
  fun _ => none_lt rfl
theorem mactrlInject (b : Nat) (a : Nat) : Statement (.mactrlInject b a) := fun _ => none_lt rfl
theorem mactrlColtest (b : Nat) (a : Nat) : Statement (.mactrlColtest b a) := fun _ => none_lt rfl
theorem dotPass (n : Nat) (t : Nat) : Statement (.dotPass n t) := fun _ => none_lt rfl
theorem stagePass (n : Nat) (t : Nat) : Statement (.stagePass n t) := fun _ => none_lt rfl
theorem switchPass (n : Nat) (t : Nat) : Statement (.switchPass n t) := fun _ => none_lt rfl
theorem sklNextArm (lo : Word) : Statement (.sklNextArm lo) := fun _ => none_lt rfl
theorem sklNextCancel (lo : Word) : Statement (.sklNextCancel lo) := fun _ => none_lt rfl
theorem chain (n : Nat) (t : Nat) : Statement (.chain n t) := fun _ => none_lt rfl
theorem copyCart (n : Nat) (t : Nat) : Statement (.copyCart n t) := fun _ => none_lt rfl
theorem atomicCart (n : Nat) (t : Nat) : Statement (.atomicCart n t) := fun _ => none_lt rfl
theorem reduceCart (n : Nat) (t : Nat) : Statement (.reduceCart n t) := fun _ => none_lt rfl
theorem contributionResend (cartid : Nat) (seq : Nat) : Statement (.contributionResend cartid seq) := fun _ => none_lt rfl
theorem roundClose (line : Nat) : Statement (.roundClose line) := fun _ => none_lt rfl
theorem reductionStall (line : Nat) : Statement (.reductionStall line) := fun _ => none_lt rfl
theorem objectCart (n : Nat) (t : Nat) : Statement (.objectCart n t) := fun _ => none_lt rfl
theorem register (j : Nat) : Statement (.register j) := fun _ => none_lt rfl
theorem release (j : Nat) : Statement (.release j) := fun _ => none_lt rfl
theorem promote (j : Nat) : Statement (.promote j) := fun _ => none_lt rfl
theorem pin (j : Nat) : Statement (.pin j) := fun _ => none_lt rfl
theorem unpin (j : Nat) : Statement (.unpin j) := fun _ => none_lt rfl
theorem demote (j : Nat) : Statement (.demote j) := fun _ => none_lt rfl
theorem stream (j : Nat) : Statement (.stream j) := fun _ => none_lt rfl
theorem evict (j : Nat) : Statement (.evict j) := fun _ => none_lt rfl
theorem promotionComplete (j : Nat) : Statement (.promotionComplete j) := fun _ => none_lt rfl
theorem unpinMoveDone (j : Nat) : Statement (.unpinMoveDone j) := fun _ => none_lt rfl
theorem demotionComplete (j : Nat) : Statement (.demotionComplete j) := fun _ => none_lt rfl
theorem cartComplete (cartid : Nat) : Statement (.cartComplete cartid) := fun _ => none_lt rfl
theorem fillComplete (line : Nat) : Statement (.fillComplete line) := fun _ => none_lt rfl
theorem mapoutStart (slice : Nat) (layer : Nat) : Statement (.mapoutStart slice layer) := fun _ => none_lt rfl
theorem mapoutDone (slice : Nat) : Statement (.mapoutDone slice) := fun _ => none_lt rfl
theorem bankSpareStart (layer : Nat) (bank : Nat) : Statement (.bankSpareStart layer bank) := fun _ => none_lt rfl
theorem bankCopyDone (layer : Nat) (bank : Nat) : Statement (.bankCopyDone layer bank) := fun _ => none_lt rfl
theorem dispatch : Statement .dispatch := fun _ => none_lt rfl
theorem returnRows : Statement .returnRows := fun _ => none_lt rfl
theorem combine : Statement .combine := fun _ => none_lt rfl
theorem redispatch : Statement .redispatch := fun _ => none_lt rfl
theorem wainEnd : Statement .wainEnd := fun _ => none_lt rfl
theorem update : Statement .update := fun _ => none_lt rfl
theorem commit : Statement .commit := fun _ => none_lt rfl
theorem millEnd : Statement .millEnd := fun _ => none_lt rfl
theorem millBlockDone (j : Nat) (k : Nat) : Statement (.millBlockDone j k) := fun _ => none_lt rfl
theorem millStateArrive (j : Nat) (k : Nat) (state : List Byte) : Statement (.millStateArrive j k state) := fun _ => none_lt rfl
theorem matrixJobDone (j : Nat) : Statement (.matrixJobDone j) := fun _ => none_lt rfl
theorem runtimeCounterTest : Statement .runtimeCounterTest := fun _ => none_lt rfl
theorem stepResolve : Statement .stepResolve := fun _ => none_lt rfl
theorem wcRegeneration : Statement .wcRegeneration := fun _ => none_lt rfl
theorem fenceStall : Statement .fenceStall := fun _ => none_lt rfl
theorem write (p : Nat) (pkt : Packet) : Statement (.write p pkt) := fun h => port_lt rfl (by simp [Instr.wf, wfPacketRow] at h; simp [h])
theorem readreq (p : Nat) (pkt : Packet) : Statement (.readreq p pkt) := fun h => port_lt rfl (by simp [Instr.wf, wfPacketRow] at h; simp [h])
theorem readrsp (p : Nat) (pkt : Packet) : Statement (.readrsp p pkt) := fun h => port_lt rfl (by simp [Instr.wf, wfPacketRow] at h; simp [h])
theorem atomic (p : Nat) (pkt : Packet) : Statement (.atomic p pkt) := fun h => port_lt rfl (by simp [Instr.wf, wfPacketRow] at h; simp [h])
theorem atomrsp (p : Nat) (pkt : Packet) : Statement (.atomrsp p pkt) := fun h => port_lt rfl (by simp [Instr.wf, wfPacketRow] at h; simp [h])
theorem reduce (p : Nat) (pkt : Packet) : Statement (.reduce p pkt) := fun h => port_lt rfl (by simp [Instr.wf, wfPacketRow] at h; simp [h])
theorem tree (p : Nat) (pkt : Packet) : Statement (.tree p pkt) := fun h => port_lt rfl (by simp [Instr.wf, wfPacketRow] at h; simp [h])
theorem treeRunStart (tr : Nat) : Statement (.treeRunStart tr) := fun _ => none_lt rfl
theorem ack (p : Nat) (pkt : Packet) : Statement (.ack p pkt) := fun h => port_lt rfl (by simp [Instr.wf, wfPacketRow] at h; simp [h])
theorem refuse (p : Nat) (pkt : Packet) : Statement (.refuse p pkt) := fun h => port_lt rfl (by simp [Instr.wf, wfPacketRow] at h; simp [h])
theorem flagSlip (p : Nat) (pkt : Packet) : Statement (.flagSlip p pkt) := fun h => port_lt rfl (by simp [Instr.wf] at h; simp [h])
theorem flagBlight (p : Nat) (pkt : Packet) : Statement (.flagBlight p pkt) := fun h => port_lt rfl (by simp [Instr.wf] at h; simp [h])
theorem flagArrive (p : Nat) (pkt : Packet) : Statement (.flagArrive p pkt) := fun h => port_lt rfl (by simp [Instr.wf] at h; simp [h])
theorem flagRelease (p : Nat) (pkt : Packet) : Statement (.flagRelease p pkt) := fun h => port_lt rfl (by simp [Instr.wf] at h; simp [h])
theorem mgmt (p : Nat) (before : List Packet) (pkt : Packet) : Statement (.mgmt p before pkt) :=
  fun h => port_lt rfl (by simp [Instr.wf, wfPacketRow] at h; simp [h])
theorem transitPacket (p : Nat) (pkt : Packet) (bad : Bool) : Statement (.transitPacket p pkt bad) := fun h => port_lt rfl (by simp [Instr.wf] at h; simp [h])
theorem nak (p : Nat) (tr : Trailer) : Statement (.nak p tr) := fun h => port_lt rfl (by simp [Instr.wf] at h; simp [h])
theorem portRetrain (p : Nat) : Statement (.portRetrain p) := fun h => port_lt rfl (by simp [Instr.wf] at h; simp [h])
theorem portLockLoss (p : Nat) : Statement (.portLockLoss p) := fun h => port_lt rfl (by simp [Instr.wf] at h; simp [h])
theorem wavelengthFail (p : Nat) (lane : Nat) : Statement (.wavelengthFail p lane) := fun h => port_lt rfl (by simp [Instr.wf] at h; simp [h])
theorem linkctlFailover (p : Nat) (m : Told (Nat × Bool)) : Statement (.linkctlFailover p m) :=
  fun h => port_lt rfl (by simp [Instr.wf, wfPacketRow] at h; simp [h])
theorem laneFailover (p : Nat) : Statement (.laneFailover p) := fun h => port_lt rfl (by simp [Instr.wf] at h; simp [h])
theorem linkctlReason (p : Nat) (m : Told Nat) : Statement (.linkctlReason p m) :=
  fun h => port_lt rfl (by simp [Instr.wf, wfPacketRow] at h; simp [h])
theorem linkctlTime (p : Nat) (pkt : Packet) (t2 t3 t4 : Nat) : Statement (.linkctlTime p pkt t2 t3 t4) :=
  fun h => port_lt rfl (by simp [Instr.wf, wfPacketRow] at h; simp [h])
theorem trainingSequence (p : Nat) (deskewed : Bool) (locked : Nat) : Statement (.trainingSequence p deskewed locked) := fun h => port_lt rfl (by simp [Instr.wf] at h; simp [h])
theorem hello (p : Nat) (m : Told Hello) : Statement (.hello p m) :=
  fun h => port_lt rfl (by simp [Instr.wf, wfPacketRow] at h; simp [h])
theorem proof (p : Nat) (m : Told (List Byte)) : Statement (.proof p m) :=
  fun h => port_lt rfl (by simp [Instr.wf, wfPacketRow] at h; simp [h])
theorem confirm (p : Nat) (pkt : Packet) : Statement (.confirm p pkt) := fun h => port_lt rfl (by simp [Instr.wf, wfPacketRow] at h; simp [h])
theorem admitRetry (p : Nat) : Statement (.admitRetry p) := fun h => port_lt rfl (by simp [Instr.wf] at h; simp [h])
theorem floorSlot (slot : FloorSlot) : Statement (.floorSlot slot) := fun _ => none_lt rfl
theorem beacon (bu : Burst) : Statement (.beacon bu) := fun _ => none_lt rfl
theorem rangeAttempt : Statement .rangeAttempt := fun _ => none_lt rfl
theorem rangeEcho (delay : Nat) (whole : Bool) : Statement (.rangeEcho delay whole) := fun _ => none_lt rfl
theorem joinAttempt : Statement .joinAttempt := fun _ => none_lt rfl
theorem join (bu : Burst) : Statement (.join bu) := fun _ => none_lt rfl
theorem telem (bu : Burst) : Statement (.telem bu) := fun _ => none_lt rfl
theorem memberLost (idx : Nat) : Statement (.memberLost idx) := fun _ => none_lt rfl
theorem leaveAttempt : Statement .leaveAttempt := fun _ => none_lt rfl
theorem leave (bu : Burst) : Statement (.leave bu) := fun _ => none_lt rfl
theorem claimAttempt : Statement .claimAttempt := fun _ => none_lt rfl
theorem claim (bu : Burst) : Statement (.claim bu) := fun _ => none_lt rfl
theorem beaconTimeout : Statement .beaconTimeout := fun _ => none_lt rfl
theorem floorFlagBlock (seen : Nat) : Statement (.floorFlagBlock seen) := fun _ => none_lt rfl
theorem slipFlagSlot (j : Nat) (light : Bool) : Statement (.slipFlagSlot j light) := fun _ => none_lt rfl
theorem floorExit : Statement .floorExit := fun _ => none_lt rfl
theorem correctedWriteback (cw : Nat) : Statement (.correctedWriteback cw) := fun _ => none_lt rfl
theorem gleanerRead (ch : Nat) : Statement (.gleanerRead ch) := fun _ => none_lt rfl
theorem rowRepairDone (ch : Nat) (row : Nat) : Statement (.rowRepairDone ch row) := fun _ => none_lt rfl
theorem gleanerAdapt : Statement .gleanerAdapt := fun _ => none_lt rfl
theorem rakeRead (slice : Nat) : Statement (.rakeRead slice) := fun _ => none_lt rfl
theorem rakeSlow (slice : Nat) : Statement (.rakeSlow slice) := fun _ => none_lt rfl
theorem flipArm (u : FlipUnit) (data : Word) : Statement (.flipArm u data) := fun _ => none_lt rfl
theorem flipCancel (u : FlipUnit) (data : Word) : Statement (.flipCancel u data) := fun _ => none_lt rfl
theorem announcedExit : Statement .announcedExit := fun _ => none_lt rfl
theorem por : Statement .por := fun _ => none_lt rfl
theorem mainpg : Statement .mainpg := fun _ => none_lt rfl
theorem mainPgFall : Statement .mainPgFall := fun _ => none_lt rfl
theorem perstAssert : Statement .perstAssert := fun _ => none_lt rfl
theorem perstDeassert : Statement .perstDeassert := fun _ => none_lt rfl
theorem watchdog : Statement .watchdog := fun _ => none_lt rfl
theorem thermalTrip : Statement .thermalTrip := fun _ => none_lt rfl
theorem startPhaseDone (r : PhaseResult) (us : Nat) : Statement (.startPhaseDone r us) := fun _ => none_lt rfl
theorem startDeadline : Statement .startDeadline := fun _ => none_lt rfl
theorem rootSubreset : Statement .rootSubreset := fun _ => none_lt rfl
theorem quiesceTimeout : Statement .quiesceTimeout := fun _ => none_lt rfl
theorem rootSubresetDone : Statement .rootSubresetDone := fun _ => none_lt rfl
theorem loftLayerReset (layer : Nat) : Statement (.loftLayerReset layer) := fun _ => none_lt rfl
theorem layerResetDone (layer : Nat) : Statement (.layerResetDone layer) := fun _ => none_lt rfl
theorem boughReset (b : Nat) : Statement (.boughReset b) := fun _ => none_lt rfl
theorem portReset (p : Nat) : Statement (.portReset p) := fun h => port_lt rfl (by simp [Instr.wf] at h; simp [h])
theorem storeComplete : Statement .storeComplete := fun _ => none_lt rfl
theorem lifeStoreTimer : Statement .lifeStoreTimer := fun _ => none_lt rfl
theorem fallowWakeDone : Statement .fallowWakeDone := fun _ => none_lt rfl
theorem housekeepingRound (chans : List (BitVec 16)) : Statement (.housekeepingRound chans) := fun _ => none_lt rfl
theorem layerFault (layer : Nat) (site : Nat) : Statement (.layerFault layer site) := fun _ => none_lt rfl
theorem powerManagerTick : Statement .powerManagerTick := fun _ => none_lt rfl
theorem excursionExhausted : Statement .excursionExhausted := fun _ => none_lt rfl
theorem clockFault (d : Nat) : Statement (.clockFault d) := fun _ => none_lt rfl
theorem clockRelockTimeout (d : Nat) : Statement (.clockRelockTimeout d) := fun _ => none_lt rfl
theorem stage : Statement .stage := fun _ => none_lt rfl
theorem stageComplete (selfOk : Bool) : Statement (.stageComplete selfOk) := fun _ => none_lt rfl
theorem graft : Statement .graft := fun _ => none_lt rfl
theorem graftHandover : Statement .graftHandover := fun _ => none_lt rfl
theorem abandon : Statement .abandon := fun _ => none_lt rfl
theorem select : Statement .select := fun _ => none_lt rfl
theorem fwmConfirm : Statement .fwmConfirm := fun _ => none_lt rfl
theorem fwmAbandon : Statement .fwmAbandon := fun _ => none_lt rfl
theorem trialExpiry : Statement .trialExpiry := fun _ => none_lt rfl
theorem fallback : Statement .fallback := fun _ => none_lt rfl
theorem accept (st : Nat) (size : Nat) : Statement (.accept st size) := fun _ => none_lt rfl
theorem reset : Statement .reset := fun _ => none_lt rfl
theorem fallow : Statement .fallow := fun _ => none_lt rfl
theorem wake : Statement .wake := fun _ => none_lt rfl
theorem store : Statement .store := fun _ => none_lt rfl
theorem nop : Statement .nop := fun _ => none_lt rfl
theorem jobload : Statement .jobload := fun _ => none_lt rfl
theorem jobStart : Statement .jobStart := fun _ => none_lt rfl
theorem jobstop : Statement .jobstop := fun _ => none_lt rfl
theorem blight : Statement .blight := fun _ => none_lt rfl
theorem swap : Statement .swap := fun _ => none_lt rfl
theorem object : Statement .object := fun _ => none_lt rfl
theorem subst : Statement .subst := fun _ => none_lt rfl
theorem copyin : Statement .copyin := fun _ => none_lt rfl
theorem copyout : Statement .copyout := fun _ => none_lt rfl
theorem fill : Statement .fill := fun _ => none_lt rfl
theorem flashwrite : Statement .flashwrite := fun _ => none_lt rfl
theorem flashread : Statement .flashread := fun _ => none_lt rfl
theorem fuse : Statement .fuse := fun _ => none_lt rfl
theorem attest : Statement .attest := fun _ => none_lt rfl
theorem identity : Statement .identity := fun _ => none_lt rfl
theorem logEnable : Statement .logEnable := fun _ => none_lt rfl
theorem functionLevelReset : Statement .functionLevelReset := fun _ => none_lt rfl
theorem d3hotEntry : Statement .d3hotEntry := fun _ => none_lt rfl
theorem powerDown : Statement .powerDown := fun _ => none_lt rfl
theorem linkPacketDiscard (p : Nat) (f : LinkFault) : Statement (.linkPacketDiscard p f) := fun h => port_lt rfl (by simp [Instr.wf] at h; simp [h])
theorem bareTrailer (p : Nat) (tr : Trailer) : Statement (.bareTrailer p tr) := fun h => port_lt rfl (by simp [Instr.wf] at h; simp [h])
theorem reservedOpPacket (p : Nat) (pkt : Packet) : Statement (.reservedOpPacket p pkt) := fun h => port_lt rfl (by simp [Instr.wf] at h; simp [h])
theorem d0Entry : Statement .d0Entry := fun _ => none_lt rfl
theorem hostTransferComplete (handle : Nat) (ok : Bool) : Statement (.hostTransferComplete handle ok) := fun _ => none_lt rfl
theorem boughResetDone (b : Nat) : Statement (.boughResetDone b) := fun _ => none_lt rfl
theorem pllRelock (d : Nat) : Statement (.pllRelock d) := fun _ => none_lt rfl

end Sys2Proof.Laws.Wf
end

