-- ==== Sys2Proof/Tests/Slice0.lean ====
section
/-! SUPPORT. Tests: commands that are not well formed, one step on small states, and for each statement a state that meets
its hypotheses. -/

namespace Sys2Proof.Machine

set_option Elab.async false

/-! ## Small states -/

/-- A device with its supplies up, in its start. -/
def tUp : State := { State.reset with rst := { mainPg := true } }

/-- The same device, Idle. -/
def tIdle : State := setFld tUp Reg.RST_STATUS Fld.RST_STATUS_STATE stIdle

/-- A frame program item of four words. -/
def tItem (w0 w1 w2 w3 : Nat) : List Byte := leBytes 4 w0 ++ leBytes 4 w1 ++ leBytes 4 w2 ++ leBytes 4 w3

/-- Bough 0 walks at item 0 of a program at address 0. -/
def tWalk (bs : List Byte) : State := setBough (poke tIdle 0 bs) 0 { walking := true }

/-- What `Statements.Calm` and `Statements.Clean` ask. -/
def tCalm (s : State) : Bool :=
  s.carts.isEmpty && s.fab.inb.isEmpty && s.loft.waiting.isEmpty && s.loft.rounds.isEmpty && s.loft.banks.isEmpty
    && fld s Reg.WAN_STATUS Fld.WAN_STATUS_BUSY = 0
def tClean (s : State) : Bool := s.ecc.cw.isEmpty && s.ecc.lpar.isEmpty && !initMode1 s

theorem calm_of_tCalm {s : State} (h : tCalm s = true) : Statements.Calm s := by
  simpa [tCalm, Statements.Calm, and_assoc] using h

theorem clean_of_tClean {s : State} (h : tClean s = true) : Statements.Clean s := by
  simpa [tClean, Statements.Clean, and_assoc] using h

/-! ## Commands that are not well formed -/

def wPkt : Packet :=
  { dst := 0, vl := 0, op := 1, last := false, enc := false, kph := false, src := 0, ttl := 0, dtype := 0, rop := 0, pkey := 0
    frame := 0, cartid := 0, len := 0, cseq := 0, addr := 0, aux := 0, rsv := 0, hcrc := 0, payload := []
    trailer := { noTrailer with tag := List.replicate 16 0 } }

def wBurst : Burst :=
  { kind := 1, segment := 0, src := 0, fidx := 0, frame := 0, payload := [], tag := List.replicate 16 0, crc := 0 }

def wHello : Hello :=
  { device := 0, pkey := 0, major := 0, enc := false, nonce := List.replicate 32 0, idkey := [], cert := [], certSig := []
    digest := [] }

/-- Packets of the link-local opcodes. -/
def wCtl : Packet := { wPkt with op := 12 }
def wAdm : Packet := { wPkt with op := 11 }

theorem test_illformed_numbers :
    ∀ i ∈ [Instr.registerWrite .bar0 (2 ^ 18) 4 0, .registerWrite .bar2 (2 ^ 20) 4 0, .loReadLatch .bar0 0 3, .rw1cClear 2 0 0
      , .numclrWrite (2 ^ 28) 0 0, .slotStart 24 0, .slotStart 0 1000, .endItem 64, .semaphoreSignal 0 128, .stashSpillDone 4096
      , .workItemRetire 0 64, .bghPreempt 68, .mma 0 256000, .tileShareStart 0 4, .columnTestDone 0 0 [⟨0, 0, 130, 0⟩] false, .columnTestDone 0 0 [⟨0, 129, 0, 0⟩] false
      , .sklNextArm 0, .sklNextCancel 1, .contributionResend (2 ^ 16) 0, .contributionResend 0 (2 ^ 32), .roundClose (2 ^ 40)
      , .register 65536, .mapoutStart 64 0, .bankSpareStart 4 0, .treeRunStart 64, .millBlockDone 65536 0
      , .hostTransferComplete (2 ^ 32) true], i.wf = false := by decide +kernel

theorem test_illformed_messages :
    ∀ i ∈ [Instr.write 24 wPkt, .write 0 { wPkt with op := 2 }, .write 0 { wPkt with dst := 2 ^ 18 }, .write 0 { wPkt with vl := 4 }
      , .reservedOpPacket 0 { wPkt with op := 64 }, .write 0 { wPkt with kph := true }, .write 0 { wPkt with src := 2 ^ 18 }
      , .write 0 { wPkt with ttl := 64 }, .write 0 { wPkt with dtype := 16 }, .write 0 { wPkt with rop := 16 }
      , .write 0 { wPkt with pkey := 2 ^ 16 }, .write 0 { wPkt with frame := 2 ^ 16 }, .write 0 { wPkt with cartid := 2 ^ 16 }
      , .write 0 { wPkt with len := 513 }, .write 0 { wPkt with len := 1 }, .write 0 { wPkt with cseq := 2 ^ 32 }
      , .write 0 { wPkt with addr := 2 ^ 40 }, .write 0 { wPkt with aux := 2 ^ 24 }
      , .bareTrailer 0 { wPkt.trailer with lseq := 2 ^ 32 }, .bareTrailer 0 { wPkt.trailer with lack := 2 ^ 32 }
      , .bareTrailer 0 { wPkt.trailer with crvl := 4 }, .bareTrailer 0 { wPkt.trailer with credits := 2 ^ 14 }, .nak 0 wPkt.trailer
      , .write 0 { wPkt with rsv := 512 }, .write 0 { wPkt with hcrc := 2 ^ 32 }, .bareTrailer 0 { wPkt.trailer with tag := [] }
      , .bareTrailer 0 { wPkt.trailer with rsv := 2 ^ 14 }, .bareTrailer 0 { wPkt.trailer with crc := 2 ^ 32 }
      , .linkPacketDiscard 0 (.uncorrectable 9)
      , .mgmt 0 [] wPkt, .mgmt 0 [wPkt] { wPkt with op := 13 }, .wavelengthFail 0 9, .linkctlFailover 0 ⟨wCtl, 8, false⟩
      , .linkctlReason 0 ⟨wCtl, 10⟩, .linkctlTime 0 wCtl (2 ^ 64) 0 0, .linkctlTime 0 wCtl 0 (2 ^ 64) 0, .linkctlTime 0 wCtl 0 0 (2 ^ 64)
      , .trainingSequence 0 true 512, .hello 0 ⟨wAdm, { wHello with device := 2 ^ 18 }⟩, .hello 0 ⟨wAdm, { wHello with pkey := 2 ^ 16 }⟩
      , .hello 0 ⟨wAdm, { wHello with major := 2 ^ 16 }⟩, .hello 0 ⟨wAdm, { wHello with nonce := [] }⟩, .hello 0 ⟨wPkt, wHello⟩
      , .proof 0 ⟨wPkt, []⟩, .confirm 0 wPkt], i.wf = false := by
  decide +kernel

theorem test_illformed_floor_and_device :
    ∀ i ∈ [Instr.floorSlot (.telemetry 1000), .beacon { wBurst with kind := 3 }, .beacon { wBurst with crc := 2 ^ 32 }, .beacon { wBurst with segment := 2 ^ 16 }
      , .beacon { wBurst with src := 2 ^ 18 }, .beacon { wBurst with fidx := 256 }, .beacon { wBurst with frame := 2 ^ 48 }
      , .beacon { wBurst with payload := List.replicate 449 0 }, .beacon { wBurst with tag := [] }, .rangeEcho (2 ^ 12) true
      , .memberLost 256, .floorFlagBlock (2 ^ 32), .gleanerRead 256, .rakeRead 64, .startPhaseDone .pass (2 ^ 32)
      , .startPhaseDone (.loft [(4, 0)]) 0, .startPhaseDone (.loft [(0, 64)]) 0, .startPhaseDone (.crown [] [68]) 0
      , .startPhaseDone (.crown [⟨68, 0, [], false⟩] []) 0, .startPhaseDone (.crown [⟨0, 4, [], false⟩] []) 0
      , .loftLayerReset 4, .boughReset 68, .portReset 24, .housekeepingRound [], .layerFault 0 32, .clockFault 0, .clockFault 26
      , .pllRelock 26, .accept 64 64, .accept 0 3], i.wf = false := by decide +kernel

theorem test_wellformed : ∀ i ∈ [Instr.registerWrite .bar2 (2 ^ 20 - 1) 1 0, .write 23 { wPkt with dst := 2 ^ 18 - 1 }, .beacon wBurst
    , .beacon { wBurst with kind := 2 }, .hello 0 ⟨wAdm, wHello⟩, .mgmt 23 [{ wPkt with op := 13 }] { wPkt with op := 13 }
    , .columnTestDone 67 3 [⟨0, 128, 129, 0⟩] true, .startPhaseDone (.crown [⟨67, 3, [], false⟩] [67]) 0, .endItem 63
    , .bghPreempt 67, .mma 63 255999, .clockFault 25, .accept 63 8], i.wf = true := by decide +kernel

/-! ## Witnesses: the queue, the vectors and a device without power -/

theorem wit_Queue : tIdle.pending = [] ∧ (match step tIdle with
    | .next t => decide (t = tIdle)
    | _ => false) = true := by decide +kernel

theorem wit_NoVector : ({ tIdle with host := { bme := false } }).host.bme = false ∧ alive { tIdle with rst := { power := false } } = false ∧ Instr.frameTick ∉ Statements.powerCommands := by decide +kernel

/-- The next item of bough n is unmapped. -/
def tNoItem (s : State) (n : Nat) : Bool :=
  match walkTo s n with
  | .unmapped => true
  | _ => false

/-- Bough 0 walks at an item that no memory backs. -/
def tUnmapped : State := setReg64 (setBough tIdle 0 { walking := true }) (Reg.BGH_PBASE_LO 0) (2 ^ 40 - 64)

theorem wit_OnlyStop : Statements.walks .nop = none ∧ Statements.walks (.mma 63 0) = some 63 ∧ tNoItem tIdle 63 = false
    ∧ Statements.walks (.endItem 0) = some 0 ∧ alive tUnmapped = true ∧ tNoItem tUnmapped 0 = true := by decide +kernel

/-- An unmapped item stops its bough's command by name (R254). -/
theorem test_unmapped_item :
    (match exec (.endItem 0) tUnmapped with
    | .fault f => decide (f = .unmappedItem)
    | _ => false) = true := by decide +kernel

/-! ## Witnesses: boughs -/

theorem wit_WalkItems :
    (alive (tWalk (tItem 0 0 0 0)) && walkHas (tWalk (tItem 0 0 0 0)) 0 fun u b i _ =>
      i.kind = 0 && (!i.fence || allRetired u b)) ∧
    (walkHas (tWalk (tItem 0x80000000 0x06000000 0 7)) 0 fun u b i _ =>
      i.kind = 8 && !slotBusy u b (bitsN i.w1 31 27) && !(bitN i.w1 23) && itemIdx u b ≠ 65535) := by decide +kernel

theorem wit_SlotItems :
    (walkHas (tWalk (tItem 0x90000000 31 5 6)) 0 fun u b i _ =>
      b < 68 && i.kind = 9 && !i.fence && !slotBusy u b (bitsN i.w1 4 0) && itemIdx u b ≠ 65535) ∧
    (walkHas (tWalk (tItem 0xA0000000 31 0xFFFFFFFF 0)) 0 fun _ _ i _ => i.kind = 10) ∧
    (walkHas (tWalk (tItem 0xE0000000 (0x8000 + 1023) 0 0)) 0 fun u b i _ => i.kind = 14 && bitN i.w1 15 && allRetired u b) := by
  decide +kernel

/-- A signal of 3 to semaphore 127 of bough 0 is on the network. -/
def tSignal (c : Nat) : State := { tIdle with net := [⟨0, 127, c⟩] }

theorem wit_Semaphores :
    (walkHas (tWalk (tItem 0xB0000000 127 0 0)) 0 fun u b i _ => i.kind = 11 && bitsN i.w2 23 0 ≤ sem u b (bitsN i.w1 6 0)) ∧
    (walkHas (tWalk (tItem 0xC0000000 0 1 0)) 0 fun u b i _ => i.kind = 12 && allRetired u b) ∧
    (alive (tSignal 3) ∧ netHeld (tSignal 3) 0 = false ∧ phys (tSignal 3) 0 < 68 ∧ (∃ x ∈ (tSignal 3).net, x.bough = 0 ∧ x.sem = 127)
      ∧ fld (tSignal 3) (Reg.BGH_STATUS 0) Fld.BGH_STATUS_SEMWAIT = 0
      ∧ sem (tSignal 3) 0 127 + (((tSignal 3).net.filter fun x => x.bough = 0 && x.sem = 127).map (·.count)).sum ≤ 2 ^ 24 - 1) ∧
    ((tSignal (2 ^ 24)).host.job = none
      ∧ 2 ^ 24 - 1 < sem (tSignal (2 ^ 24)) 0 127
        + (((tSignal (2 ^ 24)).net.filter fun x => x.bough = 0 && x.sem = 127).map (·.count)).sum) := by decide +kernel

/-- Bough 0 walks at a BARRIER on unit 31 with a mask. -/
def tBar (mask : Nat) : State := setReg64 (tWalk (tItem 0xD0000000 31 0 0)) (Reg.BGH_BARMASK_LO 0 31) mask

theorem wit_BarrierItems :
    (walkHas (tBar 1) 0 fun u b i _ => b = phys (tBar 1) 0 && phys u 0 = phys (tBar 1) 0 && i.kind = 13 && allRetired u b
      && barSt u (bitsN i.w1 4 0) = {} && itemIdx u b ≠ 65535 && !netHeld u 0 && reg64 u (Reg.BGH_BARMASK_LO b (bitsN i.w1 4 0)) = 2 ^ 0) ∧
    (walkHas (tBar 3) 0 fun u b i _ => i.kind = 13 && allRetired u b && barSt u (bitsN i.w1 4 0) = {}
      && (maskBoughs (reg64 u (Reg.BGH_BARMASK_LO b (bitsN i.w1 4 0)))).any (· ≠ 0)) := by decide +kernel

/-- Entry 63 of bough 0 has finished: a TILE, or a CHAIN that leaves its summary in slot 31 and signals. -/
def tEntry (w0 w3 : Nat) : SbEntry := { id := 63, item := 0, w0 := w0, w2 := 0, w3 := w3, body := [], step := 0, done := true }
def tDone : State := setBough tIdle 0 { sb := [tEntry 0x10000000 0] }
def tChained : State := setBough tIdle 0 { sb := [tEntry 0x20FC0000 0x80000001], halted := true }

theorem wit_WorkItemRetires :
    (alive tDone = true ∧ phys tDone 0 < 68 ∧ entryOf tDone 0 63 = some (tEntry 0x10000000 0) ∧ (bough tDone 0).halted = false
      ∧ tDone.host.job = none ∧ (tEntry 0x10000000 0).done = true ∧ (tEntry 0x10000000 0).w0 / 2 ^ 28 ≠ 2) ∧
    (phys tChained 0 = 0 ∧ entryOf tChained 0 63 = some (tEntry 0x20FC0000 0x80000001) ∧ (bough tChained 0).halted = true
      ∧ (tEntry 0x20FC0000 0x80000001).w0 / 2 ^ 28 = 2 ∧ bitN (tEntry 0x20FC0000 0x80000001).w0 23 = true
      ∧ bitN (tEntry 0x20FC0000 0x80000001).w3 31 = true) := by decide +kernel

/-- A job is loaded. -/
def tJob : State := { tIdle with host := { job := some { handle := 4097, strict := false, nout := 0, start := 1 } } }

theorem wit_Preemption : alive tIdle = true ∧ tIdle.host.job = none ∧ isStopped tIdle 67 = false ∧ (bough tIdle 67).sb = []
    ∧ (bough tDone 0).sb ≠ [] ∧ tJob.host.job.isSome = true ∧ (63 ∈ presented tJob ∧ isStopped tJob 63 = false) := by
  decide +kernel

/-- A step is open. -/
def tStep : State := { tIdle with step := { opened := [{ start := 0 }] } }

/-- The copy of bough 63 to the spare 67 runs. -/
def tCopy : State := { tIdle with integ := { copies := [(63, 63, 67)] } }

theorem wit_BoughSubstitution :
    (alive tStep = true ∧ phys tStep 63 < 68 ∧ stepOpen tStep = true ∧ tStep.integ.substDue = [] ∧ tStep.integ.copies = []
      ∧ stepOpen tJob = false ∧ tJob.host.job ≠ none ∧ phys tJob 0 < 68) ∧
    ((tCopy.integ.copies.find? fun c => c.1 = 63) = some (63, 63, 67) ∧ tCopy.integ.heldBars = [] ∧ tCopy.integ.heldParts = []
      ∧ tCopy.ecc.cw = []) := by decide +kernel

/-! ## Witnesses: the frame -/

/-- An Idle device whose tick runs. -/
def tTick : State := setFld tIdle Reg.FRM_STATUS Fld.FRM_STATUS_TICKING 1

/-- The same with a bough still walking, and with the slip flag raised. -/
def tLate : State := setBough tTick 0 { walking := true }
def tSlip : State := { tTick with frm := { slipFlag := true } }

/-- A slip frame in which FRM_SLIPRUN has come to a limit of 3. -/
def tRun : State :=
  setRegN (setFld (setFld tTick Reg.FRM_STATUS Fld.FRM_STATUS_SLIPFRAME 1) Reg.FRM_CTRL Fld.FRM_CTRL_SLIPLIM 3) Reg.FRM_SLIPRUN 3

/-- The host reaches the device. -/
def tHost : State := { tIdle with host := { config := true, bme := true } }

theorem wit_Frame : alive tTick = true ∧ mayTick tTick = true ∧ ticking tTick = true ∧ tTick.frm.slipFlag = false
    ∧ ticking tSlip = true ∧ tSlip.frm.slipFlag = true ∧ ticking tIdle = false ∧ mayTick tIdle = true
    ∧ retired tTick = true ∧ retired tLate = false ∧ slipFrame tRun = true ∧ tTick.frm.slipped = false
    ∧ fld tRun Reg.FRM_CTRL Fld.FRM_CTRL_SLIPLIM ≠ 0
    ∧ regN tRun Reg.FRM_SLIPRUN = fld tRun Reg.FRM_CTRL Fld.FRM_CTRL_SLIPLIM
    ∧ hostReach tHost = true ∧ deadBlock tHost Reg.FRM_CTRL = false ∧ deadBlock tHost Reg.FRM_SLIPWIN = false := by
  decide +kernel

theorem wit_AtRest : Statements.AtRest tTick ∧ Statements.AtRest tSlip ∧ Statements.AtRest tIdle := by
  unfold Statements.AtRest
  decide +kernel

/-- A Control packet without payload. -/
def tPkt (op : Nat) : Packet :=
  { dst := 0, vl := vlCtrl, op := op, last := false, enc := false, kph := false, src := 7, ttl := 8, dtype := 0, rop := 0
    pkey := 0, frame := 0, cartid := 1, len := 0, cseq := 0, addr := 0, aux := 0, rsv := 0, hcrc := 0, payload := [], trailer := noTrailer }

/-- Port 23 is up with credit on every lane. -/
def tPort : State := mapPort (setPortState tIdle 23 psUp) 23 fun x => { x with credit := [64, 64, 64, 64] }

/-- A Control packet waits at port 23. -/
def tCtrl : State := mapPort tPort 23 fun x => { x with ctrl := [tPkt opAck] }

theorem wit_SlotSendsControl : alive tCtrl = true ∧ portUp tCtrl 23 = true
    ∧ 0 < fld tCtrl Reg.FRM_SLOTS Fld.FRM_SLOTS_COUNT ∧ tCtrl.host.job = none ∧ tCtrl.carts = [] ∧ tCtrl.step.opened = []
    ∧ (port tCtrl 23).again = [] ∧ (port tCtrl 23).transit = [] ∧ (port tCtrl 23).best = []
    ∧ (port tCtrl 23).ctrl = [tPkt opAck] ∧ (tPkt opAck).vl = vlCtrl ∧ mayStart tCtrl 23 (tPkt opAck) = true
    ∧ 32 * pktUnits (tPkt opAck) ≤ 25600 := by decide +kernel

/-- The leader of a Floor that is a gateway under port 23. -/
def tGate : State :=
  setFld (setFld (setFlrState tPort fsLeader) Reg.FAB_FLAG Fld.FAB_FLAG_GATEWAY 1) Reg.FAB_FLAG Fld.FAB_FLAG_PARENT 23

theorem wit_TimeTransferStarts : alive tGate = true ∧ flrState tGate = fsLeader ∧ isGateway tGate = true
    ∧ isRootGw tGate = false ∧ portUp tGate (parentPort tGate) = true ∧ tGate.floor.tlast = 0 := by decide +kernel

/-! ## Witnesses: the host port -/

/-- Window 0 of BAR0 shows the page of an address. -/
def tWin (a : Nat) : State := setFld tHost (Reg.HST_WIN 0) Fld.HST_WIN_PAGE (a / 0x10000)

theorem wit_Registers :
    (hostReach (tWin Reg.MIL_GATE) = true ∧ bar0Of (tWin Reg.MIL_GATE) (0x10000 + Reg.MIL_GATE % 0x10000) = .ctl Reg.MIL_GATE
      ∧ inPage Reg.MIL_GATE = false ∧ (regRow Reg.MIL_GATE).isSome = true ∧ Statements.plainReg (tWin 0) Reg.MIL_GATE = true) ∧
    (isLo Reg.FRM_COUNT_LO = true ∧ deadBlock (tWin 0) Reg.FRM_COUNT_LO = false ∧ isLo (Reg.FRM_COUNT_LO + 4) = false
      ∧ (regRow (Reg.FRM_COUNT_LO + 4)).isSome = true
      ∧ bar0Of (tWin Reg.FRM_COUNT_LO) (0x10000 + Reg.FRM_COUNT_LO % 0x10000) = .ctl Reg.FRM_COUNT_LO) ∧
    kfind ({ tHost with latch := [(Reg.FRM_COUNT_LO + 4, 5)] }).latch (Reg.FRM_COUNT_LO + 4) = some 5 ∧
    (rstState (setFld tHost Reg.RST_STATUS Fld.RST_STATUS_STATE stDormant) = stDormant
      ∧ deadBlock (setFld tHost Reg.RST_STATUS Fld.RST_STATUS_STATE stDormant) Reg.MIL_GATE = true) ∧
    (rstState (setFld tHost Reg.RST_STATUS Fld.RST_STATUS_STATE stFallow) = stFallow
      ∧ deadBlock (setFld tHost Reg.RST_STATUS Fld.RST_STATUS_STATE stFallow) (Reg.BGH_STATUS 0) = true) ∧
    (bar0Of tHost 0x7000 = .none ∧ regSizeOk Reg.HST_CTRL 2 = false ∧ bar0Of tHost 0xFFC = .ctl 0xFFC ∧ regRow 0xFFC = none) := by
  decide +kernel

theorem wit_NumClear : (regTable.any fun r => isNumSet r.base && !deadBlock tHost r.base) = true := by decide +kernel

/-- A command record: an opcode, and its bytes from 8 on. -/
def tRec (op : Nat) (rest : List Byte) : List Byte := bytesAt (leBytes 8 op ++ rest) 0 64

/-- The host has given a command; it is PENDING under handle 4097. -/
def tCmd (op : Nat) (rest : List Byte) : State :=
  { tHost with host := { tHost.host with cmds := [{ handle := 4097, record := tRec op rest }] } }

theorem wit_Accept : judge606 { tHost with host := { tHost.host with stages := [(63, tRec ocNop [])] } } (tRec ocNop []) = 0
    ∧ (nextHandle tHost).isSome = true ∧ judge606 tHost (tRec 0 []) ≠ 0 := by decide +kernel

/-- The command of an opcode may start. -/
def tStarts (s : State) (op : Nat) : Bool :=
  alive s && match startable s op with
    | some c => findCmd s c.handle = some c && !c.gone
    | none => false

/-- The same with a switch armed, and with a conflict of two switches on show. -/
def tSwap : State := tCmd ocSwap (leBytes 8 0x1000)
def tSwapArmed : State := setFld tSwap Reg.SKL_NEXT_LO Fld.SKL_NEXT_LO_ARMED 1
def tSwapConf : State := { tSwap with frm := { tSwap.frm with swConf := true } }

theorem wit_Swap : (tStarts tSwapArmed ocSwap = true ∧ switchArmed tSwapArmed = true)
    ∧ (tStarts tSwapConf ocSwap = true ∧ switchArmed tSwapConf = false ∧ tSwapConf.frm.swConf = true)
    ∧ ((startable tSwap ocSwap).any fun c => c.num 8 8 < 2 ^ 40 && c.num 8 8 % 4096 = 0) = true := by decide +kernel

theorem wit_CommandsAtOnce : tStarts (tCmd ocNop []) ocNop = true ∧ tStarts (tCmd ocBlight []) ocBlight = true
    ∧ (tStarts (tCmd ocSwap (leBytes 8 0x1000)) ocSwap = true ∧ switchArmed (tCmd ocSwap (leBytes 8 0x1000)) = false)
    ∧ tStarts (tCmd ocFuse [1#8, 0#8, 0#8]) ocFuse = true := by decide +kernel

theorem wit_TransferStarts :
    (∀ op ∈ [ocCopyin, ocCopyout, ocFlashwrite, ocFlashread, ocFill], tStarts (tCmd op []) op = true)
    ∧ tStarts (tCmd ocIdentity (leBytes 40 0 ++ leBytes 4 9977)) ocIdentity = true
    ∧ tStarts { tCmd ocCopyin [] with host := { (tCmd ocCopyin []).host with bme := false } } ocCopyin = true
    ∧ tStarts (tCmd ocAttest (leBytes 40 0 ++ leBytes 4 (2 ^ 20))) ocAttest = true
    ∧ attestBytes (tCmd ocAttest []) ≤ 2 ^ 20 ∧ 0 < attestBytes (tCmd ocAttest [])
    ∧ sigNext (setReg64 tHost Reg.FWM_SIGRES_LO 256) < sigRes (setReg64 tHost Reg.FWM_SIGRES_LO 256) := by decide +kernel

/-- A COPYIN of one byte to address 0 runs. -/
def tTransfer (op : Nat) : State :=
  { tHost with host := { tHost.host with
      cmds := [{ handle := 4097, record := tRec op (leBytes 16 0 ++ leBytes 4 1), state := 2 }] } }

theorem wit_TransferCompletes :
    (∀ op ∈ [ocCopyin, ocCopyout, ocFlashwrite, ocFlashread, ocIdentity, ocAttest], ((findCmd (tTransfer op) 4097).any fun c =>
      !c.gone && c.state = 2 && c.op = op && hostDma.contains c.op) = true)
    ∧ fld (tTransfer 1) Reg.HST_CTRL Fld.HST_CTRL_LOGEN = 0 ∧ (tTransfer 1).host.bme = true
    ∧ Statements.Calm (tTransfer 1) ∧ Statements.Clean (tTransfer 1) ∧ pcount (tTransfer 1) = 0 := by
  unfold Statements.Calm Statements.Clean
  decide +kernel

/-- A FILL of eight bytes at address 0 runs, and an ATTEST with a buffer for its response and an index at hand. -/
def tFill : State :=
  { tHost with host := { tHost.host with
      cmds := [{ handle := 4097, record := tRec ocFill (leBytes 16 0 ++ leBytes 8 8 ++ leBytes 8 5), state := 2 }] } }
def tAttest : State :=
  setReg64 { tHost with host := { tHost.host with
      cmds := [{ handle := 4097, record := tRec ocAttest (leBytes 40 0 ++ leBytes 4 (2 ^ 20)), state := 2 }] } }
    Reg.FWM_SIGRES_LO 256

theorem wit_FillAndAttest :
    (((findCmd tFill 4097).any fun c => !c.gone && c.state = 2 && c.op = ocFill && c.num 24 4 = 8) = true
      ∧ Statements.Calm tFill ∧ Statements.Clean tFill ∧ pcount tFill = 0) ∧
    (((findCmd tAttest 4097).any fun c => c.op = ocAttest && decide (attestBytes tAttest ≤ c.num 48 4)) = true
      ∧ sigNext tAttest < sigRes tAttest ∧ Statements.Calm tAttest) := by
  unfold Statements.Calm Statements.Clean
  decide +kernel

/-- Presented bough 63 is lost. -/
def tGoneBough : State := setFld (tCmd ocSubst [63#8]) (Reg.BGH_PMAP 63) Fld.BGH_PMAP_PHYS 127

theorem wit_ObjectAndSubst : tStarts (tCmd ocObject [5#8]) ocObject = true ∧ tStarts (tCmd ocObject []) ocObject = true
    ∧ Statements.Calm (tCmd ocObject []) ∧ Statements.Clean (tCmd ocObject []) ∧ tStarts (tCmd ocSubst [63#8]) ocSubst = true
    ∧ phys (tCmd ocSubst [63#8]) 63 < 68 ∧ tHost.integ.substDue = [] ∧ tHost.integ.copies = []
    ∧ tStarts tGoneBough ocSubst = true ∧ phys tGoneBough 63 = 127 := by
  unfold Statements.Calm Statements.Clean
  decide +kernel

theorem wit_HostPortPower : alive tHost = true ∧ hostReach tHost = true ∧ tHost.host.config = true := by decide +kernel

/-! ## Witnesses: work items, arrays, the Sickle, chains and carts -/

/-- Bough 0 walks at a work item of a kind whose body, at the start of its Crib, is of the given words. -/
def tWork (kind : Nat) (ws : List Nat) : State :=
  setBough (poke (poke tIdle 0 (tItem (kind * 2 ^ 28) 0 0 0)) (cribBase 0) (bytesAt (ws.flatMap (leBytes 4)) 0 64)) 0
    { walking := true }

/-- A work item that R137 lets issue and of whose body `p` holds. -/
def tMay (s : State) (kind : Nat) (p : State → List Byte → Bool) : Bool :=
  alive s && walkHas s 0 fun u b i body => i.kind = kind && issueOk u b i body 0 && waitOk u b i && itemIdx u b ≠ 65535 && p u body

/-- A tile of one output and one product on array 0. -/
def tTile (op fmt : Nat) : List Nat :=
  [op * 2 ^ 28 + fmt * 2 ^ 24 + fmt * 2 ^ 20 + 7 * 2 ^ 16 + 16, 0x01010000, 1, 32 * 2 ^ 16 + 16, 48, 0, 0, 0, 1, 0, 0, 0, 1]

theorem wit_TilesIssue :
    (∀ op ∈ List.range 6, tMay (tWork 1 (tTile op 0)) 1 (fun _ bs => (tileOf bs).op = op) = true)
      ∧ tMay (tWork 1 (tTile 6 11)) 1 (fun _ bs => (tileOf bs).op = 6) = true := by decide +kernel

/-- The body of the tile, and bough 0 with a share of it. -/
def tBody : List Byte := bytesAt ((tTile 0 0).flatMap (leBytes 4)) 0 64
def tShare (ph : SharePhase) (pass : Nat) : State :=
  setBough tIdle 0 { sb := [{ id := 63, item := 0, w0 := 0x10000000, w2 := 0, w3 := 0, body := tBody, step := 0 }]
                     shares := [{ entry := 63, named := 0, arr := 0, c0 := 0, c1 := 1, phase := ph, pass := pass }] }

theorem wit_TilePasses :
    (arrBusy (tShare .queued 1) 0 0 = false
      ∧ (queuedShare (tShare .queued 1) 0 0).any (fun sh => (entryOf (tShare .queued 1) 0 sh.entry).any fun e =>
          sh.c1 - sh.c0 ≤ arrWidth (tShare .queued 1) 0 sh.arr (tileOf e.body)) = true
      ∧ arrRetired (tShare .queued 1) 0 0 = false) ∧
    (arrRetired (setFld (tShare .queued 1) (Reg.BGH_MASTAT 0 0) Fld.BGH_MASTAT_RETIRED 1) 0 0 = true
      ∧ moveTarget (setFld (tShare .queued 1) (Reg.BGH_MASTAT 0 0) Fld.BGH_MASTAT_RETIRED 1) 0 (tileOf tBody) = some 1) ∧
    moveTarget ((List.range 4).foldl (fun s a => setFld s (Reg.BGH_MASTAT 0 a) Fld.BGH_MASTAT_RETIRED 1) (tShare .queued 1)) 0
      (tileOf tBody) = none ∧
    arrWidth (setFld (tShare .queued 1) (Reg.BGH_MASTAT 0 0) Fld.BGH_MASTAT_WIDTH 0) 0 0 (tileOf tBody) < 1 := by decide +kernel

/-- The running share of array 0 of bough 0, with its entry, in a state whose memory is in order. -/
def tPass (s : State) (p : Share → SbEntry → Bool) : Bool :=
  alive s && decide (phys s 0 = 0) && s.ecc.cw.isEmpty && s.ecc.lpar.isEmpty && !initMode1 s &&
    match (bough s 0).shares.find? fun x => x.arr = 0 && x.phase = .running with
    | some sh => (entryOf s 0 sh.entry).any (p sh)
    | none => false

/-- The same with the first codeword of A beyond repair. -/
def tUnread (pass : Nat) : State :=
  { tShare .running pass with ecc := { cw := [(cwKey 0 (cribBase 0 + 1024), { lost := true })] } }

theorem wit_PassEnds :
    (∀ n ∈ [1, 2, 3], tPass (tShare .running n) (fun sh _ => sh.pass = n) = true) ∧
    (∀ n ∈ [1, 2], ((bough (tUnread n) 0).shares.find? fun x => x.arr = 0 && x.phase = .running).any (fun sh =>
      sh.pass = n && (fetchPass (tUnread n) 0 sh (tileOf tBody)).2.isSome) = true) ∧
    tPass (tShare .running 1) (fun _ e => !(tileOf e.body).cken && !codeScaled (tileOf e.body).cfmt) = true := by decide +kernel

/-- A column test is asked of array 3, with its spare used, and one of array 3 holds the share of a tile. -/
def tCol : State := setBough tIdle 0 { colTests := [3] }
def tSpare : State := setFld tCol (Reg.BGH_MASTAT 0 3) Fld.BGH_MASTAT_SPARE 1
def tColTile : State := mapBough3 (tShare .queued 1)
where mapBough3 (s : State) : State :=
  setBough s 0 { bough s 0 with shares := [{ entry := 63, named := 0, arr := 3, c0 := 0, c1 := 1, phase := .colTest, pass := 2 }] }

/-- A cell of row 5 and column 7 that gave 0: with no reference held every result is a wrong one. -/
def tCell : TestCell := ⟨0, 5, 7, 0⟩

theorem wit_ColumnTest :
    ((bough tCol 0).shares = [] ∧ (bough tCol 0).colTests.contains 3 = true ∧ arrRetired tCol 0 3 = false
      ∧ wrongCells tCol [tCell] = [(5, 7)] ∧ mastat tCol 0 3 Fld.BGH_MASTAT_SPARE = 0
      ∧ 7 ≠ mastat tCol 0 3 Fld.BGH_MASTAT_BYPASSCOL ∧ 7 ≠ mastat tCol 0 3 Fld.BGH_MASTAT_NARROWCOL) ∧
    ((bough tSpare 0).colTests.contains 3 = true ∧ arrRetired tSpare 0 3 = false ∧ wrongCells tSpare [tCell] = [(5, 7)]
      ∧ mastat tSpare 0 3 Fld.BGH_MASTAT_SPARE = 1 ∧ mastat tSpare 0 3 Fld.BGH_MASTAT_NARROW = 0 ∧ 7 ≠ checkCol tSpare 0 3) ∧
    (((bough tColTile 0).shares.find? fun x => x.arr = 3 && x.phase = .colTest).any (fun sh =>
      (entryOf tColTile 0 sh.entry).isSome) = true ∧ wrongCells tColTile [] = [] ∧ arrRetired tColTile 0 3 = false) := by
  decide +kernel

/-- The tile of a dispute on array 3 has retired. -/
def tDispute : State := setBough tIdle 0 { disputes := [⟨3, 0, 0, none, some ⟨numZero false, numZero false, numZero false, [], [], []⟩⟩] }

theorem wit_ArrayControls :
    ((bough tDispute 0).disputes.find? fun d => d.arr = 3 && d.entry.isNone).any (fun d => d.check.isSome) = true
      ∧ phys tDispute 0 = 0 ∧ (bough tIdle 67).inject.contains 3 = false ∧ (bough tCol 0).colTests.contains 3 = true := by
  decide +kernel

/-- A model table at 0x2000 with one entry of one row, and a work item of the Sickle. -/
def tSick (ws : List Nat) : State :=
  poke (poke (setReg64 (tWork 3 ws) Reg.SKL_MTAB_LO 0x2000) 0x2000 (leBytes 64 1)) 0x2040
    (leBytes 16 (2 ^ 104 + 32 * 2 ^ 84 + 2 ^ 64 + 3 * 2 ^ 60 + 65))

def tDot : State := tSick [3 * 2 ^ 24 + 2 ^ 20, 16 * 2 ^ 16, 64 * 2 ^ 16]
def tSwitch : State := tSick [2 ^ 29, 0, 0, 0, 0, 0, 0x1000]

/-- A round on a line the pass reads holds a contribution. -/
def tHeld (s : State) (l : Nat) : State :=
  { s with loft := { s.loft with rounds := [(l, { held := [{ tContrib with addr := 4096 * l }] })] } }
where tContrib : Contrib := { cart := 1, seq := 1, addr := 0, dtype := 2, rop := 0, data := [], origin := none }

theorem wit_ElementPasses :
    tMay tDot 3 (fun u bs => (sickleOf bs).op = 0 && (closeLines u (passReads u 0 bs)).2) = true
    ∧ tMay (tSick [2 ^ 28, 16 * 2 ^ 16, 0, 0, 1]) 3 (fun u bs => (sickleOf bs).op = 1
        && (closeLines u (passReads u 0 bs)).2) = true
    ∧ tMay (tHeld tDot 65) 3 (fun u bs => !(closeLines u (passReads u 0 bs)).2) = true
    ∧ tMay (tHeld (tSick [2 ^ 28, 16 * 2 ^ 16, 0, 0, 1]) 65) 3 (fun u bs => !(closeLines u (passReads u 0 bs)).2) = true
    ∧ tMay tSwitch 3 (fun u bs => (sickleOf bs).op = 2 && !u.frm.swConf && !switchArmed u) = true
    ∧ tMay (setRegN tSwitch Reg.SKL_NEXT_LO 0x5001) 3 (fun u bs => switchArmed u && nextTable u ≠ (sickleOf bs).table) = true := by
  decide +kernel

theorem wit_SwitchByHost : switchArmed tIdle = false ∧ switchArmed (setRegN tIdle Reg.SKL_NEXT_LO 0x5001) = true
    ∧ tIdle.frm.swConf = false := by decide +kernel

/-- A chain over one element with no stream; its configuration at Crib byte 1024 is all zeros, which R240 refuses. -/
def tChain : State := tWork 2 [0, 16, 1, 2 ^ 16]

theorem wit_ChainIssues : tMay tChain 2 (fun u bs =>
    match load (setFld (Statements.onBoard u 0 (itemOf (tItem (2 * 2 ^ 28) 0 0 0)) bs) (Reg.THR_STATUS 0) Fld.THR_STATUS_BUSY 1)
      (cribBase 0 + 64 * (chainOf bs).cfg) 384 with
    | (_, .ok x) => cfgBad (chainOf bs) x
    | _ => false) = true := by decide +kernel

/-- A cart of 64 bytes within Crib 0. -/
def tCart (w0 dst : Nat) : State :=
  tWork 4 [w0, 2 ^ 16, 0, 64, (cribBase 0 + 0x1000) % 2 ^ 32, (cribBase 0 + 0x1000) / 2 ^ 32, dst % 2 ^ 32, dst / 2 ^ 32]

theorem wit_CartsIssue :
    (∀ op ∈ [0, 1], tMay (tCart (op * 2 ^ 28) (cribBase 0 + 0x2000)) 4 (fun u bs =>
      let d := cartOf bs
      tCalm u && tClean u && d.op = op && gLocal u d.src && gLocal u d.dst && isCrib (gOffset d.src) && isCrib (gOffset d.dst)
        && gOffset d.src + d.len ≤ gOffset d.dst && d.rop < 3 && !d.reten && 0 < d.len && d.len ≤ 512) = true)
    ∧ tMay (tCart (2 * 2 ^ 28 + 2 * 2 ^ 24) 0x1000) 4 (fun u bs =>
      let d := cartOf bs
      tCalm u && tClean u && d.op = 2 && gLocal u d.src && gLocal u d.dst && isCrib (gOffset d.src) && 0 < d.len && d.len ≤ 512)
        = true
    ∧ (∀ op ∈ [0, 1, 2], tMay (tCart (op * 2 ^ 28 + op / 2 * 2 ^ 25) (2 ^ 40)) 4 (fun u bs =>
      (cartOf bs).op = op && !gLocal u (cartOf bs).dst && u.carts.isEmpty) = true)
    ∧ tMay (tWork 4 [3 * 2 ^ 28 + 4 * 2 ^ 16, 5]) 4 (fun u bs => (cartOf bs).op = 3 && (cartOf bs).objop ≠ 0 && tCalm u) = true := by
  decide +kernel

/-- A cart whose one segment has been applied. -/
def tDoneCart (dst : Nat) (acked : Bool) : State :=
  { tIdle with carts := [(7, { bough := none, entry := 0, op := 0, dtype := 0, rop := 0, reten := false, ff := false
                               cseq := 0, len := 64, src := 0, dst := dst, ret := 0, rsig := 0, pframe := 0
                               segs := [.applied], acked := acked })] }

/-- A round of line 1: empty, and with a contribution held. -/
def tRound (held : List Contrib) (closing : Bool) : State :=
  { setFld tIdle Reg.LFT_REDCTRL Fld.LFT_REDCTRL_STALLFR 1 with
    loft := { rounds := [(1, { held := held, closing := closing, ticks := 1 })] } }

def tContrib : Contrib := { cart := 1, seq := 5, addr := 4096, dtype := 2, rop := 0, data := [], origin := none }

/-- A contribution of rank 0 and one of rank 5 have been returned; the round of their line is ready, or not. -/
def tReturned (seq : Nat) : State :=
  { tRound [] false with loft := { (tRound [] false).loft with
      returned := [{ tContrib with seq := seq }], lines := if seq = 0 then [(1, { way := 3 })] else [] } }

theorem wit_CartsAndRounds :
    ((tDoneCart 0 false).carts.all fun x => x.2.op ≠ 3 && allApplied x.2 && landsHere (tDoneCart 0 false) x.2
      && tCalm { tDoneCart 0 false with carts := [] }) = true
    ∧ ((tDoneCart (2 ^ 40) true).carts.all fun x => allApplied x.2 && !landsHere (tDoneCart (2 ^ 40) true) x.2 && x.2.acked) = true
    ∧ isObj (4096 - 4096 % 4096) = true ∧ ((roundOn (tRound [] false) 1).any fun r => r.held = []) = true
    ∧ ((roundOn (tRound [tContrib] false) 1).any fun r => r.held ≠ []) = true ∧ (tRound [tContrib] false).carts = []
    ∧ ((roundOn (tRound [tContrib] true) (lineNo 4096)).any fun r => r.closing && !r.stalled && r.ticks = 1) = true
    ∧ fld (tRound [] true) Reg.LFT_REDCTRL Fld.LFT_REDCTRL_STALLFR = 1
    ∧ ((roundOn (tReturned 5) (lineNo tContrib.addr)).any fun r => r.held.length < 64 && !r.closing
        && (r.held ++ [tContrib]).all fun x => x.seq % 64 ≠ nextRank r (x.addr % 4096 / 512)) = true
    ∧ (tReturned 5).loft.returned = [tContrib] ∧ (tReturned 5).loft.banks = [] ∧ (tReturned 5).carts = []
    ∧ ((roundOn (tReturned 0) (lineNo tContrib.addr)).any fun r => r.held.isEmpty && roundReady (tReturned 0) 1 r
        && nextRank r 0 = 0) = true := by decide +kernel

/-! ## Witnesses: objects and the Loft -/

/-- A record: one byte at 4 MiB, owner 0, class 0, and a byte of MSTATE, PINNED and STREAM. -/
def tRecord (m : Nat) : List Byte := leBytes 8 0x400000 ++ leBytes 8 1 ++ leBytes 2 0 ++ leBytes 46 m

/-- Object 5, registered, with one operation waiting at its record; 8 cache ways and 4 pinnable ways. -/
def tObj (m op : Nat) (offer : List Byte) : State :=
  { poke (setRegN (setFld (setFld tIdle Reg.LFT_WAYS Fld.LFT_WAYS_CACHE 8) Reg.LFT_WAYS Fld.LFT_WAYS_PIN 4)
      (Reg.LFT_QUOTA 0) 0xFFFFFF) (64 * 5) (tRecord m) with
    loft := { objs := [5], objSt := [(5, { queue := [{ op := op, offer := offer }] })] } }

/-- The same number, free. -/
def tFree : State := { tObj 0 0 (tRecord 0) with loft := { objSt := [(5, { queue := [{ op := 0, offer := tRecord 0 }] })] } }

/-- What `Statements.Waits` and `Statements.RecordOk` ask. -/
def tWaits (s : State) (op : Nat) (registered : Bool) : Bool :=
  alive s && rangeOk s (objRec s 5) 64 && tClean s && isReg s 5 = registered && (objAt s 5).mstate ≠ msDemoting &&
    match (objSt s 5).queue with
    | [o] => o.op = op && (objSt s 5).current.isNone
    | _ => false

theorem wit_RegisterRelease : tWaits tFree 0 false = true ∧ (tRecord 0).length = 64 ∧ offerBad (tRecord 0) = false
    ∧ offerOverlap tFree (objOf (tRecord 0)) = false ∧ tWaits (tObj 0 0 []) 0 true = true
    ∧ offerBad (leBytes 64 0) = true ∧ tWaits (tObj 0 1 []) 1 true = true
    ∧ (objAt (tObj 0 1 []) 5).mstate = msHome ∧ (objAt (tObj 0 1 []) 5).pinned = false
    ∧ tWaits (tObj 0x80 1 []) 1 true = true ∧ (objAt (tObj 0x80 1 []) 5).mstate ≠ msHome := by decide +kernel

/-- The state in which the promotion, or the pinning, of object 5 begins. -/
def tBegun (op : Nat) : State :=
  begin_ (setMstate (setObjSt (tObj 0 op []) 5 { queue := [], current := none }) 5 msPromoting) 5 { op := op, offer := [] }

theorem wit_PromotePin :
    (∀ op ∈ [2, 3], tWaits { tObj 0 op [] with loft := { (tObj 0 op []).loft with granaryOnly := true } } op true = true) ∧
    (tWaits (tObj 0x80 2 []) 2 true = true ∧ (objAt (tObj 0x80 2 []) 5).mstate = msResident
      ∧ classFixed (objAt (tObj 0x80 2 []) 5) = false ∧ (tObj 0x80 2 []).loft.granaryOnly = false) ∧
    (tWaits (tObj 0 2 []) 2 true = true ∧ (objAt (tObj 0 2 []) 5).mstate = msHome
      ∧ quotaOk (tObj 0 2 []) (objAt (tObj 0 2 []) 5).owner 1 = true ∧ objLines (objAt (tObj 0 2 []) 5) = [1024]
      ∧ lineOf (tObj 0 2 []) 1024 = none ∧ (freeWay (tObj 0 2 []) 1024 false).isSome = true
      ∧ ((objLines (objAt (tObj 0 2 []) 5)).foldl (promoteLine 5) (tBegun 2, osDone)).2 = osDone) ∧
    (tWaits (tObj 0xA0 3 []) 3 true = true ∧ (objAt (tObj 0xA0 3 []) 5).mstate = msResident
      ∧ (objAt (tObj 0xA0 3 []) 5).pinned = true) ∧
    (tWaits (tObj 0 3 []) 3 true = true ∧ quotaOk (tObj 0 3 []) (objAt (tObj 0 3 []) 5).owner (1 - (heldFor (tObj 0 3 []) 5).length)
        = true
      ∧ (freeWay (tObj 0 3 []) 1024 true).isSome = true
      ∧ (reservePins (tObj 0 3 []) (objAt (tObj 0 3 []) 5)).any (fun ws =>
          (ws.foldl (pinLine 5) (setPinned (setMstate (begin_ (setObjSt (tObj 0 3 []) 5 { queue := [], current := none }) 5
            { op := 3, offer := [] }) 5 msPromoting) 5 1, true)).2) = true) ∧
    (tWaits (tObj 0xA0 4 []) 4 true = true ∧ (objAt (tObj 0xA0 4 []) 5).pinned = true) ∧
    (tWaits (tObj 0x80 4 []) 4 true = true ∧ (objAt (tObj 0x80 4 []) 5).pinned = false) := by decide +kernel

/-- The record of a class that is never promoted. -/
def tFixed : State := poke (tObj 0 6 []) (64 * 5) (leBytes 8 0x400000 ++ leBytes 8 1 ++ leBytes 2 0x4000)

theorem wit_DemoteStreamEvict :
    (∀ op ∈ [5, 6, 7], tWaits (tObj 0x80 op []) op true = true) ∧ (objAt (tObj 0x80 5 []) 5).pinned = false
      ∧ (objAt (tObj 0x80 5 []) 5).mstate = msResident ∧ classFixed (objAt (tObj 0x80 6 []) 5) = false
      ∧ (tWaits (tObj 0xA0 7 []) 7 true = true ∧ (objAt (tObj 0xA0 7 []) 5).pinned = true)
      ∧ (∀ op ∈ [5, 6, 7], tWaits (tObj 0 op []) op true = true) ∧ (objAt (tObj 0 5 []) 5).mstate = msHome
      ∧ (objAt (tObj 0 5 []) 5).pinned = false
      ∧ (tWaits tFixed 6 true = true ∧ classFixed (objAt tFixed 5) = true) := by decide +kernel

/-- An operation on object 5 is in progress. -/
def tMoving (m op : Nat) : State :=
  { tObj m op [] with loft := { objs := [5], objSt := [(5, { current := some { op := op, offer := [] } })] } }

/-- A fill of line 9 is on its way; the line may be held already. -/
def tMiss (ls : List (Nat × LineSt)) : State := { tObj 0 0 [] with loft := { misses := [(9, ⟨1, 3⟩)], lines := ls } }

theorem wit_LoftMovesEnd :
    ((objAt (tMoving 0x40 2) 5).mstate = msPromoting ∧ ((objSt (tMoving 0x40 2) 5).current.any fun o => o.op = 2) = true
      ∧ (∀ l ∈ objLines (objAt (tMoving 0x40 2) 5), roundOn (tMoving 0x40 2) l = none) ∧ tClean (tMoving 0x40 2) = true
      ∧ rangeOk (tMoving 0x40 2) (objRec (tMoving 0x40 2) 5) 64 = true ∧ isReg (tMoving 0x40 2) 5 = true) ∧
    ((objAt (tMoving 0x80 4) 5).mstate = msResident ∧ ((objSt (tMoving 0x80 4) 5).current.any fun o => o.op = 4) = true
      ∧ heldFor (tMoving 0x80 4) 5 = []) ∧
    ((objAt (tMoving 0xC0 5) 5).mstate = msDemoting ∧ heldFor (tMoving 0xC0 5) 5 = []) ∧
    (kfind (tMiss []).loft.misses (lineNo (4096 * 9)) = some ⟨1, 3⟩ ∧ cwIn (tMiss []) 2 (4096 * 9) 4096 = []
      ∧ roundOn (tMiss []) 9 = none ∧ lineOf (tMiss []) 9 = none ∧ objStreams (tMiss []) 9 = false ∧ tCalm (tMiss []) = true
      ∧ lineOf (tMiss [(9, { way := 1 })]) 9 ≠ none) := by decide +kernel

/-! ## Witnesses: packets, trees and flags -/

/-- A packet of an opcode on a lane, of partition key 0, for device 0. -/
def tOp (op vl addr : Nat) (payload : List Byte) : Packet :=
  { tPkt op with vl := vl, addr := addr, payload := payload, len := payload.length }

/-- Ready for requests on port 23, device 7 behind it; the route of this device's own number ends here. -/
def tFab : State :=
  mapRst (setRegN (setRegN tPort (Reg.FAB_MROUTE 7) (0x80 + 23)) (Reg.FAB_MROUTE 0) (0x80 + 30)) fun r => { r with ready := true }

/-- A packet as the partner of port 23 sends it, and the state in which its trailer has been taken. -/
def tSeal (s : State) (k : Packet) : Packet := sealPkt (some (port s 23).adm.keys) k
def tLooked (s : State) (k : Packet) : State := takeTrailer (countFec s 23 (tSeal s k).trailer) 23 (tSeal s k).trailer

/-- What `Statements.Taken` asks of the packet, with `p` of what the link hands on. -/
def tTaken (s : State) (k : Packet) (p : State → Packet → Bool) : Bool :=
  alive s && portUp s 23 && (tSeal s k).trailer.lseq = (port (tLooked s k) 23).rxNext &&
    match inOrder (tLooked s k) 23 (tSeal s k) with
    | (u, some k') => p u k'
    | _ => false

/-- The same for `Statements.Accepted`. -/
def tTake (s : State) (k : Packet) (p : State → Packet → Bool) : Bool :=
  tTaken s k fun u k' => routeOf u k'.dst = some 30 && p u k'

theorem tSeal_op (s : State) (k : Packet) : (tSeal s k).op = k.op := by
  unfold tSeal sealPkt
  by_cases h : k.vl = vlCtrl <;> simp [h]

theorem of_tTaken {s : State} {k : Packet} {p : State → Packet → Bool} (h : tTaken s k p = true) :
    ∃ u k', Statements.Taken s u 23 k.op (tSeal s k) k' ∧ p u k' = true := by
  simp only [tTaken, Bool.and_eq_true, decide_eq_true_eq] at h
  obtain ⟨⟨⟨ha, hp⟩, hl⟩, hm⟩ := h
  split at hm
  · next u k' hi =>
    refine ⟨u, k', ⟨ha, tSeal_op s k, ?_⟩, hm⟩
    have := arrive_sealed (k := k) hp
    simp only [tSeal, tLooked] at hl hi
    simpa [tSeal, hl, hi] using this
  · cases hm

theorem of_tTake {s : State} {k : Packet} {p : State → Packet → Bool} (h : tTake s k p = true) :
    ∃ u k', Statements.Accepted s u 23 k.op (tSeal s k) k' ∧ p u k' = true := by
  obtain ⟨u, k', ht, hp⟩ := of_tTaken h
  simp only [Bool.and_eq_true, decide_eq_true_eq] at hp
  exact ⟨u, k', ⟨ht, hp.1⟩, hp.2⟩

/-- The packets of the witnesses pass the checks of their link (`linkFault_sealed`), whatever they carry. -/
theorem wit_LinkReceives : portUp tFab 23 = true ∧ alive tFab = true
    ∧ (∀ k, linkFault tFab 23 (tSeal tFab k) = none)
    ∧ (tSeal tFab (tOp opWrite vlBest 0 [])).trailer.lseq = (port tFab 23).rxNext
    ∧ (tSeal tFab (tOp opWrite vlBest 0 [])).trailer.stomp = false
    ∧ (tSeal tFab (tOp opWrite vlBest 0 [])).pkey = fld tFab Reg.FAB_PKEY Fld.FAB_PKEY_PKEY ∧ laneOk opWrite vlBest = true
    ∧ (tSeal tFab (tOp opWrite vlBest 0 [])).enc = false
    ∧ (tSeal tFab (tOp opWrite vlBest 0 [])).trailer.lseq ≠ (port (mapPort tFab 23 fun x => { x with rxNext := 5 }) 23).rxNext
    ∧ (tSeal tFab (tOp opWrite vlBest 0 [])).pkey ≠ fld (setRegN tFab Reg.FAB_PKEY 9) Reg.FAB_PKEY Fld.FAB_PKEY_PKEY
    ∧ routeOf tFab 9 ≠ some 30 :=
  ⟨by decide +kernel, by decide +kernel, fun k => linkFault_sealed tFab 23 k, by decide +kernel, by decide +kernel, by decide +kernel,
    by decide +kernel, by decide +kernel, by decide +kernel, by decide +kernel, by decide +kernel⟩

/-- A request that is not refused, on a device on which nothing else is under way. -/
def tServe (k : Packet) (p : State → Packet → Bool) : Bool :=
  tTake tFab k fun u k' => tCalm u && tClean u && refuseCode u k' = none && routeOf u k'.src = some 23
    && !(u.loft.waiting.any fun x => sameCart x.2.1 k') && p u k'

theorem wit_PacketsServed :
    (∀ last ∈ [false, true], tServe { tOp opWrite vlBest (cribBase 0) [1#8] with last := last } (fun u k' => isCrib k'.addr
      && k'.last = last && (storeSeg (noteArrived u k') k'.addr k'.payload).2.isNone) = true)
    ∧ tServe (tOp opWrite vlBest 0xF0FF001000 [1#8]) (fun _ k' => isCtl k'.addr) = true
    ∧ tServe { tOp opAtomic vlBest (cribBase 0) (leBytes 4 1) with aux := 1 } (fun u k' => isCrib k'.addr && bitN k'.aux 0 &&
        match (atomicAt (noteArrived u k') k'.dtype k'.rop k'.addr k'.payload).2 with
        | .ok _ => true
        | _ => false) = true
    ∧ tServe { tOp opReduce vlBest 0x1000 (leBytes 4 1) with dtype := 2 } (fun u k' =>
        (contribute (dropReturned (noteArrived u k') k') {
          cart := k'.cartid, seq := k'.cseq, addr := k'.addr, dtype := k'.dtype, rop := k'.rop, data := k'.payload,
          origin := some k'.src }).2) = true
    ∧ tServe { tOp opReadreq vlBest (cribBase 0) [] with aux := 64 } (fun u k' => isCrib k'.addr &&
        match (load u k'.addr (bitsN k'.aux 9 0)).2 with
        | .ok _ => true
        | _ => false) = true
    ∧ (∀ x ∈ [(opWrite, vlBest), (opAtomic, vlBest), (opReduce, vlBest), (opReadreq, vlBest)],
        tTake tFab (tOp x.1 x.2 (2 ^ 40 - 64) (leBytes 4 1)) (fun u k' => tCalm u && tClean u && (refuseCode u k').isSome) = true) := by
  decide +kernel

/-- A cart of this device that reads from device 7, or writes there, with one segment on its way or applied. -/
def tOut (op src dst : Nat) (reten : Bool) (seg : SegSt) : State :=
  { tFab with carts := [(1, { bough := none, entry := 0, op := op, dtype := 0, rop := 0, reten := reten, ff := false
                              cseq := 0, len := 64, src := src, dst := dst, ret := cribBase 0, rsig := 0, pframe := 0
                              segs := [seg] })] }

theorem wit_CartsBetweenDevices :
    tTake (tOut 0 (7 * 2 ^ 40) (cribBase 0) false .left) (tOp opReadrsp vlBest 0 (leBytes 64 0)) (fun u k' =>
      tCalm { u with carts := [] } && tClean u &&
      (responsePlace u k').any fun x => x.1.op ≠ 3 && isCrib x.2.2 && x.1.segs[x.2.1]? = some .left
        && u.carts = [(k'.cartid, x.1)] && (storeSeg u x.2.2 k'.payload).2.isNone) = true
    ∧ tTake (tOut 1 0 (7 * 2 ^ 40) true .left) (tOp opAtomrsp vlBest 0 (leBytes 64 0)) (fun u k' =>
      tCalm { u with carts := [] } && tClean u &&
      (responsePlace u k').any fun x => isCrib x.2.2 && x.1.segs[x.2.1]? = some .left && u.carts = [(k'.cartid, x.1)]) = true
    ∧ (∀ x ∈ [(false, SegSt.left), (true, .applied), (true, .left)],
      tTake (tOut 0 0 (7 * 2 ^ 40) x.1 x.2) (tOp opAck vlCtrl 0 []) (fun u k' => tCalm { u with carts := [] } &&
        (cart u k'.cartid).any fun c => gDevice c.dst = k'.src && !landsHere u c && !c.ended && c.reten = x.1
          && allApplied c = decide (x.2 = .applied) && u.carts = [(k'.cartid, c)]) = true)
    ∧ tTake (tOut 0 0 (7 * 2 ^ 40) false .left) (tOp opRefuse vlCtrl 0 []) (fun _ _ => true) = true := by decide +kernel

/-- A tree entry: mode 1, FP32 sums, one child, the buffer and the scratch buffer in Crib 0, 512 bytes. -/
def tTreeEnt : List Byte :=
  bytesAt (leBytes 8 (2 ^ 30 + 2 * 2 ^ 26 + 2 ^ 18) ++ leBytes 5 (cribBase 0) ++ leBytes 5 (cribBase 0 + 0x1000) ++ leBytes 4 512) 0 64

/-- Tree 0 is in use with one child and a buffer of 512 bytes in Crib 0. -/
def tTree (armed : Bool) : State :=
  { poke (setRegN (setReg64 tFab Reg.FAB_TTAB_LO 0x8000) Reg.FAB_TCOUNT 1) 0x8000 tTreeEnt with
    fab := { tFab.fab with trees := [(0, { armed := armed })] } }

/-- A TREE segment of tree 0, going up or down. -/
def tTreePkt (down : Bool) : Packet := { tOp opTree vlReduce 0 (leBytes 512 0) with aux := if down then 2 ^ 17 else 0 }

theorem wit_CountersAndTrees :
    (walkHas (tWalk (tItem 0xE0000000 1023 1 0)) 0 fun u b i _ =>
      i.kind = 14 && !bitN i.w1 15 && allRetired u b && itemIdx u b ≠ 65535) = true
    ∧ (alive (tTree true) = true ∧ treeUsed (tTree true) 0 = true ∧ treeSt (tTree true) 0 = { armed := true }
      ∧ gateOpen (tTree true) (treeEnt (tTree true) 0) = true ∧ (treeEnt (tTree true) 0).nchild ≠ 0
      ∧ (treeEnt (tTree true) 0).len ≠ 0 ∧ tCalm (tTree true) = true ∧ tClean (tTree true) = true)
    ∧ (∀ down ∈ [false, true], tTake (tTree true) (tTreePkt down) (fun u k' => tCalm u && tClean u && !notReady u && treeUsed u 0
        && bitsN k'.aux 23 18 = 0 && bitN k'.aux 17 = down && bitsN k'.aux 3 0 < (treeEnt u 0).nchild
        && k'.cseq < (treeEnt u 0).segs && !(treeSt u 0).run && pcount u = 0) = true)
    ∧ tTake tFab (tTreePkt false) (fun u _ => tCalm u && tClean u && !notReady u && !treeUsed u 0) = true
    ∧ tTake (setFld tFab Reg.RST_STATUS Fld.RST_STATUS_STATE stFallow) (tTreePkt false) (fun u k' =>
        tCalm u && tClean u && notReady u && routeOf u k'.src = some 23) = true := by decide +kernel

/-- A gateway whose child is behind port 23 or whose parent is, with partition barrier 7 in use. -/
def tTreeNode (parent children : Nat) : State :=
  let s := setFld tStep Reg.FAB_FLAG Fld.FAB_FLAG_GATEWAY 1
  let s := setFld (setFld s Reg.FAB_FLAG Fld.FAB_FLAG_PARENT parent) Reg.FAB_FLAG Fld.FAB_FLAG_CHILDREN children
  setFld (setPortState s 23 psUp) (Reg.FAB_PBAR 7) Fld.FAB_PBAR_VALID 1

/-- A FLAG packet. -/
def tFlag (kind down key : Nat) : Packet := tOp opFlag vlCtrl 0 (leBytes 1 kind ++ leBytes 7 down ++ leBytes 8 key)

theorem wit_FlagsLearnt :
    (∀ x ∈ [(tTreeNode 0 (2 ^ 23), 0), (tTreeNode 23 0, 1)],
      tTaken x.1 (tFlag fkSlip x.2 0) (fun u k' => isGateway u && flagDown k' = decide (x.2 = 1)
        && (if flagDown k' then parentPort u = 23 else (childPorts u).contains 23) && flagKind k' = fkSlip
        && flagKey k' = pindex u && !knows u (fkSlip, 0)) = true
      ∧ tTaken x.1 (tFlag fkBlight x.2 0) (fun u k' => flagKind k' = fkBlight && flagKey k' = 0
        && (u.step.opened.any fun x => x.start = 0) && !knows u (fkBlight, 0)) = true)
    ∧ tTaken (tTreeNode 0 (2 ^ 23)) (tFlag fkArrive 0 7) (fun u k' => pbarOn u 7 && pbarGen u 7 = 0 && flagKey k' = 7
      && !flagDown k' && flagKind k' = fkArrive) = true
    ∧ tTaken (tTreeNode 23 0) (tFlag fkRelease 1 7) (fun u k' => isGateway u && flagDown k' && parentPort u = 23
      && flagKind k' = fkRelease && flagKey k' = 7 && pbarOn u 7 && pbarGen u 7 = 0) = true := by decide +kernel

/-! ## Witnesses: links and admission -/

/-- What a command leaves, tested. -/
def tRuns (c : Instr) (s : State) (p : State → Bool) : Bool :=
  match exec c s with
  | .next t => p t
  | _ => false

/-- A packet for device 9, and a device that knows a way there. -/
def tFor9 (op : Nat) : Packet := { tPkt op with dst := 9, vl := if op = opAck then vlCtrl else vlBest }
def tWay : State := setRegN tFab (Reg.FAB_MROUTE 9) (0x80 + 23)
def tNoCredit : State := mapPort tWay 23 fun x => { x with credit := [0, 0, 0, 0] }

/-- Nothing goes before a packet that has come in for port q, and the link has room for it. -/
def tReady (u : State) (q : Nat) (k : Packet) : Bool :=
  linkClear u q && !((port u q).transit.any fun x => keepsOrder x.2 k) && mayStart u q k

theorem wit_Transit :
    (tTaken tWay (tFor9 opAck) (fun u k' => routeOf tWay 9 ≠ some 30 && routeOf u k'.dst = some 23 && k'.ttl ≠ 0 && tReady u 23 k')
      = true)
    ∧ (tTaken tNoCredit (tFor9 opAck) (fun u k' => routeOf u k'.dst = some 23 && k'.ttl ≠ 0 && !tReady u 23 k') = true)
    ∧ (∀ op ∈ [opReadreq, opAck], tTaken tFab (tFor9 op) (fun u k' => routeOf u k'.dst = none
        && answers k'.op = decide (op = opReadreq) && routeOf u k'.src = some 23) = true
      ∧ tTaken tWay { tFor9 op with ttl := 0 } (fun u k' => routeOf u k'.dst ≠ none && k'.ttl = 0
        && answers k'.op = decide (op = opReadreq) && routeOf u k'.src = some 23) = true)
    ∧ (let k := sealPkt none (tFor9 opReadreq)
      alive tWay = true ∧ portUp tWay 23 = true ∧ k.hcrc = hcrcOf k ∧ k.pkey = fld tWay Reg.FAB_PKEY Fld.FAB_PKEY_PKEY
        ∧ laneOk k.op k.vl = true ∧ routeOf tWay k.dst = some 23 ∧ linkClear tWay 23 = true ∧ mayStart tWay 23 k = true
        ∧ k.ttl ≠ 0) := by decide +kernel

/-- A READREQ in transit leaves with one TTL less, and without a route it draws a REFUSE. -/
theorem test_transit_takes_one_ttl : tRuns (.transitPacket 23 (sealPkt none (tFor9 opReadreq)) false) tWay (fun t =>
    match t.wire.head? with
    | some (.packet 23 x) => x.ttl = 7 && x.dst = 9
    | _ => false) = true ∧ tRuns (.transitPacket 23 (sealPkt none (tFor9 opReadreq)) false) tFab (fun t =>
    regN t Reg.FAB_NOROUTE = 1 && (port t 23).ctrl.map (·.op) = [opRefuse] && (port t 23).ctrl.map (·.aux % 256) = [6]) = true := by
  decide +kernel

/-- A bare trailer, with or without a NAK. -/
def tBare (nak : Bool) : Trailer := { noTrailer with lseq := bareLseq, nak := nak, crc := bareCrc { noTrailer with lseq := bareLseq, nak := nak } }

theorem wit_LinkEvents : alive tFab = true ∧ portUp tFab 23 = true
    ∧ (∀ nak ∈ [false, true], (tBare nak).lseq = bareLseq ∧ (tBare nak).crc = bareCrc (tBare nak) ∧ (tBare nak).nak = nak)
    ∧ kget (fun _ => 0) (port tFab 23).badRound 0 ≠ 3
    ∧ kget (fun _ => 0) (port (mapPort tFab 0 fun x => { x with badRound := [(8, 3)] }) 0).badRound 8 = 3
    ∧ (tSeal tFab (tPkt 0)).trailer.lseq = (port tFab 23).rxNext ∧ (tSeal tFab (tPkt 0)).trailer.stomp = false
    ∧ (tSeal tFab (tPkt 0)).pkey = fld tFab Reg.FAB_PKEY Fld.FAB_PKEY_PKEY ∧ laneOk 0 vlCtrl = false
    ∧ (tSeal tFab (tPkt 0)).enc = false := by decide +kernel

/-- A link-local packet of an opcode, sealed without a tag, and with one under session keys. -/
def tLocal (op : Nat) (last : Bool) (payload : List Byte) : Packet :=
  sealPkt none { tPkt op with last := last, payload := payload, len := payload.length }

/-- What `Statements.Came` asks on port 0 of a link in admission or refused. -/
def tCame (s : State) (op : Nat) (k : Packet) : Bool :=
  alive s && k.op = op && !portUp s 0 && (portState s 0 = psAdmit || portState s 0 = psRefused) && k.hcrc = hcrcOf k
    && k.trailer.crc = crcOf k && laneOk k.op k.vl && k.trailer.fec = 0

theorem of_tCame {s : State} {op : Nat} {k : Packet} (h : tCame s op k = true) : Statements.Came s s 0 op k k := by
  simp only [tCame, Bool.and_eq_true, Bool.or_eq_true, Bool.not_eq_true', decide_eq_true_eq] at h
  obtain ⟨⟨⟨⟨⟨⟨⟨ha, ho⟩, hu⟩, hs⟩, hh⟩, hc⟩, hl⟩, hf⟩ := h
  exact ⟨ha, by decide, ho, .inr ⟨hu, hs, hh, hc, hl, rfl, by simp [countFec, hf]⟩⟩

theorem came_of_taken {s u : State} {k k' : Packet} {op : Nat} (h : Statements.Taken s u 23 op k k') (hp : portUp s 23 = true) :
    Statements.Came s (creditBack u 23 k') 23 op k k' := ⟨h.1, by decide, h.2.1, .inl ⟨hp, u, h.2.2, rfl⟩⟩

/-- Port 0 is up, or in admission, with its spare free. -/
def tOptic (st : Nat) : State := setPortState (setRegN tIdle (Reg.FAB_LANES 0) (15 * 2 ^ 9)) 0 st
def tAsked : State := mapPort (tOptic psAdmit) 0 fun x => { x with asked := [7] }

theorem wit_LanesAndLocks :
    (portUp (mapPort tFab 23 fun x => { x with naks := 16 }) 23 = true
      ∧ (port (mapPort tFab 23 fun x => { x with naks := 16 }) 23).naks = 16 ∧ portState tFab 23 ≠ psDown)
    ∧ (alive (tOptic psUp) = true ∧ bitN (lanesFailed (tOptic psUp) 0) 7 = false ∧ spareLane (tOptic psUp) 0 = 15
      ∧ bitN (lanesFailed (tOptic psUp) 0) 8 = false ∧ coveredLane (tOptic psUp) 0 = none)
    ∧ (bitN (lanesFailed (setRegN tFab (Reg.FAB_LANES 23) (15 * 2 ^ 9)) 23) 0 = false
      ∧ spareLane (setRegN tFab (Reg.FAB_LANES 23) (15 * 2 ^ 9)) 23 = 15
      ∧ lanesFailed (setRegN tFab (Reg.FAB_LANES 23) (15 * 2 ^ 9)) 23 = 0)
    ∧ (tCame (tOptic psAdmit) opLinkctl (tLocal opLinkctl true [0#8]) = true ∧ spareLane (tOptic psAdmit) 0 = 15
      ∧ bitN (lanesFailed (tOptic psAdmit) 0) 8 = false)
    ∧ (tCame tAsked opLinkctl (tLocal opLinkctl true [0#8]) = true ∧ (port tAsked 0).asked = [7])
    ∧ (port (mapPort (tOptic psUp) 0 fun x => { x with moving := some (7, true) }) 0).moving = some (7, true) := by decide +kernel

/-- A time transfer: T1 = 5, T2 = 6, T3 = 7. -/
def tTime : Packet := { tPkt opLinkctl with last := true, len := 32, payload := linkctlPayload (.time 5 6 7) }
def tAsksTime : State := mapFloor tGate fun f => { f with twait := some 5 }

theorem wit_LinkTime :
    tTaken tAsksTime tTime (fun u k' => isTime k' && isGateway u && parentPort u = 23 && u.floor.twait = some 5
      && leAt k'.payload 8 8 = 5) = true
    ∧ tTaken (tTreeNode 0 (2 ^ 23)) tTime (fun u k' => isTime k' && (childPorts u).contains 23 && 23 ≠ parentPort u) = true := by
  decide +kernel

/-- A device that takes part in admission: its Seed read, ranged, joined; and port 0 of it at an admission step. -/
def tJoined : State :=
  setFld { tIdle with seed := { tIdle.seed with read := true }, floor := { tIdle.floor with ranged := true } }
    Reg.FRM_STATUS Fld.FRM_STATUS_JOINED 1

/-- The partner's HELLO, as this device expects it on port 0. -/
def tHelloOf (pkey : Nat) : Hello :=
  { device := 7, pkey := pkey, major := 0, enc := false, nonce := [1#8], idkey := [], cert := [], certSig := [], digest := [] }

def tAdm (step : Nat) (peer : Option Hello) : State :=
  let s := setReg64 (setPortState tJoined 0 psAdmit) Reg.FWM_SIGRES_LO 256
  setAdm (setRegN s (Reg.FAB_EXPECT 0) (2 ^ 31 + 7)) 0 fun a => { a with step := step, nonce := [2#8], peer := peer }

theorem wit_AdmissionBegins :
    (rstState tIdle ≠ 0 ∧ rstState (setPortState tJoined 0 psTrain) ≠ 0)
    ∧ (isDormant tIdle = false ∧ portDisabled tIdle 0 = false ∧ portState (setPortState tIdle 0 psTrain) 0 = psTrain
      ∧ trainOk 0 true 0xFF = true ∧ trainOk 0 true 0x7F = false ∧ trainOk 0 false 0x1FF = false)
    ∧ (admitOpen (setPortState tJoined 0 psTrain) = true ∧ portState (setPortState tJoined 0 psTrain) 0 = psTrain
      ∧ portDisabled (setPortState tJoined 0 psTrain) 0 = false ∧ isDormant (setPortState tJoined 0 psTrain) = false)
    ∧ (tCame (setPortState tIdle 0 psAdmit) opAdmit (tLocal opAdmit true []) = true
      ∧ admitBlocked (setPortState tIdle 0 psAdmit) = true ∧ (tLocal opAdmit true []).last = true)
    ∧ (tCame (tAdm 1 none) opAdmit (tLocal opAdmit false [1#8]) = true
      ∧ (tLocal opAdmit false [1#8]).last = false)
    ∧ (tCame (tAdm 1 none) opLinkctl (tLocal opLinkctl true [1#8]) = true ∧ portState (tAdm 1 none) 0 = psAdmit)
    ∧ (portState (setPortState tJoined 0 psRefused) 0 = psRefused ∧ (port (setPortState tJoined 0 psRefused) 0).adm.step = 0)
    ∧ (portState (setPortState (tAdm 1 none) 0 psRefused) 0 = psRefused
      ∧ (port (setPortState (tAdm 1 none) 0 psRefused) 0).adm.step ≠ 0
      ∧ admitOpen (setPortState (tAdm 1 none) 0 psRefused) = true) := by decide +kernel

/-- The CONFIRM of the partner under the keys of the session that begins. -/
def tConfirm : Packet := sealPkt (some (port (tAdm 3 (some (tHelloOf 0))) 0).adm.next) { tPkt opAdmit with last := true }

theorem wit_AdmissionSteps :
    (tCame (tAdm 1 none) opAdmit (tLocal opAdmit true []) = true ∧ admitOpen (tAdm 1 none) = true
      ∧ portState (tAdm 1 none) 0 = psAdmit ∧ portUp (tAdm 1 none) 0 = false ∧ (port (tAdm 1 none) 0).adm.step = 1
      ∧ (port (tAdm 1 none) 0).adm.nonce ≠ [] ∧ sigNext (tAdm 1 none) < sigRes (tAdm 1 none))
    ∧ (∀ n ∈ [2, 3], tCame (tAdm n (some (tHelloOf 0))) opAdmit (tLocal opAdmit true []) = true
      ∧ admitOpen (tAdm n (some (tHelloOf 0))) = true ∧ (port (tAdm n (some (tHelloOf 0))) 0).adm.peer = some (tHelloOf 0)
      ∧ portState (tAdm n (some (tHelloOf 0))) 0 = psAdmit ∧ (port (tAdm n (some (tHelloOf 0))) 0).adm.step = n)
    ∧ (tLocal opAdmit true []).trailer.tag
        ≠ ctlTag (port (tAdm 3 (some (tHelloOf 0))) 0).adm.next (tLocal opAdmit true []) := by decide +kernel

theorem wit_Confirm : Statements.Came (tAdm 3 (some (tHelloOf 0))) (tAdm 3 (some (tHelloOf 0))) 0 opAdmit tConfirm tConfirm
    ∧ tConfirm.last = true ∧ tConfirm.trailer.tag = ctlTag (port (tAdm 3 (some (tHelloOf 0))) 0).adm.next tConfirm := by
  obtain ⟨h1, h2, h3⟩ := sealPkt_checks (port (tAdm 3 (some (tHelloOf 0))) 0).adm.next { tPkt opAdmit with last := true }
  exact ⟨⟨by decide +kernel, by decide, by decide +kernel, .inr ⟨by decide +kernel, by decide +kernel, h1, h2, by decide +kernel,
    rfl, rfl⟩⟩, by decide +kernel, h3 (by decide +kernel)⟩

/-- With a certificate that verifies, an expected HELLO has no fault and another partition's has one. -/
theorem wit_HelloFault (h : ∀ x, certOk (tAdm 1 none) x = true) :
    helloFault (tAdm 1 none) 0 (tHelloOf 0) = none ∧ helloFault (tAdm 1 none) 0 (tHelloOf 1) = some arPkey := by
  unfold helloFault
  simp only [h]
  decide +kernel

/-! ## Witnesses: the Floor -/

/-- A Floor index, a rank and a state of FLR_STATUS, the Seed read with period 0. -/
def tFloor (st rank : Nat) (f : FloorSt) : State :=
  setFlrState { setFld tPort Reg.FLR_CFG Fld.FLR_CFG_LRANK rank with
    seed := { tIdle.seed with read := true, members := [(5, 7)] }, floor := f } st

/-- The same, joined. -/
def tMember (st rank : Nat) (f : FloorSt) : State := setJoined (tFloor st rank f) 1

/-- A burst from device 7 at Floor index 5, with the tag that this Floor's key gives it and its CRC. -/
def tBurst (s : State) (kind : Nat) (payload : List Byte) : Burst :=
  let bu : Burst := { kind := kind, segment := segmentOf s, src := 7, fidx := 5, frame := 9, payload := payload, tag := []
                      crc := 0 }
  let bu := { bu with tag := floorTag s bu }
  { bu with crc := burstCrc bu }

theorem tBurst_heard (s : State) (kind : Nat) (payload : List Byte) (ha : alive s = true) (hr : s.seed.read = true) :
    Statements.Heard s kind (tBurst s kind payload) := by
  simp [Statements.Heard, tBurst, burstValid, crcGood, burstCrc, floorTag, burstBytes, burstHeader, ha, hr]

/-- The payload of a beacon whose first flag bytes are given, with index 0 among its members. -/
def tBeacon (period : Nat) : List Byte := leBytes 2 0 ++ leBytes 2 period ++ leBytes 20 0 ++ [1#8]

theorem wit_FloorJoining :
    (alive (tFloor fsRange 0 {}) = true ∧ flrState (tFloor fsRange 0 {}) = fsRange
      ∧ frameNo (setReg64 (tFloor fsRange 0 {}) Reg.FRM_COUNT_LO 1) % 2 = 1)
    ∧ flrState (tFloor fsMember 0 { echo := true }) ≠ fsRange
    ∧ flrState (tFloor fsRange 0 { echo := true }) = fsRange
    ∧ (flrState (tFloor fsJoin 0 { ranged := true }) = fsJoin ∧ (tFloor fsJoin 0 { ranged := true }).floor.jsent = none)
    ∧ (∀ st ∈ [fsListen, fsRange, fsJoin], (tBurst (tFloor st 0 {}) btBeacon (tBeacon 1)).src ≠ deviceId (tFloor st 0 {})
      ∧ exiting (tFloor st 0 {}) = false ∧ flrState (tFloor st 0 {}) = st
      ∧ otherPeriod (tFloor st 0 {}) (tBurst (tFloor st 0 {}) btBeacon (tBeacon 1)) = true
      ∧ otherPeriod (tFloor st 0 {}) (tBurst (tFloor st 0 {}) btBeacon (tBeacon 0)) = false
      ∧ beaconMember (tBurst (tFloor st 0 {}) btBeacon (tBeacon 0)) (fidx (tFloor st 0 {})) = true) := by
  decide +kernel

/-- The leader, a member of index 5 with it. -/
def tLeader : State := setMember (setMember (tMember fsLeader 1 {}) 0 true) 5 true

theorem wit_FloorLeading :
    (alive tLeader = true ∧ tLeader.seed.read = true ∧ flrState tLeader = fsLeader ∧ isMember tLeader 5 = true
      ∧ 5 ≠ fidx tLeader ∧ tLeader.floor.claims = [])
    ∧ joinFault tLeader (tBurst tLeader btJoin (leBytes 2 16 ++ leBytes 4 16)) = none
    ∧ joinFault tLeader (tBurst tLeader btJoin (leBytes 6 16)) = some frPeriod
    ∧ 8 ≤ kget (fun _ => 0) (mapFloor tLeader fun f => { f with silent := [(5, 8)] }).floor.silent 5
    ∧ bestClaim (mapFloor tLeader fun f => { f with claims := [(2, 5)] }).floor.claims = some (2, 5)
    ∧ (joined (tMember fsMember 1 {}) = true ∧ flrState (tMember fsMember 1 {}) ≠ fsLeader)
    ∧ (isStart (tFloor fsListen 1 { quiet := 10000 }) = false ∧ lrank (tFloor fsListen 1 { quiet := 10000 }) ≠ 0
      ∧ flrState (tFloor fsListen 1 { quiet := 10000 }) ≠ fsLeader ∧ flrState (tFloor fsListen 1 { quiet := 10000 }) ≠ fsOff
      ∧ quietEnough (tMember fsMember 1 { quiet := 16 }) = true ∧ flrState (tMember fsMember 1 { quiet := 16 }) = fsMember)
    := by decide +kernel

/-- A member that is a gateway under port 23 and hears a beacon of rank 2 in hold-over. -/
def tHolds : State :=
  setFld (setFld (tMember fsMember 1 { brank := 2, bhold := true }) Reg.FAB_FLAG Fld.FAB_FLAG_GATEWAY 1)
    Reg.FAB_FLAG Fld.FAB_FLAG_PARENT 23

theorem wit_FloorMember :
    (alive (tMember fsMember 1 {}) = true ∧ joined (tMember fsMember 1 {}) = true ∧ frameNo (tMember fsMember 1 {}) % 2 = 0
      ∧ frameNo (tMember fsMember 1 {}) / 2 % 256 = fidx (tMember fsMember 1 {}))
    ∧ (0 < fld (setFld (tMember fsMember 1 {}) Reg.FLR_NTEL Fld.FLR_NTEL_NTEL 1) Reg.FLR_NTEL Fld.FLR_NTEL_NTEL
      ∧ telemOwner (setFld (tMember fsMember 1 {}) Reg.FLR_NTEL Fld.FLR_NTEL_NTEL 1) 0 = 0)
    ∧ (0 < fld (setFld tLeader Reg.FLR_NTEL Fld.FLR_NTEL_NTEL 1) Reg.FLR_NTEL Fld.FLR_NTEL_NTEL
      ∧ flrState tLeader = fsLeader ∧ joined tLeader = true
      ∧ (let s := setReg64 (setFld tLeader Reg.FLR_NTEL Fld.FLR_NTEL_NTEL 1) Reg.FRM_COUNT_LO 5
         telemOwner s 0 = 5 ∧ telemOwner s 0 ≠ fidx s ∧ isMember s (telemOwner s 0) = true))
    ∧ (tMember fsMember 1 { due := some 5 }).floor.due = some 5
    ∧ ((tMember fsMember 1 {}).floor.heard = false ∧ (tMember fsMember 1 {}).floor.judged = false
      ∧ (tMember fsMember 1 {}).seed.read = true ∧ (tMember fsMember 1 {}).floor.leaving = none)
    ∧ (tMember fsMember 1 { heard := true }).floor.heard = true
    ∧ (lrank tHolds = 1 ∧ tHolds.floor.brank = 2 ∧ timeSource tHolds = true ∧ tHolds.floor.bhold = true
      ∧ tHolds.floor.takes = false ∧ tHolds.floor.cslot ≤ frameNo tHolds ∧ flrState tHolds = fsMember ∧ joined tHolds = true)
    ∧ 4096 ≤ fld (setFld (tMember fsMember 1 {}) Reg.FLR_HOLD Fld.FLR_HOLD_FRAMES 4096) Reg.FLR_HOLD Fld.FLR_HOLD_FRAMES
    ∧ tRuns .leaveAttempt (tFloor fsListen 1 { leaving := some 1, ltries := 15 }) (fun t => t.floor.leaving = none) = true := by
  decide +kernel

theorem wit_FloorFlags :
    (alive tStep = true ∧ tStep.step.opened = [{ start := 0 }] ∧ knows tStep (fkBlight, 0) = false)
    ∧ (pbarOn (setFld tIdle (Reg.FAB_PBAR 7) Fld.FAB_PBAR_VALID 1) 7 = true ∧ tIdle.step.opened = []
      ∧ isGateway (setFld tIdle (Reg.FAB_PBAR 7) Fld.FAB_PBAR_VALID 1) = false)
    ∧ tRuns (.floorFlagBlock (2 ^ 17)) (setFld tIdle (Reg.FAB_PBAR 7) Fld.FAB_PBAR_VALID 1) (fun t => pbarGen t 7 = 1) = true
    ∧ (10 + 7 < (mapFrm tIdle fun f => { f with win := 18 }).frm.win ∧ tIdle.frm.slipFlag = false
      ∧ slipFlashes (mapFrm (setJoined tIdle 1) fun f => { f with slipOwn := true }) = true) := by decide +kernel

/-! ## Witnesses: scrubbing and repairs -/

/-- A note of an error in a Loft word, uncorrectable or of a layer check. -/
def tNote (a : Nat) (lpar : Bool) : ErrNote := { cls := 1, addr := a, uncorr := true, lpar := lpar, pos := [1] }

/-- Two bank rows of layer 0 of slice 0 have had uncorrectable errors, or failed layer checks. -/
def tRows (lpar : Bool) : State := { tIdle with ecc := { hist := [tNote 0 lpar, tNote (65 * 4096) lpar] } }

theorem wit_Scrubbing :
    (alive tIdle = true ∧ scrubs tIdle = true ∧ kget (fun _ => 0) tIdle.integ.gpos 255 + 1 < channelWords
      ∧ kfind tIdle.ecc.cw (cwKey 2 (channelAddr 255 0)) = none)
    ∧ (kfind (setCw tIdle (cwKey 2 (channelAddr 255 0)) { pos := [3] }).ecc.cw (cwKey 2 (channelAddr 255 0)) = some { pos := [3] }
      ∧ (foundOf tIdle (cwKey 2 (channelAddr 255 0)) { pos := [3] } matches .corrected) = true ∧ initMode1 tIdle = false
      ∧ tIdle.ecc.hist = [] ∧ tIdle.ecc.hour = [])
    ∧ (rowQuarters tIdle 63 (kget (fun _ => 0) tIdle.integ.rpos 63) = [] ∧ tClean tIdle = true
      ∧ kget (fun _ => 0) tIdle.integ.rpos 63 + 1 < bankRows)
    ∧ (regN (setRegN tIdle Reg.LFT_RAKEMAX 1) Reg.LFT_RAKEMAX ≠ 0 ∧ tIdle.integ.slow.contains 63 = false)
    ∧ fld tIdle Reg.GRN_GLADAPT Fld.GRN_GLADAPT_UP < kget (fun _ => 0) ({ hour := [(7, 2 ^ 30)] } : EccSt).hour 7
    ∧ kfind (setCw tIdle 1 { pos := [3], wb := true }).ecc.cw 1 = some { pos := [3], wb := true }
    ∧ (bitN (0x80000001#32).toNat 31 = true ∧ bitN (1#32).toNat 31 = false) := by decide +kernel

theorem wit_Repairs :
    (mapInteg tIdle fun x => { x with rows := [(255, 9)] }).integ.rows.contains (255, 9) = true
    ∧ ((∀ n ∈ (tRows false).ecc.hist, n.cls = 1) ∧ (tRows false).ecc.hour = []
      ∧ atBoundary { tRows false with edge := true } = true ∧ bankDue { tRows false with edge := true } 0 0 = true ∧ sliceBusy (tRows false) 0 = false
      ∧ sparesUsed (tRows false) 0 < 4 ∧ bankDue (tRows false) 0 0 = true)
    ∧ ((mapLoft tIdle fun x => { x with banks := [(3, 63)] }).loft.banks.contains (3, 63) = true
      ∧ tCalm { tIdle with loft := { tIdle.loft with banks := [] } } = true)
    ∧ ((∀ n ∈ (tRows true).ecc.hist, n.cls = 1) ∧ kfind (tRows true).loft.mapping 0 = none ∧ mapoutDue (tRows true) 0 0 = true
      ∧ atBoundary { tRows true with edge := true } = true ∧ mapoutDue { tRows true with edge := true } 0 0 = true
      ∧ tCalm { tRows true with edge := true } = true ∧ sliceMapped (tRows true) 0 = false ∧ lowLines (tRows true) 0 = []
      ∧ sliceMapped (setFld (tRows true) (Reg.LFT_SLSTAT 0) Fld.LFT_SLSTAT_MAPPED 1) 0 = true)
    ∧ (kfind (mapLoft tIdle fun x => { x with mapping := [(63, 3)] }).loft.mapping 63 = some 3
      ∧ roundsClosed (mapLoft tIdle fun x => { x with mapping := [(63, 3)] }) 63 = true
      ∧ lowLines (mapLoft tIdle fun x => { x with mapping := [(63, 3)] }) 63 = []
      ∧ lowFills (mapLoft tIdle fun x => { x with mapping := [(63, 3)] }) 63 = false
      ∧ tCalm (mapLoft tIdle fun x => { x with mapping := [(63, 3)] }) = true
      ∧ tClean (mapLoft tIdle fun x => { x with mapping := [(63, 3)] }) = true)
    ∧ (stepOpen tIdle = false ∧ tIdle.mill.res = none) := by decide +kernel

/-! ## Witnesses: steps, the Mill, the Wain and the stash -/

/-- The Mill walks at a descriptor at 0x4000, with a step open and the parameter table at 0x8000: record 0 given, of one
block, its touch map at 0x9000. -/
def tMill (d r : List Byte) : State :=
  let s := setReg64 (setReg64 tStep Reg.MIL_LIST_LO 0x4000) Reg.MIL_PTAB_LO 0x8000
  let s := poke (poke s 0x4000 (bytesAt d 0 32)) 0x8000 (bytesAt r 0 64)
  mapMill (setFld s Reg.MIL_PCOUNT Fld.MIL_PCOUNT_COUNT 1) fun m => { m with walking := true }

/-- A descriptor of an opcode that takes COUNT records from FIRST, its gate at a value of counter 1023. -/
def tMdesc (op gate count : Nat) : List Byte :=
  leBytes 4 (op * 2 ^ 28 + 1023 * 2 ^ 18) ++ leBytes 4 gate ++ leBytes 4 0 ++ leBytes 4 count

/-- The Mill's descriptor is read and good. -/
def tMillAt (s : State) (p : State → MDesc → Bool) : Bool :=
  alive s && s.loft.rounds.isEmpty && s.mill.walking && fld s Reg.MIL_STATUS Fld.MIL_STATUS_BUSY = 0 && s.mill.work.isNone
    && s.mill.res.isNone && !s.mill.past
    && rangeOk s (reg64 s Reg.MIL_LIST_LO + 32 * fld s Reg.MIL_ITEM Fld.MIL_ITEM_INDEX) 32
    && match load s (reg64 s Reg.MIL_LIST_LO + 32 * fld s Reg.MIL_ITEM Fld.MIL_ITEM_INDEX) 32 with
      | (u, .ok bs) => !(mdescOf bs).rsv && p u (mdescOf bs)
      | _ => false

def tGateMet (u : State) (d : MDesc) : Bool := d.gateval ≤ sextN 64 (counter u d.gatecnt)

/-- A record of one element, frozen or not, with its touch map at 0x9000. -/
def tPrec (frozen : Bool) : List Byte :=
  [0#8, if frozen then 0x80#8 else 0#8, 0#8, 0#8] ++ leBytes 4 1 ++ leBytes 38 0 ++ leBytes 5 0x9000

theorem wit_MillList :
    (∀ op ∈ [0, 1, 2], tMillAt (tMill (tMdesc op 1 (if op = 1 then 1 else 0)) []) (fun u d => d.op = op && !tGateMet u d) = true)
    ∧ tMillAt (tMill (tMdesc 0 0 0) []) (fun u d => d.op = 0 && tGateMet u d) = true
    ∧ tMillAt (tMill (tMdesc 2 0 0) []) (fun u d => d.op = 2 && tGateMet u d && u.step.opened.length = 1) = true
    ∧ tMillAt (tMill (tMdesc 1 0 2) (tPrec false)) (fun u d => d.op = 1 && tGateMet u d && u.step.opened.length = 1
      && decide (pcount u < d.first + d.count)) = true
    ∧ tMillAt { tMill (tMdesc 1 0 1) (tPrec false) with step := { opened := [{ start := 0, named := [0] }] } }
      (fun u d => d.op = 1 && tGateMet u d && u.step.opened.any (fun x => x.named = [0]) && d.first = 0 && d.count = 1) = true
    ∧ (∀ frozen, tMillAt (poke (tMill (tMdesc 1 0 1) (tPrec frozen)) 0x9000 [0xFF#8]) (fun u d => d.op = 1 && tGateMet u d
      && tClean u && u.step.opened.all (fun x => x.named = []) && d.first + d.count ≤ pcount u && d.count = 1
      && fld u Reg.MIL_ITEM Fld.MIL_ITEM_INDEX < 4095 && (precAt u 0).frozen = frozen && !(precAt u 0).hold
      && (precAt u 0).mclass = 0 && !(precAt u 0).remote u && !millDry u && (blocksFor u 0).length = 1) = true) := by
  decide +kernel

/-- The Mill works on block 0 of record 0; a matrix job of record 0 is under way and has reported. -/
def tWorking (w : MillWork) : State := mapMill (tMill [] (tPrec false)) fun m => { m with work := some w }
def tPostBlock : MBlock := { rec_ := 0, blk := 0, post := true }
def tMatrix : State :=
  setReg64 (poke (setReg64 (tWorking { mats := [0], stage := 1, kept := [tPostBlock] }) Reg.MIL_MJTAB_LO 0xA000) 0xA000
    (leBytes 14 0 ++ leBytes 5 0xB000 ++ leBytes 2 1023)) (Reg.BGH_CNT_LO 1023) 1

/-- The Mill has block 0 of record 0, which is touched, and of record 1, which is not, before it. -/
def tTodo : MillWork := { todo := [{ rec_ := 0, blk := 0 }, { rec_ := 1, blk := 0 }] }
def tTouched : State := poke (tWorking tTodo) 0x9000 [0xFF#8]

/-- Block 0 of record 0 has its gradient and waits for its state. -/
def tHeldBlock : MBlock := { rec_ := 0, blk := 0, grad := some 0 }

theorem wit_MillBlocks :
    (alive tTouched = true ∧ tTouched.loft.rounds = [] ∧ tTouched.mill.work = some tTodo ∧ workDry tTouched tTodo = false
      ∧ tClean tTouched = true
      ∧ (tTodo.todo.find? fun x => x.rec_ = 1 && x.blk = 0) = some { rec_ := 1, blk := 0 }
      ∧ blockDue tTouched { rec_ := 1, blk := 0 } = false ∧ tTodo.mats = []
      ∧ (∀ x ∈ tTodo.todo, (precAt tTouched x.rec_).remote tTouched = false)
      ∧ (tTodo.todo.erase { rec_ := 1, blk := 0 }).any (blockDue tTouched) = true)
    ∧ ((tTodo.todo.find? fun x => x.rec_ = 0 && x.blk = 0) = some { rec_ := 0, blk := 0 }
      ∧ blockDue tTouched { rec_ := 0, blk := 0 } = true ∧ blockReady tTouched { rec_ := 0, blk := 0 } = true
      ∧ (precAt tTouched 0).mclass = 0 ∧ (precAt tTouched 0).remote tTouched = false)
    ∧ ((mapMill tStep fun m => { m with res := some { num := 0, epoch := 1, regen := [(0, [3])] } }).mill.work = none
      ∧ tStep.loft.rounds = [] ∧ 3 ∈ [3])
    ∧ ((tWorking { todo := [tHeldBlock] }).mill.work = some { todo := [tHeldBlock] } ∧ tHeldBlock.grad.isSome = true
      ∧ ([tHeldBlock].find? fun x => x.rec_ = 0 && x.blk = 0 && x.grad.isSome && x.state.isNone) = some tHeldBlock)
    ∧ (tClean tMatrix = true ∧ tMatrix.loft.rounds = [] ∧ 1 ≤ sextN 64 (counter tMatrix (mjobAt tMatrix (precAt tMatrix 0).mjob).donecnt)
      ∧ workDry tMatrix {} = false ∧ tPostBlock.rec_ = 0 ∧ tPostBlock.post = true
      ∧ (∀ v ∈ [1, 2], peekN (poke tMatrix 0xB000 (leBytes 4 v)) (mjobAt tMatrix (precAt tMatrix 0).mjob).hstat 4 = v)
      ∧ tRuns (.matrixJobDone 0) (poke tMatrix 0xB000 [1#8]) (fun t => regN t Reg.MIL_IDSUB = 1
        && t.mill.work.any fun v => v.hin && v.stage = 2) = true
      ∧ tRuns (.matrixJobDone 0) (poke tMatrix 0xB000 [2#8]) (fun t => regN t Reg.MIL_FAULT = 1) = true) := by decide +kernel

/-- A program frame that is late enough for the gate of the open step. -/
def tAtGate (x : OpenStep) : State := setReg64 { tStep with step := { opened := [x] } } Reg.FRM_PINDEX_LO 10000000
def tRegen (x : Resolve) : State := mapMill (tMill [] (tPrec false)) fun m => { m with res := some x }

/-- The gate tests counter 0 at the end of step frame 0, and it is not zero. -/
def tGateOn : State :=
  setReg64 (setFld (setFld tStep Reg.MIL_GATE Fld.MIL_GATE_CFRAME 0) Reg.MIL_GATE Fld.MIL_GATE_RTEN 1) (Reg.BGH_CNT_LO 0) 1

/-- A regeneration of block 0 of record 0 waits on fence counter 0. -/
def tFence : Resolve := { num := 0, epoch := 0, regen := [(0, [0])], frames := 1 }
def tFenced : State := setFld (setReg64 (tRegen tFence) (Reg.BGH_CNT_LO 0) 1) Reg.MIL_CTRL Fld.MIL_CTRL_FSTALL 1

theorem wit_StepGate :
    (alive tGateOn = true ∧ tGateOn.step.opened = [{ start := 0 }] ∧ pindex tGateOn = 0 + cframe tGateOn
      ∧ fld tGateOn Reg.MIL_GATE Fld.MIL_GATE_RTEN = 1 ∧ counter tGateOn (fld tGateOn Reg.MIL_GATE Fld.MIL_GATE_RTCNT) ≠ 0)
    ∧ fld tStep Reg.MIL_GATE Fld.MIL_GATE_RTEN = 0
    ∧ (∀ b ∈ [0, 1], (tAtGate { start := 0, commit := some (1023, 0), blight := b }).step.opened
          = [{ start := 0, commit := some (1023, 0), blight := b }]
      ∧ (tAtGate { start := 0 }).loft.rounds = [] ∧ (tAtGate { start := 0 }).mill.res = none
      ∧ (tAtGate { start := 0 }).mill.past = false
      ∧ 0 + cframe (tAtGate { start := 0 }) + horizon (tAtGate { start := 0 }) + 1 ≤ pindex (tAtGate { start := 0 })
      ∧ ({ start := 0, blight := b } : OpenStep).bad = decide (b = 1)
      ∧ tRuns .stepResolve (tAtGate { start := 0, commit := some (1023, 0), blight := b }) (fun t => counter t 1023 = 1 + b
        && reg64 t Reg.MIL_EPOCH_LO = reg64 tStep Reg.MIL_EPOCH_LO + 1 - b) = true)
    ∧ ((tRegen { num := 0, epoch := 1, regen := [(0, [0])] }).mill.work = none
      ∧ regenReady (tRegen { num := 0, epoch := 1, regen := [(0, [0])] }) { num := 0, epoch := 1, regen := [(0, [0])] } (0, [0]) = true)
    ∧ (tFenced.loft.rounds = [] ∧ tFenced.mill.work = none ∧ tFenced.mill.res = some tFence ∧ fenceOf tFenced tFence.epoch 0 ≠ 0
      ∧ tFence.stalled = false ∧ 0 < fld tFenced Reg.MIL_CTRL Fld.MIL_CTRL_FSTALL
      ∧ fld tFenced Reg.MIL_CTRL Fld.MIL_CTRL_FSTALL ≤ tFence.frames) := by decide +kernel

/-- A stash of one entry at 0x8000, in a state, spilled at line 0x20 of the Granary. -/
def tStash (st : Nat) : State :=
  let s := setReg64 (setFld tIdle Reg.LFT_STCTRL Fld.LFT_STCTRL_COUNT 1) Reg.LFT_STBASE_LO 0x8000
  let s := poke s 0x8000 (leBytes 8 0x10000 ++ leBytes 4 1 ++ leBytes 6 0 ++ leBytes 1 st ++ leBytes 5 0 ++ leBytes 8 0x20000)
  { s with stash := { runs := [{ entry := 0, peer := false, start := 0, lines := 1 }] } }

/-- A bough of a training job that walks at a SETSTEP of slot 31, with steps open and stash entries. -/
def tTrains (opened : List OpenStep) (entries : Nat) : State :=
  setFld (setFld { tWalk (tItem 0xF0000000 31 0 0) with
    host := { job := some { handle := 4097, strict := false, nout := 0, start := 0 } }, step := { opened := opened } }
    Reg.MIL_PCOUNT Fld.MIL_PCOUNT_COUNT 1) Reg.LFT_STCTRL Fld.LFT_STCTRL_COUNT entries

/-- The walk of bough n stands at a SETSTEP that can issue. -/
def tSets (s : State) (n : Nat) (p : State → Bool) : Bool :=
  alive s && walkHas s n fun u b i _ => i.kind = 15 && !i.fence && !slotBusy u b (bitsN i.w1 4 0) && itemIdx u b ≠ 65535
    && (p u : Bool)

theorem wit_StepsAndStash :
    (tSets (setBough (setReg64 (tWalk (tItem 0xF0000000 31 0 0)) (Reg.BGH_PBASE_LO 63) 0) 63 { walking := true }) 63
        (fun _ => true) = true
      ∧ tSets (tTrains [{ start := 0 }, { start := 1 }] 0) 0 (fun u => training u && decide (u.step.opened.length = 2)) = true
      ∧ tSets (tTrains [{ start := 0 }] 0) 0 (fun u => training u && u.step.opened.length < 2 && stCount u = 0) = true
      ∧ tSets (tTrains [] 1) 0 (fun u => training u && u.step.opened.length < 2 && stCount u ≠ 0 && tClean u) = true
      ∧ tSets (tWalk (tItem 0xF0000000 31 0 0)) 0 (fun u => !training u) = true)
    ∧ (∀ p : Bool, (let s := { tStash esSpilling with stash := { runs := [{ entry := 0, peer := p, start := 0, lines := 1 }] } }
        (alive s && s.loft.rounds.isEmpty && tClean s && decide (0 < stCount s) && decide ((stAt s 0).state = esSpilling)
          && stowed s (stAt s 0)
          && (s.stash.runs.find? fun y => y.entry = 0) = some { entry := 0, peer := p, start := 0, lines := 1 }) = true))
    ∧ (∀ x ∈ [([] : KMap (List Byte)), [(0, [1#8])]], (let s := { tStash esRestoring with stash := { peer := x } }
        (alive s && s.loft.rounds.isEmpty && tClean s && decide (0 < stCount s) && decide ((stAt s 0).state = esRestoring)
          && decide (kfind s.stash.peer 0 = if x = [] then none else some [1#8]) && decide (pcount s = 0)) = true)) := by
  decide +kernel

/-- The Wain walks at a descriptor at 0x4000 of an opcode, with a gate at counter 1023; the placement table at 0x8000 names
device 0 alone, with one expert. -/
def tWain (op gate me : Nat) : State :=
  let d := leBytes 4 (op * 2 ^ 28 + (if op = 3 then 5 * 2 ^ 22 else 0) + 1023 * 2 ^ 12) ++ leBytes 8 0 ++ leBytes 4 gate
    ++ leBytes 24 0 ++ leBytes 8 0x8000
  let h := leBytes 2 1 ++ leBytes 2 1 ++ leBytes 2 me ++ leBytes 2 0 ++ leBytes 2 64
  let s := poke (poke (setReg64 tIdle Reg.WAN_PBASE_LO 0x4000) 0x4000 (bytesAt d 0 64)) 0x8000 (bytesAt h 0 64)
  { poke s 0x8040 (bytesAt (leBytes 3 0 ++ [1#8]) 0 20) with wain := { walking := true } }

/-- The Wain's descriptor is read and good. -/
def tWainAt (s : State) (p : State → WDesc → Bool) : Bool :=
  alive s && s.loft.rounds.isEmpty && s.wain.walking && fld s Reg.WAN_STATUS Fld.WAN_STATUS_BUSY = 0 && !s.wain.past
    && rangeOk s (reg64 s Reg.WAN_PBASE_LO + 64 * fld s Reg.WAN_ITEM Fld.WAN_ITEM_INDEX) 64
    && match load s (reg64 s Reg.WAN_PBASE_LO + 64 * fld s Reg.WAN_ITEM Fld.WAN_ITEM_INDEX) 64 with
      | (u, .ok bs) => !(wdescOf bs).rsv && p u (wdescOf bs)
      | _ => false

theorem wit_WainList :
    (∀ op ∈ [0, 1, 2, 3, 4], tWainAt (tWain op 1 0) (fun u d => d.op = op && sextN 64 (counter u d.gatecnt) < d.gateval) = true)
    ∧ (∀ op ∈ [0, 1, 2, 3, 4], tWainAt (tWain op 0 0) (fun u d => d.op = op && d.gateval ≤ sextN 64 (counter u d.gatecnt)
      && match loadPlace (setWanFld u Fld.WAN_STATUS_GATED 0) d.ptab with
        | (v, .ok (some p)) => p.nmem = 1 && (cart v d.cartid).isNone && tClean v
        | _ => false) = true)
    ∧ tWainAt (tWain 1 0 1) (fun u d => match (loadPlace (setWanFld u Fld.WAN_STATUS_GATED 0) d.ptab).2 with
        | .ok none => true
        | _ => false) = true := by decide +kernel

theorem wit_WainShares : (⟨3, 1, 2, 64, [], [], false⟩ : Place).share 0 = 22 ∧ (⟨3, 1, 2, 64, [], [], false⟩ : Place).share 1 = 21
    ∧ (⟨3, 1, 2, 64, [], [], false⟩ : Place).share 2 = 21 := by decide +kernel

/-! ## Witnesses: resets, start-up, jobs, housekeeping and firmware -/

/-- A device whose start stands at a phase. -/
def tPhase (k : Nat) : State := setPhase tUp k

def tFuse (s : State) : State := setFld s Reg.RST_FUSE Fld.RST_FUSE_PERSTMODE 1

theorem wit_FullResets :
    (State.reset.rst.power = true ∧ State.reset.rst.mainPg = false ∧ rstState State.reset = 0 ∧ rsPhase State.reset = 1)
    ∧ ((mapRst tIdle fun r => { r with mainPg := false }).rst.mainPg = false
      ∧ rstState (mapRst tIdle fun r => { r with mainPg := false }) ≠ 0)
    ∧ (alive (mapRst tIdle fun r => { r with perst := true }) = true ∧ perstMode tIdle = 0 ∧ perstMode (tFuse tIdle) = 1)
    ∧ rstState tUp = 0 ∧ fwmState tIdle ≠ fwsTrial
    ∧ (fwmState (setFwm tIdle Fld.FWM_STATUS_STATE fwsTrial) = fwsTrial ∧ tIdle.fwm.confirming = false)
    ∧ tStarts (tCmd ocReset []) ocReset = true
    ∧ tStarts (tCmd ocReset (leBytes 4 0 ++ [1#8])) ocReset = true := by decide +kernel

/-- A device at a frame boundary. -/
def tEdge : State := { tTick with edge := true }

theorem wit_SuppliesAndPins : tUp.rst.mainPg = true ∧ alive (tFuse tIdle) = true ∧ perstMode (tFuse tIdle) = 1
    ∧ perstMode tUp = 0 := by decide +kernel

/-- In phase 6 with every spare bank of layer 3 in use, and in phase 9 with no spare bough that works. -/
def tSpent : State := setFld (tPhase 6) Reg.INT_SPARES Fld.INT_SPARES_LBANK 0x4000
def tNoSpare : State :=
  [64, 65, 66, 67].foldl (fun s b => setFld s (Reg.BGH_STATUS b) Fld.BGH_STATUS_FAILED 1) (tPhase 9)

theorem wit_StartPhases : (∀ k ∈ [1, 2, 3, 4, 5, 6, 7, 8, 9], alive (tPhase k) = true ∧ rstState (tPhase k) = 0 ∧ rsPhase (tPhase k) = k)
    ∧ startCount (tPhase 2) < fld (loadSettings (tPhase 2)) Reg.RST_OPTIONS Fld.RST_OPTIONS_FAILLIM
    ∧ foundBanks .pass = []
    ∧ (cellBody (tPhase 6) ckRepair = [] ∧ sliceMapped (tPhase 6) 63 = false ∧ sparesUsed (tPhase 6) 3 < 4)
    ∧ (cellBody tSpent ckRepair = [] ∧ sliceMapped tSpent 63 = false ∧ sparesUsed tSpent 3 = 4 ∧ rsPhase tSpent = 6)
    ∧ (let s := setFld (setFld tSpent (Reg.LFT_SLSTAT 63) Fld.LFT_SLSTAT_MAPPED 1) (Reg.LFT_SLSTAT 63) Fld.LFT_SLSTAT_LAYER 1
       cellBody s ckRepair = [] ∧ sliceMapped s 63 = true ∧ fld s (Reg.LFT_SLSTAT 63) Fld.LFT_SLSTAT_LAYER ≠ 3
         ∧ sparesUsed s 3 = 4 ∧ alive s = true ∧ rsPhase s = 6)
    ∧ (foundArrays .pass = [] ∧ foundBoughs .pass = [] ∧ foundBoughs (.crown [] [63]) = [phys (tPhase 9) 63])
    ∧ ((∀ n, n < 64 → phys (tPhase 9) n < 64) ∧ (∀ m, m < 64 → phys (tPhase 9) m = phys (tPhase 9) 63 → m = 63)
      ∧ fld (tPhase 9) (Reg.BGH_STATUS 64) Fld.BGH_STATUS_FAILED = 0 ∧ (tPhase 9).integ.copies = [])
    ∧ (alive tNoSpare = true ∧ rstState tNoSpare = 0 ∧ rsPhase tNoSpare = 9 ∧ phys tNoSpare 63 = 63
      ∧ (∀ n, n < 64 → phys tNoSpare n < 64) ∧ (∀ n < 64, ∀ m < n, phys tNoSpare m ≠ phys tNoSpare n)
      ∧ (∀ d, d < 68 → (∀ n, n < 64 → phys tNoSpare n ≠ d) → fld tNoSpare (Reg.BGH_STATUS d) Fld.BGH_STATUS_FAILED = 1)) ∧ (mapRst (tPhase 4) fun r => { r with perst := true }).rst.perst = true := by decide +kernel

/-- A number of the start count in the Cellar. -/
def tCounted : State :=
  let s := tPhase 2
  { s with cellar := { s.cellar with recs := kins ckStart ((cellRec s ckStart).write 1 (leBytes 4 255)) s.cellar.recs } }

theorem wit_StartPhases_limit : fld (loadSettings tCounted) Reg.RST_OPTIONS Fld.RST_OPTIONS_FAILLIM ≤ startCount tCounted := by
  decide +kernel

/-- Bytes of a sparse map from an address on. -/
def tAt (a : Nat) (bs : List Byte) : KMap Byte := bs.zipIdx.map fun x => (a + x.2, x.1)

/-- A Seed of six sections that share 76 bytes at 192: PERIOD 16, WIN 2, HORIZON 1; its device is entry 2 of the member list.
Bytes not given are erased flash, and the two CRC-32C values were worked out apart from the model. -/
def tSeed : State :=
  let e (t : Nat) : KMap Byte := tAt (64 + 16 * t) (leBytes 2 ([1, 2, 5, 6, 7, 8].getD t 0))
    ++ tAt (68 + 16 * t) (leBytes 4 192 ++ leBytes 4 76 ++ leBytes 4 1416339072)
  mapRst (tPhase 11) fun r => { r with
    seedBuf := tAt 0 (ascii "IXSD" ++ leBytes 2 1 ++ leBytes 2 6 ++ leBytes 4 268) ++ tAt 60 (leBytes 4 3474825327)
      ++ e 0 ++ e 1 ++ e 2 ++ e 3 ++ e 4 ++ e 5 ++ tAt 192 (leBytes 4 0x01020010) ++ tAt 264 (leBytes 4 (2 ^ 31 + 0x20010)) }

theorem wit_StartEnds : seedFault tSeed = none ∧ seedFault (tPhase 11) = some (1, 0, 0) ∧ rsPhase (tPhase 12) = 12
    ∧ rsPhase (tPhase 10) = 10 ∧ alive tSeed = true ∧ rstState tSeed = 0 := by decide +kernel

/-- A flash whose slot 0 holds the header of an image of 16 bytes with a hash of zeros. -/
def tImage (s : State) : State :=
  let h := bytesAt (ascii "IXFW" ++ leBytes 2 1 ++ leBytes 10 0 ++ leBytes 4 16) 0 256
  mapRst s fun r => { r with flash := h.zipIdx.map fun x => (slotOff s 0 + x.2, x.1) }

/-- Given what the hash and the signature functions answer, an image is good. -/
theorem wit_Image (hs : ∀ b, shake256 b 32 = leBytes 32 0) (hv : ∀ a b, Config.firmwareVerify a b = true) :
    (verify573 (tImage tIdle) 0).1 = 0 ∧ rollRoot (tPhase 10) = 0 := by
  unfold verify573
  simp only [hs, hv]
  decide +kernel

/-- A partial reset of a kind waits at the head of the list. -/
def tPart (s : State) (kind target stage : Nat) : State :=
  mapRst s fun r => { r with parts := [{ kind := kind, target := target, stage := stage }] }

theorem wit_RootSubReset :
    (alive (tPart (tOut 0 0 0 false .left) pkRoot 0 0) = true ∧ (tPart (tOut 0 0 0 false .left) pkRoot 0 0).carts ≠ []
      ∧ partHead (tPart (tOut 0 0 0 false .left) pkRoot 0 0) pkRoot = some { kind := pkRoot, target := 0 })
    ∧ (0 < fld tIdle Reg.RST_QUIESCE Fld.RST_QUIESCE_FRAMES
      ∧ fld (setFld tIdle Reg.RST_QUIESCE Fld.RST_QUIESCE_FRAMES 0) Reg.RST_QUIESCE Fld.RST_QUIESCE_FRAMES ≤ 0)
    ∧ partHead (tPart tIdle pkRoot 0 2) pkRoot = some { kind := pkRoot, target := 0, stage := 2 } := by decide +kernel

/-- A job is loaded. -/
def tJobOn : State := { tEdge with host := { tEdge.host with job := some { handle := 4097, strict := false, nout := 0, start := 0 } } }

/-- With a parking object: object 5, whose record gives it the length of the direct range. -/
def tParked : State :=
  let s := { tEdge with loft := { tTick.loft with park := some 5, objs := [5] } }
  poke s (objRec s 5) (leBytes 5 0x200000000 ++ leBytes 3 0 ++ leBytes 8 (directSize s))

theorem wit_LayerReset :
    (∀ st ∈ [0, 1], alive (tPart tEdge pkLayer 3 st) = true ∧ partHead (tPart tEdge pkLayer 3 st) pkLayer
        = some { kind := pkLayer, target := 3, stage := st } ∧ atBoundary (tPart tEdge pkLayer 3 st) = true
      ∧ atBoundary (tPart tTick pkLayer 3 st) = false
      ∧ (tPart tEdge pkLayer 3 st).loft.lines = [] ∧ (tPart tEdge pkLayer 3 st).loft.objs = []
      ∧ (tPart tEdge pkLayer 3 st).ecc.cw = [] ∧ (tPart tEdge pkLayer 3 st).loft.rounds = [])
    ∧ parkBase tEdge = none ∧ tEdge.host.job = none ∧ (parkBase tJobOn = none ∧ tJobOn.host.job.isSome = true)
    ∧ (parkBase tParked).isSome = true ∧ (objAt tParked 5).pinned = false ∧ (objAt tParked 5).mstate = msHome
    ∧ tParked.loft.lines = [] ∧ tParked.ecc.cw = [] := by
  decide +kernel

theorem wit_BoughAndPortReset :
    (partHead (tPart tJobOn pkBough 67 0) pkBough = some { kind := pkBough, target := 67 } ∧ jobLoaded tJobOn = true
      ∧ fld tJobOn (Reg.BGH_STATUS 67) Fld.BGH_STATUS_PRESENTED ≥ 64 ∧ fld tJobOn (Reg.BGH_STATUS 0) Fld.BGH_STATUS_PRESENTED < 64)
    ∧ (partHead (tPart tIdle pkPort 23 0) pkPort = some { kind := pkPort, target := 23 }) := by decide +kernel

/-- A command in Fallow. -/
def tFallow (op : Nat) : State := setFld (tCmd op []) Reg.RST_STATUS Fld.RST_STATUS_STATE stFallow

theorem wit_DeviceCommands : tStarts (tCmd ocFallow []) ocFallow = true ∧ tStarts (tFallow ocWake) ocWake = true
    ∧ rstState (tFallow ocWake) = stFallow ∧ tStarts (tCmd ocWake []) ocWake = true ∧ rstState (tCmd ocWake []) ≠ stFallow
    ∧ (mapRst (tFallow ocWake) fun r => { r with waking := true, wakes := [4097] }).rst.waking = true
    ∧ tStarts (tCmd ocReset (leBytes 4 (4 * 2 ^ 28 + 23))) ocReset = true ∧ partArgOk (4 * 2 ^ 28 + 23) = true
    ∧ tStarts (tCmd ocStore (leBytes 4 ckSettings)) ocStore = true
    ∧ (deviceStore tIdle ckStart []).cellar.stores.length = 1 ∧ rstState tIdle ≠ 0 ∧ rstState tIdle ≠ stDormant := by decide +kernel

/-- A message of the partition manager: FALLOW, for device 0, within its time; its packet. -/
def tMgmt : List Byte := bytesAt (leBytes 3 0 ++ leBytes 1 ocFallow) 0 64
def tMgmtPkt (last : Bool) (payload : List Byte) : Packet :=
  { tOp opMgmt vlCtrl 0 payload with last := last }

/-- What R543 asks of a message beside its signature. -/
def tMgmtOk (s : State) (body : List Byte) : Bool :=
  body.length = 64 && leAt body 0 3 % 2 ^ 18 = deviceId s && leAt body 14 2 = fld s Reg.FAB_PKEY Fld.FAB_PKEY_PKEY
    && frameNo s ≤ leAt body 8 6 && leAt body 8 6 ≤ frameNo s + 2 ^ 20 && s.rst.digests = []

/-- Given what the signature function answers, such a message is valid. -/
theorem valid_of_tMgmtOk (hv : ∀ a b c, Config.xmssVerify a b c = true) {s : State} {body sig : List Byte}
    (h : tMgmtOk s body = true) : mgmtValid s body sig = true := by
  simp only [tMgmtOk, Bool.and_eq_true, decide_eq_true_eq] at h
  obtain ⟨⟨⟨⟨⟨h1, h2⟩, h3⟩, h4⟩, h5⟩, h6⟩ := h
  simp only [mgmtValid, hv, h1, h2, h3, h4, h5, h6, decide_true, Bool.and_self, List.contains_nil, Bool.not_false]

/-- The whole message as it has come. -/
def tWhole (u : State) (k : Packet) : List Byte := kget (fun _ => []) u.fab.mgmt k.src ++ k.payload

theorem wit_MgmtMessage :
    tTake tFab (tMgmtPkt false [1#8]) (fun _ k' => !k'.last) = true
    ∧ tTake tFab (tMgmtPkt true tMgmt) (fun u k' => k'.last && tMgmtOk u ((tWhole u k').take 64)
        && mgmtOpen u (mgmtRecord ((tWhole u k').take 64))) = true
    ∧ tTake tFab (tMgmtPkt true [1#8]) (fun u k' => k'.last
        && !mgmtValid u ((tWhole u k').take 64) ((tWhole u k').drop 64)) = true
    ∧ alive (recvNow tFab 0 opMgmt (tMgmtPkt false [1#8]) mgmtPacket) = true := by
  decide +kernel

/-- Every presented bough is there, and a table header lies at the start of the object range: a job that may load. -/
def tLoad : State :=
  let s := poke (tCmd ocJobload (leBytes 8 0x8000)) 0x8000
    (bytesAt ([0x49#8, 0x58#8, 0x4A#8, 0x42#8] ++ leBytes 4 0 ++ leBytes 8 1 ++ leBytes 8 0x10000000) 0 512)
  poke s 0x10000000 (bytesAt (leBytes 2 1) 0 64)

theorem wit_Jobs_load : tStarts tLoad ocJobload = true ∧ rstState tLoad = stIdle ∧ 64 ≤ (presented tLoad).length
    ∧ (rdTab 1 0x8000 512 id tLoad).2.isNone = true
    ∧ ((startable tLoad ocJobload).any fun c => c.num 8 8 = 0x8000) = true
    ∧ (jobChk (peek tLoad 0x8000 512) (fun x => images x (peek tLoad 0x8000 512)) tLoad).2.isNone = true
    ∧ ((jobChk (bytesAt [0x49#8] 0 512) (fun x => images x (bytesAt [0x49#8] 0 512)) tLoad).2.any fun x => x.bad.isNone) = true := by
  decide +kernel

theorem wit_Jobs : (jobLoaded tJobOn = true ∧ atBoundary tJobOn = true ∧ pindex tJobOn = 0)
    ∧ (tStarts (tCmd ocJobstop []) ocJobstop = true ∧ (∀ x ∈ (tCmd ocJobstop []).host.cmds, x.op ≠ ocJobload))
    ∧ tStarts { tCmd ocJobstop [] with host := { (tCmd ocJobstop []).host with
        job := some { handle := 4098, strict := false, nout := 0, start := 0, started := true } } } ocJobstop = true := by
  decide +kernel

theorem wit_Housekeeping : (List.replicate 301 (0#16)).length = 301
    ∧ siteSt (mapHsk tIdle fun x => { x with sites := [(127, { suspect := true, hot := 1000 })] }) 3 31
      = { suspect := true, hot := 1000 }
    ∧ (mapHsk tIdle fun x => { x with credit := 0 }).hsk.credit = 0
    ∧ (21, 3) ∈ (mapHsk tIdle fun x => { x with unlocked := [(21, 3)] }).hsk.unlocked := by decide +kernel

/-- Firmware in a state, with an image that runs from slot 0. -/
def tFwm (s : State) (st : Nat) (f : FwmSt) : State :=
  { setFwm s Fld.FWM_STATUS_STATE st with
    fwm := { f with run := some { slot := 0, major := 0, minor := 0, clrver := 0, svn := 0, hash := [] } } }

/-- An image in slot 1. -/
def tOther : Image := { slot := 1, major := 0, minor := 0, clrver := 0, svn := 0, hash := [] }

theorem wit_StageAndGraft :
    (tStarts (tFwm (tCmd ocStage [1#8]) fwsNone {}) ocStage = true ∧ fwmState (tFwm (tCmd ocStage [1#8]) fwsNone {}) = fwsNone)
    ∧ ((startable (tFwm (tCmd ocStage [1#8]) fwsNone {}) ocStage).any fun c => c.num 8 1 % 2 = 1) = true
    ∧ (tStarts (tFwm (tCmd ocStage []) fwsNone {}) ocStage = true
      ∧ ((startable (tFwm (tCmd ocStage []) fwsNone {}) ocStage).any fun c => c.num 8 1 % 2 = 0) = true)
    ∧ tStarts (tFwm (tCmd ocStage [1#8]) fwsStaged {}) ocStage = true
    ∧ scionCode (tFwm tIdle fwsStaging { staging := some (4097, 1) }) 1 false ≠ 0
    ∧ (tStarts (tFwm (tCmd ocGraft []) fwsStaged {}) ocGraft = true ∧ (tFwm (tCmd ocGraft []) fwsStaged {}).fwm.graft = none)
    ∧ tStarts (tFwm (tCmd ocGraft []) fwsNone {}) ocGraft = true
    ∧ (let f : FwmSt := { graft := some 4097, other := some tOther }
       (tFwm tEdge fwsStaged f).fwm.graft = some 4097 ∧ (tFwm tEdge fwsStaged f).fwm.other = some tOther)
    ∧ (atBoundary tEdge = true ∧ tEdge.cellar.stores = [] ∧ tEdge.rst.parts = [] ∧ tEdge.rst.waking = false) := by decide +kernel

theorem wit_TrialEnds :
    (∀ st ∈ [fwsStaged, fwsTrial], tStarts (tFwm (tCmd ocAbandon []) st {}) ocAbandon = true
      ∧ fwmState (tFwm (tCmd ocAbandon []) st {}) = st)
    ∧ (∀ st ∈ [fwsNone, fwsTrial], tStarts (tFwm (tCmd ocSelect []) st {}) ocSelect = true)
    ∧ (tStarts (tFwm (tCmd ocAbandon []) fwsNone {}) ocAbandon = true ∧ fwmState (tFwm (tCmd ocAbandon []) fwsNone {}) = fwsNone)
    ∧ (verify573 (tFwm (tCmd ocSelect []) fwsNone {}) 0).1 ≠ 0
    ∧ (fwmState (tFwm tIdle fwsTrial { rounds := 2, left := 1 }) = fwsTrial
      ∧ (tFwm tIdle fwsTrial { rounds := 2, left := 1 }).fwm.run.isSome = true
      ∧ (tFwm tIdle fwsTrial { rounds := 2, left := 1 }).fwm.confirming = false
      ∧ (tFwm tIdle fwsTrial { rounds := 2, left := 1 }).fwm.fallDue = false)
    ∧ (fwmState (tFwm tIdle fwsTrial {}) = fwsTrial ∧ (tFwm tIdle fwsTrial {}).fwm.left = 0)
    ∧ (atBoundary (tFwm tEdge fwsTrial { fallDue := true }) = true ∧ (tFwm tEdge fwsTrial { fallDue := true }).fwm.since = [])
    := by decide +kernel

end Sys2Proof.Machine
end

section
/-! PROOF. What numeric status sets and Blight change: the counters and sticky bits of a set (R116 to R119), and the few
registers that a Blight report touches (R364, R365). -/

namespace Sys2Proof.Machine

/-! ## Bits of registers -/

theorem bitN_eq_testBit (v i : Nat) : bitN v i = v.testBit i := by
  rw [bitN, Nat.testBit_eq_decide_div_mod_eq]

theorem regN_raise_self (s : State) (a m : Nat) : regN (raise s a m) a = regN s a ||| m % 2 ^ 32 := by
  simp [regN, reg_raise_self]

theorem regN_of_reg {s t : State} {a : Nat} (h : reg t a = reg s a) : regN t a = regN s a := congrArg _ h

/-! ## Blight reports (R364, R365) -/

/-- The registers that a Blight report touches: the event sequence, and the Mill's status and Blight sources. -/
def blightRegs : List Nat := [Reg.FRM_EVSEQ_LO, Reg.FRM_EVSEQ_LO + 4, Reg.MIL_BSTAT, Reg.MIL_STATUS]

theorem reportBlight_regs (s : State) (src : Nat) :
    RegsBut s (reportBlight s src) [Reg.FRM_EVSEQ_LO, Reg.FRM_EVSEQ_LO + 4] := by
  intro a ha
  simp only [List.mem_cons, List.not_mem_nil, or_false, not_or] at ha
  exact reg_bump64_ne s 1 (Ne.symm ha.1) (Ne.symm ha.2)

theorem syncDry_regs (s : State) : RegsBut s (syncDry s) [Reg.MIL_STATUS] := by
  intro a ha
  have hne : Reg.MIL_STATUS ≠ a := fun h => ha (by simp [h])
  unfold syncDry
  split
  · rfl
  · split
    · exact reg_setFld_ne _ _ _ hne
    · rfl

theorem blightStep_regs (s : State) (start src : Nat) : RegsBut s (blightStep s start src) blightRegs := by
  intro a ha
  simp only [blightRegs, List.mem_cons, List.not_mem_nil, or_false, not_or] at ha
  obtain ⟨hlo, hhi, hbstat, hstatus⟩ := ha
  unfold blightStep syncBstat
  rw [reg_setRegN_ne _ _ (Ne.symm hbstat), syncDry_regs _ a (by simpa using hstatus)]
  exact reportBlight_regs s src a (by simp [hlo, hhi])

theorem raiseBlight_regs (s : State) (src : Nat) : RegsBut s (raiseBlight s src) blightRegs := by
  have hlater : RegsBut s (raiseBlight.later (reportBlight s src) src) blightRegs := by
    intro a ha
    simp only [blightRegs, List.mem_cons, not_or] at ha
    exact reportBlight_regs s src a (by simp [ha.1, ha.2.1])
  unfold raiseBlight
  dsimp only
  split
  · split
    · exact blightStep_regs s _ src
    · exact hlater
  · exact hlater

theorem syncDry_memSame (s : State) : MemSame s (syncDry s) := by
  unfold syncDry
  split
  · exact ⟨rfl, rfl⟩
  · split <;> exact ⟨rfl, rfl⟩

theorem raiseBlight_memSame (s : State) (src : Nat) : MemSame s (raiseBlight s src) := by
  unfold raiseBlight
  dsimp only
  split
  · split
    · exact syncDry_memSame _
    · exact ⟨rfl, rfl⟩
  · exact ⟨rfl, rfl⟩

/-! ## Counters and sticky bits of a set (R116 to R118) -/

/-- Count `n` events of kind `i` in a set: its counter saturates, and its sticky bit is set when there are any. -/
def countKind (s : State) (set i n : Nat) : State :=
  if n = 0 then s else raise (bump s (set + 4 * i) n) (set + 0x10) (2 ^ i)

/-- How many events of kind `i`: overflows, squashed NaNs, flushes, scale NaNs. -/
def Ev.kind (e : Ev) : Nat → Nat
  | 0 => e.ovf
  | 1 => e.nansq
  | 2 => e.flush
  | _ => e.scnan

theorem numEv_eq (s : State) (set : Nat) (e : Ev) : numEv s set e =
    countKind (countKind (countKind (countKind s set 0 e.ovf) set 1 e.nansq) set 2 e.flush) set 3 e.scnan := rfl

theorem countKind_form (s : State) (set i n : Nat) :
    countKind s set i n = { s with regs := (countKind s set i n).regs } := by
  unfold countKind; split <;> rfl

theorem reg_countKind_ne (s : State) {set i n a : Nat} (hc : set + 4 * i ≠ a) (hb : set + 0x10 ≠ a) :
    reg (countKind s set i n) a = reg s a := by
  unfold countKind
  split
  · rfl
  · rw [reg_raise_ne _ _ hb, reg_bump_ne _ _ hc]

theorem regN_countKind (s : State) (set n : Nat) {i j : Nat} (hi : i < 4) (hj : j < 4) :
    regN (countKind s set i n) (set + 4 * j) =
      if i = j then min (regN s (set + 4 * j) + n) 0xFFFFFFFF else regN s (set + 4 * j) := by
  by_cases hij : i = j
  · subst hij
    have hlt := regN_lt s (set + 4 * i)
    rw [if_pos rfl]
    unfold countKind
    split
    · omega
    · rw [regN_of_reg (reg_raise_ne _ _ (by omega)), regN_bump]
  · rw [regN_of_reg (reg_countKind_ne s (by omega) (by omega)), if_neg hij]

theorem sticky_countKind (s : State) (set n : Nat) {i : Nat} (hi : i < 4) (j : Nat) :
    bitN (regN (countKind s set i n) (set + 0x10)) j =
      (bitN (regN s (set + 0x10)) j || (decide (n ≠ 0) && decide (i = j))) := by
  have hpow : 2 ^ i % 2 ^ 32 = 2 ^ i := Nat.mod_eq_of_lt (Nat.pow_lt_pow_right (by omega) (by omega))
  unfold countKind
  split
  · next h => simp [h]
  · next h =>
    rw [regN_raise_self, regN_of_reg (reg_bump_ne _ _ (by omega)), hpow]
    simp [bitN_eq_testBit, Nat.testBit_or, Nat.testBit_two_pow, h]

theorem numEv_form (s : State) (set : Nat) (e : Ev) : numEv s set e = { s with regs := (numEv s set e).regs } := by
  rw [numEv_eq, countKind_form (countKind (countKind (countKind s _ _ _) _ _ _) _ _ _),
    countKind_form (countKind (countKind s _ _ _) _ _ _), countKind_form (countKind s _ _ _), countKind_form s]

/-- Each counter of a set counts the events of its kind and saturates (R117). -/
theorem regN_numEv (s : State) (set : Nat) (e : Ev) {i : Nat} (hi : i < 4) :
    regN (numEv s set e) (set + 4 * i) = min (regN s (set + 4 * i) + e.kind i) 0xFFFFFFFF := by
  rw [numEv_eq, regN_countKind _ _ _ (by omega) hi, regN_countKind _ _ _ (by omega) hi,
    regN_countKind _ _ _ (by omega) hi, regN_countKind _ _ _ (by omega) hi]
  match i, hi with
  | 0, _ | 1, _ | 2, _ | 3, _ => simp [Ev.kind]

/-- The sticky bit of each kind is set by an event of that kind, and no bit is cleared (R118). -/
theorem sticky_numEv (s : State) (set : Nat) (e : Ev) {i : Nat} (hi : i < 4) :
    bitN (regN (numEv s set e) (set + 0x10)) i = (bitN (regN s (set + 0x10)) i || decide (e.kind i ≠ 0)) := by
  rw [numEv_eq, sticky_countKind _ _ _ (by omega), sticky_countKind _ _ _ (by omega),
    sticky_countKind _ _ _ (by omega), sticky_countKind _ _ _ (by omega)]
  match i, hi with
  | 0, _ | 1, _ | 2, _ | 3, _ => simp [Ev.kind]

theorem numEvB_regs (s : State) (set : Nat) (e : Ev) : RegsBut (numEv s set e) (numEvB s set e) blightRegs := by
  intro a ha
  unfold numEvB
  dsimp only
  split
  · exact raiseBlight_regs _ _ a ha
  · rfl

theorem numEvB_memSame (s : State) (set : Nat) (e : Ev) : MemSame s (numEvB s set e) := by
  have hnum : MemSame s (numEv s set e) := by rw [numEv_form]; exact ⟨rfl, rfl⟩
  obtain ⟨hm, he⟩ := raiseBlight_memSame (numEv s set e) srcNansq
  unfold numEvB
  dsimp only
  split
  · exact ⟨hm.trans hnum.1, he.trans hnum.2⟩
  · exact hnum

/-- Without events nothing is counted. -/
theorem numEvB_none (s : State) (set : Nat) : numEvB s set {} = s := rfl

/-! ## Where the sets lie -/

theorem inRun_bounds {a base n k : Nat} (hk : 0 < k) (h : inRun a base n k = true) : base ≤ a ∧ a < base + n * k := by
  simp only [inRun, Bool.and_eq_true, decide_eq_true_eq] at h
  obtain ⟨⟨hle, -⟩, hlt⟩ := h
  have := (Nat.div_lt_iff_lt_mul hk).1 hlt
  omega

/-- No register of a numeric status set is one that a Blight report touches. -/
theorem numSet_not_blightRegs {set k : Nat} (h : isNumSet set = true) (hk : k ≤ 0x10) : set + k ∉ blightRegs := by
  have hrange : (Reg.THR_NUMOVF 0 ≤ set ∧ set < Reg.THR_NUMOVF 0 + 68 * 0x400) ∨
      (Reg.LFT_NUMOVF 0 ≤ set ∧ set < Reg.LFT_NUMOVF 0 + 64 * 0x80) ∨
      (Reg.MIL_NUMOVF 0 ≤ set ∧ set < Reg.MIL_NUMOVF 0 + 8 * 0x20) := by
    rw [isNumSet, Bool.or_eq_true, Bool.or_eq_true] at h
    obtain (h | h) | h := h
    · exact .inl (inRun_bounds (by decide) h)
    · exact .inr (.inl (inRun_bounds (by decide) h))
    · exact .inr (.inr (inRun_bounds (by decide) h))
  simp only [Reg.THR_NUMOVF, Reg.LFT_NUMOVF, Reg.MIL_NUMOVF] at hrange
  simp only [blightRegs, Reg.FRM_EVSEQ_LO, Reg.MIL_BSTAT, Reg.MIL_STATUS, List.mem_cons, List.not_mem_nil, or_false]
  omega

/-! ## NUMCLR (R119) -/

/-- Zero the counters of a set, of those listed, whose bit is written 1. -/
def zeroCounters (s : State) (set v : Nat) (l : List Nat) : State :=
  l.foldl (fun s i => if bitN v i then setRegN s (set + 4 * i) 0 else s) s

/-- The events of the cycle in which NUMCLR is written: one of each kind whose bit is set. -/
def cycleEvents (c : Nat) : Ev where
  ovf := if bitN c 0 then 1 else 0
  nansq := if bitN c 1 then 1 else 0
  flush := if bitN c 2 then 1 else 0
  scnan := if bitN c 3 then 1 else 0

theorem cycleEvents_kind (c : Nat) {i : Nat} (hi : i < 4) : (cycleEvents c).kind i = if bitN c i then 1 else 0 := by
  match i, hi with
  | 0, _ | 1, _ | 2, _ | 3, _ => rfl

theorem cycleEvents_zero : cycleEvents 0 = {} := by simp [cycleEvents, bitN]

theorem numClear_eq (s : State) (set v c : Nat) :
    numClear s set v c = numEvB (zeroCounters s set v [0, 1, 2, 3]) set (cycleEvents c) := rfl

theorem zeroCounters_form (s : State) (set v : Nat) (l : List Nat) :
    zeroCounters s set v l = { s with regs := (zeroCounters s set v l).regs } := by
  induction l generalizing s with
  | nil => rfl
  | cons i l ih =>
    show zeroCounters (if bitN v i then setRegN s (set + 4 * i) 0 else s) set v l = _
    rw [ih]
    by_cases hb : bitN v i = true <;> simp [zeroCounters, hb]

theorem regN_zeroCounters (s : State) (set v : Nat) (l : List Nat) (j : Nat) :
    regN (zeroCounters s set v l) (set + 4 * j) = if j ∈ l ∧ bitN v j = true then 0 else regN s (set + 4 * j) := by
  induction l generalizing s with
  | nil => simp [zeroCounters]
  | cons i l ih =>
    show regN (zeroCounters (if bitN v i then setRegN s (set + 4 * i) 0 else s) set v l) _ = _
    rw [ih]
    by_cases hb : bitN v i = true
    · by_cases hij : i = j
      · subst hij; simp [hb, regN_setRegN]
      · simp [hb, regN_setRegN, hij, Ne.symm hij]
    · by_cases hij : i = j
      · subst hij; simp [hb]
      · simp [hb, Ne.symm hij]

theorem reg_zeroCounters_ne (s : State) (set v : Nat) (l : List Nat) {a : Nat} (ha : ∀ i ∈ l, set + 4 * i ≠ a) :
    reg (zeroCounters s set v l) a = reg s a := by
  induction l generalizing s with
  | nil => rfl
  | cons i l ih =>
    show reg (zeroCounters (if bitN v i then setRegN s (set + 4 * i) 0 else s) set v l) a = _
    rw [ih _ fun k hk => ha k (List.mem_cons_of_mem _ hk)]
    split
    · exact reg_setRegN_ne _ _ (ha i List.mem_cons_self)
    · rfl

/-- NUMCLR clears first and counts the events of the same cycle after. -/
theorem regN_numClear {s : State} {set : Nat} (v c : Nat) (h : isNumSet set = true) {i : Nat} (hi : i < 4) :
    regN (numClear s set v c) (set + 4 * i) =
      min ((if bitN v i then 0 else regN s (set + 4 * i)) + (if bitN c i then 1 else 0)) 0xFFFFFFFF := by
  rw [numClear_eq, regN_of_reg (numEvB_regs _ _ _ _ (numSet_not_blightRegs h (by omega))), regN_numEv _ _ _ hi,
    regN_zeroCounters, cycleEvents_kind c hi]
  have hmem : i ∈ [0, 1, 2, 3] := by simp only [List.mem_cons, List.not_mem_nil, or_false]; omega
  simp only [hmem, true_and]

theorem sticky_numClear {s : State} {set : Nat} (v c : Nat) (h : isNumSet set = true) {i : Nat} (hi : i < 4)
    (hc : bitN c i = true) : bitN (regN (numClear s set v c) (set + 0x10)) i = true := by
  rw [numClear_eq, regN_of_reg (numEvB_regs _ _ _ _ (numSet_not_blightRegs h (by omega))), sticky_numEv _ _ _ hi,
    cycleEvents_kind c hi]
  simp [hc]

theorem numClear_memSame (s : State) (set v c : Nat) : MemSame s (numClear s set v c) := by
  have h := numEvB_memSame (zeroCounters s set v [0, 1, 2, 3]) set (cycleEvents c)
  rw [zeroCounters_form] at h
  rw [numClear_eq, zeroCounters_form]
  exact h

/-- With no event in its cycle NUMCLR only zeroes counters. -/
theorem numClear_zero (s : State) (set v : Nat) : numClear s set v 0 = zeroCounters s set v [0, 1, 2, 3] := by
  rw [numClear_eq, cycleEvents_zero, numEvB_none]

theorem zeroCounters_regs (s : State) (set v : Nat) :
    RegsBut s (zeroCounters s set v [0, 1, 2, 3]) [set, set + 4, set + 8, set + 12] := by
  intro a ha
  simp only [List.mem_cons, List.not_mem_nil, or_false, not_or] at ha
  refine reg_zeroCounters_ne s set v _ fun i hi => ?_
  simp only [List.mem_cons, List.not_mem_nil, or_false] at hi
  omega

end Sys2Proof.Machine
end

section
/-! PROOF. What a host access to BAR0 does (R14 to R17, R602, R603, R653): the access as a read or write of one register,
and the refusals. -/

namespace Sys2Proof.Machine

/-! ## Refused accesses (R602) -/

theorem badAccess_regs (s : State) : RegsBut s (badAccess s) [Reg.HST_INTSTAT] := by
  intro a ha
  exact reg_raise_ne _ _ fun h => ha (by simp [h])

theorem fld_badAccess (s : State) : fld (badAccess s) Reg.HST_INTSTAT Fld.HST_INTSTAT_BADACCESS = 1 :=
  fld_raise s _ 0 (by decide)

theorem badAccess_form (s : State) : badAccess s = { s with regs := (badAccess s).regs } := rfl

/-! ## The effect of a host access -/

theorem runs_registerWrite {s t : State} {bar : Bar} {off size : Nat} {d : Dword} {P : State → Prop}
    (ha : alive s = true) (ht : hostWriteAt s bar off size d.toNat = t) (hp : P (ended s t)) :
    Runs (.registerWrite bar off size d) s P :=
  runs_finish (congrArg (finish s) ht) ha hp

theorem runs_loReadLatch {s t : State} {bar : Bar} {off size : Nat} {P : State → Prop}
    (ha : alive s = true) (ht : hostReadAt s bar off size = t) (hp : P (ended s t)) :
    Runs (.loReadLatch bar off size) s P :=
  runs_finish (congrArg (finish s) ht) ha hp

section
variable {s : State} {off a : Nat}

theorem hostWriteAt_ctl (hr : hostReach s = true) (ho : bar0Of s off = .ctl a) (size v : Nat) :
    hostWriteAt s .bar0 off size v = ctlWrite s a size v := by simp [hostWriteAt, bar0Write, hr, ho]

theorem hostWriteAt_none (hr : hostReach s = true) (ho : bar0Of s off = .none) (size v : Nat) :
    hostWriteAt s .bar0 off size v = badAccess s := by simp [hostWriteAt, bar0Write, hr, ho]

theorem hostReadAt_ctl (hr : hostReach s = true) (ho : bar0Of s off = .ctl a) (size : Nat) :
    hostReadAt s .bar0 off size = { (ctlRead s a size).1 with rdata := BitVec.ofNat 64 (ctlRead s a size).2 } := by
  simp [hostReadAt, bar0Read, hr, ho]

theorem hostReadAt_none (hr : hostReach s = true) (ho : bar0Of s off = .none) (size : Nat) :
    hostReadAt s .bar0 off size = { badAccess s with rdata := 0 } := by simp [hostReadAt, bar0Read, hr, ho]

/-! ## One register of the control space -/

/-- An access of 8 bytes needs a register: the _LO of its pair. -/
theorem size_eq_four {size : Nat} (hn : regRow a = none) (hs : regSizeOk a size = true) : size = 4 := by
  simp only [regSizeOk, isLo, hn, Option.any_none, Bool.and_false, Bool.or_false, Bool.and_eq_true,
    decide_eq_true_eq] at hs
  exact hs.2

/-- R602: a reserved offset, or a size or alignment that no register takes, is refused. -/
theorem ctlWrite_bad {size : Nat} (hp : inPage a = false) (h : regRow a = none ∨ regSizeOk a size = false) (v : Nat) :
    ctlWrite s a size v = badAccess s := by
  by_cases hs : regSizeOk a size = true
  · have hn : regRow a = none := h.resolve_right (by simp [hs])
    obtain rfl := size_eq_four hn hs
    simp [ctlWrite, hp, hs, writeReg, hn]
  · simp [ctlWrite, hp, hs]

theorem ctlRead_bad {size : Nat} (hp : inPage a = false) (h : regRow a = none ∨ regSizeOk a size = false) :
    ctlRead s a size = (badAccess s, 0) := by
  rcases h with h | h <;> simp [ctlRead, hp, h]

/-- A 4-byte write that the control space takes is a write of the register. -/
theorem ctlWrite_word (hp : inPage a = false) (h4 : a % 4 = 0) (v : Nat) :
    ctlWrite s a 4 v = writeReg s a (v % 2 ^ 32) := by simp [ctlWrite, hp, regSizeOk, h4]

/-- A 4-byte read of a register that answers is a read of the register. -/
theorem ctlRead_word (hp : inPage a = false) (h4 : a % 4 = 0) (hr : (regRow a).isSome = true)
    (hd : deadBlock s a = false) : ctlRead s a 4 = readReg s a := by
  obtain ⟨r, hr⟩ := Option.isSome_iff_exists.1 hr
  simp [ctlRead, hp, regSizeOk, h4, hr, hd]

/-! ## The latch of a _HI register (R15) -/

theorem readReg_lo (h : isLo a = true) : readReg s a =
    ({ s with latch := aput s.latch (a + 4) (BitVec.ofNat 32 (shown s (a + 4))) }, shown s a) := by
  simp [readReg, h]

theorem readReg_latched {v : Word} (h : isLo a = false) (hf : kfind s.latch a = some v) :
    readReg s a = ({ s with latch := adel s.latch a }, v.toNat) := by simp [readReg, h, hf]

theorem readReg_live (h : isLo a = false) (hf : kfind s.latch a = none) : readReg s a = (s, shown s a) := by
  simp [readReg, h, hf]

/-! ## A register without an action of its own (R16, R653) -/

/-- A write to a register that answers, takes writes and has no action of its own is a plain write. -/
theorem writeReg_plain {r : RegRow} (hr : regRow a = some r) (h : Statements.plainReg s a = true) (v : Nat) :
    writeReg s a v = plainWrite s r a v := by
  simp only [Statements.plainReg, Bool.and_eq_true, Bool.not_eq_true', Option.isNone_iff_eq_none] at h
  obtain ⟨⟨⟨⟨⟨⟨hdead, hign⟩, hwin⟩, hflip⟩, hown⟩, hnum⟩, hcnt⟩ := h
  simp only [List.contains_eq_mem, List.mem_cons, List.not_mem_nil, or_false, decide_eq_false_iff_not, not_or] at hown
  obtain ⟨hctrl, hfrm, hslip, hnext, hpart⟩ := hown
  have htake : takeWrite s r a v = plainWrite s r a v := by
    unfold takeWrite
    split
    · next b hw => simp [hw] at hwin
    · next b hw => simp [hw] at hwin
    · next u hu _ _ => simp [hflip] at hu
    · simp only [hctrl, hfrm, hslip, hnext, hpart, hnum, if_false]
      simpa using fun h1 h2 => by simp [h1, h2] at hcnt
  simp [writeReg, hr, hdead, hign, htake]

theorem plainWrite_form (r : RegRow) (v : Nat) :
    plainWrite s r a v = { s with regs := (plainWrite s r a v).regs } := rfl

theorem plainWrite_regs (r : RegRow) (v : Nat) : RegsBut s (plainWrite s r a v) [a] := by
  intro b hb
  exact reg_setReg_ne _ _ fun h => hb (by simp [h])

theorem reg_plainWrite (r : RegRow) (v : Nat) : reg (plainWrite s r a v) a =
    ((reg s a &&& ~~~(BitVec.ofNat 32 r.rw)) ||| (BitVec.ofNat 32 (acceptFields s a v) &&& BitVec.ofNat 32 r.rw))
      &&& ~~~(BitVec.ofNat 32 v &&& BitVec.ofNat 32 r.w1c) := reg_setReg_self _ _ _

/-! ## RW1C bits (R17) -/

/-- R17: of the RW1C bits those written 1 are cleared, and those that the device sets in the same cycle are set. -/
theorem rw1cClear_eq {r : RegRow} (hr : regRow a = some r) (hd : deadBlock s a = false) (v c : Word) :
    rw1cClear s a v c =
      setReg s a ((reg s a &&& ~~~(v &&& BitVec.ofNat 32 r.w1c)) ||| (c &&& BitVec.ofNat 32 r.w1c)) := by
  simp [rw1cClear, hr, hd]

theorem clear_then_set_getLsbD (w v c m : Word) {i : Nat} (hi : i < 32) :
    ((w &&& ~~~(v &&& m)) ||| (c &&& m)).getLsbD i =
      if m.getLsbD i && c.getLsbD i then true else if m.getLsbD i && v.getLsbD i then false else w.getLsbD i := by
  simp only [BitVec.getLsbD_or, BitVec.getLsbD_and, BitVec.getLsbD_not, hi, decide_true, Bool.true_and]
  cases m.getLsbD i <;> cases c.getLsbD i <;> cases v.getLsbD i <;> simp

end

end Sys2Proof.Machine
end

section
/-! PROOF. The statements about host accesses settled. -/

namespace Sys2Proof.Settled

open Sys2Proof.Machine

/-- Settles O17, bit by bit: the bits written 1 are cleared before those that the device sets are set. -/
theorem rw1cClear : Obligations.Rw1cClear := by
  unfold Obligations.Rw1cClear
  intro s a r d c ha hr hrow hd
  have hexec : exec (.rw1cClear a d c) s = finish s (if hostReach s then Machine.rw1cClear s a d c else s) := rfl
  rw [if_pos hr, rw1cClear_eq hrow hd] at hexec
  refine runs_finish hexec ha ⟨onlyRegs_ended (setReg_form s a _) fun b hb => ?_, fun i hi => ?_⟩
  · exact reg_setReg_ne _ _ fun h => hb (by simp [h])
  · rw [ended_reg, reg_setReg_self, clear_then_set_getLsbD _ _ _ _ hi]

/-- Settles O18, by what a read does in the three cases: a _LO, a latched _HI, a register without latch. -/
theorem loHiLatch : Obligations.LoHiLatch := by
  unfold Obligations.LoHiLatch
  intro s off a ha hr ho hp h4 hrow hd
  have hread := hostReadAt_ctl hr ho 4
  rw [ctlRead_word hp h4 hrow hd] at hread
  refine ⟨fun hlo => ?_, fun v hlo hf => ?_, fun hlo hf => ?_⟩
  · rw [readReg_lo hlo] at hread
    exact runs_loReadLatch ha hread ⟨rfl, (kfind_kins _ _ _ _).trans (if_pos rfl), rfl⟩
  · rw [readReg_latched hlo hf] at hread
    exact runs_loReadLatch ha hread ⟨rfl, (kfind_kdel _ _ _).trans (if_pos rfl), rfl⟩
  · rw [readReg_live hlo hf] at hread
    exact runs_loReadLatch ha hread ⟨rfl, rfl, rfl⟩

theorem registerWrite : Statements.RegisterWrite := by
  unfold Statements.RegisterWrite
  intro s off a r d ha hr ho hp h4 hrow hplain
  have hwrite := hostWriteAt_ctl hr ho 4 d.toNat
  rw [ctlWrite_word hp h4, writeReg_plain hrow hplain] at hwrite
  exact runs_registerWrite ha hwrite
    ⟨onlyRegs_ended (plainWrite_form r _) (plainWrite_regs r _), reg_plainWrite r _⟩

theorem badAccess_refused : Statements.BadAccess := by
  unfold Statements.BadAccess
  intro s off size d ha hr h
  have hread : hostReadAt s .bar0 off size = { badAccess s with rdata := 0 } := by
    obtain ho | ⟨a, ho, hp, hbad⟩ := h
    · exact hostReadAt_none hr ho size
    · rw [hostReadAt_ctl hr ho, ctlRead_bad hp hbad]; rfl
  have hwrite : hostWriteAt s .bar0 off size d.toNat = badAccess s := by
    obtain ho | ⟨a, ho, hp, hbad⟩ := h
    · exact hostWriteAt_none hr ho size _
    · rw [hostWriteAt_ctl hr ho, ctlWrite_bad hp hbad]
  exact ⟨runs_loReadLatch ha hread ⟨rfl, fld_badAccess s, badAccess_regs s, rfl, rfl⟩,
    runs_registerWrite ha hwrite ⟨fld_badAccess s, onlyRegs_ended (badAccess_form s) (badAccess_regs s)⟩⟩

theorem numClear_counts : Statements.NumClear := by
  unfold Statements.NumClear
  intro s set d c ha hr hset hd
  have hexec : exec (.numclrWrite set d c) s = finish s (if !hostReach s || !isNumSet set then s
      else if deadBlock s set then deadReg s else numClear s set d.toNat c.toNat) := rfl
  simp only [hr, hset, hd, Bool.not_true, Bool.or_self, Bool.false_eq_true, if_false] at hexec
  refine runs_finish hexec ha ⟨numClear_memSame s set _ _, fun i hi => regN_numClear _ _ hset hi,
    fun i hi hc => sticky_numClear _ _ hset hi hc, ?_⟩
  rintro rfl
  have hzero : (0 : Word).toNat = 0 := rfl
  rw [hzero, numClear_zero]
  exact onlyRegs_ended (zeroCounters_form s set _ _) (zeroCounters_regs s set _)

/-- Settles O20, by its three parts: plain writes, refused accesses and NUMCLR. -/
theorem registerAccess : Obligations.RegisterAccess := ⟨registerWrite, badAccess_refused, numClear_counts⟩

end Sys2Proof.Settled
end

section
/-! PROOF. A device without power or with a trip latched (R514, R639, R640): how each shared form of a command ends there. -/

namespace Sys2Proof.Machine

section
variable {s : State} (hs : alive s = false)
include hs

theorem finishTick_dead (t : State) : finishTick s t = finishEdge s s := by
  simp [finishTick, hs]

theorem control_dead (n kind : Nat) (act : State → Nat → Item → State) :
    control s n kind act = .next (ended s s) := by
  simp [control, hs, finish_dead hs]

theorem issue_dead (n kind t : Nat) (pick : List Byte → Bool) (run : State → Nat → Nat → List Byte → State) :
    issue s n kind t pick run = .next (ended s s) := by
  simp [issue, hs, finish_dead hs]

theorem sicklePass_dead (op n t : Nat) (run : State → Nat → Nat → List Byte → State) :
    sicklePass op run n t s = .next (ended s s) := by
  unfold sicklePass
  split
  · exact finish_dead hs
  · exact issue_dead hs ..

/-- Every command but those of supplies and pins ends as one without effect: the commands of a tick with the frame
boundary as it was, the others past it (R44). -/
theorem exec_dead {c : Instr} (hc : c ∉ Statements.powerCommands) :
    exec c s = .next (ended s s) ∨ exec c s = finishEdge s s := by
  cases c
  case por | mainpg | mainPgFall | powerDown | thermalTrip | perstAssert | perstDeassert =>
    exact absurd (by simp [Statements.powerCommands]) hc
  case frameTick | mapoutStart | bankSpareStart | loftLayerReset | layerResetDone | graftHandover | fallback | jobStart =>
    exact .inr (finishTick_dead hs _)
  case endItem | branch | setslot | addslot | semwait | signal | barrier | counterAdd | counterRead | setstep =>
    exact .inl (control_dead hs ..)
  case mma | l1 | l2sq | maxplus | minplus | cmpcnt | hamming | switchPass | chain | copyCart | atomicCart | reduceCart |
      objectCart =>
    exact .inl (issue_dead hs ..)
  case dotPass | stagePass => exact .inl (sicklePass_dead hs ..)
  all_goals exact .inl (finish_dead hs)

end

end Sys2Proof.Machine

namespace Sys2Proof.Settled

open Sys2Proof.Machine

/-- Settles O6, by how each shared form of a command ends on a dead device. -/
theorem deadDeviceIgnores : Obligations.DeadDeviceIgnores := by
  unfold Obligations.DeadDeviceIgnores
  intro c s hs hc
  obtain h | h := exec_dead hs hc <;> exact ⟨_, h, rfl⟩

end Sys2Proof.Settled
end

section
/-! PROOF. The check offset and the settings of the frame (R50, R51, R57, R72, R76). -/

namespace Sys2Proof.Machine

/-! ## What learning of a flag changes (R449, R450) -/

/-- From `s` to `t` at most packets have been queued and noted as sent: the fabric alone differs, and it knows the same
flags. -/
structure SameKnown (s t : State) : Prop where
  form : t = { s with fab := t.fab }
  known : t.fab.flags.known = s.fab.flags.known
  downs : t.fab.flags.downs = s.fab.flags.downs

theorem SameKnown.refl (s : State) : SameKnown s s := ⟨rfl, rfl, rfl⟩

theorem SameKnown.trans {s t u : State} (h : SameKnown s t) (h' : SameKnown t u) : SameKnown s u :=
  ⟨by rw [h'.form, h.form], h'.known.trans h.known, h'.downs.trans h.downs⟩

theorem SameKnown.foldl {α : Type} {f : State → α → State} (hf : ∀ s a, SameKnown s (f s a)) (l : List α)
    (s : State) : SameKnown s (l.foldl f s) :=
  List.foldlRecOn l f (.refl s) fun _ h _ _ => h.trans (hf _ _)

theorem sendFlag_sameKnown (kind key : Nat) (down : Bool) (s : State) (p : Nat) :
    SameKnown s (sendFlag kind key down s p) := by
  unfold sendFlag
  split <;> exact ⟨rfl, rfl, rfl⟩

theorem pumpFlags_sameKnown (s : State) : SameKnown s (pumpFlags s) := by
  unfold pumpFlags
  split
  · exact .refl s
  · exact (SameKnown.foldl (fun _ _ => sendFlag_sameKnown ..) _ _).trans
      (SameKnown.foldl (fun _ _ => .foldl (fun _ _ => sendFlag_sameKnown ..) _ _) _ _)

theorem SameKnown.knows {s t : State} (h : SameKnown s t) (i : Nat × Nat) : knows t i = knows s i := by
  simp [Machine.knows, h.known, h.downs]

/-- What is learnt is known, and nothing outside the fabric changes. -/
theorem learnUp_form (s : State) (i : Nat × Nat) : learnUp s i = { s with fab := (learnUp s i).fab } := by
  unfold learnUp
  split <;> exact (pumpFlags_sameKnown _).form

theorem knows_learnUp (s : State) (i : Nat × Nat) : knows (learnUp s i) i = true := by
  unfold learnUp
  rw [(pumpFlags_sameKnown _).knows]
  split
  · assumption
  · simp [knows, mapFlags]

theorem checkOffset_late {s : State} (ht : ticking s = true) (hr : retired s = false) :
    checkOffset s = learnUp (mapFrm s fun f => { f with slipFlag := true, slipOwn := true }) (fkSlip, pindex s) := by
  simp [checkOffset, ht, hr]

theorem checkOffset_retired {s : State} (hr : retired s = true) : checkOffset s = s := by
  simp [checkOffset, hr]

/-! ## The settings of the frame -/

theorem sliprunLimit_reached {s : State} (hf : slipFrame s = true) (hl : fld s Reg.FRM_CTRL Fld.FRM_CTRL_SLIPLIM ≠ 0)
    (hr : regN s Reg.FRM_SLIPRUN = fld s Reg.FRM_CTRL Fld.FRM_CTRL_SLIPLIM) :
    sliprunLimit s = raise s Reg.FRM_INTSTAT Fld.FRM_INTSTAT_SLIPRUN.bit := by
  simp [sliprunLimit, hf, hl, hr]

theorem syncFrame_regs (s : State) : RegsBut s (syncFrame s) [Reg.FRM_SLOTS, Reg.FLR_NTEL] := by
  intro a ha
  simp only [List.mem_cons, List.not_mem_nil, or_false, not_or] at ha
  unfold syncFrame
  dsimp only
  rw [reg_setFld_ne _ _ _ (Ne.symm ha.2), reg_setFld_ne _ _ _ (Ne.symm ha.1), reg_setFld_ne _ _ _ (Ne.symm ha.1),
    reg_setFld_ne _ _ _ (Ne.symm ha.1)]

theorem setFld_memSame (s : State) (a : Nat) (f : Fld) (v : Nat) : MemSame s (setFld s a f v) := ⟨rfl, rfl⟩

theorem MemSame.trans {s t u : State} (h : MemSame s t) (h' : MemSame t u) : MemSame s u :=
  ⟨h'.1.trans h.1, h'.2.trans h.2⟩

theorem syncFrame_memSame (s : State) : MemSame s (syncFrame s) :=
  (((setFld_memSame ..).trans (setFld_memSame ..)).trans (setFld_memSame ..)).trans (setFld_memSame ..)

/-- The state in which the accepted PERIOD and WIN govern, the slot arithmetic not yet redone. -/
def governed (s : State) : State :=
  { s with frm := { s.frm with period := fld s Reg.FRM_CTRL Fld.FRM_CTRL_PERIOD
                               win := fld s Reg.FRM_SLIPWIN Fld.FRM_SLIPWIN_WIN } }

theorem governFrame_eq (s : State) : governFrame s = syncFrame (governed s) := rfl
theorem governed_reg (s : State) (a : Nat) : reg (governed s) a = reg s a := rfl

theorem governFrame_regs (s : State) : RegsBut s (governFrame s) [Reg.FRM_SLOTS, Reg.FLR_NTEL] := by
  intro a ha
  rw [governFrame_eq, syncFrame_regs _ a ha, governed_reg]

theorem governFrame_memSame (s : State) : MemSame s (governFrame s) :=
  MemSame.trans (t := governed s) ⟨rfl, rfl⟩ (governFrame_eq s ▸ syncFrame_memSame (governed s))

/-- While no tick runs an accepted setting governs at once (R72, R76). -/
def governIdle (s : State) : State := if ticking s then s else governFrame s

theorem governIdle_regs (s : State) : RegsBut s (governIdle s) [Reg.FRM_SLOTS, Reg.FLR_NTEL] := by
  unfold governIdle
  split
  · exact fun _ _ => rfl
  · exact governFrame_regs s

theorem governIdle_memSame (s : State) : MemSame s (governIdle s) := by
  unfold governIdle
  split
  · exact ⟨rfl, rfl⟩
  · exact governFrame_memSame s

theorem governIdle_frm {s : State} (h : ticking s = true) : (governIdle s).frm = s.frm := by
  simp [governIdle, h]

theorem ticking_setFld {s : State} {a : Nat} (h : a ≠ Reg.FRM_STATUS) (f : Fld) (v : Nat) :
    ticking (setFld s a f v) = ticking s := by
  rw [ticking, fld_of_reg (reg_setFld_ne _ _ _ h), ticking]

theorem joined_setFld {s : State} {a : Nat} (h : a ≠ Reg.FRM_STATUS) (f : Fld) (v : Nat) :
    joined (setFld s a f v) = joined s := by
  rw [joined, fld_of_reg (reg_setFld_ne _ _ _ h), joined]

/-- A write of FRM_CTRL takes PERIOD (R51, R72). -/
def periodTaken (s : State) (v : Nat) : Bool :=
  !joined s && periodOk (bitsN v 8 0) && winOk (bitsN v 8 0) (fld s Reg.FRM_SLIPWIN Fld.FRM_SLIPWIN_WIN)

theorem frmCtrlWrite_eq (s : State) (v : Nat) :
    frmCtrlWrite s v =
      let u := setFld s Reg.FRM_CTRL Fld.FRM_CTRL_SLIPLIM (bitsN v 23 16)
      if periodTaken s v then governIdle (setFld u Reg.FRM_CTRL Fld.FRM_CTRL_PERIOD (bitsN v 8 0)) else u := by
  have hwin : fld (setFld s Reg.FRM_CTRL Fld.FRM_CTRL_SLIPLIM (bitsN v 23 16)) Reg.FRM_SLIPWIN Fld.FRM_SLIPWIN_WIN
      = fld s Reg.FRM_SLIPWIN Fld.FRM_SLIPWIN_WIN := fld_of_reg (reg_setFld_ne _ _ _ (by decide)) _
  have hcond : (joined s || !periodOk (bitsN v 8 0)
      || !winOk (bitsN v 8 0) (fld s Reg.FRM_SLIPWIN Fld.FRM_SLIPWIN_WIN)) = !periodTaken s v := by
    simp [periodTaken]
  simp only [frmCtrlWrite, joined_setFld (show Reg.FRM_CTRL ≠ Reg.FRM_STATUS by decide), hwin, hcond]
  by_cases h : periodTaken s v = true <;> simp [h, governIdle]

theorem frmCtrlWrite_fields (s : State) (v : Nat) :
    fld (frmCtrlWrite s v) Reg.FRM_CTRL Fld.FRM_CTRL_SLIPLIM = bitsN v 23 16
      ∧ fld (frmCtrlWrite s v) Reg.FRM_CTRL Fld.FRM_CTRL_PERIOD =
          if periodTaken s v then bitsN v 8 0 else fld s Reg.FRM_CTRL Fld.FRM_CTRL_PERIOD := by
  have hlim : bitsN v 23 16 % 2 ^ 8 = bitsN v 23 16 := Nat.mod_eq_of_lt (bitsN_lt _ _ _)
  have hper : bitsN v 8 0 % 2 ^ 9 = bitsN v 8 0 := Nat.mod_eq_of_lt (bitsN_lt _ _ _)
  have hkeep (u : State) : reg (governIdle u) Reg.FRM_CTRL = reg u Reg.FRM_CTRL := governIdle_regs u _ (by decide)
  rw [frmCtrlWrite_eq]
  by_cases h : periodTaken s v = true
  · simp only [h, if_true, fld_of_reg (hkeep _)]
    rw [fld_setFld_ne _ _ _ _ _ (by decide) (by decide) (by decide) (by decide), fld_setFld _ _ _ _ (by decide) (by decide),
      fld_setFld _ _ _ _ (by decide) (by decide)]
    exact ⟨hlim, hper⟩
  · simp only [h, Bool.false_eq_true, if_false]
    rw [fld_setFld _ _ _ _ (by decide) (by decide)]
    exact ⟨hlim, fld_setFld_ne _ _ _ _ _ (by decide) (by decide) (by decide) (by decide)⟩

theorem frmCtrlWrite_regs (s : State) (v : Nat) :
    RegsBut s (frmCtrlWrite s v) [Reg.FRM_CTRL, Reg.FRM_SLOTS, Reg.FLR_NTEL] := by
  intro a ha
  rw [List.mem_cons, not_or] at ha
  have hne : Reg.FRM_CTRL ≠ a := Ne.symm ha.1
  rw [frmCtrlWrite_eq]
  dsimp only
  split
  · rw [governIdle_regs _ a ha.2, reg_setFld_ne _ _ _ hne, reg_setFld_ne _ _ _ hne]
  · exact reg_setFld_ne _ _ _ hne

theorem frmCtrlWrite_memSame (s : State) (v : Nat) : MemSame s (frmCtrlWrite s v) := by
  rw [frmCtrlWrite_eq]
  dsimp only
  split
  · exact ((setFld_memSame ..).trans (setFld_memSame ..)).trans (governIdle_memSame _)
  · exact setFld_memSame ..

theorem frmCtrlWrite_frm {s : State} (v : Nat) (h : ticking s = true) : (frmCtrlWrite s v).frm = s.frm := by
  have hne : Reg.FRM_CTRL ≠ Reg.FRM_STATUS := by decide
  rw [frmCtrlWrite_eq]
  dsimp only
  split
  · rw [governIdle_frm (by rw [ticking_setFld hne, ticking_setFld hne, h]), setFld_frm, setFld_frm]
  · exact setFld_frm ..

/-- A write of FRM_SLIPWIN takes WIN (R51, R76). -/
def winTaken (s : State) (v : Nat) : Bool :=
  !joined s && winOk (fld s Reg.FRM_CTRL Fld.FRM_CTRL_PERIOD) (bitsN v 7 0)

theorem frmSlipwinWrite_eq (s : State) (v : Nat) :
    frmSlipwinWrite s v =
      if winTaken s v then governIdle (setFld s Reg.FRM_SLIPWIN Fld.FRM_SLIPWIN_WIN (bitsN v 7 0)) else s := by
  have hcond : (joined s || !winOk (fld s Reg.FRM_CTRL Fld.FRM_CTRL_PERIOD) (bitsN v 7 0)) = !winTaken s v := by
    simp [winTaken]
  simp only [frmSlipwinWrite, hcond]
  by_cases h : winTaken s v = true <;> simp [h, governIdle]

theorem frmSlipwinWrite_win (s : State) (v : Nat) :
    fld (frmSlipwinWrite s v) Reg.FRM_SLIPWIN Fld.FRM_SLIPWIN_WIN =
      if winTaken s v then bitsN v 7 0 else fld s Reg.FRM_SLIPWIN Fld.FRM_SLIPWIN_WIN := by
  rw [frmSlipwinWrite_eq]
  split
  · rw [fld_of_reg (governIdle_regs _ _ (by decide)), fld_setFld _ _ _ _ (by decide) (by decide)]
    exact Nat.mod_eq_of_lt (bitsN_lt _ _ _)
  · rfl

theorem frmSlipwinWrite_regs (s : State) (v : Nat) :
    RegsBut s (frmSlipwinWrite s v) [Reg.FRM_SLIPWIN, Reg.FRM_SLOTS, Reg.FLR_NTEL] := by
  intro a ha
  rw [List.mem_cons, not_or] at ha
  rw [frmSlipwinWrite_eq]
  split
  · rw [governIdle_regs _ a ha.2, reg_setFld_ne _ _ _ (Ne.symm ha.1)]
  · rfl

theorem frmSlipwinWrite_memSame (s : State) (v : Nat) : MemSame s (frmSlipwinWrite s v) := by
  rw [frmSlipwinWrite_eq]
  split
  · exact (setFld_memSame ..).trans (governIdle_memSame _)
  · exact ⟨rfl, rfl⟩

theorem frmSlipwinWrite_frm {s : State} (v : Nat) (h : ticking s = true) : (frmSlipwinWrite s v).frm = s.frm := by
  rw [frmSlipwinWrite_eq]
  split
  · rw [governIdle_frm (by rw [ticking_setFld (by decide), h]), setFld_frm]
  · rfl

end Sys2Proof.Machine

namespace Sys2Proof.Settled

open Sys2Proof.Machine

theorem checkOffset_raisesSlip : Statements.CheckOffset := by
  unfold Statements.CheckOffset
  intro s ha ht
  refine ⟨fun hr => ?_, fun hr => ?_⟩
  · have hexec : exec .checkOffset s = finish s (checkOffset s) := rfl
    rw [checkOffset_late ht hr, learnUp_form] at hexec
    exact runs_finish hexec ha ⟨rfl, rfl, ⟨rfl, rfl⟩, rfl, knows_learnUp _ _⟩
  · have hexec : exec .checkOffset s = finish s (checkOffset s) := rfl
    rw [checkOffset_retired hr] at hexec
    exact runs_finish hexec ha rfl

theorem sliprunLimit_raises {s : State} (ha : alive s = true) (hf : slipFrame s = true)
    (hl : fld s Reg.FRM_CTRL Fld.FRM_CTRL_SLIPLIM ≠ 0)
    (hr : regN s Reg.FRM_SLIPRUN = fld s Reg.FRM_CTRL Fld.FRM_CTRL_SLIPLIM) :
    Runs .sliprunLimit s fun t =>
      OnlyRegs s t [Reg.FRM_INTSTAT] ∧ fld t Reg.FRM_INTSTAT Fld.FRM_INTSTAT_SLIPRUN = 1 := by
  have hexec : exec .sliprunLimit s = finish s (sliprunLimit s) := rfl
  rw [sliprunLimit_reached hf hl hr] at hexec
  refine runs_finish hexec ha ⟨onlyRegs_ended (raise_form s _ _) fun a hna => ?_, fld_raise s _ 1 (by decide)⟩
  exact reg_raise_ne _ _ fun h => hna (by simp [h])

theorem frameSettings : Statements.FrameSettings := by
  unfold Statements.FrameSettings
  refine ⟨fun s ha hf hl hr => sliprunLimit_raises ha hf hl hr, fun s d ha hh hd => ?_, fun s d ha hh hd => ?_⟩
  · have hexec : exec (.frmCtrlWrite d) s =
        finish s (if hostReach s && !deadBlock s Reg.FRM_CTRL then frmCtrlWrite s d.toNat else s) := rfl
    rw [hh, hd] at hexec
    obtain ⟨hlim, hper⟩ := frmCtrlWrite_fields s d.toNat
    exact runs_finish hexec ha ⟨hlim, hper, frmCtrlWrite_frm _, frmCtrlWrite_regs s _, frmCtrlWrite_memSame s _⟩
  · have hexec : exec (.frmSlipwinWrite d) s =
        finish s (if hostReach s && !deadBlock s Reg.FRM_SLIPWIN then frmSlipwinWrite s d.toNat else s) := rfl
    rw [hh, hd] at hexec
    exact runs_finish hexec ha
      ⟨frmSlipwinWrite_win s _, frmSlipwinWrite_frm _, frmSlipwinWrite_regs s _, frmSlipwinWrite_memSame s _⟩

/-- Settles O16, by its two parts: the check offset, and the settings of the frame. -/
theorem frameChecks : Obligations.FrameChecks := ⟨checkOffset_raisesSlip, frameSettings⟩

end Sys2Proof.Settled
end

section
/-! PROOF. A time transfer waits for a Control slot (R437, R478): what a slot without named traffic keeps back. -/

namespace Sys2Proof.Settled

open Sys2Proof.Machine

/-- A time request of R478, as its port queues it. -/
def timeRequest : Packet :=
  { dst := 0, vl := vlCtrl, op := opLinkctl, last := true, enc := false, kph := false, src := 7, ttl := 63, dtype := 0
    rop := 0, pkey := 0, frame := 0, cartid := 0, len := 32, cseq := 0, addr := 0, aux := 0, rsv := 0, hcrc := 0
    payload := linkctlPayload (.time 5 0 0), trailer := noTrailer }

/-- Port 23 of an Idle device is up with credit on every lane, and a time request waits first among its Control packets; no
job names traffic, so that no slot is one of the Control class. -/
def timeWaits : State :=
  let idle := setFld { rst := { mainPg := true } } Reg.RST_STATUS Fld.RST_STATUS_STATE stIdle
  mapPort (setPortState idle 23 psUp) 23 fun x => { x with credit := [64, 64, 64, 64], ctrl := [timeRequest] }

theorem timeWaits_held : (port (slotStart timeWaits 23 0) 23).ctrl = [timeRequest] := by decide +kernel

theorem not_slotSendsControl : ¬ Statements.SlotSendsControl := by
  unfold Statements.SlotSendsControl
  intro h
  have halive : alive timeWaits = true := by decide +kernel
  obtain ⟨t, hexec, k, -, -, -, -, -, hctrl, -⟩ := h timeWaits 23 0 timeRequest halive
    (by decide +kernel) (by decide +kernel) rfl rfl rfl (by decide +kernel) (by decide +kernel) (by decide +kernel) (by decide +kernel) (by decide +kernel)
    (by decide +kernel) (by decide +kernel)
  have hslot : exec (.slotStart 23 0) timeWaits = finish timeWaits (slotStart timeWaits 23 0) := rfl
  rw [hslot, finish_alive halive] at hexec
  cases hexec
  have hkept : (port (ended timeWaits (slotStart timeWaits 23 0)) 23).ctrl = [timeRequest] := timeWaits_held
  rw [hkept] at hctrl
  cases hctrl

/-- Refutes O43: in a slot that is no Control slot a time transfer does not leave, though the partner's credit and the slot
have room for it (R478), and its queue stays as it was. -/
theorem not_controlAndTime : ¬ Obligations.ControlAndTime := by
  unfold Obligations.ControlAndTime
  exact fun h => not_slotSendsControl h.1

end Sys2Proof.Settled
end

section
/-! PROOF. A tick of a device at rest that marks a die (R44, R505): the look for repairs of a frame boundary. -/

namespace Sys2Proof.Settled

open Sys2Proof.Machine

/-- A corrected error in symbol 0 of codeword i of the Granary, found in this hour and before its Gleaner's pass. -/
def wornNote (i : Nat) : ErrNote := { cls := 2, addr := 64 * i, uncorr := false, lpar := false, pos := [0], past := true }

/-- An Idle device at rest whose tick runs, after reads found such an error in 16 codewords of one line. -/
def worn : State :=
  let idle := setFld { rst := { mainPg := true }, ecc := { hist := (List.range 16).map wornNote } } Reg.RST_STATUS
    Fld.RST_STATUS_STATE stIdle
  setFld idle Reg.FRM_STATUS Fld.FRM_STATUS_TICKING 1

/-- The die of symbol 0. -/
def wornDie : Nat := symbolDie 0

theorem dieNotes_worn {s : State} (h : s.ecc = worn.ecc) : dieNotes s 0 wornDie = worn.ecc.hist := by
  have hstack : ∀ i ∈ List.range 16, stackOf (64 * i) = 0 := by decide +kernel
  unfold dieNotes
  rw [h, List.filter_eq_self]
  intro n hn
  obtain ⟨i, hi, rfl⟩ := List.mem_map.1 hn
  simp [wornNote, hstack i hi, wornDie]

/-- What the mark of that die leaves: its notes are used up, and the stack's marked die and the repair are on record. -/
def marked (s : State) : State :=
  let u := { s with ecc := { s.ecc with hist := [], dies := [(0, wornDie)] } }
  repairTaken (setFld u Reg.INT_SPARES Fld.INT_SPARES_GDIE (fld u Reg.INT_SPARES Fld.INT_SPARES_GDIE ||| 1)) 2 repDie 0 0 0

theorem dieMark_worn {s : State} (h : s.ecc = worn.ecc) : dieMark s 0 wornDie = marked s := by
  have hcount : ¬ (worn.ecc.hist.map fun n => n.addr / 64).eraseDups.length < 16 := by decide +kernel
  have hused : worn.ecc.hist.filter (fun n => !worn.ecc.hist.contains n) = [] := by decide +kernel
  have hunit : channelOf ((worn.ecc.hist.head?.map (·.addr)).getD 0) = 0 := by decide +kernel
  have hdies : s.ecc.dies = [] := by rw [h]; rfl
  have hhist : s.ecc.hist = worn.ecc.hist := by rw [h]
  unfold dieMark marked
  simp only [dieNotes_worn h, hcount, hdies, hhist, hused, hunit, kfind, keepNotes, mapEcc, reduceCtorEq, decide_false,
    Bool.or_self, Bool.false_eq_true, if_false, Option.isSome_none]
  rfl

theorem repairScan_worn {s : State} (h : s.ecc = worn.ecc) :
    repairScan s = (presented (marked s)).foldl cribCheck (marked s) := by
  have hrows : worn.ecc.hist.filter (fun n => n.cls = 2 && !n.past) = [] := by decide +kernel
  have hdies : ((worn.ecc.hist.filter fun n => n.cls = 2 && !n.uncorr && !n.pos.isEmpty).map fun n =>
      (stackOf n.addr, symbolDie (n.pos.headD 0))).eraseDups = [(0, wornDie)] := by
    have hall : ((worn.ecc.hist.filter fun n => n.cls = 2 && !n.uncorr && !n.pos.isEmpty).map fun n =>
        (stackOf n.addr, symbolDie (n.pos.headD 0))) = List.replicate 16 (0, wornDie) := rfl
    rw [hall]
    simp [List.replicate_succ, List.eraseDups_cons]
  unfold repairScan
  simp only [h, hrows, List.map_nil, List.eraseDups_nil, List.foldl_nil, hdies, List.foldl_cons, dieMark_worn h]

/-- The work of a tick before its look for repairs. -/
def beforeScan (s : State) : State := pinReclaim (thrashCount (governFrame (programStart (Statements.counted s))))

/-- The work of a tick after its look for repairs. -/
def afterScan (s : State) : State :=
  everyTick { quiesceFrame (restartWalks (syncMill (fenceFrame (nextRelative (syncClass (modelSwitch (substOver
    (substStart s)))))))) with edge := true }

theorem frameTick_eq_scan {s : State} (hm : mayTick s = true) (ht : ticking s = true) (hf : s.frm.slipFlag = false) :
    frameTick s = afterScan (repairScan (beforeScan s)) := by
  have hf' : (setReg64 s Reg.FRM_COUNT_LO ((frameNo s + 1) % 2 ^ 48)).frm.slipFlag = false := hf
  simp only [frameTick, hm, ht, hf', Bool.not_true, Bool.false_eq_true, if_false]
  rfl

theorem beforeScan_worn : (beforeScan worn).ecc = worn.ecc := by decide +kernel

theorem afterScan_marked :
    (afterScan ((presented (marked (beforeScan worn))).foldl cribCheck (marked (beforeScan worn)))).ecc.hist = [] := by
  decide +kernel

theorem worn_alive : alive worn = true := by decide +kernel
theorem worn_mayTick : mayTick worn = true := by decide +kernel
theorem worn_ticking : ticking worn = true := by decide +kernel
theorem worn_slipFlag : worn.frm.slipFlag = false := by decide +kernel
theorem worn_atRest : Statements.AtRest worn := by
  unfold Statements.AtRest
  decide +kernel

theorem frameTick_worn : (frameTick worn).ecc.hist = [] := by
  rw [frameTick_eq_scan worn_mayTick worn_ticking worn_slipFlag, repairScan_worn beforeScan_worn]
  exact afterScan_marked

theorem finishTick_ecc {s t u : State} (ha : alive s = true) (h : finishTick s u = .next t) : t.ecc = u.ecc := by
  rw [finishTick, if_pos ha] at h
  cases h
  rfl

/-- Refutes O15: the look for repairs of a tick (R505) marks a die on a device that is at rest, and with the mark the codes
beside memory are others than before. -/
theorem not_frameTick : ¬ Obligations.FrameTick := by
  unfold Obligations.FrameTick
  intro h
  obtain ⟨-, hquiet, -⟩ := h worn worn_alive worn_mayTick
  obtain ⟨t, hexec, -, -, -, -, -, -, -, ⟨-, hecc⟩, -⟩ := hquiet worn_ticking worn_slipFlag worn_atRest
  have hhist : worn.ecc.hist = [] := by rw [← hecc, finishTick_ecc worn_alive hexec, frameTick_worn]
  exact absurd hhist (by decide +kernel)

end Sys2Proof.Settled
end

section
/-! PROOF. Frames of the shared operations: the register blocks that an error record, a completion and the end of a job
write, and what they leave of the rest of the state. -/

namespace Sys2Proof.Machine

/-! ## Register blocks (R254, R604) -/

/-- From `s` to `t` no register changes but in the blocks listed; block k begins at k × 2^24. -/
def BlocksBut (s t : State) (blocks : List Nat) : Prop := ∀ a, a / 2 ^ 24 ∉ blocks → reg t a = reg s a

theorem BlocksBut.refl (s : State) (l : List Nat) : BlocksBut s s l := fun _ _ => rfl

theorem BlocksBut.trans {s t u : State} {l : List Nat} (h : BlocksBut s t l) (h' : BlocksBut t u l) : BlocksBut s u l :=
  fun a ha => (h' a ha).trans (h a ha)

theorem BlocksBut.mono {s t : State} {l m : List Nat} (h : BlocksBut s t l) (hm : l ⊆ m) : BlocksBut s t m :=
  fun a ha => h a fun hl => ha (hm hl)

theorem BlocksBut.foldl {α : Type} {l : List Nat} {f : State → α → State} (hf : ∀ s x, BlocksBut s (f s x) l) (xs : List α)
    (s : State) : BlocksBut s (xs.foldl f s) l :=
  List.foldlRecOn (motive := fun t => BlocksBut s t l) xs f (BlocksBut.refl s l) fun _ h x _ => h.trans (hf _ x)

theorem BlocksBut.of_regs {s t : State} (h : t.regs = s.regs) (l : List Nat) : BlocksBut s t l := fun a _ => reg_congr h a

theorem blocksBut_setReg (s : State) {a : Nat} (v : Word) {l : List Nat} (h : a / 2 ^ 24 ∈ l) :
    BlocksBut s (setReg s a v) l := fun _ hb => reg_setReg_ne s v fun hab => hb (hab ▸ h)

theorem blocksBut_setRegN (s : State) {a : Nat} (v : Nat) {l : List Nat} (h : a / 2 ^ 24 ∈ l) :
    BlocksBut s (setRegN s a v) l := blocksBut_setReg s _ h

theorem blocksBut_setFld (s : State) {a : Nat} (f : Fld) (v : Nat) {l : List Nat} (h : a / 2 ^ 24 ∈ l) :
    BlocksBut s (setFld s a f v) l := blocksBut_setReg s _ h

theorem blocksBut_raise (s : State) {a : Nat} (m : Nat) {l : List Nat} (h : a / 2 ^ 24 ∈ l) :
    BlocksBut s (raise s a m) l := blocksBut_setReg s _ h

theorem blocksBut_bump (s : State) {a : Nat} (n : Nat) {l : List Nat} (h : a / 2 ^ 24 ∈ l) :
    BlocksBut s (bump s a n) l := blocksBut_setReg s _ h

theorem blocksBut_setReg64 (s : State) {a : Nat} (v : Nat) {l : List Nat} (h : a / 2 ^ 24 ∈ l)
    (h' : (a + 4) / 2 ^ 24 ∈ l) : BlocksBut s (setReg64 s a v) l :=
  (blocksBut_setRegN s v h).trans (blocksBut_setRegN _ _ h')

theorem blocksBut_bump64 (s : State) {a : Nat} (n : Nat) {l : List Nat} (h : a / 2 ^ 24 ∈ l)
    (h' : (a + 4) / 2 ^ 24 ∈ l) : BlocksBut s (bump64 s a n) l := blocksBut_setReg64 s _ h h'

theorem BlocksBut.fld {s t : State} {l : List Nat} (h : BlocksBut s t l) {a : Nat} (ha : a / 2 ^ 24 ∉ l) (f : Fld) :
    fld t a f = fld s a f := fld_of_reg (h a ha) f

theorem BlocksBut.regN {s t : State} {l : List Nat} (h : BlocksBut s t l) {a : Nat} (ha : a / 2 ^ 24 ∉ l) :
    regN t a = regN s a := regN_of_reg (h a ha)

theorem BlocksBut.reg64 {s t : State} {l : List Nat} (h : BlocksBut s t l) {a : Nat} (ha : a / 2 ^ 24 ∉ l)
    (ha' : (a + 4) / 2 ^ 24 ∉ l) : reg64 t a = reg64 s a := reg64_of_reg (h a ha) (h _ ha')

/-! ## Error records (R507) -/

theorem setWords_form (s : State) (a : Nat) (bs : List Byte) (n : Nat) :
    setWords s a bs n = { s with regs := (setWords s a bs n).regs } := by
  induction n generalizing s a bs with
  | zero => rfl
  | succ n ih => rw [setWords, ih]; rfl

theorem setWords_ne (s : State) (a : Nat) (bs : List Byte) (n : Nat) {c : Nat} (h : c < a ∨ a + 4 * n ≤ c) :
    reg (setWords s a bs n) c = reg s c := by
  induction n generalizing s a bs with
  | zero => rfl
  | succ n ih => rw [setWords, ih _ _ _ (by omega), reg_setRegN_ne _ _ (by omega)]

theorem record_form (s : State) (r : Rec) : record s r = { s with regs := (record s r).regs } := by
  unfold record countEvent
  dsimp only
  rw [bump64_form, bump64_form (setWords _ _ _ _), setWords_form]

/-- A record is written to the log, counted, and carries the next event number. -/
theorem record_blocks (s : State) (r : Rec) : BlocksBut s (record s r) [1, 13] := by
  have hlog (n : Nat) (bs : List Byte) : BlocksBut s (setWords s (Reg.INT_LOG (n % 1024) 0) bs 16) [1, 13] := by
    intro a ha
    have hn := Nat.mod_lt n (show 0 < 1024 by decide)
    refine setWords_ne _ _ _ _ ?_
    simp only [List.mem_cons, List.not_mem_nil, or_false, not_or] at ha
    simp only [Reg.INT_LOG]
    omega
  exact ((hlog _ _).trans (blocksBut_bump64 _ 1 (by decide) (by decide))).trans (blocksBut_bump64 _ 1 (by decide) (by decide))

/-- A record is one record more. -/
theorem logCount_record (s : State) (r : Rec) :
    reg64 (record s r) Reg.INT_LOGCOUNT_LO = (reg64 s Reg.INT_LOGCOUNT_LO + 1) % 2 ^ 64 := by
  have hlog (n : Nat) (bs : List Byte) (a : Nat) (h : a < 0xd010000) :
      reg (setWords s (Reg.INT_LOG (n % 1024) 0) bs 16) a = reg s a := by
    refine setWords_ne _ _ _ _ (.inl ?_)
    simp only [Reg.INT_LOG]
    omega
  have hev : Reg.FRM_EVSEQ_LO ≠ Reg.INT_LOGCOUNT_LO := by decide
  unfold record countEvent
  dsimp only
  rw [reg64_bump64, bump64, reg64_setReg64_ne _ _ (by decide) (by decide) (by decide),
    reg64_of_reg (hlog _ _ _ (by decide)) (hlog _ _ _ (by decide))]

/-! ## The end of a job (R616 to R619) -/

/-- From `s` to `t` at most a job has ended: its engines have stopped and its commands have completed. -/
structure JobFrame (s t : State) : Prop where
  form : t = { s with regs := t.regs, host := t.host, loft := { s.loft with rounds := t.loft.rounds }, step := t.step
                      mill := t.mill, wain := t.wain }
  rounds : t.loft.rounds ⊆ s.loft.rounds
  regs : BlocksBut s t [0, 1, 7, 8, 12]

theorem JobFrame.refl (s : State) : JobFrame s s := ⟨rfl, fun _ h => h, .refl s _⟩

theorem JobFrame.trans {s t u : State} (h : JobFrame s t) (h' : JobFrame t u) : JobFrame s u :=
  ⟨by rw [h'.form, h.form], fun _ hx => h.rounds (h'.rounds hx), h.regs.trans h'.regs⟩

theorem JobFrame.foldl {α : Type} {f : State → α → State} (hf : ∀ s x, JobFrame s (f s x)) (xs : List α) (s : State) :
    JobFrame s (xs.foldl f s) := List.foldlRecOn xs f (.refl s) fun _ h _ _ => h.trans (hf _ _)

theorem jobFrame_setFld (s : State) {a : Nat} (f : Fld) (v : Nat) (h : a / 2 ^ 24 ∈ [0, 1, 7, 8, 12]) :
    JobFrame s (setFld s a f v) := ⟨rfl, fun _ h => h, blocksBut_setFld s f v h⟩

theorem jobFrame_setRegN (s : State) {a : Nat} (v : Nat) (h : a / 2 ^ 24 ∈ [0, 1, 7, 8, 12]) :
    JobFrame s (setRegN s a v) := ⟨rfl, fun _ h => h, blocksBut_setRegN s v h⟩

theorem jobFrame_raise (s : State) {a : Nat} (m : Nat) (h : a / 2 ^ 24 ∈ [0, 1, 7, 8, 12]) :
    JobFrame s (raise s a m) := ⟨rfl, fun _ h => h, blocksBut_raise s m h⟩

theorem jobFrame_bump64 (s : State) {a : Nat} (n : Nat) (h : a / 2 ^ 24 ∈ [0, 1, 7, 8, 12])
    (h' : (a + 4) / 2 ^ 24 ∈ [0, 1, 7, 8, 12]) : JobFrame s (bump64 s a n) :=
  ⟨rfl, fun _ h => h, blocksBut_bump64 s n h h'⟩

theorem jobFrame_host (s : State) (h : HostSt) : JobFrame s { s with host := h } := ⟨rfl, fun _ h => h, fun _ _ => rfl⟩

theorem dropCmd_jobFrame (s : State) (h : Nat) : JobFrame s (dropCmd s h) :=
  (jobFrame_host s _).trans (jobFrame_setRegN _ _ (by decide))

theorem logEntry_jobFrame (s : State) (c : HostCmd) (e : Compl) : JobFrame s (logEntry s c e).1 := by
  unfold logEntry
  dsimp only
  split
  · split
    · exact (jobFrame_raise s _ (by decide)).trans (jobFrame_setFld _ _ _ (by decide))
    · exact ((jobFrame_host s _).trans (jobFrame_bump64 _ _ (by decide) (by decide))).trans
        (jobFrame_bump64 _ _ (by decide) (by decide))
  · exact .refl s

theorem complete_jobFrame (s : State) (h : Nat) (e : Compl) : JobFrame s (complete s h e) := by
  unfold complete
  split
  · exact .refl s
  · split
    · exact dropCmd_jobFrame s h
    · exact ((logEntry_jobFrame s _ e).trans (jobFrame_host _ _)).trans (dropCmd_jobFrame _ h)

theorem stopEngines_jobFrame (s : State) : JobFrame s (stopEngines s) := by
  refine ⟨rfl, fun _ h => h, ?_⟩
  unfold stopEngines syncBstat
  exact (((BlocksBut.of_regs rfl _).trans (blocksBut_setReg _ _ (by decide))).trans (blocksBut_setRegN _ _ (by decide))).trans
    (blocksBut_setRegN _ _ (by decide))

theorem dropJob_jobFrame (s : State) : JobFrame s (dropJob s) := by
  have hclose : JobFrame s { s with host := { s.host with job := none }
                                    loft := { s.loft with rounds := s.loft.rounds.filter fun x => !x.2.closing } } :=
    ⟨rfl, fun _ h => (List.mem_filter.1 h).1, fun _ _ => rfl⟩
  have hidle := ((hclose.trans (stopEngines_jobFrame _)).trans
    (jobFrame_setFld (a := Reg.HST_STATUS) _ Fld.HST_STATUS_JOB 0 (by decide))).trans
    (jobFrame_setFld (a := Reg.FRM_STATUS) _ Fld.FRM_STATUS_CLASS 0 (by decide))
  unfold dropJob
  dsimp only
  split
  · exact hidle.trans (jobFrame_setFld _ _ _ (by decide))
  · exact hidle

theorem jobStopCheck_jobFrame (s : State) : JobFrame s (jobStopCheck s) := by
  unfold jobStopCheck
  split
  · exact .refl s
  · split
    · exact ((dropJob_jobFrame s).trans (complete_jobFrame _ _ _)).trans (.foldl (fun _ _ => complete_jobFrame _ _ _) _ _)
    · exact .refl s

section
variable {s t : State} (h : JobFrame s t)
include h

theorem JobFrame.mem : t.mem = s.mem := by rw [h.form]
theorem JobFrame.ecc : t.ecc = s.ecc := by rw [h.form]
theorem JobFrame.boughs : t.boughs = s.boughs := by rw [h.form]
theorem JobFrame.net : t.net = s.net := by rw [h.form]
theorem JobFrame.bars : t.bars = s.bars := by rw [h.form]
theorem JobFrame.carts : t.carts = s.carts := by rw [h.form]
theorem JobFrame.fab : t.fab = s.fab := by rw [h.form]
theorem JobFrame.frm : t.frm = s.frm := by rw [h.form]
theorem JobFrame.integ : t.integ = s.integ := by rw [h.form]
theorem JobFrame.memSame : MemSame s t := ⟨h.mem, h.ecc⟩
theorem JobFrame.bough_eq (b : Nat) : bough t b = bough s b := bough_congr h.boughs b

/-- The end of a job writes no register of a bough. -/
theorem JobFrame.reg_eq {a : Nat} (ha : a / 2 ^ 24 ∉ [0, 1, 7, 8, 12]) : reg t a = reg s a := h.regs a ha

end

end Sys2Proof.Machine
end

section
/-! PROOF. Control items of a walk (R124 to R129, R140, R145): END, BRANCH, the slot items and the semaphore items. -/

namespace Sys2Proof.Machine

/-- A command that runs the control item its walk stands at, its fence open, leaves the item's effect. -/
theorem runs_control {c : Instr} {s u : State} {n b kind : Nat} {i : Item} {body : List Byte}
    {act : State → Nat → Item → State} {P : State → Prop} (hc : exec c s = control s n kind act) (ha : alive s = true)
    (hw : walkTo s n = .item u b i body) (hk : i.kind = kind)
    (hf : (i.fence || i.kind = 12 || i.kind = 13 || i.kind = 14) = true → allRetired u b = true)
    (hp : P (ended s (act u b i))) : Runs c s P := by
  subst hk
  exact ⟨_, hc.trans (control_item act ha hw hf), hp⟩

theorem advance_regs {s : State} {b : Nat} (h : itemIdx s b ≠ 65535) : RegsBut s (advance s b) [Reg.BGH_ITEM b] := by
  intro a ha
  rw [advance_eq h]
  exact reg_setFld_ne s _ _ fun hab => ha (by simp [hab])

theorem advance_form {s : State} {b : Nat} (h : itemIdx s b ≠ 65535) :
    advance s b = { s with regs := (advance s b).regs } := by rw [advance_eq h]; rfl

theorem RegsBut.trans {s t u : State} {l m : List Nat} (h : RegsBut s t l) (h' : RegsBut t u m) : RegsBut s u (l ++ m) :=
  fun a ha => (h' a fun hm => ha (List.mem_append_right _ hm)).trans (h a fun hl => ha (List.mem_append_left _ hl))

/-- A field that the control core does not step over keeps the list position where it stands. -/
theorem itemIdx_keeps {s t : State} {b : Nat} {l : List Nat} (h : RegsBut s t l) (hl : Reg.BGH_ITEM b ∉ l) :
    itemIdx t b = itemIdx s b := itemIdx_of_reg (h _ hl)

/-- An item whose effect `v` writes the registers listed and lets the walk go on: the effect with the walk's step. -/
theorem onlyRegs_advance {s u v : State} {b : Nat} {l : List Nat} (hv : v = { u with regs := v.regs })
    (hr : RegsBut u v l) (hl : Reg.BGH_ITEM b ∉ l) (hi : itemIdx u b ≠ 65535) :
    OnlyRegs u (ended s (advance v b)) (l ++ [Reg.BGH_ITEM b]) ∧ itemIdx (ended s (advance v b)) b = itemIdx u b + 1 := by
  have hidx := itemIdx_keeps hr hl
  have hi' : itemIdx v b ≠ 65535 := hidx ▸ hi
  refine ⟨onlyRegs_ended ?_ (hr.trans (advance_regs hi')), ?_⟩
  · rw [advance_form hi', hv]
  · exact (itemIdx_advance hi').trans (by rw [hidx])

/-! ## BRANCH (R128) -/

theorem branchOf_free {s : State} {b : Nat} {i : Item} (ha : slotBusy s b (bitsN i.w1 31 27) = false)
    (hb : bitN i.w1 23 = true → slotBusy s b (bitsN i.w1 22 18) = false) (hi : itemIdx s b ≠ 65535) :
    branchOf s b i = setFld s (Reg.BGH_ITEM b) Fld.BGH_ITEM_INDEX
      (if branchTaken (bitsN i.w1 26 24) (slot s b (bitsN i.w1 31 27)) (branchB s b i) then bitsN i.w3 15 0
        else itemIdx s b + 1) := by
  have hfree : (slotBusy s b (bitsN i.w1 31 27) || (bitN i.w1 23 && slotBusy s b (bitsN i.w1 22 18))) = false := by
    rw [ha, Bool.false_or, Bool.and_eq_false_iff]
    cases h : bitN i.w1 23
    · exact .inl rfl
    · exact .inr (hb h)
  unfold branchOf
  simp only [hfree, Bool.false_eq_true, if_false]
  split
  · rfl
  · exact advance_eq hi

/-! ## Slots (R127, R129) -/

theorem setSlot_regs (s : State) (b k v : Nat) : RegsBut s (setSlot s b k v) [Reg.BGH_SLOT_LO b k, Reg.BGH_SLOT_HI b k] := by
  intro a ha
  simp only [List.mem_cons, List.not_mem_nil, or_false, not_or] at ha
  refine reg_setReg64_ne s _ (Ne.symm ha.1) fun h => ha.2 ?_
  rw [← h, Reg.BGH_SLOT_LO, Reg.BGH_SLOT_HI]
  omega

/-- An item that writes slot k and lets the walk go on. -/
theorem setSlot_advance (s : State) {u : State} {b k : Nat} (v : Nat) (hk : k < 32) (hi : itemIdx u b ≠ 65535) :
    OnlyRegs u (ended s (advance (setSlot u b k v) b)) [Reg.BGH_SLOT_LO b k, Reg.BGH_SLOT_HI b k, Reg.BGH_ITEM b]
      ∧ slot (ended s (advance (setSlot u b k v) b)) b k = v % 2 ^ 64
      ∧ itemIdx (ended s (advance (setSlot u b k v) b)) b = itemIdx u b + 1 := by
  have hitem : Reg.BGH_ITEM b ∉ [Reg.BGH_SLOT_LO b k, Reg.BGH_SLOT_HI b k] := by
    simp only [Reg.BGH_ITEM, Reg.BGH_SLOT_LO, Reg.BGH_SLOT_HI, List.mem_cons, List.not_mem_nil, or_false]
    omega
  obtain ⟨honly, hidx⟩ := onlyRegs_advance (s := s) rfl (setSlot_regs u b k v) hitem hi
  refine ⟨honly, ?_, hidx⟩
  have hi' : itemIdx (setSlot u b k v) b ≠ 65535 := itemIdx_keeps (setSlot_regs u b k v) hitem ▸ hi
  have hkeep (a : Nat) (h : Reg.BGH_ITEM b ≠ a) : reg (advance (setSlot u b k v) b) a = reg (setSlot u b k v) a :=
    advance_regs hi' a (by simpa using Ne.symm h)
  rw [← slot_setSlot u b k v]
  refine reg64_of_reg (hkeep _ ?_) (hkeep _ ?_) <;> simp only [Reg.BGH_ITEM, Reg.BGH_SLOT_LO] <;> omega

/-! ## Semaphores (R140, R141) -/

theorem semTake_regs (s : State) (b k c : Nat) : RegsBut s (semTake s b k c) [Reg.BGH_SEM b k] := fun a ha =>
  reg_setFld_ne s _ _ fun h => ha (by simp [h])

theorem setSemwait_regs (s : State) (b v : Nat) : RegsBut s (setSemwait s b v) [Reg.BGH_STATUS b] := fun a ha =>
  reg_setFld_ne s _ _ fun h => ha (by simp [h])

theorem sem_of_reg {s t : State} {b k : Nat} (h : reg t (Reg.BGH_SEM b k) = reg s (Reg.BGH_SEM b k)) :
    sem t b k = sem s b k := fld_of_reg h _

theorem semTake_sem (s : State) (b k c : Nat) : sem (semTake s b k c) b k = sem s b k - c := by
  have := sem_lt s b k
  exact sem_setFld s b k _ (by omega)

/-- The state in which the walk goes past a SEMWAIT: the count is taken and the bough no longer waits. -/
def semTaken (s : State) (b k c : Nat) : State := setSemwait (semTake s b k c) b 0

theorem semTaken_regs (s : State) (b k c : Nat) : RegsBut s (semTaken s b k c) [Reg.BGH_SEM b k, Reg.BGH_STATUS b] :=
  (semTake_regs s b k c).trans (setSemwait_regs _ b 0)

theorem semTaken_sem {s : State} {b k : Nat} (c : Nat) : sem (semTaken s b k c) b k = sem s b k - c := by
  rw [← semTake_sem]
  refine sem_of_reg (setSemwait_regs _ b 0 _ ?_)
  simp only [Reg.BGH_SEM, Reg.BGH_STATUS, List.mem_singleton]
  omega

theorem semTaken_semwait (s : State) (b k c : Nat) :
    fld (semTaken s b k c) (Reg.BGH_STATUS b) Fld.BGH_STATUS_SEMWAIT = 0 := fld_setFld _ _ _ _ (by decide) (by decide)

theorem semwaitOf_enough {s : State} {b : Nat} {i : Item} (h : bitsN i.w2 23 0 ≤ sem s b (bitsN i.w1 6 0)) :
    semwaitOf s b i = advance (semTaken s b (bitsN i.w1 6 0) (bitsN i.w2 23 0)) b := if_neg (Nat.not_lt.2 h)

end Sys2Proof.Machine

namespace Sys2Proof.Settled

open Sys2Proof.Machine

/-- Settles O8, item by item: END writes the bough alone, BRANCH its list position alone. -/
theorem walkItems : Obligations.WalkItems := by
  unfold Obligations.WalkItems
  intro s u n b i body ha hw hf
  refine ⟨fun hk => ?_, fun hk hsa hsb hi => ?_⟩
  · refine runs_control rfl ha hw hk (by simpa [hk] using hf) ⟨rfl, ?_, ?_, fun c hc => ?_⟩
    · simp [endOf]
    · simp [endOf]
    · simp [endOf, bough_setBough, Ne.symm hc]
  · refine runs_control rfl ha hw hk (by simpa [hk] using hf) ?_
    rw [branchOf_free hsa hsb hi]
    refine ⟨onlyRegs_ended rfl fun a hna => reg_setFld_ne u _ _ fun h => hna (by simp [h]), ?_⟩
    refine itemIdx_setFld u b _ ?_
    have := itemIdx_lt u b
    split
    · exact bitsN_lt _ _ _
    · omega

/-- Settles O9: each item is a write of its slot and one step of the walk. -/
theorem slotItems : Obligations.SlotItems := by
  unfold Obligations.SlotItems
  intro s u n b i body ha _ hw hf hi
  refine ⟨fun hk hb => ?_, fun hk hb => ?_, fun hk hr => ?_⟩
  · refine runs_control rfl ha hw hk (by simpa [hk] using hf) ?_
    rw [setslotOf, hb]
    exact setSlot_advance s _ (bitsN_lt _ 4 0) hi
  · refine runs_control rfl ha hw hk (by simpa [hk] using hf) ?_
    rw [addslotOf, hb]
    obtain ⟨honly, hval, hidx⟩ := setSlot_advance s (wrapN 64 ((slot u b (bitsN i.w1 4 0) : Int) + sextN 32 i.w2))
      (bitsN_lt _ 4 0) hi
    exact ⟨honly, hval.trans (Nat.mod_eq_of_lt (wrapN_lt _ _)), hidx⟩
  · refine runs_control rfl ha hw hk (by simpa [hk] using hf) ?_
    rw [counterReadOf, if_pos hr]
    obtain ⟨honly, hval, hidx⟩ := setSlot_advance s (counter u (bitsN i.w1 9 0)) (bitsN_lt _ 14 10) hi
    exact ⟨honly, hval.trans (Nat.mod_eq_of_lt (reg64_lt _ _)), hidx⟩

end Sys2Proof.Settled
end

section
/-! PROOF. Pre-emption and the stop of a bough (R148): what is written, what is kept, and who is presented meanwhile. -/

namespace Sys2Proof.Machine

/-! ## Presented boughs (R150, R156) -/

theorem phys_of_reg {s t : State} {n : Nat} (h : reg t (Reg.BGH_PMAP n) = reg s (Reg.BGH_PMAP n)) : phys t n = phys s n := by
  unfold phys
  split
  · exact fld_of_reg h _
  · rfl

theorem presented_of_reg {s t : State} (h : ∀ n < 64, reg t (Reg.BGH_PMAP n) = reg s (Reg.BGH_PMAP n)) :
    presented t = presented s := by
  unfold presented
  rw [List.map_congr_left fun n hn => phys_of_reg (h n (List.mem_range.1 hn))]

theorem lt_of_phys_lt {s : State} {n : Nat} (h : phys s n < 68) : n < 64 := by
  by_contra hn
  rw [phys, if_neg hn] at h
  omega

theorem presented_lt {s : State} {b : Nat} (h : b ∈ presented s) : b < 68 :=
  of_decide_eq_true (List.mem_filter.1 h).2

/-- The end of a job writes no register of a bough or of its Thresher. -/
theorem JobFrame.bghReg {s t : State} (h : JobFrame s t) {a : Nat} (ha : 0x2000000 ≤ a) (ha' : a < 0x4000000) :
    reg t a = reg s a := by
  refine h.regs a ?_
  simp only [List.mem_cons, List.not_mem_nil, or_false, not_or]
  omega

theorem JobFrame.phys_eq {s t : State} (h : JobFrame s t) (n : Nat) : phys t n = phys s n := by
  by_cases hn : n < 64
  · exact phys_of_reg (h.bghReg (by simp only [Reg.BGH_PMAP]; omega) (by simp only [Reg.BGH_PMAP]; omega))
  · rw [phys, phys, if_neg hn, if_neg hn]

theorem JobFrame.status {s t : State} (h : JobFrame s t) {b : Nat} (hb : b < 68) :
    reg t (Reg.BGH_STATUS b) = reg s (Reg.BGH_STATUS b) :=
  h.bghReg (by simp only [Reg.BGH_STATUS]; omega) (by simp only [Reg.BGH_STATUS]; omega)

theorem JobFrame.isStopped_eq {s t : State} (h : JobFrame s t) {b : Nat} (hb : b < 68) : isStopped t b = isStopped s b := by
  simp only [isStopped, fld_of_reg (h.status hb)]

/-- While a presented bough has not stopped the job goes on. -/
theorem jobStopCheck_running {s : State} {b : Nat} (hb : b ∈ presented s) (h : isStopped s b = false) :
    jobStopCheck s = s := by
  have hall : (presented s).all (isStopped s) = false := List.all_eq_false.2 ⟨b, hb, by simp [h]⟩
  unfold jobStopCheck
  split
  · rfl
  · rw [hall]; rfl

/-! ## The status of a stopped bough -/

/-- BGH_STATUS of a bough that stops: STOPPED, and no walk or wait. -/
def stopWord (w : Word) : Word :=
  Fld.BGH_STATUS_BARWAIT.put (Fld.BGH_STATUS_SEMWAIT.put (Fld.BGH_STATUS_ACTIVE.put (Fld.BGH_STATUS_STOPPED.put w 1) 0) 0) 0

theorem stopBough_status (s : State) (b : Nat) :
    reg (stopBough s b) (Reg.BGH_STATUS b) = stopWord (reg s (Reg.BGH_STATUS b)) := by
  unfold stopBough
  rw [reg_raise_ne _ _ (by simp only [Reg.BGH_INTSTAT, Reg.BGH_STATUS]; omega), reg_setReg_self]
  rfl

/-- The fields of BGH_STATUS above the flags of the walk are kept. -/
theorem get_stopWord (w : Word) (g : Fld) (h : 4 ≤ g.lo) (hg : g.lo ≤ g.hi) : g.get (stopWord w) = g.get w := by
  unfold stopWord
  rw [Fld.get_put_ne _ _ _ _ (by decide) (by decide) hg (.inr (by simp only [Fld.BGH_STATUS_BARWAIT]; omega)),
    Fld.get_put_ne _ _ _ _ (by decide) (by decide) hg (.inr (by simp only [Fld.BGH_STATUS_SEMWAIT]; omega)),
    Fld.get_put_ne _ _ _ _ (by decide) (by decide) hg (.inr (by simp only [Fld.BGH_STATUS_ACTIVE]; omega)),
    Fld.get_put_ne _ _ _ _ (by decide) (by decide) hg (.inr (by simp only [Fld.BGH_STATUS_STOPPED]; omega))]

theorem get_stopWord_stopped (w : Word) : Fld.BGH_STATUS_STOPPED.get (stopWord w) = 1 := by
  unfold stopWord
  rw [Fld.get_put_ne _ _ _ _ (by decide) (by decide) (by decide) (by decide),
    Fld.get_put_ne _ _ _ _ (by decide) (by decide) (by decide) (by decide),
    Fld.get_put_ne _ _ _ _ (by decide) (by decide) (by decide) (by decide), Fld.get_put _ _ _ (by decide) (by decide)]
  rfl

theorem stopBough_isStopped (s : State) (b : Nat) : isStopped (stopBough s b) b = true := by
  simp only [isStopped, fld, stopBough_status, get_stopWord_stopped, decide_true]

theorem stopBough_intstat (s : State) (b : Nat) :
    fld (stopBough s b) (Reg.BGH_INTSTAT b) Fld.BGH_INTSTAT_STOPPED = 1 := fld_raise _ _ 0 (by decide)

theorem stopBough_intstat_of_one (s : State) (b i : Nat) (h : fld s (Reg.BGH_INTSTAT b) ⟨i, i⟩ = 1) :
    fld (stopBough s b) (Reg.BGH_INTSTAT b) ⟨i, i⟩ = 1 := by
  refine fld_raise_of_one _ _ i _ ?_
  rw [fld_of_reg (reg_setReg_ne _ _ (by simp only [Reg.BGH_INTSTAT, Reg.BGH_STATUS]; omega))]
  exact h

/-! ## Stopping and pre-emption -/

/-- From `s` to `t` at most bough b has stopped or been pre-empted: its flags and its walk change, what it has in flight
does not. -/
structure StopFrame (b : Nat) (s t : State) : Prop where
  form : t = { s with regs := t.regs, boughs := t.boughs }
  regs : RegsBut s t [Reg.BGH_STATUS b, Reg.BGH_INTSTAT b]
  others : ∀ c, c ≠ b → bough t c = bough s c
  sb : (bough t b).sb = (bough s b).sb
  halted : (bough s b).halted = true → (bough t b).halted = true
  fields : ∀ g : Fld, 4 ≤ g.lo → g.lo ≤ g.hi → fld t (Reg.BGH_STATUS b) g = fld s (Reg.BGH_STATUS b) g
  events : ∀ i, fld s (Reg.BGH_INTSTAT b) ⟨i, i⟩ = 1 → fld t (Reg.BGH_INTSTAT b) ⟨i, i⟩ = 1

theorem StopFrame.refl (b : Nat) (s : State) : StopFrame b s s :=
  ⟨rfl, fun _ _ => rfl, fun _ _ => rfl, rfl, id, fun _ _ _ => rfl, fun _ => id⟩

theorem StopFrame.trans {b : Nat} {s t u : State} (h : StopFrame b s t) (h' : StopFrame b t u) : StopFrame b s u where
  form := by rw [h'.form, h.form]
  regs a ha := (h'.regs a ha).trans (h.regs a ha)
  others c hc := (h'.others c hc).trans (h.others c hc)
  sb := h'.sb.trans h.sb
  halted hs := h'.halted (h.halted hs)
  fields g hl hg := (h'.fields g hl hg).trans (h.fields g hl hg)
  events i hi := h'.events i (h.events i hi)

theorem stopBough_frame (s : State) (b : Nat) : StopFrame b s (stopBough s b) where
  form := stopBough_form s b
  regs := stopBough_regs s b
  others c hc := by rw [stopBough_bough, if_neg (Ne.symm hc)]
  sb := by rw [stopBough_bough, if_pos rfl]
  halted h := by rw [stopBough_bough, if_pos rfl]; exact h
  fields g hl hg := by simp only [fld, stopBough_status, get_stopWord _ g hl hg]
  events i := stopBough_intstat_of_one s b i

theorem stopCheck_frame (s : State) (b : Nat) : StopFrame b s (stopCheck s b) := by
  obtain h | ⟨h, -⟩ := stopCheck_cases s b
  · rw [h]; exact .refl b s
  · rw [h]; exact stopBough_frame s b

/-- A pre-empted bough with nothing in flight is stopped. -/
theorem stopCheck_isStopped {s : State} {b : Nat} (hh : (bough s b).halted = true) :
    isStopped (stopCheck s b) b = (isStopped s b || (bough s b).sb.isEmpty) := by
  unfold stopCheck
  cases hsb : (bough s b).sb.isEmpty <;> cases hst : isStopped s b <;> simp [hh, hst, stopBough_isStopped]

/-- Bough b may issue nothing further. -/
def haltBough (s : State) (b : Nat) : State := setBough s b { bough s b with halted := true }

theorem preempt_eq (s : State) (b : Nat) : preempt s b = stopCheck (haltBough s b) b := rfl

theorem haltBough_frame (s : State) (b : Nat) : StopFrame b s (haltBough s b) where
  form := rfl
  regs _ _ := rfl
  others c hc := by simp [haltBough, bough_setBough, Ne.symm hc]
  sb := by simp [haltBough]
  halted _ := by simp [haltBough]
  fields _ _ _ := rfl
  events _ h := h

theorem preempt_frame (s : State) (b : Nat) : StopFrame b s (preempt s b) :=
  (haltBough_frame s b).trans (stopCheck_frame _ b)

theorem preempt_halted (s : State) (b : Nat) : (bough (preempt s b) b).halted = true :=
  (stopCheck_frame _ b).halted (by simp)

theorem preempt_isStopped (s : State) (b : Nat) :
    isStopped (preempt s b) b = (isStopped s b || (bough s b).sb.isEmpty) := by
  rw [preempt_eq, stopCheck_isStopped (by simp [haltBough]), (haltBough_frame s b).sb]
  rfl

theorem preempt_intstat {s : State} {b : Nat} (hsb : (bough s b).sb = []) (h : isStopped s b = false) :
    fld (preempt s b) (Reg.BGH_INTSTAT b) Fld.BGH_INTSTAT_STOPPED = 1 := by
  have hstop : preempt s b = stopBough (haltBough s b) b := by
    have hst : isStopped (haltBough s b) b = false := h
    rw [preempt_eq, stopCheck, (haltBough_frame s b).sb, hsb, hst]
    simp [haltBough]
  rw [hstop, stopBough_intstat]

section
variable {b : Nat} {s t : State} (h : StopFrame b s t)
include h

theorem StopFrame.memSame : MemSame s t := by rw [h.form]; exact ⟨rfl, rfl⟩
theorem StopFrame.net : t.net = s.net := by rw [h.form]
theorem StopFrame.host : t.host = s.host := by rw [h.form]
theorem StopFrame.integ : t.integ = s.integ := by rw [h.form]

/-- A stop leaves every register but the two of its bough. -/
theorem StopFrame.reg_eq {a : Nat} (h1 : a ≠ Reg.BGH_STATUS b) (h2 : a ≠ Reg.BGH_INTSTAT b) : reg t a = reg s a :=
  h.regs a (by simp [h1, h2])

theorem StopFrame.phys_eq (hb : b < 68) (n : Nat) : phys t n = phys s n :=
  phys_of_reg (h.reg_eq (by simp only [Reg.BGH_PMAP, Reg.BGH_STATUS]; omega) (by simp only [Reg.BGH_PMAP, Reg.BGH_INTSTAT]; omega))

theorem StopFrame.presented_eq (hb : b < 68) : presented t = presented s :=
  presented_of_reg fun n _ => h.reg_eq (by simp only [Reg.BGH_PMAP, Reg.BGH_STATUS]; omega)
    (by simp only [Reg.BGH_PMAP, Reg.BGH_INTSTAT]; omega)

theorem StopFrame.isStopped_ne {c : Nat} (hc : c ≠ b) : isStopped t c = isStopped s c := by
  simp only [isStopped, fld_of_reg (h.reg_eq (a := Reg.BGH_STATUS c) (by simp only [Reg.BGH_STATUS]; omega)
    (by simp only [Reg.BGH_STATUS, Reg.BGH_INTSTAT]; omega))]

end

/-- Every presented bough is pre-empted. -/
theorem preemptAll_halted {s : State} {b : Nat} (hb : b ∈ presented s) : (bough (preemptAll s) b).halted = true := by
  have hkeep (l : List Nat) (u : State) (h : (bough u b).halted = true) : (bough (l.foldl preempt u) b).halted = true :=
    List.foldlRecOn (motive := fun v => (bough v b).halted = true) l preempt h fun v hv c _ => by
      by_cases hc : b = c
      · exact hc ▸ preempt_halted v c
      · rw [(preempt_frame v c).others b hc]; exact hv
  have hmem (l : List Nat) : ∀ u : State, b ∈ l → (bough (l.foldl preempt u) b).halted = true := by
    induction l with
    | nil => intro u h; cases h
    | cons c l ih =>
      intro u h
      by_cases hc : b ∈ l
      · exact ih _ hc
      · obtain rfl : b = c := (List.mem_cons.1 h).resolve_right hc
        exact hkeep l _ (preempt_halted u b)
  exact hmem _ s hb

/-- The end of a job pre-empts every presented bough (R619). -/
theorem endJob_halted {s : State} {b : Nat} (st d : Nat) (hj : s.host.job ≠ none) (hb : b ∈ presented s) :
    (bough (endJob s st d) b).halted = true := by
  unfold endJob
  split
  · next h => exact absurd h hj
  · rw [(jobStopCheck_jobFrame _).bough_eq]
    exact preemptAll_halted hb

/-! ## A walk that may not go on (R148) -/

theorem walkReady_halted {s : State} {b : Nat} (h : (bough s b).halted = true) : walkReady s b = false := by
  simp [walkReady, h]

theorem walkTo_halted {s : State} {n : Nat} (h : (bough s (phys s n)).halted = true) :
    walkTo s n = .stay (orWait s s) := by
  simp [walkTo, walkFetch, walkReady_halted h]

end Sys2Proof.Machine

namespace Sys2Proof.Settled

open Sys2Proof.Machine

/-- Settles O13: the pre-emption changes its bough alone, and the job goes on while another presented bough has not
stopped. -/
theorem preemption : Obligations.Preemption := by
  unfold Obligations.Preemption
  intro s b ha hb
  have hexec : exec (.bghPreempt b) s = finish s (bghPreempt s b) := rfl
  rw [bghPreempt, if_pos hb, preemptOne] at hexec
  have hp := preempt_frame s b
  have hj := jobStopCheck_jobFrame (preempt s b)
  have hhalt : (bough (jobStopCheck (preempt s b)) b).halted = true := by rw [hj.bough_eq, preempt_halted]
  refine runs_finish hexec ha ⟨hhalt, walkReady_halted hhalt, ?_, hp.memSame.trans hj.memSame, fun c hc => ?_, ?_,
    fun hsb hst => ?_, fun hrun => ?_⟩
  · exact (congrArg BoughSt.sb (hj.bough_eq b)).trans hp.sb
  · exact (hj.bough_eq c).trans (hp.others c hc)
  · exact (hj.isStopped_eq hb).trans (preempt_isStopped s b)
  · rw [ended_fld, fld_of_reg (hj.bghReg (by simp only [Reg.BGH_INTSTAT]; omega) (by simp only [Reg.BGH_INTSTAT]; omega))]
    exact preempt_intstat hsb hst
  · have hsame : jobStopCheck (preempt s b) = preempt s b := by
      obtain hnone | ⟨c, hc, hne, hst⟩ := hrun
      · exact jobStopCheck_none (by rw [hp.host, hnone])
      · exact jobStopCheck_running (hp.presented_eq hb ▸ hc) ((hp.isStopped_ne hne).trans hst)
    intro a hna
    rw [ended_reg, hsame, hp.regs a hna]

end Sys2Proof.Settled
end

section
/-! PROOF. A regeneration whose records are in copy (R505) waits, whatever its fence. -/

namespace Sys2Proof.Machine

@[simp] theorem ended_mill (s t : State) : (ended s t).mill = t.mill := rfl

end Sys2Proof.Machine

namespace Sys2Proof.Settled

open Sys2Proof.Machine

/-- A commit left to regenerate block 0 of record 0. -/
def regenCommit : Resolve := { num := 0, epoch := 0, regen := [(0, [0])] }

/-- A commit whose last block may be regenerated, its one record of one element, while the bank that holds the records of
the Mill is copied (R505). -/
def regenHeld : State :=
  { rst := { mainPg := true }, mem := [(4, 1#8)], loft := { banks := [(0, 0)] }, mill := { res := some regenCommit } }

theorem regenHeld_ready : regenReady regenHeld regenCommit (0, [0]) = true := by decide +kernel

theorem regenHeld_waits : (orWait regenHeld (wcRegen regenHeld)).mill.res.isSome = true := by decide +kernel

/-- Refutes O50: the statement has a ready regeneration done at once where no round is open, but a bank in copy (R505)
holds the access to the records, and the commit is kept. -/
theorem not_stepsAndGate : ¬ Obligations.StepsAndGate := by
  unfold Obligations.StepsAndGate
  rintro ⟨hgate, -⟩
  have hlive : alive regenHeld = true := by decide +kernel
  have hexec : exec .wcRegeneration regenHeld = finish regenHeld (orWait regenHeld (wcRegen regenHeld)) := rfl
  obtain ⟨-, -, -, -, hregen⟩ := hgate regenHeld hlive
  obtain ⟨t, ht, -, hnone, -⟩ := (hregen regenCommit 0 0 rfl rfl rfl rfl).1 regenHeld_ready rfl
  rw [hexec, finish_alive hlive] at ht
  obtain rfl := Host.Outcome.next.inj ht
  rw [ended_mill] at hnone
  have hwait := regenHeld_waits
  rw [hnone] at hwait
  cases hwait

end Sys2Proof.Settled
end

section
/-! PROOF. A bough presented twice: the end of the job that a held partial brings about halts the bough that has just been
replaced. -/

namespace Sys2Proof.Machine

/-- A consumer that an uncorrectable word stops with no step open ends the job: every presented bough is pre-empted
(R496, R497). -/
theorem stopConsumer_halted {s : State} {b : Nat} (bad : Bad) (seq : Nat) (hopen : stepOpen s = false)
    (hj : jobLoaded s = true) (hb : b ∈ presented s) : (bough (stopConsumer s false bad seq) b).halted = true := by
  unfold stopConsumer
  simp only [hopen, hj, Bool.not_false, Bool.or_true, Bool.and_self, if_true, Bool.false_eq_true, if_false]
  refine endJob_halted _ _ ?_ ?_
  · rw [record_form]
    exact fun h => by rw [jobLoaded, h] at hj; cases hj
  · rw [presented_of_reg fun n hn => record_blocks _ _ _ ?_]
    · exact hb
    · simp only [Reg.BGH_PMAP, List.mem_cons, List.not_mem_nil, or_false]
      omega

/-- How the write of a partial ends: an uncorrectable word stops its consumer (R497). -/
def partialEnd : State × Option Bad → State
  | (s, some bad) => stopConsumer s false bad 0
  | (s, none) => s

/-- What the network held for presented number n, no barrier's release among it: its partials are written in order (R150). -/
theorem deliverHeld_partials {s : State} {n : Nat} (hb : s.integ.heldBars = []) (hu : s.bars = []) :
    deliverHeld s n = (s.integ.heldParts.filter fun x => x.1 = n).foldl
      (fun s x => partialEnd (placePartial s n x.2.1 x.2.2))
      { s with integ := { s.integ with heldParts := s.integ.heldParts.filter fun x => x.1 ≠ n, heldBars := [] } } := by
  unfold deliverHeld
  rw [hb, List.filter_nil]
  show List.foldl _ (List.foldl _ (List.foldl _ _ s.bars) []) _ = _
  rw [hu]
  refine congrArg (fun f => List.foldl f _ _) (funext fun u => funext fun x => ?_)
  rcases placePartial u n x.2.1 x.2.2 with ⟨t, _ | bad⟩ <;> rfl

theorem partialEnd_halted {x : State × Option Bad} {b : Nat} (h : x.2.isSome = true) (hopen : stepOpen x.1 = false)
    (hj : jobLoaded x.1 = true) (hb : b ∈ presented x.1) : (bough (partialEnd x) b).halted = true := by
  obtain ⟨s, _ | bad⟩ := x
  · cases h
  · exact stopConsumer_halted bad 0 hopen hj hb

/-- A copy that no command ordered (R151). -/
theorem substDone_alone {s : State} {n b b' : Nat} (hc : (s.integ.copies.find? fun c => c.1 = n) = some (n, b, b'))
    (hcmd : s.integ.substCmds = []) : substDone s n = deliverHeld (substFinish s n b b') n := by
  have hsame : { s with integ := { s.integ with substCmds := [] } } = s := by rw [← hcmd]
  simp [substDone, hc, hcmd, hsame]

end Sys2Proof.Machine

namespace Sys2Proof.Settled

open Sys2Proof.Machine

/-- Bough 1 is presented as 0 and as 1; its copy to spare 64 for number 0 is done, its Crib's first codeword is lost, and the
network holds a partial for that codeword. A job is loaded and no step is open. -/
def twicePresented : State :=
  { rst := { mainPg := true }, host := { job := some { handle := 0, strict := false, nout := 0, start := 0 } }
    regs := [(Reg.BGH_PMAP 0, 1#32)]
    integ := { copies := [(0, 1, 64)], heldParts := [(0, 0, 0)] }
    ecc := { cw := [(4 * cribBase 1, { lost := true })] } }

/-- The write of the held partial, after the spare has taken over. -/
def partialPlaced : State × Option Bad :=
  placePartial { substFinish twicePresented 0 1 64 with
    integ := { (substFinish twicePresented 0 1 64).integ with heldParts := [], heldBars := [] } } 0 0 0

/-- The partial meets the lost codeword, with the job loaded, no step open and bough 1 presented still. -/
theorem partialPlaced_fails : partialPlaced.2.isSome = true ∧ stepOpen partialPlaced.1 = false
    ∧ jobLoaded partialPlaced.1 = true ∧ 1 ∈ presented partialPlaced.1 := by decide +kernel

theorem spareFinished_held : (substFinish twicePresented 0 1 64).integ.heldParts = [(0, 0, 0)]
    ∧ (substFinish twicePresented 0 1 64).integ.heldBars = [] ∧ (substFinish twicePresented 0 1 64).bars = [] := by
  decide +kernel

/-- The bough that 0 was presented on is presented as 1 still, and the end of the job halts it. -/
theorem twicePresented_halted : (bough (substDone twicePresented 0) 1).halted = true := by
  obtain ⟨hparts, hbars, hunits⟩ := spareFinished_held
  obtain ⟨hfails, hopen, hjob, hpresented⟩ := partialPlaced_fails
  have hmine : (substFinish twicePresented 0 1 64).integ.heldParts.filter (fun x => x.1 = 0) = [(0, 0, 0)] := by
    rw [hparts]; rfl
  have hrest : (substFinish twicePresented 0 1 64).integ.heldParts.filter (fun x => x.1 ≠ 0) = [] := by
    rw [hparts]; rfl
  rw [substDone_alone (n := 0) (b := 1) (b' := 64) rfl rfl, deliverHeld_partials hbars hunits, hmine, hrest,
    List.foldl_cons, List.foldl_nil]
  change (bough (partialEnd partialPlaced) 1).halted = true
  exact partialEnd_halted hfails hopen hjob hpresented

/-- Refutes O14: where the bough that fails is presented under a second number, what its end of the job leaves there is not
an empty bough. -/
theorem not_boughSubstitution : ¬ Obligations.BoughSubstitution := by
  unfold Obligations.BoughSubstitution
  rintro ⟨-, hspare⟩
  have hlive : alive twicePresented = true := by decide +kernel
  have hexec : exec (.substitutionCopyDone 0) twicePresented = finish twicePresented (substDone twicePresented 0) := rfl
  obtain ⟨t, ht, -, hempty, -⟩ := hspare twicePresented 0 1 64 hlive (by decide) (by decide) (by decide) (by decide)
    (by decide)
  rw [hexec, finish_alive hlive] at ht
  obtain rfl := Host.Outcome.next.inj ht
  rw [ended_bough] at hempty
  have hhalt := twicePresented_halted
  rw [hempty] at hhalt
  cases hhalt

end Sys2Proof.Settled
end

section
/-! PROOF. Semaphores (R140, R141): the wait, the signal, and the counts that arrive together. -/

namespace Sys2Proof.Machine

/-- The network without what is addressed to semaphore k of presented bough n. -/
def netTaken (s : State) (n k : Nat) : State := { s with net := s.net.filter fun x => !(x.bough = n && x.sem = k) }

/-- The counts on the network for semaphore k of presented bough n. -/
def netCount (s : State) (n k : Nat) : Nat := ((s.net.filter fun x => x.bough = n && x.sem = k).map (·.count)).sum

theorem semSignal_arriving {s : State} {n k : Nat} (hheld : netHeld s n = false) (hb : phys s n < 68)
    (h : ∃ x ∈ s.net, x.bough = n ∧ x.sem = k) :
    semSignal s n k = semRelease (semAdd (netTaken s n k) (phys s n) k (netCount s n k)) n (phys s n) := by
  obtain ⟨x, hx, hn, hk⟩ := h
  have harr : (s.net.filter fun x => x.bough = n && x.sem = k).isEmpty = false := by
    rw [List.isEmpty_eq_false_iff_exists_mem]
    exact ⟨x, List.mem_filter.2 ⟨hx, by simp [hn, hk]⟩⟩
  have hstop : (netHeld s n || decide (68 ≤ phys s n) || (s.net.filter fun x => x.bough = n && x.sem = k).isEmpty) = false := by
    simp only [hheld, harr, Bool.or_false, Bool.false_or, decide_eq_false_iff_not]
    omega
  unfold semSignal
  simp only [hstop, Bool.false_eq_true, if_false]
  rfl

/-- Counts past zero come from a signal on the network. -/
theorem exists_of_netCount {s : State} {n k : Nat} (h : 0 < netCount s n k) : ∃ x ∈ s.net, x.bough = n ∧ x.sem = k := by
  obtain ⟨c, hc, -⟩ := List.exists_mem_ne_zero_of_sum_ne_zero (Nat.ne_of_gt h)
  obtain ⟨x, hx, -⟩ := List.mem_map.1 hc
  obtain ⟨hmem, hx⟩ := List.mem_filter.1 hx
  exact ⟨x, hmem, by simpa using hx⟩

theorem semRelease_idle {s : State} {n b : Nat} (h : fld s (Reg.BGH_STATUS b) Fld.BGH_STATUS_SEMWAIT = 0) :
    semRelease s n b = s := by
  simp [semRelease, h]

theorem semRelease_halted {s : State} {n b : Nat} (h : (bough s (phys s n)).halted = true) : semRelease s n b = s := by
  unfold semRelease
  split
  · rw [walkTo_halted h]
  · rfl

theorem semAdd_fits {s : State} {b k c : Nat} (h : sem s b k + c ≤ 2 ^ 24 - 1) :
    semAdd s b k c = setFld s (Reg.BGH_SEM b k) Fld.BGH_SEM_COUNT (sem s b k + c) := if_neg (Nat.not_lt.2 h)

/-- The semaphore at its maximum and SEMOVF set, before the pre-emption. -/
def semFull (s : State) (b k : Nat) : State :=
  raise (setFld s (Reg.BGH_SEM b k) Fld.BGH_SEM_COUNT (2 ^ 24 - 1)) (Reg.BGH_INTSTAT b) Fld.BGH_INTSTAT_SEMOVF.bit

theorem semAdd_over {s : State} {b k c : Nat} (h : 2 ^ 24 - 1 < sem s b k + c) :
    semAdd s b k c = preemptOne (semFull s b k) b := if_pos h

theorem semFull_sem (s : State) (b k : Nat) : sem (semFull s b k) b k = 2 ^ 24 - 1 := by
  refine (sem_of_reg (reg_raise_ne _ _ ?_)).trans (sem_setFld s b k (2 ^ 24 - 1) (by decide))
  simp only [Reg.BGH_SEM, Reg.BGH_INTSTAT]
  omega

theorem semFull_semovf (s : State) (b k : Nat) :
    fld (semFull s b k) (Reg.BGH_INTSTAT b) Fld.BGH_INTSTAT_SEMOVF = 1 := fld_raise _ _ _ (by decide)

/-- A field and an event: memory and the network stand. -/
theorem raise_setFld_keeps (s : State) (a a' v m : Nat) (f : Fld) :
    MemSame s (raise (setFld s a f v) a' m) ∧ (raise (setFld s a f v) a' m).net = s.net := ⟨⟨rfl, rfl⟩, rfl⟩

theorem semFull_memSame (s : State) (b k : Nat) : MemSame s (semFull s b k) := (raise_setFld_keeps s _ _ _ _ _).1

theorem semFull_net (s : State) (b k : Nat) : (semFull s b k).net = s.net := (raise_setFld_keeps s _ _ _ _ _).2

/-- The pre-emption of a bough within a job: the bough is halted, its events and what it counted stand. -/
theorem preemptOne_frame (s : State) (b : Nat) :
    ∃ u, StopFrame b s u ∧ JobFrame u (preemptOne s b) ∧ (bough (preemptOne s b) b).halted = true :=
  ⟨preempt s b, preempt_frame s b, jobStopCheck_jobFrame _, by
    rw [preemptOne, (jobStopCheck_jobFrame _).bough_eq, preempt_halted]⟩

end Sys2Proof.Machine

namespace Sys2Proof.Settled

open Sys2Proof.Machine

theorem semaphoreItems : Statements.SemaphoreItems := by
  refine ⟨fun s u n b i body ha _ hw hf hi => ⟨fun hk hc => ?_, fun hk => ?_⟩, fun s n k ha hheld hb _ hex hwait hsum => ?_⟩
  · refine runs_control rfl ha hw hk (by simpa [hk] using hf) ?_
    rw [semwaitOf_enough hc]
    have hk7 := bitsN_lt i.w1 6 0
    have hitem : Reg.BGH_ITEM b ∉ [Reg.BGH_SEM b (bitsN i.w1 6 0), Reg.BGH_STATUS b] := by
      simp only [Reg.BGH_ITEM, Reg.BGH_SEM, Reg.BGH_STATUS, List.mem_cons, List.not_mem_nil, or_false]
      omega
    obtain ⟨honly, hidx⟩ := onlyRegs_advance (s := s) rfl (semTaken_regs u b (bitsN i.w1 6 0) (bitsN i.w2 23 0)) hitem hi
    have hidx' := itemIdx_keeps (semTaken_regs u b (bitsN i.w1 6 0) (bitsN i.w2 23 0)) hitem
    have hkeep (a : Nat) (h : a ≠ Reg.BGH_ITEM b) := advance_regs (hidx'.symm ▸ hi) a (by simpa using h)
    refine ⟨honly, ?_, ?_, hidx⟩
    · exact (sem_of_reg (hkeep _ (by simp only [Reg.BGH_ITEM, Reg.BGH_SEM]; omega))).trans (semTaken_sem _)
    · exact (fld_of_reg (hkeep _ (by simp only [Reg.BGH_ITEM, Reg.BGH_STATUS]; omega)) _).trans (semTaken_semwait u b _ _)
  · refine runs_control rfl ha hw hk (by simpa [hk] using hf) ?_
    exact onlyRegs_advance (l := []) rfl (fun _ _ => rfl) (by simp) hi
  · have hexec : exec (.semaphoreSignal n k) s = finish s (semSignal s n k) := rfl
    have hadd : semAdd (netTaken s n k) (phys s n) k (netCount s n k) =
        setFld (netTaken s n k) (Reg.BGH_SEM (phys s n) k) Fld.BGH_SEM_COUNT (sem s (phys s n) k + netCount s n k) :=
      semAdd_fits hsum
    rw [semSignal_arriving hheld hb hex, hadd, semRelease_idle] at hexec
    · refine runs_finish hexec ha ⟨onlyRegs_ended rfl fun a hna => reg_setFld_ne _ _ _ fun h => hna (by simp [h]), ?_⟩
      exact sem_setFld _ _ _ _ (by unfold netCount; omega)
    · rw [← hwait]
      exact fld_of_reg (reg_setFld_ne _ _ _ (by simp only [Reg.BGH_SEM, Reg.BGH_STATUS]; omega)) _

theorem semaphoreOverflow : Statements.SemaphoreOverflow := by
  intro s n k ha hheld hb hk hsum
  have hexec : exec (.semaphoreSignal n k) s = finish s (semSignal s n k) := rfl
  have hpos : 0 < netCount s n k := by
    have := sem_lt s (phys s n) k
    unfold netCount
    omega
  have hover : semAdd (netTaken s n k) (phys s n) k (netCount s n k) =
      preemptOne (semFull (netTaken s n k) (phys s n) k) (phys s n) := semAdd_over hsum
  obtain ⟨u, hp, hj, hhalt⟩ := preemptOne_frame (semFull (netTaken s n k) (phys s n) k) (phys s n)
  have hphys : phys (preemptOne (semFull (netTaken s n k) (phys s n) k) (phys s n)) n = phys s n := by
    rw [hj.phys_eq, hp.phys_eq hb]
    refine phys_of_reg ((reg_raise_ne _ _ ?_).trans (reg_setFld_ne _ _ _ ?_)) <;>
      simp only [Reg.BGH_PMAP, Reg.BGH_INTSTAT, Reg.BGH_SEM] <;> omega
  rw [semSignal_arriving hheld hb (exists_of_netCount hpos), hover, semRelease_halted (by rw [hphys]; exact hhalt)] at hexec
  refine runs_finish hexec ha ⟨hhalt, ?_, ?_, ?_, ?_⟩
  · rw [ended_fld, fld_of_reg (hj.bghReg (by simp only [Reg.BGH_INTSTAT]; omega) (by simp only [Reg.BGH_INTSTAT]; omega))]
    exact hp.events _ (semFull_semovf _ _ _)
  · refine (sem_of_reg ?_).trans (semFull_sem (netTaken s n k) _ _)
    rw [ended_reg, hj.bghReg (by simp only [Reg.BGH_SEM]; omega) (by simp only [Reg.BGH_SEM]; omega),
      hp.reg_eq (by simp only [Reg.BGH_SEM, Reg.BGH_STATUS]; omega) (by simp only [Reg.BGH_SEM, Reg.BGH_INTSTAT]; omega)]
  · exact hj.net.trans (hp.net.trans (semFull_net _ _ _))
  · exact (semFull_memSame (netTaken s n k) (phys s n) k).trans (hp.memSame.trans hj.memSame)

/-- Settles O10: the items and the counts that fit, and the counts that do not. -/
theorem semaphores : Obligations.Semaphores := ⟨semaphoreItems, semaphoreOverflow⟩

end Sys2Proof.Settled
end

section
/-! PROOF. Barriers (R143): an arrival that completes its mask, and one that waits. -/

namespace Sys2Proof.Machine

theorem bitList_zero (w k : Nat) : bitList w k 0 = [] := by
  induction w generalizing k with
  | zero => rfl
  | succ w ih => simp [bitList, ih]

theorem bitList_two_pow {w n : Nat} (k : Nat) (h : n < w) : bitList w k (2 ^ n) = [k + n] := by
  induction w generalizing n k with
  | zero => omega
  | succ w ih =>
    cases n with
    | zero => simp [bitList, bitList_zero]
    | succ n =>
      have hhalf : 2 ^ (n + 1) / 2 = 2 ^ n := by omega
      have heven : ¬ 2 ^ (n + 1) % 2 = 1 := by omega
      rw [bitList, if_neg heven, hhalf, ih (k + 1) (by omega), Nat.add_assoc, Nat.add_comm 1]

/-- The mask of one bough names that bough. -/
theorem maskBoughs_two_pow {n : Nat} (h : n < 64) : maskBoughs (2 ^ n) = [n] := by
  rw [maskBoughs, bitList_two_pow 0 h, Nat.zero_add]

theorem barSt_setBar_self (s : State) (k : Nat) (x : BarSt) : barSt (setBar s k x) k = x := kget_kset_self _ _ _ _

theorem barSt_congr {s t : State} (h : t.bars = s.bars) (k : Nat) : barSt t k = barSt s k := by rw [barSt, barSt, h]

/-- Bough b stands at the barrier of unit k. -/
def barWaits (s : State) (b k : Nat) : State := setBough s b { bough s b with barWait := some k }

/-- An arrival at a free unit that completes the mask (R143). -/
theorem barArrive_last {s : State} {n b k mask : Nat} (hfree : barSt s k = {}) (hm : maskBoughs mask = [n]) :
    barArrive s n b k mask = barReleaseOne k (barWaits (setBar s k {}) b k) n := by
  unfold barArrive
  simp [hfree, hm]
  rfl

/-- Presented bough n is the first to arrive at unit k, and waits. -/
def barFirst (s : State) (n b k mask : Nat) : State := barWaits (setBar s k { mask := mask, arrived := [n] }) b k

/-- An arrival at a free unit while a member is missing (R143). -/
theorem barArrive_first {s : State} {n b k mask : Nat} (hfree : barSt s k = {}) (hm : ∃ m ∈ maskBoughs mask, m ≠ n) :
    barArrive s n b k mask = setFld (showArrived (barFirst s n b k mask) k mask 1) (Reg.BGH_STATUS b)
      Fld.BGH_STATUS_BARWAIT 1 := by
  have hall : ((maskBoughs mask).all fun m => [n].contains m) = false := by
    obtain ⟨m, hm, hne⟩ := hm
    exact List.all_eq_false.2 ⟨m, hm, by simpa using hne⟩
  unfold barArrive
  simp only [hfree, List.isEmpty_nil, Bool.not_true, Bool.false_and, Bool.false_eq_true, if_false, List.nil_append, hall]
  rfl

/-- The state in which the bough of a released BARRIER walks on. -/
def barPassed (s : State) (b k : Nat) : State :=
  setFld (setBough (setRegN s (Reg.BGH_BAR b k) (1 - fld s (Reg.BGH_BAR b k) Fld.BGH_BAR_GEN)) b
    { bough s b with barWait := none }) (Reg.BGH_STATUS b) Fld.BGH_STATUS_BARWAIT 0

theorem barReleaseOne_waits {s : State} {b k n : Nat} (hheld : netHeld s n = false) (hb : phys s n = b)
    (hw : (bough s b).barWait = some k) : barReleaseOne k s n = advance (barPassed s b k) b := by
  subst hb
  have hkeep : bough (setRegN s (Reg.BGH_BAR (phys s n) k) (1 - fld s (Reg.BGH_BAR (phys s n) k) Fld.BGH_BAR_GEN)) (phys s n) =
      bough s (phys s n) := rfl
  unfold barReleaseOne
  simp only [hheld, Bool.false_eq_true, if_false, hkeep, hw, if_true]
  rfl

theorem barPassed_regs (s : State) (b k : Nat) : RegsBut s (barPassed s b k) [Reg.BGH_BAR b k, Reg.BGH_STATUS b] := by
  intro a ha
  simp only [List.mem_cons, List.not_mem_nil, or_false, not_or] at ha
  exact (reg_setFld_ne _ _ _ (Ne.symm ha.2)).trans (reg_setRegN_ne _ _ (Ne.symm ha.1))

theorem fld_setRegN_bit (s : State) (a : Nat) {v : Nat} (h : v < 2) : fld (setRegN s a v) a ⟨0, 0⟩ = v := by
  rw [fld, setRegN, reg_setReg_self]
  simp only [Fld.get, bitsN, BitVec.toNat_ofNat]
  omega

theorem barPassed_gen (s : State) (b k : Nat) :
    fld (barPassed s b k) (Reg.BGH_BAR b k) Fld.BGH_BAR_GEN = 1 - fld s (Reg.BGH_BAR b k) Fld.BGH_BAR_GEN := by
  have hg : fld s (Reg.BGH_BAR b k) Fld.BGH_BAR_GEN < 2 := bitsN_lt _ 0 0
  rw [barPassed, fld_of_reg (reg_setFld_ne _ _ _ (by simp only [Reg.BGH_BAR, Reg.BGH_STATUS]; omega))]
  exact (fld_setRegN_bit _ _ (by omega))

theorem barPassed_bough (s : State) (b k : Nat) : bough (barPassed s b k) b = { bough s b with barWait := none } :=
  bough_setBough_self _ _ _

/-- The only member of a mask passes its BARRIER as it arrives. -/
theorem barArrive_alone {s : State} {n b k : Nat} (hn : n < 64) (hfree : barSt s k = {}) (hheld : netHeld s n = false)
    (hb : phys s n = b) :
    barArrive s n b k (2 ^ n) = advance (barPassed (barWaits (setBar s k {}) b k) b k) b := by
  rw [barArrive_last hfree (maskBoughs_two_pow hn)]
  exact barReleaseOne_waits (s := barWaits (setBar s k {}) b k) hheld hb (congrArg BoughSt.barWait (bough_setBough_self _ _ _))

/-- The members of a mask see how many have arrived: BGH_BAR of each alone. -/
theorem showArrived_frame (s : State) (k mask c : Nat) : showArrived s k mask c = { s with regs := (showArrived s k mask c).regs }
    ∧ ∀ a, (∀ p, a ≠ Reg.BGH_BAR p k) → reg (showArrived s k mask c) a = reg s a :=
  List.foldlRecOn (motive := fun t => t = { s with regs := t.regs } ∧ ∀ a, (∀ p, a ≠ Reg.BGH_BAR p k) → reg t a = reg s a)
    _ _ ⟨rfl, fun _ _ => rfl⟩ fun t ⟨hform, hregs⟩ m _ =>
      ⟨by rw [hform]; rfl, fun a ha => (reg_setFld_ne _ _ _ (Ne.symm (ha _))).trans (hregs a ha)⟩

end Sys2Proof.Machine

namespace Sys2Proof.Settled

open Sys2Proof.Machine

/-- Settles O11: the lone member passes, the first of several waits. -/
theorem barrierItems : Obligations.BarrierItems := by
  unfold Obligations.BarrierItems
  intro s u n b i body ha hb hbn hphys hw hk hret hfree hi hheld
  have hk5 := bitsN_lt i.w1 4 0
  refine ⟨fun hmask hn => ?_, fun hm => ?_⟩
  · refine runs_control rfl ha hw hk (fun _ => hret) ?_
    rw [barrierOf, hmask, barArrive_alone hn hfree hheld (hphys.trans hbn.symm)]
    have hregs := barPassed_regs (barWaits (setBar u (bitsN i.w1 4 0) {}) b (bitsN i.w1 4 0)) b (bitsN i.w1 4 0)
    have hidx := itemIdx_keeps (b := b) hregs (by
      simp only [Reg.BGH_ITEM, Reg.BGH_BAR, Reg.BGH_STATUS, List.mem_cons, List.not_mem_nil, or_false]; omega)
    have hgo := hidx.symm ▸ hi
    refine ⟨?_, ?_, (itemIdx_advance hgo).trans (by rw [hidx]; rfl), ?_⟩
    · rw [advance_eq hgo]
      exact (barSt_congr (s := setBar u (bitsN i.w1 4 0) {}) rfl _).trans (barSt_setBar_self u _ _)
    · rw [advance_eq hgo]; exact congrArg BoughSt.barWait (barPassed_bough _ b _)
    · exact (fld_of_reg (advance_regs hgo _ (by simp [Reg.BGH_ITEM, Reg.BGH_BAR]; omega)) _).trans (barPassed_gen _ _ _)
  · refine runs_control rfl ha hw hk (fun _ => hret) ?_
    rw [barrierOf, barArrive_first hfree hm]
    obtain ⟨hform, hregs⟩ := showArrived_frame (barFirst u n b (bitsN i.w1 4 0)
      (reg64 u (Reg.BGH_BARMASK_LO b (bitsN i.w1 4 0)))) (bitsN i.w1 4 0) (reg64 u (Reg.BGH_BARMASK_LO b (bitsN i.w1 4 0))) 1
    have hbar := barSt_setBar_self u (bitsN i.w1 4 0) { mask := reg64 u (Reg.BGH_BARMASK_LO b (bitsN i.w1 4 0)), arrived := [n] }
    refine ⟨?_, ?_, ?_, fld_setFld _ _ _ _ (by decide) (by decide), itemIdx_of_reg ?_⟩
    · rw [hform]; exact congrArg BoughSt.barWait (bough_setBough_self _ _ _)
    · rw [hform]; exact congrArg BarSt.arrived hbar
    · rw [hform]; exact congrArg BarSt.mask hbar
    · rw [ended_reg, reg_setFld_ne _ _ _ (by simp only [Reg.BGH_ITEM, Reg.BGH_STATUS]; omega),
        hregs _ fun p => by simp only [Reg.BGH_ITEM, Reg.BGH_BAR]; omega]
      rfl

end Sys2Proof.Settled
end

section
/-! PROOF. The retirement of a work item (R132, R138, R148): what it frees, and what follows of a chain and of a
pre-emption. -/

namespace Sys2Proof.Machine

/-- From `s` to `t` registers and the steps change, and nothing else. -/
def RegsAndSteps (s t : State) : Prop := t = { s with regs := t.regs, step := t.step }

theorem RegsAndSteps.refl (s : State) : RegsAndSteps s s := rfl

theorem RegsAndSteps.trans {s t u : State} (h : RegsAndSteps s t) (h' : RegsAndSteps t u) : RegsAndSteps s u := by
  unfold RegsAndSteps at *
  rw [h', h]

theorem setReg64_regsAndSteps (s : State) (a v : Nat) : RegsAndSteps s (setReg64 s a v) := rfl

theorem setFld_regsAndSteps (s : State) (a : Nat) (f : Fld) (v : Nat) : RegsAndSteps s (setFld s a f v) := rfl

theorem setRegN_regsAndSteps (s : State) (a v : Nat) : RegsAndSteps s (setRegN s a v) := rfl

theorem raise_regsAndSteps (s : State) (a m : Nat) : RegsAndSteps s (raise s a m) := rfl

theorem regsAndSteps_bump64_setFld (s : State) (a a' v n : Nat) (f : Fld) :
    RegsAndSteps s (bump64 (setFld s a f v) a' n) := (setFld_regsAndSteps s a f v).trans (setReg64_regsAndSteps _ _ _)

theorem RegsAndSteps.memSame {s t : State} (h : RegsAndSteps s t) : MemSame s t := by rw [h]; exact ⟨rfl, rfl⟩
theorem RegsAndSteps.net {s t : State} (h : RegsAndSteps s t) : t.net = s.net := by rw [h]
theorem RegsAndSteps.host {s t : State} (h : RegsAndSteps s t) : t.host = s.host := by rw [h]
theorem RegsAndSteps.bough {s t : State} (h : RegsAndSteps s t) (b : Nat) : bough t b = Machine.bough s b := by rw [h]; rfl

theorem regsAndSteps_step (s : State) (x : StepSt) : RegsAndSteps s { s with step := x } := rfl

theorem syncBstat_regsAndSteps (s : State) : RegsAndSteps s (syncBstat s) := rfl

theorem syncDry_regsAndSteps (s : State) : RegsAndSteps s (syncDry s) := by
  unfold syncDry
  split
  · rfl
  · split <;> rfl

theorem raiseBlight_regsAndSteps (s : State) (src : Nat) : RegsAndSteps s (raiseBlight s src) := by
  have hreport : RegsAndSteps s (reportBlight s src) := rfl
  have hstep (x : OpenStep) : RegsAndSteps s (blightStep s x.start src) :=
    ((hreport.trans (regsAndSteps_step _ _)).trans (syncDry_regsAndSteps _)).trans (syncBstat_regsAndSteps _)
  unfold raiseBlight
  dsimp only
  split
  · split
    · exact hstep _
    · exact hreport.trans rfl
  · exact hreport.trans rfl

/-! ## What follows a retirement -/

/-- From `s` to `t` a chain that bough b retires has raised Blight, a bough has stopped or a job has ended: memory, the
networks and what b has in flight stand, and so do the registers of the boughs and Threshers but the flags of b. -/
structure AfterRetire (b : Nat) (s t : State) : Prop where
  mem : MemSame s t
  net : t.net = s.net
  sb : (bough t b).sb = (bough s b).sb
  halted : (bough s b).halted = true → (bough t b).halted = true
  regs : ∀ a, 0x2000000 ≤ a → a < 0x4000000 → a ≠ Reg.BGH_STATUS b → a ≠ Reg.BGH_INTSTAT b → a ≠ Reg.THR_INTSTAT b →
    reg t a = reg s a
  fields : ∀ g : Fld, 4 ≤ g.lo → g.lo ≤ g.hi → fld t (Reg.BGH_STATUS b) g = fld s (Reg.BGH_STATUS b) g

theorem AfterRetire.refl (b : Nat) (s : State) : AfterRetire b s s :=
  ⟨⟨rfl, rfl⟩, rfl, rfl, id, fun _ _ _ _ _ _ => rfl, fun _ _ _ => rfl⟩

theorem AfterRetire.trans {b : Nat} {s t u : State} (h : AfterRetire b s t) (h' : AfterRetire b t u) :
    AfterRetire b s u where
  mem := h.mem.trans h'.mem
  net := h'.net.trans h.net
  sb := h'.sb.trans h.sb
  halted hs := h'.halted (h.halted hs)
  regs a h1 h2 h3 h4 h5 := (h'.regs a h1 h2 h3 h4 h5).trans (h.regs a h1 h2 h3 h4 h5)
  fields g hl hg := (h'.fields g hl hg).trans (h.fields g hl hg)

theorem StopFrame.afterRetire {b : Nat} {s t : State} (h : StopFrame b s t) : AfterRetire b s t :=
  ⟨h.memSame, h.net, h.sb, h.halted, fun _ _ _ h1 h2 _ => h.reg_eq h1 h2, h.fields⟩

theorem JobFrame.afterRetire {b : Nat} {s t : State} (h : JobFrame s t) (hb : b < 68) : AfterRetire b s t :=
  ⟨h.memSame, h.net, by rw [h.bough_eq], by rw [h.bough_eq]; exact id, fun _ h1 h2 _ _ _ => h.bghReg h1 h2,
    fun g _ _ => fld_of_reg (h.status hb) g⟩

/-- A change of registers outside the boughs and the Threshers, or of the events of b, and of the steps. -/
theorem afterRetire_of_regs {b : Nat} {s t : State} {l : List Nat} (hb : b < 68)
    (hform : RegsAndSteps s t) (hr : RegsBut s t l)
    (hl : ∀ a ∈ l, 0x2000000 ≤ a → a < 0x4000000 → a = Reg.BGH_INTSTAT b ∨ a = Reg.THR_INTSTAT b) : AfterRetire b s t := by
  have hregs (a : Nat) (h1 : 0x2000000 ≤ a) (h2 : a < 0x4000000) (h4 : a ≠ Reg.BGH_INTSTAT b) (h5 : a ≠ Reg.THR_INTSTAT b) :
      reg t a = reg s a := hr a fun ha => (hl a ha h1 h2).elim h4 h5
  refine ⟨hform.memSame, hform.net, by rw [hform.bough], by rw [hform.bough]; exact id, fun a h1 h2 _ => hregs a h1 h2,
    fun g _ _ => fld_of_reg (hregs (Reg.BGH_STATUS b) ?_ ?_ ?_ ?_) g⟩ <;>
    simp only [Reg.BGH_STATUS, Reg.BGH_INTSTAT, Reg.THR_INTSTAT] <;> omega

/-! ## The retirement of a chain (R132, R247, R252, R656) -/

/-- THR_CHAINS counts the chain, and the Thresher stands idle. -/
def chainCounted (s : State) (b : Nat) : State :=
  setRegN (setReg64 s (Reg.THR_CHAINS_LO b) (min (reg64 s (Reg.THR_CHAINS_LO b) + 1) (2 ^ 64 - 1))) (Reg.THR_STATUS b) 0

/-- A chain that ended well leaves its summary where SUMEN asks for it. -/
def chainSummed (s : State) (b : Nat) (e : SbEntry) : State :=
  if bitN e.w0 23 && !e.stopped && !e.badCfg then setSlot s b (bitsN e.w0 22 18) e.summary else s

/-- Blight where NFBLIGHT asks for it. -/
def chainBlight (s : State) (b : Nat) (e : SbEntry) : State :=
  if (chainOf e.body).nfblight && e.nonfin ≠ 0 && stepOpen s then
    raise (raiseBlight s srcNonfin) (Reg.THR_INTSTAT b) Fld.THR_INTSTAT_BLIGHT.bit
  else s

/-- A refused configuration is an item error. -/
def chainBadCfg (s : State) (b : Nat) (e : SbEntry) : State :=
  if e.badCfg then preempt (raise s (Reg.BGH_INTSTAT b) Fld.BGH_INTSTAT_ITEMERR.bit) b else s

theorem retireChain_eq (s : State) (b : Nat) (e : SbEntry) :
    retireChain s b e = chainBadCfg (chainBlight (chainSummed (chainCounted s b) b e) b e) b e := rfl

theorem raise_afterRetire (s : State) {b a : Nat} (m : Nat) (hb : b < 68)
    (h : a = Reg.BGH_INTSTAT b ∨ a = Reg.THR_INTSTAT b) : AfterRetire b s (raise s a m) :=
  afterRetire_of_regs (l := [a]) hb (raise_regsAndSteps s a m) (fun _ hc => reg_raise_ne _ _ fun h => hc (by simp [h]))
    fun c hc _ _ => by rwa [List.mem_singleton.1 hc]

theorem raiseBlight_afterRetire (s : State) {b : Nat} (src : Nat) (hb : b < 68) : AfterRetire b s (raiseBlight s src) := by
  refine afterRetire_of_regs hb (raiseBlight_regsAndSteps s src) (raiseBlight_regs s src) ?_
  simp only [blightRegs, Reg.FRM_EVSEQ_LO, Reg.MIL_BSTAT, Reg.MIL_STATUS, List.mem_cons, List.not_mem_nil, or_false]
  omega

theorem chainBlight_after (s : State) {b : Nat} (e : SbEntry) (hb : b < 68) : AfterRetire b s (chainBlight s b e) := by
  unfold chainBlight
  split
  · exact (raiseBlight_afterRetire s _ hb).trans (raise_afterRetire _ _ hb (.inr rfl))
  · exact .refl b s

theorem chainBadCfg_after (s : State) {b : Nat} (e : SbEntry) (hb : b < 68) : AfterRetire b s (chainBadCfg s b e) := by
  unfold chainBadCfg
  split
  · exact (raise_afterRetire s _ hb (.inl rfl)).trans (preempt_frame _ b).afterRetire
  · exact .refl b s

/-- What a chain counts and leaves: THR_CHAINS, THR_STATUS and the slot it names. -/
theorem chainLeft_regs (s : State) (b : Nat) (e : SbEntry) :
    RegsBut s (chainSummed (chainCounted s b) b e) [Reg.THR_CHAINS_LO b, Reg.THR_CHAINS_HI b, Reg.THR_STATUS b,
      Reg.BGH_SLOT_LO b (bitsN e.w0 22 18), Reg.BGH_SLOT_HI b (bitsN e.w0 22 18)] := by
  have hcount : RegsBut s (chainCounted s b) [Reg.THR_CHAINS_LO b, Reg.THR_CHAINS_HI b, Reg.THR_STATUS b] := by
    intro a ha
    simp only [List.mem_cons, List.not_mem_nil, or_false, not_or] at ha
    obtain ⟨hlo, hhi, hst⟩ := ha
    refine (reg_setRegN_ne _ _ (Ne.symm hst)).trans (reg_setReg64_ne _ _ (Ne.symm hlo) fun h => hhi ?_)
    rw [← h, Reg.THR_CHAINS_LO, Reg.THR_CHAINS_HI]
    omega
  refine hcount.trans (m := [Reg.BGH_SLOT_LO b (bitsN e.w0 22 18), Reg.BGH_SLOT_HI b (bitsN e.w0 22 18)]) ?_
  unfold chainSummed
  split
  · exact setSlot_regs _ _ _ _
  · exact fun _ _ => rfl

theorem chainLeft_regsAndSteps (s : State) (b : Nat) (e : SbEntry) :
    RegsAndSteps s (chainSummed (chainCounted s b) b e) := by
  refine ((setReg64_regsAndSteps s _ _).trans (setRegN_regsAndSteps _ _ _)).trans (t := chainCounted s b) ?_
  unfold chainSummed
  split
  · exact setReg64_regsAndSteps _ _ _
  · rfl

theorem chainCounted_chains (s : State) (b : Nat) : reg64 (chainCounted s b) (Reg.THR_CHAINS_LO b) =
    min (reg64 s (Reg.THR_CHAINS_LO b) + 1) (2 ^ 64 - 1) := by
  have hkeep (u : State) : reg64 (setRegN u (Reg.THR_STATUS b) 0) (Reg.THR_CHAINS_LO b) = reg64 u (Reg.THR_CHAINS_LO b) :=
    reg64_of_reg (reg_setRegN_ne _ _ (by simp only [Reg.THR_STATUS, Reg.THR_CHAINS_LO]; omega))
      (reg_setRegN_ne _ _ (by simp only [Reg.THR_STATUS, Reg.THR_CHAINS_LO]; omega))
  rw [chainCounted, hkeep, reg64_setReg64]
  exact Nat.mod_eq_of_lt (by omega)

theorem chainLeft_chains (s : State) {b : Nat} (e : SbEntry) (_hb : b < 68) :
    reg64 (chainSummed (chainCounted s b) b e) (Reg.THR_CHAINS_LO b) =
      min (reg64 s (Reg.THR_CHAINS_LO b) + 1) (2 ^ 64 - 1) := by
  rw [← chainCounted_chains]
  unfold chainSummed
  have hk := bitsN_lt e.w0 22 18
  split
  · refine reg64_setReg64_ne _ _ ?_ ?_ ?_ <;> simp only [Reg.BGH_SLOT_LO, Reg.THR_CHAINS_LO] <;> omega
  · rfl

theorem chainLeft_slot (s : State) (b : Nat) {e : SbEntry} (hsum : bitN e.w0 23 = true) (hstop : e.stopped = false)
    (hcfg : e.badCfg = false) :
    slot (chainSummed (chainCounted s b) b e) b (bitsN e.w0 22 18) = e.summary % 2 ^ 64 := by
  have hleft : (bitN e.w0 23 && !e.stopped && !e.badCfg) = true := by simp [hsum, hstop, hcfg]
  rw [chainSummed, if_pos hleft, slot_setSlot]

/-! ## The retirement -/

theorem setBough_memSame (s : State) (b : Nat) (x : BoughSt) : MemSame s (setBough s b x) := ⟨rfl, rfl⟩

theorem setBough_reg (s : State) (b : Nat) (x : BoughSt) (a : Nat) : reg (setBough s b x) a = reg s a := rfl

/-- Without the entry of a work item: nothing names it any more. -/
def entryTaken (s : State) (b : Nat) (e : SbEntry) : State :=
  let carts := s.carts.map fun (k, c) => (k, if c.bough = some b && c.entry = e.id then { c with bough := none } else c)
  let s := setBough { s with carts := carts } b { bough s b with sb := (bough s b).sb.filter fun x => x.id ≠ e.id }
  setBough s b { bough s b with disputes := (bough s b).disputes.map (Dispute.retired e.id) }

/-- The entry of a work item is freed and counted, its signal not yet sent (R138). -/
def entryFreed (s : State) (b : Nat) (e : SbEntry) : State :=
  bump64 (syncSbocc (entryTaken s b e) b) (Reg.BGH_RETIRED_LO b) 1

theorem entryTaken_keeps (s : State) (b : Nat) (e : SbEntry) :
    MemSame s (entryTaken s b e) ∧ (entryTaken s b e).net = s.net ∧ (entryTaken s b e).host = s.host := ⟨⟨rfl, rfl⟩, rfl, rfl⟩

theorem entryTaken_reg (s : State) (b : Nat) (e : SbEntry) (a : Nat) : reg (entryTaken s b e) a = reg s a := by
  rw [entryTaken, setBough_reg, setBough_reg]
  rfl

theorem entryFreed_taken (s : State) (b : Nat) (e : SbEntry) : RegsAndSteps (entryTaken s b e) (entryFreed s b e) :=
  regsAndSteps_bump64_setFld _ _ _ _ _ _

/-- A freed entry, and what a chain counts and leaves. -/
def itemLeft (s : State) (b : Nat) (e : SbEntry) : State :=
  if e.w0 / 2 ^ 28 = 2 then chainSummed (chainCounted (entryFreed s b e) b) b e else entryFreed s b e

/-- A freed entry, and all that a chain brings about. -/
def entryLeft (s : State) (b : Nat) (e : SbEntry) : State :=
  if e.w0 / 2 ^ 28 = 2 then retireChain (entryFreed s b e) b e else entryFreed s b e

theorem retire_eq (s : State) (b : Nat) (e : SbEntry) :
    retire s b e = jobStopCheck (stopCheck (sendField (entryLeft s b e) e.w3) b) := rfl

theorem entryFreed_bough (s : State) (b : Nat) (e : SbEntry) : bough (entryFreed s b e) b = { bough s b with
    sb := (bough s b).sb.filter fun x => x.id ≠ e.id
    disputes := (bough s b).disputes.map (Dispute.retired e.id) } := by
  rw [(entryFreed_taken s b e).bough]
  simp only [entryTaken, bough_setBough_self]

theorem entryFreed_regs (s : State) (b : Nat) (e : SbEntry) :
    RegsBut s (entryFreed s b e) [Reg.BGH_STATUS b, Reg.BGH_RETIRED_LO b, Reg.BGH_RETIRED_LO b + 4] := by
  intro a ha
  simp only [List.mem_cons, List.not_mem_nil, or_false, not_or] at ha
  obtain ⟨hst, hlo, hhi⟩ := ha
  refine (reg_bump64_ne _ 1 (Ne.symm hlo) (Ne.symm hhi)).trans ?_
  exact (reg_setFld_ne _ _ _ (Ne.symm hst)).trans (entryTaken_reg s b e a)

theorem entryFreed_retired (s : State) (b : Nat) (e : SbEntry) :
    reg64 (entryFreed s b e) (Reg.BGH_RETIRED_LO b) = (reg64 s (Reg.BGH_RETIRED_LO b) + 1) % 2 ^ 64 := by
  have hkeep (u : State) : reg64 (syncSbocc u b) (Reg.BGH_RETIRED_LO b) = reg64 u (Reg.BGH_RETIRED_LO b) :=
    reg64_of_reg (reg_setFld_ne _ _ _ (by simp only [Reg.BGH_STATUS, Reg.BGH_RETIRED_LO]; omega))
      (reg_setFld_ne _ _ _ (by simp only [Reg.BGH_STATUS, Reg.BGH_RETIRED_LO]; omega))
  rw [entryFreed, reg64_bump64, hkeep, reg64_of_reg (entryTaken_reg s b e _) (entryTaken_reg s b e _)]

theorem entryFreed_sbocc (s : State) (b : Nat) (e : SbEntry) :
    fld (entryFreed s b e) (Reg.BGH_STATUS b) Fld.BGH_STATUS_SBOCC = (bough (entryFreed s b e) b).sb.length % 128 := by
  rw [(entryFreed_taken s b e).bough]
  refine (fld_of_reg (reg_bump64_ne _ 1 ?_ ?_) _).trans (fld_setFld _ _ _ _ (by decide) (by decide)) <;>
    simp only [Reg.BGH_STATUS, Reg.BGH_RETIRED_LO] <;> omega

theorem entryFreed_memSame (s : State) (b : Nat) (e : SbEntry) : MemSame s (entryFreed s b e) :=
  (entryTaken_keeps s b e).1.trans (entryFreed_taken s b e).memSame

theorem entryFreed_net (s : State) (b : Nat) (e : SbEntry) : (entryFreed s b e).net = s.net :=
  (entryFreed_taken s b e).net.trans (entryTaken_keeps s b e).2.1

theorem entryFreed_host (s : State) (b : Nat) (e : SbEntry) : (entryFreed s b e).host = s.host :=
  (entryFreed_taken s b e).host.trans (entryTaken_keeps s b e).2.2

theorem sendField_net (s : State) (w : Nat) : (sendField s w).net =
    if bitN w 31 then s.net ++ [⟨bitsN w 29 24, bitsN w 22 16, bitsN w 15 0⟩] else s.net := by rw [sendField_form]

theorem sendField_reg (s : State) (w a : Nat) : reg (sendField s w) a = reg s a := by rw [sendField_form]; rfl

theorem sendField_bough (s : State) (w b : Nat) : bough (sendField s w) b = bough s b := by rw [sendField_form]; rfl

theorem sendField_memSame (s : State) (w : Nat) : MemSame s (sendField s w) := by rw [sendField_form]; exact ⟨rfl, rfl⟩

theorem sendField_host (s : State) (w : Nat) : (sendField s w).host = s.host := by rw [sendField_form]

theorem itemLeft_regsAndSteps (s : State) (b : Nat) (e : SbEntry) : RegsAndSteps (entryFreed s b e) (itemLeft s b e) := by
  unfold itemLeft
  split
  · exact chainLeft_regsAndSteps _ b e
  · exact .refl _

theorem itemLeft_regs (s : State) (b : Nat) (e : SbEntry) :
    RegsBut (entryFreed s b e) (itemLeft s b e) [Reg.THR_CHAINS_LO b, Reg.THR_CHAINS_HI b, Reg.THR_STATUS b,
      Reg.BGH_SLOT_LO b (bitsN e.w0 22 18), Reg.BGH_SLOT_HI b (bitsN e.w0 22 18)] := by
  unfold itemLeft
  split
  · exact chainLeft_regs _ b e
  · exact fun _ _ => rfl

theorem entryLeft_after (s : State) {b : Nat} (e : SbEntry) (hb : b < 68) :
    AfterRetire b (itemLeft s b e) (entryLeft s b e) := by
  unfold itemLeft entryLeft
  split
  · rw [retireChain_eq]
    exact (chainBlight_after _ e hb).trans (chainBadCfg_after _ e hb)
  · exact .refl b _

/-- The registers of the walk that a retirement leaves as the freed entry and its chain left them. -/
theorem retire_regs (s : State) {b : Nat} (e : SbEntry) (hb : b < 68) {a : Nat} (h1 : 0x2000000 ≤ a) (h2 : a < 0x4000000)
    (h3 : a ≠ Reg.BGH_STATUS b) (h4 : a ≠ Reg.BGH_INTSTAT b) (h5 : a ≠ Reg.THR_INTSTAT b) :
    reg (retire s b e) a = reg (itemLeft s b e) a := by
  rw [retire_eq, ((jobStopCheck_jobFrame _).afterRetire hb).regs a h1 h2 h3 h4 h5,
    (stopCheck_frame _ b).afterRetire.regs a h1 h2 h3 h4 h5, sendField_reg, (entryLeft_after s e hb).regs a h1 h2 h3 h4 h5]

/-- Registers a and a + 4 are of the boughs and Threshers, and none of the flags that change with a stop of bough b. -/
def offBough (b a : Nat) : Prop := 0x2000000 ≤ a ∧ a + 4 < 0x4000000 ∧
  (a ≠ Reg.BGH_STATUS b ∧ a + 4 ≠ Reg.BGH_STATUS b) ∧ (a ≠ Reg.BGH_INTSTAT b ∧ a + 4 ≠ Reg.BGH_INTSTAT b) ∧
  (a ≠ Reg.THR_INTSTAT b ∧ a + 4 ≠ Reg.THR_INTSTAT b)

theorem retire_reg64 (s : State) {b a : Nat} (e : SbEntry) (hb : b < 68) (h : offBough b a) :
    reg64 (retire s b e) a = reg64 (itemLeft s b e) a := by
  obtain ⟨hlo, hhi, h1, h2, h3⟩ := h
  exact reg64_of_reg (retire_regs s e hb hlo (by omega) h1.1 h2.1 h3.1) (retire_regs s e hb (by omega) hhi h1.2 h2.2 h3.2)

theorem retired_offBough (b : Nat) (hb : b < 68) : offBough b (Reg.BGH_RETIRED_LO b) := by
  simp only [offBough, Reg.BGH_RETIRED_LO, Reg.BGH_STATUS, Reg.BGH_INTSTAT, Reg.THR_INTSTAT]
  omega

theorem chains_offBough (b : Nat) (hb : b < 68) : offBough b (Reg.THR_CHAINS_LO b) := by
  simp only [offBough, Reg.THR_CHAINS_LO, Reg.BGH_STATUS, Reg.BGH_INTSTAT, Reg.THR_INTSTAT]
  omega

theorem slot_offBough (b : Nat) (hb : b < 68) {k : Nat} (hk : k < 32) : offBough b (Reg.BGH_SLOT_LO b k) := by
  simp only [offBough, Reg.BGH_SLOT_LO, Reg.BGH_STATUS, Reg.BGH_INTSTAT, Reg.THR_INTSTAT]
  omega

theorem retire_net (s : State) {b : Nat} (e : SbEntry) (hb : b < 68) : (retire s b e).net =
    if bitN e.w3 31 then s.net ++ [⟨bitsN e.w3 29 24, bitsN e.w3 22 16, bitsN e.w3 15 0⟩] else s.net := by
  rw [retire_eq, (jobStopCheck_jobFrame _).net, (stopCheck_frame _ b).net, sendField_net, (entryLeft_after s e hb).net,
    (itemLeft_regsAndSteps s b e).net, entryFreed_net]

theorem retire_memSame (s : State) {b : Nat} (e : SbEntry) (hb : b < 68) : MemSame s (retire s b e) :=
  (((entryFreed_memSame s b e).trans (itemLeft_regsAndSteps s b e).memSame).trans ((entryLeft_after s e hb).mem.trans
    (sendField_memSame _ _))).trans ((stopCheck_frame _ b).memSame.trans (jobStopCheck_jobFrame _).memSame)

theorem entryLeft_sb (s : State) {b : Nat} (e : SbEntry) (hb : b < 68) :
    (bough (sendField (entryLeft s b e) e.w3) b).sb = (bough s b).sb.filter fun x => x.id ≠ e.id := by
  rw [sendField_bough, (entryLeft_after s e hb).sb, (itemLeft_regsAndSteps s b e).bough, entryFreed_bough]

theorem retire_sb (s : State) {b : Nat} (e : SbEntry) (hb : b < 68) :
    (bough (retire s b e) b).sb = (bough s b).sb.filter fun x => x.id ≠ e.id := by
  rw [retire_eq, (jobStopCheck_jobFrame _).bough_eq, (stopCheck_frame _ b).sb, entryLeft_sb s e hb]

theorem retire_sbocc (s : State) {b : Nat} (e : SbEntry) (hb : b < 68) :
    fld (retire s b e) (Reg.BGH_STATUS b) Fld.BGH_STATUS_SBOCC = (bough (retire s b e) b).sb.length % 128 := by
  have hlate := (stopCheck_frame (sendField (entryLeft s b e) e.w3) b).afterRetire.trans
    ((jobStopCheck_jobFrame _).afterRetire hb)
  have hitem : reg (itemLeft s b e) (Reg.BGH_STATUS b) = reg (entryFreed s b e) (Reg.BGH_STATUS b) := by
    refine itemLeft_regs s b e _ ?_
    simp only [Reg.BGH_STATUS, Reg.THR_CHAINS_LO, Reg.THR_CHAINS_HI, Reg.THR_STATUS, Reg.BGH_SLOT_LO, Reg.BGH_SLOT_HI,
      List.mem_cons, List.not_mem_nil, or_false]
    omega
  rw [retire_sb s e hb, retire_eq, hlate.fields _ (by decide) (by decide), fld_of_reg (sendField_reg _ _ _),
    (entryLeft_after s e hb).fields _ (by decide) (by decide), fld_of_reg hitem, entryFreed_sbocc, entryFreed_bough]

/-- A pre-empted bough whose last item retires is stopped (R148). -/
theorem retire_isStopped (s : State) {b : Nat} (e : SbEntry) (hb : b < 68) (hh : (bough s b).halted = true)
    (hsb : (bough (retire s b e) b).sb = []) : isStopped (retire s b e) b = true := by
  have hhalt : (bough (sendField (entryLeft s b e) e.w3) b).halted = true := by
    rw [sendField_bough]
    refine (entryLeft_after s e hb).halted ?_
    rw [(itemLeft_regsAndSteps s b e).bough, entryFreed_bough]
    exact hh
  rw [retire_sb s e hb] at hsb
  rw [retire_eq, (jobStopCheck_jobFrame _).isStopped_eq hb, stopCheck_isStopped hhalt, entryLeft_sb s e hb, hsb]
  simp

/-- Of an item that is no chain, on a bough that runs, with no job loaded, nothing follows. -/
theorem retire_quiet {s : State} {b : Nat} {e : SbEntry} (hk : e.w0 / 2 ^ 28 ≠ 2) (hh : (bough s b).halted = false)
    (hj : s.host.job = none) : retire s b e = sendField (entryFreed s b e) e.w3 := by
  have hleft : entryLeft s b e = entryFreed s b e := if_neg hk
  rw [retire_eq, hleft, stopCheck_running, jobStopCheck_none]
  · rw [sendField_host, entryFreed_host, hj]
  · rw [sendField_bough, entryFreed_bough]; exact hh

end Sys2Proof.Machine

namespace Sys2Proof.Settled

open Sys2Proof.Machine

/-- Settles O12: the entry is freed and counted, then a chain, a stop and the end of a job leave all that stand. -/
theorem workItemRetires : Obligations.WorkItemRetires := by
  unfold Obligations.WorkItemRetires
  intro s n id e ha hb he hdone
  have hexec : exec (.workItemRetire n id) s = finish s (workItemRetire s n id) := rfl
  have hid : e.id = id := by simpa using List.find?_some he
  rw [workItemRetire, he] at hexec
  simp only [hdone, decide_eq_true hb, Bool.and_self, if_true] at hexec
  have hsb := retire_sb s e hb
  refine runs_finish hexec ha ⟨?_, fun x hx hne => ?_, ?_, retire_sbocc s e hb, retire_net s e hb, retire_memSame s e hb,
    fun hk => ?_, retire_isStopped s e hb, fun hk hh hj => ?_⟩
  · rw [entryOf, ended_bough, hsb]
    exact List.find?_eq_none.2 fun x hx => by simpa [hid] using (List.mem_filter.1 hx).2
  · rw [ended_bough, hsb]
    exact List.mem_filter.2 ⟨hx, by simpa [hid] using hne⟩
  · have hcount : reg64 (itemLeft s (phys s n) e) (Reg.BGH_RETIRED_LO (phys s n)) =
        reg64 (entryFreed s (phys s n) e) (Reg.BGH_RETIRED_LO (phys s n)) := by
      refine reg64_of_reg (itemLeft_regs s _ e _ ?_) (itemLeft_regs s _ e _ ?_) <;>
        simp only [Reg.BGH_RETIRED_LO, Reg.THR_CHAINS_LO, Reg.THR_CHAINS_HI, Reg.THR_STATUS, Reg.BGH_SLOT_LO,
          Reg.BGH_SLOT_HI, List.mem_cons, List.not_mem_nil, or_false] <;> omega
    rw [ended_reg64, retire_reg64 s e hb (retired_offBough _ hb), hcount, entryFreed_retired]
  · have hleft : itemLeft s (phys s n) e = chainSummed (chainCounted (entryFreed s (phys s n) e) (phys s n)) (phys s n) e :=
      if_pos hk
    have hslot := bitsN_lt e.w0 22 18
    refine ⟨?_, fun hsum hstop hcfg => ?_⟩
    · rw [ended_reg64, retire_reg64 s e hb (chains_offBough _ hb), hleft, chainLeft_chains _ e hb]
      have hkeep : reg64 (entryFreed s (phys s n) e) (Reg.THR_CHAINS_LO (phys s n)) =
          reg64 s (Reg.THR_CHAINS_LO (phys s n)) := by
        refine reg64_of_reg (entryFreed_regs s _ e _ ?_) (entryFreed_regs s _ e _ ?_) <;>
          simp only [Reg.THR_CHAINS_LO, Reg.BGH_STATUS, Reg.BGH_RETIRED_LO, List.mem_cons, List.not_mem_nil,
            or_false] <;> omega
      rw [hkeep]
    · refine Eq.trans ?_ (chainLeft_slot (entryFreed s (phys s n) e) (phys s n) hsum hstop hcfg)
      rw [slot, ended_reg64, retire_reg64 s e hb (slot_offBough _ hb hslot), hleft]
      rfl
  · rw [retire_quiet hk hh hj]
    intro a hna
    rw [ended_reg, sendField_reg, entryFreed_regs s _ e a hna]

end Sys2Proof.Settled
end

section
/-! PROOF. The issue of a work item (R134 to R137) and of a TILE (R164, R169). -/

namespace Sys2Proof.Machine

theorem memSame_ended {u t : State} (s : State) (h : MemSame u t) : MemSame u (ended s t) := h

theorem advance_memSame {s : State} {b : Nat} (h : itemIdx s b ≠ 65535) : MemSame s (advance s b) := by
  rw [advance_eq h]
  exact (setFld_regsAndSteps _ _ _ _).memSame

theorem waited_form (u : State) (b : Nat) (i : Item) : RegsAndSteps u (waited u b i) := by
  unfold waited
  split
  · exact (setFld_regsAndSteps _ _ _ _).trans (setFld_regsAndSteps _ _ _ _)
  · exact .refl u

theorem waited_regs (u : State) (b : Nat) (i : Item) :
    RegsBut u (waited u b i) [Reg.BGH_SEM b (bitsN i.w2 30 24), Reg.BGH_STATUS b] := by
  unfold waited
  split
  · exact semTaken_regs u b _ _
  · exact fun _ _ => rfl

/-- The entry that a work item takes is free. -/
theorem freeEntry_free {x : BoughSt} {id : Nat} (h : freeEntry x = some id) : ∀ e ∈ x.sb, e.id ≠ id := by
  have hno := List.find?_some h
  simpa using hno

theorem freeEntry_of_issueOk {s : State} {b t : Nat} {i : Item} {body : List Byte} (h : issueOk s b i body t = true) :
    ∃ id, freeEntry (bough s b) = some id := by
  simp only [issueOk, Bool.and_eq_true] at h
  exact Option.isSome_iff_exists.1 h.1.1.2

/-- The entry of the scoreboard that a work item takes. -/
def issuedEntry (s : State) (b id : Nat) (i : Item) (body : List Byte) : SbEntry :=
  { id := id, item := itemIdx s b, w0 := i.w0, w2 := i.w2, w3 := i.w3, body := body, step := reg64 s (Reg.BGH_STEP_LO b) }

theorem pushEntry_bough (s : State) (b id : Nat) (i : Item) (body : List Byte) :
    bough (pushEntry s b id i body) b = { bough s b with sb := (bough s b).sb ++ [issuedEntry s b id i body] } := by
  have hsync (u : State) : bough (syncSbocc u b) b = bough u b := (setFld_regsAndSteps _ _ _ _).bough b
  rw [pushEntry, hsync, bough_setBough_self]
  rfl

theorem pushEntry_regs (s : State) (b id : Nat) (i : Item) (body : List Byte) :
    RegsBut s (pushEntry s b id i body) [Reg.BGH_STATUS b] := fun a ha =>
  (reg_setFld_ne _ _ _ fun h => ha (by simp [h])).trans (setBough_reg _ _ _ _)

/-- The shares that a tile queues, one for each array it names (R164). -/
def tileShares (id : Nat) (t : Tile) : List Share :=
  (tileArrays t).map fun i => { entry := id, named := i, arr := i, c0 := 0, c1 := t.n }

theorem runTile_bough (s : State) (b id : Nat) (body : List Byte) : bough (runTile s b id body) b =
    { bough s b with shares := (bough s b).shares ++ tileShares id (tileOf body) } := bough_setBough_self _ _ _

theorem runTile_memSame (s : State) (b id : Nat) (body : List Byte) : MemSame s (runTile s b id body) := setBough_memSame _ _ _

theorem pushEntry_memSame (s : State) (b id : Nat) (i : Item) (body : List Byte) : MemSame s (pushEntry s b id i body) :=
  (setBough_memSame s b _).trans (setFld_regsAndSteps _ _ _ _).memSame

theorem runTile_reg (s : State) (b id : Nat) (body : List Byte) (a : Nat) : reg (runTile s b id body) a = reg s a :=
  setBough_reg _ _ _ _

/-- A TILE of the opcode asked for issues: its entry and its shares, and the walk goes on. -/
theorem tileCmd_issues {s u : State} {n t b op : Nat} {i : Item} {body : List Byte} (hop : (tileOf body).op = op)
    (h : Statements.CanIssue s u n t b i body 1) : ∃ v, tileCmd op n t s = .next v ∧ Statements.Issued u v b body
      ∧ MemSame u v ∧ ∃ id, (bough v b).shares = (bough u b).shares ++ tileShares id (tileOf body) := by
  obtain ⟨ha, hw, hk, hi, hs, hidx⟩ := h
  obtain ⟨id, hid⟩ := freeEntry_of_issueOk hi
  have hwait := waited_form u b i
  have hwb : bough (waited u b i) b = bough u b := hwait.bough b
  have hissue := issue_item (fun body => (tileOf body).op = op) runTile ha hw hk (decide_eq_true hop) hi hs
  rw [hwb, hid, Option.getD_some] at hissue
  have hsem := bitsN_lt i.w2 30 24
  have hkeep (a : Nat) (h1 : a ≠ Reg.BGH_SEM b (bitsN i.w2 30 24)) (h2 : a ≠ Reg.BGH_STATUS b) :
      reg (runTile (pushEntry (waited u b i) b id i body) b id body) a = reg u a :=
    ((runTile_reg _ b id body a).trans (pushEntry_regs _ b id i body a (by simpa using h2))).trans
      (waited_regs u b i a (by simp [h1, h2]))
  have hpos : itemIdx (runTile (pushEntry (waited u b i) b id i body) b id body) b = itemIdx u b :=
    itemIdx_of_reg (hkeep _ (by simp only [Reg.BGH_ITEM, Reg.BGH_SEM]; omega)
      (by simp only [Reg.BGH_ITEM, Reg.BGH_STATUS]; omega))
  have hgo : itemIdx (runTile (pushEntry (waited u b i) b id i body) b id body) b ≠ 65535 := hpos.symm ▸ hidx
  have hbough : bough (ended s (advance (runTile (pushEntry (waited u b i) b id i body) b id body) b)) b = { bough u b with
      sb := (bough u b).sb ++ [issuedEntry (waited u b i) b id i body]
      shares := (bough u b).shares ++ tileShares id (tileOf body) } := by
    rw [ended_bough, advance_eq hgo, (setFld_regsAndSteps _ _ _ _).bough, runTile_bough, pushEntry_bough, hwb]
  have hstep : (issuedEntry (waited u b i) b id i body).step = reg64 u (Reg.BGH_STEP_LO b) := by
    refine reg64_of_reg (waited_regs u b i _ ?_) (waited_regs u b i _ ?_) <;>
      simp only [Reg.BGH_STEP_LO, Reg.BGH_SEM, Reg.BGH_STATUS, List.mem_cons, List.not_mem_nil, or_false] <;> omega
  have hnext : itemIdx (ended s (advance (runTile (pushEntry (waited u b i) b id i body) b id body) b)) b = itemIdx u b + 1 := by
    rw [itemIdx_of_reg (ended_reg s _ _), itemIdx_advance hgo, hpos]
  refine ⟨_, hissue, ⟨hnext, issuedEntry (waited u b i) b id i body, ?_, rfl, hstep, ?_, ?_⟩, ?_, id, ?_⟩
  · simp [hbough]
  · exact freeEntry_free hid
  · simp [hbough]
  · exact memSame_ended s ((hwait.memSame.trans ((pushEntry_memSame _ b id i body).trans (runTile_memSame _ b id body))).trans
      (advance_memSame hgo))
  · rw [hbough]

end Sys2Proof.Machine

namespace Sys2Proof.Settled

open Sys2Proof.Machine

/-- Settles O27: the seven TILE commands are one command with seven opcodes. -/
theorem tilesIssue : Obligations.TilesIssue := by
  unfold Obligations.TilesIssue
  intro s u n t b i body c op hc hop h
  have hexec : exec c s = tileCmd op n t s := by
    simp only [List.mem_cons, List.not_mem_nil, or_false, Prod.mk.injEq] at hc
    obtain ⟨rfl, rfl⟩ | ⟨rfl, rfl⟩ | ⟨rfl, rfl⟩ | ⟨rfl, rfl⟩ | ⟨rfl, rfl⟩ | ⟨rfl, rfl⟩ | ⟨rfl, rfl⟩ := hc <;> rfl
  obtain ⟨v, hv, hissued, hmem, id, hshares⟩ := tileCmd_issues hop h
  refine ⟨v, hexec.trans hv, hissued, hmem, ?_, ?_, ?_⟩
  · simp [hshares, tileShares]
  · exact ⟨_, hshares.symm⟩
  · simp [hshares, tileShares, Function.comp_def]

end Sys2Proof.Settled
end

section
/-! PROOF. Device counters (R145): an add, and the tree gates and partition barriers that take note of it. -/

namespace Sys2Proof.Machine

/-- From `s` to `t` the fabric's trees and flags take note, and nothing else changes. -/
def FabOnly (s t : State) : Prop := t = { s with fab := t.fab }

theorem FabOnly.refl (s : State) : FabOnly s s := rfl

theorem FabOnly.trans {s t u : State} (h : FabOnly s t) (h' : FabOnly t u) : FabOnly s u := by
  unfold FabOnly at *
  rw [h', h]

theorem FabOnly.foldl {α : Type} {f : State → α → State} (hf : ∀ s x, FabOnly s (f s x)) (xs : List α) (s : State) :
    FabOnly s (xs.foldl f s) :=
  List.foldlRecOn (motive := fun t => FabOnly s t) xs f (.refl s) fun _ h x _ => h.trans (hf _ x)

section
variable {s t : State} (h : FabOnly s t)
include h

theorem FabOnly.memSame : MemSame s t := by rw [h]; exact ⟨rfl, rfl⟩
theorem FabOnly.reg_eq (a : Nat) : reg t a = reg s a := by rw [h]; rfl
theorem FabOnly.regs_eq : t.regs = s.regs := by rw [h]

end

theorem setTree_fabOnly (s : State) (t : Nat) (x : TreeSt) : FabOnly s (setTree s t x) := rfl

theorem mapFlags_fabOnly (s : State) (f : FlagSt → FlagSt) : FabOnly s (mapFlags s f) := rfl

/-- An add to a counter: the counter, and the trees that wait for it. -/
theorem addCounter_fabOnly (s : State) (c : Nat) (z : Int) : FabOnly (counterAddTo s c z) (addCounter s c z) := by
  refine FabOnly.foldl (fun u t => ?_) _ _
  dsimp only
  split
  · exact setTree_fabOnly _ _ _
  · exact .refl u

theorem pbarCheck_fabOnly (s : State) (b : Nat) : FabOnly s (pbarCheck s b) := by
  unfold pbarCheck
  dsimp only
  split
  · exact mapFlags_fabOnly _ _
  · exact .refl s

/-- What waits on a counter that has been added to: trees and partition barriers. -/
def counterNoted (s : State) (c : Nat) (z : Int) : State :=
  (List.range 8).foldl (fun s b => if pbarOn s b && pbar s b Fld.FAB_PBAR_ARRCNT = c then pbarCheck s b else s)
    (addCounter s c z)

theorem counterNoted_fabOnly (s : State) (c : Nat) (z : Int) : FabOnly (counterAddTo s c z) (counterNoted s c z) := by
  refine (addCounter_fabOnly s c z).trans (FabOnly.foldl (fun u b => ?_) _ _)
  split
  · exact pbarCheck_fabOnly u b
  · exact .refl u

theorem addCnt_eq (s : State) (c : Nat) (z : Int) : addCnt s c z = syncWaits (counterNoted s c z) := rfl

theorem syncWaits_regs (s : State) : RegsBut s (syncWaits s) [Reg.MIL_STATUS] := by
  intro a ha
  have hne : Reg.MIL_STATUS ≠ a := fun h => ha (by simp [h])
  exact (reg_setFld_ne _ _ _ hne).trans (reg_setFld_ne _ _ _ hne)

theorem syncWaits_memSame (s : State) : MemSame s (syncWaits s) :=
  (setFld_regsAndSteps s _ _ _).memSame.trans (setFld_regsAndSteps _ _ _ _).memSame

theorem addCnt_memSame (s : State) (c : Nat) (z : Int) : MemSame s (addCnt s c z) :=
  ((setReg64_regsAndSteps s _ _).memSame.trans (counterNoted_fabOnly s c z).memSame).trans (syncWaits_memSame _)

theorem addCnt_regs (s : State) (c : Nat) (z : Int) :
    RegsBut (counterAddTo s c z) (addCnt s c z) [Reg.MIL_STATUS] := fun a ha =>
  (syncWaits_regs _ a ha).trans ((counterNoted_fabOnly s c z).reg_eq a)

theorem counterAddTo_regs (s : State) (c : Nat) (z : Int) :
    RegsBut s (counterAddTo s c z) [Reg.BGH_CNT_LO c, Reg.BGH_CNT_LO c + 4] := fun a ha =>
  reg_setReg64_ne s _ (fun h => ha (by simp [h])) fun h => ha (by simp [h])

theorem counter_of_reg {s t : State} {c : Nat} {l : List Nat} (h : RegsBut s t l) (h1 : Reg.BGH_CNT_LO c ∉ l)
    (h2 : Reg.BGH_CNT_LO c + 4 ∉ l) : counter t c = counter s c := reg64_of_reg (h _ h1) (h _ h2)

theorem counter_counterAddTo (s : State) (c : Nat) (z : Int) :
    counter (counterAddTo s c z) c = wrapN 64 ((counter s c : Int) + z) := by
  rw [counter, counterAddTo, reg64_setReg64]
  exact Nat.mod_eq_of_lt (wrapN_lt _ _)

/-- How a read goes on: it was stopped, or it has its data. -/
def onDone {α β : Type} (f : State → Bad → β) (g : State → α → β) : State × Except Bad α → β
  | (s, .error bad) => f s bad
  | (s, .ok x) => g s x

/-- How a write goes on: it was stopped, or it is done. -/
def onStored {β : Type} (f : State → Bad → β) (g : State → β) : State × Option Bad → β
  | (s, some bad) => f s bad
  | (s, none) => g s

theorem walkReady_lt {s : State} {b : Nat} (h : walkReady s b = true) : b < 68 := by
  simp only [walkReady, Bool.and_eq_true, decide_eq_true_eq] at h
  exact h.1.1.1.1.1

/-- What the walk makes of a work item's body, once it is read. -/
def bodyRead (b : Nat) (i : Item) : State × Except Bad (List Byte) → Walk :=
  onDone (fun s bad => .stay (itemUncorr s b bad)) fun s body =>
    if bodyBad s i.kind body then .stay (itemError s b) else .item s b i body

theorem bodyRead_bough {r : State × Except Bad (List Byte)} {t : State} {b c : Nat} {i j : Item} {body : List Byte}
    (h : bodyRead b i r = .item t c j body) : c = b := by
  obtain ⟨s, bad | bs⟩ := r
  · cases h
  · simp only [bodyRead, onDone] at h
    split at h
    · cases h
    · cases h; rfl

theorem walkBody_eq : walkBody = fun s b i => bodyRead b i (load s (cribBase b + i.body) 64) := by
  delta walkBody
  funext s b i
  rcases load s (cribBase b + i.body) 64 with ⟨t, bad | bs⟩ <;> rfl

theorem walkBody_bough {s t : State} {b c : Nat} {i j : Item} {body : List Byte} (h : walkBody s b i = .item t c j body) :
    c = b := by
  rw [walkBody_eq] at h
  exact bodyRead_bough h

/-- What the walk makes of the words of its item, once they are read. -/
def walkRead (n b : Nat) : State × Except Bad (List Byte) → Walk :=
  onDone (fun s bad => .stay (itemUncorr s b bad)) fun s bs =>
    if itemWordsBad (itemOf bs) || barNotMember s n b (itemOf bs) then .stay (itemError s b)
    else if isWork (itemOf bs).kind then walkBody s b (itemOf bs)
    else .item s b (itemOf bs) []

theorem walkRead_bough {r : State × Except Bad (List Byte)} {t : State} {n b c : Nat} {i : Item} {body : List Byte}
    (h : walkRead n b r = .item t c i body) : c = b := by
  obtain ⟨s, bad | bs⟩ := r
  · cases h
  · simp only [walkRead, onDone] at h
    split at h
    · cases h
    split at h
    · exact walkBody_bough h
    · cases h; rfl

theorem walkFetch_eq : walkFetch = fun s n =>
    if !walkReady s (phys s n) then .stay s
    else if !rangeOk s (itemAddr s (phys s n)) 16 then .unmapped
    else walkRead n (phys s n) (load s (itemAddr s (phys s n)) 16) := by
  delta walkFetch
  funext s n
  refine if_congr Iff.rfl rfl (if_congr Iff.rfl rfl ?_)
  rcases load s (itemAddr s (phys s n)) 16 with ⟨t, bad | bs⟩ <;> rfl

theorem walkFetch_bough {s t : State} {n b : Nat} {i : Item} {body : List Byte} (h : walkFetch s n = .item t b i body) :
    b = phys s n ∧ walkReady s b = true := by
  simp only [walkFetch_eq] at h
  split at h
  · cases h
  next hready =>
    have hr : walkReady s (phys s n) = true := by simpa using hready
    split at h
    · cases h
    · obtain rfl := walkRead_bough h
      exact ⟨rfl, hr⟩

/-- A walk that finds an item is that of a bough of the device. -/
theorem walkTo_item_lt {s u : State} {n b : Nat} {i : Item} {body : List Byte} (h : walkTo s n = .item u b i body) : b < 68 := by
  unfold walkTo at h
  split at h
  · cases h
  · cases h
  next hfetch =>
    split at h
    · cases h
      exact walkReady_lt (walkFetch_bough hfetch).2
    · cases h

end Sys2Proof.Machine

namespace Sys2Proof.Settled

open Sys2Proof.Machine

/-- A COUNTER add (R145). -/
theorem counterAdds {s u : State} {n b : Nat} {i : Item} {body : List Byte} (ha : alive s = true)
    (hw : walkTo s n = .item u b i body) (hk : i.kind = 14) (hadd : bitN i.w1 15 = false) (hret : allRetired u b = true)
    (hi : itemIdx u b ≠ 65535) : Runs (.counterAdd n) s fun t =>
      counter t (bitsN i.w1 9 0) = wrapN 64 ((counter u (bitsN i.w1 9 0) : Int) + sextN 32 i.w2)
        ∧ itemIdx t b = itemIdx u b + 1 ∧ MemSame u t
        ∧ RegsBut u t [Reg.BGH_CNT_LO (bitsN i.w1 9 0), Reg.BGH_CNT_LO (bitsN i.w1 9 0) + 4, Reg.BGH_ITEM b,
          Reg.MIL_STATUS] := by
  have hb := walkTo_item_lt hw
  have hc := bitsN_lt i.w1 9 0
  refine runs_control rfl ha hw hk (fun _ => hret) ?_
  have hact : counterAddOf u b i = advance (addCnt u (bitsN i.w1 9 0) (sextN 32 i.w2)) b := if_neg (by simp [hadd])
  generalize bitsN i.w1 9 0 = c at *
  generalize sextN 32 i.w2 = z at *
  rw [hact]
  have hregs := (counterAddTo_regs u c z).trans (addCnt_regs u c z)
  have hidx := itemIdx_keeps (b := b) hregs (by
    simp only [Reg.BGH_ITEM, Reg.BGH_CNT_LO, Reg.MIL_STATUS, List.mem_append, List.mem_cons, List.not_mem_nil, or_false]
    omega)
  have hgo := hidx.symm ▸ hi
  have hadv := advance_regs hgo
  refine ⟨?_, ?_, memSame_ended s ((addCnt_memSame u c z).trans (advance_memSame hgo)), fun a hna => ?_⟩
  · refine Eq.trans ?_ (counter_counterAddTo u c z)
    refine (counter_of_reg (t := ended s _) hadv ?_ ?_).trans (counter_of_reg (addCnt_regs u c z) ?_ ?_) <;>
      simp only [Reg.BGH_ITEM, Reg.BGH_CNT_LO, Reg.MIL_STATUS, List.mem_singleton] <;> omega
  · rw [itemIdx_of_reg (ended_reg s _ _), itemIdx_advance hgo, hidx]
  · simp only [List.mem_cons, List.not_mem_nil, or_false, not_or] at hna
    obtain ⟨h1, h2, h3, h4⟩ := hna
    exact (hadv a (by simp [h3])).trans (hregs a (by simp [h1, h2, h4]))

end Sys2Proof.Settled
end

section
/-! PROOF. Reads and writes of memory, whatever its codes hold, leave the fabric alone and open no round and no copy: with
neither under way, nothing waits (R310, R505). -/

namespace Sys2Proof.Machine

/-- From `s` to `t` the fabric is as before, and with no round open and no bank in copy none comes to be, and nothing
waits. -/
structure Keeps (s t : State) : Prop where
  fab : t.fab = s.fab
  calm : s.loft.rounds = [] → s.loft.banks = [] → t.loft.rounds = [] ∧ t.loft.banks = [] ∧ t.loft.stall = s.loft.stall

theorem Keeps.refl (s : State) : Keeps s s := ⟨rfl, fun h h' => ⟨h, h', rfl⟩⟩

theorem Keeps.trans {s t u : State} (h : Keeps s t) (h' : Keeps t u) : Keeps s u := by
  refine ⟨h'.fab.trans h.fab, fun hr hb => ?_⟩
  obtain ⟨hr, hb, hs⟩ := h.calm hr hb
  obtain ⟨hr, hb, hs'⟩ := h'.calm hr hb
  exact ⟨hr, hb, hs'.trans hs⟩

theorem Keeps.foldl {α : Type} {f : State → α → State} (hf : ∀ s x, Keeps s (f s x)) (xs : List α) (s : State) :
    Keeps s (xs.foldl f s) :=
  List.foldlRecOn (motive := fun t => Keeps s t) xs f (.refl s) fun _ h x _ => h.trans (hf _ x)

theorem keeps_of_eq {s t : State} (hf : t.fab = s.fab) (hl : t.loft = s.loft) : Keeps s t := by
  refine ⟨hf, fun h h' => ?_⟩
  rw [hl]
  exact ⟨h, h', rfl⟩

theorem RegsAndSteps.keeps {s t : State} (h : RegsAndSteps s t) : Keeps s t := by
  rw [h]; exact keeps_of_eq rfl rfl

theorem StopFrame.keeps {b : Nat} {s t : State} (h : StopFrame b s t) : Keeps s t := by
  rw [h.form]; exact keeps_of_eq rfl rfl

theorem JobFrame.keeps {s t : State} (h : JobFrame s t) : Keeps s t := by
  refine ⟨h.fab, fun hr hb => ⟨?_, ?_, ?_⟩⟩
  · exact List.eq_nil_of_subset_nil (hr ▸ h.rounds)
  · rw [h.form]; exact hb
  · rw [h.form]

theorem endJob_keeps (s : State) (st d : Nat) : Keeps s (endJob s st d) := by
  unfold endJob
  split
  · exact .refl s
  · exact ((jobFrame_host s _).keeps.trans (.foldl (fun u b => (preempt_frame u b).keeps) _ _)).trans
      (jobStopCheck_jobFrame _).keeps

/-! ## Counts and notes of the codes -/

theorem setReg_keeps (s : State) (a : Nat) (v : Word) : Keeps s (setReg s a v) := keeps_of_eq rfl rfl
theorem bump_keeps (s : State) (a n : Nat) : Keeps s (bump s a n) := setReg_keeps s _ _
theorem raise_keeps (s : State) (a m : Nat) : Keeps s (raise s a m) := setReg_keeps s _ _
theorem setFld_keeps (s : State) (a : Nat) (f : Fld) (v : Nat) : Keeps s (setFld s a f v) := setReg_keeps s _ _
theorem ecc_keeps (s : State) (x : EccSt) : Keeps s { s with ecc := x } := keeps_of_eq rfl rfl
theorem poke_keeps (s : State) (a : Nat) (bs : List Byte) : Keeps s (poke s a bs) := keeps_of_eq rfl rfl
theorem setCw_keeps (s : State) (k : Nat) (e : CwErr) : Keeps s (setCw s k e) := ecc_keeps s _
theorem note_keeps (s : State) (n : ErrNote) : Keeps s (note s n) := ecc_keeps s _
theorem lparFlip_keeps (s : State) (q d : Nat) : Keeps s (lparFlip s q d) := ecc_keeps s _
theorem free_keeps (s : State) (n : Nat) : Keeps s { s with free := n } := keeps_of_eq rfl rfl

theorem record_keeps (s : State) (r : Rec) : Keeps s (record s r) := by
  rw [record_form]; exact keeps_of_eq rfl rfl

theorem stale_keeps (s : State) (l : List (Nat × Byte)) : Keeps s { s with loft := { s.loft with stale := l } } :=
  ⟨rfl, fun h h' => ⟨h, h', rfl⟩⟩

theorem keepStale_keeps (s : State) (a n : Nat) : Keeps s (keepStale s a n) := stale_keeps s _

theorem countHour_keeps (s : State) (cls a : Nat) : Keeps s (countHour s cls a) := by
  unfold countHour
  dsimp only
  split
  · exact ecc_keeps s _
  · split
    · exact ecc_keeps s _
    · exact .refl s

theorem takeCorrected_keeps (s : State) (k : Nat) (e : CwErr) : Keeps s (takeCorrected s k e) := by
  have hcount : Keeps s (note (countHour (bump s (corrReg (k % 4)) 1) (k % 4) (k / 4))
      { cls := k % 4, addr := k / 4, uncorr := false, lpar := false, pos := e.pos }) :=
    ((bump_keeps s _ _).trans (countHour_keeps _ _ _)).trans (note_keeps _ _)
  unfold takeCorrected
  dsimp only
  split <;> split
  · exact (hcount.trans (record_keeps _ _)).trans (setCw_keeps _ _ _)
  · exact hcount.trans (setCw_keeps _ _ _)
  · exact (hcount.trans (record_keeps _ _)).trans (setCw_keeps _ _ _)
  · exact hcount.trans (setCw_keeps _ _ _)

theorem takeUncorr_keeps (s : State) (cls a : Nat) (e : CwErr) (l : Bool) : Keeps s (takeUncorr s cls a e l) := by
  have hcount := (bump_keeps s (uncReg cls) 1).trans (raise_keeps _ Reg.INT_INTSTAT Fld.INT_INTSTAT_UNCORR.bit)
  unfold takeUncorr
  dsimp only
  split
  · exact (hcount.trans (raise_keeps _ _ _)).trans (note_keeps _ _)
  · exact hcount.trans (note_keeps _ _)

/-- The wrong bytes of a codeword take the place of its own, before its layer check is told. -/
theorem takeWrong_keeps (s : State) (k : Nat) : Keeps s (takeWrong s k) := by
  have hwrong (u : State) (bs : List Byte) (n : Nat) :
      Keeps u { setCw (poke u (k / 4) bs) k {} with free := n } :=
    ((poke_keeps u _ bs).trans (setCw_keeps _ k {})).trans (free_keeps _ n)
  unfold takeWrong
  dsimp only
  split <;> split
  · exact ((keepStale_keeps s _ _).trans (hwrong _ _ _)).trans (lparFlip_keeps _ _ _)
  · exact (hwrong _ _ _).trans (lparFlip_keeps _ _ _)
  · exact (keepStale_keeps s _ _).trans (hwrong _ _ _)
  · exact hwrong _ _ _

/-! ## Reads under the codes -/

theorem readCw_eq : readCw = fun s k e => match foundOf s k e with
    | .clean => (s, false)
    | .corrected => (takeCorrected s k e, false)
    | .miscorr => (takeWrong (takeCorrected s k { e with pos := wrongPos s k }) k, false)
    | .silent => (takeWrong s k, false)
    | .uncorr => (takeUncorr s (k % 4) (k / 4) e false, true) := by
  delta readCw
  funext s k e
  cases foundOf s k e <;> rfl

theorem readCw_keeps (s : State) (k : Nat) (e : CwErr) : Keeps s (readCw s k e).1 := by
  simp only [readCw_eq]
  cases foundOf s k e
  · exact .refl s
  · exact takeCorrected_keeps s k e
  · exact takeUncorr_keeps s _ _ e _
  · exact (takeCorrected_keeps s k _).trans (takeWrong_keeps _ k)
  · exact takeWrong_keeps s k

theorem readCws_keeps (l : List (Nat × CwErr)) (s : State) : Keeps s (readCws s l).1 := by
  induction l generalizing s with
  | nil => exact .refl s
  | cons x l ih =>
    have hx := readCw_keeps s x.1 x.2
    rw [readCws]
    revert hx
    rcases readCw s x.1 x.2 with ⟨t, _ | _⟩ <;> intro hx
    · exact hx.trans (ih t)
    · exact hx

theorem dropSector_keeps (s : State) (a : Nat) : Keeps s (dropSector s a) := ecc_keeps s _

theorem restoreSector_keeps (s : State) (a : Nat) : Keeps s (restoreSector s a) :=
  ((dropSector_keeps s a).trans (stale_keeps _ _)).trans (.foldl (fun _ _ => poke_keeps _ _ _) _ _)

/-- The failing clean sectors of a line are replaced, and the refill is recorded (R498). -/
def refilled (a : Nat) (s : State) : State :=
  record (bump ((failingClean s (a / 4096)).foldl restoreSector s) Reg.INT_REFILL (failingClean s (a / 4096)).length)
    { kind := 1, type := tyUncorr, action := actRefilled, unit := sliceOf a
      sub := layerOf (bump ((failingClean s (a / 4096)).foldl restoreSector s) Reg.INT_REFILL
        (failingClean s (a / 4096)).length) a, addr := a }

theorem refilled_keeps (a : Nat) (s : State) : Keeps s (refilled a s) :=
  ((Keeps.foldl (fun _ _ => restoreSector_keeps _ _) _ s).trans (bump_keeps _ _ _)).trans (record_keeps _ _)

/-- How the read of a list of codewords goes on. -/
def onRead {β : Type} (f : State → Nat → β) (g : State → β) : State × Option Nat → β
  | (s, some b) => f s b
  | (s, none) => g s

section
variable {β : Type} (π : β → State) {s : State}

theorem onRead_keeps {f : State → Nat → β} {g : State → β} {r : State × Option Nat} (hr : Keeps s r.1)
    (hf : ∀ t b, Keeps t (π (f t b))) (hg : ∀ t, Keeps t (π (g t))) : Keeps s (π (onRead f g r)) := by
  obtain ⟨t, _ | b⟩ := r
  · exact hr.trans (hg t)
  · exact hr.trans (hf t b)

theorem onStored_keeps {f : State → Bad → β} {g : State → β} {r : State × Option Bad} (hr : Keeps s r.1)
    (hf : ∀ t b, Keeps t (π (f t b))) (hg : ∀ t, Keeps t (π (g t))) : Keeps s (π (onStored f g r)) := by
  obtain ⟨t, _ | b⟩ := r
  · exact hr.trans (hg t)
  · exact hr.trans (hf t b)

theorem onDone_keeps {α : Type} {f : State → Bad → β} {g : State → α → β} {r : State × Except Bad α} (hr : Keeps s r.1)
    (hf : ∀ t b, Keeps t (π (f t b))) (hg : ∀ t x, Keeps t (π (g t x))) : Keeps s (π (onDone f g r)) := by
  obtain ⟨t, b | x⟩ := r
  · exact hr.trans (hf t b)
  · exact hr.trans (hg t x)

end

theorem refill_eq : refill = fun s a =>
    onRead (fun s b => (s, some ⟨tyUncorr, 2, b⟩)) (fun s => (refilled a s, none))
      (readCws s (cwIn s 2 (4096 * (a / 4096)) 4096)) := by
  delta refill
  funext s a
  dsimp only
  rcases readCws s (cwIn s 2 (4096 * (a / 4096)) 4096) with ⟨t, _ | b⟩ <;> rfl

theorem refill_keeps (s : State) (a : Nat) : Keeps s (refill s a).1 := by
  simp only [refill_eq]
  exact onRead_keeps Prod.fst (readCws_keeps _ s) (fun t _ => .refl t) (refilled_keeps a)

/-- A refill, and the read once more. -/
def refillAgain (again : State → State × Option Bad) (s : State) (a : Nat) : State × Option Bad :=
  onStored (fun s bad => (s, some bad)) again (refill s a)

theorem refillAgain_keeps {again : State → State × Option Bad} (h : ∀ t, Keeps t (again t).1) (s : State) (a : Nat) :
    Keeps s (refillAgain again s a).1 := onStored_keeps Prod.fst (refill_keeps s a) (fun t _ => .refl t) h

/-- How a failing layer check is met: a refill and the read once more, or no data (R494, R498). -/
def lparMet (again : State → State × Option Bad) (s : State) : Option Nat → State × Option Bad
  | none => (s, none)
  | some q =>
    if refillable (takeUncorr s 1 q {} true) q then refillAgain again (takeUncorr s 1 q {} true) q
    else (takeUncorr s 1 q {} true, some ⟨tyLpar, 1, q⟩)

theorem lparMet_keeps {again : State → State × Option Bad} (h : ∀ t, Keeps t (again t).1) (s : State) (q : Option Nat) :
    Keeps s (lparMet again s q).1 := by
  cases q with
  | none => exact .refl s
  | some q =>
    refine (takeUncorr_keeps s 1 q {} true).trans ?_
    unfold lparMet
    dsimp only
    split
    · exact refillAgain_keeps h _ q
    · exact .refl _

theorem checkCws_succ (cws : State → List (Nat × CwErr)) (lp : State → Option Nat) (cls fuel : Nat) (s : State) :
    checkCws cws lp cls (fuel + 1) s =
      onRead (fun s b => if cls = 1 && refillable s b then refillAgain (checkCws cws lp cls fuel) s b
          else (s, some ⟨tyUncorr, cls, b⟩))
        (fun s => lparMet (checkCws cws lp cls fuel) s (if cls = 1 then lp s else none)) (readCws s (cws s)) := by
  rw [checkCws]
  rcases readCws s (cws s) with ⟨t, _ | b⟩
  · dsimp only [onRead]
    cases (if cls = 1 then lp t else none) with
    | none => rfl
    | some q =>
      refine if_congr Iff.rfl ?_ rfl
      unfold refillAgain
      rcases refill (takeUncorr t 1 q {} true) q with ⟨v, _ | bad⟩ <;> rfl
  · refine if_congr Iff.rfl ?_ rfl
    unfold refillAgain
    rcases refill t b with ⟨v, _ | bad⟩ <;> rfl

theorem checkCws_keeps (cws : State → List (Nat × CwErr)) (lp : State → Option Nat) (cls fuel : Nat) (s : State) :
    Keeps s (checkCws cws lp cls fuel s).1 := by
  induction fuel generalizing s with
  | zero => exact .refl s
  | succ k ih =>
    rw [checkCws_succ]
    refine onRead_keeps Prod.fst (readCws_keeps _ s) (fun t b => ?_) fun t => lparMet_keeps ih t _
    split
    · exact refillAgain_keeps ih t b
    · exact .refl t

theorem checkParts_keeps (l : List (Nat × Nat)) (s : State) : Keeps s (checkParts s l).1 := by
  induction l generalizing s with
  | nil => exact .refl s
  | cons x l ih =>
    have h : Keeps s (checkRange 9 s (classOf s x.1) x.1 x.2).1 := checkCws_keeps _ _ _ _ s
    rw [checkParts]
    revert h
    rcases checkRange 9 s (classOf s x.1) x.1 x.2 with ⟨t, _ | b⟩ <;> intro h
    · exact h.trans (ih t)
    · exact h

theorem checkRead_keeps (s : State) (a n : Nat) : Keeps s (checkRead s a n).1 := by
  unfold checkRead
  cases uninitIn s a n with
  | none => exact checkParts_keeps _ s
  | some u => exact (bump_keeps s _ _).trans (raise_keeps _ _ _)

/-! ## Uses of lines (R302, R310, R505) -/

theorem dropRake_keeps (s : State) (l : Nat) : Keeps s (dropRake s l) := by
  unfold dropRake
  dsimp only
  split
  · exact ecc_keeps s _
  · exact .refl s

theorem lines_keeps (s : State) (m : KMap LineSt) (c : Nat) :
    Keeps s { s with loft := { s.loft with lines := m, clock := c } } := ⟨rfl, fun h h' => ⟨h, h', rfl⟩⟩

theorem useLine_keeps (s : State) (l : Nat) : Keeps s (useLine s l) := by
  unfold useLine
  dsimp only
  split
  · exact dropRake_keeps s l
  · exact (dropRake_keeps s l).trans (lines_keeps _ _ _)

/-- With no round open and no bank in copy an access of a line is a use of it. -/
theorem accessLine_calm {s : State} (hr : s.loft.rounds = []) (hb : s.loft.banks = []) (l : Nat) :
    accessLine s l = useLine s l := by
  simp [accessLine, sliceCopies, hr, hb, kfind]

theorem endRound_fab (s : State) (l : Nat) : (endRound s l).fab = s.fab := by
  unfold endRound
  split
  · rfl
  · split
    · exact (setFld_keeps _ _ _ _).fab
    · rfl

theorem accessLine_keeps (s : State) (l : Nat) : Keeps s (accessLine s l) := by
  refine ⟨?_, fun hr hb => ?_⟩
  · unfold accessLine
    split
    · rfl
    · split
      · exact (useLine_keeps s l).fab
      · split
        · exact (useLine_keeps _ l).fab.trans (endRound_fab s l)
        · rfl
  · rw [accessLine_calm hr hb]
    exact (useLine_keeps s l).calm hr hb

theorem accessMem_keeps (s : State) (a n : Nat) : Keeps s (accessMem s a n) := .foldl accessLine_keeps _ s

theorem loadRaw_eq : loadRaw = fun s a n =>
    onStored (fun s b => (s, .error b)) (fun s => (s, .ok (peek s a n))) (checkRead s a n) := by
  delta loadRaw
  funext s a n
  rcases checkRead s a n with ⟨t, _ | b⟩ <;> rfl

theorem load_keeps (s : State) (a n : Nat) : Keeps s (load s a n).1 := by
  refine (accessMem_keeps s a n).trans ?_
  unfold load
  simp only [loadRaw_eq]
  exact onStored_keeps Prod.fst (checkRead_keeps _ a n) (fun t _ => .refl t) fun t => .refl t

theorem stopConsumer_keeps (s : State) (always : Bool) (b : Bad) (seq : Nat) : Keeps s (stopConsumer s always b seq) := by
  have hblight : Keeps s (if stepOpen s then raiseBlight s srcUncorr else s) := by
    split
    · exact (raiseBlight_regsAndSteps s _).keeps
    · exact .refl s
  unfold stopConsumer
  dsimp only
  split
  · exact (hblight.trans (record_keeps _ _)).trans (endJob_keeps _ _ _)
  · exact hblight.trans (record_keeps _ _)

/-! ## Writes under the codes -/

theorem markDirty_keeps (s : State) (a n : Nat) : Keeps s (markDirty s a n) := by
  unfold markDirty
  split
  · exact .refl s
  · split
    · exact .refl s
    · exact (keepStale_keeps s a n).trans (lines_keeps _ _ _)

theorem clearCws_keeps (s : State) (cls a n : Nat) : Keeps s (clearCws s cls a n) := ecc_keeps s _

theorem flipCw_keeps (s : State) (cls a : Nat) (ps : List Nat) : Keeps s (flipCw s cls a ps) := setCw_keeps s _ _

theorem mem_kins {α : Type} {k : Nat} {v : α} {m : KMap α} {x : Nat × α} (h : x ∈ kins k v m) : x.1 = k ∨ x ∈ m := by
  induction m with
  | nil => exact .inl (by simpa [kins] using congrArg Prod.fst (List.mem_singleton.1 h))
  | cons y m ih =>
    unfold kins at h
    split at h
    · exact (List.mem_cons.1 h).imp (congrArg Prod.fst) id
    · split at h
      · exact (List.mem_cons.1 h).imp (congrArg Prod.fst) (List.mem_cons_of_mem _)
      · obtain rfl | h := List.mem_cons.1 h
        · exact .inr List.mem_cons_self
        · exact (ih h).imp id (List.mem_cons_of_mem _)

theorem mem_kdel {α : Type} {k : Nat} {m : KMap α} {x : Nat × α} (h : x ∈ kdel k m) : x ∈ m := by
  induction m with
  | nil => exact h
  | cons y m ih =>
    unfold kdel at h
    split at h
    · exact List.mem_cons_of_mem _ (ih h)
    · obtain rfl | h := List.mem_cons.1 h
      · exact List.mem_cons_self
      · exact List.mem_cons_of_mem _ (ih h)

theorem mem_kset {α : Type} [DecidableEq α] {d : Nat → α} {k : Nat} {v : α} {m : KMap α} {x : Nat × α}
    (h : x ∈ kset d m k v) : x.1 = k ∨ x ∈ m := by
  unfold kset at h
  split at h
  · exact .inr (mem_kdel h)
  · exact mem_kins h

/-- Where the line or the 4 KiB of a Crib that holds an offset ends. -/
def lineEnd (a : Nat) : Nat := a / 4096 * 4096 + 4096

/-- From `s` to `t` flip masks have come due for a write in the line of `a` (R502): what they invert is a codeword or a layer
check of that line. -/
structure FlipFrame (a : Nat) (s t : State) : Prop where
  form : t = { s with regs := t.regs, ecc := t.ecc }
  cw : ∀ x ∈ t.ecc.cw, x ∈ s.ecc.cw ∨ x.1 / 4 + cwSize (x.1 % 4) ≤ lineEnd a
  lpar : ∀ x ∈ t.ecc.lpar, x ∈ s.ecc.lpar ∨ x.1 + 512 ≤ lineEnd a
  regs : RegsBut s t [Reg.INT_FLIPCRB, Reg.INT_FLIPLFT, Reg.INT_FLIPGRN]

theorem FlipFrame.refl (a : Nat) (s : State) : FlipFrame a s s := ⟨rfl, fun _ h => .inl h, fun _ h => .inl h, fun _ _ => rfl⟩

theorem FlipFrame.trans {a : Nat} {s t u : State} (h : FlipFrame a s t) (h' : FlipFrame a t u) : FlipFrame a s u where
  form := by rw [h'.form, h.form]
  cw x hx := (h'.cw x hx).elim (h.cw x) .inr
  lpar x hx := (h'.lpar x hx).elim (h.lpar x) .inr
  regs r hr := (h'.regs r hr).trans (h.regs r hr)

theorem FlipFrame.keeps {a : Nat} {s t : State} (h : FlipFrame a s t) : Keeps s t := by
  rw [h.form]; exact keeps_of_eq rfl rfl

theorem flipDone_frame (s : State) (a : Nat) {r : Nat} (f : Fld) (v : Nat)
    (hr : r ∈ [Reg.INT_FLIPCRB, Reg.INT_FLIPLFT, Reg.INT_FLIPGRN]) : FlipFrame a s (setFld s r f v) :=
  ⟨rfl, fun _ h => .inl h, fun _ h => .inl h, fun _ hc => reg_setFld_ne s _ _ fun h => hc (h ▸ hr)⟩

/-- The codeword that holds x ends in the line of x. -/
theorem cwKey_end {cls x : Nat} (h : cls < 3) : cwKey cls x / 4 + cwSize (cwKey cls x % 4) ≤ lineEnd x := by
  have hcls : cls = 0 ∨ cls = 1 ∨ cls = 2 := by omega
  have hk : cwKey cls x / 4 = x - x % cwSize cls := by unfold cwKey; omega
  have hc : cwKey cls x % 4 = cls := by unfold cwKey; omega
  rw [hk, hc]
  unfold lineEnd
  obtain rfl | rfl | rfl := hcls <;> simp only [cwSize] <;> omega

theorem flipCw_frame (s : State) {cls a x : Nat} (ps : List Nat) (h : cls < 3) (hx : x / 4096 = a / 4096) :
    FlipFrame a s (flipCw s cls x ps) := by
  refine ⟨rfl, fun y hy => ?_, fun _ h => .inl h, fun _ _ => rfl⟩
  obtain hk | hm := mem_kset (d := fun _ => {}) (m := s.ecc.cw) hy
  · right
    rw [hk]
    unfold lineEnd
    rw [← hx]
    exact cwKey_end h
  · exact .inl hm

theorem lparFlip_frame (s : State) {a x : Nat} (d : Nat) (hx : x / 4096 = a / 4096) :
    FlipFrame a s (lparFlip s (x - x % 1024) d) := by
  refine ⟨rfl, fun _ h => .inl h, fun y hy => ?_, fun _ _ => rfl⟩
  obtain hk | hm := mem_kset (d := fun _ => 0) hy
  · right
    unfold lineEnd
    omega
  · obtain hk | hm := mem_kset (d := fun _ => 0) (m := s.ecc.lpar) hm
    · right
      unfold lineEnd
      omega
    · exact .inl hm

/-- The armed flip of a Crib. -/
def flipCrib (s : State) (a : Nat) : State :=
  let r := Reg.INT_FLIPCRB
  if fld s r Fld.INT_FLIPCRB_ARM = 1 && fld s r Fld.INT_FLIPCRB_BOUGH = (a - cribBase 0) / 0x400000 then
    setFld (flipCw s 0 a (flipPos 72 [fld s r Fld.INT_FLIPCRB_POS1, fld s r Fld.INT_FLIPCRB_POS2])) r
      Fld.INT_FLIPCRB_ARM 0
  else s

/-- The first codeword of the armed layer that a write wrote: of its start, or of a quarter of its line. -/
def flipStart (s : State) (a n : Nat) : Option Nat :=
  (a :: ((List.range 4).map fun i => a - a % 4096 + 1024 * i).filter fun x => a < x && x < a + n).find? fun x =>
    layerOf s x = fld s Reg.INT_FLIPLFT Fld.INT_FLIPLFT_LAYER

/-- The armed flip of the Loft at a codeword. -/
def flipLoft (s : State) (a x : Nat) : State :=
  let r := Reg.INT_FLIPLFT
  if fld s r Fld.INT_FLIPLFT_ARM = 1 && fld s r Fld.INT_FLIPLFT_SLICE = sliceOf a then
    let s' := flipCw s 1 x (flipPos 144 [fld s r Fld.INT_FLIPLFT_POS1, fld s r Fld.INT_FLIPLFT_POS2])
    let s' := if fld s r Fld.INT_FLIPLFT_LPAR = 1 then lparFlip s' (x - x % 1024) 1 else s'
    setFld s' r Fld.INT_FLIPLFT_ARM 0
  else s

/-- The armed flip of the Granary. -/
def flipGranary (s : State) (a : Nat) : State :=
  let r := Reg.INT_FLIPGRN
  if fld s r Fld.INT_FLIPGRN_ARM = 1 && fld s r Fld.INT_FLIPGRN_CHANNEL = channelOf a then
    setFld (flipCw s 2 a (flipPos 36 [fld s r Fld.INT_FLIPGRN_SYM1, fld s r Fld.INT_FLIPGRN_SYM2,
      fld s r Fld.INT_FLIPGRN_SYM3])) r Fld.INT_FLIPGRN_ARM 0
  else s

theorem applyFlips_eq (s : State) (cls a n : Nat) : applyFlips s cls a n =
    if n = 0 then s else if cls = 0 then flipCrib s a
    else if cls = 1 then ((flipStart s a n).map (flipLoft s a)).getD s
    else flipGranary s a := by
  unfold applyFlips
  refine if_congr Iff.rfl rfl (if_congr Iff.rfl rfl (if_congr Iff.rfl ?_ rfl))
  show (match flipStart s a n with | none => s | some x => flipLoft s a x) = _
  cases flipStart s a n <;> rfl

theorem flipStart_line {s : State} {a n x : Nat} (h : flipStart s a n = some x) : x / 4096 = a / 4096 := by
  have hx := List.mem_of_find?_eq_some h
  simp only [List.mem_cons, List.mem_filter, List.mem_map, List.mem_range] at hx
  obtain rfl | ⟨⟨i, hi, rfl⟩, -⟩ := hx
  · rfl
  · omega

theorem flipCrib_frame (s : State) (a : Nat) : FlipFrame a s (flipCrib s a) := by
  unfold flipCrib
  dsimp only
  split
  · exact (flipCw_frame s _ (by decide) rfl).trans (flipDone_frame _ a _ 0 (by decide))
  · exact .refl a s

theorem flipLoft_frame (s : State) {a x : Nat} (hx : x / 4096 = a / 4096) : FlipFrame a s (flipLoft s a x) := by
  unfold flipLoft
  dsimp only
  split
  · split
    · exact ((flipCw_frame s _ (by decide) hx).trans (lparFlip_frame _ 1 hx)).trans (flipDone_frame _ a _ 0 (by decide))
    · exact (flipCw_frame s _ (by decide) hx).trans (flipDone_frame _ a _ 0 (by decide))
  · exact .refl a s

theorem flipGranary_frame (s : State) (a : Nat) : FlipFrame a s (flipGranary s a) := by
  unfold flipGranary
  dsimp only
  split
  · exact (flipCw_frame s _ (by decide) rfl).trans (flipDone_frame _ a _ 0 (by decide))
  · exact .refl a s

theorem applyFlips_frame (s : State) (cls a n : Nat) : FlipFrame a s (applyFlips s cls a n) := by
  rw [applyFlips_eq]
  split
  · exact .refl a s
  split
  · exact flipCrib_frame s a
  split
  · cases h : flipStart s a n with
    | none => exact .refl a s
    | some x => exact flipLoft_frame s (flipStart_line h)
  · exact flipGranary_frame s a

end Sys2Proof.Machine
end

section
/-! PROOF. A write of memory, part by part: what it leaves of the fabric whatever the codes hold, and, where no code is in
error, the bytes it puts. -/

namespace Sys2Proof.Machine

/-! ## One part -/

/-- The line of a part takes note that it is written (R303). -/
def partMarked (a : Nat) (bs : List Byte) (cls : Nat) (s : State) : State :=
  if cls = 1 && isObj a then markDirty s a bs.length else s

/-- The bytes of a part in place, and the codewords it covers whole made new. -/
def partPut (a : Nat) (bs : List Byte) (cls : Nat) (s : State) : State :=
  poke (clearCws (partMarked a bs cls s) cls (a - a % cwSize cls)
    (cdiv (a + bs.length) (cwSize cls) * cwSize cls - (a - a % cwSize cls))) a bs

/-- Flip masks that come due with a part (R502); a line that the Loft holds too has its own. -/
def partFlipped (a n cls : Nat) (s : State) : State :=
  if cls = 2 && (lineOf s (a / 4096)).isSome then applyFlips (applyFlips (clearCws s 1 a n) 2 a n) 1 a n
  else applyFlips s cls a n

theorem storePart_eq : storePart = fun s a bs =>
    onStored (fun s b => (s, some b)) (fun t => (partFlipped a bs.length (classOf s a) (partPut a bs (classOf s a) t), none))
      (checkCws (fun t => partCws t (classOf s a) a bs.length) (fun t => partLpar t a bs.length) (classOf s a) 9 s) := by
  delta storePart
  funext s a bs
  dsimp only
  rcases checkCws (fun t => partCws t (classOf s a) a bs.length) (fun t => partLpar t a bs.length) (classOf s a) 9 s with
    ⟨t, _ | b⟩
  · exact (apply_ite (fun t => (t, (none : Option Bad))) _ _ _).symm
  · rfl

theorem partMarked_keeps (a : Nat) (bs : List Byte) (cls : Nat) (s : State) : Keeps s (partMarked a bs cls s) := by
  unfold partMarked
  split
  · exact markDirty_keeps s _ _
  · exact .refl s

theorem partPut_keeps (a : Nat) (bs : List Byte) (cls : Nat) (s : State) : Keeps s (partPut a bs cls s) :=
  ((partMarked_keeps a bs cls s).trans (clearCws_keeps _ _ _ _)).trans (poke_keeps _ _ _)

theorem partFlipped_keeps (a n cls : Nat) (s : State) : Keeps s (partFlipped a n cls s) := by
  unfold partFlipped
  split
  · exact ((clearCws_keeps s _ _ _).trans (applyFlips_frame _ _ _ _).keeps).trans (applyFlips_frame _ _ _ _).keeps
  · exact (applyFlips_frame s cls a n).keeps

theorem storePart_keeps (s : State) (a : Nat) (bs : List Byte) : Keeps s (storePart s a bs).1 := by
  simp only [storePart_eq]
  exact onStored_keeps Prod.fst (checkCws_keeps _ _ _ _ s) (fun t _ => .refl t) fun t =>
    (partPut_keeps a bs _ t).trans (partFlipped_keeps a _ _ _)

/-! ## All parts -/

theorem storeParts_cons (s : State) (bs : List Byte) (a n : Nat) (l : List (Nat × Nat)) : storeParts s bs ((a, n) :: l) =
    onStored (fun s b => (s, some b)) (fun t => storeParts t (bs.drop n) l) (storePart s a (bs.take n)) := by
  rw [storeParts]
  rcases storePart s a (bs.take n) with ⟨t, _ | b⟩ <;> rfl

theorem storeParts_keeps (l : List (Nat × Nat)) (s : State) (bs : List Byte) : Keeps s (storeParts s bs l).1 := by
  induction l generalizing s bs with
  | nil => exact .refl s
  | cons x l ih =>
    rw [storeParts_cons]
    exact onStored_keeps Prod.fst (storePart_keeps s _ _) (fun t _ => .refl t) fun t => ih t _

theorem initUnitWrite_keeps (s : State) (u : Nat) : Keeps s (initUnitWrite s u) := by
  unfold initUnitWrite
  split
  · exact .refl s
  · exact keeps_of_eq rfl rfl

theorem initWrite_keeps (s : State) (a n : Nat) : Keeps s (initWrite s a n) := by
  unfold initWrite
  split
  · exact .foldl (fun _ _ => initUnitWrite_keeps _ _) _ s
  · exact .refl s

theorem storeRaw_keeps (s : State) (a : Nat) (bs : List Byte) : Keeps s (storeRaw s a bs).1 :=
  (initWrite_keeps s _ _).trans (storeParts_keeps _ _ _)

theorem store_keeps (s : State) (a : Nat) (bs : List Byte) : Keeps s (store s a bs).1 :=
  (accessMem_keeps s _ _).trans (storeRaw_keeps _ _ _)

theorem setTmap_eq : setTmap = fun s r k v =>
    onStored (fun s b => stopConsumer s false b 0) id (storeRaw s (r.tmap + k) [BitVec.ofNat 8 v]) := by
  delta setTmap
  funext s r k v
  rcases storeRaw s (r.tmap + k) [BitVec.ofNat 8 v] with ⟨t, _ | b⟩ <;> rfl

theorem setTmap_keeps (s : State) (r : PRec) (k v : Nat) : Keeps s (setTmap s r k v) := by
  simp only [setTmap_eq]
  exact onStored_keeps id (storeRaw_keeps s _ _) (fun t b => stopConsumer_keeps t _ b _) .refl

theorem touchRec_keeps (a n : Nat) (s : State) (j : Nat) : Keeps s (touchRec a n s j) := by
  unfold touchRec
  dsimp only
  split
  · exact .refl s
  · exact .foldl (fun _ _ => setTmap_keeps _ _ _ _) _ s

theorem touchGrad_keeps (s : State) (a n : Nat) : Keeps s (touchGrad s a n) := by
  unfold touchGrad
  split
  · exact .foldl (touchRec_keeps a n) _ s
  · exact .refl s

theorem storeSeg_eq : storeSeg = fun s a bs =>
    onStored (fun s b => (s, some b)) (fun s => (touchGrad s a bs.length, none)) (store s a bs) := by
  delta storeSeg
  funext s a bs
  rcases store s a bs with ⟨t, _ | b⟩ <;> rfl

theorem storeSeg_keeps (s : State) (a : Nat) (bs : List Byte) : Keeps s (storeSeg s a bs).1 := by
  simp only [storeSeg_eq]
  exact onStored_keeps Prod.fst (store_keeps s a bs) (fun t _ => .refl t) fun t => touchGrad_keeps t _ _

/-! ## A write where no code is in error -/

/-- The registers of the flip masks (R502). -/
def flipRegs : List Nat := [Reg.INT_FLIPCRB, Reg.INT_FLIPLFT, Reg.INT_FLIPGRN]

/-- Whatever codes are in error, they lie below an offset, and writes before reads are not caught. -/
structure ErrBelow (l : Nat) (s : State) : Prop where
  cw : ∀ x ∈ s.ecc.cw, x.1 / 4 + cwSize (x.1 % 4) ≤ l
  lpar : ∀ x ∈ s.ecc.lpar, x.1 + 512 ≤ l
  init : initMode1 s = false

theorem Sound.errBelow {s : State} (h : Sound s) (l : Nat) : ErrBelow l s := by
  obtain ⟨hcw, hlpar, hinit⟩ := h
  refine ⟨?_, ?_, hinit⟩
  · rw [hcw]; nofun
  · rw [hlpar]; nofun

theorem ErrBelow.cwIn {l : Nat} {s : State} (h : ErrBelow l s) (cls : Nat) {a : Nat} (n : Nat) (hl : l ≤ a) :
    cwIn s cls a n = [] := by
  refine List.filter_eq_nil_iff.2 fun x hx => ?_
  have := h.cw x hx
  simp only [Bool.and_eq_true, decide_eq_true_eq, not_and]
  intro hcls _
  rw [hcls.1] at this
  omega

theorem ErrBelow.lparIn {l : Nat} {s : State} (h : ErrBelow l s) {a : Nat} (n : Nat) (hl : l ≤ a) : lparIn s a n = none := by
  rw [Machine.lparIn, Option.map_eq_none_iff, List.find?_eq_none]
  intro x hx
  have := h.lpar x hx
  simp only [Bool.and_eq_true, decide_eq_true_eq, not_and]
  intro h'
  exfalso
  omega

theorem checkCws_clean {cws : State → List (Nat × CwErr)} {lp : State → Option Nat} {s : State} (cls fuel : Nat)
    (hc : cws s = []) (hl : lp s = none) : checkCws cws lp cls (fuel + 1) s = (s, none) := by
  rw [checkCws_succ, hc]
  simp [readCws, onRead, hl, lparMet]

theorem ErrBelow.partCws {l : Nat} {s : State} (h : ErrBelow l s) (cls : Nat) {a : Nat} (n : Nat) (hl : l ≤ a) :
    partCws s cls a n = [] := by rw [Machine.partCws, h.cwIn cls n hl, List.filter_nil]

theorem ErrBelow.partLpar {l : Nat} {s : State} (h : ErrBelow l s) {a : Nat} (n : Nat) (hl : l ≤ a - a % 16) :
    partLpar s a n = none := by
  have hat (x : Nat) (hx : a ≤ x) : (if x % 16 = 0 then none else Machine.lparIn s (x - x % 16) 16) = none := by
    split
    · rfl
    · exact h.lparIn 16 (by omega)
  simp only [Machine.partLpar, hat a le_rfl, hat (a + n) (by omega), Option.orElse_none]

theorem markDirty_form (s : State) (a n : Nat) : markDirty s a n = { s with loft := (markDirty s a n).loft } := by
  unfold markDirty
  split
  · rfl
  · split <;> rfl

theorem partMarked_form (a : Nat) (bs : List Byte) (cls : Nat) (s : State) :
    partMarked a bs cls s = { s with loft := (partMarked a bs cls s).loft } := by
  unfold partMarked
  split
  · exact markDirty_form s _ _
  · rfl

/-- What a part leaves of the codes: those it covers whole are made new, and no other changes. -/
theorem clearCws_sub (s : State) (cls a n : Nat) :
    (clearCws s cls a n).ecc.cw ⊆ s.ecc.cw ∧ (clearCws s cls a n).ecc.lpar ⊆ s.ecc.lpar := by
  refine ⟨fun x hx => (List.mem_filter.1 hx).1, fun x hx => ?_⟩
  have hx' : x ∈ if cls = 1 then s.ecc.lpar.filter fun (q, _) => !(decide (a ≤ q) && decide (q + 512 ≤ a + n))
    else s.ecc.lpar := hx
  split at hx'
  · exact (List.mem_filter.1 hx').1
  · exact hx'

theorem ErrBelow.of_sub {l : Nat} {s t : State} (h : ErrBelow l s) (hcw : t.ecc.cw ⊆ s.ecc.cw)
    (hlpar : t.ecc.lpar ⊆ s.ecc.lpar) (hregs : t.regs = s.regs) : ErrBelow l t :=
  ⟨fun x hx => h.cw x (hcw hx), fun x hx => h.lpar x (hlpar hx), by
    rw [initMode1, fld_of_reg (reg_congr hregs _)]; exact h.init⟩

theorem ErrBelow.clearCws {l : Nat} {s : State} (h : ErrBelow l s) (cls a n : Nat) : ErrBelow l (clearCws s cls a n) :=
  h.of_sub (clearCws_sub s cls a n).1 (clearCws_sub s cls a n).2 rfl

theorem ErrBelow.flipped {a : Nat} {s t : State} (h : ErrBelow (lineEnd a) s) (hf : FlipFrame a s t) :
    ErrBelow (lineEnd a) t := by
  refine ⟨fun x hx => (hf.cw x hx).elim (h.cw x) id, fun x hx => (hf.lpar x hx).elim (h.lpar x) id, ?_⟩
  rw [initMode1, fld_of_reg (hf.regs _ (by decide))]
  exact h.init

theorem ErrBelow.mono {l m : Nat} {s : State} (h : ErrBelow l s) (hm : l ≤ m) : ErrBelow m s :=
  ⟨fun x hx => (h.cw x hx).trans hm, fun x hx => (h.lpar x hx).trans hm, h.init⟩

theorem partFlipped_clean {a : Nat} (n cls : Nat) {s : State} (h : ErrBelow (lineEnd a) s) :
    ErrBelow (lineEnd a) (partFlipped a n cls s) ∧ (partFlipped a n cls s).mem = s.mem
      ∧ RegsBut s (partFlipped a n cls s) flipRegs := by
  unfold partFlipped
  split
  · have h1 := applyFlips_frame (clearCws s 1 a n) 2 a n
    have h2 := applyFlips_frame (applyFlips (clearCws s 1 a n) 2 a n) 1 a n
    exact ⟨((h.clearCws 1 a n).flipped h1).flipped h2, by rw [h2.form, h1.form]; rfl, fun r hr =>
      (h2.regs r hr).trans (h1.regs r hr)⟩
  · have h1 := applyFlips_frame s cls a n
    exact ⟨h.flipped h1, by rw [h1.form], h1.regs⟩

theorem partPut_clean {l a : Nat} (bs : List Byte) (cls : Nat) {s : State} (h : ErrBelow l s) :
    ErrBelow l (partPut a bs cls s) ∧ (partPut a bs cls s).mem = memPut s.mem a bs
      ∧ (partPut a bs cls s).regs = s.regs := by
  have hform := partMarked_form a bs cls s
  have hmark : ErrBelow l (partMarked a bs cls s) := by
    rw [hform]; exact h.of_sub (fun _ hx => hx) (fun _ hx => hx) rfl
  refine ⟨(hmark.clearCws cls _ _).of_sub (fun _ hx => hx) (fun _ hx => hx) rfl, ?_, ?_⟩
  · show memPut (partMarked a bs cls s).mem a bs = _
    rw [hform]
  · show (partMarked a bs cls s).regs = _
    rw [hform]

/-- One part is written, its codes and those beyond it in order: what errs afterwards lies in its line. -/
theorem storePart_clean {l : Nat} {s : State} (h : ErrBelow l s) {a : Nat} (bs : List Byte) (hl : l ≤ a - a % 16) :
    ∃ t, storePart s a bs = (t, none) ∧ t.mem = memPut s.mem a bs ∧ RegsBut s t flipRegs ∧ ErrBelow (lineEnd a) t := by
  obtain ⟨hput, hmem, hregs⟩ := partPut_clean (a := a) bs (classOf s a) (h.mono (m := lineEnd a) (by unfold lineEnd; omega))
  obtain ⟨hflip, hmem', hregs'⟩ := partFlipped_clean bs.length (classOf s a) hput
  refine ⟨_, ?_, hmem'.trans hmem, fun r hr => (hregs' r hr).trans (reg_congr hregs r), hflip⟩
  simp only [storePart_eq]
  rw [checkCws_clean _ _ (h.partCws _ _ (by omega)) (h.partLpar _ hl)]
  rfl

theorem memPut_append (m : KMap Byte) (a : Nat) (xs ys : List Byte) :
    memPut m a (xs ++ ys) = memPut (memPut m a xs) (a + xs.length) ys := by
  induction xs generalizing m a with
  | nil => rfl
  | cons x xs ih => rw [List.cons_append, memPut, ih, memPut, List.length_cons, Nat.add_assoc, Nat.add_comm 1]

theorem linesOf_zero (fuel a : Nat) : linesOf fuel a 0 = [] := by cases fuel <;> rfl

/-- Parts that cover a whole range put its bytes. -/
theorem storeParts_clean (fuel : Nat) {l a : Nat} {s : State} (bs : List Byte) (h : ErrBelow l s) (hl : l ≤ a - a % 16)
    (hf : bs.length + a % 4096 ≤ 4096 * fuel) :
    ∃ t, storeParts s bs (linesOf fuel a bs.length) = (t, none) ∧ t.mem = memPut s.mem a bs ∧ RegsBut s t flipRegs := by
  induction fuel generalizing l a s bs with
  | zero =>
    have hnil : bs = [] := List.length_eq_zero_iff.1 (by omega)
    subst hnil
    exact ⟨s, rfl, rfl, fun _ _ => rfl⟩
  | succ fuel ih =>
    rw [linesOf]
    split
    · next hn =>
      obtain rfl := List.length_eq_zero_iff.1 hn
      exact ⟨s, rfl, rfl, fun _ _ => rfl⟩
    dsimp only
    obtain hone | hmore := Nat.le_total bs.length (4096 - a % 4096)
    · obtain ⟨t, ht, hmem, hregs, -⟩ := storePart_clean h bs hl
      refine ⟨t, ?_, hmem, hregs⟩
      rw [Nat.min_eq_left hone, storeParts_cons, List.take_length, ht, Nat.sub_self, linesOf_zero]
      rfl
    · obtain ⟨t, ht, hmem, hregs, herr⟩ := storePart_clean h (bs.take (4096 - a % 4096)) hl
      have hend : a + (4096 - a % 4096) = lineEnd a := by unfold lineEnd; omega
      have hlen : (bs.drop (4096 - a % 4096)).length = bs.length - (4096 - a % 4096) := List.length_drop
      obtain ⟨v, hv, hmem', hregs'⟩ := ih (a := lineEnd a) (bs.drop (4096 - a % 4096)) herr (by unfold lineEnd; omega)
        (by rw [hlen]; unfold lineEnd; omega)
      refine ⟨v, ?_, ?_, fun r hr => (hregs' r hr).trans (hregs r hr)⟩
      · rw [Nat.min_eq_right hmore, storeParts_cons, ht, hend, ← hlen]
        exact hv
      · conv_rhs => rw [← List.take_append_drop (4096 - a % 4096) bs, memPut_append, List.length_take_of_le hmore, hend]
        rw [hmem', hmem]

theorem initWrite_off {s : State} (h : initMode1 s = false) (a n : Nat) : initWrite s a n = s := by
  simp [initWrite, h]

theorem storeRaw_clean {s : State} (h : Sound s) (a : Nat) (bs : List Byte) :
    ∃ t, storeRaw s a bs = (t, none) ∧ t.mem = memPut s.mem a bs ∧ RegsBut s t flipRegs := by
  rw [storeRaw, initWrite_off h.2.2]
  exact storeParts_clean _ bs (h.errBelow 0) (Nat.zero_le _) (by omega)

/-- From `s` to `t` lines of the Loft have been used, and nothing else changes. -/
def LoftOnly (s t : State) : Prop := t = { s with loft := t.loft }

theorem LoftOnly.refl (s : State) : LoftOnly s s := rfl

theorem LoftOnly.trans {s t u : State} (h : LoftOnly s t) (h' : LoftOnly t u) : LoftOnly s u := by
  unfold LoftOnly at *
  rw [h', h]

theorem useLine_loftOnly {s : State} (h : s.ecc.cw = []) (l : Nat) : LoftOnly s (useLine s l) := by
  have hrake : dropRake s l = s := by simp [dropRake, h]
  unfold useLine
  dsimp only
  rw [hrake]
  split <;> rfl

/-- With no round open, no bank in copy and no codeword in error, an access of memory uses lines and does nothing else. -/
theorem accessMem_loftOnly {s : State} (hr : s.loft.rounds = []) (hb : s.loft.banks = []) (hc : s.ecc.cw = []) (a n : Nat) :
    LoftOnly s (accessMem s a n) := by
  have hstep (t : State) (l : Nat) (h : LoftOnly s t ∧ Keeps s t) : LoftOnly s (accessLine t l) ∧ Keeps s (accessLine t l) := by
    obtain ⟨honly, hkeeps⟩ := h
    obtain ⟨hr', hb', -⟩ := hkeeps.calm hr hb
    have hcw : t.ecc.cw = [] := by rw [honly]; exact hc
    refine ⟨honly.trans ?_, hkeeps.trans (accessLine_keeps t l)⟩
    rw [accessLine_calm hr' hb']
    exact useLine_loftOnly hcw l
  exact (List.foldlRecOn (motive := fun t => LoftOnly s t ∧ Keeps s t) (roundLines s a n) accessLine ⟨.refl s, .refl s⟩
    fun t h l _ => hstep t l h).1

theorem LoftOnly.sound {s t : State} (h : LoftOnly s t) (hs : Sound s) : Sound t := by rw [h]; exact hs

/-- A segment is written where no code is in error and no records are kept (R374). -/
theorem storeSeg_clean {s : State} (hr : s.loft.rounds = []) (hb : s.loft.banks = []) (h : Sound s) (hp : pcount s = 0)
    (a : Nat) (bs : List Byte) : ∃ t, storeSeg s a bs = (t, none) ∧ t.mem = memPut s.mem a bs := by
  have honly := accessMem_loftOnly hr hb h.1 a bs.length
  obtain ⟨t, ht, hmem, hregs⟩ := storeRaw_clean (honly.sound h) a bs
  have hcount : pcount t = 0 := by
    rw [pcount, fld_of_reg (hregs _ (by decide)), fld_of_reg (reg_congr (by rw [honly]) _)]
    exact hp
  have hquiet : touchGrad t a bs.length = t := by simp [touchGrad, hcount]
  refine ⟨t, ?_, by rw [hmem, honly]⟩
  have hstore : store s a bs = (t, none) := ht
  simp only [storeSeg_eq, hstore, onStored, hquiet]

theorem checkRead_clean {s : State} (h : Sound s) (a n : Nat) : checkRead s a n = (s, none) := by
  simp [checkRead, uninitIn, h.2.2, checkParts_sound s h]

theorem guardRead_eq : guardRead = fun s a n go =>
    onStored (fun s b => stopConsumer s false b 0) go (checkRead (accessMem s a n) a n) := by
  delta guardRead
  funext s a n go
  rcases checkRead (accessMem s a n) a n with ⟨t, _ | bad⟩ <;> rfl

/-- A table is read where no code is in error: its lines are used. -/
theorem guardRead_clean {s : State} (hr : s.loft.rounds = []) (hb : s.loft.banks = []) (h : Sound s) (a n : Nat)
    (go : State → State) : guardRead s a n go = go (accessMem s a n) := by
  simp only [guardRead_eq, checkRead_clean ((accessMem_loftOnly hr hb h.1 a n).sound h)]
  rfl

end Sys2Proof.Machine
end

section
/-! PROOF. Runs of reduction trees (R444 to R446). -/

namespace Sys2Proof.Machine

theorem orWait_still {s t : State} (h : t.loft.stall = s.loft.stall) : orWait s t = t := by
  have hstall : stalledBy s t = [] := by rw [stalledBy, h, List.drop_length]
  simp [orWait, hstall]

@[simp] theorem treeSt_setTree (s : State) (t : Nat) (x : TreeSt) : treeSt (setTree s t x) t = x := kget_kset_self _ _ _ _

theorem treeSt_congr {s t : State} (h : t.fab = s.fab) (k : Nat) : treeSt t k = treeSt s k := by rw [treeSt, treeSt, h]

/-- What a run of tree t has come to: it is under way, or it is over and listed. -/
def TreeRuns (t : Nat) (s : State) : Prop := (treeSt s t).armed = false ∧ (treeSt s t).run = true

theorem Keeps.treeRuns {s u : State} {t : Nat} (h : Keeps s u) (hs : TreeRuns t s) : TreeRuns t u := by
  unfold TreeRuns
  rw [treeSt_congr h.fab]
  exact hs

/-- From `s` to `t` memory and registers are read, written and counted, tree k has taken note, and nothing waits. -/
structure TreeStep (k : Nat) (s t : State) : Prop where
  runs : TreeRuns k s → TreeRuns k t
  calm : s.loft.rounds = [] → s.loft.banks = [] → t.loft.rounds = [] ∧ t.loft.banks = [] ∧ t.loft.stall = s.loft.stall

theorem TreeStep.refl (k : Nat) (s : State) : TreeStep k s s := ⟨id, fun h h' => ⟨h, h', rfl⟩⟩

theorem combineData_keeps (e : Tree) (i : Nat) (l : List Nat) (s : State) (r : List Byte) (ev : Ev) :
    Keeps s (combineData s e i l r ev).1 := by
  induction l generalizing s r ev with
  | nil => exact .refl s
  | cons c l ih =>
    have hload := load_keeps s (e.scratch + c * e.len + 512 * i) (e.segLen i)
    rw [combineData]
    revert hload
    rcases load s (e.scratch + c * e.len + 512 * i) (e.segLen i) with ⟨t, b | x⟩ <;> intro hload
    · exact hload
    · exact hload.trans (ih t _ _)

theorem TreeStep.trans {k : Nat} {s t u : State} (h : TreeStep k s t) (h' : TreeStep k t u) : TreeStep k s u := by
  refine ⟨fun hs => h'.runs (h.runs hs), fun hr hb => ?_⟩
  obtain ⟨hr, hb, hs⟩ := h.calm hr hb
  obtain ⟨hr, hb, hs'⟩ := h'.calm hr hb
  exact ⟨hr, hb, hs'.trans hs⟩

theorem Keeps.treeStep {s t : State} (h : Keeps s t) (k : Nat) : TreeStep k s t := ⟨h.treeRuns, h.calm⟩

/-- The tree takes note of a segment; its run goes on. -/
theorem setTree_treeStep (s : State) (k : Nat) {x : TreeSt} (ha : x.armed = (treeSt s k).armed)
    (hr : x.run = (treeSt s k).run) : TreeStep k s (setTree s k x) := by
  refine ⟨?_, fun h h' => ⟨h, h', rfl⟩⟩
  unfold TreeRuns
  rw [treeSt_setTree, ha, hr]
  exact id

theorem numEv_keeps (s : State) (set : Nat) (e : Ev) : Keeps s (numEv s set e) := by
  rw [numEv_form]; exact keeps_of_eq rfl rfl

theorem numEvB_keeps (s : State) (set : Nat) (e : Ev) : Keeps s (numEvB s set e) := by
  unfold numEvB
  dsimp only
  split
  · exact (numEv_keeps s set e).trans (raiseBlight_regsAndSteps _ _).keeps
  · exact numEv_keeps s set e

/-- Segment i has been combined: its events are counted and the tree takes note (R444). -/
def segCombined (t i : Nat) (ev : Ev) (s : State) : State :=
  setTree (numEvB s (Reg.MIL_NUMOVF (t % 8)) ev) t { treeSt s t with
    combined := (treeSt s t).combined ++ [i], landed := (treeSt s t).landed.filter fun y => y.2 ≠ i }

theorem combineSeg_eq : combineSeg = fun s t i =>
    onDone (fun s b => stopConsumer s false b 0) (fun u r =>
      onDone (fun s b => stopConsumer s false b 0) (fun v q =>
        onStored (fun s b => stopConsumer s false b 0) (segCombined t i q.2)
          (storeSeg v ((treeEnt s t).buf + 512 * i) q.1))
        (combineData u (treeEnt s t) i (List.range (treeEnt s t).nchild) r {}))
      (load s ((treeEnt s t).buf + 512 * i) ((treeEnt s t).segLen i)) := by
  delta combineSeg
  funext s t i
  dsimp only
  rcases load s ((treeEnt s t).buf + 512 * i) ((treeEnt s t).segLen i) with ⟨u, b | r⟩
  · rfl
  · dsimp only [onDone]
    rcases combineData u (treeEnt s t) i (List.range (treeEnt s t).nchild) r {} with ⟨v, b | ⟨r, ev⟩⟩
    · rfl
    · dsimp only
      rcases storeSeg v ((treeEnt s t).buf + 512 * i) r with ⟨w, _ | b⟩ <;> rfl

theorem segCombined_treeStep (t i : Nat) (ev : Ev) (s : State) : TreeStep t s (segCombined t i ev s) := by
  have hk := numEvB_keeps s (Reg.MIL_NUMOVF (t % 8)) ev
  have htree : treeSt (numEvB s (Reg.MIL_NUMOVF (t % 8)) ev) t = treeSt s t := treeSt_congr hk.fab t
  exact (hk.treeStep t).trans (setTree_treeStep _ t (by rw [htree]) (by rw [htree]))

theorem combineSeg_treeStep (s : State) (t i : Nat) : TreeStep t s (combineSeg s t i) := by
  have hstop (u : State) (b : Bad) : TreeStep t u (stopConsumer u false b 0) := (stopConsumer_keeps u _ b _).treeStep t
  have hload := (load_keeps s ((treeEnt s t).buf + 512 * i) ((treeEnt s t).segLen i)).treeStep t
  simp only [combineSeg_eq]
  revert hload
  rcases load s ((treeEnt s t).buf + 512 * i) ((treeEnt s t).segLen i) with ⟨u, b | r⟩ <;> intro hload <;>
    refine hload.trans ?_
  · exact hstop u b
  have hdata := (combineData_keeps (treeEnt s t) i (List.range (treeEnt s t).nchild) u r {}).treeStep t
  simp only [onDone]
  revert hdata
  rcases combineData u (treeEnt s t) i (List.range (treeEnt s t).nchild) r {} with ⟨v, b | q⟩ <;> intro hdata <;>
    refine hdata.trans ?_
  · exact hstop v b
  have hstore := (storeSeg_keeps v ((treeEnt s t).buf + 512 * i) q.1).treeStep t
  dsimp only
  revert hstore
  rcases storeSeg v ((treeEnt s t).buf + 512 * i) q.1 with ⟨w, _ | b⟩ <;> intro hstore <;> refine hstore.trans ?_
  · exact segCombined_treeStep t i q.2 w
  · exact hstop w b

/-- Every segment that is ready is combined. -/
def treeCombined (s : State) (t : Nat) : State :=
  (List.range (treeEnt s t).segs).foldl (fun s i => if combineReady s t i then combineSeg s t i else s) s

theorem treeGo_eq (s : State) (t : Nat) : treeGo s t = runCheck (treeCombined s t) t := rfl

theorem treeCombined_treeStep (s : State) (t : Nat) : TreeStep t s (treeCombined s t) :=
  List.foldlRecOn (motive := fun u => TreeStep t s u) _ _ (.refl t s) fun u hu i _ => by
    split
    · exact hu.trans (combineSeg_treeStep u t i)
    · exact hu

/-- A tree whose run is over: it may be armed, and has forgotten what it combined and sent. -/
def treeEnded (x : TreeSt) : TreeSt := { x with run := false, combined := [], upSent := [], down := [], downSent := [] }

/-- The state in which the run of tree t is over and listed (R446). -/
def runDone (s : State) (t : Nat) : State :=
  sendField { setTree s t (treeEnded (treeSt s t)) with frm := { s.frm with treesDone := s.frm.treesDone ++ [t] } }
    (treeEnt (setTree s t (treeEnded (treeSt s t))) t).sig

theorem runCheck_cases (s : State) (t : Nat) : (runCheck s t = s ∧ runOver s t = false) ∨
    (runCheck s t = runDone s t ∧ runOver s t = true) := by
  unfold runCheck
  cases h : runOver s t
  · exact .inl ⟨rfl, rfl⟩
  · exact .inr ⟨rfl, rfl⟩

theorem runDone_tree (s : State) (t : Nat) : (treeSt (runDone s t) t).armed = (treeSt s t).armed ∧ t ∈ (runDone s t).frm.treesDone
    ∧ (runDone s t).loft = s.loft ∧ (runDone s t).mem = s.mem := by
  have hfab : (runDone s t).fab = (setTree s t (treeEnded (treeSt s t))).fab := by
    unfold runDone
    rw [sendField_form]
  refine ⟨?_, ?_, ?_, ?_⟩
  · rw [treeSt_congr hfab, treeSt_setTree]
    rfl
  all_goals
    unfold runDone
    rw [sendField_form]
  · exact List.mem_append_right _ (List.mem_singleton_self t)
  · rfl
  · rfl

/-! ## The entry of a tree -/

theorem byteAt_congr {s t : State} (hm : t.mem = s.mem) (hr : t.regs = s.regs) (a : Nat) : byteAt t a = byteAt s a := by
  have hdirect : isMem t a = isMem s a := by
    rw [isMem, isMem, isDirect, isDirect, directSize, directSize, fld_of_reg (reg_congr hr _)]
  rw [byteAt, byteAt, hdirect, hm]

theorem treeEnt_congr {s t : State} (hm : t.mem = s.mem) (hr : t.regs = s.regs) (k : Nat) : treeEnt t k = treeEnt s k := by
  have hbase : reg64 t Reg.FAB_TTAB_LO = reg64 s Reg.FAB_TTAB_LO := reg64_of_reg (reg_congr hr _) (reg_congr hr _)
  have hpeek (a n : Nat) : peek t a n = peek s a n := List.map_congr_left fun i _ => byteAt_congr hm hr _
  rw [treeEnt, treeEnt, hbase, hpeek]

theorem treeUsed_congr {s t : State} (hm : t.mem = s.mem) (hr : t.regs = s.regs) (k : Nat) : treeUsed t k = treeUsed s k := by
  rw [treeUsed, treeUsed, treeEnt_congr hm hr, fld_of_reg (reg_congr hr _)]

theorem gateOpen_congr {s t : State} (hr : t.regs = s.regs) (e : Tree) : gateOpen t e = gateOpen s e := by
  rw [gateOpen, gateOpen, counter, counter, reg64_of_reg (reg_congr hr _) (reg_congr hr _)]

theorem treeUsed_lt {s : State} {k : Nat} (h : treeUsed s k = true) : k < fld s Reg.FAB_TCOUNT Fld.FAB_TCOUNT_COUNT := by
  simp only [treeUsed, Bool.and_eq_true, decide_eq_true_eq] at h
  exact h.1

/-- Tree k has begun its run. -/
def runBegun (s : State) (k : Nat) : State := setTree s k { treeSt s k with run := true, armed := false }

theorem runBegun_runs (s : State) (k : Nat) : TreeRuns k (runBegun s k) := by simp [TreeRuns, runBegun]

/-- A tree that may run does: its entry is read, and its run begins (R445). -/
theorem treeRunStart_begins {s w : State} {k : Nat} (hused : treeUsed s k = true) (hrun : (treeSt s k).run = false)
    (harm : (treeSt s k).armed = true) (hgate : gateOpen s (treeEnt s k) = true) (hw : LoftOnly s w) :
    treeRunStart w k = treeGo (runBegun w k) k := by
  have hm : w.mem = s.mem := by rw [hw]
  have hr : w.regs = s.regs := by rw [hw]
  have htree : treeSt w k = treeSt s k := treeSt_congr (by rw [hw]) k
  have hgo : (treeUsed w k && !(treeSt w k).run && (treeSt w k).armed && gateOpen w (treeEnt w k)) = true := by
    rw [treeUsed_congr hm hr, htree, treeEnt_congr hm hr, gateOpen_congr hr, hused, hrun, harm, hgate]
    rfl
  exact if_pos hgo

/-- With no segment landed nothing is combined. -/
theorem treeCombined_none {s : State} {k : Nat} (h : ∀ i, combineReady s k i = false) : treeCombined s k = s :=
  List.foldlRecOn (motive := fun u => u = s) _ _ rfl fun u hu i _ => by
    rw [hu, h i]
    rfl

/-- A run with segments to come from every child combines nothing, and goes on. -/
theorem treeGo_waits {s : State} {k : Nat} (ht : treeSt s k = { run := true, armed := false })
    (hc : (treeEnt s k).nchild ≠ 0) (hl : (treeEnt s k).len ≠ 0) : treeGo s k = s := by
  have hready (i : Nat) : combineReady s k i = false := by
    have hchild : ((List.range (treeEnt s k).nchild).all fun c => (treeSt s k).landed.contains (c, i)) = false :=
      List.all_eq_false.2 ⟨0, List.mem_range.2 (Nat.pos_of_ne_zero hc), by simp [ht]⟩
    simp only [combineReady, hchild, Bool.and_false]
  have hover : runOver s k = false := by
    have hseg : 0 < (treeEnt s k).segs := by
      unfold Tree.segs cdiv
      omega
    have hzero : (if (treeEnt s k).mode = 1 then
        (if (treeEnt s k).isRoot s then (treeSt s k).combined.contains 0 else (treeSt s k).upSent.contains 0)
      else downReady s k 0 && ((treeEnt s k).isRoot s || (treeSt s k).upSent.contains 0)
        && (List.range (treeEnt s k).nchild).all fun c => (treeSt s k).downSent.contains (c, 0)) = false := by
      simp [ht, downReady]
    unfold runOver
    simp only [Bool.and_eq_false_iff]
    exact .inr (List.all_eq_false.2 ⟨0, List.mem_range.2 hseg, by rw [hzero]; decide⟩)
  rw [treeGo_eq, treeCombined_none hready]
  obtain ⟨h, -⟩ | ⟨-, h⟩ := runCheck_cases s k
  · exact h
  · rw [hover] at h; cases h

end Sys2Proof.Machine

namespace Sys2Proof.Settled

open Sys2Proof.Machine

section
variable {s : State} {tr : Nat} (ha : alive s = true) (hused : treeUsed s tr = true) (hrun : (treeSt s tr).run = false)
  (harm : (treeSt s tr).armed = true) (hgate : gateOpen s (treeEnt s tr) = true) (hcalm : Statements.Calm s)
  (hclean : Statements.Clean s)
include ha hused hrun harm hgate hcalm hclean

/-- TREE_RUN_START of a tree that may run. -/
theorem treeRunStart_exec : ∃ w, LoftOnly s w ∧ Keeps s w ∧
    exec (.treeRunStart tr) s = .next (ended s (orWait s (treeGo (runBegun w tr) tr))) := by
  obtain ⟨-, -, -, hr, hb, -⟩ := hcalm
  have hexec : exec (.treeRunStart tr) s = finishWait s (if tr < fld s Reg.FAB_TCOUNT Fld.FAB_TCOUNT_COUNT then
      withTree s tr fun s => treeRunStart s tr else s) := rfl
  have honly := accessMem_loftOnly hr hb hclean.1 (reg64 s Reg.FAB_TTAB_LO + 64 * tr) 64
  refine ⟨_, honly, accessMem_keeps s _ _, ?_⟩
  rw [hexec, if_pos (treeUsed_lt hused), withTree, guardRead_clean hr hb hclean, treeRunStart_begins hused hrun harm hgate honly,
    finishWait, finish_alive ha]

theorem treeRunStart_runs : Runs (.treeRunStart tr) s fun t =>
    (treeSt t tr).armed = false ∧ ((treeSt t tr).run = true ∨ tr ∈ t.frm.treesDone) := by
  obtain ⟨w, honly, hkeeps, hexec⟩ := treeRunStart_exec ha hused hrun harm hgate hcalm hclean
  obtain ⟨-, -, -, hr, hb, -⟩ := hcalm
  obtain ⟨hr', hb', hst⟩ := hkeeps.calm hr hb
  have hstep := treeCombined_treeStep (runBegun w tr) tr
  obtain ⟨harmed, hruns⟩ := hstep.runs (runBegun_runs w tr)
  obtain ⟨-, -, hst'⟩ := hstep.calm hr' hb'
  have hstall : (treeCombined (runBegun w tr) tr).loft.stall = s.loft.stall := hst'.trans hst
  rw [treeGo_eq] at hexec
  obtain ⟨hcheck, -⟩ | ⟨hcheck, -⟩ := runCheck_cases (treeCombined (runBegun w tr) tr) tr
  · rw [hcheck, orWait_still hstall] at hexec
    exact ⟨_, hexec, harmed, .inl hruns⟩
  · obtain ⟨harmed', hdone, hloft, -⟩ := runDone_tree (treeCombined (runBegun w tr) tr) tr
    rw [hcheck, orWait_still (by rw [hloft]; exact hstall)] at hexec
    exact ⟨_, hexec, harmed'.trans harmed, .inr hdone⟩

theorem treeRunStart_waits (ht : treeSt s tr = { armed := true }) (hc : (treeEnt s tr).nchild ≠ 0)
    (hl : (treeEnt s tr).len ≠ 0) : Runs (.treeRunStart tr) s fun t =>
      treeSt t tr = { run := true, armed := false } ∧ t.regs = s.regs ∧ MemSame s t ∧ t.net = s.net := by
  obtain ⟨w, honly, hkeeps, hexec⟩ := treeRunStart_exec ha hused hrun harm hgate hcalm hclean
  obtain ⟨-, -, -, hr, hb, -⟩ := hcalm
  have hm : w.mem = s.mem := by rw [honly]
  have hregs : w.regs = s.regs := by rw [honly]
  have htree : treeSt (runBegun w tr) tr = { run := true, armed := false } := by
    rw [runBegun, treeSt_setTree, treeSt_congr hkeeps.fab, ht]
  have hent : treeEnt (runBegun w tr) tr = treeEnt s tr := treeEnt_congr (s := s) hm hregs tr
  rw [treeGo_waits htree (hent ▸ hc) (hent ▸ hl), orWait_still (t := runBegun w tr) (hkeeps.calm hr hb).2.2] at hexec
  refine ⟨_, hexec, htree, hregs, ⟨hm, ?_⟩, ?_⟩
  · show w.ecc = s.ecc
    rw [honly]
  · show w.net = s.net
    rw [honly]

end

end Sys2Proof.Settled
end

section
/-! PROOF. Packets that a link takes for this device (R410 to R412, R425, R429). -/

namespace Sys2Proof.Machine

/-- From `s` to `t` a link has taken a packet: its port, and the count of what its lanes corrected. -/
structure Linked (p : Nat) (s t : State) : Prop where
  form : t = { s with fab := t.fab, regs := t.regs }
  regs : RegsBut s t [Reg.FAB_FECCORR p]

theorem Linked.trans {p : Nat} {s t u : State} (h : Linked p s t) (h' : Linked p t u) : Linked p s u :=
  ⟨by rw [h'.form, h.form], fun a ha => (h'.regs a ha).trans (h.regs a ha)⟩

theorem setPort_linked (s : State) (p : Nat) (x : PortSt) : Linked p s (setPort s p x) := ⟨rfl, fun _ _ => rfl⟩

theorem mapPort_linked (s : State) (p : Nat) (f : PortSt → PortSt) : Linked p s (mapPort s p f) := setPort_linked s p _

theorem countFec_linked (s : State) (p : Nat) (t : Trailer) : Linked p s (countFec s p t) := by
  unfold countFec
  split
  · exact ⟨rfl, fun _ _ => rfl⟩
  · exact ⟨rfl, fun a ha => reg_setRegN_ne s _ fun h => ha (by simp [h])⟩

theorem takeTrailer_linked (s : State) (p : Nat) (t : Trailer) : Linked p s (takeTrailer s p t) := by
  unfold takeTrailer
  dsimp only
  split
  · exact setPort_linked s p _
  · exact setPort_linked s p _

/-- A packet that the link takes in its order is acted on with its opcode and addresses as they came. -/
theorem inOrder_linked {s u : State} {p : Nat} {k k' : Packet} (h : inOrder s p k = (u, some k')) : Linked p s u := by
  unfold inOrder at h
  dsimp only at h
  split at h
  · cases h
  · split at h
    · cases h
    · split at h
      · cases h
      · split at h
        · cases h
        · cases h
          exact mapPort_linked s p _

theorem arrive_linked {s u : State} {p : Nat} {k k' : Packet} (h : arrive s p k = (u, some k')) : p < 24 ∧ Linked p s u := by
  unfold arrive at h
  dsimp only at h
  split at h
  · cases h
  next hp =>
    refine ⟨Nat.lt_of_not_ge hp, ?_⟩
    split at h
    · cases h
    split at h
    · cases h
    split at h
    · cases h
    split at h
    · cases h
    exact ((countFec_linked s p k.trailer).trans (takeTrailer_linked _ p k.trailer)).trans (inOrder_linked h)

theorem routeIn_here {s : State} {k : Packet} (h : routeOf s k.dst = some 30) (p : Nat) (act : Packet → State → State) :
    routeIn s p k act = act k s := by
  simp [routeIn, h]

/-- A packet for this device that the link takes: its receive buffer is free, and it takes its effect. -/
theorem recvNow_here {s u : State} {p op : Nat} {k k' : Packet} (h : Statements.Accepted s u p op k k')
    (act : Packet → State → State) : recvNow s p op k act = act k' (creditBack u p k') := by
  obtain ⟨⟨-, hop, harr⟩, hroute⟩ := h
  unfold recvNow recv
  rw [if_neg (not_not.2 hop), harr]
  exact routeIn_here hroute p _

theorem creditBack_linked (s : State) (p : Nat) (k : Packet) : Linked p s (creditBack s p k) := mapPort_linked s p _

section
variable {p : Nat} {s t : State} (h : Linked p s t)
include h

theorem Linked.memSame : MemSame s t := by rw [h.form]; exact ⟨rfl, rfl⟩
theorem Linked.carts : t.carts = s.carts := by rw [h.form]
theorem Linked.frm : t.frm = s.frm := by rw [h.form]
theorem Linked.loft : t.loft = s.loft := by rw [h.form]
theorem Linked.net : t.net = s.net := by rw [h.form]
theorem Linked.host : t.host = s.host := by rw [h.form]

end

/-- The state in which a packet for this device takes its effect. -/
theorem accepted_linked {s u : State} {p op : Nat} {k k' : Packet} (h : Statements.Accepted s u p op k k') :
    alive s = true ∧ p < 24 ∧ Linked p s u ∧ Linked p s (creditBack u p k') := by
  obtain ⟨⟨ha, -, harr⟩, -⟩ := h
  obtain ⟨hp, hl⟩ := arrive_linked harr
  exact ⟨ha, hp, hl, hl.trans (creditBack_linked u p k')⟩

theorem creditBack_regs (s : State) (p : Nat) (k : Packet) : (creditBack s p k).regs = s.regs := rfl
theorem creditBack_carts (s : State) (p : Nat) (k : Packet) : (creditBack s p k).carts = s.carts := rfl
theorem creditBack_memSame (s : State) (p : Nat) (k : Packet) : MemSame s (creditBack s p k) := ⟨rfl, rfl⟩

/-! ## ACK (R442) -/

theorem cart_dropCart (s : State) (id j : Nat) : cart (dropCart s id) j = if id = j then none else cart s j :=
  kfind_kdel _ _ _

theorem cart_setCart (s : State) (id j : Nat) (c : CartSt) : cart (setCart s id c) j = if id = j then some c else cart s j :=
  kfind_kins _ _ _ _

theorem cart_congr {s t : State} (h : t.carts = s.carts) (id : Nat) : cart t id = cart s id := by rw [cart, cart, h]

/-- From `s` to `t` carts and scoreboards have changed. -/
def CartsOnly (s t : State) : Prop := t = { s with carts := t.carts, boughs := t.boughs, frm := t.frm }

theorem CartsOnly.trans {s t u : State} (h : CartsOnly s t) (h' : CartsOnly t u) : CartsOnly s u := by
  unfold CartsOnly at *
  rw [h', h]

theorem setCart_cartsOnly (s : State) (id : Nat) (c : CartSt) : CartsOnly s (setCart s id c) := rfl

theorem dropCart_cartsOnly (s : State) (id : Nat) : CartsOnly s (dropCart s id) := rfl

theorem markDone_cartsOnly (s : State) (b id : Nat) : CartsOnly s (markDone s b id) := rfl

/-- A cart whose segments have all left leaves its mark on the scoreboard, and the carts stand. -/
theorem syncCart_frame (s : State) (id : Nat) : CartsOnly s (syncCart s id) ∧ (syncCart s id).carts = s.carts
    ∧ (syncCart s id).frm = s.frm := by
  unfold syncCart
  split
  · exact ⟨rfl, rfl, rfl⟩
  · split
    · exact ⟨rfl, rfl, rfl⟩
    · split
      · exact ⟨markDone_cartsOnly _ _ _, rfl, rfl⟩
      · exact ⟨rfl, rfl, rfl⟩

section
variable {s t : State} (h : CartsOnly s t)
include h

theorem CartsOnly.regs : t.regs = s.regs := by rw [h]
theorem CartsOnly.memSame : MemSame s t := by rw [h]; exact ⟨rfl, rfl⟩
theorem CartsOnly.loft : t.loft = s.loft := by rw [h]
theorem CartsOnly.fab : t.fab = s.fab := by rw [h]

end

/-- The cart that an ACK names is over: all of its segments count as landed, and its number is free (R442). -/
def ackDone (s : State) (id : Nat) (c : CartSt) : State :=
  if c.reten then dropCart s id
  else dropCart (syncCart (setCart s id { c with segs := c.segs.map fun _ => .applied }) id) id

theorem ackDone_cartsOnly (s : State) (id : Nat) (c : CartSt) : CartsOnly s (ackDone s id c) := by
  unfold ackDone
  split
  · exact dropCart_cartsOnly s id
  · exact ((setCart_cartsOnly s id _).trans (syncCart_frame _ id).1).trans (dropCart_cartsOnly _ id)

theorem ackDone_cart (s : State) (id : Nat) (c : CartSt) (j : Nat) :
    cart (ackDone s id c) j = if id = j then none else cart s j := by
  unfold ackDone
  split
  · exact cart_dropCart s id j
  · rw [cart_dropCart, cart_congr (syncCart_frame _ id).2.1, cart_setCart]
    split <;> rfl

theorem ackDone_done (s : State) (id : Nat) (c : CartSt) :
    (ackDone s id c).frm.cartsDone = s.frm.cartsDone ++ [id] := by
  unfold ackDone
  split
  · rfl
  · show (syncCart _ id).frm.cartsDone ++ [id] = _
    rw [(syncCart_frame _ id).2.2]
    rfl

theorem ackDone_alone {s : State} {id : Nat} {c c' : CartSt} (h : s.carts = [(id, c')]) : (ackDone s id c).carts = [] := by
  unfold ackDone
  split
  · show kdel id s.carts = []
    simp [h, kdel]
  · show kdel id (syncCart _ id).carts = []
    rw [(syncCart_frame _ id).2.1]
    show kdel id (kins id _ s.carts) = []
    simp [h, kins, kdel]

/-- An ACK from where the data of a cart landed, its old values all here when it is under RETEN. -/
theorem takeAck_done {s : State} {k : Packet} {c : CartSt} (hc : cart s k.cartid = some c) (hsrc : gDevice c.dst = k.src)
    (hfar : landsHere s c = false) (hend : c.ended = false) (h : c.reten = false ∨ allApplied c = true) :
    takeAck s k = settle (ackDone s k.cartid c) := by
  have hgo : (decide (gDevice c.dst ≠ k.src) || landsHere s c || c.ended) = false := by simp [hsrc, hfar, hend]
  unfold takeAck ackDone
  rw [hc]
  simp only [hgo, Bool.false_eq_true, if_false]
  cases hret : c.reten
  · rfl
  · have hall : allApplied { c with acked := true } = true := h.resolve_left (by simp [hret])
    simp only [if_true]
    exact if_pos hall

theorem takeAck_waits {s : State} {k : Packet} {c : CartSt} (hc : cart s k.cartid = some c) (hsrc : gDevice c.dst = k.src)
    (hfar : landsHere s c = false) (hend : c.ended = false) (hret : c.reten = true) (hall : allApplied c = false) :
    takeAck s k = setCart s k.cartid { c with acked := true } := by
  have hgo : (decide (gDevice c.dst ≠ k.src) || landsHere s c || c.ended) = false := by simp [hsrc, hfar, hend]
  have hall' : allApplied { c with acked := true } = false := hall
  unfold takeAck
  rw [hc]
  simp only [hgo, Bool.false_eq_true, if_false]
  rw [if_pos hret]
  exact if_neg (by rw [hall']; decide)

theorem landsHere_of_regs {s t : State} (h : t.regs = s.regs) (c : CartSt) : landsHere t c = landsHere s c := by
  have hid : deviceId t = deviceId s := fld_of_reg (reg_congr h _) _
  unfold landsHere gLocal
  rw [hid]

theorem settles_of_finish {c : Instr} {s w : State} {P : State → Prop} (hc : exec c s = finish s (settle w))
    (ha : alive s = true) (hp : P w) : Statements.Settles c s P :=
  ⟨_, w, hc.trans (finish_alive ha), rfl, hp⟩

/-- With nothing under way, nothing goes on. -/
theorem settle_calm {s : State} (h : Statements.Calm s) : settle s = s := by
  obtain ⟨hcarts, hinb, hwait, hrounds, -, hbusy⟩ := h
  have hclosing : finishClosing s = s := by simp [finishClosing, hrounds]
  have hpump : pump s = s := by simp [pump, pumpAll, hcarts, hclosing]
  have hloft (l : LoftSt) (hl : l.waiting = []) : { l with waiting := [] } = l := by rw [← hl]
  have hsame : { s with loft := { s.loft with waiting := [] } } = s := by rw [hloft s.loft hwait]
  have hin : settleIn s = s := by
    have hfab (f : FabSt) (hf : f.inb = []) : { f with inb := [] } = f := by rw [← hf]
    simp only [settleIn, hinb, List.filter_nil, List.foldl_nil]
    rw [hfab s.fab hinb]
  have hretry : retryWaiting [] [] s = s := by
    simp only [retryWaiting, mapLoft, hwait, List.nil_append]
    exact hsame
  have hwain : wainSettle s = s := by simp [wainSettle, hbusy]
  unfold settle
  rw [hwait, hclosing]
  simp only [mapLoft, hsame, hretry, hpump, hin, hwain]

end Sys2Proof.Machine

namespace Sys2Proof.Settled

open Sys2Proof.Machine

/-- An ACK from the device where the data of its cart landed (R289, R442). -/
theorem ackEndsCart {s u : State} {p : Nat} {k k' : Packet} {c : CartSt} (h : Statements.Accepted s u p opAck k k')
    (hc : cart u k'.cartid = some c) (hsrc : gDevice c.dst = k'.src) (hfar : landsHere u c = false) (hend : c.ended = false) :
      ((c.reten = false ∨ allApplied c = true) → Statements.Settles (.ack p k) s fun w => cart w k'.cartid = none
        ∧ w.regs = u.regs ∧ (∀ id, id ≠ k'.cartid → cart w id = cart u id) ∧ MemSame s w) ∧
      ((c.reten = false ∨ allApplied c = true) → u.carts = [(k'.cartid, c)] → Statements.Calm { u with carts := [] } →
        Runs (.ack p k) s fun t => t.carts = [] ∧ t.frm.cartsDone = s.frm.cartsDone ++ [k'.cartid] ∧ t.regs = u.regs
          ∧ MemSame s t) ∧
      (c.reten = true → allApplied c = false → Runs (.ack p k) s fun t => cart t k'.cartid = some { c with acked := true }
        ∧ t.regs = u.regs ∧ MemSame s t) := by
  have hexec : exec (.ack p k) s = finish s (recvNow s p opAck k fun k s => takeAck s k) := rfl
  obtain ⟨ha, -, hl, hv⟩ := accepted_linked h
  rw [recvNow_here h] at hexec
  have hc' : cart (creditBack u p k') k'.cartid = some c := hc
  have hfar' : landsHere (creditBack u p k') c = false := (landsHere_of_regs (creditBack_regs u p k') c).trans hfar
  have hdone := ackDone_cartsOnly (creditBack u p k') k'.cartid c
  have hregs : (ackDone (creditBack u p k') k'.cartid c).regs = u.regs := hdone.regs
  have hmem : MemSame s (ackDone (creditBack u p k') k'.cartid c) := hv.memSame.trans hdone.memSame
  refine ⟨fun hall => ?_, fun hall hone hcalm => ?_, fun hret hall => ?_⟩
  · rw [takeAck_done hc' hsrc hfar' hend hall] at hexec
    refine settles_of_finish hexec ha ⟨?_, hregs, fun id hne => ?_, hmem⟩
    · rw [ackDone_cart, if_pos rfl]
    · rw [ackDone_cart, if_neg (Ne.symm hne)]
      rfl
  · have hcarts : (ackDone (creditBack u p k') k'.cartid c).carts = [] := ackDone_alone (c' := c) hone
    have hstill : settle (ackDone (creditBack u p k') k'.cartid c) = ackDone (creditBack u p k') k'.cartid c := by
      obtain ⟨-, hinb, hwait, hrounds, hbanks, hbusy⟩ := hcalm
      refine settle_calm ⟨hcarts, ?_, ?_, ?_, ?_, ?_⟩
      · rw [hdone.fab]; exact hinb
      · rw [hdone.loft]; exact hwait
      · rw [hdone.loft]; exact hrounds
      · rw [hdone.loft]; exact hbanks
      · rw [fld_of_reg (reg_congr hregs _)]; exact hbusy
    rw [takeAck_done hc' hsrc hfar' hend hall, hstill] at hexec
    refine runs_finish hexec ha ⟨hcarts, ?_, hregs, hmem⟩
    show (ackDone (creditBack u p k') k'.cartid c).frm.cartsDone = _
    rw [ackDone_done, hv.frm]
  · rw [takeAck_waits hc' hsrc hfar' hend hret hall] at hexec
    have hset := setCart_cartsOnly (creditBack u p k') k'.cartid { c with acked := true }
    refine runs_finish hexec ha ⟨?_, hset.regs, hv.memSame.trans hset.memSame⟩
    exact (cart_setCart _ _ _ _).trans (if_pos rfl)

end Sys2Proof.Settled
end

section
/-! PROOF. REFUSE: what a device that may not serve a request answers (R289, R428). -/

namespace Sys2Proof.Machine

/-- From `s` to `t` at most a job has ended and its boughs are pre-empted: memory and carts stand. -/
structure JobOver (s t : State) : Prop where
  mem : MemSame s t
  carts : t.carts = s.carts
  regs : BlocksBut s t [0, 1, 2, 7, 8, 12]

theorem JobOver.refl (s : State) : JobOver s s := ⟨⟨rfl, rfl⟩, rfl, .refl s _⟩

theorem JobOver.trans {s t u : State} (h : JobOver s t) (h' : JobOver t u) : JobOver s u :=
  ⟨h.mem.trans h'.mem, h'.carts.trans h.carts, h.regs.trans h'.regs⟩

theorem JobFrame.jobOver {s t : State} (h : JobFrame s t) : JobOver s t := ⟨h.memSame, h.carts, h.regs.mono (by decide)⟩

theorem StopFrame.jobOver {b : Nat} {s t : State} (h : StopFrame b s t) (hb : b < 68) : JobOver s t := by
  refine ⟨h.memSame, by rw [h.form], fun a ha => h.reg_eq ?_ ?_⟩ <;> rintro rfl <;> refine ha ?_
  · have : Reg.BGH_STATUS b / 2 ^ 24 = 2 := by simp only [Reg.BGH_STATUS]; omega
    rw [this]; decide
  · have : Reg.BGH_INTSTAT b / 2 ^ 24 = 2 := by simp only [Reg.BGH_INTSTAT]; omega
    rw [this]; decide

theorem preemptAll_jobOver (s : State) : JobOver s (preemptAll s) :=
  List.foldlRecOn (motive := fun t => JobOver s t) (presented s) preempt (.refl s) fun t h b hb =>
    h.trans ((preempt_frame t b).jobOver (presented_lt hb))

theorem endJob_jobOver (s : State) (st d : Nat) : JobOver s (endJob s st d) := by
  unfold endJob
  split
  · exact .refl s
  · exact ((jobFrame_host s _).jobOver.trans (preemptAll_jobOver _)).trans (jobStopCheck_jobFrame _).jobOver

theorem mapCart_cartsOnly (s : State) (id : Nat) (f : CartSt → CartSt) : CartsOnly s (mapCart s id f) := by
  unfold mapCart
  split
  · rfl
  · exact setCart_cartsOnly s id _

theorem cart_mapCart_same (s : State) (id : Nat) (f : CartSt → CartSt) : cart (mapCart s id f) id = (cart s id).map f := by
  unfold mapCart
  split
  · next h => rw [h]; rfl
  · next h => rw [cart_setCart, if_pos rfl, h]; rfl

theorem endCart_cartsOnly (s : State) (id : Nat) : CartsOnly s (endCart s id) :=
  (mapCart_cartsOnly s id _).trans (syncCart_frame _ id).1

/-- A cart that ends early is marked so (R138). -/
theorem endCart_ended {s : State} {id : Nat} {d : CartSt} (h : cart (endCart s id) id = some d) : d.ended = true := by
  rw [endCart, cart_congr (syncCart_frame _ id).2.1, cart_mapCart_same, Option.map_eq_some_iff] at h
  obtain ⟨c, -, rfl⟩ := h
  rfl

/-- What an addressing error records (R289). -/
def addressRec (s : State) (k : Packet) : Rec where
  kind := 7
  type := tyAddr
  action := if jobLoaded s then actJobEnd else actLogged
  unit := 0
  addr := match cart s k.cartid with
    | some c => gOffset (if gLocal s c.dst then c.src else c.dst) + 512 * seqDist c.cseq k.cseq
    | none => 0
  detail := bitsN k.aux 7 0
  seq := k.cseq

/-- An addressing error is counted and shown. -/
def addressNoted (s : State) : State := raise (bump s Reg.LFT_ADDRERR 1) Reg.LFT_PLCINT Fld.LFT_PLCINT_ADDRERR.bit

theorem addressError_eq (s : State) (k : Packet) :
    addressError s k = endJob (endCart (record (addressNoted s) (addressRec s k)) k.cartid) 5 0 := rfl

theorem record_memSame (s : State) (r : Rec) : MemSame s (record s r) := by rw [record_form]; exact ⟨rfl, rfl⟩

/-- An addressing error is counted, shown and recorded, and its cart ends (R289). -/
theorem addressError_effect (s : State) (k : Packet) :
    regN (addressError s k) Reg.LFT_ADDRERR = min (regN s Reg.LFT_ADDRERR + 1) 0xFFFFFFFF
    ∧ fld (addressError s k) Reg.LFT_PLCINT Fld.LFT_PLCINT_ADDRERR = 1
    ∧ reg64 (addressError s k) Reg.INT_LOGCOUNT_LO = (reg64 s Reg.INT_LOGCOUNT_LO + 1) % 2 ^ 64
    ∧ MemSame s (addressError s k) ∧ (∀ d, cart (addressError s k) k.cartid = some d → d.ended = true)
    ∧ ∀ a, a / 2 ^ 24 = 9 → reg (addressError s k) a = reg s a := by
  have hrec := record_blocks (addressNoted s) (addressRec s k)
  have hcart := endCart_cartsOnly (record (addressNoted s) (addressRec s k)) k.cartid
  have hjob := endJob_jobOver (endCart (record (addressNoted s) (addressRec s k)) k.cartid) 5 0
  have hnoted : BlocksBut s (addressNoted s) [5] :=
    (blocksBut_bump s 1 (by decide)).trans (blocksBut_raise _ _ (by decide))
  have hlate : BlocksBut (record (addressNoted s) (addressRec s k)) (addressError s k) [0, 1, 2, 7, 8, 12] :=
    (BlocksBut.of_regs hcart.regs _).trans hjob.regs
  have hall : BlocksBut (addressNoted s) (addressError s k) [0, 1, 2, 7, 8, 12, 13] :=
    (hrec.mono (by decide)).trans (hlate.mono (by decide))
  refine ⟨?_, ?_, ?_, ?_, fun d hd => ?_, fun a ha => ?_⟩
  · rw [hall.regN (by decide), addressNoted, regN_of_reg (reg_raise_ne _ _ (by decide)), regN_bump]
  · rw [hall.fld (by decide)]
    exact fld_raise _ _ 3 (by decide)
  · rw [hlate.reg64 (by decide) (by decide), logCount_record, hnoted.reg64 (by decide) (by decide)]
  · exact ((show MemSame s (addressNoted s) from ⟨rfl, rfl⟩).trans (record_memSame _ _)).trans (hcart.memSame.trans hjob.mem)
  · exact endCart_ended ((cart_congr hjob.carts k.cartid).symm.trans hd)
  · rw [hall a (by rw [ha]; decide), hnoted a (by rw [ha]; decide)]

end Sys2Proof.Machine

namespace Sys2Proof.Settled

open Sys2Proof.Machine

/-- A REFUSE is counted and shown, and the addressing error is recorded (R289, R428). -/
theorem refuseRecorded {s u : State} {p : Nat} {k k' : Packet} (h : Statements.Accepted s u p opRefuse k k') :
    Runs (.refuse p k) s fun t =>
      regN t Reg.FAB_REFUSED = min (regN s Reg.FAB_REFUSED + 1) 0xFFFFFFFF
        ∧ fld t Reg.FAB_INTSTAT Fld.FAB_INTSTAT_REFUSED = 1
        ∧ regN t Reg.LFT_ADDRERR = min (regN s Reg.LFT_ADDRERR + 1) 0xFFFFFFFF
        ∧ fld t Reg.LFT_PLCINT Fld.LFT_PLCINT_ADDRERR = 1
        ∧ reg64 t Reg.INT_LOGCOUNT_LO = (reg64 s Reg.INT_LOGCOUNT_LO + 1) % 2 ^ 64 ∧ MemSame s t
        ∧ (∀ d, cart t k'.cartid = some d → d.ended = true) := by
  have hexec : exec (.refuse p k) s = finish s (recvNow s p opRefuse k fun k s => takeRefuse s k) := rfl
  obtain ⟨ha, hp, -, hv⟩ := accepted_linked h
  rw [recvNow_here h, takeRefuse] at hexec
  have hfec {a : Nat} (h : a < 0x9004000 ∨ 0xa000000 ≤ a) : reg (creditBack u p k') a = reg s a :=
    hv.regs a (by simp only [List.mem_singleton, Reg.FAB_FECCORR]; omega)
  have hshown : BlocksBut (creditBack u p k')
      (raise (bump (creditBack u p k') Reg.FAB_REFUSED 1) Reg.FAB_INTSTAT Fld.FAB_INTSTAT_REFUSED.bit) [9] :=
    (blocksBut_bump _ 1 (by decide)).trans (blocksBut_raise _ _ (by decide))
  obtain ⟨herr, hint, hlog, hmem, hcart, hfab⟩ := addressError_effect
    (raise (bump (creditBack u p k') Reg.FAB_REFUSED 1) Reg.FAB_INTSTAT Fld.FAB_INTSTAT_REFUSED.bit) k'
  refine runs_finish hexec ha ⟨?_, ?_, ?_, ?_, ?_, ?_, hcart⟩
  · rw [ended_regN, regN_of_reg (hfab Reg.FAB_REFUSED (by decide)), regN_of_reg (reg_raise_ne _ _ (by decide)), regN_bump,
      regN_of_reg (hfec (.inl (by decide)))]
  · rw [ended_fld, fld_of_reg (hfab Reg.FAB_INTSTAT (by decide))]
    exact fld_raise _ _ 7 (by decide)
  · rw [ended_regN, herr, hshown.regN (by decide), regN_of_reg (hfec (.inl (by decide)))]
  · rw [ended_fld, hint]
  · rw [ended_reg64, hlog, hshown.reg64 (by decide) (by decide),
      reg64_of_reg (hfec (.inr (by decide))) (hfec (.inr (by decide)))]
  · exact memSame_ended s (hv.memSame.trans ((show MemSame _ _ from ⟨rfl, rfl⟩).trans hmem))

/-- ACK and REFUSE (R289, R428, R442). -/
theorem cartAnswers : Statements.CartAnswers := fun _ _ _ _ _ =>
  ⟨fun _ h hc hsrc hfar hend => ackEndsCart h hc hsrc hfar hend, refuseRecorded⟩

end Sys2Proof.Settled
end

section
/-! PROOF. TREE packets (R428, R444 to R446). -/

namespace Sys2Proof.Machine

/-- From `s` to `t` lines of the Loft have been used and ports have moved, and nothing waits on a line. -/
structure Reached (s t : State) : Prop where
  form : t = { s with loft := t.loft, fab := { s.fab with ports := t.fab.ports } }
  stall : t.loft.stall = s.loft.stall
  rounds : t.loft.rounds = []
  banks : t.loft.banks = []

section
variable {s t : State} (h : Reached s t)
include h

theorem Reached.mem : t.mem = s.mem := by rw [h.form]
theorem Reached.regs : t.regs = s.regs := by rw [h.form]
theorem Reached.memSame : MemSame s t := by rw [h.form]; exact ⟨rfl, rfl⟩
theorem Reached.sound (hs : Sound s) : Sound t := by rw [h.form]; exact hs
theorem Reached.treeEnt (k : Nat) : treeEnt t k = Machine.treeEnt s k := treeEnt_congr h.mem h.regs k
theorem Reached.treeUsed (k : Nat) : treeUsed t k = Machine.treeUsed s k := treeUsed_congr h.mem h.regs k
theorem Reached.treeSt (k : Nat) : treeSt t k = Machine.treeSt s k := by rw [h.form]; rfl
theorem Reached.pcount : pcount t = Machine.pcount s := fld_of_reg (reg_congr h.regs _) _

theorem Reached.notReady : notReady t = Machine.notReady s := by
  have hst : rstState t = rstState s := fld_of_reg (reg_congr h.regs _) _
  have hrst : t.rst = s.rst := by rw [h.form]
  rw [Machine.notReady, Machine.notReady, hst, hrst]

theorem Reached.routeOf (d : Nat) : routeOf t d = Machine.routeOf s d := by
  have hid : deviceId t = deviceId s := fld_of_reg (reg_congr h.regs _) _
  simp only [Machine.routeOf, hid, fld_of_reg (reg_congr h.regs _)]

end

/-- Memory is read where no code is in error. -/
theorem Reached.read {s u : State} (hu : Reached s u) (hs : Sound s) (a n : Nat) : Reached s (accessMem u a n) := by
  have honly := accessMem_loftOnly hu.rounds hu.banks (hu.sound hs).1 a n
  obtain ⟨hr, hb, hst⟩ := (accessMem_keeps u a n).calm hu.rounds hu.banks
  refine ⟨?_, hst.trans hu.stall, hr, hb⟩
  generalize accessMem u a n = w at honly
  rw [show w = { u with loft := w.loft } from honly, hu.form]

/-- A TREE packet meets the tree that it names, whose entry has been read when there is one (R496). -/
theorem treePacket_reached {s u : State} (hu : Reached s u) (hs : Sound s) (k : Packet) :
    ∃ w, Reached s w ∧ treePacket k u = takeTree w k := by
  by_cases h : bitsN k.aux 23 18 < fld u Reg.FAB_TCOUNT Fld.FAB_TCOUNT_COUNT
  · exact ⟨_, hu.read hs _ _, (if_pos h).trans (guardRead_clean hu.rounds hu.banks (hu.sound hs) _ _ _)⟩
  · exact ⟨u, hu, if_neg h⟩

/-- Where the segment of a TREE packet lands (R444, R445). -/
def treePlace (s : State) (k : Packet) : Nat :=
  if bitN k.aux 17 then (treeEnt s (bitsN k.aux 23 18)).buf + 512 * k.cseq
  else (treeEnt s (bitsN k.aux 23 18)).scratch + bitsN k.aux 3 0 * (treeEnt s (bitsN k.aux 23 18)).len + 512 * k.cseq

/-- The tree takes note of the segment that has landed. -/
def treeNoted (k : Packet) (s : State) : State :=
  if bitN k.aux 17 then
    runCheck (setTree s (bitsN k.aux 23 18) { treeSt s (bitsN k.aux 23 18) with
      down := (treeSt s (bitsN k.aux 23 18)).down ++ [k.cseq] }) (bitsN k.aux 23 18)
  else
    treeGo (setTree s (bitsN k.aux 23 18) { treeSt s (bitsN k.aux 23 18) with
      landed := ((treeSt s (bitsN k.aux 23 18)).landed.erase (bitsN k.aux 3 0, k.cseq)) ++ [(bitsN k.aux 3 0, k.cseq)] })
      (bitsN k.aux 23 18)

/-- A TREE packet names a tree not in use, a child that the tree does not have, or a segment past its data. -/
def treeStray (s : State) (k : Packet) : Bool :=
  !treeUsed s (bitsN k.aux 23 18) || (!bitN k.aux 17 && (treeEnt s (bitsN k.aux 23 18)).nchild ≤ bitsN k.aux 3 0)
    || (treeEnt s (bitsN k.aux 23 18)).segs ≤ k.cseq

theorem takeTree_eq : takeTree = fun s k =>
    if notReady s then refuse s k 3
    else if treeStray s k then raise (bump s Reg.FAB_BADOP 1) Reg.FAB_INTSTAT Fld.FAB_INTSTAT_TREEERR.bit
    else onStored (fun s b => stopConsumer s false b k.cseq) (treeNoted k) (storeSeg s (treePlace s k) k.payload) := by
  delta takeTree treeStray treePlace
  funext s k
  dsimp only
  rcases storeSeg s _ k.payload with ⟨t, _ | b⟩ <;> rfl

/-- A segment that a tree in use waits for lands, and the tree takes note. -/
theorem takeTree_lands {s w : State} {k : Packet} (hw : Reached s w) (hs : Sound s) (hready : notReady s = false)
    (hstray : treeStray s k = false) (hp : pcount s = 0) : ∃ y, takeTree w k = treeNoted k y
      ∧ y.mem = memPut s.mem (treePlace s k) k.payload ∧ y.loft.stall = s.loft.stall
      ∧ ∀ t, treeSt y t = treeSt s t := by
  have hstray' : treeStray w k = false := by rw [← hstray, treeStray, treeStray, hw.treeEnt, hw.treeUsed]
  have hplace : treePlace w k = treePlace s k := by rw [treePlace, treePlace, hw.treeEnt]
  obtain ⟨y, hy, hmem⟩ := storeSeg_clean hw.rounds hw.banks (hw.sound hs) (hw.pcount.trans hp) (treePlace w k) k.payload
  have hkeeps := storeSeg_keeps w (treePlace w k) k.payload
  rw [hy] at hkeeps
  refine ⟨y, ?_, ?_, (hkeeps.calm hw.rounds hw.banks).2.2.trans hw.stall, fun t => ?_⟩
  · simp only [takeTree_eq, hw.notReady, hready, hstray', hy]
    rfl
  · rw [hmem, hplace, hw.mem]
  · exact (treeSt_congr hkeeps.fab t).trans (hw.treeSt t)

theorem notRunning_waits {s : State} {t : Nat} (h : (treeSt s t).run = false) : treeGo s t = s := by
  have hready (i : Nat) : combineReady s t i = false := by simp [combineReady, h]
  have hover : runOver s t = false := by simp [runOver, h]
  rw [treeGo_eq, treeCombined_none hready, runCheck, hover]
  rfl

/-- An up segment that comes before the run has begun waits in SCRATCH (R444). -/
theorem treeNoted_up {s : State} {k : Packet} (hup : bitN k.aux 17 = false)
    (hrun : (treeSt s (bitsN k.aux 23 18)).run = false) :
    (treeNoted k s).mem = s.mem ∧ (treeNoted k s).loft = s.loft
      ∧ (bitsN k.aux 3 0, k.cseq) ∈ (treeSt (treeNoted k s) (bitsN k.aux 23 18)).landed := by
  rw [treeNoted, if_neg (by simp [hup]), notRunning_waits (by rw [treeSt_setTree]; exact hrun)]
  refine ⟨rfl, rfl, ?_⟩
  rw [treeSt_setTree]
  exact List.mem_append_right _ (List.mem_singleton_self _)

/-- A down segment is noted, or it ends the run (R445, R446). -/
theorem treeNoted_down {s : State} {k : Packet} (hdown : bitN k.aux 17 = true) :
    (treeNoted k s).mem = s.mem ∧ (treeNoted k s).loft = s.loft
      ∧ (k.cseq ∈ (treeSt (treeNoted k s) (bitsN k.aux 23 18)).down ∨ bitsN k.aux 23 18 ∈ (treeNoted k s).frm.treesDone) := by
  rw [treeNoted, if_pos hdown]
  obtain ⟨h, -⟩ | ⟨h, -⟩ := runCheck_cases (setTree s (bitsN k.aux 23 18) { treeSt s (bitsN k.aux 23 18) with
    down := (treeSt s (bitsN k.aux 23 18)).down ++ [k.cseq] }) (bitsN k.aux 23 18) <;> rw [h]
  · refine ⟨rfl, rfl, .inl ?_⟩
    rw [treeSt_setTree]
    exact List.mem_append_right _ (List.mem_singleton_self _)
  · obtain ⟨-, hdone, hloft, hmem⟩ := runDone_tree _ _
    exact ⟨hmem, hloft, .inr hdone⟩

/-! ## Answers (R428, R437) -/

@[simp] theorem port_setPort_same (s : State) (p : Nat) (x : PortSt) : port (setPort s p x) p = x := kget_kset_self _ _ _ _

/-- A packet of the Control class is queued with its port. -/
theorem enqueue_ctrl {s : State} {p : Nat} {k : Packet} (h : k.vl = vlCtrl) : k ∈ (port (enqueue s p k) p).ctrl := by
  rw [enqueue, mapPort, port_setPort_same, if_pos h]
  exact List.mem_append_right _ (List.mem_singleton_self k)

theorem enqueue_memSame (s : State) (p : Nat) (k : Packet) : MemSame s (enqueue s p k) := ⟨rfl, rfl⟩

theorem refuse_routed {s : State} {k : Packet} {q : Nat} (hroute : routeOf s k.src = some q) (hq : q < 24) (code : Nat) :
    refuse s k code = enqueue s q (refusalOf s k code) := by
  have hdst : (refusalOf s k code).dst = k.src := rfl
  rw [refuse, routeOut, hdst, hroute]
  exact if_pos hq

theorem refusalOf_code (s : State) (k : Packet) {code : Nat} (h : code < 256) :
    bitsN (refusalOf s k code).aux 7 0 = code := by
  have hcode : bitsN code 7 0 = code := by
    rw [bitsN, Nat.pow_zero, Nat.div_one]
    exact Nat.mod_eq_of_lt h
  show bitsN (if k.op = opTree then putBits code 23 18 (bitsN k.aux 23 18) else code) 7 0 = code
  split
  · rw [bitsN_putBits_below _ _ _ _ _ _ (by decide) (by decide), hcode]
  · exact hcode

end Sys2Proof.Machine

namespace Sys2Proof.Settled

open Sys2Proof.Machine

section
variable {s u : State} {p : Nat} {k k' : Packet} (h : Statements.Accepted s u p opTree k k') (hcalm : Statements.Calm u)
  (hclean : Statements.Clean u)
include h hcalm hclean

/-- A TREE packet for this device meets its tree. -/
theorem treePacket_exec : ∃ w, Reached u w ∧ exec (.tree p k) s = .next (ended s (orWait s (takeTree w k'))) := by
  obtain ⟨ha, -, -, -⟩ := accepted_linked h
  obtain ⟨-, -, -, hr, hb, -⟩ := hcalm
  have hexec : exec (.tree p k) s = finishWait s (recvNow s p opTree k treePacket) := rfl
  obtain ⟨w, hw, hmeet⟩ := treePacket_reached (s := u) (u := creditBack u p k') ⟨rfl, rfl, hr, hb⟩ hclean k'
  rw [recvNow_here h, hmeet, finishWait, finish_alive ha] at hexec
  exact ⟨w, hw, hexec⟩

/-- A segment of a tree in use lands at its place (R444, R445). -/
theorem treeSegment_exec (hready : notReady u = false) (hstray : treeStray u k' = false) (hp : pcount u = 0)
    (hkeep : ∀ y, (∀ t, treeSt y t = treeSt u t) → (treeNoted k' y).loft = y.loft) :
    ∃ y, exec (.tree p k) s = .next (ended s (treeNoted k' y)) ∧ y.mem = memPut u.mem (treePlace u k') k'.payload
      ∧ ∀ t, treeSt y t = treeSt u t := by
  obtain ⟨w, hw, hexec⟩ := treePacket_exec h hcalm hclean
  obtain ⟨-, -, hl, -⟩ := accepted_linked h
  obtain ⟨y, hy, hmem, hstall, htree⟩ := takeTree_lands hw hclean hready hstray hp
  rw [hy, orWait_still (by rw [hkeep y htree, hstall, hl.loft])] at hexec
  exact ⟨y, hexec, hmem, htree⟩

theorem treeUp (hready : notReady u = false) (hstray : treeStray u k' = false) (hp : pcount u = 0)
    (hup : bitN k'.aux 17 = false) (hrun : (treeSt u (bitsN k'.aux 23 18)).run = false) : Runs (.tree p k) s fun t =>
      t.mem = memPut u.mem (treePlace u k') k'.payload
        ∧ (bitsN k'.aux 3 0, k'.cseq) ∈ (treeSt t (bitsN k'.aux 23 18)).landed := by
  have hnoted (y : State) (hy : ∀ t, treeSt y t = treeSt u t) := treeNoted_up (s := y) hup (by rw [hy]; exact hrun)
  obtain ⟨y, hexec, hmem, htree⟩ := treeSegment_exec h hcalm hclean hready hstray hp fun y hy => (hnoted y hy).2.1
  obtain ⟨hm, -, hland⟩ := hnoted y htree
  exact ⟨_, hexec, hm.trans hmem, hland⟩

theorem treeDown (hready : notReady u = false) (hstray : treeStray u k' = false) (hp : pcount u = 0)
    (hdown : bitN k'.aux 17 = true) : Runs (.tree p k) s fun t => t.mem = memPut u.mem (treePlace u k') k'.payload
      ∧ (k'.cseq ∈ (treeSt t (bitsN k'.aux 23 18)).down ∨ bitsN k'.aux 23 18 ∈ t.frm.treesDone) := by
  have hnoted (y : State) := treeNoted_down (s := y) hdown
  obtain ⟨y, hexec, hmem, -⟩ := treeSegment_exec h hcalm hclean hready hstray hp fun y _ => (hnoted y).2.1
  obtain ⟨hm, -, hland⟩ := hnoted y
  exact ⟨_, hexec, hm.trans hmem, hland⟩

/-- A TREE packet of a tree not in use is a bad opcode (R446). -/
theorem treeUnused (hready : notReady u = false) (hused : treeUsed u (bitsN k'.aux 23 18) = false) :
    Runs (.tree p k) s fun t => fld t Reg.FAB_INTSTAT Fld.FAB_INTSTAT_TREEERR = 1
      ∧ regN t Reg.FAB_BADOP = min (regN s Reg.FAB_BADOP + 1) 0xFFFFFFFF
      ∧ RegsBut u t [Reg.FAB_INTSTAT, Reg.FAB_BADOP] ∧ MemSame s t := by
  obtain ⟨w, hw, hexec⟩ := treePacket_exec h hcalm hclean
  obtain ⟨-, -, hl, -⟩ := accepted_linked h
  have hstray : treeStray w k' = true := by simp [treeStray, hw.treeUsed, hused]
  have htake : takeTree w k' = raise (bump w Reg.FAB_BADOP 1) Reg.FAB_INTSTAT Fld.FAB_INTSTAT_TREEERR.bit := by
    simp only [takeTree_eq, hw.notReady, hready, hstray]
    rfl
  have hstall : (raise (bump w Reg.FAB_BADOP 1) Reg.FAB_INTSTAT Fld.FAB_INTSTAT_TREEERR.bit).loft.stall = s.loft.stall := by
    rw [← hl.loft]; exact hw.stall
  rw [htake, orWait_still hstall] at hexec
  refine ⟨_, hexec, ?_, ?_, fun a ha => ?_, ?_⟩
  · rw [ended_fld]
    exact fld_raise _ _ 5 (by decide)
  · rw [ended_regN, regN_of_reg (reg_raise_ne _ _ (by decide)), regN_bump, regN_of_reg (reg_congr hw.regs _),
      regN_of_reg (hl.regs _ (by simp only [List.mem_singleton, Reg.FAB_FECCORR, Reg.FAB_BADOP]; omega))]
  · simp only [List.mem_cons, List.not_mem_nil, or_false, not_or] at ha
    rw [ended_reg, reg_raise_ne _ _ (Ne.symm ha.1), bump, reg_setRegN_ne _ _ (Ne.symm ha.2), reg_congr hw.regs]
  · exact memSame_ended s (hl.memSame.trans (hw.memSame.trans ⟨rfl, rfl⟩))

/-- A device that is not ready refuses a TREE packet (R428). -/
theorem treeRefused {q : Nat} (hready : notReady u = true) (hroute : routeOf u k'.src = some q) (hq : q < 24) :
    Runs (.tree p k) s fun t => MemSame s t
      ∧ ∃ x ∈ (port t q).ctrl, x.op = opRefuse ∧ x.dst = k'.src ∧ bitsN x.aux 7 0 = 3 := by
  obtain ⟨w, hw, hexec⟩ := treePacket_exec h hcalm hclean
  obtain ⟨-, -, hl, -⟩ := accepted_linked h
  have htake : takeTree w k' = enqueue w q (refusalOf w k' 3) := by
    simp only [takeTree_eq, hw.notReady, hready, if_true]
    exact refuse_routed ((hw.routeOf _).trans hroute) hq 3
  have hstall : (enqueue w q (refusalOf w k' 3)).loft.stall = s.loft.stall := by
    rw [← hl.loft]; exact hw.stall
  rw [htake, orWait_still hstall] at hexec
  exact ⟨_, hexec, memSame_ended s (hl.memSame.trans (hw.memSame.trans (enqueue_memSame _ _ _))), refusalOf w k' 3,
    enqueue_ctrl rfl, rfl, rfl, refusalOf_code w k' (by decide)⟩

end

/-- Counters, and trees that packets feed (R145, R444 to R446). -/
theorem countersAndTrees : Statements.CountersAndTrees := by
  refine ⟨fun s u n b i body ha hw hk hadd hret hi => counterAdds ha hw hk hadd hret hi,
    fun s tr ha hused hrun harm hgate hcalm hclean => ⟨treeRunStart_runs ha hused hrun harm hgate hcalm hclean,
      treeRunStart_waits ha hused hrun harm hgate hcalm hclean⟩,
    fun s u p k k' h hcalm hclean => ⟨fun hready hused hseg hp => ⟨fun hup hchild hrun => ?_, fun hdown => ?_⟩,
      treeUnused h hcalm hclean, fun q => treeRefused h hcalm hclean⟩⟩
  · have hplace : treePlace u k' = (treeEnt u (bitsN k'.aux 23 18)).scratch
        + bitsN k'.aux 3 0 * (treeEnt u (bitsN k'.aux 23 18)).len + 512 * k'.cseq := if_neg (by simp [hup])
    rw [← hplace]
    exact treeUp h hcalm hclean hready (by simp [treeStray, hused, hup, hchild, hseg]) hp hup hrun
  · have hplace : treePlace u k' = (treeEnt u (bitsN k'.aux 23 18)).buf + 512 * k'.cseq := if_pos hdown
    rw [← hplace]
    exact treeDown h hcalm hclean hready (by simp [treeStray, hused, hdown, hseg]) hp hdown

/-- Settles O40: what ACK, REFUSE and TREE packets do, and what counters and tree runs do. -/
theorem cartsBetweenDevices : Obligations.CartsBetweenDevices := ⟨cartAnswers, countersAndTrees⟩

end Sys2Proof.Settled
end

section
/-! PROOF. A first pass whose broadcast of B met an uncorrectable word (R164, R166) is replayed (R185), whatever memory
holds by the time the pass ends. -/

namespace Sys2Proof.Machine

/-! ## Shares -/

/-- The share that array a of bough b is at work on. -/
def runningShare (s : State) (b a : Nat) : Option Share :=
  (bough s b).shares.find? fun x => x.arr = a && x.phase = .running

/-- A share that one other takes the place of. -/
theorem splitShare_one (sh y : Share) (l : List Share) :
    splitShare sh [y] l = l.map fun x => if x = sh then y else x := by
  rw [splitShare, List.map_eq_flatMap]
  exact congrArg (fun f => List.flatMap f l) (funext fun x => (apply_ite (fun y => [y]) _ _ _).symm)

theorem setShares_shares (s : State) (b : Nat) (f : List Share → List Share) :
    (bough (setShares s b f) b).shares = f (bough s b).shares := by rw [setShares, bough_setBough_self]

/-- A replay keeps every share in its place (R185). -/
theorem replay_shares_length (s : State) (b : Nat) (sh : Share) (unread : Bool) (detail : Nat) :
    (bough (replay s b sh unread detail) b).shares.length = (bough s b).shares.length := by
  rw [replay, bough_raise, bough_bump, setShares_shares, splitShare_one, List.length_map]

/-- Records that are given the SEQ of their tile are words of the log (R183): the boughs stand. -/
theorem stamp_boughs (s0 : State) (seq : Nat) (s : State) : (stamp s0 seq false s).boughs = s.boughs := by
  have hfold (l : List Nat) (f : Nat → Nat) :
      (l.foldl (fun s i => stampRecord seq false s (f i)) s).boughs = s.boughs :=
    List.foldlRecOn (motive := fun t : State => t.boughs = s.boughs) l _ rfl fun _ h _ _ => h
  exact hfold _ _

/-! ## The fetch of a first pass -/

theorem fetchAll_sound {s : State} (h : Sound s) (b : Nat) (l : List Range) : fetchAll s b l = (s, none) := by
  induction l with
  | nil => rfl
  | cons r l ih =>
    rw [fetchAll, checkRead_clean h]
    exact ih

/-- What the one fetch of B met stands for every share that has its first pass to make, though memory is in order now. -/
theorem fetchPass_noted {s : State} {b : Nat} {sh : Share} {x : Bad} (h : Sound s) (hpass : sh.pass = 1)
    (hb : sh.bread = some (some x)) (t : Tile) : fetchPass s b sh t = (s, some x) := by
  simp only [fetchPass, fetchAll_sound h, fetchB, hpass, hb, if_true]
  rfl

/-- A first pass that cannot read an operand is replayed. -/
theorem passDone_unread {s u : State} {b a : Nat} {sh sh' : Share} {e : SbEntry} {x : Bad} (f : PassFault)
    (hrun : runningShare s b a = some sh) (he : entryOf s b sh.entry = some e)
    (hf : fetchPass s b sh (tileOf e.body) = (u, some x)) (hrun' : runningShare u b a = some sh') (hpass : sh'.pass = 1) :
    passDone s b a f = stamp s (shareSeq s b sh) false (replay u b sh' true 0) := by
  unfold runningShare at hrun hrun'
  simp only [passDone, hrun, he, hf, hrun', passNext, hpass, if_true]

/-- No share of the bough is over with a first pass whose broadcast of B could not be read. -/
theorem passDone_noted_length {s : State} {b a : Nat} {sh : Share} {e : SbEntry} {x : Bad} (f : PassFault) (h : Sound s)
    (hrun : runningShare s b a = some sh) (he : entryOf s b sh.entry = some e) (hpass : sh.pass = 1)
    (hb : sh.bread = some (some x)) : (bough (passDone s b a f) b).shares.length = (bough s b).shares.length := by
  rw [passDone_unread f hrun he (fetchPass_noted h hpass hb _) hrun hpass, bough_congr (stamp_boughs _ _ _),
    replay_shares_length]

end Sys2Proof.Machine

namespace Sys2Proof.Settled

open Sys2Proof.Machine

/-- The first codeword of B, which the fetch for the tile found uncorrectable. -/
def lostB : Bad := { type := tyUncorr, cls := 0, addr := cribBase 0 + 64 * 32 }

/-- An MMA of one output and one product on arrays 0 and 1, without checks, C in FP32: A at 16 and 24, B at 32, C at 48
and 64, in units of 64 bytes. -/
def twoArrayTile : List Byte :=
  [0x00070030, 0x01010000, 1, 32 * 2 ^ 16 + 16, 48, 16 * 2 ^ 16 + 8, 0, 0, 1, 0, 0, 0, 1, 0, 0, 0].flatMap (leBytes 4)

/-- Its work item in flight. -/
def twoArrayEntry : SbEntry := { id := 0, item := 0, w0 := 0x10000000, w2 := 0, w3 := 0, body := twoArrayTile, step := 0 }

/-- The share of array 1, its first pass still to end. -/
def laterShare : Share :=
  { entry := 0, named := 1, arr := 1, c0 := 0, c1 := 1, phase := .running, bread := some (some lostB) }

/-- Array 0 met the lost word of B and replays; B has been written anew since, and the first pass of array 1 is to end. -/
def rewrittenB : State :=
  { rst := { mainPg := true }
    boughs := [(0, { sb := [twoArrayEntry]
                     shares := [{ laterShare with named := 0, arr := 0, pass := 2, unread := true }, laterShare] })] }

theorem rewrittenB_runs : alive rewrittenB = true ∧ phys rewrittenB 0 = 0 ∧ runningShare rewrittenB 0 1 = some laterShare
    ∧ entryOf rewrittenB 0 laterShare.entry = some twoArrayEntry := by decide +kernel

theorem rewrittenB_clean : Statements.Clean rewrittenB := ⟨rfl, rfl, by decide +kernel⟩

/-- Checks are off, and C is not block-scaled. -/
theorem twoArrayTile_plain : (tileOf twoArrayEntry.body).cken = false
    ∧ codeScaled (tileOf twoArrayEntry.body).cfmt = false := by decide +kernel

/-- Refutes O28: a first pass ends on a memory without errors, but the one fetch of B for the tile (R164), which another
array made before B was written anew, had met an uncorrectable word; the pass is replayed, and its share is not over. -/
theorem not_tilePasses : ¬ Obligations.TilePasses := by
  unfold Obligations.TilePasses
  rintro ⟨-, hends⟩
  obtain ⟨hlive, hphys, hrun, hentry⟩ := rewrittenB_runs
  obtain ⟨hcken, hcfmt⟩ := twoArrayTile_plain
  obtain ⟨-, -, hgood⟩ := hends rewrittenB 0 1 0 .sound laterShare twoArrayEntry hphys.symm
    ⟨hlive, by decide, hrun, hentry⟩
  obtain ⟨t, ht, -, hover, -⟩ := hgood _ rfl rewrittenB_clean (by decide) hcken hcfmt
  have hexec : exec (.tilePassDone 0 1 .sound) rewrittenB = finish rewrittenB (passDone rewrittenB 0 1 .sound) := by
    show finish _ (if phys rewrittenB 0 < 68 then passDone _ (phys rewrittenB 0) 1 _ else _) = _
    rw [hphys, if_pos (by decide)]
  rw [hexec, finish_alive hlive] at ht
  obtain rfl := Host.Outcome.next.inj ht
  rw [ended_bough, passDone_noted_length .sound rewrittenB_clean hrun hentry rfl rfl] at hover
  exact absurd hover (Nat.succ_ne_self _)

end Sys2Proof.Settled
end

section
/-! PROOF. The switch that the Sickle's registers hold armed (R212, R213, R219): what an arm, a conflict and everything
outside the Sickle's block leave of it. -/

namespace Sys2Proof.Machine

/-! ## The Sickle's registers -/

/-- The registers of the Sickle read as before. -/
def SklSame (s t : State) : Prop := ∀ a, a / 2 ^ 24 = 4 → reg t a = reg s a

theorem SklSame.trans {s t u : State} (h : SklSame s t) (h' : SklSame t u) : SklSame s u :=
  fun a ha => (h' a ha).trans (h a ha)

theorem BlocksBut.sklSame {s t : State} {l : List Nat} (h : BlocksBut s t l) (hl : 4 ∉ l) : SklSame s t :=
  fun a ha => h a (ha ▸ hl)

theorem RegsBut.sklSame {s t : State} {l : List Nat} (h : RegsBut s t l) (hl : ∀ a ∈ l, a / 2 ^ 24 ≠ 4) : SklSame s t :=
  fun a ha => h a fun hm => hl a hm ha

section
variable {s t : State} (h : SklSame s t)
include h

theorem SklSame.switchArmed : switchArmed t = Machine.switchArmed s := by
  simp only [Machine.switchArmed, fld_of_reg (h Reg.SKL_NEXT_LO (by decide))]

theorem SklSame.nextTable : nextTable t = Machine.nextTable s := by
  simp only [Machine.nextTable, fld_of_reg (h Reg.SKL_NEXT_LO (by decide)), fld_of_reg (h Reg.SKL_NEXT_HI (by decide))]

theorem SklSame.swconf : fld t Reg.SKL_INTSTAT Fld.SKL_INTSTAT_SWCONF = fld s Reg.SKL_INTSTAT Fld.SKL_INTSTAT_SWCONF :=
  fld_of_reg (h Reg.SKL_INTSTAT (by decide)) _

end

/-! ## Arms and conflicts -/

theorem setNext_lo (s : State) (table : Nat) {armed : Nat} (h : armed < 2) :
    regN (setNext s table armed) Reg.SKL_NEXT_LO = table % 2 ^ 32 / 4096 * 4096 + armed := by
  rw [setNext, regN_setRegN, if_pos rfl]
  omega

theorem setNext_hi (s : State) (table armed : Nat) :
    regN (setNext s table armed) Reg.SKL_NEXT_HI = table / 2 ^ 32 % 256 := by
  rw [setNext, regN_setRegN, if_neg (by decide), regN_setRegN, if_pos rfl]
  omega

theorem setNext_switchArmed (s : State) (table : Nat) : switchArmed (setNext s table 1) = true := by
  have hlo := setNext_lo s table (armed := 1) (by decide)
  simp only [regN] at hlo
  simp only [switchArmed, fld, Fld.get, Fld.SKL_NEXT_LO_ARMED, bitsN, hlo, decide_eq_true_eq]
  omega

/-- SKL_NEXT shows bits 39 to 12 of a table's offset. -/
theorem setNext_nextTable (s : State) (table : Nat) {armed : Nat} (h : armed < 2) :
    nextTable (setNext s table armed) = table % 2 ^ 40 / 4096 * 4096 := by
  have hlo := setNext_lo s table h
  have hhi := setNext_hi s table armed
  simp only [regN] at hlo hhi
  simp only [nextTable, fld, Fld.get, Fld.SKL_NEXT_LO_ADDR, Fld.SKL_NEXT_HI_ADDR, bitsN, hlo, hhi]
  omega

theorem switchConflict_switchArmed (s : State) : switchArmed (switchConflict s) = false := by
  have hoff : fld (switchConflict s) Reg.SKL_NEXT_LO Fld.SKL_NEXT_LO_ARMED = 0 :=
    (fld_of_reg (reg_raise_ne _ _ (by decide)) _).trans (fld_setFld s _ _ 0 (by decide) (by decide))
  simp [switchArmed, hoff]

theorem switchConflict_swconf (s : State) : fld (switchConflict s) Reg.SKL_INTSTAT Fld.SKL_INTSTAT_SWCONF = 1 :=
  fld_raise _ _ 1 (by decide)

/-- An arm where none stands and no conflict does (R212). -/
theorem armSwitch_free {s : State} {table : Nat} (hc : s.frm.swConf = false) (ha : switchArmed s = false) :
    armSwitch s table = setNext s table 1 := by simp [armSwitch, hc, ha]

/-- An arm that names the table that is armed (R213). -/
theorem armSwitch_again {s : State} {table : Nat} (hc : s.frm.swConf = false) (ha : switchArmed s = true)
    (ht : nextTable s = table) : armSwitch s table = s := by simp [armSwitch, hc, ha, ht]

/-- An arm in a program frame whose arms name different tables (R213). -/
theorem armSwitch_conflict {s : State} {table : Nat}
    (h : s.frm.swConf = true ∨ switchArmed s = true ∧ nextTable s ≠ table) : armSwitch s table = switchConflict s := by
  obtain hc | ⟨ha, ht⟩ := h
  · simp [armSwitch, hc]
  · simp [armSwitch, ha, ht]

/-- The registers that an arm writes. -/
def armRegs : List Nat := [Reg.SKL_NEXT_LO, Reg.SKL_NEXT_HI, Reg.SKL_INTSTAT]

theorem setNext_regs (s : State) (table armed : Nat) : RegsBut s (setNext s table armed) armRegs := by
  intro a ha
  simp only [armRegs, List.mem_cons, List.not_mem_nil, or_false, not_or] at ha
  obtain ⟨hlo, hhi, -⟩ := ha
  exact (reg_setRegN_ne _ _ (Ne.symm hlo)).trans (reg_setRegN_ne s _ (Ne.symm hhi))

theorem switchConflict_regs (s : State) : RegsBut s (switchConflict s) armRegs := by
  intro a ha
  simp only [armRegs, List.mem_cons, List.not_mem_nil, or_false, not_or] at ha
  obtain ⟨hlo, -, hint⟩ := ha
  exact (reg_raise_ne _ _ (Ne.symm hint)).trans (reg_setFld_ne s _ _ (Ne.symm hlo))

/-- From `s` to `t` registers and the note of a conflict change, and nothing else. -/
def ArmFrame (s t : State) : Prop := t = { s with regs := t.regs, frm := { s.frm with swConf := t.frm.swConf } }

theorem ArmFrame.memSame {s t : State} (h : ArmFrame s t) : MemSame s t := by rw [h]; exact ⟨rfl, rfl⟩
theorem ArmFrame.host {s t : State} (h : ArmFrame s t) : t.host = s.host := by rw [h]
theorem ArmFrame.boughs {s t : State} (h : ArmFrame s t) : t.boughs = s.boughs := by rw [h]

theorem armSwitch_frame (s : State) (table : Nat) :
    ArmFrame s (armSwitch s table) ∧ RegsBut s (armSwitch s table) armRegs := by
  unfold armSwitch
  split
  · exact ⟨rfl, switchConflict_regs s⟩
  · split
    · split
      · exact ⟨rfl, fun _ _ => rfl⟩
      · exact ⟨rfl, switchConflict_regs s⟩
    · exact ⟨rfl, setNext_regs s table 1⟩

end Sys2Proof.Machine
end

section
/-! PROOF. Host commands that act at once (R219, R523, R609, R611): their effect, and how they complete (R616, R617). -/

namespace Sys2Proof.Machine

/-! ## Completions (R614 to R617) -/

/-- From `s` to `t` at most commands have completed: registers and the host port's record of commands change, and the
job stands. -/
structure Completes (s t : State) : Prop where
  form : t = { s with regs := t.regs, host := t.host }
  job : t.host.job = s.host.job
  skl : SklSame s t

section
variable {s t : State} (h : Completes s t)
include h

theorem Completes.memSame : MemSame s t := by rw [h.form]; exact ⟨rfl, rfl⟩
theorem Completes.boughs : t.boughs = s.boughs := by rw [h.form]
theorem Completes.step : t.step = s.step := by rw [h.form]
theorem Completes.rst : t.rst = s.rst := by rw [h.form]
theorem Completes.wire : t.wire = s.wire := by rw [h.form]

end

theorem Completes.refl (s : State) : Completes s s := ⟨rfl, rfl, fun _ _ => rfl⟩

theorem Completes.trans {s t u : State} (h : Completes s t) (h' : Completes t u) : Completes s u :=
  ⟨by rw [h'.form, h.form], h'.job.trans h.job, h.skl.trans h'.skl⟩

theorem completes_setFld (s : State) {a : Nat} (f : Fld) (v : Nat) (h : a / 2 ^ 24 ∈ [0, 1]) : Completes s (setFld s a f v) :=
  ⟨rfl, rfl, (blocksBut_setFld s f v h).sklSame (by decide)⟩

theorem completes_setRegN (s : State) {a : Nat} (v : Nat) (h : a / 2 ^ 24 ∈ [0, 1]) : Completes s (setRegN s a v) :=
  ⟨rfl, rfl, (blocksBut_setRegN s v h).sklSame (by decide)⟩

theorem completes_raise (s : State) {a : Nat} (m : Nat) (h : a / 2 ^ 24 ∈ [0, 1]) : Completes s (raise s a m) :=
  ⟨rfl, rfl, (blocksBut_raise s m h).sklSame (by decide)⟩

theorem completes_bump64 (s : State) {a : Nat} (n : Nat) (h : a / 2 ^ 24 ∈ [0, 1]) (h' : (a + 4) / 2 ^ 24 ∈ [0, 1]) :
    Completes s (bump64 s a n) := ⟨rfl, rfl, (blocksBut_bump64 s n h h').sklSame (by decide)⟩

theorem completes_host (s : State) (h : HostSt) (hjob : h.job = s.host.job := by rfl) : Completes s { s with host := h } :=
  ⟨rfl, hjob, fun _ _ => rfl⟩

/-- A log entry is written to host memory and counted. -/
theorem logEntry_completes (s : State) (c : HostCmd) (e : Compl) : Completes s (logEntry s c e).1 := by
  unfold logEntry
  dsimp only
  split
  · split
    · exact (completes_raise s _ (by decide)).trans (completes_setFld _ _ _ (by decide))
    · exact ((completes_host s _).trans (completes_bump64 _ _ (by decide) (by decide))).trans
        (completes_bump64 _ _ (by decide) (by decide))
  · exact .refl s

theorem dropCmd_completes (s : State) (h : Nat) : Completes s (dropCmd s h) :=
  (completes_host s _).trans (completes_setRegN _ _ (by decide))

theorem complete_completes (s : State) (h : Nat) (e : Compl) : Completes s (complete s h e) := by
  unfold complete
  split
  · exact .refl s
  · split
    · exact dropCmd_completes s h
    · exact ((logEntry_completes s _ e).trans (completes_host _ _)).trans (dropCmd_completes _ h)

/-- No command waits under a handle that has been dropped. -/
theorem findCmd_dropCmd (s : State) (h : Nat) : findCmd (dropCmd s h) h = none :=
  List.find?_eq_none.2 fun x hx => by simpa using (List.mem_filter.1 hx).2

/-- A command under its own handle completes with the status and the detail given. -/
theorem complete_completed {s : State} {c : HostCmd} (hfind : findCmd s c.handle = some c) (hgone : c.gone = false)
    (e : Compl) : Statements.Completed (complete s c.handle e) c e.status e.detail := by
  have hdone : complete s c.handle e = dropCmd { (logEntry s c e).1 with host := { (logEntry s c e).1.host with
      handles := aput (logEntry s c e).1.host.handles (c.handle % 4096)
        (handleEntry c.handle 3 e.status e.detail (logEntry s c e).2) } } c.handle := by
    simp [complete, hfind, hgone]
  rw [hdone]
  refine ⟨findCmd_dropCmd _ _, (logEntry s c e).2, ?_⟩
  exact (kfind_kins _ _ _ _).trans (if_pos rfl)

/-- A command that may start now acts. -/
theorem runs_hostCmd {i : Instr} {s : State} {op : Nat} {c : HostCmd} {act : State → HostCmd → State} {P : State → Prop}
    (hi : exec i s = finish s (hostCmd op act s)) (ha : alive s = true) (hc : startable s op = some c)
    (hp : P (ended s (act s c))) : Runs i s P := by
  have hact : hostCmd op act s = act s c := by simp [hostCmd, hc]
  exact runs_finish (hi.trans (by rw [hact])) ha hp

/-- A command whose effect `u` leaves the commands alone is done with status 0, and the effect stands. -/
theorem done_over {s u : State} {c : HostCmd} (hhost : u.host = s.host) (hfind : findCmd s c.handle = some c)
    (hgone : c.gone = false) : Statements.Completed (done u c 0) c 0 0 ∧ Completes u (done u c 0) :=
  ⟨complete_completed (by rw [findCmd, hhost]; exact hfind) hgone { status := 0 }, complete_completes u c.handle _⟩

/-! ## The effects -/

theorem syncDry_step (s : State) : (syncDry s).step = s.step := by
  unfold syncDry
  split
  · rfl
  · split <;> rfl

/-- Blight is reported once (R365). -/
theorem raiseBlight_reports (s : State) (src : Nat) :
    (raiseBlight s src).step.reports.length = s.step.reports.length + 1 := by
  have hreport : (reportBlight s src).step.reports.length = s.step.reports.length + 1 := List.length_append
  have hstep (start : Nat) : (blightStep s start src).step.reports = (reportBlight s src).step.reports := by
    show (syncDry _).step.reports = _
    rw [syncDry_step]
  unfold raiseBlight
  dsimp only
  split
  · split
    · rw [hstep, hreport]
    · exact hreport
  · exact hreport

/-- What a SWAP that names a table does (R213, R219). -/
def hostArm (s : State) (table : Nat) : State :=
  if switchArmed s then s
  else if s.frm.swConf then switchConflict (setNext s table 0) else setNext (setNext s table 0) table 1

theorem swapOf_eq (s : State) (c : HostCmd) : swapOf s c = done (hostArm s (c.num 8 8)) c 0 := rfl

theorem hostArm_frame (s : State) (table : Nat) : ArmFrame s (hostArm s table) := by
  unfold hostArm
  split
  · rfl
  · split <;> rfl

theorem hostArm_armed {s : State} (table : Nat) (h : switchArmed s = true) : hostArm s table = s := if_pos h

theorem hostArm_free {s : State} (table : Nat) (h : switchArmed s = false) (hc : s.frm.swConf = false) :
    hostArm s table = setNext (setNext s table 0) table 1 := by simp [hostArm, h, hc]

theorem hostArm_conflict {s : State} (table : Nat) (h : switchArmed s = false) (hc : s.frm.swConf = true) :
    hostArm s table = switchConflict (setNext s table 0) := by simp [hostArm, h, hc]

/-- The fuse that a FUSE names is blown (R523). -/
def fuseBlown (s : State) (c : HostCmd) : State :=
  let fuses := Statements.blown s.rst.fuses (fuseBits (c.num 8 1)) (c.num 8 1) (c.num 9 1) (c.num 10 1)
  { s with rst := { s.rst with fuses := fuses } }

theorem fuseOf_eq (s : State) (c : HostCmd) : fuseOf s c = done (fuseBlown s c) c 0 := rfl

end Sys2Proof.Machine

namespace Sys2Proof.Settled

open Sys2Proof.Machine

section
variable {s : State} {c : HostCmd} (ha : alive s = true)
include ha

theorem nop_completes (hs : Statements.Starts s ocNop c) : Runs .nop s fun t => Statements.Completed t c 0 0
    ∧ MemSame s t ∧ t.boughs = s.boughs ∧ t.host.job = s.host.job ∧ t.rst = s.rst ∧ t.wire = s.wire := by
  obtain ⟨hstart, hfind, hgone⟩ := hs
  obtain ⟨hover, hd⟩ := done_over rfl hfind hgone
  exact runs_hostCmd rfl ha hstart ⟨hover, hd.memSame, hd.boughs, hd.job, hd.rst, hd.wire⟩

theorem blight_completes (hs : Statements.Starts s ocBlight c) : Runs .blight s fun t => Statements.Completed t c 0 0
    ∧ t.step.reports.length = s.step.reports.length + 1 ∧ MemSame s t ∧ t.boughs = s.boughs := by
  obtain ⟨hstart, hfind, hgone⟩ := hs
  have hblight := raiseBlight_regsAndSteps s srcRuntime
  obtain ⟨hover, hd⟩ := done_over hblight.host hfind hgone
  have hreports : (done (raiseBlight s srcRuntime) c 0).step.reports.length = s.step.reports.length + 1 := by
    rw [hd.step, raiseBlight_reports]
  have hboughs : (done (raiseBlight s srcRuntime) c 0).boughs = s.boughs := by rw [hd.boughs, hblight]
  exact runs_hostCmd rfl ha hstart ⟨hover, hreports, hblight.memSame.trans hd.memSame, hboughs⟩

theorem swap_completes (hs : Statements.Starts s ocSwap c) (hlt : c.num 8 8 < 2 ^ 40) (hpage : c.num 8 8 % 4096 = 0) :
    Runs .swap s fun t => Statements.Completed t c 0 0 ∧ MemSame s t ∧ t.boughs = s.boughs
      ∧ (switchArmed s = true → switchArmed t = true ∧ nextTable t = nextTable s)
      ∧ (switchArmed s = false → s.frm.swConf = false → switchArmed t = true ∧ nextTable t = c.num 8 8)
      ∧ (switchArmed s = false → s.frm.swConf = true → switchArmed t = false
          ∧ fld t Reg.SKL_INTSTAT Fld.SKL_INTSTAT_SWCONF = 1) := by
  obtain ⟨hstart, hfind, hgone⟩ := hs
  have harm := hostArm_frame s (c.num 8 8)
  obtain ⟨hover, hd⟩ := done_over harm.host hfind hgone
  have hskl : SklSame (hostArm s (c.num 8 8)) (ended s (done (hostArm s (c.num 8 8)) c 0)) := hd.skl
  have hboughs : (done (hostArm s (c.num 8 8)) c 0).boughs = s.boughs := by rw [hd.boughs, harm.boughs]
  refine runs_hostCmd rfl ha hstart ?_
  rw [swapOf_eq]
  refine ⟨hover, harm.memSame.trans hd.memSame, hboughs, fun h => ?_, fun h hc => ?_, fun h hc => ?_⟩
  · rw [hskl.switchArmed, hskl.nextTable, hostArm_armed _ h]
    exact ⟨h, rfl⟩
  · rw [hskl.switchArmed, hskl.nextTable, hostArm_free _ h hc, setNext_nextTable _ _ (by decide)]
    exact ⟨setNext_switchArmed _ _, by omega⟩
  · rw [hskl.switchArmed, hskl.swconf, hostArm_conflict _ h hc]
    exact ⟨switchConflict_switchArmed _, switchConflict_swconf _⟩

theorem fuse_completes (hs : Statements.Starts s ocFuse c) : Runs .fuse s fun t => Statements.Completed t c 0 0
    ∧ t.rst = { s.rst with fuses := Statements.blown s.rst.fuses (fuseBits (c.num 8 1)) (c.num 8 1) (c.num 9 1) (c.num 10 1) }
    ∧ MemSame s t ∧ t.boughs = s.boughs := by
  obtain ⟨hstart, hfind, hgone⟩ := hs
  obtain ⟨hover, hd⟩ := done_over (u := fuseBlown s c) rfl hfind hgone
  refine runs_hostCmd rfl ha hstart ?_
  rw [fuseOf_eq]
  exact ⟨hover, hd.rst, hd.memSame, hd.boughs⟩

end

/-- Settles O22, command by command: each acts, and completes under its own handle. -/
theorem commandsAtOnce : Obligations.CommandsAtOnce := fun _ _ ha =>
  ⟨nop_completes ha, blight_completes ha, swap_completes ha, fuse_completes ha⟩

end Sys2Proof.Settled
end

section
/-! PROOF. Passes of the Sickle (R203, R212 to R214): their issue, and the rounds they wait for (R310). -/

namespace Sys2Proof.Machine

/-! ## Issue -/

/-- What the issue of a work item leaves: its entry is on the scoreboard, its unit has run, and the walk has gone on
(R126, R135). -/
def issueLeft (s u : State) (b : Nat) (i : Item) (body : List Byte) (run : State → Nat → Nat → List Byte → State) : State :=
  ended s (advance (run (Statements.onBoard u b i body) b (Statements.entryId u b) body) b)

/-- A work item that may issue does. -/
theorem issue_onBoard {s u : State} {n t b kind : Nat} {i : Item} {body : List Byte}
    (h : Statements.CanIssue s u n t b i body kind) (pick : List Byte → Bool)
    (run : State → Nat → Nat → List Byte → State) (hp : pick body = true) :
    issue s n kind t pick run = .next (issueLeft s u b i body run) := by
  obtain ⟨ha, hw, hk, hi, hs, -⟩ := h
  rw [issue_item pick run ha hw hk hp hi hs, (waited_form u b i).bough b]
  rfl

theorem onBoard_memSame (u : State) (b : Nat) (i : Item) (body : List Byte) : MemSame u (Statements.onBoard u b i body) :=
  (waited_form u b i).memSame.trans (pushEntry_memSame _ b _ i body)

theorem onBoard_regs (u : State) (b : Nat) (i : Item) (body : List Byte) :
    RegsBut u (Statements.onBoard u b i body) [Reg.BGH_SEM b (bitsN i.w2 30 24), Reg.BGH_STATUS b] := by
  intro a ha
  have hstatus : a ∉ [Reg.BGH_STATUS b] := fun h => ha (List.mem_cons_of_mem _ h)
  exact (pushEntry_regs _ b _ i body a hstatus).trans (waited_regs u b i a ha)

theorem onBoard_frm (u : State) (b : Nat) (i : Item) (body : List Byte) : (Statements.onBoard u b i body).frm = u.frm := by
  have hwaited : (waited u b i).frm = u.frm := by rw [waited_form u b i]
  exact hwaited

/-! ## The end of a pass -/

theorem markDone_done (s : State) (b id : Nat) : ∀ e ∈ (bough (markDone s b id) b).sb, e.id = id → e.done = true := by
  intro e he hid
  rw [markDone, mapEntry, bough_setBough_self] at he
  obtain ⟨x, -, rfl⟩ := List.mem_map.1 he
  split at hid
  next hx => rw [if_pos hx]
  next hx => exact absurd hid hx

/-- The walk's step, past the last item too, leaves memory and what is in flight (R131). -/
theorem advance_keeps (s : State) (b : Nat) :
    MemSame s (advance s b) ∧ (bough (advance s b) b).sb = (bough s b).sb := by
  by_cases h : itemIdx s b = 65535
  · have herr : advance s b = preemptOne (raise s (Reg.BGH_INTSTAT b) Fld.BGH_INTSTAT_ITEMERR.bit) b := if_pos h
    obtain ⟨u, hstop, hjob, -⟩ := preemptOne_frame (raise s (Reg.BGH_INTSTAT b) Fld.BGH_INTSTAT_ITEMERR.bit) b
    rw [herr, hjob.bough_eq, hstop.sb]
    exact ⟨hstop.memSame.trans hjob.memSame, rfl⟩
  · exact ⟨advance_memSame h, by rw [advance_eq h]; rfl⟩

/-- A pass that marks its entry done leaves it so, and what it wrote stands. -/
theorem passEnded {s w x : State} {b id : Nat} (h : x = markDone w b id) : MemSame x (ended s (advance x b))
    ∧ ∀ e ∈ (bough (ended s (advance x b)) b).sb, e.id = id → e.done = true := by
  obtain ⟨hmem, hsb⟩ := advance_keeps x b
  refine ⟨memSame_ended s hmem, ?_⟩
  rw [ended_bough, hsb, h]
  exact markDone_done w b id

theorem runDot_marks (s : State) (b id : Nat) (body : List Byte) : ∃ w, runDot s b id body = markDone w b id := ⟨_, rfl⟩

theorem runStage_marks (s : State) (b id : Nat) (body : List Byte) : ∃ w, runStage s b id body = markDone w b id := ⟨_, rfl⟩

/-! ## The rounds of the lines of a pass (R310) -/

/-- From `s` to `t` the boughs and the bytes of local memory stand. -/
def BoughsAndBytes (s t : State) : Prop := t.boughs = s.boughs ∧ t.mem = s.mem

theorem BoughsAndBytes.refl (s : State) : BoughsAndBytes s s := ⟨rfl, rfl⟩

theorem BoughsAndBytes.trans {s t u : State} (h : BoughsAndBytes s t) (h' : BoughsAndBytes t u) : BoughsAndBytes s u :=
  ⟨h'.1.trans h.1, h'.2.trans h.2⟩

theorem useLine_boughsAndBytes (s : State) (l : Nat) : BoughsAndBytes s (useLine s l) := by
  have hrake : BoughsAndBytes s (dropRake s l) := by
    unfold dropRake
    dsimp only
    split <;> exact ⟨rfl, rfl⟩
  unfold useLine
  dsimp only
  split
  · exact hrake
  · exact hrake.trans ⟨rfl, rfl⟩

theorem endRound_boughsAndBytes (s : State) (l : Nat) : BoughsAndBytes s (endRound s l) := by
  unfold endRound
  split
  · exact .refl s
  · dsimp only
    split <;> exact ⟨rfl, rfl⟩

theorem closeRound_boughsAndBytes (s : State) (l : Nat) : BoughsAndBytes s (closeRound s l).1 := by
  unfold closeRound
  split
  · exact .refl s
  · split
    · exact (endRound_boughsAndBytes s l).trans (useLine_boughsAndBytes _ l)
    · exact ⟨rfl, rfl⟩

theorem closeRounds_boughsAndBytes (s : State) (a n : Nat) : BoughsAndBytes s (closeRounds s a n).1 :=
  List.foldlRecOn (motive := fun r : State × Bool => BoughsAndBytes s r.1) _ _ (.refl s) fun _ h l _ =>
    h.trans (closeRound_boughsAndBytes _ l)

theorem closeLines_boughsAndBytes (s : State) (ls : List Nat) : BoughsAndBytes s (closeLines s ls).1 :=
  List.foldlRecOn (motive := fun r : State × Bool => BoughsAndBytes s r.1) _ _ (.refl s) fun _ h _ _ =>
    h.trans (closeRounds_boughsAndBytes _ _ _)

section
variable {s u : State} {n t b op : Nat} {i : Item} {body : List Byte} (h : Statements.CanIssue s u n t b i body 3)
  (hop : (sickleOf body).op = op)
include h hop

theorem passWaits_eq : passWaits s n t op = if (closeLines u (passReads u b body)).2 then none
    else some (closeLines u (passReads u b body)).1 := by
  obtain ⟨-, hw, hk, hi, -, -⟩ := h
  rcases hc : closeLines u (passReads u b body) with ⟨v, _ | _⟩ <;> simp [passWaits, hw, hk, hop, hi, hc]

/-- A pass whose lines no round holds up issues. -/
theorem sicklePass_issues (run : State → Nat → Nat → List Byte → State) (hfree : (closeLines u (passReads u b body)).2 = true) :
    sicklePass op run n t s = .next (issueLeft s u b i body run) := by
  rw [← issue_onBoard h (fun body => (sickleOf body).op = op) run (decide_eq_true hop), sicklePass, passWaits_eq h hop,
    if_pos hfree]

/-- A pass that a round holds up leaves the wait on record. -/
theorem sicklePass_waits (run : State → Nat → Nat → List Byte → State)
    (hheld : (closeLines u (passReads u b body)).2 = false) :
    sicklePass op run n t s = .next (ended s (closeLines u (passReads u b body)).1) := by
  rw [sicklePass, passWaits_eq h hop, hheld]
  exact finish_alive h.1

end

/-! ## SWITCH (R212, R213) -/

/-- Everything of a SWITCH pass but its arm leaves the Sickle's registers. -/
theorem switchPass_frame {s u : State} {b : Nat} (i : Item) (body : List Byte) (hb : b < 68) (hidx : itemIdx u b ≠ 65535) :
    itemIdx (issueLeft s u b i body runSwitch) b = itemIdx u b + 1 ∧ MemSame u (issueLeft s u b i body runSwitch)
      ∧ SklSame u (Statements.onBoard u b i body)
      ∧ SklSame (armSwitch (Statements.onBoard u b i body) (sickleOf body).table) (issueLeft s u b i body runSwitch)
      ∧ (issueLeft s u b i body runSwitch).frm = (armSwitch (Statements.onBoard u b i body) (sickleOf body).table).frm := by
  have hsem := bitsN_lt i.w2 30 24
  have hboard := onBoard_regs u b i body
  obtain ⟨harm, harmRegs⟩ := armSwitch_frame (Statements.onBoard u b i body) (sickleOf body).table
  have hpos : itemIdx (runSwitch (Statements.onBoard u b i body) b (Statements.entryId u b) body) b = itemIdx u b := by
    refine itemIdx_keeps (hboard.trans harmRegs) ?_
    simp only [armRegs, Reg.BGH_ITEM, Reg.BGH_SEM, Reg.BGH_STATUS, Reg.SKL_NEXT_LO, Reg.SKL_NEXT_HI, Reg.SKL_INTSTAT,
      List.mem_append, List.mem_cons, List.not_mem_nil, or_false]
    omega
  have hgo := hpos.symm ▸ hidx
  refine ⟨?_, ?_, hboard.sklSame ?_, (advance_regs hgo).sklSame ?_, ?_⟩
  · rw [issueLeft, itemIdx_of_reg (ended_reg s _ _), itemIdx_advance hgo, hpos]
  · exact memSame_ended s (((onBoard_memSame u b i body).trans (harm.memSame.trans
      (markDone_cartsOnly _ _ _).memSame)).trans (advance_memSame hgo))
  · simp only [Reg.BGH_SEM, Reg.BGH_STATUS, List.forall_mem_cons, List.not_mem_nil, false_imp_iff, implies_true, and_true]
    omega
  · simp only [Reg.BGH_ITEM, List.mem_singleton, forall_eq]
    omega
  · show (advance _ b).frm = _
    rw [advance_form hgo]
    rfl

end Sys2Proof.Machine

namespace Sys2Proof.Settled

open Sys2Proof.Machine

section
variable {s u : State} {n t b : Nat} {i : Item} {body : List Byte} (h : Statements.CanIssue s u n t b i body 3)
include h

theorem switchPass_arms (hop : (sickleOf body).op = 2) : Runs (.switchPass n t) s fun v =>
    itemIdx v b = itemIdx u b + 1 ∧ MemSame u v
      ∧ (u.frm.swConf = false → switchArmed u = false →
          switchArmed v = true ∧ nextTable v = (sickleOf body).table % 2 ^ 40 / 4096 * 4096)
      ∧ (u.frm.swConf = false → switchArmed u = true → nextTable u = (sickleOf body).table →
          switchArmed v = true ∧ nextTable v = nextTable u)
      ∧ ((u.frm.swConf = true ∨ switchArmed u = true ∧ nextTable u ≠ (sickleOf body).table) → switchArmed v = false
          ∧ v.frm.swConf = true ∧ fld v Reg.SKL_INTSTAT Fld.SKL_INTSTAT_SWCONF = 1) := by
  have hexec := issue_onBoard h (fun body => (sickleOf body).op = 2) runSwitch (decide_eq_true hop)
  obtain ⟨-, hw, -, -, -, hidx⟩ := h
  obtain ⟨hnext, hmem, hu, hv, hfrm⟩ := switchPass_frame (s := s) i body (walkTo_item_lt hw) hidx
  have hconf : (Statements.onBoard u b i body).frm.swConf = u.frm.swConf := by rw [onBoard_frm]
  rw [← hu.switchArmed, ← hu.nextTable, ← hconf]
  refine ⟨_, hexec, hnext, hmem, fun hc ha => ?_, fun hc ha ht => ?_, fun hc => ?_⟩
  · rw [hv.switchArmed, hv.nextTable, armSwitch_free hc ha]
    exact ⟨setNext_switchArmed _ _, setNext_nextTable _ _ (by decide)⟩
  · rw [hv.switchArmed, hv.nextTable, armSwitch_again hc ha ht]
    exact ⟨ha, rfl⟩
  · rw [hv.switchArmed, hv.swconf, hfrm, armSwitch_conflict hc]
    exact ⟨switchConflict_switchArmed _, rfl, switchConflict_swconf _⟩

end

theorem sicklePasses : Statements.SicklePasses := by
  refine fun s u n t b i body h => ⟨fun hop hfree => ?_, fun hop hfree => ?_, switchPass_arms h⟩
  · obtain ⟨w, hw⟩ := runDot_marks (Statements.onBoard u b i body) b (Statements.entryId u b) body
    exact ⟨_, sicklePass_issues h hop runDot hfree, passEnded hw⟩
  · obtain ⟨w, hw⟩ := runStage_marks (Statements.onBoard u b i body) b (Statements.entryId u b) body
    exact ⟨_, sicklePass_issues h hop runStage hfree, passEnded hw⟩

/-- A pass that waits has met the rounds of its lines and done nothing else (R310). -/
theorem passWaits_recorded : Statements.PassWaits := by
  intro s u n t b i body h hheld c hc hop
  have hexec : exec c.1 s = .next (ended s (closeLines u (passReads u b body)).1) := by
    simp only [List.mem_cons, List.not_mem_nil, or_false] at hc
    obtain rfl | rfl := hc
    · exact sicklePass_waits h hop runDot hheld
    · exact sicklePass_waits h hop runStage hheld
  obtain ⟨hboughs, hbytes⟩ := closeLines_boughsAndBytes u (passReads u b body)
  exact ⟨_, hexec, rfl, hboughs, hbytes⟩

/-- Settles O30: the passes that issue, and those that a round holds up. -/
theorem elementPasses : Obligations.ElementPasses := ⟨sicklePasses, passWaits_recorded⟩

end Sys2Proof.Settled
end

section
/-! PROOF. Reads of memory, whatever its codes hold: the registers that what they meet is counted, recorded and shown in
(R302, R495, R496, R498, R501, R505). -/

namespace Sys2Proof.Machine

/-- The register blocks that a read may write: the event number of its records, the slices of the Loft, and the counts, the
log and the events of the codes. -/
def readBlocks : List Nat := [1, 5, 13]

/-! ## Codewords -/

theorem record_readBlocks (s : State) (r : Rec) : BlocksBut s (record s r) readBlocks := (record_blocks s r).mono (by decide)

theorem corrReg_block (cls : Nat) : corrReg cls / 2 ^ 24 ∈ readBlocks := by
  unfold corrReg
  split <;> decide

theorem uncReg_block (cls : Nat) : uncReg cls / 2 ^ 24 ∈ readBlocks := by
  unfold uncReg
  split <;> decide

theorem countHour_regs (s : State) (cls a : Nat) : (countHour s cls a).regs = s.regs := by
  unfold countHour
  dsimp only
  split
  · rfl
  · split <;> rfl

theorem takeWrong_regs (s : State) (k : Nat) : (takeWrong s k).regs = s.regs := by
  have hset (u : State) (e : CwErr) : (setCw u k e).regs = u.regs := rfl
  have hpoke (u : State) (a : Nat) (bs : List Byte) : (poke u a bs).regs = u.regs := rfl
  have hflip (u : State) (q d : Nat) : (lparFlip u q d).regs = u.regs := rfl
  have hstale (a n : Nat) : (keepStale s a n).regs = s.regs := rfl
  unfold takeWrong
  dsimp only
  split <;> split <;> simp only [hflip, hset, hpoke, hstale]

theorem takeCorrected_blocks (s : State) (k : Nat) (e : CwErr) : BlocksBut s (takeCorrected s k e) readBlocks := by
  have hcount : BlocksBut s (note (countHour (bump s (corrReg (k % 4)) 1) (k % 4) (k / 4))
      { cls := k % 4, addr := k / 4, uncorr := false, lpar := false, pos := e.pos }) readBlocks :=
    (blocksBut_bump s 1 (corrReg_block _)).trans (.of_regs (countHour_regs _ _ _) _)
  have hset (u : State) (e : CwErr) : BlocksBut u (setCw u k e) readBlocks := .of_regs rfl _
  unfold takeCorrected
  dsimp only
  split <;> split
  · exact (hcount.trans (record_readBlocks _ _)).trans (hset _ _)
  · exact hcount.trans (hset _ _)
  · exact (hcount.trans (record_readBlocks _ _)).trans (hset _ _)
  · exact hcount.trans (hset _ _)

theorem takeUncorr_blocks (s : State) (cls a : Nat) (e : CwErr) (l : Bool) :
    BlocksBut s (takeUncorr s cls a e l) readBlocks := by
  have hcount : BlocksBut s (raise (bump s (uncReg cls) 1) Reg.INT_INTSTAT Fld.INT_INTSTAT_UNCORR.bit) readBlocks :=
    (blocksBut_bump s 1 (uncReg_block cls)).trans (blocksBut_raise _ _ (by decide))
  cases l
  · exact hcount.trans (.of_regs rfl _)
  · exact (hcount.trans (blocksBut_raise _ Fld.INT_INTSTAT_LPAR.bit (by decide))).trans (.of_regs rfl _)

theorem readCw_blocks (s : State) (k : Nat) (e : CwErr) : BlocksBut s (readCw s k e).1 readBlocks := by
  simp only [readCw_eq]
  cases foundOf s k e
  · exact .refl s _
  · exact takeCorrected_blocks s k e
  · exact takeUncorr_blocks s _ _ e _
  · exact (takeCorrected_blocks s k _).trans (.of_regs (takeWrong_regs _ k) _)
  · exact .of_regs (takeWrong_regs s k) _

theorem readCws_blocks (l : List (Nat × CwErr)) (s : State) : BlocksBut s (readCws s l).1 readBlocks := by
  induction l generalizing s with
  | nil => exact .refl s _
  | cons x l ih =>
    have hx := readCw_blocks s x.1 x.2
    rw [readCws]
    revert hx
    rcases readCw s x.1 x.2 with ⟨t, _ | _⟩ <;> intro hx
    · exact hx.trans (ih t)
    · exact hx

/-! ## Refills (R498) -/

theorem onRead_blocks {β : Type} (π : β → State) {s : State} {l : List Nat} {f : State → Nat → β} {g : State → β}
    {r : State × Option Nat} (hr : BlocksBut s r.1 l) (hf : ∀ t b, BlocksBut t (π (f t b)) l)
    (hg : ∀ t, BlocksBut t (π (g t)) l) : BlocksBut s (π (onRead f g r)) l := by
  obtain ⟨t, _ | b⟩ := r
  · exact hr.trans (hg t)
  · exact hr.trans (hf t b)

theorem onStored_blocks {β : Type} (π : β → State) {s : State} {l : List Nat} {f : State → Bad → β} {g : State → β}
    {r : State × Option Bad} (hr : BlocksBut s r.1 l) (hf : ∀ t b, BlocksBut t (π (f t b)) l)
    (hg : ∀ t, BlocksBut t (π (g t)) l) : BlocksBut s (π (onStored f g r)) l := by
  obtain ⟨t, _ | b⟩ := r
  · exact hr.trans (hg t)
  · exact hr.trans (hf t b)

theorem restoreSector_blocks (s : State) (a : Nat) : BlocksBut s (restoreSector s a) readBlocks :=
  have hpoke (u : State) (a : Nat) (bs : List Byte) : BlocksBut u (poke u a bs) readBlocks := .of_regs rfl _
  BlocksBut.trans (.of_regs rfl _) (.foldl (fun _ _ => hpoke _ _ _) _ _)

theorem refilled_blocks (a : Nat) (s : State) : BlocksBut s (refilled a s) readBlocks :=
  ((BlocksBut.foldl restoreSector_blocks _ s).trans (blocksBut_bump _ _ (by decide))).trans (record_readBlocks _ _)

theorem refill_blocks (s : State) (a : Nat) : BlocksBut s (refill s a).1 readBlocks := by
  simp only [refill_eq]
  exact onRead_blocks Prod.fst (readCws_blocks _ s) (fun t _ => .refl t _) (refilled_blocks a)

section
variable {again : State → State × Option Bad} (h : ∀ t, BlocksBut t (again t).1 readBlocks)
include h

theorem refillAgain_blocks (s : State) (a : Nat) : BlocksBut s (refillAgain again s a).1 readBlocks :=
  onStored_blocks Prod.fst (refill_blocks s a) (fun t _ => .refl t _) h

theorem lparMet_blocks (s : State) (q : Option Nat) : BlocksBut s (lparMet again s q).1 readBlocks := by
  cases q with
  | none => exact .refl s _
  | some q =>
    refine (takeUncorr_blocks s 1 q {} true).trans ?_
    unfold lparMet
    dsimp only
    split
    · exact refillAgain_blocks h _ q
    · exact .refl _ _

end

/-! ## Reads -/

theorem checkCws_blocks (cws : State → List (Nat × CwErr)) (lp : State → Option Nat) (cls fuel : Nat) (s : State) :
    BlocksBut s (checkCws cws lp cls fuel s).1 readBlocks := by
  induction fuel generalizing s with
  | zero => exact .refl s _
  | succ k ih =>
    rw [checkCws_succ]
    refine onRead_blocks Prod.fst (readCws_blocks _ s) (fun t b => ?_) fun t => lparMet_blocks ih t _
    split
    · exact refillAgain_blocks ih t b
    · exact .refl t _

theorem checkParts_blocks (l : List (Nat × Nat)) (s : State) : BlocksBut s (checkParts s l).1 readBlocks := by
  induction l generalizing s with
  | nil => exact .refl s _
  | cons x l ih =>
    have h : BlocksBut s (checkRange 9 s (classOf s x.1) x.1 x.2).1 readBlocks := checkCws_blocks _ _ _ _ s
    rw [checkParts]
    revert h
    rcases checkRange 9 s (classOf s x.1) x.1 x.2 with ⟨t, _ | b⟩ <;> intro h
    · exact h.trans (ih t)
    · exact h

theorem checkRead_blocks (s : State) (a n : Nat) : BlocksBut s (checkRead s a n).1 readBlocks := by
  unfold checkRead
  cases uninitIn s a n with
  | none => exact checkParts_blocks _ s
  | some u => exact (blocksBut_bump s 1 (by decide)).trans (blocksBut_raise _ _ (by decide))

theorem useLine_regs (s : State) (l : Nat) : (useLine s l).regs = s.regs := by
  have hrake : (dropRake s l).regs = s.regs := by
    unfold dropRake
    dsimp only
    split <;> rfl
  unfold useLine
  dsimp only
  split
  · exact hrake
  · exact hrake

theorem sliceOf_lt (a : Nat) : sliceOf a < 64 := by
  unfold sliceOf
  split
  · have h (hi lo : Nat) (h : hi + 1 - lo ≤ 6) : bitsN (a / 4096) hi lo < 2 ^ 6 :=
      (bitsN_lt _ _ _).trans_le (Nat.pow_le_pow_right (by decide) h)
    exact Nat.xor_lt_two_pow (Nat.xor_lt_two_pow (Nat.xor_lt_two_pow (Nat.xor_lt_two_pow (h 5 0 (by decide))
      (h 11 6 (by decide))) (h 17 12 (by decide))) (h 23 18 (by decide))) (h 27 24 (by decide))
  · exact Nat.mod_lt _ (by decide)

/-- The end of a round may free a divert record, which the slice of its line then counts no more (R313). -/
theorem endRound_blocks (s : State) (l : Nat) : BlocksBut s (endRound s l) readBlocks := by
  have hslice : Reg.LFT_SLSTAT (sliceOf (4096 * l)) / 2 ^ 24 = 5 := by
    have hlt := sliceOf_lt (4096 * l)
    simp only [Reg.LFT_SLSTAT]
    omega
  unfold endRound
  split
  · exact .refl s _
  · split
    · exact BlocksBut.trans (.of_regs rfl _) (blocksBut_setFld _ _ _ (by rw [hslice]; decide))
    · exact .of_regs rfl _

theorem accessLine_blocks (s : State) (l : Nat) : BlocksBut s (accessLine s l) readBlocks := by
  unfold accessLine
  split
  · exact .of_regs rfl _
  · split
    · exact .of_regs (useLine_regs s l) _
    · split
      · exact (endRound_blocks s l).trans (.of_regs (useLine_regs _ l) _)
      · exact .of_regs rfl _

theorem accessMem_blocks (s : State) (a n : Nat) : BlocksBut s (accessMem s a n) readBlocks :=
  .foldl accessLine_blocks _ s

theorem load_blocks (s : State) (a n : Nat) : BlocksBut s (load s a n).1 readBlocks := by
  refine (accessMem_blocks s a n).trans ?_
  unfold load
  simp only [loadRaw_eq]
  exact onStored_blocks Prod.fst (checkRead_blocks _ a n) (fun t _ => .refl t _) fun t => .refl t _

end Sys2Proof.Machine
end

section
/-! PROOF. Chains (R233, R249, R656): however a chain ends, its entry is done; one whose configuration is refused is marked
so. -/

namespace Sys2Proof.Machine

/-! ## Entries in flight -/

/-- Entry `id` of the scoreboard of bough `b`, where there is one, is as `P` says. -/
def EntryIs (s : State) (b id : Nat) (P : SbEntry → Prop) : Prop := ∀ e ∈ (bough s b).sb, e.id = id → P e

theorem EntryIs.of_sb {s t : State} {b id : Nat} {P : SbEntry → Prop} (h : EntryIs s b id P)
    (hsb : (bough t b).sb = (bough s b).sb) : EntryIs t b id P := by
  unfold EntryIs
  rw [hsb]
  exact h

/-- A changed entry is as the change leaves it. -/
theorem mapEntry_entryIs (s : State) (b id : Nat) {f : SbEntry → SbEntry} {P : SbEntry → Prop} (hf : ∀ e, P (f e)) :
    EntryIs (mapEntry s b id f) b id P := by
  intro e he hid
  rw [mapEntry, bough_setBough_self] at he
  obtain ⟨x, -, rfl⟩ := List.mem_map.1 he
  split at hid
  next hx => rw [if_pos hx]; exact hf x
  next hx => exact absurd hid hx

/-- The walk's step leaves what a work item has written and its entry. -/
theorem issueLeft_keeps (s u : State) (b : Nat) (i : Item) (body : List Byte) (run : State → Nat → Nat → List Byte → State)
    {P : SbEntry → Prop} (h : EntryIs (run (Statements.onBoard u b i body) b (Statements.entryId u b) body) b
      (Statements.entryId u b) P) :
    MemSame (run (Statements.onBoard u b i body) b (Statements.entryId u b) body) (issueLeft s u b i body run)
      ∧ EntryIs (issueLeft s u b i body run) b (Statements.entryId u b) P := by
  obtain ⟨hmem, hsb⟩ := advance_keeps (run (Statements.onBoard u b i body) b (Statements.entryId u b) body) b
  exact ⟨memSame_ended s hmem, h.of_sb hsb⟩

/-- The walk's step, past the last item too, writes registers of the boughs and of the job alone (R131). -/
theorem advance_blocks (s : State) {b : Nat} (hb : b < 68) : BlocksBut s (advance s b) [0, 1, 2, 7, 8, 12] := by
  by_cases h : itemIdx s b = 65535
  · have herr : advance s b = preemptOne (raise s (Reg.BGH_INTSTAT b) Fld.BGH_INTSTAT_ITEMERR.bit) b := if_pos h
    have hblock : Reg.BGH_INTSTAT b / 2 ^ 24 = 2 := by simp only [Reg.BGH_INTSTAT]; omega
    obtain ⟨u, hstop, hjob, -⟩ := preemptOne_frame (raise s (Reg.BGH_INTSTAT b) Fld.BGH_INTSTAT_ITEMERR.bit) b
    rw [herr]
    exact (blocksBut_raise s _ (by rw [hblock]; decide)).trans ((hstop.jobOver hb).trans hjob.jobOver).regs
  · have hblock : Reg.BGH_ITEM b / 2 ^ 24 = 2 := by simp only [Reg.BGH_ITEM]; omega
    rw [advance_eq h]
    exact blocksBut_setFld s _ _ (by rw [hblock]; decide)

/-! ## The end of a chain -/

theorem preemptAll_sb (s : State) (b : Nat) : (bough (preemptAll s) b).sb = (bough s b).sb :=
  List.foldlRecOn (motive := fun t => (bough t b).sb = (bough s b).sb) (presented s) preempt rfl fun t h c _ => by
    refine Eq.trans ?_ h
    by_cases hc : b = c
    · exact hc ▸ (preempt_frame t b).sb
    · rw [(preempt_frame t c).others b hc]

theorem endJob_sb (s : State) (st d b : Nat) : (bough (endJob s st d) b).sb = (bough s b).sb := by
  unfold endJob
  split
  · rfl
  · rw [(jobStopCheck_jobFrame _).bough_eq, preemptAll_sb]
    rfl

/-- A consumer that stops leaves what is in flight (R497). -/
theorem stopConsumer_sb (s : State) (always : Bool) (bad : Bad) (seq b : Nat) :
    (bough (stopConsumer s always bad seq) b).sb = (bough s b).sb := by
  have hrecord (u : State) (r : Rec) : bough (record u r) b = bough u b := bough_congr (by rw [record_form]) b
  have hblight : bough (if stepOpen s then raiseBlight s srcUncorr else s) b = bough s b := by
    split
    · exact (raiseBlight_regsAndSteps s _).bough b
    · rfl
  unfold stopConsumer
  dsimp only
  split
  · rw [endJob_sb, hrecord, hblight]
  · rw [hrecord, hblight]

section
variable (b id : Nat)

theorem chainFault_done (s : State) (bad : Bad) : EntryIs (chainFault s b id bad) b id (·.done = true) := by
  delta chainFault
  refine EntryIs.of_sb ?_ (stopConsumer_sb _ _ _ _ _)
  exact mapEntry_entryIs _ b id fun _ => rfl

theorem chainRefused_marked (s : State) : EntryIs (chainRefused s b id) b id fun e => e.done = true ∧ e.badCfg = true :=
  mapEntry_entryIs s b id fun _ => ⟨rfl, rfl⟩

theorem chainRefused_done (s : State) : EntryIs (chainRefused s b id) b id (·.done = true) :=
  mapEntry_entryIs s b id fun _ => rfl

theorem chainEnd_done (p : Prog) (c : Chain) (w : Chn) : EntryIs (chainEnd p c b id w) b id (·.done = true) := by
  unfold chainEnd
  dsimp only
  split
  · exact chainFault_done b id _ _
  · split
    · exact chainFault_done b id _ _
    · exact mapEntry_entryIs _ b id fun _ => rfl

/-- How a chain goes on with its tables read: they are refused, or its program runs (R233, R656). -/
def chainTabled (step : Nat) (c : Chain) (g : Cfg) (s : State) (tabs : List (Nat × List Byte)) : State :=
  if tabs.any fun t => tableBad t.2 then chainRefused s b id
  else
    let (p, ev) := progOf (strictMode s) c g tabs
    let s := numEvB s (Reg.THR_NUMOVF b) ev
    chainEnd p c b id ((List.range c.rows).foldl (chainRow p c (writesW g) step b) ⟨s, [], [], none⟩)

/-- How a chain goes on with its configuration read: it is refused, or its tables are read (R656). -/
def chainConfigured (step : Nat) (c : Chain) (s : State) (bs : List Byte) : State :=
  if cfgBad c bs then chainRefused s b id
  else onDone (fun s bad => chainFault s b id bad) (chainTabled b id step c (cfgOf bs))
    (readTables (setFld s (Reg.THR_STATUS b) Fld.THR_STATUS_NSTAGE (cfgOf bs).nstage) b
      (((cfgOf bs).stages.filter fun st => st.kind = 3).map (·.toff)))

/-- A chain by its reads. Equal as functions: at its arguments the kernel does not get through the unfolding of `runChain`. -/
theorem runChain_eq : runChain = fun s b id body =>
    onDone (fun s bad => chainFault s b id bad)
      (chainConfigured b id (((entryOf s b id).map (·.step)).getD 0) (chainOf body))
      (load (setFld s (Reg.THR_STATUS b) Fld.THR_STATUS_BUSY 1) (cribBase b + 64 * (chainOf body).cfg) 384) := by
  delta runChain
  funext s b id body
  extract_lets c step busy
  show _ = onDone _ (chainConfigured b id step c) (load busy (cribBase b + 64 * c.cfg) 384)
  rcases load busy (cribBase b + 64 * c.cfg) 384 with ⟨t, bad | bs⟩
  · rfl
  · refine if_congr Iff.rfl rfl ?_
    extract_lets staged
    show _ = onDone _ (chainTabled b id step c (cfgOf bs))
      (readTables staged b (((cfgOf bs).stages.filter fun st => st.kind = 3).map (·.toff)))
    generalize readTables staged b (((cfgOf bs).stages.filter fun st => st.kind = 3).map (·.toff)) = r
    obtain ⟨v, bad | tabs⟩ := r <;> rfl

theorem onDone_chainFault_done {α : Type} {g : State → α → State} (hg : ∀ t x, EntryIs (g t x) b id (·.done = true))
    (r : State × Except Bad α) : EntryIs (onDone (fun s bad => chainFault s b id bad) g r) b id (·.done = true) := by
  obtain ⟨t, bad | x⟩ := r
  · exact chainFault_done b id t bad
  · exact hg t x

/-- A chain stops, is refused or runs to its end; each finishes its entry. -/
theorem runChain_done (s : State) (body : List Byte) : EntryIs (runChain s b id body) b id (·.done = true) := by
  simp only [runChain_eq]
  refine onDone_chainFault_done b id (fun t bs => ?_) _
  unfold chainConfigured
  split
  · exact chainRefused_done b id t
  refine onDone_chainFault_done b id (fun u tabs => ?_) _
  unfold chainTabled
  split
  · exact chainRefused_done b id u
  · exact chainEnd_done b id _ _ _

theorem runChain_refused {s x : State} {body bs : List Byte}
    (hload : load (setFld s (Reg.THR_STATUS b) Fld.THR_STATUS_BUSY 1) (cribBase b + 64 * (chainOf body).cfg) 384 = (x, .ok bs))
    (hbad : cfgBad (chainOf body) bs = true) : runChain s b id body = chainRefused x b id := by
  simp only [runChain_eq, hload]
  exact if_pos hbad

end

/-- A refused chain is at work until it retires: nothing since its start has cleared BUSY (R252). -/
theorem chainRefused_busy {s x : State} {b a n : Nat} {bs : List Byte} (id : Nat) (hb : b < 68)
    (hload : load (setFld s (Reg.THR_STATUS b) Fld.THR_STATUS_BUSY 1) a n = (x, .ok bs)) :
    fld (advance (chainRefused x b id) b) (Reg.THR_STATUS b) Fld.THR_STATUS_BUSY = 1 := by
  have hblock : Reg.THR_STATUS b / 2 ^ 24 = 3 := by simp only [Reg.THR_STATUS]; omega
  have hread := load_blocks (setFld s (Reg.THR_STATUS b) Fld.THR_STATUS_BUSY 1) a n
  rw [hload] at hread
  calc fld (advance (chainRefused x b id) b) (Reg.THR_STATUS b) Fld.THR_STATUS_BUSY
      = fld (chainRefused x b id) (Reg.THR_STATUS b) Fld.THR_STATUS_BUSY :=
        (advance_blocks _ hb).fld (by rw [hblock]; decide) _
    _ = fld x (Reg.THR_STATUS b) Fld.THR_STATUS_BUSY := fld_of_reg (setBough_reg _ _ _ _) _
    _ = fld (setFld s (Reg.THR_STATUS b) Fld.THR_STATUS_BUSY 1) (Reg.THR_STATUS b) Fld.THR_STATUS_BUSY :=
        hread.fld (by rw [hblock]; decide) _
    _ = 1 := fld_setFld _ _ _ _ (by decide) (by decide)

end Sys2Proof.Machine

namespace Sys2Proof.Settled

open Sys2Proof.Machine

/-- Settles O32: every end of a chain finishes its entry, and a refused configuration is read and nothing else is done. -/
theorem chainIssues : Obligations.ChainIssues := by
  unfold Obligations.ChainIssues
  intro s u n t b i body h
  have hexec : exec (.chain n t) s = .next (issueLeft s u b i body runChain) := issue_onBoard h (fun _ => true) runChain rfl
  have ⟨_, hwalk, _⟩ := h
  refine ⟨⟨_, hexec, issueLeft_keeps s u b i body runChain (runChain_done _ _ _ _)⟩, fun x bs hload hbad => ⟨_, hexec, ?_⟩⟩
  have hrun := runChain_refused b (Statements.entryId u b) hload hbad
  obtain ⟨hmem, hentry⟩ := issueLeft_keeps s u b i body runChain (hrun ▸ chainRefused_marked b (Statements.entryId u b) x)
  refine ⟨?_, ?_, hentry⟩
  · rw [hrun] at hmem
    exact (setBough_memSame x b _).trans hmem
  · rw [issueLeft, hrun]
    exact chainRefused_busy _ (walkTo_item_lt hwalk) hload

end Sys2Proof.Settled
end

section
/-! PROOF. A cart whose one segment counts as applied while its write to the control space is still to come (R254, R284). -/

namespace Sys2Proof.Settled

open Sys2Proof.Machine

/-- An ATOMIC cart under RETEN to a register of the own control space: its old value has landed in a Crib, and with that its
segment counts as applied; the write of the register takes place when the cart completes. -/
def registerCart : CartSt :=
  { bough := none, entry := 0, op := 1, dtype := 0, rop := 0, reten := true, ff := false, cseq := 0, len := 4, src := 0
    dst := ctlBase + Reg.LFT_REDCTRL, ret := cribBase 0, rsig := 0, pframe := 0, segs := [.applied]
    ctl := [(0, ctlBase + Reg.LFT_REDCTRL, leBytes 4 1)] }

/-- That cart is the only thing under way on an Idle device. -/
def registerDue : State :=
  { setFld { rst := { mainPg := true } } Reg.RST_STATUS Fld.RST_STATUS_STATE stIdle with carts := [(7, registerCart)] }

theorem registerDue_calm : Statements.Calm { registerDue with carts := [] } := calm_of_tCalm (by decide +kernel)

theorem registerDue_written : regN (settle (cartComplete (syncCart (ctlLand registerDue 7) 7) 7)) Reg.LFT_REDCTRL
    ≠ regN registerDue Reg.LFT_REDCTRL := by decide +kernel

theorem not_cartCompletes : ¬ Statements.CartCompletes := by
  unfold Statements.CartCompletes
  intro h
  have halive : alive registerDue = true := by decide +kernel
  obtain ⟨-, hruns⟩ := h registerDue 7 registerCart halive (by decide +kernel) (by decide) (by decide)
    (.inl (by decide +kernel))
  obtain ⟨t, hexec, -, -, -, hregs, -⟩ := hruns registerDue_calm rfl
  have hcart : exec (.cartComplete 7) registerDue
      = finish registerDue (settle (cartComplete (syncCart (ctlLand registerDue 7) 7) 7)) := rfl
  rw [hcart, finish_alive halive] at hexec
  obtain rfl := Host.Outcome.next.inj hexec
  rw [ended_regs] at hregs
  exact registerDue_written (regN_congr hregs _)

/-- Refutes O34: a completing cart that still has a register of the control space to write changes that register, though it
is alone and each of its segments counts as applied. -/
theorem not_cartsAndRounds : ¬ Obligations.CartsAndRounds := by
  unfold Obligations.CartsAndRounds
  exact fun h => not_cartCompletes h.1

end Sys2Proof.Settled
end

section
/-! PROOF. A response that comes from this device's own number lets a cart that stays on this device go on (R285, R441). -/

namespace Sys2Proof.Machine

/-- A packet for this device that the link takes has its effect on the state that the link leaves. -/
theorem recv_here {s u : State} {p op : Nat} {k k' : Packet} (h : Statements.Accepted s u p op k k')
    (act : Packet → State → State) : recv s p op k act = act k' u := by
  obtain ⟨⟨-, hop, harr⟩, hroute⟩ := h
  unfold recv
  rw [if_neg (not_not.2 hop), harr]
  exact routeIn_here hroute p _

end Sys2Proof.Machine

namespace Sys2Proof.Settled

open Sys2Proof.Machine

/-- A COPY of two segments from one Crib of this device to another, the first on its way and the second not sent. -/
def homeCart : CartSt :=
  { bough := none, entry := 0, op := 0, dtype := 0, rop := 0, reten := false, ff := false, cseq := 0, len := 513
    src := cribBase 0, dst := cribBase 1, ret := 0, rsig := 0, pframe := 0, segs := [.left, .unsent] }

/-- The cart is in use, and its second segment has a byte to copy. -/
def homeBound : State := { tFab with carts := [(1, homeCart)], mem := [(cribBase 0 + 512, 9#8)] }

/-- A READRSP for the first segment, from this device's own number. -/
def homeResponse : Packet := { tOp opReadrsp vlBest 0 [5#8] with src := 0 }

/-- The response is taken for the first segment of the cart, all else is calm, and yet a byte beyond its payload is written. -/
def writesOn (u : State) (k : Packet) : Bool :=
  decide (u.carts = [(k.cartid, homeCart)]) && tCalm { u with carts := [] } && tClean u
    && decide (responsePlace u k = some (homeCart, 0, cribBase 1))
    && decide ((settle (takeResponse u 23 k)).mem ≠ memPut u.mem (cribBase 1) k.payload)

theorem homeResponse_writesOn : tTake homeBound homeResponse writesOn = true := by decide +kernel

/-- Refutes O39: where nothing else is under way, the response's payload is said to be all that memory takes, but the cart
that it is for may be one that stays on this device, and then goes on with its next segment. -/
theorem not_packetsServed : ¬ Obligations.PacketsServed := by
  unfold Obligations.PacketsServed
  intro h
  obtain ⟨u, k, hacc, hon⟩ := of_tTake homeResponse_writesOn
  replace hacc : Statements.Accepted homeBound u 23 opReadrsp (tSeal homeBound homeResponse) k := hacc
  obtain ⟨ha, -, -, -⟩ := accepted_linked hacc
  simp only [writesOn, Bool.and_eq_true, decide_eq_true_eq] at hon
  obtain ⟨⟨⟨⟨hcarts, hcalm⟩, hclean⟩, hplace⟩, hmem⟩ := hon
  obtain ⟨-, -, -, -, -, -, hresp⟩ := h homeBound u 23 (tSeal homeBound homeResponse) k
  obtain ⟨-, hruns⟩ := hresp (.readrsp 23 (tSeal homeBound homeResponse), opReadrsp) (by simp) hacc homeCart 0 (cribBase 1)
    hplace (by decide) (by decide) rfl
  obtain ⟨t, hexec, ht, -⟩ := hruns hcarts (calm_of_tCalm hcalm) (clean_of_tClean hclean)
  have hrecv : exec (.readrsp 23 (tSeal homeBound homeResponse)) homeBound = finish homeBound (recv homeBound 23 opReadrsp
      (tSeal homeBound homeResponse) fun k s => settle (takeResponse s 23 k)) := rfl
  rw [hrecv, recv_here hacc, finish_alive ha] at hexec
  obtain rfl := Host.Outcome.next.inj hexec
  exact hmem ht

end Sys2Proof.Settled
end

section
/-! PROOF. The object table (R260, R261): where its records lie, what a write of a record's fields leaves of memory, and what
the fields then read. -/

namespace Sys2Proof.Machine

/-! ## Where memory and the object table lie (R254, R260) -/

/-- The registers that place the object table and the backed ranges. -/
def mapRegs : List Nat := [Reg.LFT_OBJBASE_LO, Reg.LFT_OBJBASE_HI, Reg.LFT_DIRECT]

def SameMap (s t : State) : Prop := ∀ a ∈ mapRegs, reg t a = reg s a

theorem SameMap.refl (s : State) : SameMap s s := fun _ _ => rfl

theorem SameMap.trans {s t u : State} (h : SameMap s t) (h' : SameMap t u) : SameMap s u :=
  fun a ha => (h' a ha).trans (h a ha)

theorem sameMap_of_regs {s t : State} (h : t.regs = s.regs) : SameMap s t := fun a _ => reg_congr h a

theorem RegsBut.sameMap {s t : State} {l : List Nat} (h : RegsBut s t l) (hl : ∀ a ∈ mapRegs, a ∉ l) : SameMap s t :=
  fun a ha => h a (hl a ha)

theorem BlocksBut.sameMap {s t : State} {l : List Nat} (h : BlocksBut s t l) (hl : 5 ∉ l) : SameMap s t := by
  have hblock : ∀ a ∈ mapRegs, a / 2 ^ 24 = 5 := by decide
  exact fun a ha => h a (hblock a ha ▸ hl)

theorem SameMap.objRec {s t : State} (h : SameMap s t) (j : Nat) : objRec t j = Machine.objRec s j := by
  have hbase : reg64 t Reg.LFT_OBJBASE_LO = reg64 s Reg.LFT_OBJBASE_LO := reg64_of_reg (h _ (by decide)) (h _ (by decide))
  rw [Machine.objRec, hbase, Machine.objRec]

theorem SameMap.isMem {s t : State} (h : SameMap s t) (a : Nat) : isMem t a = Machine.isMem s a := by
  have hdirect : directSize t = directSize s := congrArg (· * 0x18000000) (fld_of_reg (h _ (by decide)) _)
  simp only [Machine.isMem, isDirect, hdirect]

theorem SameMap.rangeOk {s t : State} (h : SameMap s t) (a n : Nat) : rangeOk t a n = Machine.rangeOk s a n := by
  have hdirect : directSize t = directSize s := congrArg (· * 0x18000000) (fld_of_reg (h _ (by decide)) _)
  simp only [Machine.rangeOk, isDirect, hdirect]

/-- The record of an object stays memory that can hold it. -/
theorem SameMap.recordOk {s t : State} (h : SameMap s t) (j : Nat) :
    Machine.rangeOk t (Machine.objRec t j) 64 = Machine.rangeOk s (Machine.objRec s j) 64 := by rw [h.objRec, h.rangeOk]

/-- Every byte of a range that is backed and stays in one region is backed. -/
theorem isMem_of_rangeOk {s : State} {a n k : Nat} (h : rangeOk s a n = true) (hlo : a ≤ k) (hhi : k < a + n) :
    isMem s k = true := by
  simp only [rangeOk, isMem, isObj, isDirect, isCrib, Bool.or_eq_true, Bool.and_eq_true, decide_eq_true_eq] at h ⊢
  omega

/-! ## Bytes -/

theorem SameMap.byteAt {s t : State} (h : SameMap s t) {a : Nat}
    (hm : kget (fun _ => 0#8) t.mem a = kget (fun _ => 0#8) s.mem a) : byteAt t a = Machine.byteAt s a := by
  rw [Machine.byteAt, h.isMem, hm, Machine.byteAt]

theorem byteAt_poke_off (s : State) {a k : Nat} {bs : List Byte} (h : k < a ∨ a + bs.length ≤ k) :
    byteAt (poke s a bs) k = byteAt s k :=
  (sameMap_of_regs (poke_regs s a bs)).byteAt ((kget_memPut _ _ _ _).trans (if_neg (by omega)))

theorem byteAt_poke_on (s : State) {a i : Nat} {bs : List Byte} (hi : i < bs.length) (hm : isMem s (a + i) = true) :
    byteAt (poke s a bs) (a + i) = bs[i] := by
  have hmem : isMem (poke s a bs) (a + i) = true := hm
  have hput : kget (fun _ => 0#8) (poke s a bs).mem (a + i) = bs[i] := by
    refine (kget_memPut _ _ _ _).trans ?_
    rw [if_pos (by omega), Nat.add_sub_cancel_left, List.getElem?_eq_getElem hi, Option.getD_some]
  rw [byteAt, if_pos hmem, hput]

theorem peek_poke_same (s : State) {a n : Nat} {bs : List Byte} (hn : n ≤ bs.length)
    (hm : ∀ i < n, isMem s (a + i) = true) : peek (poke s a bs) a n = bs.take n := by
  refine List.ext_getElem (by simp [peek, hn]) fun i hi _ => ?_
  have hi' : i < n := by simpa [peek] using hi
  simp only [peek, List.getElem_map, List.getElem_range, List.getElem_take]
  exact byteAt_poke_on s (hi'.trans_le hn) (hm i hi')

theorem leBytes_length (n v : Nat) : (leBytes n v).length = n := by
  induction n generalizing v with
  | zero => rfl
  | succ n ih => rw [leBytes, List.length_cons, ih]

theorem leNat_leBytes (n v : Nat) : leNat (leBytes n v) = v % 256 ^ n := by
  induction n generalizing v with
  | zero => simp [leBytes, leNat, Nat.mod_one]
  | succ n ih =>
    rw [leBytes, leNat, ih, BitVec.toNat_ofNat, pow_succ' 256 n, Nat.mod_mul]

theorem leNat_lt (bs : List Byte) : leNat bs < 256 ^ bs.length := by
  induction bs with
  | nil => decide
  | cons b bs ih =>
    have hb := b.isLt
    rw [leNat, List.length_cons, pow_succ]
    omega

theorem peekN_lt (s : State) (a n : Nat) : peekN s a n < 256 ^ n := by
  have h := leNat_lt (peek s a n)
  rwa [show (peek s a n).length = n by simp [peek]] at h

/-- A part of a read is a read of that part. -/
theorem leAt_peek (s : State) (a : Nat) {n o k : Nat} (h : o + k ≤ n) : leAt (peek s a n) o k = peekN s (a + o) k := by
  refine congrArg leNat (List.ext_getElem (by simp [peek]; omega) fun i _ _ => ?_)
  simp [peek, Nat.add_assoc]

theorem peekN_congr {s t : State} {a n : Nat} (h : ∀ i < n, byteAt t (a + i) = byteAt s (a + i)) :
    peekN t a n = peekN s a n :=
  congrArg leNat (List.map_congr_left fun i hi => h i (List.mem_range.1 hi))

/-! ## Writes of a record (R261) -/

/-- From `s` to `t` no byte of local memory changes but those of record j at the offsets listed. -/
structure RecBut (s t : State) (j : Nat) (offs : List Nat) : Prop where
  map : SameMap s t
  byte : ∀ a, (∀ i ∈ offs, a ≠ objRec s j + i) → byteAt t a = byteAt s a

theorem recBut_of_mem {s t : State} (hmap : SameMap s t) (hm : t.mem = s.mem) (j : Nat) (offs : List Nat) : RecBut s t j offs :=
  ⟨hmap, fun _ _ => hmap.byteAt (by rw [hm])⟩

theorem RecBut.trans {s t u : State} {j : Nat} {offs : List Nat} (h : RecBut s t j offs) (h' : RecBut t u j offs) :
    RecBut s u j offs :=
  ⟨h.map.trans h'.map, fun a ha => (h'.byte a (by rw [h.map.objRec]; exact ha)).trans (h.byte a ha)⟩

theorem RecBut.mono {s t : State} {j : Nat} {offs l : List Nat} (h : RecBut s t j offs) (hl : offs ⊆ l) : RecBut s t j l :=
  ⟨h.map, fun a ha => h.byte a fun i hi => ha i (hl hi)⟩

theorem RecBut.peekN {s t : State} {j : Nat} {offs : List Nat} (h : RecBut s t j offs) {o n : Nat}
    (ho : ∀ i ∈ offs, i < o ∨ o + n ≤ i) : peekN t (objRec t j + o) n = Machine.peekN s (objRec s j + o) n := by
  rw [h.map.objRec]
  refine peekN_congr fun k hk => h.byte _ fun i hi => ?_
  have := ho i hi
  omega

/-- Bytes outside record j stand. -/
theorem RecBut.outside {s t : State} {j : Nat} {offs : List Nat} (h : RecBut s t j offs) (ho : ∀ i ∈ offs, i < 64) {a : Nat}
    (ha : a < objRec s j ∨ objRec s j + 64 ≤ a) : byteAt t a = byteAt s a :=
  h.byte a fun i hi => by
    have := ho i hi
    omega

/-- A field written changes its own bytes, and reads as what was written, cut to its width. -/
theorem setObj_recBut (s : State) (j off n v : Nat) : RecBut s (setObj s j off n v) j ((List.range n).map (off + ·)) := by
  refine ⟨sameMap_of_regs rfl, fun a ha => byteAt_poke_off s ?_⟩
  rw [leBytes_length]
  by_contra hin
  exact ha (a - objRec s j) (List.mem_map.2 ⟨a - (objRec s j + off), List.mem_range.2 (by omega), by omega⟩) (by omega)

theorem peekN_setObj {s : State} {j : Nat} (h : rangeOk s (objRec s j) 64 = true) {off n : Nat} (v : Nat) (hn : off + n ≤ 64) :
    peekN (setObj s j off n v) (objRec s j + off) n = v % 256 ^ n := by
  have hbytes : peek (setObj s j off n v) (objRec s j + off) n = (leBytes n v).take n :=
    peek_poke_same s (leBytes_length n v).ge fun i hi => isMem_of_rangeOk h (by omega) (by omega)
  rw [peekN, hbytes, List.take_of_length_le (leBytes_length n v).le, leNat_leBytes]

/-! ## The fields of a record -/

/-- The byte of a record that holds MSTATE, PINNED and STREAM. -/
def flagsAt (s : State) (j : Nat) : Nat := peekN s (objRec s j + 18) 1

theorem flagsAt_lt (s : State) (j : Nat) : flagsAt s j < 256 := peekN_lt s _ 1

theorem objAt_mstate (s : State) (j : Nat) : (objAt s j).mstate = flagsAt s j / 64 :=
  congrArg (· / 64) (leAt_peek s _ (by decide))

theorem objAt_pinned (s : State) (j : Nat) : (objAt s j).pinned = bitN (flagsAt s j) 5 :=
  congrArg (bitN · 5) (leAt_peek s _ (by decide))

theorem objAt_stream (s : State) (j : Nat) : (objAt s j).stream = bitN (flagsAt s j) 4 :=
  congrArg (bitN · 4) (leAt_peek s _ (by decide))

theorem objAt_age (s : State) (j : Nat) : (objAt s j).age = peekN s (objRec s j + 20) 4 := leAt_peek s _ (by decide)

theorem RecBut.flags {s t : State} {j : Nat} {offs : List Nat} (h : RecBut s t j offs) (ho : 18 ∉ offs) :
    flagsAt t j = flagsAt s j := h.peekN fun i hi => by
  have : i ≠ 18 := fun hi' => ho (hi' ▸ hi)
  omega

/-- MSTATE, PINNED and STREAM of a record. -/
def marks (s : State) (j : Nat) : Nat × Bool × Bool := ((objAt s j).mstate, (objAt s j).pinned, (objAt s j).stream)

theorem marks_eq (s : State) (j : Nat) : marks s j = (flagsAt s j / 64, bitN (flagsAt s j) 5, bitN (flagsAt s j) 4) := by
  rw [marks, objAt_mstate, objAt_pinned, objAt_stream]

theorem RecBut.marks {s t : State} {j : Nat} {offs : List Nat} (h : RecBut s t j offs) (ho : 18 ∉ offs) :
    marks t j = Machine.marks s j := by rw [marks_eq, marks_eq, h.flags ho]

theorem bitN_bitsN (v i : Nat) : bitN v i = decide (bitsN v i i = 1) := by
  rw [bitN, bitsN, Nat.add_sub_cancel_left, pow_one]

theorem bitN_putBits_same (v i x : Nat) : bitN (putBits v i i x) i = decide (x % 2 = 1) := by
  rw [bitN_bitsN, bitsN_putBits, Nat.add_sub_cancel_left, pow_one]

theorem bitN_putBits_ne (v : Nat) {hi lo i : Nat} (x : Nat) (hl : lo ≤ hi) (h : i < lo ∨ hi < i) :
    bitN (putBits v hi lo x) i = bitN v i := by
  rw [bitN_bitsN, bitN_bitsN]
  obtain h | h := h
  · rw [bitsN_putBits_below _ _ _ _ _ _ h le_rfl]
  · rw [bitsN_putBits_above _ _ _ _ _ _ h hl]

/-- The two top bits of a byte. -/
theorem div_64_bitsN {v : Nat} (h : v < 256) : v / 64 = bitsN v 7 6 := (Nat.mod_eq_of_lt (by omega : v / 64 < 4)).symm

section
variable {s : State} {j : Nat} (h : rangeOk s (objRec s j) 64 = true)
include h

theorem flagsAt_setObj {v : Nat} (hv : v < 256) : flagsAt (setObj s j 18 1 v) j = v := by
  have hrec : objRec (setObj s j 18 1 v) j = objRec s j := rfl
  rw [flagsAt, hrec, peekN_setObj h v (by decide)]
  exact Nat.mod_eq_of_lt hv

theorem marks_setMstate (v : Nat) : marks (setMstate s j v) j = (v % 4, (objAt s j).pinned, (objAt s j).stream) := by
  have hlt : putBits (flagsAt s j) 7 6 v < 256 := putBits_lt _ 7 6 v 8 (flagsAt_lt s j) (by decide) (by decide)
  have hflags : flagsAt (setMstate s j v) j = putBits (flagsAt s j) 7 6 v := flagsAt_setObj h hlt
  rw [marks_eq, hflags, div_64_bitsN hlt, bitsN_putBits, bitN_putBits_ne _ _ (by decide) (by decide),
    bitN_putBits_ne _ _ (by decide) (by decide), objAt_pinned, objAt_stream]
  rfl

theorem marks_setPinned (v : Nat) : marks (setPinned s j v) j = ((objAt s j).mstate, decide (v % 2 = 1), (objAt s j).stream) := by
  have hlt : putBits (flagsAt s j) 5 5 v < 256 := putBits_lt _ 5 5 v 8 (flagsAt_lt s j) (by decide) (by decide)
  have hflags : flagsAt (setPinned s j v) j = putBits (flagsAt s j) 5 5 v := flagsAt_setObj h hlt
  rw [marks_eq, hflags, bitN_putBits_same, bitN_putBits_ne _ _ (by decide) (by decide), objAt_stream, div_64_bitsN hlt,
    bitsN_putBits_above _ _ _ _ _ _ (by decide) (by decide), ← div_64_bitsN (flagsAt_lt s j), objAt_mstate]

theorem marks_setStream (v : Nat) : marks (setStream s j v) j = ((objAt s j).mstate, (objAt s j).pinned, decide (v % 2 = 1)) := by
  have hlt : putBits (flagsAt s j) 4 4 v < 256 := putBits_lt _ 4 4 v 8 (flagsAt_lt s j) (by decide) (by decide)
  have hflags : flagsAt (setStream s j v) j = putBits (flagsAt s j) 4 4 v := flagsAt_setObj h hlt
  rw [marks_eq, hflags, bitN_putBits_same, bitN_putBits_ne _ _ (by decide) (by decide), objAt_pinned, div_64_bitsN hlt,
    bitsN_putBits_above _ _ _ _ _ _ (by decide) (by decide), ← div_64_bitsN (flagsAt_lt s j), objAt_mstate]

end

theorem setMstate_recBut (s : State) (j v : Nat) : RecBut s (setMstate s j v) j [18] := setObj_recBut s j 18 1 _
theorem setPinned_recBut (s : State) (j v : Nat) : RecBut s (setPinned s j v) j [18] := setObj_recBut s j 18 1 _
theorem setStream_recBut (s : State) (j v : Nat) : RecBut s (setStream s j v) j [18] := setObj_recBut s j 18 1 _

end Sys2Proof.Machine
end

section
/-! PROOF. The end of an operation on an object (R261, R265, R281, R291, R293, R611): what its record then holds, and what of
the state stands. -/

namespace Sys2Proof.Machine

/-! ## What an end is counted in (R291, R293) -/

/-- The counters and events of ends of operations. -/
def endRegs : List Nat := [Reg.LFT_PROMOTES, Reg.LFT_CANCELS, Reg.LFT_REFUSALS, Reg.LFT_PLCINT]

theorem regsBut_setReg (s : State) {a : Nat} (v : Word) {l : List Nat} (h : a ∈ l) : RegsBut s (setReg s a v) l :=
  fun _ hb => reg_setReg_ne s v fun hab => hb (hab ▸ h)

theorem RegsBut.trans_same {s t u : State} {l : List Nat} (h : RegsBut s t l) (h' : RegsBut t u l) : RegsBut s u l :=
  fun a ha => (h' a ha).trans (h a ha)

theorem countObj_frame (s : State) (op st : Nat) :
    countObj s op st = { s with regs := (countObj s op st).regs } ∧ RegsBut s (countObj s op st) endRegs := by
  have hboth (c m : Nat) (hc : c ∈ endRegs) : RegsBut s (raise (bump s c 1) Reg.LFT_PLCINT m) endRegs :=
    (regsBut_setReg s _ hc).trans_same (regsBut_setReg _ _ (by decide))
  unfold countObj
  split
  · split
    · exact ⟨rfl, regsBut_setReg s _ (by decide)⟩
    · exact ⟨rfl, fun _ _ => rfl⟩
  · split
    · exact ⟨rfl, hboth _ _ (by decide)⟩
    · split
      · exact ⟨rfl, fun _ _ => rfl⟩
      · exact ⟨rfl, hboth _ _ (by decide)⟩

/-- An operation that is refused is shown (R293). -/
theorem countObj_refuse (s : State) (op : Nat) {st : Nat} (h : 5 ≤ st) :
    fld (countObj s op st) Reg.LFT_PLCINT Fld.LFT_PLCINT_REFUSE = 1 := by
  have hraise : countObj s op st = raise (bump s Reg.LFT_REFUSALS 1) Reg.LFT_PLCINT Fld.LFT_PLCINT_REFUSE.bit := by
    unfold countObj osDone osCancelled osSetfull
    rw [if_neg (by omega), if_neg (by omega), if_neg (by simp; omega)]
  rw [hraise]
  exact fld_raise _ _ Fld.LFT_PLCINT_REFUSE.lo (by decide)

/-! ## The steps of an end -/

/-- LASTST and OPS of a record (R261). -/
def lastEnd (s : State) (j status : Nat) : State :=
  setObj (setObj s j 19 1 status) j 28 4 ((peekN s (objRec s j + 28) 4 + 1) % 2 ^ 32)

/-- LASTST, OPS and AGE of a record that exists (R261). -/
def recordEnd (s : State) (j : Nat) (o : ObjOp) (status : Nat) : State :=
  if isReg s j then
    if status = osDone && (o.op = 0 || o.op = 2 || o.op = 3) then
      setObj (lastEnd s j status) j 20 4 (pindex (lastEnd s j status) % 2 ^ 32)
    else lastEnd s j status
  else s

/-- The cart that brought the operation completes (R283). -/
def cartEnd (s : State) (o : ObjOp) : State :=
  match o.cart with
  | some id => { s with carts := adel s.carts id, frm := { s.frm with cartsDone := s.frm.cartsDone ++ [id] } }
  | none => s

/-- The host command that asked for the operation completes (R611). -/
def handleEnd (s : State) (j : Nat) (o : ObjOp) (status : Nat) : State :=
  match o.handle with
  | some h => complete s h { status := 0, detail := status, aux := j }
  | none => s

/-- An end that has been counted. -/
def opClosed (s : State) (j : Nat) (o : ObjOp) (status : Nat) : State :=
  handleEnd (cartEnd (sendField (recordEnd s j o status) o.rsig) o) j o status

/-- A STREAM that is done sets STREAM; every other end is counted and closed. -/
theorem endOp_eq (s : State) (j : Nat) (o : ObjOp) (status : Nat) : endOp s j o status =
    opClosed (if isReg (countObj s o.op status) j && o.op = 6 && status = osDone then streamOn (countObj s o.op status) j
      else countObj s o.op status) j o status := rfl

theorem endOp_plain (s : State) (j : Nat) {o : ObjOp} {status : Nat} (h : o.op ≠ 6 ∨ status ≠ osDone) :
    endOp s j o status = opClosed (countObj s o.op status) j o status := by
  rw [endOp_eq, if_neg]
  simp only [Bool.and_eq_true, decide_eq_true_eq]
  tauto

/-- A STREAM that is done counts nowhere (R291). -/
theorem endOp_stream {s : State} {j : Nat} {o : ObjOp} (hr : isReg s j = true) (h : o.op = 6) :
    endOp s j o osDone = opClosed (streamOn s j) j o osDone := by
  have hcount : countObj s o.op osDone = s := by simp [countObj, h]
  rw [endOp_eq, hcount, if_pos (by simp [hr, h])]

/-! ## Records -/

/-- The offsets of LASTST, AGE and OPS. -/
def endOffs : List Nat := [19, 20, 21, 22, 23, 28, 29, 30, 31]

theorem recordEnd_form (s : State) (j : Nat) (o : ObjOp) (status : Nat) :
    recordEnd s j o status = { s with mem := (recordEnd s j o status).mem } := by
  unfold recordEnd
  split
  · split <;> rfl
  · rfl

theorem lastEnd_recBut (s : State) (j status : Nat) : RecBut s (lastEnd s j status) j [19, 28, 29, 30, 31] :=
  ((setObj_recBut s j 19 1 status).mono (by decide)).trans ((setObj_recBut _ j 28 4 _).mono (by decide))

theorem setAge_recBut (s : State) (j v : Nat) : RecBut s (setObj s j 20 4 v) j [20, 21, 22, 23] := setObj_recBut s j 20 4 v

theorem recordEnd_recBut (s : State) (j : Nat) (o : ObjOp) (status : Nat) :
    RecBut s (recordEnd s j o status) j endOffs := by
  have hlast : RecBut s (lastEnd s j status) j endOffs := (lastEnd_recBut s j status).mono (by decide)
  unfold recordEnd
  split
  · split
    · exact hlast.trans ((setAge_recBut _ j _).mono (by decide))
    · exact hlast
  · exact recBut_of_mem (.refl s) rfl j _

section
variable {s : State} {j : Nat} (h : rangeOk s (objRec s j) 64 = true)
include h

theorem lastEnd_fields {status : Nat} (hst : status < 256) : peekN (lastEnd s j status) (objRec s j + 19) 1 = status
    ∧ peekN (lastEnd s j status) (objRec s j + 28) 4 = (peekN s (objRec s j + 28) 4 + 1) % 2 ^ 32 := by
  have hlast : peekN (setObj s j 19 1 status) (objRec s j + 19) 1 = status :=
    (peekN_setObj h status (by decide)).trans (Nat.mod_eq_of_lt hst)
  have hcount := setObj_recBut (setObj s j 19 1 status) j 28 4 ((peekN s (objRec s j + 28) 4 + 1) % 2 ^ 32)
  exact ⟨(hcount.peekN (by decide)).trans hlast,
    (peekN_setObj (s := setObj s j 19 1 status) h _ (by decide)).trans (Nat.mod_mod _ _)⟩

variable (hreg : isReg s j = true) (o : ObjOp)
include hreg

/-- LASTST and OPS of a record that exists (R261, R265). -/
theorem recordEnd_fields {status : Nat} (hst : status < 256) :
    peekN (recordEnd s j o status) (objRec (recordEnd s j o status) j + 19) 1 = status
      ∧ peekN (recordEnd s j o status) (objRec (recordEnd s j o status) j + 28) 4
          = (peekN s (objRec s j + 28) 4 + 1) % 2 ^ 32 := by
  obtain ⟨hlast, hops⟩ := lastEnd_fields h hst
  rw [(recordEnd_recBut s j o status).map.objRec j, recordEnd, if_pos hreg]
  split
  · have hage := setAge_recBut (lastEnd s j status) j (pindex (lastEnd s j status) % 2 ^ 32)
    exact ⟨(hage.peekN (by decide)).trans hlast, (hage.peekN (by decide)).trans hops⟩
  · exact ⟨hlast, hops⟩

/-- AGE of an object that is registered, promoted or pinned (R261). -/
theorem recordEnd_age (hop : o.op = 0 ∨ o.op = 2 ∨ o.op = 3) :
    (objAt (recordEnd s j o osDone) j).age = pindex s % 2 ^ 32 := by
  have hindex : pindex (lastEnd s j osDone) = pindex s := reg64_congr rfl _
  have hage : recordEnd s j o osDone = setObj (lastEnd s j osDone) j 20 4 (pindex s % 2 ^ 32) := by
    rw [recordEnd, if_pos hreg, if_pos (by simpa [or_assoc] using hop), hindex]
  have hok : rangeOk (lastEnd s j osDone) (objRec (lastEnd s j osDone) j) 64 = true :=
    ((lastEnd_recBut s j osDone).map.recordOk j).trans h
  rw [objAt_age, hage, (setAge_recBut _ j _).map.objRec j, peekN_setObj hok _ (by decide)]
  exact Nat.mod_mod _ _

end

/-! ## Carts and host commands -/

theorem handleEnd_completes (s : State) (j : Nat) (o : ObjOp) (status : Nat) : Completes s (handleEnd s j o status) := by
  unfold handleEnd
  split
  · exact complete_completes s _ _
  · exact .refl s

theorem handleEnd_jobFrame (s : State) (j : Nat) (o : ObjOp) (status : Nat) : JobFrame s (handleEnd s j o status) := by
  unfold handleEnd
  split
  · exact complete_jobFrame s _ _
  · exact .refl s

theorem findCmd_complete (s : State) (h : Nat) (e : Compl) : findCmd (complete s h e) h = none := by
  unfold complete
  split
  · assumption
  · split
    · exact findCmd_dropCmd s h
    · exact findCmd_dropCmd _ h

theorem handleEnd_over (s : State) (j : Nat) {o : ObjOp} (status : Nat) {h : Nat} (ho : o.handle = some h) :
    findCmd (handleEnd s j o status) h = none := by
  unfold handleEnd
  rw [ho]
  exact findCmd_complete s h _

theorem cartEnd_form (s : State) (o : ObjOp) :
    cartEnd s o = { s with carts := (cartEnd s o).carts, frm := (cartEnd s o).frm } := by
  unfold cartEnd
  split <;> rfl

/-! ## The end as a whole -/

/-- From `s` to `t` an operation on object j has ended with a status. -/
structure OpClosed (s t : State) (j : Nat) (o : ObjOp) (status : Nat) : Prop where
  loft : t.loft = s.loft
  ecc : t.ecc = s.ecc
  net : t.net = (sendField s o.rsig).net
  cmd : ∀ h, o.handle = some h → findCmd t h = none
  regs : ∀ a, a ∉ endRegs → a / 2 ^ 24 ∉ [0, 1, 7, 8, 12] → reg t a = reg s a
  record : RecBut s t j endOffs
  free : isReg s j = false → t.mem = s.mem
  fields : isReg s j = true → rangeOk s (objRec s j) 64 = true → status < 256 →
    peekN t (objRec t j + 19) 1 = status ∧ peekN t (objRec t j + 28) 4 = (peekN s (objRec s j + 28) 4 + 1) % 2 ^ 32
  age : isReg s j = true → rangeOk s (objRec s j) 64 = true → status = osDone → o.op = 0 ∨ o.op = 2 ∨ o.op = 3 →
    (objAt t j).age = pindex s % 2 ^ 32

theorem opClosed_blocks (s : State) (j : Nat) (o : ObjOp) (status : Nat) :
    BlocksBut s (opClosed s j o status) [0, 1, 7, 8, 12] := by
  refine BlocksBut.trans (.of_regs ?_ _) (handleEnd_jobFrame _ j o status).regs
  rw [cartEnd_form, sendField_form, recordEnd_form]

/-- What follows the record leaves memory and its map. -/
theorem opClosed_closed (s : State) (j : Nat) (o : ObjOp) (status : Nat) : OpClosed s (opClosed s j o status) j o status := by
  have hrec := recordEnd_form s j o status
  have hmem := recordEnd_recBut s j o status
  have hfields := recordEnd_fields (s := s) (j := j)
  have hage := recordEnd_age (s := s) (j := j)
  have hfree : isReg s j = false → (recordEnd s j o status).mem = s.mem := fun h => by simp [recordEnd, h]
  unfold opClosed
  generalize hr : recordEnd s j o status = r at hrec hmem hfree
  have hsend := sendField_form r o.rsig
  have hcart := cartEnd_form (sendField r o.rsig) o
  generalize hc : cartEnd (sendField r o.rsig) o = c at hcart
  have hdone := (handleEnd_completes c j o status).form
  have hblocks := (handleEnd_jobFrame c j o status).regs
  have hover (h : Nat) := handleEnd_over c j (o := o) status (h := h)
  generalize handleEnd c j o status = t at hdone hblocks hover
  have hcregs : c.regs = s.regs := by rw [hcart, hsend, hrec]
  have htmem : t.mem = r.mem := by rw [hdone, hcart, hsend]
  have hst : BlocksBut s t [0, 1, 7, 8, 12] := (BlocksBut.of_regs hcregs _).trans hblocks
  have hrregs : r.regs = s.regs := by rw [hrec]
  have hrt : SameMap r t := ((BlocksBut.of_regs (hcregs.trans hrregs.symm) _).trans hblocks).sameMap (by decide)
  have htail : RecBut r t j [] := recBut_of_mem hrt htmem j []
  refine ⟨by rw [hdone, hcart, hsend, hrec], by rw [hdone, hcart, hsend, hrec], ?_, hover, fun a _ ha => hst a ha,
    hmem.trans (htail.mono (by simp)), fun h => htmem.trans (hfree h), fun hreg hok hlt => ?_, fun hreg hok hs hop => ?_⟩
  · have hrnet : r.net = s.net := by rw [hrec]
    rw [hdone, hcart]
    show (sendField r o.rsig).net = _
    rw [sendField_net, sendField_net, hrnet]
  · obtain ⟨hlast, hops⟩ := hfields hok hreg o hlt
    rw [hr] at hlast hops
    exact ⟨(htail.peekN (by simp)).trans hlast, (htail.peekN (by simp)).trans hops⟩
  · have hrage := hage hok hreg o hop
    subst hs
    rw [hr, objAt_age] at hrage
    rw [objAt_age]
    exact (htail.peekN (by simp)).trans hrage

/-- To be counted changes nothing that an end tells of. -/
theorem OpClosed.of_counted {s c t : State} {j : Nat} {o : ObjOp} {status : Nat} (h : OpClosed c t j o status)
    (hform : c = { s with regs := c.regs }) (hregs : RegsBut s c endRegs) : OpClosed s t j o status := by
  have hmap : SameMap s c := hregs.sameMap (by decide)
  have hrec : RecBut s c j endOffs := recBut_of_mem hmap (by rw [hform]) j _
  have hnone : RecBut s c j [] := recBut_of_mem hmap (by rw [hform]) j _
  have hisreg : isReg c j = isReg s j := by rw [hform]; rfl
  have hindex : pindex c = pindex s := reg64_of_reg (hregs _ (by decide)) (hregs _ (by decide))
  refine ⟨h.loft.trans (by rw [hform]), h.ecc.trans (by rw [hform]), h.net.trans ?_, h.cmd,
    fun a ha hb => (h.regs a ha hb).trans (hregs a ha), hrec.trans h.record, fun hreg => ?_, fun hreg hok hlt => ?_,
    fun hreg hok => ?_⟩
  · rw [sendField_net, sendField_net, hform]
  · exact (h.free (hisreg.trans hreg)).trans (by rw [hform])
  · obtain ⟨hlast, hops⟩ := h.fields (hisreg.trans hreg) ((hmap.recordOk j).trans hok) hlt
    exact ⟨hlast, by rw [hops, hnone.peekN (by simp)]⟩
  · rw [← hindex]
    exact h.age (hisreg.trans hreg) ((hmap.recordOk j).trans hok)

/-- An end that is no STREAM's. -/
theorem endOp_closed (s : State) (j : Nat) {o : ObjOp} {status : Nat} (h : o.op ≠ 6 ∨ status ≠ osDone) :
    OpClosed s (endOp s j o status) j o status := by
  rw [endOp_plain s j h]
  exact (opClosed_closed _ j o status).of_counted (countObj_frame s o.op status).1 (countObj_frame s o.op status).2

/-- A refusal is shown (R293). -/
theorem endOp_refuse (s : State) (j : Nat) (o : ObjOp) {status : Nat} (h : 5 ≤ status) :
    fld (endOp s j o status) Reg.LFT_PLCINT Fld.LFT_PLCINT_REFUSE = 1 := by
  rw [endOp_plain s j (.inr (show status ≠ 0 by omega)), (opClosed_blocks _ j o status).fld (by decide)]
  exact countObj_refuse s o.op h

end Sys2Proof.Machine
end

section
/-! PROOF. REGISTER and RELEASE (R264, R265), and how an object command takes effect at its record. -/

namespace Sys2Proof.Machine

/-! ## Object commands (R264, R275) -/

theorem objSt_setObjSt (s : State) (j : Nat) (x : ObjSt) : objSt (setObjSt s j x) j = x := by
  have hfind : kfind (setObjSt s j x).loft.objSt j = some x := (kfind_kins _ _ _ _).trans (if_pos rfl)
  rw [objSt, hfind, Option.getD_some]

/-- The operation at the front of the queue of object j has been taken from it. -/
def opTaken (s : State) (j : Nat) (q : List ObjOp) : State := setObjSt s j { queue := q, current := none }

theorem opTaken_objSt (s : State) (j : Nat) (q : List ObjOp) : objSt (opTaken s j q) j = { queue := q, current := none } :=
  objSt_setObjSt s j _

theorem opTaken_recBut (s : State) (j : Nat) (q : List ObjOp) (offs : List Nat) : RecBut s (opTaken s j q) j offs :=
  recBut_of_mem (s := s) (t := opTaken s j q) (sameMap_of_regs rfl) rfl j offs

section
variable {s : State} {j op : Nat} {o : ObjOp} {q : List ObjOp} {registered : Bool}
  (hw : Statements.Waits s j op o q registered)
include hw

theorem takeOp_waits : takeOp s j op = some (o, q) := by
  obtain ⟨-, hst, hop, -, hstill⟩ := hw
  simp [takeOp, hst, hop, hstill]

/-- An operation whose record can be read takes effect. -/
theorem objCmd_acts (hok : Statements.RecordOk s j) (hreg : registered = true ∨ op = 0) (act : State → Nat → ObjOp → State) :
    objCmd op act s j = act (opTaken s j q) j o := by
  obtain ⟨-, hclean⟩ := hok
  have hclean' : Statements.Clean (opTaken s j q) := hclean
  have hread := checkRead_clean hclean' (objRec (opTaken s j q) j) 64
  have htaken : setObjSt s j { objSt s j with queue := q } = opTaken s j q := by
    obtain ⟨-, hst, -⟩ := hw
    rw [hst]
    rfl
  have hknown : (decide (op ≠ 0) && !isReg (opTaken s j q) j) = false := by
    obtain ⟨-, -, -, hisreg, -⟩ := hw
    have hisreg' : isReg (opTaken s j q) j = registered := hisreg
    obtain rfl | rfl := hreg <;> simp [hisreg']
  unfold objCmd
  rw [takeOp_waits hw]
  dsimp only
  rw [htaken, hknown, hread]
  rfl

/-- What the command of an operation leaves. -/
theorem runs_objCmd {c : Instr} {act : State → Nat → ObjOp → State} {P : State → Prop}
    (hc : exec c s = finish s (objCmd op act s j)) (hok : Statements.RecordOk s j) (hreg : registered = true ∨ op = 0)
    (hp : P (ended s (act (opTaken s j q) j o))) : Runs c s P := by
  obtain ⟨halive, -⟩ := id hw
  rw [← objCmd_acts hw hok hreg act] at hp
  exact runs_finish hc halive hp

end

section
variable {w t : State} {j : Nat} {o : ObjOp} {status : Nat} (h : OpClosed w t j o status)
include h

theorem OpClosed.objs : t.loft.objs = w.loft.objs := by rw [h.loft]
theorem OpClosed.lines : t.loft.lines = w.loft.lines := by rw [h.loft]
theorem OpClosed.objSt_eq : objSt t j = objSt w j := by rw [objSt, h.loft, objSt]

/-- The record of an operation that has ended keeps its marks. -/
theorem OpClosed.marks : marks t j = Machine.marks w j := h.record.marks (by decide)

end

/-- An end leaves of the object what the statements tell of it. -/
theorem OpClosed.opEnded {s w t : State} {j : Nat} {o : ObjOp} {status : Nat} (h : OpClosed w t j o status)
    (hrec : RecBut s w j [18]) (hnet : w.net = s.net) (hreg : isReg w j = true)
    (hok : rangeOk s (objRec s j) 64 = true) (hlt : status < 256) (hcur : (objSt w j).current = none) :
    Statements.OpEnded s (ended s t) j o status := by
  have hobj : objRec t j = objRec s j := by rw [h.record.map.objRec, hrec.map.objRec]
  obtain ⟨hlast, hops⟩ := h.fields hreg ((hrec.map.recordOk j).trans hok) hlt
  rw [hobj] at hlast hops
  rw [hrec.peekN (by decide)] at hops
  refine ⟨hlast, hops, h.net.trans ?_, ?_, h.cmd⟩
  · rw [sendField_net, sendField_net, hnet]
  · show (objSt t j).current = none
    rw [h.objSt_eq, hcur]

/-- An operation that ends as soon as it is taken. -/
theorem opTaken_ended {s : State} {j op : Nat} {o : ObjOp} {q : List ObjOp} (hok : Statements.RecordOk s j)
    (hw : Statements.Waits s j op o q true) {status : Nat} (hlt : status < 256) (h : o.op ≠ 6 ∨ status ≠ osDone) :
    Statements.OpEnded s (ended s (endOp (opTaken s j q) j o status)) j o status := by
  obtain ⟨hrange, -⟩ := hok
  obtain ⟨-, -, -, hreg, -⟩ := hw
  have hrec := opTaken_recBut s j q [18]
  have hcur : (objSt (opTaken s j q) j).current = none := by rw [opTaken_objSt]
  exact (endOp_closed (opTaken s j q) j h).opEnded (s := s) hrec rfl hreg hrange hlt hcur

/-! ## REGISTER (R264, R265) -/

/-- The record of object j is written, and the registered objects are those listed. -/
def recorded (s : State) (j : Nat) (bs : List Byte) (objs : List Nat) : State :=
  setFld (poke (mapLoft s fun lo => { lo with objs := objs }) (objRec s j) bs) Reg.LFT_OBJCOUNT Fld.LFT_OBJCOUNT_COUNT objs.length

theorem recorded_sameMap (s : State) (j : Nat) (bs : List Byte) (objs : List Nat) : SameMap s (recorded s j bs objs) :=
  (regsBut_setReg (a := Reg.LFT_OBJCOUNT) (l := [Reg.LFT_OBJCOUNT]) _ _ (by decide)).sameMap (by decide)

theorem recorded_outside (s : State) (j : Nat) {bs : List Byte} (objs : List Nat) (hbs : bs.length = 64) {a : Nat}
    (ha : a < objRec s j ∨ objRec s j + 64 ≤ a) : byteAt (recorded s j bs objs) a = byteAt s a := by
  have hmem : (recorded s j bs objs).mem = memPut s.mem (objRec s j) bs := rfl
  refine (recorded_sameMap s j bs objs).byteAt ?_
  rw [hmem, kget_memPut, if_neg (by omega)]

/-- The record takes the offer, and the number is registered. -/
def registered (s : State) (j : Nat) (o : ObjOp) : State := recorded s j o.offer (s.loft.objs ++ [j])

theorem opRegister_taken {s : State} {j : Nat} {o : ObjOp} (hfree : isReg s j = false) (hgood : offerBad o.offer = false)
    (hapart : offerOverlap s (objOf o.offer) = false) : opRegister s j o = endOp (registered s j o) j o osDone := by
  simp only [opRegister, hfree, hgood, hapart, Bool.false_eq_true, if_false]
  rfl

theorem opRegister_inUse {s : State} {j : Nat} (o : ObjOp) (hreg : isReg s j = true) :
    opRegister s j o = endOp s j o osInuse := by simp [opRegister, hreg]

/-- A bad or an overlapping record. -/
theorem opRegister_refused {s : State} {j : Nat} {o : ObjOp} (hfree : isReg s j = false)
    (hbad : (offerBad o.offer || offerOverlap s (objOf o.offer)) = true) :
    ∃ status, 5 ≤ status ∧ opRegister s j o = endOp s j o status := by
  simp only [opRegister, hfree, Bool.false_eq_true, if_false]
  split
  · exact ⟨osBadrec, by decide, rfl⟩
  · next h =>
    have hover : offerOverlap s (objOf o.offer) = true := by simpa [h] using hbad
    exact ⟨osOverlap, by decide, if_pos hover⟩

theorem registered_sameMap (s : State) (j : Nat) (o : ObjOp) : SameMap s (registered s j o) := recorded_sameMap s j _ _

/-- The record holds the offer. -/
theorem registered_peek {s : State} {j : Nat} {o : ObjOp} (h : rangeOk s (objRec s j) 64 = true) (hlen : o.offer.length = 64)
    {n : Nat} (hn : n ≤ 64) : peek (registered s j o) (objRec s j) n = o.offer.take n := by
  have hmap : SameMap (poke s (objRec s j) o.offer) (registered s j o) := registered_sameMap s j o
  have hsame : peek (registered s j o) (objRec s j) n = peek (poke s (objRec s j) o.offer) (objRec s j) n :=
    List.map_congr_left fun i _ => hmap.byteAt rfl
  exact hsame.trans (peek_poke_same s (hlen ▸ hn) fun i hi => isMem_of_rangeOk h (by omega) (by omega))

/-- A good offer is of a HOME object (R261). -/
theorem registered_mstate {s : State} {j : Nat} {o : ObjOp} (h : rangeOk s (objRec s j) 64 = true)
    (hlen : o.offer.length = 64) (hgood : offerBad o.offer = false) : (objAt (registered s j o) j).mstate = msHome := by
  have hrest : leAt o.offer 18 46 = 0 := by
    simp only [offerBad, Bool.or_eq_false_iff] at hgood
    simpa using hgood.2
  have hpeek : peek (registered s j o) (objRec (registered s j o) j) 64 = o.offer := by
    rw [(registered_sameMap s j o).objRec, registered_peek h hlen le_rfl, List.take_of_length_le hlen.le]
  have hflags : leAt o.offer 18 1 = 0 := by
    obtain ⟨b, t, hbt⟩ : ∃ b t, o.offer.drop 18 = b :: t :=
      List.exists_cons_of_length_pos (by rw [List.length_drop, hlen]; decide)
    rw [leAt, hbt] at hrest ⊢
    simp only [List.take_succ_cons, List.take_zero, leNat] at hrest ⊢
    omega
  have hst : (objAt (registered s j o) j).mstate = leAt o.offer 18 1 / 64 := by
    rw [objAt, hpeek]
    rfl
  rw [hst, hflags]
  rfl

theorem registered_count (s : State) (j : Nat) (o : ObjOp) :
    fld (registered s j o) Reg.LFT_OBJCOUNT Fld.LFT_OBJCOUNT_COUNT
      = (s.loft.objs.length + 1) % 2 ^ (Fld.LFT_OBJCOUNT_COUNT.hi + 1 - Fld.LFT_OBJCOUNT_COUNT.lo) :=
  (fld_setFld _ _ _ _ (by decide) (by decide)).trans (by rw [List.length_append, List.length_singleton])

/-! ## RELEASE (R264) -/

/-- The number is free and its record is cleared. -/
def released (s : State) (j : Nat) : State := recorded s j (List.replicate 64 0#8) (s.loft.objs.erase j)

theorem opRelease_home {s : State} {j : Nat} (o : ObjOp) (hhome : (objAt s j).mstate = msHome)
    (hfree : (objAt s j).pinned = false) : opRelease s j o = released (endOp s j o osDone) j := by
  have hstay : ¬ ((objAt s j).mstate ≠ msHome ∨ (objAt s j).pinned = true) := by simp [hhome, hfree]
  unfold opRelease
  dsimp only
  rw [if_neg (by simpa using hstay)]
  generalize endOp s j o osDone = e
  unfold released recorded
  generalize List.replicate 64 (0#8) = bs
  rfl

theorem opRelease_refused {s : State} {j : Nat} (o : ObjOp) (h : (objAt s j).mstate ≠ msHome ∨ (objAt s j).pinned = true) :
    opRelease s j o = endOp s j o osState := by
  simp only [opRelease]
  rw [if_pos (by simpa using h)]

theorem released_outside (s : State) (j : Nat) {a : Nat} (ha : a < objRec s j ∨ objRec s j + 64 ≤ a) :
    byteAt (released s j) a = byteAt s a := recorded_outside s j _ List.length_replicate ha

/-- Nothing else of the Loft and of the host's commands changes. -/
theorem released_rest (s : State) (j : Nat) :
    (released s j).loft = { s.loft with objs := s.loft.objs.erase j } ∧ (released s j).host = s.host := by
  unfold released recorded
  generalize List.replicate 64 (0#8) = bs
  exact ⟨rfl, rfl⟩

end Sys2Proof.Machine

namespace Sys2Proof.Settled

open Sys2Proof.Machine

section
variable {s : State} {j : Nat} {o : ObjOp} {q : List ObjOp} (hok : Statements.RecordOk s j)
include hok

theorem register_taken (hw : Statements.Waits s j 0 o q false) (hlen : o.offer.length = 64) (hgood : offerBad o.offer = false)
    (hapart : offerOverlap s (objOf o.offer) = false) : Runs (.register j) s fun t =>
      t.loft.objs = s.loft.objs ++ [j] ∧ peek t (objRec s j) 17 = o.offer.take 17 ∧ (objAt t j).mstate = msHome
        ∧ (objAt t j).age = pindex s % 2 ^ 32 ∧ peekN t (objRec s j + 19) 1 = osDone
        ∧ fld t Reg.LFT_OBJCOUNT Fld.LFT_OBJCOUNT_COUNT
            = (s.loft.objs.length + 1) % 2 ^ (Fld.LFT_OBJCOUNT_COUNT.hi + 1 - Fld.LFT_OBJCOUNT_COUNT.lo)
        ∧ (objSt t j).queue = q ∧ t.loft.lines = s.loft.lines ∧ ∀ h, o.handle = some h → findCmd t h = none := by
  obtain ⟨hrange, -⟩ := id hok
  obtain ⟨-, -, hop, hfree, -⟩ := id hw
  refine runs_objCmd hw rfl hok (.inr rfl) ?_
  rw [opRegister_taken (s := opTaken s j q) hfree hgood hapart]
  have hmap := registered_sameMap (opTaken s j q) j o
  have hreg : isReg (registered (opTaken s j q) j o) j = true :=
    List.contains_iff_mem.2 (List.mem_append_right _ (List.mem_singleton_self j))
  have hrange' := (hmap.recordOk j).trans hrange
  have hobj : objRec (registered (opTaken s j q) j o) j = objRec s j := hmap.objRec j
  have hindex : pindex (registered (opTaken s j q) j o) = pindex s :=
    reg64_of_reg (reg_setFld_ne _ _ _ (by decide)) (reg_setFld_ne _ _ _ (by decide))
  have hst : objSt (registered (opTaken s j q) j o) j = objSt (opTaken s j q) j := rfl
  have hobjs : (registered (opTaken s j q) j o).loft.objs = s.loft.objs ++ [j] := rfl
  have hlines : (registered (opTaken s j q) j o).loft.lines = s.loft.lines := rfl
  have hpeek := registered_peek (s := opTaken s j q) hrange hlen (by decide : 17 ≤ 64)
  have hhome := registered_mstate (s := opTaken s j q) hrange hlen hgood
  have hcount := registered_count (opTaken s j q) j o
  have hclosed := endOp_closed (registered (opTaken s j q) j o) j (o := o) (status := osDone) (.inl (by omega))
  generalize registered (opTaken s j q) j o = r at *
  generalize endOp r j o osDone = t at hclosed ⊢
  obtain ⟨hlast, -⟩ := hclosed.fields hreg hrange' (by decide)
  refine ⟨hclosed.objs.trans hobjs, ?_, ?_, ?_, ?_, ?_, ?_, hclosed.lines.trans hlines, hclosed.cmd⟩
  · refine Eq.trans (List.map_congr_left fun i hi => hclosed.record.byte _ ?_) hpeek
    have hlo : ∀ k ∈ endOffs, 17 < k := by decide
    intro k hk
    have := hlo k hk
    have := List.mem_range.1 hi
    rw [hobj]
    exact fun heq => absurd (Nat.add_left_cancel heq) (by omega)
  · exact (congrArg Prod.fst hclosed.marks).trans hhome
  · rw [← hindex]
    exact hclosed.age hreg hrange' rfl (.inl hop)
  · rw [hclosed.record.map.objRec, hobj] at hlast
    exact hlast
  · rw [ended_fld, fld_of_reg (hclosed.regs _ (by decide) (by decide))]
    exact hcount
  · show (objSt t j).queue = q
    rw [hclosed.objSt_eq, hst, opTaken_objSt]

theorem register_inUse (hw : Statements.Waits s j 0 o q true) : Runs (.register j) s fun t =>
    Statements.OpEnded s t j o osInuse ∧ t.loft.objs = s.loft.objs ∧ t.loft.lines = s.loft.lines
      ∧ fld t Reg.LFT_PLCINT Fld.LFT_PLCINT_REFUSE = 1
      ∧ ∀ a, (a < objRec s j ∨ objRec s j + 64 ≤ a) → byteAt t a = byteAt s a := by
  obtain ⟨-, -, -, hreg, -⟩ := id hw
  refine runs_objCmd hw rfl hok (.inr rfl) ?_
  rw [opRegister_inUse (s := opTaken s j q) o hreg]
  have hclosed := endOp_closed (opTaken s j q) j (o := o) (status := osInuse) (.inr (by decide))
  exact ⟨opTaken_ended hok hw (by decide) (.inr (by decide)), hclosed.objs, hclosed.lines, endOp_refuse _ j o (by decide),
    fun a ha => hclosed.record.outside (by decide) ha⟩

theorem register_refused (hw : Statements.Waits s j 0 o q false)
    (hbad : (offerBad o.offer || offerOverlap s (objOf o.offer)) = true) : Runs (.register j) s fun t =>
      t.loft.objs = s.loft.objs ∧ t.mem = s.mem ∧ (objSt t j).queue = q ∧ fld t Reg.LFT_PLCINT Fld.LFT_PLCINT_REFUSE = 1
        ∧ ∀ h, o.handle = some h → findCmd t h = none := by
  obtain ⟨-, -, -, hfree, -⟩ := id hw
  refine runs_objCmd hw rfl hok (.inr rfl) ?_
  obtain ⟨status, hst, heq⟩ := opRegister_refused (s := opTaken s j q) hfree hbad
  rw [heq]
  have hclosed := endOp_closed (opTaken s j q) j (o := o) (status := status) (.inr (show status ≠ 0 by omega))
  have hobj := hclosed.objSt_eq
  rw [opTaken_objSt] at hobj
  exact ⟨hclosed.objs, hclosed.free hfree, congrArg ObjSt.queue hobj, endOp_refuse _ j o hst, hclosed.cmd⟩

theorem release_home (hw : Statements.Waits s j 1 o q true) (hhome : (objAt s j).mstate = msHome)
    (hfree : (objAt s j).pinned = false) : Runs (.release j) s fun t => t.loft.objs = s.loft.objs.erase j
      ∧ t.loft.lines = s.loft.lines ∧ (∀ h, o.handle = some h → findCmd t h = none)
      ∧ ∀ a, (a < objRec s j ∨ objRec s j + 64 ≤ a) → byteAt t a = byteAt s a := by
  obtain ⟨-, -, hop, -, -⟩ := id hw
  refine runs_objCmd hw rfl hok (.inl rfl) ?_
  rw [opRelease_home (s := opTaken s j q) o hhome hfree]
  have hclosed := endOp_closed (opTaken s j q) j (o := o) (status := osDone) (.inl (by omega))
  have hobj : objRec (endOp (opTaken s j q) j o osDone) j = objRec s j := hclosed.record.map.objRec j
  have hobjs : (endOp (opTaken s j q) j o osDone).loft.objs = s.loft.objs := hclosed.objs
  have hlines : (endOp (opTaken s j q) j o osDone).loft.lines = s.loft.lines := hclosed.lines
  have hbyte (a : Nat) (ha : a < objRec s j ∨ objRec s j + 64 ≤ a) : byteAt (endOp (opTaken s j q) j o osDone) a = byteAt s a :=
    hclosed.record.outside (by decide) ha
  have hcmd := hclosed.cmd
  generalize endOp (opTaken s j q) j o osDone = e at *
  have hbyte' (a : Nat) (ha : a < objRec s j ∨ objRec s j + 64 ≤ a) : byteAt (released e j) a = byteAt s a :=
    (released_outside e j (by rwa [hobj])).trans (hbyte a ha)
  obtain ⟨hloft, hhost⟩ := released_rest e j
  generalize released e j = t at *
  have hfind (h : Nat) : findCmd t h = findCmd e h := by rw [findCmd, hhost, findCmd]
  refine ⟨?_, ?_, fun h hh => (hfind h).trans (hcmd h hh), hbyte'⟩
  · show t.loft.objs = _
    rw [hloft, hobjs]
  · show t.loft.lines = _
    rw [hloft, hlines]

theorem release_refused (hw : Statements.Waits s j 1 o q true)
    (h : (objAt s j).mstate ≠ msHome ∨ (objAt s j).pinned = true) : Runs (.release j) s fun t =>
      Statements.OpEnded s t j o osState ∧ t.loft.objs = s.loft.objs ∧ t.loft.lines = s.loft.lines := by
  refine runs_objCmd hw rfl hok (.inl rfl) ?_
  rw [opRelease_refused (s := opTaken s j q) o h]
  have hclosed := endOp_closed (opTaken s j q) j (o := o) (status := osState) (.inr (by decide))
  exact ⟨opTaken_ended hok hw (by decide) (.inr (by decide)), hclosed.objs, hclosed.lines⟩

end

/-- Settles O35, case by case: what an operation's end leaves of its record is said once (`endOp_closed`). -/
theorem registerRelease : Obligations.RegisterRelease := fun _ _ _ _ hok =>
  ⟨register_taken hok, register_inUse hok, register_refused hok, release_home hok, release_refused hok⟩

end Sys2Proof.Settled
end

section
/-! PROOF. A line leaves the Loft (R303, R495), no codeword of the Loft being listed: its write-back and what of the state
stands. -/

namespace Sys2Proof.Machine

/-! ## Maps -/

/-- A line written back and then freed is gone as if it had been freed at once. -/
theorem kdel_kins {α : Type} (k : Nat) (v : α) (m : KMap α) : kdel k (kins k v m) = kdel k m := by
  induction m with
  | nil => simp [kins, kdel]
  | cons x t ih =>
    obtain ⟨a, y⟩ := x
    rw [kins]
    split
    · simp [kdel]
    · split
      · next h => subst h; simp [kdel]
      · next h => simp [kdel, Ne.symm h, ih]

theorem mem_kdel_iff {α : Type} {k : Nat} {m : KMap α} {x : Nat × α} : x ∈ kdel k m ↔ x ∈ m ∧ x.1 ≠ k := by
  induction m with
  | nil => simp [kdel]
  | cons y t ih =>
    obtain ⟨a, v⟩ := y
    rw [kdel]
    split
    · next h =>
      subst h
      rw [ih, List.mem_cons]
      constructor
      · exact fun ⟨hm, hne⟩ => ⟨.inr hm, hne⟩
      · rintro ⟨rfl | hm, hne⟩
        · exact absurd rfl hne
        · exact ⟨hm, hne⟩
    · next h =>
      rw [List.mem_cons, List.mem_cons, ih]
      constructor
      · rintro (rfl | ⟨hm, hne⟩)
        · exact ⟨.inl rfl, h⟩
        · exact ⟨.inr hm, hne⟩
      · rintro ⟨rfl | hm, hne⟩
        · exact .inl rfl
        · exact .inr ⟨hm, hne⟩

/-! ## Write-backs -/

/-- No codeword and no layer check of the Loft is listed. -/
def LoftSound (s : State) : Prop := (∀ x ∈ s.ecc.cw, x.1 % 4 ≠ 1) ∧ s.ecc.lpar = []

theorem loftSound_of_clean {s : State} (h : Statements.Clean s) : LoftSound s := by
  obtain ⟨hcw, hlpar, -⟩ := h
  exact ⟨by simp [hcw], hlpar⟩

theorem LoftSound.of_ecc {s t : State} (h : LoftSound s) (he : t.ecc = s.ecc) : LoftSound t := by
  rw [LoftSound, he]
  exact h

theorem LoftSound.cwIn {s : State} (h : LoftSound s) (a n : Nat) : cwIn s 1 a n = [] := by
  obtain ⟨hcw, -⟩ := h
  refine List.filter_eq_nil_iff.2 fun x hx => ?_
  simp [hcw x hx]

theorem LoftSound.lparIn {s : State} (h : LoftSound s) (a n : Nat) : lparIn s a n = none := by
  obtain ⟨-, hlpar⟩ := h
  simp [Machine.lparIn, hlpar]

/-- From `s` to `t` lines have been written back or have left the Loft, and no codeword of the Loft has come to be listed. -/
structure LinesMove (s t : State) : Prop where
  form : t = { s with regs := t.regs, ecc := t.ecc, loft := { s.loft with lines := t.loft.lines, stale := t.loft.stale } }
  regs : RegsBut s t [Reg.INT_FLIPGRN]
  sound : LoftSound t

theorem LinesMove.refl {s : State} (h : LoftSound s) : LinesMove s s := ⟨rfl, fun _ _ => rfl, h⟩

theorem LinesMove.trans {s t u : State} (h : LinesMove s t) (h' : LinesMove t u) : LinesMove s u := by
  refine ⟨?_, h.regs.trans_same h'.regs, h'.sound⟩
  rw [h'.form, h.form]

theorem linesMove_foldl {α : Type} {f : State → α → State} (hf : ∀ s x, LoftSound s → LinesMove s (f s x)) (xs : List α)
    {s : State} (h : LoftSound s) : LinesMove s (xs.foldl f s) := by
  induction xs generalizing s with
  | nil => exact .refl h
  | cons x xs ih => exact (hf s x h).trans (ih (hf s x h).sound)

theorem flipCw_linesMove {s : State} (a : Nat) (ps : List Nat) (h : LoftSound s) : LinesMove s (flipCw s 2 a ps) := by
  refine ⟨rfl, fun _ _ => rfl, fun x hx => ?_, h.2⟩
  obtain hk | hm := mem_kset (d := fun _ => {}) (m := s.ecc.cw) hx
  · rw [hk, cwKey]
    omega
  · exact h.1 x hm

theorem flipDone_linesMove {s : State} (f : Fld) (v : Nat) (h : LoftSound s) : LinesMove s (setFld s Reg.INT_FLIPGRN f v) :=
  ⟨rfl, regsBut_setReg s _ (by decide), h⟩

theorem flipDone_lines (s : State) (f : Fld) (v : Nat) : (setFld s Reg.INT_FLIPGRN f v).loft.lines = s.loft.lines := rfl

theorem flipGranary_linesMove {s : State} (a : Nat) (h : LoftSound s) :
    LinesMove s (flipGranary s a) ∧ (flipGranary s a).loft.lines = s.loft.lines := by
  unfold flipGranary
  dsimp only
  generalize flipPos 36 _ = ps
  split
  · have hflip := flipCw_linesMove a ps h
    exact ⟨hflip.trans (flipDone_linesMove _ 0 hflip.sound), (flipDone_lines _ _ 0).trans rfl⟩
  · exact ⟨.refl h, rfl⟩

/-- The Granary's codewords of sector j of a line have been made new. -/
def sectorMade (l : Nat) (s : State) (j : Nat) : State :=
  clearCws (mapLoft s fun lo => { lo with
    stale := lo.stale.filter fun (q, _) => !(4096 * l + 512 * j ≤ q && q < 4096 * l + 512 * j + 512) }) 2
    (4096 * l + 512 * j) 512

theorem sectorMade_linesMove {s : State} (l j : Nat) (h : LoftSound s) : LinesMove s (sectorMade l s j) :=
  ⟨rfl, fun _ _ => rfl, fun x hx => h.1 x (List.mem_filter.1 hx).1, h.2⟩

theorem sectorMade_lines (s : State) (l j : Nat) : (sectorMade l s j).loft.lines = s.loft.lines := rfl

/-- A sector whose codewords all decode (R495): the Granary's become new, and an armed flip of it comes due. -/
theorem writeBackSector_eq {s : State} (h : LoftSound s) (l j : Nat) :
    writeBackSector l s j = flipGranary (sectorMade l s j) (4096 * l + 512 * j) := by
  have hflips : applyFlips (sectorMade l s j) 2 (4096 * l + 512 * j) 512 = flipGranary (sectorMade l s j) (4096 * l + 512 * j) := by
    rw [applyFlips_eq, if_neg (by decide), if_neg (by decide), if_neg (by decide)]
  rw [← hflips]
  simp only [writeBackSector, h.cwIn, h.lparIn, readEvery, Option.isSome_none, Bool.false_eq_true, if_false, Bool.false_or,
    List.any_nil, List.filter_false, List.isEmpty_nil, if_true]
  rfl

theorem writeBackSector_linesMove {s : State} (l j : Nat) (h : LoftSound s) :
    LinesMove s (writeBackSector l s j) ∧ (writeBackSector l s j).loft.lines = s.loft.lines := by
  have hmade := sectorMade_linesMove l j h
  obtain ⟨hmove, hlines⟩ := flipGranary_linesMove (4096 * l + 512 * j) hmade.sound
  rw [writeBackSector_eq h]
  exact ⟨hmade.trans hmove, hlines.trans (sectorMade_lines s l j)⟩

theorem writeBackSectors_linesMove {s : State} (l : Nat) (js : List Nat) (h : LoftSound s) :
    LinesMove s (js.foldl (writeBackSector l) s) ∧ (js.foldl (writeBackSector l) s).loft.lines = s.loft.lines := by
  induction js generalizing s with
  | nil => exact ⟨.refl h, rfl⟩
  | cons j js ih =>
    obtain ⟨hmove, hlines⟩ := writeBackSector_linesMove l j h
    obtain ⟨hmoves, hrest⟩ := ih hmove.sound
    exact ⟨hmove.trans hmoves, hrest.trans hlines⟩

/-! ## Lines freed -/

/-- The lines that are held change as the line is freed; the rest of them stay. -/
theorem writeBack_linesMove {s : State} (l : Nat) (h : LoftSound s) :
    LinesMove s (writeBack s l) ∧ kdel l (writeBack s l).loft.lines = kdel l s.loft.lines := by
  unfold writeBack
  cases lineOf s l with
  | none => exact ⟨.refl h, rfl⟩
  | some x =>
    obtain ⟨hmove, hlines⟩ := writeBackSectors_linesMove l (bitList 8 0 x.dirty) h
    dsimp only
    refine ⟨.trans (t := (bitList 8 0 x.dirty).foldl (writeBackSector l) s) hmove ⟨rfl, fun _ _ => rfl, hmove.sound⟩, ?_⟩
    exact (kdel_kins _ _ _).trans (congrArg (kdel l) hlines)

theorem freeLine_linesMove {s : State} (l : Nat) (h : LoftSound s) : LinesMove s (freeLine s l) := by
  obtain ⟨hmove, -⟩ := writeBack_linesMove l h
  obtain ⟨hcw, hlpar⟩ := id hmove.sound
  refine .trans (t := writeBack s l) hmove ⟨rfl, fun _ _ => rfl, fun x hx => hcw x (List.mem_filter.1 hx).1, ?_⟩
  exact (congrArg (List.filter _) hlpar).trans rfl

theorem freeLine_lines {s : State} (l : Nat) (h : LoftSound s) : (freeLine s l).loft.lines = kdel l s.loft.lines :=
  (writeBack_linesMove l h).2

theorem dropStreamed_linesMove (s : State) (l : Nat) (h : LoftSound s) :
    LinesMove s (dropStreamed s l) ∧ (dropStreamed s l).loft.lines ⊆ s.loft.lines := by
  unfold dropStreamed
  split
  · dsimp only
    split
    · exact ⟨freeLine_linesMove l h, fun x hx => (mem_kdel_iff.1 (freeLine_lines l h ▸ hx)).1⟩
    · exact ⟨.refl h, fun _ hx => hx⟩
  · exact ⟨.refl h, fun _ hx => hx⟩

/-- Lines that leave the Loft one after another. -/
theorem dropLines_linesMove (ls : List Nat) {s : State} (h : LoftSound s) :
    LinesMove s (ls.foldl dropStreamed s) ∧ (ls.foldl dropStreamed s).loft.lines ⊆ s.loft.lines := by
  induction ls generalizing s with
  | nil => exact ⟨.refl h, fun _ hx => hx⟩
  | cons l ls ih =>
    obtain ⟨hmove, hsub⟩ := dropStreamed_linesMove s l h
    obtain ⟨hmoves, hrest⟩ := ih hmove.sound
    exact ⟨hmove.trans hmoves, fun _ hx => hsub (hrest hx)⟩

theorem mem_freeLines {ls : List (Nat × LineSt)} {s : State} (h : LoftSound s) {y : Nat × LineSt} :
    y ∈ (ls.foldl (fun s x => freeLine s x.1) s).loft.lines ↔ y ∈ s.loft.lines ∧ ∀ z ∈ ls, z.1 ≠ y.1 := by
  induction ls generalizing s with
  | nil => simp
  | cons x ls ih =>
    rw [List.foldl_cons, ih (freeLine_linesMove x.1 h).sound, freeLine_lines x.1 h, mem_kdel_iff, List.forall_mem_cons, and_assoc]
    exact Iff.rfl.and ((ne_comm (a := y.1) (b := x.1)).and Iff.rfl)

/-! ## STREAM is set (R264, R273) -/

theorem LinesMove.recBut {s t : State} (h : LinesMove s t) (j : Nat) (offs : List Nat) : RecBut s t j offs :=
  recBut_of_mem (h.regs.sameMap (by decide)) (by rw [h.form]) j offs

/-- The lines of an object that is streamed leave, and STREAM is set. -/
theorem streamOn_linesMove {s : State} (j : Nat) (h : LoftSound s) :
    LinesMove (setStream s j 1) (streamOn s j) ∧ (streamOn s j).loft.lines ⊆ s.loft.lines :=
  dropLines_linesMove _ (s := setStream s j 1) (h.of_ecc rfl)

end Sys2Proof.Machine
end

section
/-! PROOF. DEMOTE, STREAM and EVICT (R264, R274, R275), and operations that end as they are taken. -/

namespace Sys2Proof.Machine

theorem opTaken_objAt (s : State) (j : Nat) (q : List ObjOp) : objAt (opTaken s j q) j = objAt s j := rfl

theorem objAt_mstate_marks (s : State) (j : Nat) : (objAt s j).mstate = (marks s j).1 := rfl
theorem objAt_pinned_marks (s : State) (j : Nat) : (objAt s j).pinned = (marks s j).2.1 := rfl
theorem objAt_stream_marks (s : State) (j : Nat) : (objAt s j).stream = (marks s j).2.2 := rfl

/-! ## Operations that end as they are taken (R265) -/

/-- The operation has ended, and the object and the lines it holds are as they were. -/
def EndedAtOnce (s t : State) (j : Nat) (o : ObjOp) (status : Nat) : Prop :=
  Statements.OpEnded s t j o status ∧ marks t j = marks s j ∧ t.loft.lines = s.loft.lines

theorem endsAtOnce {s : State} {j op : Nat} {o : ObjOp} {q : List ObjOp} (hok : Statements.RecordOk s j)
    (hw : Statements.Waits s j op o q true) {status : Nat} (hlt : status < 256) (h : o.op ≠ 6 ∨ status ≠ osDone) :
    EndedAtOnce s (ended s (endOp (opTaken s j q) j o status)) j o status := by
  have hclosed := endOp_closed (opTaken s j q) j h
  have hlines : (endOp (opTaken s j q) j o status).loft.lines = s.loft.lines := hclosed.lines
  have hmarks : marks (endOp (opTaken s j q) j o status) j = marks s j := hclosed.marks
  exact ⟨opTaken_ended hok hw hlt h, hmarks, hlines⟩

/-- The command of an operation that ends at once. -/
theorem runs_endsAtOnce {s : State} {j op : Nat} {o : ObjOp} {q : List ObjOp} {c : Instr} {act : State → Nat → ObjOp → State}
    {status : Nat} {P : State → Prop} (hc : exec c s = finish s (objCmd op act s j)) (hok : Statements.RecordOk s j)
    (hw : Statements.Waits s j op o q true) (hact : act (opTaken s j q) j o = endOp (opTaken s j q) j o status)
    (hlt : status < 256) (h : o.op ≠ 6 ∨ status ≠ osDone) (hp : ∀ t, EndedAtOnce s t j o status → P t) : Runs c s P :=
  runs_objCmd hw hc hok (.inl rfl) (hp _ (hact ▸ endsAtOnce hok hw hlt h))

/-! ## A demotion begins (R274) -/

/-- MSTATE is DEMOTING, PINNED is clear, and the operation is in progress. -/
def demoting (s : State) (j : Nat) (o : ObjOp) : State := begin_ (setMstate (setPinned s j 0) j msDemoting) j o

theorem begin_objSt (s : State) (j : Nat) (o : ObjOp) : objSt (begin_ s j o) j = { objSt s j with current := some o } :=
  objSt_setObjSt s j _

theorem demoting_objSt (s : State) (j : Nat) (o : ObjOp) : objSt (demoting s j o) j = { objSt s j with current := some o } :=
  begin_objSt _ j o

theorem begin_recBut (s : State) (j : Nat) (o : ObjOp) (offs : List Nat) : RecBut s (begin_ s j o) j offs :=
  recBut_of_mem (s := s) (t := begin_ s j o) (sameMap_of_regs rfl) rfl j offs

theorem begin_marks (s : State) (j : Nat) (o : ObjOp) : marks (begin_ s j o) j = marks s j := rfl

theorem demoting_recBut (s : State) (j : Nat) (o : ObjOp) : RecBut s (demoting s j o) j [18] :=
  ((setPinned_recBut s j 0).trans (setMstate_recBut _ j msDemoting)).trans (begin_recBut _ j o _)

theorem demoting_marks {s : State} {j : Nat} (h : rangeOk s (objRec s j) 64 = true) (o : ObjOp) :
    marks (demoting s j o) j = (msDemoting, false, (objAt s j).stream) := by
  have hpin := marks_setPinned h 0
  have hst := marks_setMstate (s := setPinned s j 0) (((setPinned_recBut s j 0).map.recordOk j).trans h) msDemoting
  rw [objAt_pinned_marks, objAt_stream_marks, hpin] at hst
  exact (begin_marks _ j o).trans hst

theorem demoting_regs (s : State) (j : Nat) (o : ObjOp) : (demoting s j o).regs = s.regs := rfl
theorem demoting_lines (s : State) (j : Nat) (o : ObjOp) : (demoting s j o).loft.lines = s.loft.lines := rfl

theorem setPinned_mstate {s : State} {j : Nat} (h : rangeOk s (objRec s j) 64 = true) (v : Nat) :
    (objAt (setPinned s j v) j).mstate = (objAt s j).mstate := congrArg Prod.fst (marks_setPinned h v)

section
variable {s : State} {j : Nat} (h : rangeOk s (objRec s j) 64 = true) (o : ObjOp)
include h

theorem startDemotion_resident (hst : (objAt s j).mstate = msResident) : startDemotion s j o = demoting s j o := by
  rw [startDemotion, setPinned_mstate h, hst]
  exact if_neg (by decide)

theorem startDemotion_home (hst : (objAt s j).mstate = msHome) : startDemotion s j o = endOp (setPinned s j 0) j o osDone := by
  rw [startDemotion, setPinned_mstate h, hst]
  exact if_pos rfl

end

/-- The evictions that are counted as one begins (R291). -/
def evictCounted (op : Nat) (s : State) : State := if op = 7 then bump s Reg.LFT_EVICTS 1 else s

theorem evictCounted_form (op : Nat) (s : State) : evictCounted op s = { s with regs := (evictCounted op s).regs } := by
  unfold evictCounted
  split <;> rfl

theorem evictCounted_regs (op : Nat) (s : State) : RegsBut s (evictCounted op s) [Reg.LFT_EVICTS] := by
  unfold evictCounted
  split
  · exact regsBut_setReg s _ (by decide)
  · exact fun _ _ => rfl

theorem evictCounted_count (op : Nat) (s : State) :
    regN (evictCounted op s) Reg.LFT_EVICTS = min (regN s Reg.LFT_EVICTS + if op = 7 then 1 else 0) 0xFFFFFFFF := by
  unfold evictCounted
  split
  · exact regN_bump s _ 1
  · have hlt := (reg s Reg.LFT_EVICTS).isLt
    exact (Nat.min_eq_left (by unfold regN; omega)).symm

end Sys2Proof.Machine

namespace Sys2Proof.Settled

open Sys2Proof.Machine

/-! ## A resident object is demoted (R274, R275) -/

/-- From `s` to `t` a demotion of object j has begun for an operation of code op. -/
def DemotionBegun (s t : State) (j op : Nat) (o : ObjOp) (q : List ObjOp) : Prop :=
  (objAt t j).mstate = msDemoting ∧ (objAt t j).pinned = false
    ∧ (objAt t j).stream = (objAt s j).stream ∧ objSt t j = { queue := q, current := some o }
    ∧ t.loft.lines = s.loft.lines ∧ RegsBut s t [Reg.LFT_EVICTS]
    ∧ regN t Reg.LFT_EVICTS = min (regN s Reg.LFT_EVICTS + if op = 7 then 1 else 0) 0xFFFFFFFF
    ∧ ∀ a, a ≠ objRec s j + 18 → byteAt t a = byteAt s a

theorem demoting_begun {s : State} {j : Nat} (h : rangeOk s (objRec s j) 64 = true) (op : Nat) (o : ObjOp) (q : List ObjOp) :
    DemotionBegun s (demoting (evictCounted op (opTaken s j q)) j o) j op o q := by
  have hform := evictCounted_form op (opTaken s j q)
  have hregs := evictCounted_regs op (opTaken s j q)
  have hcount := evictCounted_count op (opTaken s j q)
  generalize evictCounted op (opTaken s j q) = w at *
  have hmap : SameMap s w := hregs.sameMap (by decide)
  have hrec : RecBut s w j [18] := recBut_of_mem hmap (by rw [hform]; rfl) j _
  have hnone : RecBut s w j [] := recBut_of_mem hmap (by rw [hform]; rfl) j _
  have hall := hrec.trans (demoting_recBut w j o)
  have hmarks := demoting_marks ((hmap.recordOk j).trans h) o
  rw [objAt_stream_marks, hnone.marks (by simp)] at hmarks
  have hst : objSt w j = objSt (opTaken s j q) j := by rw [hform]; rfl
  refine ⟨congrArg (·.1) hmarks, congrArg (·.2.1) hmarks, congrArg (·.2.2) hmarks, ?_, ?_, ?_, ?_, fun a ha => ?_⟩
  · rw [demoting_objSt, hst, opTaken_objSt]
  · rw [demoting_lines, hform]
    rfl
  · exact fun a ha => (reg_congr (demoting_regs w j o) a).trans (hregs a ha)
  · exact (regN_of_reg (reg_congr (demoting_regs w j o) _)).trans hcount
  · exact hall.byte a fun i hi => (List.mem_singleton.1 hi).symm ▸ ha

section
variable {s : State} {j : Nat} {o : ObjOp} {q : List ObjOp} (hok : Statements.RecordOk s j)
include hok

/-- The command of an operation that begins a demotion. -/
theorem runs_demotionBegun {c : Instr} {op : Nat} {act : State → Nat → ObjOp → State}
    (hc : exec c s = finish s (objCmd op act s j)) (hw : Statements.Waits s j op o q true)
    (hact : act (opTaken s j q) j o = demoting (evictCounted op (opTaken s j q)) j o) :
    Runs c s fun t => DemotionBegun s t j op o q :=
  runs_objCmd hw hc hok (.inl rfl) (hact ▸ demoting_begun hok.1 op o q)

variable (hst : (objAt s j).mstate = msResident)
include hst

theorem demote_resident (hw : Statements.Waits s j 5 o q true) : Runs (.demote j) s fun t => DemotionBegun s t j 5 o q := by
  refine runs_demotionBegun hok rfl hw ?_
  rw [opDemote, opTaken_objAt, if_neg (by rw [hst]; decide)]
  exact startDemotion_resident (s := opTaken s j q) hok.1 o hst

theorem stream_resident (hw : Statements.Waits s j 6 o q true) (hcls : classFixed (objAt s j) = false) :
    Runs (.stream j) s fun t => DemotionBegun s t j 6 o q := by
  refine runs_demotionBegun hok rfl hw ?_
  rw [opStream, opTaken_objAt, if_neg (by simp [hcls])]
  exact startDemotion_resident (s := opTaken s j q) hok.1 o hst

theorem evict_resident (hw : Statements.Waits s j 7 o q true) (hpin : (objAt s j).pinned = false) :
    Runs (.evict j) s fun t => DemotionBegun s t j 7 o q := by
  refine runs_demotionBegun hok rfl hw ?_
  have hcounted : evictCounted 7 (opTaken s j q) = bump (opTaken s j q) Reg.LFT_EVICTS 1 := rfl
  have hmap : SameMap s (bump (opTaken s j q) Reg.LFT_EVICTS 1) := (evictCounted_regs 7 (opTaken s j q)).sameMap (by decide)
  have hnone : RecBut s (bump (opTaken s j q) Reg.LFT_EVICTS 1) j [] := recBut_of_mem hmap rfl j _
  have hst' : (objAt (bump (opTaken s j q) Reg.LFT_EVICTS 1) j).mstate = msResident := by
    rw [objAt_mstate_marks, hnone.marks (by simp)]
    exact hst
  simp only [opEvict, opTaken_objAt, hpin, hst, Bool.false_eq_true, if_false]
  exact startDemotion_resident ((hmap.recordOk j).trans hok.1) o hst'

end

/-! ## A demotion that ends at once or is refused (R264, R275) -/

section
variable {s : State} {j : Nat} {o : ObjOp} {q : List ObjOp} (hok : Statements.RecordOk s j)
include hok

theorem evict_pinned (hw : Statements.Waits s j 7 o q true) (hpin : (objAt s j).pinned = true) : Runs (.evict j) s fun t =>
    Statements.OpEnded s t j o osPinned ∧ (objAt t j).mstate = (objAt s j).mstate ∧ (objAt t j).pinned = true
      ∧ t.loft.lines = s.loft.lines := by
  refine runs_endsAtOnce (status := osPinned) rfl hok hw ?_ (by decide) (.inr (by decide)) fun t ht => ?_
  · simp only [opEvict, opTaken_objAt, hpin, if_true]
  · obtain ⟨hend, hmarks, hlines⟩ := ht
    exact ⟨hend, congrArg (·.1) hmarks, (congrArg (·.2.1) hmarks).trans hpin, hlines⟩

theorem stream_refused (hw : Statements.Waits s j 6 o q true) (hcls : classFixed (objAt s j) = true) : Runs (.stream j) s fun t =>
    Statements.OpEnded s t j o osState ∧ (objAt t j).stream = (objAt s j).stream ∧ t.loft.lines = s.loft.lines := by
  refine runs_endsAtOnce (status := osState) rfl hok hw ?_ (by decide) (.inr (by decide)) fun t ht => ?_
  · rw [opStream, opTaken_objAt, if_pos hcls]
  · obtain ⟨hend, hmarks, hlines⟩ := ht
    exact ⟨hend, congrArg (·.2.2) hmarks, hlines⟩

/-- An object at home has nothing to move. -/
theorem home_ended {op : Nat} (hw : Statements.Waits s j op o q true) (hop : op ≠ 6) (hst : (objAt s j).mstate = msHome) :
    Statements.OpEnded s (ended s (endOp (setPinned (opTaken s j q) j 0) j o osDone)) j o osDone
      ∧ (objAt (endOp (setPinned (opTaken s j q) j 0) j o osDone) j).mstate = msHome
      ∧ (endOp (setPinned (opTaken s j q) j 0) j o osDone).loft.lines = s.loft.lines := by
  obtain ⟨hrange, -⟩ := hok
  obtain ⟨-, -, ho, hreg, -⟩ := hw
  have hclosed := endOp_closed (setPinned (opTaken s j q) j 0) j (o := o) (status := osDone) (.inl (ho ▸ hop))
  have hrec : RecBut s (setPinned (opTaken s j q) j 0) j [18] := (opTaken_recBut s j q _).trans (setPinned_recBut _ j 0)
  have hmst : (objAt (setPinned (opTaken s j q) j 0) j).mstate = (objAt s j).mstate :=
    setPinned_mstate (s := opTaken s j q) hrange 0
  have hobj : objSt (setPinned (opTaken s j q) j 0) j = objSt (opTaken s j q) j := rfl
  have hlines : (setPinned (opTaken s j q) j 0).loft.lines = s.loft.lines := rfl
  have hnet : (setPinned (opTaken s j q) j 0).net = s.net := rfl
  have hreg' : isReg (setPinned (opTaken s j q) j 0) j = true := hreg
  generalize setPinned (opTaken s j q) j 0 = w at *
  refine ⟨hclosed.opEnded hrec hnet hreg' hrange (by decide) (by rw [hobj, opTaken_objSt]), ?_, hclosed.lines.trans hlines⟩
  exact (congrArg (·.1) hclosed.marks).trans (hmst.trans hst)

theorem demote_home (hw : Statements.Waits s j 5 o q true) (hst : (objAt s j).mstate = msHome) : Runs (.demote j) s fun t =>
    Statements.OpEnded s t j o osDone ∧ (objAt t j).mstate = msHome ∧ t.loft.lines = s.loft.lines := by
  refine runs_objCmd hw rfl hok (.inl rfl) ?_
  have hact : opDemote (opTaken s j q) j o = endOp (setPinned (opTaken s j q) j 0) j o osDone := by
    rw [opDemote, opTaken_objAt, if_neg (by rw [hst]; decide)]
    exact startDemotion_home (s := opTaken s j q) hok.1 o hst
  rw [hact]
  exact home_ended hok hw (by decide) hst

theorem evict_home (hw : Statements.Waits s j 7 o q true) (hst : (objAt s j).mstate = msHome)
    (hpin : (objAt s j).pinned = false) : Runs (.evict j) s fun t =>
      Statements.OpEnded s t j o osDone ∧ (objAt t j).mstate = msHome ∧ t.loft.lines = s.loft.lines := by
  refine runs_objCmd hw rfl hok (.inl rfl) ?_
  have hact : opEvict (opTaken s j q) j o = endOp (setPinned (opTaken s j q) j 0) j o osDone := by
    simp only [opEvict, opTaken_objAt, hpin, hst, Bool.false_eq_true, if_false, if_true]
    exact startDemotion_home (s := opTaken s j q) hok.1 o hst
  rw [hact]
  exact home_ended hok hw (by decide) hst

theorem stream_home (hw : Statements.Waits s j 6 o q true) (hcls : classFixed (objAt s j) = false)
    (hst : (objAt s j).mstate = msHome) : Runs (.stream j) s fun t =>
      Statements.OpEnded s t j o osDone ∧ (objAt t j).mstate = msHome ∧ (objAt t j).stream = true := by
  refine runs_objCmd hw rfl hok (.inl rfl) ?_
  obtain ⟨hrange, hclean⟩ := hok
  obtain ⟨-, -, ho, hreg, -⟩ := hw
  have hact : opStream (opTaken s j q) j o = endOp (setPinned (opTaken s j q) j 0) j o osDone := by
    rw [opStream, opTaken_objAt, if_neg (by simp [hcls])]
    exact startDemotion_home (s := opTaken s j q) hrange o hst
  rw [hact]
  have hrec : RecBut s (setPinned (opTaken s j q) j 0) j [18] := (opTaken_recBut s j q _).trans (setPinned_recBut _ j 0)
  have hmst : (objAt (setPinned (opTaken s j q) j 0) j).mstate = (objAt s j).mstate :=
    setPinned_mstate (s := opTaken s j q) hrange 0
  have hobj : objSt (setPinned (opTaken s j q) j 0) j = objSt (opTaken s j q) j := rfl
  have hnet : (setPinned (opTaken s j q) j 0).net = s.net := rfl
  have hreg' : isReg (setPinned (opTaken s j q) j 0) j = true := hreg
  have hsound : LoftSound (setPinned (opTaken s j q) j 0) := (loftSound_of_clean hclean).of_ecc rfl
  generalize setPinned (opTaken s j q) j 0 = w at *
  rw [endOp_stream hreg' ho]
  obtain ⟨hmove, -⟩ := streamOn_linesMove j hsound
  have hmarks := ((hmove.recBut j []).marks (by simp)).trans (marks_setStream ((hrec.map.recordOk j).trans hrange) 1)
  have hrec' := (hrec.trans (setStream_recBut w j 1)).trans (hmove.recBut j _)
  have hform := hmove.form
  have hclosed := opClosed_closed (streamOn w j) j o osDone
  generalize streamOn w j = v at *
  have hcur : (objSt v j).current = none := by
    have hobj' : objSt v j = objSt w j := by rw [hform]; rfl
    rw [hobj', hobj, opTaken_objSt]
  refine ⟨hclosed.opEnded hrec' (by rw [hform, ← hnet]; rfl) (by rw [hform]; exact hreg') hrange (by decide) hcur, ?_, ?_⟩
  · exact (congrArg (·.1) (hclosed.marks.trans hmarks)).trans (hmst.trans hst)
  · exact congrArg (·.2.2) (hclosed.marks.trans hmarks)

end

theorem demoteStreamEvict : Statements.DemoteStreamEvict := by
  intro s j o q hok
  refine ⟨?_, evict_pinned hok, stream_refused hok, ?_, stream_home hok⟩
  · simp only [List.forall_mem_cons]
    exact ⟨fun hw _ hst _ => demote_resident hok hst hw, fun hw hcls hst _ => stream_resident hok hst hw (hcls trivial),
      fun hw _ hst hpin => evict_resident hok hst hw (hpin trivial), by simp⟩
  · simp only [List.forall_mem_cons]
    exact ⟨fun hw hst _ => demote_home hok hw hst, fun hw hst hpin => evict_home hok hw hst hpin, by simp⟩

end Sys2Proof.Settled
end

section
/-! PROOF. PROMOTE, PIN and UNPIN (R269 to R271, R276). -/

namespace Sys2Proof.Machine

/-! ## Charges and RLINES (R261, R267) -/

theorem chargeRegs_sameMap {s t : State} {o : Nat} (h : RegsBut s t [Reg.LFT_CHARGE o, Reg.LFT_POOLFREE]) : SameMap s t := by
  refine h.sameMap fun a ha => ?_
  have hlow : ∀ a ∈ mapRegs, a < Reg.LFT_CHARGE 0 ∧ a ≠ Reg.LFT_POOLFREE := by decide
  obtain ⟨hlt, hpool⟩ := hlow a ha
  have hle : Reg.LFT_CHARGE 0 ≤ Reg.LFT_CHARGE o := by unfold Reg.LFT_CHARGE; omega
  simp only [List.mem_cons, List.not_mem_nil, or_false, not_or]
  exact ⟨by omega, hpool⟩

theorem addCharge_regs (s : State) (o n : Nat) : RegsBut s (addCharge s o n) [Reg.LFT_CHARGE o, Reg.LFT_POOLFREE] :=
  (regsBut_setReg s _ (by simp)).trans_same (regsBut_setReg _ _ (by simp))

theorem subCharge_regs (s : State) (o n : Nat) : RegsBut s (subCharge s o n) [Reg.LFT_CHARGE o, Reg.LFT_POOLFREE] :=
  (regsBut_setReg s _ (by simp)).trans_same (regsBut_setReg _ _ (by simp))

theorem subCharge_form (s : State) (o n : Nat) : subCharge s o n = { s with regs := (subCharge s o n).regs } := rfl

theorem syncRlines_recBut (s : State) (j : Nat) : RecBut s (syncRlines s j) j [24, 25, 26, 27] := setObj_recBut s j 24 4 _

/-! ## Ways -/

theorem waysOf_congr {s t : State} (hregs : t.regs = s.regs) (hmapping : t.loft.mapping = s.loft.mapping) (k : Nat)
    (pin : Bool) : waysOf t k pin = waysOf s k pin := by
  have hfld (a : Nat) (f : Fld) : fld t a f = fld s a f := fld_of_reg (reg_congr hregs a) f
  have hmapped : sliceMapped t k = sliceMapped s k := by rw [sliceMapped, hfld, sliceMapped]
  have hlost : lostWays t k = lostWays s k := by rw [lostWays, hmapped, hmapping, lostWays]
  have hcache : nCache t = nCache s := hfld _ _
  have hpin : nPin t = nPin s := hfld _ _
  unfold waysOf
  rw [hlost, hcache, hpin]

theorem takenWays_congr {s t : State} (hlines : t.loft.lines = s.loft.lines) (hmisses : t.loft.misses = s.loft.misses) (l : Nat) :
    takenWays t l = takenWays s l := by
  unfold takenWays setLines
  rw [hlines, hmisses]

theorem freeWay_congr {s t : State} (hregs : t.regs = s.regs) (hlines : t.loft.lines = s.loft.lines)
    (hmisses : t.loft.misses = s.loft.misses) (hmapping : t.loft.mapping = s.loft.mapping) (l : Nat) (pin : Bool) :
    freeWay t l pin = freeWay s l pin := by
  unfold freeWay
  rw [takenWays_congr hlines hmisses, waysOf_congr hregs hmapping]

/-- One line's pinnable way. -/
theorem reservePins_single {s : State} {r : ObjRec} {l w : Nat} (hl : objLines r = [l]) (hw : freeWay s l true = some w) :
    reservePins s r = some [(l, w)] := by
  have hfind : ((waysOf s (sliceOf (4096 * l)) true).find? fun w => !(takenWays s l).contains w) = some w := hw
  simp only [reservePins, hl, List.foldl_cons, List.foldl_nil, List.filter_nil, List.map_nil, List.append_nil, hfind,
    List.nil_append]

theorem objLines_length {r : ObjRec} {l : Nat} (h : objLines r = [l]) : r.lines = 1 := by
  have := congrArg List.length h
  simpa [objLines] using this

/-! ## A line is copied in (R271) -/

theorem carryLine_clean {s : State} (h : Statements.Clean s) (l : Nat) : carryLine s l = (s, true) := by
  obtain ⟨hcw, -, -⟩ := h
  simp [carryLine, cwIn, hcw, readCws]

/-- A line has come to be held for an object, and its owner is charged for it. -/
def lineCharged (s : State) (j l w : Nat) : State := addCharge (holdLine s l w (some j) 0) (objAt s j).owner 1

section
variable {s : State} {j l w : Nat} (hclean : Statements.Clean s) (hnone : lineOf s l = none)
include hclean hnone

theorem promoteLine_free (hw : freeWay s l false = some w) :
    promoteLine j (s, osDone) l = (lineCharged s j l w, osDone) := by
  simp only [promoteLine, hnone, cacheWay, hw, carryLine_clean hclean]
  rfl

theorem pinLine_free : pinLine j (s, true) (l, w) = (lineCharged s j l w, true) := by
  simp only [pinLine, hnone, carryLine_clean hclean]
  rfl

end

theorem lineCharged_recBut (s : State) (j l w : Nat) (offs : List Nat) : RecBut s (lineCharged s j l w) j offs :=
  recBut_of_mem (s := s) (t := lineCharged s j l w)
    (chargeRegs_sameMap (addCharge_regs (holdLine s l w (some j) 0) (objAt s j).owner 1)) rfl j offs

theorem lineCharged_line (s : State) (j l w m : Nat) : lineOf (lineCharged s j l w) m = if l = m then
    some { way := w, obj := some j, dirty := 0, use := s.loft.clock, fill := pindex s } else lineOf s m :=
  kfind_kins _ _ _ _

/-! ## PROMOTE (R271) -/

theorem makeQuota_fits {s : State} {owner n : Nat} (h : quotaOk s owner n = true) (j k : Nat) : makeQuota j owner n k s = s := by
  cases k with
  | zero => rfl
  | succ k => exact if_pos h

/-- A promotion begins. -/
def promotionBegun (s : State) (j : Nat) (o : ObjOp) : State := begin_ (setMstate s j msPromoting) j o

section
variable {s : State} {j : Nat} {o : ObjOp} (hcls : classFixed (objAt s j) = false) (hgran : s.loft.granaryOnly = false)
include hcls hgran

theorem opPromote_resident (hst : (objAt s j).mstate = msResident) : opPromote s j o = endOp s j o osDone := by
  simp only [opPromote, hcls, hgran, hst, Bool.or_self, Bool.false_eq_true, if_false, if_true]

theorem opPromote_copied (hst : (objAt s j).mstate = msHome) (hquota : quotaOk s (objAt s j).owner (objAt s j).lines = true)
    {w : State} (hw : (objLines (objAt s j)).foldl (promoteLine j) (promotionBegun s j o, osDone) = (w, osDone)) :
    opPromote s j o = syncRlines w j := by
  have hw' : (objLines (objAt s j)).foldl (promoteLine j) (begin_ (setMstate s j msPromoting) j o, osDone) = (w, osDone) := hw
  have hne : msHome ≠ msResident := by decide
  simp only [opPromote, hcls, hgran, hst, makeQuota_fits hquota, hquota, hw', hne, Bool.or_self, Bool.false_eq_true, if_false,
    if_true, ne_eq, not_true, Bool.not_true]

/-! ## PIN (R269) -/

theorem opPin_pinned (hst : (objAt s j).mstate = msResident) (hpin : (objAt s j).pinned = true) :
    opPin s j o = endOp s j o osDone := by
  simp only [opPin, hcls, hgran, hst, hpin, Bool.or_self, Bool.false_eq_true, if_false, decide_true, Bool.and_self, if_true]

/-- A pin begins. -/
def pinBegun (s : State) (j : Nat) (o : ObjOp) : State := setPinned (setMstate (begin_ s j o) j msPromoting) j 1

theorem opPin_reserved (hst : (objAt s j).mstate = msHome)
    (hquota : quotaOk s (objAt s j).owner ((objAt s j).lines - (heldFor s j).length) = true) {ws : List (Nat × Nat)}
    (hws : reservePins s (objAt s j) = some ws) {x : State} (hx : ws.foldl (pinLine j) (pinBegun s j o, true) = (x, true)) :
    opPin s j o = syncRlines x j := by
  have hx' : ws.foldl (pinLine j) (setPinned (setMstate (begin_ s j o) j msPromoting) j 1, true) = (x, true) := hx
  have hne : ¬ msHome = msResident := by decide
  simp only [opPin, hcls, hgran, hst, hquota, hws, hx', hne, Bool.or_self, Bool.false_eq_true, if_false, if_true, ne_eq,
    not_true, decide_false, Bool.false_and, Bool.not_true]

end

/-! ## The operation is in progress -/

section
variable {s : State} {j : Nat} (h : rangeOk s (objRec s j) 64 = true) (o : ObjOp)
include h

theorem promotionBegun_marks :
    marks (promotionBegun s j o) j = (msPromoting, (objAt s j).pinned, (objAt s j).stream) :=
  (begin_marks _ j o).trans (marks_setMstate h msPromoting)

theorem pinBegun_marks : marks (pinBegun s j o) j = (msPromoting, true, (objAt s j).stream) := by
  have hrange := (begin_recBut s j o []).map.recordOk j
  have hbegun := begin_marks s j o
  unfold pinBegun
  generalize begin_ s j o = b at *
  have hst := marks_setMstate (hrange.trans h) msPromoting
  have hpin := marks_setPinned (((setMstate_recBut b j msPromoting).map.recordOk j).trans (hrange.trans h)) 1
  rw [objAt_mstate_marks, objAt_stream_marks, hst, objAt_stream_marks, hbegun] at hpin
  exact hpin

end

theorem promotionBegun_objSt (s : State) (j : Nat) (o : ObjOp) :
    objSt (promotionBegun s j o) j = { objSt s j with current := some o } := begin_objSt _ j o

theorem pinBegun_objSt (s : State) (j : Nat) (o : ObjOp) : objSt (pinBegun s j o) j = { objSt s j with current := some o } :=
  begin_objSt s j o

/-- From `s` to `t` an operation on object j has begun, and nothing but what stands of operations and records has changed. -/
structure OpBegun (s t : State) (j : Nat) (o : ObjOp) : Prop where
  form : t = { s with mem := t.mem, loft := { s.loft with objSt := t.loft.objSt } }
  current : (objSt t j).current = some o

theorem promotionBegun_opBegun (s : State) (j : Nat) (o : ObjOp) : OpBegun s (promotionBegun s j o) j o :=
  ⟨rfl, by rw [promotionBegun_objSt]⟩

theorem pinBegun_opBegun (s : State) (j : Nat) (o : ObjOp) : OpBegun s (pinBegun s j o) j o :=
  ⟨rfl, by rw [pinBegun_objSt]⟩

theorem OpBegun.clean {s t : State} {j : Nat} {o : ObjOp} (h : OpBegun s t j o) (hclean : Statements.Clean s) :
    Statements.Clean t := by
  rw [h.form]
  exact hclean

theorem OpBegun.lineOf {s t : State} {j : Nat} {o : ObjOp} (h : OpBegun s t j o) (l : Nat) : lineOf t l = Machine.lineOf s l := by
  rw [h.form]
  rfl

theorem OpBegun.freeWay {s t : State} {j : Nat} {o : ObjOp} (h : OpBegun s t j o) (l : Nat) (pin : Bool) :
    freeWay t l pin = Machine.freeWay s l pin :=
  freeWay_congr (by rw [h.form]) (by rw [h.form]) (by rw [h.form]) (by rw [h.form]) l pin

/-- The one line of an object has come to be held, and RLINES shows it. -/
theorem OpBegun.held {s b : State} {j : Nat} {o : ObjOp} (h : OpBegun s b j o) (l w : Nat) :
    let t := syncRlines (lineCharged b j l w) j
    (objSt t j).current = some o ∧ t.loft.objs = s.loft.objs
      ∧ (∃ x, Machine.lineOf t l = some x ∧ x.way = w ∧ x.obj = some j ∧ x.dirty = 0)
      ∧ (∀ m, m ≠ l → Machine.lineOf t m = Machine.lineOf s m) ∧ marks t j = marks b j := by
  have hmarks : marks (syncRlines (lineCharged b j l w) j) j = marks b j :=
    ((lineCharged_recBut b j l w [24, 25, 26, 27]).trans (syncRlines_recBut _ j)).marks (by decide)
  have hline (m : Nat) : Machine.lineOf (syncRlines (lineCharged b j l w) j) m = if l = m then
      some { way := w, obj := some j, dirty := 0, use := b.loft.clock, fill := pindex b } else Machine.lineOf s m := by
    rw [← h.lineOf]
    exact lineCharged_line b j l w m
  refine ⟨h.current, ?_, ⟨_, (hline l).trans (if_pos rfl), rfl, rfl, rfl⟩, fun m hm => (hline m).trans (if_neg hm.symm), hmarks⟩
  have hobjs : b.loft.objs = s.loft.objs := by rw [h.form]
  exact hobjs

end Sys2Proof.Machine
end

section
/-! PROOF. O36: what the commands of promotion, pin and unpin leave (R269 to R271, R276). -/

namespace Sys2Proof.Settled

open Sys2Proof.Machine

section
variable {s : State} {j : Nat} {o : ObjOp} {q : List ObjOp} (hok : Statements.RecordOk s j)
include hok

/-! ## Operations that end at once -/

/-- PROMOTE and PIN of a class that is never promoted, or while there is no Loft to promote to. -/
theorem promote_refused (hw : Statements.Waits s j 2 o q true) (h : (classFixed (objAt s j) || s.loft.granaryOnly) = true) :
    Runs (.promote j) s fun t => Statements.OpEnded s t j o osState ∧ (objAt t j).mstate = (objAt s j).mstate
      ∧ t.loft.lines = s.loft.lines := by
  refine runs_endsAtOnce (status := osState) rfl hok hw (if_pos h) (by decide) (.inr (by decide)) fun t ht => ?_
  obtain ⟨hend, hmarks, hlines⟩ := ht
  exact ⟨hend, congrArg (·.1) hmarks, hlines⟩

theorem pin_refused (hw : Statements.Waits s j 3 o q true) (h : (classFixed (objAt s j) || s.loft.granaryOnly) = true) :
    Runs (.pin j) s fun t => Statements.OpEnded s t j o osState ∧ (objAt t j).mstate = (objAt s j).mstate
      ∧ t.loft.lines = s.loft.lines := by
  refine runs_endsAtOnce (status := osState) rfl hok hw (if_pos h) (by decide) (.inr (by decide)) fun t ht => ?_
  obtain ⟨hend, hmarks, hlines⟩ := ht
  exact ⟨hend, congrArg (·.1) hmarks, hlines⟩

theorem unpin_free (hw : Statements.Waits s j 4 o q true) (hpin : (objAt s j).pinned = false) : Runs (.unpin j) s fun t =>
    Statements.OpEnded s t j o osDone ∧ (objAt t j).mstate = (objAt s j).mstate ∧ t.loft.lines = s.loft.lines := by
  obtain ⟨-, -, hop, -, -⟩ := id hw
  refine runs_endsAtOnce (status := osDone) rfl hok hw ?_ (by decide) (.inl (by omega)) fun t ht => ?_
  · exact if_neg (by rw [opTaken_objAt, hpin]; decide)
  · obtain ⟨hend, hmarks, hlines⟩ := ht
    exact ⟨hend, congrArg (·.1) hmarks, hlines⟩

/-! ## UNPIN of a pinned object (R270) -/

theorem unpin_pinned (hw : Statements.Waits s j 4 o q true) (hpin : (objAt s j).pinned = true) : Runs (.unpin j) s fun t =>
    (objAt t j).pinned = false ∧ (objAt t j).mstate = (objAt s j).mstate ∧ objSt t j = { queue := q, current := some o }
      ∧ t.loft.lines = s.loft.lines ∧ t.regs = s.regs ∧ ∀ a, a ≠ objRec s j + 18 → byteAt t a = byteAt s a := by
  refine runs_objCmd hw rfl hok (.inl rfl) ?_
  have hact : opUnpin (opTaken s j q) j o = setPinned (begin_ (opTaken s j q) j o) j 0 :=
    if_pos (by rw [opTaken_objAt, hpin])
  rw [hact]
  have hbegun := (opTaken_recBut s j q [18]).trans (begin_recBut (opTaken s j q) j o [18])
  have hst := begin_objSt (opTaken s j q) j o
  have hmst : (objAt (begin_ (opTaken s j q) j o) j).mstate = (objAt s j).mstate := rfl
  have hlines : (begin_ (opTaken s j q) j o).loft.lines = s.loft.lines := rfl
  have hregs : (begin_ (opTaken s j q) j o).regs = s.regs := rfl
  rw [opTaken_objSt] at hst
  generalize begin_ (opTaken s j q) j o = b at *
  have hmarks := marks_setPinned ((hbegun.map.recordOk j).trans hok.1) 0
  have hrec := hbegun.trans (setPinned_recBut b j 0)
  exact ⟨congrArg (·.2.1) hmarks, (congrArg (·.1) hmarks).trans hmst, hst, hlines, hregs,
    fun a ha => hrec.byte a fun i hi => (List.mem_singleton.1 hi).symm ▸ ha⟩

end

/-! ## Objects that are resident, or come to be (R269, R271) -/

section
variable {s : State} {j : Nat} {o : ObjOp} {q : List ObjOp} (hok : Statements.RecordOk s j)
  (hcls : classFixed (objAt s j) = false) (hgran : s.loft.granaryOnly = false)
include hok hcls hgran

theorem promote_resident (hw : Statements.Waits s j 2 o q true) (hst : (objAt s j).mstate = msResident) :
    Runs (.promote j) s fun t => Statements.OpEnded s t j o osDone ∧ t.loft.lines = s.loft.lines
      ∧ (objAt t j).age = pindex s % 2 ^ 32 := by
  obtain ⟨-, -, hop, hreg, -⟩ := id hw
  refine runs_objCmd hw rfl hok (.inl rfl) ?_
  have hplain : o.op ≠ 6 ∨ osDone ≠ osDone := .inl (by omega)
  rw [opPromote_resident (s := opTaken s j q) hcls hgran hst]
  obtain ⟨hend, -, hlines⟩ := endsAtOnce hok hw (status := osDone) (by decide) hplain
  exact ⟨hend, hlines, (endOp_closed (opTaken s j q) j hplain).age hreg hok.1 rfl (.inr (.inl hop))⟩

theorem pin_resident (hw : Statements.Waits s j 3 o q true) (hst : (objAt s j).mstate = msResident)
    (hpin : (objAt s j).pinned = true) : Runs (.pin j) s fun t =>
      Statements.OpEnded s t j o osDone ∧ t.loft.lines = s.loft.lines := by
  obtain ⟨-, -, hop, -, -⟩ := id hw
  refine runs_endsAtOnce (status := osDone) rfl hok hw ?_ (by decide) (.inl (by omega)) fun t ht => ?_
  · exact opPin_pinned (s := opTaken s j q) hcls hgran hst hpin
  · obtain ⟨hend, -, hlines⟩ := ht
    exact ⟨hend, hlines⟩

/-- Each line in order, into the way that it finds. -/
theorem promote_home (hw : Statements.Waits s j 2 o q true) {w : State} (hst : (objAt s j).mstate = msHome)
    (hquota : quotaOk s (objAt s j).owner (objAt s j).lines = true)
    (hfold : (objLines (objAt s j)).foldl (promoteLine j) (promotionBegun (opTaken s j q) j o, osDone) = (w, osDone))
    {P : State → Prop} (hp : P (ended s (syncRlines w j))) : Runs (.promote j) s P := by
  refine runs_objCmd hw rfl hok (.inl rfl) ?_
  rw [opPromote_copied (s := opTaken s j q) hcls hgran hst hquota hfold]
  exact hp

theorem promote_line (hw : Statements.Waits s j 2 o q true) {l w : Nat} (hst : (objAt s j).mstate = msHome)
    (hquota : quotaOk s (objAt s j).owner 1 = true) (hl : objLines (objAt s j) = [l]) (hnone : lineOf s l = none)
    (hway : freeWay s l false = some w) : Runs (.promote j) s fun t => (objAt t j).mstate = msPromoting
      ∧ (objSt t j).current = some o ∧ (∃ x, lineOf t l = some x ∧ x.way = w ∧ x.obj = some j ∧ x.dirty = 0)
      ∧ (∀ m, m ≠ l → lineOf t m = lineOf s m) ∧ t.loft.objs = s.loft.objs := by
  have hbegun := promotionBegun_opBegun (opTaken s j q) j o
  have hclean : Statements.Clean (opTaken s j q) := hok.2
  have hline : promoteLine j (promotionBegun (opTaken s j q) j o, osDone) l = (lineCharged _ j l w, osDone) :=
    promoteLine_free (hbegun.clean hclean) ((hbegun.lineOf l).trans hnone) ((hbegun.freeWay l false).trans hway)
  have hmarks := promotionBegun_marks (s := opTaken s j q) hok.1 o
  have hheld := hbegun.held l w
  refine promote_home hok hcls hgran hw hst (by rw [objLines_length hl]; exact hquota) (by rw [hl]; exact hline) ?_
  generalize promotionBegun (opTaken s j q) j o = b at hmarks hheld ⊢
  dsimp only at hheld
  generalize syncRlines (lineCharged b j l w) j = t at hheld ⊢
  obtain ⟨hcur, hobjs, hheld, hrest, hsame⟩ := hheld
  exact ⟨congrArg (·.1) (hsame.trans hmarks), hcur, hheld, hrest, hobjs⟩

/-- Each line into the way that is kept for it. -/
theorem pin_home (hw : Statements.Waits s j 3 o q true) {x : State} {ws : List (Nat × Nat)} (hst : (objAt s j).mstate = msHome)
    (hquota : quotaOk s (objAt s j).owner ((objAt s j).lines - (heldFor s j).length) = true)
    (hws : reservePins s (objAt s j) = some ws) (hfold : ws.foldl (pinLine j) (pinBegun (opTaken s j q) j o, true) = (x, true))
    {P : State → Prop} (hp : P (ended s (syncRlines x j))) : Runs (.pin j) s P := by
  refine runs_objCmd hw rfl hok (.inl rfl) ?_
  rw [opPin_reserved (s := opTaken s j q) hcls hgran hst hquota hws hfold]
  exact hp

theorem pin_line (hw : Statements.Waits s j 3 o q true) {l w : Nat} (hst : (objAt s j).mstate = msHome)
    (hquota : quotaOk s (objAt s j).owner (1 - (heldFor s j).length) = true) (hl : objLines (objAt s j) = [l])
    (hnone : lineOf s l = none) (hway : freeWay s l true = some w) : Runs (.pin j) s fun t =>
      (objAt t j).mstate = msPromoting ∧ (objAt t j).pinned = true ∧ (objSt t j).current = some o
        ∧ (∃ x, lineOf t l = some x ∧ x.way = w ∧ x.obj = some j) ∧ (∀ m, m ≠ l → lineOf t m = lineOf s m) := by
  have hbegun := pinBegun_opBegun (opTaken s j q) j o
  have hclean : Statements.Clean (opTaken s j q) := hok.2
  have hline : pinLine j (pinBegun (opTaken s j q) j o, true) (l, w) = (lineCharged _ j l w, true) :=
    pinLine_free (hbegun.clean hclean) ((hbegun.lineOf l).trans hnone)
  have hmarks := pinBegun_marks (s := opTaken s j q) hok.1 o
  have hheld := hbegun.held l w
  refine pin_home hok hcls hgran hw hst (by rw [objLines_length hl]; exact hquota) (reservePins_single hl hway) hline ?_
  generalize pinBegun (opTaken s j q) j o = b at hmarks hheld ⊢
  dsimp only at hheld
  generalize syncRlines (lineCharged b j l w) j = t at hheld ⊢
  obtain ⟨hcur, -, ⟨x, hx, hxw, hxo, -⟩, hrest, hsame⟩ := hheld
  exact ⟨congrArg (·.1) (hsame.trans hmarks), congrArg (·.2.1) (hsame.trans hmarks), hcur, ⟨x, hx, hxw, hxo⟩, hrest⟩

end

theorem promotePin : Statements.PromotePin := by
  intro s j o q hok
  refine ⟨?_, fun hw hcls hgran => ⟨promote_resident hok hcls hgran hw, fun l w hst hquota => promote_line hok hcls hgran hw hst hquota,
      fun w hst hquota hfold => promote_home hok hcls hgran hw hst hquota hfold ⟨rfl, rfl, rfl⟩⟩,
    fun hw hcls hgran => ⟨pin_resident hok hcls hgran hw, fun l w hst hquota => pin_line hok hcls hgran hw hst hquota,
      fun ws hst hquota hws x hfold => pin_home hok hcls hgran hw hst hquota hws hfold ⟨rfl, rfl⟩⟩,
    unpin_pinned hok, unpin_free hok⟩
  simp only [List.forall_mem_cons]
  exact ⟨promote_refused hok, pin_refused hok, by simp⟩

/-- Settles O36, command by command: what ends at once (`endsAtOnce`), what begins a demotion (`demoting_begun`), and what takes
ways of the Loft (`OpBegun.held`). -/
theorem objectMoves : Obligations.ObjectMoves := ⟨promotePin, demoteStreamEvict⟩

end Sys2Proof.Settled
end

section
/-! PROOF. The ends of promotions, unpins and demotions (R264, R270, R271, R274). -/

namespace Sys2Proof.Machine

/-! ## The operation in progress ends -/

theorem endCurrent_some {s : State} {j : Nat} {o : ObjOp} (h : (objSt s j).current = some o) (status : Nat) :
    endCurrent s j status = endOp (opTaken s j (objSt s j).queue) j o status := by
  rw [endCurrent, h]
  rfl

theorem endCurrent_none {s : State} {j : Nat} (h : (objSt s j).current = none) (status : Nat) : endCurrent s j status = s := by
  rw [endCurrent, h]

theorem opTaken_current (s : State) (j : Nat) (q : List ObjOp) : (objSt (opTaken s j q) j).current = none := by
  rw [opTaken_objSt]

theorem opTaken_lines (s : State) (j : Nat) (q : List ObjOp) : (opTaken s j q).loft.lines = s.loft.lines := rfl
theorem opTaken_isReg (s : State) (j : Nat) (q : List ObjOp) : isReg (opTaken s j q) j = isReg s j := rfl

/-- RLINES of a record, the lines that its object holds (R261). -/
def rlines (s : State) (j : Nat) : Nat := peekN s (objRec s j + 24) 4

theorem RecBut.rlines {s t : State} {j : Nat} {offs : List Nat} (h : RecBut s t j offs) (ho : ∀ i ∈ offs, i < 24 ∨ 28 ≤ i) :
    rlines t j = Machine.rlines s j := h.peekN ho

theorem rlines_syncRlines {s : State} {j : Nat} (h : rangeOk s (objRec s j) 64 = true) :
    rlines (syncRlines s j) j = (heldFor s j).length % 2 ^ 32 := peekN_setObj h _ (by decide)

/-! ## PROMOTION_COMPLETE (R271) -/

/-- The object is resident. -/
def promoted (s : State) (j : Nat) : State := syncRlines (setMstate s j msResident) j

theorem promotionDone_eq {s : State} {j : Nat} (hreg : isReg s j = true) (hst : (objAt s j).mstate = msPromoting)
    (hopen : ∀ l ∈ objLines (objAt s j), roundOn s l = none) : promotionDone s j = endCurrent (promoted s j) j osDone := by
  have hnone : (objLines (objAt s j)).any (fun l => (roundOn s l).isSome) = false :=
    List.any_eq_false.2 fun l hl => by simp [hopen l hl]
  simp only [promotionDone, hreg, hst, hnone, Bool.not_true, ne_eq, not_true, decide_false, Bool.or_self, Bool.false_eq_true,
    if_false]
  rfl

theorem promoted_recBut (s : State) (j : Nat) : RecBut s (promoted s j) j [18, 24, 25, 26, 27] :=
  ((setMstate_recBut s j msResident).mono (by decide)).trans ((syncRlines_recBut _ j).mono (by decide))

theorem promoted_marks {s : State} {j : Nat} (h : rangeOk s (objRec s j) 64 = true) :
    marks (promoted s j) j = (msResident, (objAt s j).pinned, (objAt s j).stream) :=
  ((syncRlines_recBut _ j).marks (by decide)).trans (marks_setMstate h msResident)

theorem promoted_rlines {s : State} {j : Nat} (h : rangeOk s (objRec s j) 64 = true) :
    rlines (promoted s j) j = (heldFor s j).length % 2 ^ 32 :=
  rlines_syncRlines (s := setMstate s j msResident) (((setMstate_recBut s j msResident).map.recordOk j).trans h)

theorem promoted_loft (s : State) (j : Nat) : (promoted s j).loft = s.loft := rfl

/-! ## UNPIN_MOVE_DONE (R270) -/

/-- A line that lies in a cache way stays there. -/
theorem unpinLine_cached {s : State} {j l : Nat} (h : ∀ x, lineOf s l = some x → x.way < nCache s) :
    unpinLine j (s, true) l = (s, true) := by
  unfold unpinLine
  dsimp only
  split
  · rfl
  · next x hx => simp [h x hx]

theorem unpinLines_cached {s : State} (j : Nat) {ls : List Nat} (h : ∀ l ∈ ls, ∀ x, lineOf s l = some x → x.way < nCache s) :
    ls.foldl (unpinLine j) (s, true) = (s, true) := by
  induction ls with
  | nil => rfl
  | cons l ls ih =>
    obtain ⟨hl, hls⟩ := List.forall_mem_cons.1 h
    rw [List.foldl_cons, unpinLine_cached hl, ih hls]

theorem unpinDone_eq {s : State} {j : Nat} {o : ObjOp} (hcur : (objSt s j).current = some o) (hop : o.op = 4)
    (hst : (objAt s j).mstate = msResident) (h : ∀ y ∈ heldFor s j, ∀ x, lineOf s y.1 = some x → x.way < nCache s) :
    unpinDone s j = endCurrent s j osDone := by
  have hlines : ((heldFor s j).map (·.1)).foldl (unpinLine j) (s, true) = (s, true) :=
    unpinLines_cached j fun l hl => by
      obtain ⟨y, hy, rfl⟩ := List.mem_map.1 hl
      exact h y hy
  simp only [unpinDone, hcur, hop, hst, hlines, ne_eq, not_true, decide_false, Bool.or_self, Bool.false_eq_true, if_false,
    if_true]

/-! ## DEMOTION_COMPLETE (R274) -/

/-- The lines of an object are written back and leave the Loft. -/
def linesFreed (s : State) (j : Nat) : State := (heldFor s j).foldl (fun s x => freeLine s x.1) s

/-- From `s` to `t` the lines held for object j have left the Loft, and the object is HOME. -/
structure CameHome (s t : State) (j : Nat) : Prop where
  record : RecBut s t j [18, 24, 25, 26, 27]
  marks : marks t j = (msHome, (objAt s j).pinned, (objAt s j).stream)
  rlines : rlines t j = 0
  objSt : objSt t j = Machine.objSt s j
  isReg : isReg t j = Machine.isReg s j
  sound : LoftSound t
  none : heldFor t j = []
  kept : ∀ y ∈ s.loft.lines, (∀ z ∈ heldFor s j, z.1 ≠ y.1) → y ∈ t.loft.lines

theorem mem_heldFor {s : State} {j : Nat} {y : Nat × LineSt} : y ∈ heldFor s j ↔ y ∈ s.loft.lines ∧ y.2.obj = some j := by
  simp [heldFor]

theorem heldFor_nil_of_sub {s t : State} {j : Nat} (h : heldFor s j = []) (hsub : t.loft.lines ⊆ s.loft.lines) :
    heldFor t j = [] := by
  refine List.eq_nil_iff_forall_not_mem.2 fun y hy => ?_
  obtain ⟨hmem, hobj⟩ := mem_heldFor.1 hy
  exact List.not_mem_nil (h ▸ mem_heldFor.2 ⟨hsub hmem, hobj⟩)

section
variable {s : State} {j : Nat} (hsound : LoftSound s)
include hsound

theorem linesFreed_linesMove : LinesMove s (linesFreed s j) :=
  linesMove_foldl (fun _ x hs => freeLine_linesMove x.1 hs) _ hsound

theorem mem_linesFreed {y : Nat × LineSt} :
    y ∈ (linesFreed s j).loft.lines ↔ y ∈ s.loft.lines ∧ ∀ z ∈ heldFor s j, z.1 ≠ y.1 := mem_freeLines hsound

theorem heldFor_linesFreed : heldFor (linesFreed s j) j = [] := by
  refine List.eq_nil_iff_forall_not_mem.2 fun y hy => ?_
  obtain ⟨hmem, hobj⟩ := mem_heldFor.1 hy
  obtain ⟨hold, hkeys⟩ := (mem_linesFreed hsound).1 hmem
  exact hkeys y (mem_heldFor.2 ⟨hold, hobj⟩) rfl

end

/-- The lines' charge goes back to the pool. -/
def linesReturned (s : State) (j : Nat) : State := subCharge (linesFreed s j) (objAt s j).owner (heldFor s j).length

theorem freeObjLines_all {s : State} {j : Nat} (h : ∀ y ∈ heldFor s j, roundOn s y.1 = none) :
    freeObjLines s j = syncRlines (linesReturned s j) j := by
  have hall : ((heldFor s j).filter fun (l, _) => (roundOn s l).isNone) = heldFor s j :=
    List.filter_eq_self.2 fun y hy => by simp [h y hy]
  unfold freeObjLines
  rw [hall]
  rfl

/-- What the return of the charge leaves of the lines and the records. -/
theorem linesReturned_frame {s : State} {j : Nat} (hsound : LoftSound s) :
    linesReturned s j = { linesFreed s j with regs := (linesReturned s j).regs }
      ∧ RecBut s (linesReturned s j) j [] := by
  have hform := subCharge_form (linesFreed s j) (objAt s j).owner (heldFor s j).length
  have hregs := subCharge_regs (linesFreed s j) (objAt s j).owner (heldFor s j).length
  have hmove := linesFreed_linesMove (j := j) hsound
  unfold linesReturned
  generalize subCharge (linesFreed s j) (objAt s j).owner (heldFor s j).length = c at *
  exact ⟨hform, (hmove.recBut j []).trans (recBut_of_mem (chargeRegs_sameMap hregs) (by rw [hform]) j [])⟩

/-- RLINES shows the lines held, and the object is HOME. -/
def homeShown (s : State) (j : Nat) : State := setMstate (syncRlines s j) j msHome

theorem homeShown_form (s : State) (j : Nat) : homeShown s j = { s with mem := (homeShown s j).mem } := rfl

theorem homeShown_recBut (s : State) (j : Nat) : RecBut s (homeShown s j) j [18, 24, 25, 26, 27] :=
  ((syncRlines_recBut s j).mono (by decide)).trans ((setMstate_recBut _ j msHome).mono (by decide))

theorem homeShown_fields {s : State} {j : Nat} (h : rangeOk s (objRec s j) 64 = true) :
    marks (homeShown s j) j = (msHome, (objAt s j).pinned, (objAt s j).stream)
      ∧ rlines (homeShown s j) j = (heldFor s j).length % 2 ^ 32 := by
  have hsync := syncRlines_recBut s j
  have hrl := rlines_syncRlines h
  unfold homeShown
  generalize syncRlines s j = r at *
  have hhome := marks_setMstate ((hsync.map.recordOk j).trans h) msHome
  rw [objAt_pinned_marks, objAt_stream_marks, hsync.marks (by decide)] at hhome
  exact ⟨hhome, ((setMstate_recBut r j msHome).rlines (by decide)).trans hrl⟩

theorem heldFor_linesReturned {s : State} {j : Nat} (hsound : LoftSound s) : heldFor (linesReturned s j) j = [] := by
  obtain ⟨hform, -⟩ := linesReturned_frame (j := j) hsound
  rw [hform]
  exact heldFor_linesFreed hsound

/-- With no round open on its lines, an object is free of them at once. -/
theorem freeObj_eq {s : State} {j : Nat} (hsound : LoftSound s) (h : ∀ y ∈ heldFor s j, roundOn s y.1 = none) :
    freeObj s j = homeShown (linesReturned s j) j := by
  have hnone : heldFor (syncRlines (linesReturned s j) j) j = [] := heldFor_linesReturned hsound
  unfold freeObj
  rw [freeObjLines_all h]
  dsimp only
  rw [hnone]
  rfl

theorem freeObj_cameHome {s : State} {j : Nat} (hrange : rangeOk s (objRec s j) 64 = true) (hsound : LoftSound s)
    (h : ∀ y ∈ heldFor s j, roundOn s y.1 = none) : CameHome s (freeObj s j) j := by
  rw [freeObj_eq hsound h]
  obtain ⟨hform, hrec⟩ := linesReturned_frame (j := j) hsound
  have hmove := linesFreed_linesMove (j := j) hsound
  have hnone := heldFor_linesReturned (j := j) hsound
  have hshown := homeShown_form (linesReturned s j) j
  have hshownRec := homeShown_recBut (linesReturned s j) j
  obtain ⟨hmarks, hrl⟩ := homeShown_fields ((hrec.map.recordOk j).trans hrange)
  rw [objAt_pinned_marks, objAt_stream_marks, hrec.marks (by simp)] at hmarks
  rw [hnone] at hrl
  generalize homeShown (linesReturned s j) j = t at *
  have hloft : t.loft = (linesFreed s j).loft := by rw [hshown, hform]
  have hmoved := hmove.form
  have hlines (y : Nat × LineSt) : y ∈ t.loft.lines ↔ y ∈ (linesFreed s j).loft.lines := by rw [hloft]
  refine ⟨(hrec.mono (List.nil_subset _)).trans hshownRec, hmarks, hrl, ?_, ?_, hmove.sound.of_ecc (by rw [hshown, hform]),
    heldFor_nil_of_sub (heldFor_linesFreed (j := j) hsound) fun y hy => (hlines y).1 hy,
    fun y hy hz => (hlines y).2 ((mem_linesFreed hsound).2 ⟨hy, hz⟩)⟩
  · rw [objSt, hloft, hmoved, objSt]
  · rw [isReg, hloft, hmoved, isReg]

theorem demotionDone_eq {s : State} {j : Nat} (hreg : isReg s j = true) (hst : (objAt s j).mstate = msDemoting)
    (hhome : CameHome s (freeObj s j) j) : demotionDone s j = endCurrent (freeObj s j) j osDone := by
  have hmst : (objAt (freeObj s j) j).mstate = msHome := congrArg (·.1) hhome.marks
  simp only [demotionDone, hreg, hst, hmst, Bool.not_true, ne_eq, not_true, decide_false, Bool.or_self, Bool.false_eq_true,
    if_false, if_true]

end Sys2Proof.Machine
end

section
/-! PROOF. O37: what the ends of migrations and of fills leave (R264, R270, R271, R274, R302, R304, R305). -/

namespace Sys2Proof.Machine

/-! ## Fills (R302, R304, R305) -/

theorem objAt_congr {s t : State} (hmap : SameMap s t) (hmem : t.mem = s.mem) (j : Nat) : objAt t j = objAt s j := by
  have hpeek : peek t (objRec s j) 64 = peek s (objRec s j) 64 :=
    List.map_congr_left fun i _ => hmap.byteAt (by rw [hmem])
  rw [objAt, hmap.objRec, hpeek, objAt]

/-- The miss entry of a line is free. -/
def missFreed (s : State) (l : Nat) : State :=
  syncMissocc (mapLoft s fun lo => { lo with misses := adel lo.misses l }) (sliceOf (4096 * l))

theorem missFreed_regs (s : State) (l : Nat) : RegsBut s (missFreed s l) [Reg.LFT_SLSTAT (sliceOf (4096 * l))] :=
  regsBut_setReg (mapLoft s _) _ (by simp)

theorem missFreed_sameMap (s : State) (l : Nat) : SameMap s (missFreed s l) := by
  refine (missFreed_regs s l).sameMap fun a ha => ?_
  have hout : ∀ a ∈ mapRegs, a < Reg.LFT_SLSTAT 0 ∨ Reg.LFT_SLSTAT 64 ≤ a := by decide
  have hlt := sliceOf_lt (4096 * l)
  have := hout a ha
  rw [List.mem_singleton]
  unfold Reg.LFT_SLSTAT at *
  omega

theorem missFreed_objStreams (s : State) (l m : Nat) : objStreams (missFreed s l) m = objStreams s m := by
  have hobj (j : Nat) : objAt (missFreed s l) j = objAt s j := objAt_congr (missFreed_sameMap s l) rfl j
  have hround : roundOn (missFreed s l) m = roundOn s m := rfl
  have hobjs : (missFreed s l).loft.objs = s.loft.objs := rfl
  simp only [objStreams, objOfLine, hobj, hround, hobjs]

/-- The line of a fill has landed in its way, or has been held or streamed meanwhile. -/
def lineFilled (s : State) (l w : Nat) : State :=
  if (lineOf s l).isSome || objStreams s l then missFreed s l else landLine (missFreed s l) l w

theorem lineFilled_rounds (s : State) (l w : Nat) : (lineFilled s l w).loft.rounds = s.loft.rounds := by
  unfold lineFilled landLine
  split
  · rfl
  · split <;> rfl

theorem fillComplete_eq {s : State} {a : Nat} {e : MissEnt} (he : kfind s.loft.misses (lineNo a) = some e)
    (hcw : cwIn s 2 (4096 * lineNo a) 4096 = []) (hround : roundOn s (lineNo a) = none) :
    fillComplete s a = settle (lineFilled s (lineNo a) e.way) := by
  have hcw' : cwIn (missFreed s (lineNo a)) 2 (4096 * lineNo a) 4096 = [] := hcw
  have hread : (if (lineOf (missFreed s (lineNo a)) (lineNo a)).isSome then (missFreed s (lineNo a), none)
      else readCws (missFreed s (lineNo a)) (cwIn (missFreed s (lineNo a)) 2 (4096 * lineNo a) 4096))
        = (missFreed s (lineNo a), none) := by
    rw [hcw', readCws, ite_self]
  have hround' : roundOn (lineFilled s (lineNo a) e.way) (lineNo a) = none := by
    rw [roundOn, lineFilled_rounds]
    exact hround
  have hdrain : drainRound 65 (lineFilled s (lineNo a) e.way) (lineNo a) = lineFilled s (lineNo a) e.way := by
    rw [drainRound, hround']
  have hfreed : syncMissocc (mapLoft s fun lo => { lo with misses := adel lo.misses (lineNo a) }) (sliceOf (4096 * lineNo a))
      = missFreed s (lineNo a) := rfl
  unfold fillComplete
  dsimp only
  rw [he]
  dsimp only
  rw [hfreed, hread]
  dsimp only
  rw [missFreed_objStreams]
  exact congrArg settle hdrain

theorem missFreed_blocks (s : State) (l : Nat) : BlocksBut s (missFreed s l) [5] := by
  refine fun a ha => missFreed_regs s l a fun hk => ha ?_
  have hlt := sliceOf_lt (4096 * l)
  rw [List.mem_singleton] at hk ⊢
  unfold Reg.LFT_SLSTAT at hk
  omega

theorem missFreed_pindex (s : State) (l : Nat) : pindex (missFreed s l) = pindex s :=
  reg64_of_reg (missFreed_blocks s l _ (by decide)) (missFreed_blocks s l _ (by decide))

theorem missFreed_miss (s : State) (l : Nat) : kfind (missFreed s l).loft.misses l = none :=
  (kfind_kdel _ _ _).trans (if_pos rfl)

theorem lineFilled_stays {s : State} {l : Nat} (w : Nat) (h : lineOf s l ≠ none ∨ objStreams s l = true) :
    lineFilled s l w = missFreed s l := by
  refine if_pos (Bool.or_eq_true_iff.2 (h.imp_left fun hl => ?_))
  exact Option.isSome_iff_ne_none.2 hl

section
variable {s : State} {l : Nat} (w : Nat) (hnone : lineOf s l = none) (hstream : objStreams s l = false)
include hnone hstream

theorem lineFilled_lands : lineFilled s l w = holdLine (missFreed s l) l w none 0 := by
  have hnone' : lineOf (missFreed s l) l = none := hnone
  rw [lineFilled, if_neg (by simp [hnone, hstream]), landLine, if_neg (by simp [hnone'])]

theorem lineFilled_line (m : Nat) : lineOf (lineFilled s l w) m = if l = m then
    some { way := w, obj := none, dirty := 0, use := s.loft.clock, fill := pindex s } else lineOf s m := by
  rw [lineFilled_lands w hnone hstream, ← missFreed_pindex s l]
  exact kfind_kins _ _ _ _

theorem lineFilled_calm (hcalm : Statements.Calm s) : Statements.Calm (lineFilled s l w) := by
  obtain ⟨hcarts, hinb, hwait, hrounds, hbanks, hbusy⟩ := hcalm
  rw [lineFilled_lands w hnone hstream]
  exact ⟨hcarts, hinb, hwait, hrounds, hbanks, ((missFreed_blocks s l).fld (by decide) _).trans hbusy⟩

end

end Sys2Proof.Machine
end

section
namespace Sys2Proof.Settled

open Sys2Proof.Machine

/-! ## Migrations -/

section
variable {s : State} {j : Nat} (hok : Statements.RecordOk s j) (ha : alive s = true)
include hok ha

theorem promotion_ends (hreg : isReg s j = true) {o : ObjOp} (hcur : (objSt s j).current = some o) (hop : o.op = 2 ∨ o.op = 3)
    (hst : (objAt s j).mstate = msPromoting) (hopen : ∀ l ∈ objLines (objAt s j), roundOn s l = none) :
    Runs (.promotionComplete j) s fun t => (objAt t j).mstate = msResident ∧ (objSt t j).current = none
      ∧ peekN t (objRec s j + 19) 1 = osDone ∧ t.loft.lines = s.loft.lines
      ∧ peekN t (objRec s j + 24) 4 = (heldFor s j).length % 2 ^ 32 := by
  refine runs_finish rfl ha ?_
  have hloft := promoted_loft s j
  have hrec := promoted_recBut s j
  have hmarks := promoted_marks hok.1
  have hrl := promoted_rlines hok.1
  rw [promotionDone_eq hreg hst hopen]
  generalize promoted s j = p at *
  have hcur' : (objSt p j).current = some o := by
    rw [objSt, hloft]
    exact hcur
  rw [endCurrent_some hcur']
  have htaken := opTaken_recBut p j (objSt p j).queue []
  have hnone := opTaken_current p j (objSt p j).queue
  have hlines := opTaken_lines p j (objSt p j).queue
  have hreg' : isReg (opTaken p j (objSt p j).queue) j = true := by
    rw [opTaken_isReg, isReg, hloft]
    exact hreg
  generalize opTaken p j (objSt p j).queue = u at *
  have hrecu := hrec.trans (htaken.mono (List.nil_subset _))
  have hclosed := endOp_closed u j (o := o) (status := osDone) (.inl (by omega))
  generalize endOp u j o osDone = t at hclosed ⊢
  obtain ⟨hlast, -⟩ := hclosed.fields hreg' ((hrecu.map.recordOk j).trans hok.1) (by decide)
  have hobj : objRec t j = objRec s j := (hclosed.record.map.objRec j).trans (hrecu.map.objRec j)
  have hrl' : rlines t j = (heldFor s j).length % 2 ^ 32 :=
    (hclosed.record.rlines (by decide)).trans ((htaken.rlines (by simp)).trans hrl)
  rw [rlines, hobj] at hrl'
  rw [hobj] at hlast
  refine ⟨congrArg (·.1) (hclosed.marks.trans ((htaken.marks (by simp)).trans hmarks)), ?_, hlast, ?_, hrl'⟩
  · exact (congrArg ObjSt.current hclosed.objSt_eq).trans hnone
  · exact hclosed.lines.trans (hlines.trans (by rw [hloft]))

theorem unpin_ends (hreg : isReg s j = true) {o : ObjOp} (hcur : (objSt s j).current = some o) (hop : o.op = 4)
    (hst : (objAt s j).mstate = msResident) (hways : ∀ y ∈ heldFor s j, ∀ x, lineOf s y.1 = some x → x.way < nCache s) :
    Runs (.unpinMoveDone j) s fun t => Statements.OpEnded s t j o osDone ∧ t.loft.lines = s.loft.lines
      ∧ (objAt t j).mstate = msResident := by
  refine runs_finish rfl ha ?_
  rw [unpinDone_eq hcur hop hst hways, endCurrent_some hcur]
  have htaken := opTaken_recBut s j (objSt s j).queue [18]
  have hmarks := (opTaken_recBut s j (objSt s j).queue []).marks (by simp)
  have hnone := opTaken_current s j (objSt s j).queue
  have hlines := opTaken_lines s j (objSt s j).queue
  have hreg' := (opTaken_isReg s j (objSt s j).queue).trans hreg
  have hnet : (opTaken s j (objSt s j).queue).net = s.net := rfl
  generalize opTaken s j (objSt s j).queue = u at *
  have hclosed := endOp_closed u j (o := o) (status := osDone) (.inl (by omega))
  exact ⟨hclosed.opEnded htaken hnet hreg' hok.1 (by decide) hnone, hclosed.lines.trans hlines,
    (congrArg (·.1) (hclosed.marks.trans hmarks)).trans hst⟩

end

/-! ## Demotions -/

/-- From `s` to `t` the demotion of object j has ended. -/
def DemotionEnded (s t : State) (j : Nat) : Prop :=
  (objAt t j).mstate = msHome ∧ (objSt t j).current = none ∧ heldFor t j = [] ∧ peekN t (objRec s j + 24) 4 = 0
    ∧ (∀ y ∈ s.loft.lines, (∀ z ∈ heldFor s j, z.1 ≠ y.1) → (∀ o, (objSt s j).current = some o → o.op ≠ 6) → y ∈ t.loft.lines)
    ∧ ∀ o, (objSt s j).current = some o → o.op = 6 → (objAt t j).stream = true

/-- No operation was in progress: the device demoted the object itself. -/
theorem demotionEnded_none {s h : State} {j : Nat} (hhome : CameHome s h j) (hcur : (objSt s j).current = none) :
    DemotionEnded s h j := by
  have hrl := hhome.rlines
  rw [rlines, hhome.record.map.objRec] at hrl
  refine ⟨congrArg (·.1) hhome.marks, by rw [hhome.objSt, hcur], hhome.none, hrl, fun y hy hz _ => hhome.kept y hy hz, ?_⟩
  rw [hcur]
  simp

/-- The operation that was in progress has closed, at an object that is home. -/
theorem demotionEnded_closed {s v t : State} {j : Nat} {o : ObjOp} (hcur : (objSt s j).current = some o)
    (hclosed : OpClosed v t j o osDone) (hrec : RecBut s v j [18, 24, 25, 26, 27]) (hst : (objAt v j).mstate = msHome)
    (hrl : rlines v j = 0) (hnone : (objSt v j).current = none) (hheld : heldFor v j = [])
    (hkept : o.op ≠ 6 → ∀ y ∈ s.loft.lines, (∀ z ∈ heldFor s j, z.1 ≠ y.1) → y ∈ v.loft.lines)
    (hstream : o.op = 6 → (objAt v j).stream = true) : DemotionEnded s t j := by
  have hrl' := (hclosed.record.rlines (by decide)).trans hrl
  rw [rlines, hclosed.record.map.objRec, hrec.map.objRec] at hrl'
  have hlines := hclosed.lines
  refine ⟨(congrArg (·.1) hclosed.marks).trans hst, by rw [hclosed.objSt_eq, hnone],
    heldFor_nil_of_sub hheld fun y hy => hlines ▸ hy, hrl', fun y hy hz hop => ?_, fun p hp hop => ?_⟩
  · rw [hlines]
    exact hkept (hop o hcur) y hy hz
  · rw [hcur, Option.some_inj] at hp
    exact (congrArg (·.2.2) hclosed.marks).trans (hstream (hp ▸ hop))

theorem demotionEnded_some {s h : State} {j : Nat} (hhome : CameHome s h j) {o : ObjOp} (hcur : (objSt s j).current = some o)
    (hrange : rangeOk s (objRec s j) 64 = true) (hreg : isReg s j = true) : DemotionEnded s (endCurrent h j osDone) j := by
  rw [endCurrent_some (hhome.objSt ▸ hcur)]
  have htaken := opTaken_recBut h j (objSt h j).queue []
  have hnone := opTaken_current h j (objSt h j).queue
  have hlines := opTaken_lines h j (objSt h j).queue
  have hreg' := (opTaken_isReg h j (objSt h j).queue).trans (hhome.isReg.trans hreg)
  have hheld : heldFor (opTaken h j (objSt h j).queue) j = [] := hhome.none
  have hsound : LoftSound (opTaken h j (objSt h j).queue) := hhome.sound.of_ecc rfl
  generalize opTaken h j (objSt h j).queue = u at *
  have hrec := hhome.record.trans (htaken.mono (List.nil_subset _))
  have hmarks := (htaken.marks (by simp)).trans hhome.marks
  have hrl := (htaken.rlines (by simp)).trans hhome.rlines
  by_cases hop : o.op = 6
  · rw [endOp_stream hreg' hop]
    obtain ⟨hmove, hsub⟩ := streamOn_linesMove j hsound
    have hon := setStream_recBut u j 1
    have hset := ((hmove.recBut j []).marks (by simp)).trans (marks_setStream ((hrec.map.recordOk j).trans hrange) 1)
    have hform := hmove.form
    have hobj : objSt (streamOn u j) j = objSt u j := by rw [hform]; rfl
    refine demotionEnded_closed hcur (opClosed_closed (streamOn u j) j o osDone)
      ((hrec.trans (hon.mono (by decide))).trans (hmove.recBut j _)) ?_ ?_ (by rw [hobj, hnone]) (heldFor_nil_of_sub hheld hsub)
      (fun h => absurd hop h) fun _ => congrArg (·.2.2) hset
    · exact (congrArg (·.1) hset).trans (congrArg (·.1) hmarks)
    · exact ((hmove.recBut j []).rlines (by simp)).trans ((hon.rlines (by decide)).trans hrl)
  · exact demotionEnded_closed hcur (endOp_closed u j (.inl hop)) hrec (congrArg (·.1) hmarks) hrl hnone hheld
      (fun _ y hy hz => hlines ▸ hhome.kept y hy hz) fun h => absurd h hop

theorem demotion_ends {s : State} {j : Nat} (hok : Statements.RecordOk s j) (ha : alive s = true) (hreg : isReg s j = true)
    (hst : (objAt s j).mstate = msDemoting) (hopen : ∀ y ∈ heldFor s j, roundOn s y.1 = none) :
    Runs (.demotionComplete j) s fun t => DemotionEnded s t j := by
  have hhome := freeObj_cameHome hok.1 (loftSound_of_clean hok.2) hopen
  have hends : DemotionEnded s (demotionDone s j) j := by
    rw [demotionDone_eq hreg hst hhome]
    cases hcur : (objSt s j).current with
    | none =>
      rw [endCurrent_none (hhome.objSt ▸ hcur)]
      exact demotionEnded_none hhome hcur
    | some o => exact demotionEnded_some hhome hcur hok.1 hreg
  exact runs_finish rfl ha hends

theorem migrationsEnd : Statements.MigrationsEnd := fun _ _ hok ha hreg =>
  ⟨fun _ => promotion_ends hok ha hreg, fun _ => unpin_ends hok ha hreg, demotion_ends hok ha hreg⟩

/-! ## Fills -/

section
variable {s : State} {a : Nat} {e : MissEnt} (ha : alive s = true) (he : kfind s.loft.misses (lineNo a) = some e)
  (hcw : cwIn s 2 (4096 * lineNo a) 4096 = []) (hround : roundOn s (lineNo a) = none)
include ha he hcw hround

theorem fill_lands (hnone : lineOf s (lineNo a) = none) (hstream : objStreams s (lineNo a) = false) :
    Statements.Settles (.fillComplete a) s fun v => kfind v.loft.misses (lineNo a) = none ∧ MemSame s v
      ∧ (∃ x, lineOf v (lineNo a) = some x ∧ x.way = e.way ∧ x.obj = none ∧ x.dirty = 0 ∧ x.fill = pindex s)
      ∧ (∀ l, l ≠ lineNo a → lineOf v l = lineOf s l)
      ∧ RegsBut s v [Reg.LFT_SLSTAT (sliceOf (4096 * lineNo a))] := by
  have hlands := lineFilled_lands e.way hnone hstream
  have hline := lineFilled_line e.way hnone hstream
  refine settles_of_finish (congrArg (finish s) (fillComplete_eq he hcw hround)) ha ⟨?_, ?_,
    ⟨_, (hline _).trans (if_pos rfl), rfl, rfl, rfl, rfl⟩, fun l hl => (hline l).trans (if_neg hl.symm), ?_⟩
  · rw [hlands]
    exact missFreed_miss s _
  · rw [hlands]
    exact ⟨rfl, rfl⟩
  · rw [hlands]
    exact missFreed_regs s _

theorem fill_stays (h : lineOf s (lineNo a) ≠ none ∨ objStreams s (lineNo a) = true) :
    Statements.Settles (.fillComplete a) s fun v => kfind v.loft.misses (lineNo a) = none ∧ MemSame s v
      ∧ v.loft.lines = s.loft.lines ∧ RegsBut s v [Reg.LFT_SLSTAT (sliceOf (4096 * lineNo a))] := by
  refine settles_of_finish (congrArg (finish s) (fillComplete_eq he hcw hround)) ha ?_
  rw [lineFilled_stays e.way h]
  exact ⟨missFreed_miss s _, ⟨rfl, rfl⟩, rfl, missFreed_regs s _⟩

theorem fill_alone (hcalm : Statements.Calm s) (hnone : lineOf s (lineNo a) = none) (hstream : objStreams s (lineNo a) = false) :
    Runs (.fillComplete a) s fun v => kfind v.loft.misses (lineNo a) = none ∧ MemSame s v
      ∧ ∃ x, lineOf v (lineNo a) = some x ∧ x.way = e.way ∧ x.obj = none ∧ x.fill = pindex s := by
  have hlands := lineFilled_lands e.way hnone hstream
  have hline := lineFilled_line e.way hnone hstream
  have hsettled : fillComplete s a = lineFilled s (lineNo a) e.way := by
    rw [fillComplete_eq he hcw hround, settle_calm (lineFilled_calm e.way hnone hstream hcalm)]
  refine runs_finish (congrArg (finish s) hsettled) ha ⟨?_, ?_, ⟨_, (hline _).trans (if_pos rfl), rfl, rfl, rfl⟩⟩
  · rw [hlands]
    exact missFreed_miss s _
  · rw [hlands]
    exact ⟨rfl, rfl⟩

end

theorem fillLands : Statements.FillLands := fun _ _ _ ha he hcw hround =>
  ⟨fill_lands ha he hcw hround, fill_stays ha he hcw hround, fill_alone ha he hcw hround⟩

/-- Settles O37: what the lines that leave change is said once (`LinesMove`), and what an end leaves of its record
(`OpClosed`). -/
theorem loftMovesEnd : Obligations.LoftMovesEnd := ⟨migrationsEnd, fillLands⟩

end Sys2Proof.Settled
end

section
/-! PROOF. A Crib codeword that no read corrects (R496): whatever writes one of its bytes makes it new, so while it stays lost
its bytes stand. What reads and writes memory is followed here. -/

namespace Sys2Proof.Machine

/-- Byte `a` lies in a Crib codeword that no read corrects, and no free value has been drawn. -/
def Lost (a : Nat) (s : State) : Prop :=
  isCrib a = true ∧ s.free = 0 ∧ ∃ e : CwErr, (cwKey 0 a, e) ∈ s.ecc.cw ∧ e.lost = true

/-- From `s` to `t` byte `a` stands for as long as its codeword is lost: lost in `t`, it was lost in `s`, with the same byte. -/
def Spares (a : Nat) (s t : State) : Prop :=
  Lost a t → Lost a s ∧ kget (fun _ => 0#8) t.mem a = kget (fun _ => 0#8) s.mem a

variable {a : Nat}

theorem isCrib_iff : isCrib a = true ↔ 0xD000000000 ≤ a ∧ a < 0xD011000000 := by
  rw [isCrib, Bool.and_eq_true, decide_eq_true_eq, decide_eq_true_eq, cribBase, cribBase]

theorem Spares.refl (s : State) : Spares a s s := fun h => ⟨h, rfl⟩

theorem Spares.trans {s t u : State} (h : Spares a s t) (h' : Spares a t u) : Spares a s u := fun hu => by
  obtain ⟨ht, hbyte⟩ := h' hu
  obtain ⟨hs, hbyte'⟩ := h ht
  exact ⟨hs, hbyte.trans hbyte'⟩

theorem Spares.foldl_mem {α : Type} {f : State → α → State} (xs : List α) (s : State)
    (hf : ∀ s, ∀ x ∈ xs, Spares a s (f s x)) : Spares a s (xs.foldl f s) :=
  List.foldlRecOn (motive := fun t => Spares a s t) xs f (.refl s) fun _ h x hx => h.trans (hf _ x hx)

theorem Spares.foldl {α : Type} {f : State → α → State} (hf : ∀ s x, Spares a s (f s x)) (xs : List α) (s : State) :
    Spares a s (xs.foldl f s) := .foldl_mem xs s fun s x _ => hf s x

theorem Spares.ite {s t u : State} {c : Prop} [Decidable c] (ht : Spares a s t) (hu : Spares a s u) :
    Spares a s (if c then t else u) := by
  split
  · exact ht
  · exact hu

/-- What leaves memory alone and loses no codeword of the Cribs. -/
theorem spares_of_cw {s t : State} (hm : t.mem = s.mem) (hf : t.free = s.free)
    (hc : ∀ k e, k % 4 = 0 → (k, e) ∈ t.ecc.cw → e.lost = true → (k, e) ∈ s.ecc.cw) : Spares a s t := by
  rintro ⟨hcrib, hfree, e, he, hlost⟩
  exact ⟨⟨hcrib, hf ▸ hfree, e, hc _ e (by unfold cwKey; omega) he hlost, hlost⟩, by rw [hm]⟩

theorem spares_of_eq {s t : State} (hm : t.mem = s.mem) (hf : t.free = s.free) (hc : t.ecc.cw = s.ecc.cw) : Spares a s t :=
  spares_of_cw hm hf fun _ _ _ he _ => hc ▸ he

theorem RegsAndSteps.spares {s t : State} (h : RegsAndSteps s t) : Spares a s t := by rw [h]; exact spares_of_eq rfl rfl rfl
theorem StopFrame.spares {b : Nat} {s t : State} (h : StopFrame b s t) : Spares a s t := by
  rw [h.form]; exact spares_of_eq rfl rfl rfl
theorem JobFrame.spares {s t : State} (h : JobFrame s t) : Spares a s t := by rw [h.form]; exact spares_of_eq rfl rfl rfl
theorem CartsOnly.spares {s t : State} (h : CartsOnly s t) : Spares a s t := by rw [h]; exact spares_of_eq rfl rfl rfl

theorem setReg_spares (s : State) (r : Nat) (v : Word) : Spares a s (setReg s r v) := spares_of_eq rfl rfl rfl
theorem bump_spares (s : State) (r n : Nat) : Spares a s (bump s r n) := setReg_spares s _ _
theorem raise_spares (s : State) (r m : Nat) : Spares a s (raise s r m) := setReg_spares s _ _
theorem setFld_spares (s : State) (r : Nat) (f : Fld) (v : Nat) : Spares a s (setFld s r f v) := setReg_spares s _ _
theorem mapLoft_spares (s : State) (f : LoftSt → LoftSt) : Spares a s (mapLoft s f) := spares_of_eq rfl rfl rfl
theorem note_spares (s : State) (n : ErrNote) : Spares a s (note s n) := spares_of_eq rfl rfl rfl
theorem lparFlip_spares (s : State) (q d : Nat) : Spares a s (lparFlip s q d) := spares_of_eq rfl rfl rfl

theorem record_spares (s : State) (r : Rec) : Spares a s (record s r) := by
  rw [record_form]; exact spares_of_eq rfl rfl rfl

theorem endJob_spares (s : State) (st d : Nat) : Spares a s (endJob s st d) := by
  unfold endJob
  split
  · exact .refl s
  · exact ((jobFrame_host s _).spares.trans (.foldl (fun u b => (preempt_frame u b).spares) _ _)).trans
      (jobStopCheck_jobFrame _).spares

theorem stampRecord_regsAndSteps (seq : Nat) (cart : Bool) (s : State) (n : Nat) :
    RegsAndSteps s (stampRecord seq cart s n) := by
  unfold stampRecord
  dsimp only
  split <;> rfl

theorem stamp_regsAndSteps (s₀ : State) (seq : Nat) (cart : Bool) (s : State) : RegsAndSteps s (stamp s₀ seq cart s) := by
  have hrecords (f : Nat → Nat) (xs : List Nat) : RegsAndSteps s (xs.foldl (fun s i => stampRecord seq cart s (f i)) s) :=
    List.foldlRecOn (motive := fun t => RegsAndSteps s t) xs _ (.refl s) fun _ h _ _ =>
      h.trans (stampRecord_regsAndSteps seq cart _ _)
  unfold stamp
  dsimp only
  split
  · exact (hrecords _ _).trans (regsAndSteps_step _ _)
  · exact hrecords _ _

theorem stopConsumer_spares (s : State) (always : Bool) (b : Bad) (seq : Nat) : Spares a s (stopConsumer s always b seq) := by
  have hblight : Spares a s (if stepOpen s then raiseBlight s srcUncorr else s) :=
    .ite (raiseBlight_regsAndSteps s _).spares (.refl s)
  unfold stopConsumer
  dsimp only
  split
  · exact (hblight.trans (record_spares _ _)).trans (endJob_spares _ _ _)
  · exact hblight.trans (record_spares _ _)

/-! ## Codewords listed and read -/

theorem eq_or_mem_of_mem_kins {α : Type} {k : Nat} {v : α} {m : KMap α} {x : Nat × α} (h : x ∈ kins k v m) :
    x = (k, v) ∨ x ∈ m := by
  induction m with
  | nil => exact .inl (List.mem_singleton.1 h)
  | cons y m ih =>
    unfold kins at h
    split at h
    · exact List.mem_cons.1 h
    · split at h
      · exact (List.mem_cons.1 h).imp_right (List.mem_cons_of_mem _)
      · obtain rfl | h := List.mem_cons.1 h
        · exact .inr List.mem_cons_self
        · exact (ih h).imp_right (List.mem_cons_of_mem _)

theorem eq_or_mem_of_mem_kset {α : Type} [DecidableEq α] {d : Nat → α} {k : Nat} {v : α} {m : KMap α} {x : Nat × α}
    (h : x ∈ kset d m k v) : x = (k, v) ∨ x ∈ m := by
  unfold kset at h
  split at h
  · exact .inr (mem_kdel h)
  · exact eq_or_mem_of_mem_kins h

/-- A codeword listed anew is not a lost one of a Crib. -/
theorem setCw_spares (s : State) {k : Nat} {e : CwErr} (h : k % 4 = 0 → e.lost = false) : Spares a s (setCw s k e) := by
  refine spares_of_cw rfl rfl fun q x hq hx hlost => ?_
  obtain heq | hmem := eq_or_mem_of_mem_kset (d := fun _ => {}) (m := s.ecc.cw) hx
  · cases heq
    exact absurd hlost (by simp [h hq])
  · exact hmem

/-- Codewords are taken from the list. -/
theorem cwFilter_spares (s : State) (x : EccSt) (p : Nat × CwErr → Bool) (h : x.cw = s.ecc.cw.filter p) :
    Spares a s { s with ecc := x } :=
  spares_of_cw rfl rfl fun _ _ _ he _ => (List.mem_filter.1 (h ▸ he)).1

theorem clearCws_spares (s : State) (cls b n : Nat) : Spares a s (clearCws s cls b n) := cwFilter_spares s _ _ rfl
theorem dropSector_spares (s : State) (b : Nat) : Spares a s (dropSector s b) := cwFilter_spares s _ _ rfl
theorem dropLoftCodes_spares (s : State) (l : Nat) : Spares a s (dropLoftCodes s l) := cwFilter_spares s _ _ rfl

theorem countHour_spares (s : State) (cls b : Nat) : Spares a s (countHour s cls b) := by
  unfold countHour
  dsimp only
  exact .ite (spares_of_eq rfl rfl rfl) (.ite (spares_of_eq rfl rfl rfl) (.refl s))

theorem takeCorrected_spares (s : State) (k : Nat) {e : CwErr} (h : e.lost = false) : Spares a s (takeCorrected s k e) := by
  have hcount : Spares a s (note (countHour (bump s (corrReg (k % 4)) 1) (k % 4) (k / 4))
      { cls := k % 4, addr := k / 4, uncorr := false, lpar := false, pos := e.pos }) :=
    ((bump_spares s _ _).trans (countHour_spares _ _ _)).trans (note_spares _ _)
  unfold takeCorrected
  dsimp only
  have hlogged {t : State} (r : Rec) {c : Prop} [Decidable c] (ht : Spares a s t) : Spares a s (if c then record t r else t) :=
    .ite (ht.trans (record_spares t r)) ht
  exact .ite ((hlogged _ hcount).trans (setCw_spares _ fun _ => rfl)) ((hlogged _ hcount).trans (setCw_spares _ fun _ => h))

theorem takeUncorr_spares (s : State) (cls b : Nat) (e : CwErr) (l : Bool) : Spares a s (takeUncorr s cls b e l) := by
  have hcount := (bump_spares (a := a) s (uncReg cls) 1).trans (raise_spares _ Reg.INT_INTSTAT Fld.INT_INTSTAT_UNCORR.bit)
  unfold takeUncorr
  dsimp only
  exact (hcount.trans (.ite (raise_spares _ _ _) (.refl _))).trans (note_spares _ _)

theorem takeWrong_free (s : State) (k : Nat) : (takeWrong s k).free = s.free + 1 := by
  unfold takeWrong
  dsimp only
  split <;> rfl

/-- The data of a codeword taken wrongly is a free value. -/
theorem takeWrong_spares (s t : State) (k : Nat) : Spares a s (takeWrong t k) := by
  rintro ⟨-, hfree, -⟩
  rw [takeWrong_free] at hfree
  exact absurd hfree (Nat.succ_ne_zero _)

theorem foundOf_lost (s : State) (k : Nat) {e : CwErr} (h : e.lost = true) : foundOf s k e = .uncorr := by
  simp [foundOf, h]

theorem readCw_spares (s : State) (k : Nat) (e : CwErr) : Spares a s (readCw s k e).1 := by
  simp only [readCw_eq]
  cases hf : foundOf s k e with
  | clean => exact .refl s
  | corrected =>
    refine takeCorrected_spares s k (Bool.eq_false_iff.2 fun h => ?_)
    rw [foundOf_lost s k h] at hf
    cases hf
  | uncorr => exact takeUncorr_spares s _ _ e _
  | miscorr => exact takeWrong_spares s _ k
  | silent => exact takeWrong_spares s _ k

theorem readCws_spares (l : List (Nat × CwErr)) (s : State) : Spares a s (readCws s l).1 := by
  induction l generalizing s with
  | nil => exact .refl s
  | cons x l ih =>
    have hx := readCw_spares (a := a) s x.1 x.2
    rw [readCws]
    generalize readCw s x.1 x.2 = r at hx ⊢
    obtain ⟨t, _ | _⟩ := r
    · exact hx.trans (ih t)
    · exact hx

theorem readEvery_spares (l : List (Nat × CwErr)) (s : State) : Spares a s (readEvery s l).1 := by
  induction l generalizing s with
  | nil => exact .refl s
  | cons x l ih => exact (readCw_spares s x.1 x.2).trans (ih _)

/-! ## Reads under the codes -/

theorem poke_spares (s : State) {b : Nat} {bs : List Byte} (h : a < b ∨ b + bs.length ≤ a) : Spares a s (poke s b bs) :=
  fun ht => ⟨ht, (kget_memPut _ _ _ _).trans (if_neg (by omega))⟩

/-- A sector that the Granary restores lies in the object range. -/
theorem restoreSector_spares (s : State) {b : Nat} (hb : isObj b = true) : Spares a s (restoreSector s b) := by
  intro ht
  obtain ⟨hcrib, -⟩ := isCrib_iff.1 ht.1
  have hlow : b < 0xC000000000 := of_decide_eq_true hb
  have hrest : Spares a s (dropSector s b) := dropSector_spares s b
  refine (hrest.trans ((spares_of_eq rfl rfl rfl : Spares a _ { dropSector s b with
    loft := { s.loft with stale := s.loft.stale.filter fun (q, _) => !(b ≤ q && q < b + 512) } }).trans
    (.foldl_mem _ _ fun u x hx => poke_spares u ?_))) ht
  have hx' := (List.mem_filter.1 hx).2
  simp only [Bool.and_eq_true, decide_eq_true_eq] at hx'
  rw [List.length_singleton]
  omega

theorem refilled_spares (b : Nat) (s : State) : Spares a s (refilled b s) := by
  refine (Spares.trans (.foldl_mem _ s fun u q hq => restoreSector_spares u ?_) (bump_spares _ _ _)).trans (record_spares _ _)
  have hq' := (List.mem_filter.1 hq).2
  simp only [refillable, Bool.and_eq_true] at hq'
  exact hq'.1.1.1

section
variable {β : Type} (π : β → State) {s : State}

theorem onRead_spares {f : State → Nat → β} {g : State → β} {r : State × Option Nat} (hr : Spares a s r.1)
    (hf : ∀ t b, Spares a t (π (f t b))) (hg : ∀ t, Spares a t (π (g t))) : Spares a s (π (onRead f g r)) := by
  obtain ⟨t, _ | b⟩ := r
  · exact hr.trans (hg t)
  · exact hr.trans (hf t b)

theorem onStored_spares {f : State → Bad → β} {g : State → β} {r : State × Option Bad} (hr : Spares a s r.1)
    (hf : ∀ t b, Spares a t (π (f t b))) (hg : ∀ t, Spares a t (π (g t))) : Spares a s (π (onStored f g r)) := by
  obtain ⟨t, _ | b⟩ := r
  · exact hr.trans (hg t)
  · exact hr.trans (hf t b)

end

theorem refill_spares (s : State) (b : Nat) : Spares a s (refill s b).1 := by
  simp only [refill_eq]
  exact onRead_spares Prod.fst (readCws_spares _ s) (fun t _ => .refl t) (refilled_spares b)

theorem refillAgain_spares {again : State → State × Option Bad} (h : ∀ t, Spares a t (again t).1) (s : State) (b : Nat) :
    Spares a s (refillAgain again s b).1 := onStored_spares Prod.fst (refill_spares s b) (fun t _ => .refl t) h

theorem lparMet_spares {again : State → State × Option Bad} (h : ∀ t, Spares a t (again t).1) (s : State) (q : Option Nat) :
    Spares a s (lparMet again s q).1 := by
  cases q with
  | none => exact .refl s
  | some q =>
    refine (takeUncorr_spares s 1 q {} true).trans ?_
    unfold lparMet
    dsimp only
    split
    · exact refillAgain_spares h _ q
    · exact .refl _

theorem checkCws_spares (cws : State → List (Nat × CwErr)) (lp : State → Option Nat) (cls fuel : Nat) (s : State) :
    Spares a s (checkCws cws lp cls fuel s).1 := by
  induction fuel generalizing s with
  | zero => exact .refl s
  | succ k ih =>
    rw [checkCws_succ]
    refine onRead_spares Prod.fst (readCws_spares _ s) (fun t b => ?_) fun t => lparMet_spares ih t _
    split
    · exact refillAgain_spares ih t b
    · exact .refl t

theorem checkParts_spares (l : List (Nat × Nat)) (s : State) : Spares a s (checkParts s l).1 := by
  induction l generalizing s with
  | nil => exact .refl s
  | cons x l ih =>
    have h : Spares a s (checkRange 9 s (classOf s x.1) x.1 x.2).1 := checkCws_spares _ _ _ _ s
    rw [checkParts]
    generalize checkRange 9 s (classOf s x.1) x.1 x.2 = r at h ⊢
    obtain ⟨t, _ | _⟩ := r
    · exact h.trans (ih t)
    · exact h

theorem checkRead_spares (s : State) (b n : Nat) : Spares a s (checkRead s b n).1 := by
  unfold checkRead
  cases uninitIn s b n with
  | none => exact checkParts_spares _ s
  | some u => exact (bump_spares s _ _).trans (raise_spares _ _ _)

theorem loadRaw_spares (s : State) (b n : Nat) : Spares a s (loadRaw s b n).1 := by
  simp only [loadRaw_eq]
  exact onStored_spares Prod.fst (checkRead_spares s b n) (fun t _ => .refl t) fun t => .refl t

/-! ## Uses of lines -/

theorem dropRake_spares (s : State) (l : Nat) : Spares a s (dropRake s l) := by
  unfold dropRake
  dsimp only
  split
  · refine spares_of_cw rfl rfl fun k e hk he _ => ?_
    obtain ⟨⟨q, x⟩, hx, heq⟩ := List.mem_map.1 he
    split at heq
    · next hdue =>
      cases heq
      simp only [Bool.and_eq_true, decide_eq_true_eq] at hdue
      omega
    · cases heq
      exact hx
  · exact .refl s

theorem useLine_spares (s : State) (l : Nat) : Spares a s (useLine s l) := by
  unfold useLine
  dsimp only
  split
  · exact dropRake_spares s l
  · exact (dropRake_spares s l).trans (spares_of_eq rfl rfl rfl)

theorem endRound_spares (s : State) (l : Nat) : Spares a s (endRound s l) := by
  unfold endRound
  split
  · exact .refl s
  · exact .ite (spares_of_eq rfl rfl rfl) (spares_of_eq rfl rfl rfl)

theorem accessLine_spares (s : State) (l : Nat) : Spares a s (accessLine s l) := by
  unfold accessLine
  refine .ite (spares_of_eq rfl rfl rfl) ?_
  split
  · exact useLine_spares s l
  · exact .ite ((endRound_spares s l).trans (useLine_spares _ l)) (spares_of_eq rfl rfl rfl)

theorem accessMem_spares (s : State) (b n : Nat) : Spares a s (accessMem s b n) := .foldl accessLine_spares _ s

theorem load_spares (s : State) (b n : Nat) : Spares a s (load s b n).1 := (accessMem_spares s b n).trans (loadRaw_spares _ b n)

/-! ## Writes under the codes -/

theorem flipCw_spares (s : State) (cls b : Nat) (ps : List Nat) : Spares a s (flipCw s cls b ps) := by
  rintro ⟨hcrib, hfree, e, he, hlost⟩
  refine ⟨⟨hcrib, hfree, ?_⟩, rfl⟩
  obtain heq | hmem := eq_or_mem_of_mem_kset (d := fun _ => {}) (m := s.ecc.cw) he
  · obtain ⟨hkey, rfl⟩ := Prod.mk.inj heq
    exact ⟨_, mem_of_lost (hkey ▸ hlost), hkey ▸ hlost⟩
  · exact ⟨e, hmem, hlost⟩
where
  mem_of_lost {m : KMap CwErr} {k : Nat} (h : (kget (fun _ => {}) m k).lost = true) : (k, kget (fun _ => {}) m k) ∈ m := by
    induction m with
    | nil => cases h
    | cons y m ih =>
      unfold kget at h ⊢
      split
      · next hy => exact hy ▸ List.mem_cons_self
      · next hy =>
        rw [if_neg hy] at h
        exact List.mem_cons_of_mem _ (ih h)

theorem applyFlips_spares (s : State) (cls b n : Nat) : Spares a s (applyFlips s cls b n) := by
  have hloft (x : Nat) : Spares a s (flipLoft s b x) := by
    unfold flipLoft
    dsimp only
    exact .ite (((flipCw_spares s _ _ _).trans (.ite (lparFlip_spares _ _ _) (.refl _))).trans (setFld_spares _ _ _ _)) (.refl s)
  rw [applyFlips_eq]
  refine .ite (.refl s) (.ite ?_ (.ite ?_ ?_))
  · exact .ite ((flipCw_spares s _ _ _).trans (setFld_spares _ _ _ _)) (.refl s)
  · cases flipStart s b n with
    | none => exact .refl s
    | some x => exact hloft x
  · exact .ite ((flipCw_spares s _ _ _).trans (setFld_spares _ _ _ _)) (.refl s)

theorem partMarked_spares (b : Nat) (bs : List Byte) (cls : Nat) (s : State) : Spares a s (partMarked b bs cls s) := by
  rw [partMarked_form]
  exact spares_of_eq rfl rfl rfl

theorem partFlipped_spares (b n cls : Nat) (s : State) : Spares a s (partFlipped b n cls s) :=
  .ite (((clearCws_spares s _ _ _).trans (applyFlips_spares _ _ _ _)).trans (applyFlips_spares _ _ _ _))
    (applyFlips_spares s cls b n)

/-- A part that holds byte `a` lies in a Crib, and covers the codeword of `a`. -/
theorem classOf_crib (s : State) {b : Nat} (h : isCrib a = true) (hb : b / 4096 = a / 4096) : classOf s b = 0 := by
  have hcrib := isCrib_iff.1 h
  exact if_pos (isCrib_iff.2 (by omega))

theorem partPut_spares {b : Nat} {bs : List Byte} (u s : State) (h : b % 4096 + bs.length ≤ 4096) :
    Spares a s (partPut b bs (classOf u b) s) := by
  by_cases hin : b ≤ a ∧ a < b + bs.length
  · rintro ⟨hcrib, -, e, he, -⟩
    have hkept := (List.mem_filter.1 he).2
    rw [classOf_crib u hcrib (by omega)] at hkept
    simp only [cwSize, cdiv, cwKey, Bool.not_eq_true', Bool.and_eq_false_iff, decide_eq_false_iff_not] at hkept
    omega
  · exact ((partMarked_spares b bs _ s).trans (clearCws_spares _ _ _ _)).trans (poke_spares _ (by omega))

theorem storePart_spares (s : State) {b : Nat} {bs : List Byte} (h : b % 4096 + bs.length ≤ 4096) :
    Spares a s (storePart s b bs).1 := by
  simp only [storePart_eq]
  exact onStored_spares Prod.fst (checkCws_spares _ _ _ _ s) (fun t _ => .refl t) fun t =>
    (partPut_spares s t h).trans (partFlipped_spares b _ _ _)

theorem linesOf_inLine {fuel b n : Nat} {x : Nat × Nat} (h : x ∈ linesOf fuel b n) : x.1 % 4096 + x.2 ≤ 4096 := by
  induction fuel generalizing b n with
  | zero => cases h
  | succ fuel ih =>
    unfold linesOf at h
    split at h
    · cases h
    · obtain rfl | h := List.mem_cons.1 h
      · have := Nat.min_le_right n (4096 - b % 4096)
        dsimp only
        omega
      · exact ih h

theorem storeParts_spares {l : List (Nat × Nat)} (h : ∀ x ∈ l, x.1 % 4096 + x.2 ≤ 4096) (s : State) (bs : List Byte) :
    Spares a s (storeParts s bs l).1 := by
  induction l generalizing s bs with
  | nil => exact .refl s
  | cons x l ih =>
    obtain ⟨hx, hl⟩ := List.forall_mem_cons.1 h
    rw [storeParts_cons]
    refine onStored_spares Prod.fst (storePart_spares s ?_) (fun t _ => .refl t) fun t => ih hl t _
    have := List.length_take_le x.2 bs
    omega

/-- A unit filled before its first write takes whole codewords of the Cribs with it. -/
theorem initUnitWrite_spares (s : State) {u : Nat} (hu : u % 8 = 0) : Spares a s (initUnitWrite s u) := by
  have hn : initBytes u % 8 = 0 := by unfold initBytes; split <;> rfl
  unfold initUnitWrite
  refine .ite (.refl s) ?_
  rintro ⟨hcrib, hfree, e, he, hlost⟩
  obtain ⟨hmem, hkept⟩ := List.mem_filter.1 he
  refine ⟨⟨hcrib, hfree, e, hmem, hlost⟩, kget_filter _ _ fun v => ?_⟩
  simp only [cwKey, cwSize, Bool.not_eq_true', Bool.and_eq_false_iff, decide_eq_false_iff_not] at hkept ⊢
  omega
where
  kget_filter {α : Type} (d : Nat → α) (m : KMap α) {p : Nat × α → Bool} (h : ∀ v, p (a, v) = true) :
      kget d (m.filter p) a = kget d m a := by
    induction m with
    | nil => rfl
    | cons y m ih =>
      obtain ⟨k, v⟩ := y
      by_cases hk : k = a
      · subst hk
        simp [h, kget]
      · rw [List.filter_cons]
        split <;> simp [kget, hk, ih]

theorem initWrite_spares (s : State) (b n : Nat) : Spares a s (initWrite s b n) := by
  have hunit (x : Nat) : initUnit x % 8 = 0 := by unfold initUnit; split <;> omega
  have hbytes : initBytes b % 8 = 0 := by unfold initBytes; split <;> rfl
  refine .ite (.foldl (fun u i => initUnitWrite_spares u ?_) _ s) (.refl s)
  rw [Nat.add_mod, hunit, Nat.mul_mod, hbytes, Nat.mul_zero]

theorem storeRaw_spares (s : State) (b : Nat) (bs : List Byte) : Spares a s (storeRaw s b bs).1 :=
  (initWrite_spares s _ _).trans (storeParts_spares (fun _ => linesOf_inLine) _ _)

theorem store_spares (s : State) (b : Nat) (bs : List Byte) : Spares a s (store s b bs).1 :=
  (accessMem_spares s _ _).trans (storeRaw_spares _ _ _)

theorem setTmap_spares (s : State) (r : PRec) (k v : Nat) : Spares a s (setTmap s r k v) := by
  simp only [setTmap_eq]
  exact onStored_spares id (storeRaw_spares s _ _) (fun t b => stopConsumer_spares t _ b _) .refl

theorem touchGrad_spares (s : State) (b n : Nat) : Spares a s (touchGrad s b n) := by
  refine .ite (.foldl (fun u j => ?_) _ s) (.refl s)
  unfold touchRec
  exact .ite (.refl u) (.foldl (fun _ _ => setTmap_spares _ _ _ _) _ u)

theorem storeSeg_spares (s : State) (b : Nat) (bs : List Byte) : Spares a s (storeSeg s b bs).1 := by
  simp only [storeSeg_eq]
  exact onStored_spares Prod.fst (store_spares s b bs) (fun t _ => .refl t) fun t => touchGrad_spares t _ _

theorem storeSegRaw_spares (s : State) (b : Nat) (bs : List Byte) : Spares a s (storeSegRaw s b bs).1 := by
  have h := storeRaw_spares (a := a) s b bs
  unfold storeSegRaw
  generalize storeRaw s b bs = r at h ⊢
  obtain ⟨t, _ | _⟩ := r
  · exact h.trans (touchGrad_spares t _ _)
  · exact h

end Sys2Proof.Machine
end

section
/-! PROOF. What a settling does (R285, R304, R310) spares a lost codeword too: lines that are asked for, rounds, carts and the
requests of other devices. -/

namespace Sys2Proof.Machine

variable {a : Nat}

/-! ## Lines written back -/

theorem writeBackSector_spares (l : Nat) (s : State) (j : Nat) : Spares a s (writeBackSector l s j) := by
  have hread := readEvery_spares (a := a) (cwIn s 1 (4096 * l + 512 * j) 512) s
  unfold writeBackSector
  dsimp only
  generalize readEvery s (cwIn s 1 (4096 * l + 512 * j) 512) = r at hread ⊢
  obtain ⟨t, bad⟩ := r
  generalize (lparIn t (4096 * l + 512 * j) 512).isSome = wrong
  dsimp only at hread ⊢
  have hmade (f : LoftSt → LoftSt) : Spares a s (clearCws (mapLoft
      (if wrong then takeUncorr t 1 (4096 * l + 512 * j) {} true else t) f) 2 (4096 * l + 512 * j) 512) :=
    ((hread.trans (.ite (takeUncorr_spares _ _ _ _ _) (.refl t))).trans (mapLoft_spares _ f)).trans (clearCws_spares _ _ _ _)
  have hkeys (p : Nat → Bool) : ∀ k ∈ ((List.range 8).map fun i => cwKey 2 (4096 * l + 512 * j + 64 * i)).filter p, k % 4 = 2 :=
    fun k hk => by
      obtain ⟨i, -, rfl⟩ := List.mem_map.1 (List.mem_filter.1 hk).1
      unfold cwKey
      omega
  have hgone (u : State) {ks : List Nat} (hk : ∀ k ∈ ks, k % 4 = 2) :
      Spares a u (ks.foldl (fun s k => setCw s k { lost := true }) u) :=
    .foldl_mem ks u fun v k hmem => setCw_spares v fun h => absurd (hk k hmem) (by omega)
  have htold {u : State} (h : Spares a s u) (r : Rec) : Spares a s (record (if stepOpen u then raiseBlight u srcUncorr else u) r) :=
    (h.trans (.ite (raiseBlight_regsAndSteps _ _).spares (.refl u))).trans (record_spares _ r)
  have hlost (f : LoftSt → LoftSt) (p : Nat → Bool) := (hmade f).trans (hgone _ (hkeys p))
  exact .ite ((hmade _).trans (applyFlips_spares _ _ _ _))
    (.ite (htold (hlost _ _) _) ((htold (hlost _ _) _).trans (endJob_spares _ _ _)))

theorem writeBack_spares (s : State) (l : Nat) : Spares a s (writeBack s l) := by
  unfold writeBack
  split
  · exact .refl s
  · exact (Spares.foldl (writeBackSector_spares l) _ s).trans (mapLoft_spares _ _)

theorem freeLine_spares (s : State) (l : Nat) : Spares a s (freeLine s l) :=
  ((writeBack_spares s l).trans (dropLoftCodes_spares _ l)).trans (mapLoft_spares _ _)

theorem evictOrdinary_spares (s : State) (l : Nat) (x : LineSt) : Spares a s (evictOrdinary s l x) :=
  .ite ((freeLine_spares s l).trans (mapLoft_spares _ _)) (freeLine_spares s l)

theorem dropStreamed_spares (s : State) (l : Nat) : Spares a s (dropStreamed s l) := by
  unfold dropStreamed
  split
  · exact .ite (freeLine_spares s l) (.refl s)
  · exact .refl s

/-! ## Lines asked for -/

theorem takeWay_spares (s : State) (l : Nat) : Spares a s (takeWay s l).1 := by
  unfold takeWay
  split
  · exact .refl s
  · split
    · exact evictOrdinary_spares s _ _
    · exact .refl s

theorem missOn_spares (s : State) (l : Nat) : Spares a s (missOn s l).1 := by
  have hway := takeWay_spares (a := a) s l
  unfold missOn
  dsimp only
  split
  · split
    · exact (mapLoft_spares s _).trans (bump_spares _ _ _)
    · exact .refl s
  · split
    · exact .refl s
    · generalize takeWay s l = r at hway ⊢
      obtain ⟨t, _ | w⟩ := r
      · exact hway
      · exact ((hway.trans (mapLoft_spares _ _)).trans (bump_spares _ _ _)).trans (setFld_spares _ _ _ _)

theorem closeRound_spares (s : State) (l : Nat) : Spares a s (closeRound s l).1 := by
  unfold closeRound
  split
  · exact .refl s
  · split
    · exact (endRound_spares s l).trans (useLine_spares _ l)
    · exact mapLoft_spares s _

theorem requestLine_spares (r : State × Bool × List Nat) (l : Nat) : Spares a r.1 (requestLine r l).1 := by
  obtain ⟨s, ok, seen⟩ := r
  have hclosed : Spares a s (if sliceCopies s l then (s, false, false) else closeRound (dropRake s l) l).1 := by
    split
    · exact .refl s
    · exact (dropRake_spares s l).trans (closeRound_spares _ l)
  unfold requestLine
  dsimp only
  generalize (if sliceCopies s l then (s, false, false) else closeRound (dropRake s l) l) = q at hclosed ⊢
  obtain ⟨t, free, around⟩ := q
  dsimp only at hclosed ⊢
  split
  · exact hclosed
  have hdropped := hclosed.trans (dropStreamed_spares t l)
  split
  · exact hdropped
  · have hused := hdropped.trans (useLine_spares _ l)
    split
    · exact hused
    · exact hused.trans (bump_spares _ _ _)
  · split
    · exact hdropped
    · exact hdropped.trans (missOn_spares _ l)

theorem request_spares (s : State) (b n : Nat) (seen : List Nat) : Spares a s (request s b n seen).1 :=
  List.foldlRecOn (motive := fun r => Spares a s r.1) (roundLines s b n) requestLine (.refl s) fun r h l _ =>
    h.trans (requestLine_spares r l)

/-! ## Words of the control space read -/

theorem readReg_spares (s : State) (r : Nat) : Spares a s (readReg s r).1 := by
  unfold readReg
  split
  · exact spares_of_eq rfl rfl rfl
  · split
    · exact spares_of_eq rfl rfl rfl
    · exact .refl s

theorem ctlRead_spares (s : State) (r size : Nat) : Spares a s (ctlRead s r size).1 := by
  unfold ctlRead
  split
  · split
    · split
      · exact raise_spares s _ _
      · exact .refl s
    · exact raise_spares s _ _
  · split
    · exact raise_spares s _ _
    · split
      · exact raise_spares s _ _
      · dsimp only
        split
        · exact (readReg_spares s r).trans (readReg_spares _ _)
        · exact readReg_spares s r

/-- The words are read by whatever reads a register: the equations of `ctlWords` would evaluate the place of one. -/
theorem ctlWords_spares (fuel : Nat) (s : State) (b n : Nat) : Spares a s (ctlWords s fuel b n).1 := by
  obtain ⟨read, heq, hread⟩ : ∃ read, read = ctlRead ∧ ∀ u r n, Spares a u (read u r n).1 := ⟨_, rfl, ctlRead_spares⟩
  delta ctlWords ctlWords._f
  rw [← heq]
  clear heq
  induction fuel generalizing s b n with
  | zero => exact .refl s
  | succ fuel ih =>
    dsimp only
    split
    · exact .refl s
    · split
      · exact (hread s _ 4).trans (ih _ _ _)
      · exact (raise_spares s _ _).trans (ih _ _ _)

theorem readBytes_spares (s : State) (b n : Nat) : Spares a s (readBytes s b n).1 := by
  unfold readBytes
  split
  · exact ctlWords_spares _ s b n
  · exact load_spares s b n

/-! ## Segments of carts -/

theorem readFor_spares (s : State) (seq b n : Nat) : Spares a s (readFor s seq b n).1 :=
  (readBytes_spares s b n).trans (stamp_regsAndSteps s seq true _).spares

theorem storeFor_spares (s : State) (seq b : Nat) (bs : List Byte) : Spares a s (storeFor s seq b bs).1 :=
  (storeSeg_spares s b bs).trans (stamp_regsAndSteps s seq true _).spares

theorem stampStop_spares (s : State) (b : Bad) (seq : Nat) : Spares a s (stampStop s b seq) :=
  (stopConsumer_spares s false b seq).trans (stamp_regsAndSteps s seq true _).spares

theorem mapCart_spares (s : State) (id : Nat) (f : CartSt → CartSt) : Spares a s (mapCart s id f) := by
  unfold mapCart
  split
  · exact .refl s
  · exact (setCart_cartsOnly s id _).spares

theorem setSeg_spares (s : State) (id i : Nat) (x : SegSt) : Spares a s (setSeg s id i x) := mapCart_spares s id _

theorem syncCart_spares (s : State) (id : Nat) : Spares a s (syncCart s id) := (syncCart_frame s id).1.spares

theorem segUncorr_spares (s : State) (id seq : Nat) (b : Bad) : Spares a s (segUncorr s id seq b) :=
  ((endCart_cartsOnly s id).spares.trans (stopConsumer_spares _ _ _ _)).trans (stamp_regsAndSteps s seq true _).spares

theorem landSeg_spares (s : State) (id i seq b : Nat) (bs : List Byte) : Spares a s (landSeg s id i seq b bs) := by
  have hstore := storeFor_spares (a := a) s seq b bs
  unfold landSeg
  split
  · exact (mapCart_spares s id _).trans (setSeg_spares _ _ _ _)
  · generalize storeFor s seq b bs = r at hstore ⊢
    obtain ⟨t, _ | _⟩ := r
    · exact hstore.trans (setSeg_spares t _ _ _)
    · exact hstore.trans (segUncorr_spares t _ _ _)

theorem numEv_spares (s : State) (set : Nat) (e : Ev) : Spares a s (numEv s set e) := by
  rw [numEv_form]; exact spares_of_eq rfl rfl rfl

theorem numEvB_spares (s : State) (set : Nat) (e : Ev) : Spares a s (numEvB s set e) :=
  .ite ((numEv_spares s set e).trans (raiseBlight_regsAndSteps _ _).spares) (numEv_spares s set e)

theorem atomicAt_spares (s : State) (dtype rop b : Nat) (xs : List Byte) : Spares a s (atomicAt s dtype rop b xs).1 := by
  have hload := load_spares (a := a) s b (if rop = 3 then xs.length / 2 else xs.length)
  unfold atomicAt
  dsimp only
  generalize load s b (if rop = 3 then xs.length / 2 else xs.length) = r at hload ⊢
  obtain ⟨t, _ | old⟩ := r
  · exact hload
  · dsimp only at hload ⊢
    generalize atomicOps (strictMode t) dtype rop (dtypeSize dtype) old xs = q
    have hstore := storeSeg_spares (a := a) t b q.1
    generalize storeSeg t b q.1 = r at hstore ⊢
    obtain ⟨u, _ | _⟩ := r
    · exact (hload.trans hstore).trans (numEv_spares u _ _)
    · exact hload.trans hstore

theorem atomicCtl_spares (s : State) (id i : Nat) (c : CartSt) (b : Nat) (xs : List Byte) :
    Spares a s (atomicCtl s id i c b xs).1 := by
  have hread := ctlWords_spares (a := a) (segDstLen c i + 1) s b (segDstLen c i)
  unfold atomicCtl
  dsimp only
  generalize ctlWords s (segDstLen c i + 1) b (segDstLen c i) = r at hread ⊢
  exact hread.trans (mapCart_spares _ _ _)

theorem acceptObject_spares (s : State) (id : Nat) (c : CartSt) (offer : List Byte) :
    Spares a s (acceptObject s id c offer) := (mapLoft_spares s _).trans (setSeg_spares _ _ _ _)

/-! ## Rounds -/

theorem noteApplied_spares (s : State) (c : Contrib) : Spares a s (noteApplied s c) := by
  unfold noteApplied
  split
  · exact spares_of_eq rfl rfl rfl
  · split
    · exact .refl s
    · exact (setSeg_spares s _ _ _).trans (syncCart_spares _ _)

theorem badSector_spares (s : State) (l j : Nat) : Spares a s (badSector s l j) := by
  unfold badSector
  split
  · exact .refl s
  · exact mapLoft_spares s _

theorem applyContrib_spares (s : State) (c : Contrib) : Spares a s (applyContrib s c) := by
  have hstop (u : State) (b : Bad) :
      Spares a u (noteApplied (badSector (stampStop u b c.seq) (lineNo c.addr) (c.addr % 4096 / 512)) c) :=
    ((stampStop_spares u b _).trans (badSector_spares _ _ _)).trans (noteApplied_spares _ _)
  unfold applyContrib
  dsimp only
  have hused := (useLine_spares (a := a) s (lineNo c.addr)).trans (bump_spares _ (Reg.LFT_REDAPPLY (sliceOf c.addr)) 1)
  generalize bump (useLine s (lineNo c.addr)) (Reg.LFT_REDAPPLY (sliceOf c.addr)) 1 = t at hused ⊢
  refine hused.trans (.ite (noteApplied_spares t c) ?_)
  have hload := (loadRaw_spares (a := a) t c.addr c.data.length).trans (stamp_regsAndSteps t c.seq true _).spares
  generalize loadRaw t c.addr c.data.length = r at hload ⊢
  obtain ⟨u, b | old⟩ := r
  · exact hload.trans (hstop _ b)
  · dsimp only at hload ⊢
    generalize stamp t c.seq true u = u at hload ⊢
    generalize elemOps (strictMode u) c.dtype c.rop (dtypeSize c.dtype) old c.data (c.data.length / dtypeSize c.dtype) = q
    have hstore := (storeSegRaw_spares (a := a) u c.addr q.1).trans (stamp_regsAndSteps u c.seq true _).spares
    generalize storeSegRaw u c.addr q.1 = r at hstore ⊢
    obtain ⟨v, _ | b⟩ := r
    · exact ((hload.trans hstore).trans (numEvB_spares _ _ _)).trans (noteApplied_spares _ _)
    · exact (hload.trans hstore).trans (hstop _ b)

theorem drainRound_spares (fuel : Nat) (s : State) (l : Nat) : Spares a s (drainRound fuel s l) := by
  induction fuel generalizing s with
  | zero => exact .refl s
  | succ fuel ih =>
    unfold drainRound
    split
    · exact .refl s
    · split
      · exact .refl s
      · split
        · exact .refl s
        · exact ((mapLoft_spares s _).trans (applyContrib_spares _ _)).trans (ih _)

theorem openRound_spares (s : State) (b : Nat) : Spares a s (openRound s b) := by
  have hdivert (t : State) (r : Round) (k : Nat) : Spares a t (if 256 ≤ missOcc t k then t else
      raise (bump (syncMissocc (mapLoft t fun lo => { lo with rounds := aput lo.rounds (lineNo b) r }) k) Reg.LFT_DIVERTS 1)
        Reg.LFT_INTSTAT Fld.LFT_INTSTAT_DIVERT.bit) :=
    .ite (.refl t) (((mapLoft_spares t _).trans (setFld_spares _ _ _ _)).trans ((bump_spares _ _ _).trans (raise_spares _ _ _)))
  have hmiss := missOn_spares (a := a) s (lineNo b)
  unfold openRound
  dsimp only
  refine .ite (mapLoft_spares s _) (.ite (hdivert s _ _) (.ite (mapLoft_spares s _) (.ite ?_ (hdivert s _ _))))
  generalize missOn s (lineNo b) = r at hmiss ⊢
  obtain ⟨t, _ | _⟩ := r
  · exact hmiss.trans (.ite (mapLoft_spares t _) (.refl t))
  · exact hmiss.trans (mapLoft_spares t _)

theorem contribute_spares (s : State) (c : Contrib) : Spares a s (contribute s c).1 := by
  have hopened : Spares a s
      (if (roundOn s (lineNo c.addr)).isSome || sliceCopies s (lineNo c.addr) then s else openRound s c.addr) :=
    .ite (.refl s) (openRound_spares s _)
  unfold contribute
  dsimp only
  generalize (if (roundOn s (lineNo c.addr)).isSome || sliceCopies s (lineNo c.addr) then s else openRound s c.addr) = t
    at hopened ⊢
  refine hopened.trans ?_
  split
  · exact .refl t
  · split
    · exact (mapLoft_spares t _).trans (bump_spares _ _ _)
    · exact (mapLoft_spares t _).trans (drainRound_spares _ _ _)

theorem finishClosing_spares (s : State) : Spares a s (finishClosing s) :=
  .foldl (fun u (x : Nat × Round) => (endRound_spares u x.1).trans (useLine_spares _ x.1)) _ s

/-! ## Carts that stay on this device -/

theorem segReady_spares (s : State) (c : CartSt) (i : Nat) (seen : List Nat) : Spares a s (segReady s c i seen).1 := by
  unfold segReady
  split
  · exact .refl s
  · have hsrc := request_spares (a := a) s (gOffset c.src + 512 * i) (segLen c i) seen
    dsimp only
    generalize request s (gOffset c.src + 512 * i) (segLen c i) seen = r at hsrc ⊢
    split
    · exact hsrc
    · have hdst := hsrc.trans (request_spares r.1 (gOffset c.dst + segDst c i) (segDstLen c i) r.2.2)
      generalize request r.1 (gOffset c.dst + segDst c i) (segDstLen c i) r.2.2 = q at hdst ⊢
      split
      · exact hdst.trans (request_spares q.1 _ _ _)
      · exact hdst

theorem runSeg_spares (s : State) (id : Nat) (c : CartSt) (i : Nat) : Spares a s (runSeg s id c i).1 := by
  have hread : Spares a s (if c.op = 3 && c.objop ≠ 0 then (s, .ok [])
      else readFor s ((c.cseq + i) % 2 ^ 32) (gOffset c.src + 512 * i) (segLen c i)).1 := by
    split
    · exact .refl s
    · exact readFor_spares s _ _ _
  unfold runSeg
  dsimp only
  generalize (if c.op = 3 && c.objop ≠ 0 then (s, .ok [])
      else readFor s ((c.cseq + i) % 2 ^ 32) (gOffset c.src + 512 * i) (segLen c i)) = r at hread ⊢
  obtain ⟨t, b | bs⟩ := r
  · exact hread.trans (segUncorr_spares t _ _ _)
  refine hread.trans ?_
  clear hread
  dsimp only
  split
  · exact landSeg_spares t _ _ _ _ _
  · split
    · have hold := atomicCtl_spares (a := a) t id i c (gOffset c.dst + segDst c i) bs
      generalize atomicCtl t id i c (gOffset c.dst + segDst c i) bs = q at hold ⊢
      exact hold.trans (.ite (landSeg_spares _ _ _ _ _ _) (setSeg_spares _ _ _ _))
    · have hdone := (atomicAt_spares (a := a) t c.dtype c.rop (gOffset c.dst + segDst c i) bs).trans
        (stamp_regsAndSteps t ((c.cseq + i) % 2 ^ 32) true _).spares
      generalize atomicAt t c.dtype c.rop (gOffset c.dst + segDst c i) bs = q at hdone ⊢
      obtain ⟨u, b | old⟩ := q
      · exact hdone.trans (segUncorr_spares _ _ _ _)
      · exact hdone.trans (.ite (landSeg_spares _ _ _ _ _ _) (setSeg_spares _ _ _ _))
  · have hcontrib := contribute_spares (a := a) t { cart := id, seq := (c.cseq + i) % 2 ^ 32, addr := gOffset c.dst + segDst c i
                                                    dtype := c.dtype, rop := c.rop, data := bs, origin := none }
    generalize contribute t { cart := id, seq := (c.cseq + i) % 2 ^ 32, addr := gOffset c.dst + segDst c i
                              dtype := c.dtype, rop := c.rop, data := bs, origin := none } = q at hcontrib ⊢
    obtain ⟨u, _ | _⟩ := q
    · exact hcontrib
    · refine hcontrib.trans ?_
      dsimp only
      split
      · exact .ite (setSeg_spares u _ _ _) (.refl u)
      · exact .refl u
  · exact acceptObject_spares t _ _ _

theorem pumpSegs_spares (id : Nat) (is : List Nat) (s : State) : Spares a s (pumpSegs id is s) := by
  induction is generalizing s with
  | nil => exact .refl s
  | cons i is ih =>
    unfold pumpSegs
    split
    · exact .refl s
    next c _ =>
      split
      · exact .refl s
      next x _ =>
        split
        · exact ih s
        · have hready := segReady_spares (a := a) s c i (segSeen x)
          generalize segReady s c i (segSeen x) = r at hready ⊢
          obtain ⟨t, _ | _, seen⟩ := r
          · exact hready.trans (setSeg_spares t _ _ _)
          · have hrun := hready.trans (runSeg_spares t id c i)
            dsimp only
            generalize runSeg t id c i = q at hrun ⊢
            obtain ⟨u, _ | _⟩ := q
            · exact hrun.trans (setSeg_spares u _ _ _)
            · exact hrun.trans (ih u)

theorem pumpCart_spares (s : State) (id : Nat) : Spares a s (pumpCart s id) := by
  unfold pumpCart
  split
  · exact .refl s
  · exact .ite (.refl s) ((pumpSegs_spares id _ s).trans (syncCart_spares _ _))

theorem pump_spares (s : State) : Spares a s (pump s) := by
  have hall (fuel : Nat) (t : State) : Spares a t (pumpAll fuel t) := by
    induction fuel generalizing t with
    | zero => exact .refl t
    | succ fuel ih =>
      exact ((finishClosing_spares t).trans
        (.foldl (fun u (x : Nat × CartSt) => (finishClosing_spares u).trans (pumpCart_spares _ x.1)) _ _)).trans (ih _)
  exact hall _ s

/-! ## Requests of other devices -/

theorem routeOut_spares (s : State) (k : Packet) : Spares a s (routeOut s k) := by
  unfold routeOut
  split
  · exact .ite (spares_of_eq rfl rfl rfl) (.refl s)
  · exact bump_spares s _ _

theorem mapIn_spares (s : State) (src id : Nat) (f : InCart → InCart) : Spares a s (mapIn s src id f) := spares_of_eq rfl rfl rfl

theorem answerWith_spares (s : State) (k : Packet) (op : Nat) (bs : List Byte) : Spares a s (answerWith s k op bs) :=
  routeOut_spares s _

theorem inUncorr_spares (s : State) (k : Packet) (b : Bad) : Spares a s (inUncorr s k b) :=
  (stampStop_spares s b _).trans (mapIn_spares _ _ _ _)

/-- A message for the own control space lies above the Cribs. -/
theorem mailbox_spares (s : State) {k : Packet} (h : isCtl k.addr = true) :
    Spares a s { s with mem := memPut s.mem k.addr k.payload } := by
  intro ht
  obtain ⟨-, hcrib⟩ := isCrib_iff.1 ht.1
  have hctl : 0xF000000000 ≤ k.addr := of_decide_eq_true (Bool.and_eq_true_iff.1 h).1
  exact poke_spares s (.inl (by omega)) ht

theorem serve_spares (s : State) (k : Packet) : Spares a s (serve s k) := by
  have hnoted (u : State) : Spares a u (serve.noteAppliedIn u k) := mapIn_spares u _ _ _
  unfold serve
  split
  · split
    · exact answerWith_spares s _ _ _
    · have hread := readFor_spares (a := a) s k.cseq k.addr (reqLen k)
      generalize readFor s k.cseq k.addr (reqLen k) = r at hread ⊢
      obtain ⟨t, b | bs⟩ := r
      · exact hread.trans (stampStop_spares t b _)
      · exact hread.trans (answerWith_spares t _ _ _)
  split
  · split
    next hctl => exact ((mailbox_spares s hctl).trans (raise_spares _ _ _)).trans (hnoted _)
    · have hstore := storeFor_spares (a := a) s k.cseq k.addr k.payload
      generalize storeFor s k.cseq k.addr k.payload = r at hstore ⊢
      obtain ⟨t, _ | b⟩ := r
      · exact hstore.trans (hnoted t)
      · exact hstore.trans (inUncorr_spares t _ _)
  split
  · have hdone := (atomicAt_spares (a := a) s k.dtype k.rop k.addr k.payload).trans (stamp_regsAndSteps s k.cseq true _).spares
    dsimp only
    generalize atomicAt s k.dtype k.rop k.addr k.payload = r at hdone ⊢
    obtain ⟨t, b | old⟩ := r
    · exact hdone.trans (inUncorr_spares _ _ _)
    · exact (hdone.trans (.ite (answerWith_spares _ _ _ _) (.refl _))).trans (hnoted _)
  · split
    · exact .refl s
    · exact .ite (.refl s) (.ite ((acceptObject_spares s _ _ _).trans (syncCart_spares _ _)) (landSeg_spares s _ _ _ _ _))

theorem tryServe_spares (s : State) (k : Packet) (seen : List Nat) : Spares a s (tryServe s k seen).1 := by
  unfold tryServe
  dsimp only
  split
  · exact (mapLoft_spares s _).trans (contribute_spares _ _)
  split
  · exact serve_spares s k
  · generalize (if k.op = opReadrsp || k.op = opAtomrsp then k.payload.length else reqLen k) = n
    have hready := request_spares (a := a) s (reqPlace s k) n seen
    generalize request s (reqPlace s k) n seen = r at hready ⊢
    obtain ⟨t, _ | _, seen'⟩ := r
    · exact hready
    · exact hready.trans (serve_spares t k)

theorem retryWaiting_spares (l kept : List (Nat × Packet × List Nat)) (s : State) : Spares a s (retryWaiting l kept s) := by
  induction l generalizing kept s with
  | nil => exact mapLoft_spares s _
  | cons x l ih =>
    obtain ⟨p, k, seen⟩ := x
    have hserved := tryServe_spares (a := a) s k seen
    unfold retryWaiting
    split
    · exact ih _ s
    · generalize tryServe s k seen = r at hserved ⊢
      obtain ⟨t, _ | _, seen'⟩ := r
      · exact hserved.trans (ih _ t)
      · exact (hserved.trans (spares_of_eq rfl rfl rfl : Spares a t (creditBack t p k))).trans (ih _ _)

/-! ## The settling -/

/-- An acknowledged cart draws a free value. -/
theorem settleIn_spares (s : State) : Spares a s (settleIn s) := by
  have hdrawn (u : State) : Spares a u { u with free := u.free + 1 } := by
    rintro ⟨-, hfree, -⟩
    exact absurd hfree (Nat.succ_ne_zero _)
  have hsent (u : State) (w : Nat) : Spares a u (sendField u w) := .ite (spares_of_eq rfl rfl rfl) (.refl u)
  exact Spares.trans (spares_of_eq rfl rfl rfl) (.foldl (fun u x => ((hdrawn u).trans (hsent _ _)).trans (routeOut_spares _ _)) _ _)

theorem wainSettle_spares (s : State) : Spares a s (wainSettle s) := by
  have hrest : Spares a s (setFld { s with wain := { s.wain with carts := [] } } Reg.WAN_STATUS Fld.WAN_STATUS_BUSY 0) :=
    spares_of_eq rfl rfl rfl
  have herror (u : State) : Spares a u (wainError u) :=
    Spares.trans (spares_of_eq rfl rfl rfl) (endJob_spares (raise (setFld { u with wain := { u.wain with walking := false } }
      Reg.WAN_STATUS Fld.WAN_STATUS_BUSY 0) Reg.WAN_INTSTAT Fld.WAN_INTSTAT_ERR.bit) 7 0)
  exact .ite (.ite (hrest.trans (herror _)) hrest) (.refl s)

/-- While its codeword is lost, a byte of a Crib is not written by what goes on after a command. -/
theorem settle_spares (s : State) : Spares a s (settle s) :=
  ((((finishClosing_spares s).trans (mapLoft_spares _ _)).trans (retryWaiting_spares _ _ _)).trans (pump_spares _)).trans
    ((settleIn_spares _).trans (wainSettle_spares _))

end Sys2Proof.Machine
end

section
/-! PROOF. A layer that begins to be mapped out (R505) demotes an object that holds a line there (R315), and a demotion writes
MSTATE into the object's record (R264): memory is not as before. -/

namespace Sys2Proof.Settled
open Sys2Proof.Machine

/-- A byte of the record of object 0, in stack 0's Crib: MSTATE. -/
def recordByte : Nat := cribBase 0 + 18

/-- Layer 0 of slice 0 is due to be mapped out. Object 0 is resident and holds line 0 in way 0; the codeword of its record
is lost. -/
def lostRecord : State :=
  { setReg64 (tRows true) Reg.LFT_OBJBASE_LO (cribBase 0) with
    edge := true
    mem := [(recordByte, 0x80#8)]
    ecc := { (tRows true).ecc with cw := [(cwKey 0 recordByte, { lost := true })] }
    loft := { lines := [(0, { way := 0, obj := some 0, dirty := 0, use := 0, fill := 0 })] } }

/-- What the device is left with once layer 0 of slice 0 begins to be mapped out. -/
def demotedRecord : State := settle (repairScan (mapoutStart lostRecord 0 0))

theorem lostRecord_alive : alive lostRecord = true := by decide +kernel

theorem lostRecord_noRepairDue : Statements.NoRepairDue lostRecord :=
  ⟨by decide +kernel, rfl⟩

/-- The record is lost as before. -/
theorem demotedRecord_lost : Lost recordByte demotedRecord :=
  ⟨by decide +kernel, by decide +kernel, { lost := true }, by decide +kernel, rfl⟩

/-- MSTATE was RESIDENT and is DEMOTING. -/
theorem demotedRecord_byte : kget (fun _ => 0#8) demotedRecord.mem recordByte ≠ kget (fun _ => 0#8) lostRecord.mem recordByte := by
  decide +kernel

/-- No state with the memory of before settles to the demoted record: it would be lost all along, and its bytes would stand. -/
theorem settle_ne_demotedRecord {w : State} (hmem : w.mem = lostRecord.mem) (hset : (settle w).mem = demotedRecord.mem)
    (hfree : (settle w).free = demotedRecord.free) (hecc : (settle w).ecc = demotedRecord.ecc) : False := by
  obtain ⟨hcrib, hzero, hlost⟩ := demotedRecord_lost
  have hlost' : Lost recordByte (settle w) := ⟨hcrib, hfree.trans hzero, by rw [hecc]; exact hlost⟩
  obtain ⟨-, hbyte⟩ := settle_spares w hlost'
  rw [hset, hmem] at hbyte
  exact demotedRecord_byte hbyte

/-- The end of a tick leaves memory, the codes beside it and the free values as the tick did. -/
theorem finishTick_memory {s t u : State} (ha : alive s = true) (h : finishTick s u = .next t) :
    t.mem = u.mem ∧ t.free = u.free ∧ t.ecc = u.ecc := by
  rw [finishTick, if_pos ha] at h
  cases h
  exact ⟨rfl, rfl, rfl⟩

theorem not_repairs : ¬ Statements.Repairs := by
  unfold Statements.Repairs
  intro h
  obtain ⟨-, -, -, hmapout, -⟩ := h lostRecord lostRecord_alive
  obtain ⟨-, hsettles, -⟩ := hmapout 0 0 lostRecord_noRepairDue (by decide) (by decide) (by decide +kernel) rfl (by decide +kernel)
  obtain ⟨t, w, hexec, ht, -, hmem, -⟩ := hsettles (by decide +kernel)
  have hrun : exec (.mapoutStart 0 0) lostRecord = finishTick lostRecord demotedRecord := rfl
  obtain ⟨hm, hfree, hecc⟩ := finishTick_memory lostRecord_alive (hrun ▸ hexec)
  rw [ht] at hm hfree hecc
  exact settle_ne_demotedRecord hmem hm hfree hecc

/-- Refutes O48: a layer that begins to be mapped out demotes an object that holds a line there, and the demotion writes
MSTATE into the object's record. The record's codeword is lost, and what settles leaves its bytes alone, so the byte was
written before anything settled: no state with the memory of before settles to that end. -/
theorem not_integrityUpkeep : ¬ Obligations.IntegrityUpkeep := by
  unfold Obligations.IntegrityUpkeep
  exact fun h => not_repairs h.2

end Sys2Proof.Settled
end

section
/-! PROOF. The shares of a group's members, and what routing keeps (R347, R350). -/

namespace Sys2Proof.Machine

/-- The members before i share the rows before member i's start position (R347). -/
theorem sum_share_range (p : Place) (i : Nat) : ((List.range i).map p.share).sum = p.start i := by
  induction i with
  | zero => simp [Place.start]
  | succ i ih =>
    rw [List.range_succ, List.map_append, List.sum_append, ih]
    simp only [Place.start, Place.share, List.map_cons, List.map_nil, List.sum_singleton, Nat.succ_mul]
    split <;> omega

/-- Behind the last member's rows stands CAP. -/
theorem start_nmem {p : Place} (h : p.nmem ≠ 0) : p.start p.nmem = p.cap := by
  rw [Place.start, Nat.min_eq_right (Nat.mod_lt _ (Nat.pos_of_ne_zero h)).le, Nat.div_add_mod]

/-- Candidate c, where it names an expert that still has a place for this member (R350). -/
def roomFor (p : Place) (cands : List (Nat × Nat)) (taken : List (Nat × Nat)) (c : Nat) : Option (Nat × Nat × Nat) :=
  match cands[c]? with
  | none => none
  | some (v, e) => if e < p.nexp && (kfind taken e).getD 0 < p.share p.me then some (e, (kfind taken e).getD 0, v) else none

/-- An assignment takes a place of an expert, as a fallback where f is 1. -/
def placed (x : Routing × List Assign) (y : Nat × Nat × Nat) (f : Nat) : Routing × List Assign :=
  ({ x.1 with taken := kins y.1 (y.2.1 + 1) x.1.taken, acc := x.1.acc + 1, fall := x.1.fall + f }, x.2 ++ [some y])

theorem assign_eq (p : Place) (a : Nat) (cands : List (Nat × Nat)) (x : Routing × List Assign) (j : Nat) :
    assign p a cands x j = match roomFor p cands x.1.taken j with
      | some y => placed x y 0
      | none => match roomFor p cands x.1.taken (a + j) with
        | some y => placed x y 1
        | none => ({ x.1 with drop := x.1.drop + 1 }, x.2 ++ [none]) := rfl

theorem roomFor_lt {p : Place} {cands taken : List (Nat × Nat)} {c : Nat} {y : Nat × Nat × Nat}
    (h : roomFor p cands taken c = some y) : y.2.1 < p.share p.me := by
  unfold roomFor at h
  split at h
  · cases h
  · split at h
    · next hroom =>
      obtain rfl := Option.some.inj h
      simp only [Bool.and_eq_true, decide_eq_true_eq] at hroom
      exact hroom.2
    · cases h

/-- What routing has kept after n assignments: no expert has more than `cap` rows, each assignment was accepted or dropped, and
every fallback was accepted. -/
structure Routed (cap n : Nat) (r : Routing) : Prop where
  within : ∀ e k, kfind r.taken e = some k → k ≤ cap
  outcome : r.acc + r.drop = n
  fallback : r.fall ≤ r.acc

theorem Routed.placed {cap n f : Nat} {x : Routing × List Assign} {y : Nat × Nat × Nat} (h : Routed cap n x.1)
    (hy : y.2.1 < cap) (hf : f ≤ 1) : Routed cap (n + 1) (Machine.placed x y f).1 where
  within e k hk := by
    rw [Machine.placed, kfind_kins] at hk
    split at hk
    · obtain rfl := Option.some.inj hk
      exact hy
    · exact h.within e k hk
  outcome := by simp only [Machine.placed, ← h.outcome]; omega
  fallback := Nat.add_le_add h.fallback hf

theorem Routed.dropped {cap n : Nat} {r : Routing} (h : Routed cap n r) : Routed cap (n + 1) { r with drop := r.drop + 1 } :=
  ⟨h.within, congrArg Nat.succ h.outcome, h.fallback⟩

section
variable {p : Place} {n : Nat}

theorem Routed.assign (a : Nat) (cands : List (Nat × Nat)) {x : Routing × List Assign} (h : Routed (p.share p.me) n x.1)
    (j : Nat) : Routed (p.share p.me) (n + 1) (assign p a cands x j).1 := by
  rw [assign_eq]
  split
  · next hroom => exact h.placed (roomFor_lt hroom) (Nat.zero_le 1)
  · split
    · next hroom => exact h.placed (roomFor_lt hroom) le_rfl
    · exact h.dropped

theorem Routed.assigns (a : Nat) (cands : List (Nat × Nat)) (js : List Nat) {n : Nat} {x : Routing × List Assign}
    (h : Routed (p.share p.me) n x.1) : Routed (p.share p.me) (n + js.length) (js.foldl (Machine.assign p a cands) x).1 := by
  induction js generalizing n x with
  | nil => exact h
  | cons j js ih => simpa only [List.length_cons, List.foldl_cons, Nat.add_assoc, Nat.add_comm 1] using ih (h.assign a cands j)

theorem assign_recs (p : Place) (a : Nat) (cands : List (Nat × Nat)) (x : Routing × List Assign) (j : Nat) :
    (assign p a cands x j).1.recs = x.1.recs := by
  rw [assign_eq]
  split
  · rfl
  · split <;> rfl

theorem assigns_recs (p : Place) (a : Nat) (cands : List (Nat × Nat)) (js : List Nat) (x : Routing × List Assign) :
    (js.foldl (assign p a cands) x).1.recs = x.1.recs := by
  induction js generalizing x with
  | nil => rfl
  | cons j js ih => exact (ih _).trans (assign_recs p a cands x j)

/-- A token adds one routing record. -/
theorem routeToken_recs (p : Place) (a : Nat) (r : Routing) (bs : List Byte) :
    (routeToken p a r bs).recs.length = r.recs.length + 1 := by
  rw [routeToken, List.length_append, assigns_recs]
  rfl

theorem Routed.token (a : Nat) {r : Routing} (h : Routed (p.share p.me) n r) (bs : List Byte) :
    Routed (p.share p.me) (n + a) (routeToken p a r bs) := by
  obtain ⟨hwithin, houtcome, hfall⟩ := Routed.assigns (x := (r, [])) a (candsOf (2 * a) bs) (List.range a) h
  rw [List.length_range] at houtcome
  exact ⟨hwithin, houtcome, hfall⟩

theorem Routed.tokens (a : Nat) (cs : List (List Byte)) {n : Nat} {r : Routing} (h : Routed (p.share p.me) n r) :
    Routed (p.share p.me) (n + a * cs.length) (cs.foldl (routeToken p a) r)
      ∧ (cs.foldl (routeToken p a) r).recs.length = r.recs.length + cs.length := by
  induction cs generalizing n r with
  | nil => exact ⟨h, rfl⟩
  | cons bs cs ih =>
    obtain ⟨hrouted, hrecs⟩ := ih (h.token a bs)
    rw [routeToken_recs] at hrecs
    simp only [List.length_cons, List.foldl_cons]
    exact ⟨by convert hrouted using 1; ring, by omega⟩

end

theorem routed_init (cap : Nat) : Routed cap 0 {} := ⟨fun _ _ h => (Option.some_ne_none _ h.symm).elim, rfl, le_rfl⟩

end Sys2Proof.Machine

namespace Sys2Proof.Settled

open Sys2Proof.Machine

/-- Of the two parts of the Wain's statement, this one holds. -/
theorem wainShares : Statements.WainShares := by
  refine ⟨fun p h => (sum_share_range p p.nmem).trans (start_nmem h), fun p a cs => ?_⟩
  obtain ⟨⟨hwithin, houtcome, hfall⟩, hrecs⟩ := (routed_init (p.share p.me)).tokens a cs
  rw [Nat.zero_add] at houtcome
  exact ⟨hwithin, houtcome, hfall, hrecs.trans (Nat.zero_add _)⟩

end Sys2Proof.Settled
end

section
/-! PROOF. A descriptor that lies in a slice whose bank is copied cannot be read yet, so its gate shows nothing (R348, R505). -/

namespace Sys2Proof.Machine

/-- A command of which a read must wait leaves every register as it was (R310, R505). -/
theorem orWait_regs_of_stalled {s t : State} (h : stalledBy s t ≠ []) : (orWait s t).regs = s.regs := by
  rw [orWait, if_neg (by simpa using h)]
  rfl

end Sys2Proof.Machine

namespace Sys2Proof.Settled

open Sys2Proof.Machine

/-- The Wain stands at a DISPATCH whose gate is not met, while the bank that holds its descriptor, in slice 4, is copied to a
spare (R505). -/
def gateInCopy : State := mapLoft (tWain 1 1 0) fun lo => { lo with banks := [(0, 4)] }

theorem of_tWainAt {s : State} {p : State → WDesc → Bool} (h : tWainAt s p = true) :
    ∃ u d, Statements.WainAt s u d ∧ p u d = true := by
  simp only [tWainAt, Bool.and_eq_true, decide_eq_true_eq, Bool.not_eq_true'] at h
  obtain ⟨⟨⟨⟨⟨⟨ha, hrounds⟩, hwalking⟩, hbusy⟩, hpast⟩, hrange⟩, hm⟩ := h
  split at hm
  · next u bs hload =>
    simp only [Bool.and_eq_true, Bool.not_eq_true'] at hm
    exact ⟨u, _, ⟨ha, by simpa using hrounds, hwalking, hbusy, hpast, hrange, ⟨bs, hload, rfl⟩, hm.1⟩, hm.2⟩
  · cases hm

theorem gateInCopy_at : tWainAt gateInCopy (fun u d => d.op = 1 && sextN 64 (counter u d.gatecnt) < d.gateval) = true := by
  decide +kernel

theorem gateInCopy_notGated : fld gateInCopy Reg.WAN_STATUS Fld.WAN_STATUS_GATED = 0 := by decide +kernel

theorem gateInCopy_stalled : stalledBy gateInCopy (wainCmd gateInCopy 1 dispatchOf) ≠ [] := by decide +kernel

theorem not_wainList : ¬ Statements.WainList := by
  unfold Statements.WainList
  intro h
  obtain ⟨u, d, hat, hgate⟩ := of_tWainAt gateInCopy_at
  simp only [Bool.and_eq_true, decide_eq_true_eq] at hgate
  obtain ⟨hop, hunmet⟩ := hgate
  obtain ⟨hwaits, -⟩ := h gateInCopy u d hat
  obtain ⟨t, ht, hgated, -⟩ := hwaits (.dispatch, 1) (by simp) hop hunmet
  have hexec : exec .dispatch gateInCopy
      = finish gateInCopy (orWait gateInCopy (wainCmd gateInCopy 1 dispatchOf)) := rfl
  rw [hexec, finish_alive hat.1] at ht
  obtain rfl := Host.Outcome.next.inj ht
  have hregs := orWait_regs_of_stalled gateInCopy_stalled
  rw [fld_congr ((ended_regs _ _).trans hregs), gateInCopy_notGated] at hgated
  cases hgated

/-- Refutes O51: a descriptor whose gate is not met is said to set GATED where no round is open, but a bank in copy (R505) holds
up the read of the descriptor, and no register changes. -/
theorem not_wainMoves : ¬ Obligations.WainMoves := by
  unfold Obligations.WainMoves
  exact fun h => not_wainList h.1

end Sys2Proof.Settled
end

section
/-! PROOF. A Mill descriptor that lies in a slice whose bank is copied cannot be read yet, so its gate shows nothing (R381,
R505). -/

namespace Sys2Proof.Settled

open Sys2Proof.Machine

/-- The Mill stands at an END whose gate is not met, while the bank that holds its descriptor, in slice 4, is copied to a
spare (R505). -/
def millGateInCopy : State := mapLoft (tMill (tMdesc 0 1 0) []) fun lo => { lo with banks := [(0, 4)] }

theorem of_tMillAt {s : State} {p : State → MDesc → Bool} (h : tMillAt s p = true) :
    ∃ u d, Statements.MillAt s u d ∧ p u d = true := by
  simp only [tMillAt, Bool.and_eq_true, decide_eq_true_eq, Bool.not_eq_true', Option.isNone_iff_eq_none,
    List.isEmpty_iff] at h
  obtain ⟨⟨⟨⟨⟨⟨⟨⟨ha, hrounds⟩, hwalking⟩, hbusy⟩, hwork⟩, hres⟩, hpast⟩, hrange⟩, hm⟩ := h
  split at hm
  · next u bs hload =>
    simp only [Bool.and_eq_true, Bool.not_eq_true'] at hm
    exact ⟨u, _, ⟨ha, hrounds, hwalking, hbusy, hwork, hres, hpast, hrange, ⟨bs, hload, rfl⟩, hm.1⟩, hm.2⟩
  · cases hm

theorem millGateInCopy_at : tMillAt millGateInCopy (fun u d => d.op = 0 && !tGateMet u d) = true := by decide +kernel

theorem millGateInCopy_notGated : fld millGateInCopy Reg.MIL_STATUS Fld.MIL_STATUS_GATED = 0 := by decide +kernel

theorem millGateInCopy_stalled : stalledBy millGateInCopy (millCmd millGateInCopy 0 millEndOf) ≠ [] := by decide +kernel

theorem not_millList : ¬ Statements.MillList := by
  unfold Statements.MillList
  intro h
  obtain ⟨u, d, hat, hgate⟩ := of_tMillAt millGateInCopy_at
  simp only [Bool.and_eq_true, decide_eq_true_eq, Bool.not_eq_true', tGateMet, decide_eq_false_iff_not] at hgate
  obtain ⟨hop, hunmet⟩ := hgate
  obtain ⟨hwaits, -⟩ := h millGateInCopy u d hat
  obtain ⟨t, ht, hgated, -⟩ := hwaits (.millEnd, 0) (List.mem_cons_self ..) hop hunmet
  have hexec : exec .millEnd millGateInCopy
      = finish millGateInCopy (orWait millGateInCopy (millCmd millGateInCopy 0 millEndOf)) := rfl
  rw [hexec, finish_alive hat.1] at ht
  obtain rfl := Host.Outcome.next.inj ht
  have hregs := orWait_regs_of_stalled millGateInCopy_stalled
  rw [fld_congr ((ended_regs _ _).trans hregs), millGateInCopy_notGated] at hgated
  cases hgated

/-- Refutes O49: a descriptor whose gate is not met is said to set GATED where no round is open, but a bank in copy (R505)
holds up the read of the descriptor, and no register changes. -/
theorem not_millUpdates : ¬ Obligations.MillUpdates := by
  unfold Obligations.MillUpdates
  exact fun h => not_millList h.1

end Sys2Proof.Settled
end

section
/-! PROOF. Flags that a gateway learns over its links, and those that the Floor shows (R449 to R451, R471 to R474). -/

namespace Sys2Proof.Machine

/-! ## What a partition barrier changes (R451, R474) -/

/-- From `s` to `t` partition barriers have moved: signals and packets are on their way, and the fabric's notes of the
barriers have changed. The flags known and the ARRIVEs that child ports delivered stand. -/
structure BarrierMoved (s t : State) : Prop where
  form : t = { s with net := t.net, fab := t.fab }
  known : t.fab.flags.known = s.fab.flags.known
  downs : t.fab.flags.downs = s.fab.flags.downs
  came : t.fab.flags.came = s.fab.flags.came

/-- From `s` to `t` a member has told of a barrier or noted what it was told: no generation has ended. -/
structure BarrierNoted (s t : State) : Prop extends BarrierMoved s t where
  net : t.net = s.net
  gens : t.fab.flags.gens = s.fab.flags.gens

theorem BarrierMoved.refl (s : State) : BarrierMoved s s := ⟨rfl, rfl, rfl, rfl⟩

theorem BarrierMoved.trans {s t u : State} (h : BarrierMoved s t) (h' : BarrierMoved t u) : BarrierMoved s u :=
  ⟨by rw [h'.form, h.form], h'.known.trans h.known, h'.downs.trans h.downs, h'.came.trans h.came⟩

theorem BarrierMoved.foldl {α : Type} {f : State → α → State} (hf : ∀ s x, BarrierMoved s (f s x)) (xs : List α)
    (s : State) : BarrierMoved s (xs.foldl f s) :=
  List.foldlRecOn xs f (.refl s) fun _ h _ _ => h.trans (hf _ _)

section
variable {s t : State} (h : BarrierMoved s t)
include h

theorem BarrierMoved.memSame : MemSame s t := by rw [h.form]; exact ⟨rfl, rfl⟩
theorem BarrierMoved.regs : t.regs = s.regs := by rw [h.form]
theorem BarrierMoved.step : t.step = s.step := by rw [h.form]
theorem BarrierMoved.knows (i : Nat × Nat) : knows t i = Machine.knows s i := by simp [Machine.knows, h.known, h.downs]

end

theorem BarrierNoted.refl (s : State) : BarrierNoted s s := ⟨.refl s, rfl, rfl⟩

theorem BarrierNoted.trans {s t u : State} (h : BarrierNoted s t) (h' : BarrierNoted t u) : BarrierNoted s u :=
  ⟨h.toBarrierMoved.trans h'.toBarrierMoved, h'.net.trans h.net, h'.gens.trans h.gens⟩

theorem BarrierNoted.foldl {α : Type} {f : State → α → State} (hf : ∀ s x, BarrierNoted s (f s x)) (xs : List α)
    (s : State) : BarrierNoted s (xs.foldl f s) :=
  List.foldlRecOn xs f (.refl s) fun _ h _ _ => h.trans (hf _ _)

theorem sendFlag_noted (kind key : Nat) (down : Bool) (s : State) (p : Nat) :
    BarrierNoted s (sendFlag kind key down s p) := by
  unfold sendFlag
  split <;> exact ⟨⟨rfl, rfl, rfl, rfl⟩, rfl, rfl⟩

/-- A change of who has arrived or of what the next Floor frame shows. -/
theorem mapFlags_noted (s : State) {f : FlagSt → FlagSt}
    (h : ∃ mine rack rel, f s.fab.flags = { s.fab.flags with mine := mine, rack := rack, rel := rel }) :
    BarrierNoted s (mapFlags s f) := by
  obtain ⟨mine, rack, rel, h⟩ := h
  exact ⟨⟨rfl, (congrArg FlagSt.known h :), (congrArg FlagSt.downs h :), (congrArg FlagSt.came h :)⟩, rfl,
    (congrArg FlagSt.gens h :)⟩

theorem pbarCheck_noted (s : State) (b : Nat) : BarrierNoted s (pbarCheck s b) := by
  unfold pbarCheck
  dsimp only
  split
  · exact mapFlags_noted s ⟨_, _, _, rfl⟩
  · exact .refl s

/-- A generation of barrier b ends: SEM is signalled (R451). -/
def generationEnded (s : State) (b : Nat) : State :=
  mapFlags (sendSignal s 0 (pbar s b Fld.FAB_PBAR_SEM) 1) fun f =>
    { f with gens := kset (fun _ => 0) f.gens b (pbarGen s b + 1) }

theorem generationEnded_moved (s : State) (b : Nat) : BarrierMoved s (generationEnded s b) := ⟨rfl, rfl, rfl, rfl⟩

/-- A release ends the generation; what follows tells others of it. -/
theorem pbarRelease_noted (s : State) (b : Nat) : BarrierNoted (generationEnded s b) (pbarRelease s b) := by
  have hcheck := pbarCheck_noted (generationEnded s b) b
  unfold pbarRelease
  dsimp only
  split
  · exact (hcheck.trans (mapFlags_noted _ ⟨_, _, _, rfl⟩)).trans (.foldl (fun _ _ => sendFlag_noted ..) _ _)
  · exact hcheck

theorem pbarRelease_moved (s : State) (b : Nat) : BarrierMoved s (pbarRelease s b) :=
  (generationEnded_moved s b).trans (pbarRelease_noted s b).toBarrierMoved

theorem pbarRelease_net (s : State) (b : Nat) :
    (pbarRelease s b).net = s.net ++ [⟨0, pbar s b Fld.FAB_PBAR_SEM, 1⟩] := (pbarRelease_noted s b).net

theorem pbarRelease_gen (s : State) (b : Nat) : pbarGen (pbarRelease s b) b = pbarGen s b + 1 := by
  rw [pbarGen, (pbarRelease_noted s b).gens]
  exact kget_kset_self (fun _ => 0) s.fab.flags.gens b (pbarGen s b + 1)

theorem pbarGo_moved (s : State) (b : Nat) : BarrierMoved s (pbarGo s b) := by
  unfold pbarGo
  dsimp only
  split
  · split
    · exact pbarRelease_moved s b
    · exact (sendFlag_noted ..).toBarrierMoved
  · exact .refl s

theorem rackArrived_moved (s : State) (b : Nat) : BarrierMoved s (rackArrived s b) := by
  unfold rackArrived
  dsimp only
  split
  · exact .refl s
  · exact (mapFlags_noted s ⟨_, _, _, rfl⟩).toBarrierMoved.trans (pbarGo_moved _ b)

theorem floorBarrier_moved (seen : Nat) (s : State) (b : Nat) : BarrierMoved s (floorBarrier seen s b) := by
  unfold floorBarrier
  split
  · exact .refl s
  · split
    · split
      · exact rackArrived_moved s b
      · exact .refl s
    · split
      · exact pbarRelease_moved s b
      · exact .refl s

/-! ## What is learnt (R393, R450, R473) -/

/-- Learn a flag from the parent or from below. -/
def learnFlag (down : Bool) (s : State) (i : Nat × Nat) : State := if down then learnDown s i else learnUp s i

theorem learnDown_form (s : State) (i : Nat × Nat) : learnDown s i = { s with fab := (learnDown s i).fab } := by
  unfold learnDown
  split <;> exact (pumpFlags_sameKnown _).form

theorem knows_learnDown (s : State) (i : Nat × Nat) : knows (learnDown s i) i = true := by
  unfold learnDown
  rw [(pumpFlags_sameKnown _).knows]
  split
  · next hdown => rw [knows, hdown, Bool.or_true]
  · simp [knows, mapFlags]

theorem learnFlag_form (down : Bool) (s : State) (i : Nat × Nat) :
    learnFlag down s i = { s with fab := (learnFlag down s i).fab } := by
  cases down
  · exact learnUp_form s i
  · exact learnDown_form s i

theorem knows_learnFlag (down : Bool) (s : State) (i : Nat × Nat) : knows (learnFlag down s i) i = true := by
  cases down
  · exact knows_learnUp s i
  · exact knows_learnDown s i

/-- A slip of the running frame sets its slip flag (R450, R473). -/
theorem noteSlip_running {s : State} {p : Nat} (h : p = pindex s) :
    noteSlip s p = { s with frm := { s.frm with slipFlag := true } } := if_pos h

/-- The steps that began at a program frame have heard of a Blight. -/
def heardSteps (s : State) (start : Nat) : State :=
  { s with step := { s.step with
      opened := s.step.opened.map fun x => if x.start = start then { x with heard := true } else x } }

theorem noteBlight_open {s : State} {start : Nat} (h : ∃ x ∈ s.step.opened, x.start = start) :
    noteBlight s start = syncDry (heardSteps s start) := by
  obtain ⟨x, hx, hstart⟩ := h
  exact if_pos (List.any_eq_true.2 ⟨x, hx, decide_eq_true hstart⟩)

theorem noteBlight_regsAndSteps {s : State} {start : Nat} (h : ∃ x ∈ s.step.opened, x.start = start) :
    RegsAndSteps s (noteBlight s start) := by
  rw [noteBlight_open h]
  exact (regsAndSteps_step s _).trans (syncDry_regsAndSteps (heardSteps s start))

theorem noteBlight_opened {s : State} {start : Nat} (h : ∃ x ∈ s.step.opened, x.start = start) :
    (noteBlight s start).step.opened
      = s.step.opened.map fun x => if x.start = start then { x with heard := true } else x := by
  rw [noteBlight_open h, syncDry_step]
  rfl

theorem RegsAndSteps.knows {s t : State} (h : RegsAndSteps s t) (i : Nat × Nat) : knows t i = Machine.knows s i := by
  rw [h]
  rfl

/-- A Blight of an open step is learnt and heard: nothing but the fabric, the steps and registers changes. -/
theorem blightLearnt {s u : State} {start : Nat} (hform : u = { s with fab := u.fab })
    (hknown : knows u (fkBlight, start) = true) (h : ∃ x ∈ s.step.opened, x.start = start) :
    (noteBlight u start).step.opened
        = s.step.opened.map (fun x => if x.start = start then { x with heard := true } else x)
      ∧ knows (noteBlight u start) (fkBlight, start) = true ∧ MemSame s (noteBlight u start) := by
  have hsteps : u.step = s.step := by rw [hform]
  have hmem : MemSame s u := by rw [hform]; exact ⟨rfl, rfl⟩
  have hopen : ∃ x ∈ u.step.opened, x.start = start := by rwa [hsteps]
  have hframe := noteBlight_regsAndSteps hopen
  exact ⟨by rw [noteBlight_opened hopen, hsteps], (hframe.knows _).trans hknown, hmem.trans hframe.memSame⟩

/-! ## FLAG packets (R449) -/

/-- A FLAG packet that the link takes is acted on, its buffer free again. -/
theorem recvFlag_taken {s u : State} {p : Nat} {k k' : Packet} (h : Statements.Taken s u p opFlag k k') (kind : Nat) :
    recvFlag kind p k s = finish s (takeFlag kind p k' (creditBack u p k')) := by
  obtain ⟨-, hop, harr⟩ := h
  rw [recvFlag, recvHop, if_neg (not_not.2 hop), harr]

section
variable {s : State} {p : Nat} {k : Packet} (hgw : isGateway s = true)
include hgw

/-- A slip or a Blight that comes from where it counts, and is new, is learnt and acted on. -/
theorem takeFlag_new {kind : Nat} (hkind : kind = fkSlip ∨ kind = fkBlight)
    (hway : if flagDown k then parentPort s = p else (childPorts s).contains p = true) (hk : flagKind k = kind)
    (hnew : knows s (kind, flagKey k) = false) :
    takeFlag kind p k s = if kind = fkSlip
      then noteSlip (learnFlag (flagDown k) s (kind, flagKey k)) (flagKey k)
      else noteBlight (learnFlag (flagDown k) s (kind, flagKey k)) (flagKey k) := by
  unfold takeFlag
  cases hdown : flagDown k with
  | false =>
    have hchild : p ∈ childPorts s := by simpa [hdown] using hway
    simp [hk, hgw, hchild, hkind, hnew, learnFlag]
  | true =>
    have hparent : parentPort s = p := by simpa [hdown] using hway
    simp [hk, hgw, hparent, hkind, hnew, learnFlag]

/-- An ARRIVE of the running generation from a child port is noted. -/
theorem takeFlag_arrive (hway : (childPorts s).contains p = true) (hk : flagKind k = fkArrive)
    (hup : flagDown k = false) (hon : pbarOn s (flagKey k % 256) = true)
    (hgen : flagKey k / 256 = pbarGen s (flagKey k % 256)) :
    takeFlag fkArrive p k s = pbarGo (mapFlags s fun f =>
      { f with came := f.came ++ [(flagKey k % 256, pbarGen s (flagKey k % 256), p)] }) (flagKey k % 256) := by
  rw [List.contains_eq_mem, decide_eq_true_eq] at hway
  unfold takeFlag
  simp [hk, hgw, hup, hway, hon, hgen, fkArrive, fkSlip, fkBlight]

/-- A RELEASE of the running generation from the parent releases the barrier. -/
theorem takeFlag_release (hway : parentPort s = p) (hk : flagKind k = fkRelease) (hdown : flagDown k = true)
    (hon : pbarOn s (flagKey k % 256) = true) (hgen : flagKey k / 256 = pbarGen s (flagKey k % 256)) :
    takeFlag fkRelease p k s = pbarRelease s (flagKey k % 256) := by
  unfold takeFlag
  simp [hk, hgw, hdown, hway, hon, hgen, fkRelease, fkArrive, fkSlip, fkBlight]

end

/-! ## The flag block and the slip flag slots (R471 to R474) -/

/-- Light in the BLIGHT slot of the one open step: the step hears of it, then the barriers' flags are looked at. -/
theorem floorFlagBlock_heard {s : State} {x : OpenStep} {seen : Nat} (hopen : s.step.opened = [x])
    (hseen : bitN seen (x.no % 2) = true) (hbad : x.bad = false) (hnew : knows s (fkBlight, x.start) = false) :
    floorFlagBlock s seen = (List.range 8).foldl (floorBarrier seen)
      (noteBlight (learnUp s (fkBlight, x.start)) x.start) := by
  have hsteps : (learnUp s (fkBlight, x.start)).step = s.step := by rw [learnUp_form]
  have hafter : (noteBlight (learnUp s (fkBlight, x.start)) x.start).step.opened.isEmpty = false := by
    rw [noteBlight_opened ⟨x, by simp [hsteps, hopen], rfl⟩, hsteps, hopen]
    rfl
  unfold floorFlagBlock
  simp [hopen, hseen, hbad, hnew, floorLate, hafter]

theorem bitN_two_pow (i j : Nat) : bitN (2 ^ i) j = decide (i = j) := by
  rw [bitN_eq_testBit, Nat.testBit_two_pow]

/-- A barrier whose REL slot is dark stays as it is on a member that is no gateway. -/
theorem floorBarrier_dark {s : State} {seen b : Nat} (hgw : isGateway s = false) (hdark : bitN seen (b + 10) = false) :
    floorBarrier seen s b = s := by
  simp [floorBarrier, hgw, hdark]

theorem floorBarriers_dark {s : State} {seen : Nat} (hgw : isGateway s = false) {l : List Nat}
    (hdark : ∀ c ∈ l, bitN seen (c + 10) = false) : l.foldl (floorBarrier seen) s = s := by
  induction l with
  | nil => rfl
  | cons c l ih =>
    rw [List.foldl_cons, floorBarrier_dark hgw (hdark c (List.mem_cons_self ..))]
    exact ih fun d hd => hdark d (List.mem_cons_of_mem c hd)

/-- Light in the REL slot of one barrier alone releases it on a member that is no gateway. -/
theorem floorBarriers_one {s : State} {b : Nat} (hb : b < 8) (hgw : isGateway s = false) (hon : pbarOn s b = true) :
    (List.range 8).foldl (floorBarrier (2 ^ (b + 10))) s = pbarRelease s b := by
  have hdark : ∀ c, c ≠ b → bitN (2 ^ (b + 10)) (c + 10) = false := fun c hc => by
    rw [bitN_two_pow]
    exact decide_eq_false fun h => hc (by omega)
  have hlit : floorBarrier (2 ^ (b + 10)) s b = pbarRelease s b := by
    simp [floorBarrier, hgw, hon, bitN_two_pow]
  have hgw' : isGateway (pbarRelease s b) = false := by
    rw [isGateway, fld_congr (pbarRelease_moved s b).regs]
    exact hgw
  obtain ⟨l, r, hrange⟩ := List.append_of_mem (List.mem_range.2 hb)
  have hnodup : (l ++ b :: r).Nodup := hrange ▸ List.nodup_range
  obtain ⟨hr, hl⟩ := List.nodup_cons.1 (List.nodup_middle.1 hnodup)
  have hother {c : Nat} (hc : c ∈ l ++ r) : c ≠ b := fun h => hr (h ▸ hc)
  rw [hrange, List.foldl_append, floorBarriers_dark hgw fun c hc => hdark c (hother (List.mem_append_left r hc)),
    List.foldl_cons, hlit, floorBarriers_dark hgw' fun c hc => hdark c (hother (List.mem_append_right l hc))]

/-- This member's flash in a slip flag slot that the frame has. -/
def flashed (s : State) (j : Nat) : State :=
  { s with wire := if slipFlashes s then s.wire ++ [.slipFlash j] else s.wire }

/-- Where the slot shows no light, or the flag is set, there is nothing to learn (R473). -/
theorem slipFlagSlot_known {s : State} {j : Nat} {light : Bool} (hj : j + 7 < s.frm.win)
    (h : light = false ∨ s.frm.slipFlag = true) : slipFlagSlot s j light = flashed s j := by
  have hnone : (light && !s.frm.slipFlag) = false := by
    rcases h with h | h <;> simp [h]
  rw [slipFlagSlot, if_neg (Nat.not_le.2 hj), flashed]
  split <;> exact if_neg (ne_true_of_eq_false hnone)

/-- Light sets the slip flag, and the slip is learnt (R473). -/
theorem slipFlagSlot_light {s : State} {j : Nat} (hj : j + 7 < s.frm.win) (hflag : s.frm.slipFlag = false) :
    slipFlagSlot s j true = { learnUp (flashed s j) (fkSlip, pindex s) with frm := { s.frm with slipFlag := true } } := by
  have hform := learnUp_form (flashed s j) (fkSlip, pindex s)
  have hrun : pindex s = pindex (learnUp (flashed s j) (fkSlip, pindex s)) := by rw [hform]; rfl
  have hfrm : (learnUp (flashed s j) (fkSlip, pindex s)).frm = s.frm := by rw [hform]; rfl
  have hslot : slipFlagSlot s j true = noteSlip (learnUp (flashed s j) (fkSlip, pindex s)) (pindex s) := by
    rw [slipFlagSlot, if_neg (Nat.not_le.2 hj), flashed]
    split <;> exact if_pos (by simp [hflag])
  rw [hslot, noteSlip_running hrun, hfrm]

end Sys2Proof.Machine

namespace Sys2Proof.Settled

open Sys2Proof.Machine

section
variable {s u : State} {p : Nat} {k k' : Packet} (h : Statements.Taken s u p opFlag k k') (hgw : isGateway u = true)
include h

/-- The state in which a FLAG packet is acted on differs from the one before in the link alone. -/
theorem flagTaken_linked : Linked p s (creditBack u p k') := by
  obtain ⟨-, -, harr⟩ := h
  exact (arrive_linked harr).2.trans (creditBack_linked u p k')

/-- What the act on a FLAG packet leaves is what the command leaves. -/
theorem flag_runs {c : Instr} {kind : Nat} {v : State} {P : State → Prop} (hc : exec c s = recvFlag kind p k s)
    (hact : takeFlag kind p k' (creditBack u p k') = v) (hp : P (ended s v)) : Runs c s P :=
  runs_finish (hc.trans ((recvFlag_taken h kind).trans (by rw [hact]))) h.1 hp

include hgw

theorem flagSlip_runs (hway : if flagDown k' then parentPort u = p else (childPorts u).contains p = true)
    (hk : flagKind k' = fkSlip) (hkey : flagKey k' = pindex u) (hnew : knows u (fkSlip, flagKey k') = false) :
    Runs (.flagSlip p k) s fun t =>
      t.frm.slipFlag = true ∧ knows t (fkSlip, flagKey k') = true ∧ t.regs = u.regs ∧ MemSame s t := by
  have hlearn := learnFlag_form (flagDown k') (creditBack u p k') (fkSlip, flagKey k')
  have hknown := knows_learnFlag (flagDown k') (creditBack u p k') (fkSlip, flagKey k')
  have hact := takeFlag_new (s := creditBack u p k') hgw (.inl rfl) hway hk hnew
  generalize learnFlag (flagDown k') (creditBack u p k') (fkSlip, flagKey k') = v at hlearn hknown hact
  have hregs : v.regs = u.regs := by rw [hlearn]; rfl
  have hmem : MemSame (creditBack u p k') v := by rw [hlearn]; exact ⟨rfl, rfl⟩
  have hrun : flagKey k' = pindex v := by rw [hkey, pindex, pindex, reg64_congr hregs]
  rw [if_pos rfl, noteSlip_running hrun] at hact
  exact flag_runs h rfl hact ⟨rfl, hknown, hregs, (flagTaken_linked h).memSame.trans hmem⟩

theorem flagBlight_runs (hway : if flagDown k' then parentPort u = p else (childPorts u).contains p = true)
    (hk : flagKind k' = fkBlight) (hopen : ∃ x ∈ u.step.opened, x.start = flagKey k')
    (hnew : knows u (fkBlight, flagKey k') = false) :
    Runs (.flagBlight p k) s fun t => (∀ x ∈ t.step.opened, x.start = flagKey k' → x.heard = true)
      ∧ t.step.opened.length = u.step.opened.length ∧ knows t (fkBlight, flagKey k') = true ∧ MemSame s t := by
  have hact := takeFlag_new (s := creditBack u p k') hgw (.inr rfl) hway hk hnew
  rw [if_neg (by decide)] at hact
  obtain ⟨hopened, hknown, hmem⟩ := blightLearnt (learnFlag_form (flagDown k') (creditBack u p k') _)
    (knows_learnFlag (flagDown k') (creditBack u p k') (fkBlight, flagKey k')) hopen
  generalize noteBlight _ _ = v at hact hopened hknown hmem
  refine flag_runs h rfl hact ⟨fun x hx hstart => ?_, ?_, hknown, (flagTaken_linked h).memSame.trans hmem⟩
  · replace hx : x ∈ v.step.opened := hx
    rw [hopened, List.mem_map] at hx
    obtain ⟨y, -, rfl⟩ := hx
    split at hstart
    · next hy => rw [if_pos hy]
    · next hy => exact absurd hstart hy
  · exact (congrArg List.length hopened).trans (List.length_map _)

theorem flagArrive_runs (hway : (childPorts u).contains p = true) (hk : flagKind k' = fkArrive)
    (hup : flagDown k' = false) (hon : pbarOn u (flagKey k' % 256) = true)
    (hgen : flagKey k' / 256 = pbarGen u (flagKey k' % 256)) :
    Runs (.flagArrive p k) s fun t =>
      (flagKey k' % 256, flagKey k' / 256, p) ∈ t.fab.flags.came ∧ t.regs = u.regs ∧ MemSame s t := by
  have hact := takeFlag_arrive (s := creditBack u p k') hgw hway hk hup hon hgen
  have hgo := pbarGo_moved (mapFlags (creditBack u p k') fun f =>
    { f with came := f.came ++ [(flagKey k' % 256, pbarGen u (flagKey k' % 256), p)] }) (flagKey k' % 256)
  refine flag_runs h rfl hact ⟨?_, hgo.regs, (flagTaken_linked h).memSame.trans (hgo.memSame)⟩
  rw [hgen]
  exact hgo.came ▸ List.mem_append_right _ (List.mem_singleton_self _)

theorem flagRelease_runs (hway : parentPort u = p) (hk : flagKind k' = fkRelease) (hdown : flagDown k' = true)
    (hon : pbarOn u (flagKey k' % 256) = true) (hgen : flagKey k' / 256 = pbarGen u (flagKey k' % 256)) :
    Runs (.flagRelease p k) s fun t => pbarGen t (flagKey k' % 256) = pbarGen u (flagKey k' % 256) + 1
      ∧ t.net = s.net ++ [⟨0, pbar u (flagKey k' % 256) Fld.FAB_PBAR_SEM, 1⟩] ∧ t.regs = u.regs ∧ MemSame s t := by
  have hlink := flagTaken_linked h
  have hmoved := pbarRelease_moved (creditBack u p k') (flagKey k' % 256)
  refine flag_runs h rfl (takeFlag_release (s := creditBack u p k') hgw hway hk hdown hon hgen)
    ⟨pbarRelease_gen _ _, (pbarRelease_net _ _).trans ?_, hmoved.regs, hlink.memSame.trans hmoved.memSame⟩
  rw [hlink.net]
  rfl

end

theorem flagsLearnt : Statements.FlagsLearnt := by
  intro s u p k k' hgw h
  refine ⟨fun hway => ⟨flagSlip_runs h hgw hway, flagBlight_runs h hgw hway, fun hk hup hon hgen => ?_⟩,
    fun hdown hway hk hon hgen => flagRelease_runs h hgw hway hk hdown hon hgen⟩
  rw [if_neg (by simp [hup])] at hway
  exact flagArrive_runs h hgw hway hk hup hon hgen

section
variable {s : State} (ha : alive s = true)
include ha

theorem floorBlight_runs {x : OpenStep} {seen : Nat} (hopen : s.step.opened = [x])
    (hseen : bitN seen (x.no % 2) = true) (hbad : x.bad = false) (hnew : knows s (fkBlight, x.start) = false) :
    Runs (.floorFlagBlock seen) s fun t => t.step.opened = [{ x with heard := true }]
      ∧ knows t (fkBlight, x.start) = true ∧ MemSame s t := by
  obtain ⟨hopened, hknown, hmem⟩ := blightLearnt (learnUp_form s _) (knows_learnUp s (fkBlight, x.start))
    ⟨x, by simp [hopen], rfl⟩
  have hbars := BarrierMoved.foldl (floorBarrier_moved seen) (List.range 8) (noteBlight (learnUp s (fkBlight, x.start)) x.start)
  rw [← floorFlagBlock_heard hopen hseen hbad hnew] at hbars
  refine runs_finish rfl ha ⟨?_, (hbars.knows _).trans hknown, hmem.trans hbars.memSame⟩
  refine (congrArg StepSt.opened hbars.step).trans (hopened.trans ?_)
  simp [hopen]

theorem floorRelease_runs {b : Nat} (hopen : s.step.opened = []) (hb : b < 8) (hgw : isGateway s = false)
    (hon : pbarOn s b = true) : Runs (.floorFlagBlock (2 ^ (b + 10))) s fun t => pbarGen t b = pbarGen s b + 1
      ∧ t.net = s.net ++ [⟨0, pbar s b Fld.FAB_PBAR_SEM, 1⟩] ∧ t.regs = s.regs ∧ MemSame s t := by
  have hmoved := pbarRelease_moved s b
  have heq : floorFlagBlock s (2 ^ (b + 10)) = pbarRelease s b := by
    have hlate : floorLate s (2 ^ (b + 10)) = false := by
      have : b + 10 ≠ (s.step.count + 1) % 2 := by omega
      simp [floorLate, bitN_two_pow, this]
    rw [← floorBarriers_one hb hgw hon, floorFlagBlock]
    simp [hopen, hlate]
  have hexec : exec (.floorFlagBlock (2 ^ (b + 10))) s = finish s (pbarRelease s b) := by rw [← heq]; rfl
  exact runs_finish hexec ha ⟨pbarRelease_gen s b, pbarRelease_net s b, hmoved.regs, hmoved.memSame⟩

section
variable {j : Nat} (hj : j + 7 < s.frm.win)
include hj

theorem slipLight_runs (hflag : s.frm.slipFlag = false) {P : State → Prop}
    (hp : P (ended s { learnUp (flashed s j) (fkSlip, pindex s) with frm := { s.frm with slipFlag := true } })) :
    Runs (.slipFlagSlot j true) s P :=
  runs_finish (congrArg (finish s) (slipFlagSlot_light hj hflag)) ha hp

theorem slipKnown_runs {light : Bool} (h : light = false ∨ s.frm.slipFlag = true) {P : State → Prop}
    (hp : P (ended s (flashed s j))) : Runs (.slipFlagSlot j light) s P :=
  runs_finish (congrArg (finish s) (slipFlagSlot_known hj h)) ha hp

end

end

theorem floorFlags : Statements.FloorFlags := by
  intro s ha
  refine ⟨fun x seen hopen hseen hbad hnew => floorBlight_runs ha hopen hseen hbad hnew,
    fun b hopen hb hgw hon => floorRelease_runs ha hopen hb hgw hon, fun j hj => ?_⟩
  have hlearn := learnUp_form (flashed s j) (fkSlip, pindex s)
  have hknown := knows_learnUp (flashed s j) (fkSlip, pindex s)
  have hslip := fun hflag P => slipLight_runs ha hj hflag (P := P)
  generalize learnUp (flashed s j) (fkSlip, pindex s) = v at hlearn hknown hslip
  refine ⟨fun hflag => hslip hflag _ ⟨rfl, hknown, ?_, ?_⟩, fun light h => slipKnown_runs ha hj h rfl, fun light => ?_⟩
  · rw [hlearn]
    rfl
  · rw [hlearn]
    exact ⟨rfl, rfl⟩
  · by_cases h : light = false ∨ s.frm.slipFlag = true
    · exact slipKnown_runs ha hj h rfl
    · simp only [not_or, Bool.not_eq_false, Bool.not_eq_true] at h
      obtain ⟨rfl, hflag⟩ := h
      refine hslip hflag _ ?_
      rw [hlearn]
      rfl

/-- Settles O47, packet by packet and slot by slot: what a barrier changes is said once (`BarrierMoved`, `BarrierNoted`), and
so is what learning of a Blight changes (`blightLearnt`). -/
theorem flagsSeen : Obligations.FlagsSeen := by
  unfold Obligations.FlagsSeen
  exact ⟨flagsLearnt, floorFlags⟩

end Sys2Proof.Settled
end

section
/-! PROOF. Ports of the fabric and what a link takes (R410 to R412, R422 to R426): the state of a port after an update, the
trailer of a packet, and the packet in its order. -/

namespace Sys2Proof.Machine

theorem RegsBut.mono {s t : State} {l m : List Nat} (h : RegsBut s t l) (hm : l ⊆ m) : RegsBut s t m :=
  fun a ha => h a fun hl => ha (hm hl)

/-! ## Ports -/

theorem port_setPort_ne (s : State) {p q : Nat} (x : PortSt) (h : q ≠ p) : port (setPort s p x) q = port s q :=
  kget_kset_ne _ _ _ (Ne.symm h)

@[simp] theorem port_mapPort_same (s : State) (p : Nat) (f : PortSt → PortSt) : port (mapPort s p f) p = f (port s p) :=
  port_setPort_same s p _

theorem port_mapPort_ne (s : State) {p q : Nat} (f : PortSt → PortSt) (h : q ≠ p) : port (mapPort s p f) q = port s q :=
  port_setPort_ne s _ h

theorem port_congr {s t : State} (h : t.fab = s.fab) (p : Nat) : port t p = port s p := by rw [port, port, h]

@[simp] theorem port_ended (s t : State) (p : Nat) : port (ended s t) p = port t p := rfl

/-- The queues of a port stand. -/
def SameQueues (x y : PortSt) : Prop := y.ctrl = x.ctrl ∧ y.best = x.best ∧ y.transit = x.transit

theorem SameQueues.trans {x y z : PortSt} (h : SameQueues x y) (h' : SameQueues y z) : SameQueues x z :=
  ⟨h'.1.trans h.1, h'.2.1.trans h.2.1, h'.2.2.trans h.2.2⟩

/-- An update that leaves the queues of port p leaves those of every port. -/
theorem mapPort_queues {s : State} {p : Nat} {f : PortSt → PortSt} (h : SameQueues (port s p) (f (port s p))) (q : Nat) :
    SameQueues (port s q) (port (mapPort s p f) q) := by
  by_cases hq : q = p
  · rw [hq, port_mapPort_same]
    exact h
  · rw [port_mapPort_ne s f hq]
    exact ⟨rfl, rfl, rfl⟩

theorem portUp_iff {s : State} {p : Nat} : portUp s p = true ↔ p < 24 ∧ portState s p = psUp := by simp [portUp]

/-- A link writes no register but the count of what the lanes of its port corrected. -/
theorem Linked.reg_eq {p : Nat} {s t : State} (h : Linked p s t) {a : Nat} (ha : a ≠ Reg.FAB_FECCORR p) :
    reg t a = reg s a := h.regs a (by simpa using ha)

/-- The registers below the ports' own stand. -/
theorem Linked.reg_global {p : Nat} {s t : State} (h : Linked p s t) {a : Nat} (ha : a < 0x9004000) :
    reg t a = reg s a := h.reg_eq (by simp only [Reg.FAB_FECCORR]; omega)

theorem Linked.refl (p : Nat) (s : State) : Linked p s s := ⟨rfl, fun _ _ => rfl⟩

/-! ## Gaps (R412) -/

/-- A port that waits for the packet it expects. -/
def gapWaited (x : PortSt) : PortSt := if x.gap then x else { x with gap := true, nakDue := true }

theorem discard_eq (s : State) (p : Nat) : discard s p = mapPort s p gapWaited := rfl

theorem discard_linked (s : State) (p : Nat) : Linked p s (discard s p) := mapPort_linked s p _

theorem gapWaited_form (x : PortSt) : gapWaited x = { x with gap := true, nakDue := (gapWaited x).nakDue } := by
  unfold gapWaited
  split
  · next h => rw [← h]
  · rfl

/-- The NAK of a gap that opens is due. -/
theorem gapWaited_nakDue {x : PortSt} (h : x.gap = false) : (gapWaited x).nakDue = true := by simp [gapWaited, h]

/-! ## Trailers (R410 to R413) -/

/-- The packets that a trailer's LACK leaves unacknowledged (R412). -/
def unacked (x : PortSt) (t : Trailer) : List Packet :=
  x.replay.filter fun k => seqDist k.trailer.lseq t.lack = 0 || 2 ^ 31 ≤ seqDist k.trailer.lseq t.lack

/-- A port that has taken a trailer. -/
def trailerTaken (x : PortSt) (t : Trailer) : PortSt :=
  let again := x.again.filter fun k => (unacked x t).any fun y => y.trailer.lseq = k.trailer.lseq
  let y := { x with
    replay := unacked x t, again := if x.resume then unacked x t else again, resume := false
    credit := x.credit.set t.crvl ((x.credit[t.crvl]?).getD 0 + t.credits) }
  if t.nak then { y with nakSeq := t.lack, naks := if x.nakSeq = t.lack then x.naks + 1 else 1, again := unacked x t } else y

theorem takeTrailer_eq (s : State) (p : Nat) (t : Trailer) :
    takeTrailer s p t = setPort s p (trailerTaken (port s p) t) := by
  unfold takeTrailer trailerTaken
  dsimp only
  split <;> rfl

/-- What a trailer leaves of its port. -/
theorem trailerTaken_form (x : PortSt) (t : Trailer) : trailerTaken x t = { x with
    replay := unacked x t, again := (trailerTaken x t).again, resume := false
    credit := x.credit.set t.crvl ((x.credit[t.crvl]?).getD 0 + t.credits)
    nakSeq := (trailerTaken x t).nakSeq, naks := (trailerTaken x t).naks } := by
  unfold trailerTaken
  dsimp only
  split <;> rfl

/-- A NAK asks for every packet that is left. -/
theorem trailerTaken_again {x : PortSt} {t : Trailer} (h : t.nak = true) : (trailerTaken x t).again = unacked x t := by
  simp [trailerTaken, h]

theorem countFec_fab (s : State) (p : Nat) (t : Trailer) : (countFec s p t).fab = s.fab := by
  unfold countFec
  split <;> rfl

/-- What the lanes corrected is counted. -/
theorem regN_countFec (s : State) (p : Nat) (t : Trailer) :
    regN (countFec s p t) (Reg.FAB_FECCORR p) = min (regN s (Reg.FAB_FECCORR p) + t.fec) 0xFFFFFFFF := by
  unfold countFec
  split
  · next h =>
    have hlt : regN s (Reg.FAB_FECCORR p) < 2 ^ 32 := (reg s (Reg.FAB_FECCORR p)).isLt
    rw [h]
    omega
  · exact regN_bump s _ _

/-- A port meets the trailer of what comes in on it. -/
def trailerIn (s : State) (p : Nat) (t : Trailer) : State := takeTrailer (countFec s p t) p t

theorem trailerIn_linked (s : State) (p : Nat) (t : Trailer) : Linked p s (trailerIn s p t) :=
  (countFec_linked s p t).trans (takeTrailer_linked _ p t)

theorem port_trailerIn_same (s : State) (p : Nat) (t : Trailer) : port (trailerIn s p t) p = trailerTaken (port s p) t := by
  rw [trailerIn, takeTrailer_eq, port_setPort_same, port_congr (countFec_fab s p t)]

theorem port_trailerIn_ne (s : State) {p q : Nat} (t : Trailer) (h : q ≠ p) : port (trailerIn s p t) q = port s q := by
  rw [trailerIn, takeTrailer_eq, port_setPort_ne _ _ h, port_congr (countFec_fab s p t)]

theorem trailerIn_queues (s : State) (p : Nat) (t : Trailer) (q : Nat) :
    SameQueues (port s q) (port (trailerIn s p t) q) := by
  by_cases hq : q = p
  · rw [hq, port_trailerIn_same, trailerTaken_form]
    exact ⟨rfl, rfl, rfl⟩
  · rw [port_trailerIn_ne s t hq]
    exact ⟨rfl, rfl, rfl⟩

theorem regN_trailerIn (s : State) (p : Nat) (t : Trailer) :
    regN (trailerIn s p t) (Reg.FAB_FECCORR p) = min (regN s (Reg.FAB_FECCORR p) + t.fec) 0xFFFFFFFF := by
  rw [trailerIn, takeTrailer_eq]
  exact regN_countFec s p t

/-! ## Packets in their order (R411, R412, R422 to R426) -/

theorem countIv_form (k : Packet) (x : PortSt) : countIv k x = { x with adm := (countIv k x).adm } := by
  unfold countIv dropOldKeys
  split
  · rfl
  · split
    · split <;> rfl
    · rfl

/-- The link has taken a packet in its order. -/
def orderTaken (s : State) (p : Nat) (k : Packet) : State :=
  mapPort s p fun x => countIv k { x with rxNext := (x.rxNext + 1) % 2 ^ 32, gap := false, rxFrame := frameOf s k }

/-- The port of a packet taken in its order expects the next LSEQ. -/
theorem port_orderTaken_same (s : State) (p : Nat) (k : Packet) : port (orderTaken s p k) p = { port s p with
    rxNext := ((port s p).rxNext + 1) % 2 ^ 32, gap := false, rxFrame := frameOf s k
    adm := (port (orderTaken s p k) p).adm } := by
  simp only [orderTaken, port_mapPort_same]
  rw [countIv_form]

/-- The payload of a packet that comes in clear, or decrypts (R422). -/
def clearPayload (s : State) (p : Nat) (k : Packet) : Option (List Byte) := if k.enc then decrypt s p k else some k.payload

theorem clearPayload_some {s : State} {p : Nat} {k : Packet} (h : k.enc = false ∨ decrypt s p k ≠ none) :
    ∃ bs, clearPayload s p k = some bs := by
  cases henc : k.enc with
  | false => exact ⟨k.payload, by simp [clearPayload, henc]⟩
  | true =>
    obtain ⟨bs, hbs⟩ := Option.ne_none_iff_exists'.1 (h.resolve_left (by simp [henc]))
    exact ⟨bs, by simp [clearPayload, henc, hbs]⟩

theorem inOrder_clear {s : State} {p : Nat} {k : Packet} {bs : List Byte} (hstomp : k.trailer.stomp = false)
    (hbs : clearPayload s p k = some bs) :
    inOrder s p k = if k.pkey ≠ fld s Reg.FAB_PKEY Fld.FAB_PKEY_PKEY then
        (creditBack (bump (orderTaken s p k) Reg.FAB_BADKEY 1) p k, none)
      else if !laneOk k.op k.vl then (creditBack (bump (orderTaken s p k) Reg.FAB_BADOP 1) p k, none)
      else (orderTaken s p k, some { k with payload := bs, enc := false, kph := false }) := by
  unfold clearPayload at hbs
  unfold inOrder
  simp only [hstomp, Bool.false_eq_true, if_false, hbs]
  rfl

/-- The payload that a packet carries does not depend on its own trailer's being taken. -/
theorem clearPayload_trailerIn (s : State) (p : Nat) (k : Packet) (t : Trailer) :
    clearPayload (trailerIn s p t) p k = clearPayload s p k := by
  have hlink := trailerIn_linked s p t
  have hadm : (port (trailerIn s p t) p).adm = (port s p).adm := by
    rw [port_trailerIn_same, trailerTaken_form]
  have hpeer : peerOf (trailerIn s p t) p = peerOf s p :=
    fld_of_reg (hlink.reg_eq (by simp only [Reg.FAB_PEER, Reg.FAB_FECCORR]; omega)) _
  have hid : deviceId (trailerIn s p t) = deviceId s := fld_of_reg (hlink.reg_global (by decide)) _
  simp only [clearPayload, decrypt, hadm, hpeer, hid]

/-- A packet with nothing wrong in it on a port that is up: its trailer is taken, and then the packet, if it is in
sequence. -/
theorem arrive_checked {s : State} {p : Nat} {k : Packet} (hp : portUp s p = true) (hf : linkFault s p k = none) :
    arrive s p k = if k.trailer.lseq ≠ (port s p).rxNext then (discard (trailerIn s p k.trailer) p, none)
      else inOrder (trailerIn s p k.trailer) p k := by
  obtain ⟨hlt, hst⟩ := portUp_iff.1 hp
  have hf' : linkFault (countFec s p k.trailer) p k = none := by
    rw [← hf, linkFault, linkFault, port_congr (countFec_fab s p k.trailer)]
  have hnext : (port (trailerIn s p k.trailer) p).rxNext = (port s p).rxNext := by
    rw [port_trailerIn_same, trailerTaken_form]
  unfold arrive
  rw [if_neg (by omega), if_neg (by rw [hst]; decide), if_neg (by simp [hp])]
  dsimp only
  rw [hf']
  dsimp only
  rw [← trailerIn, hnext]

/-- A packet taken in its order and then dropped. -/
def takenAndDropped (s : State) (p a : Nat) (k : Packet) : State :=
  creditBack (bump (orderTaken (trailerIn s p k.trailer) p k) a 1) p k

/-- A packet in sequence whose payload is at hand. -/
theorem arrive_inSequence {s : State} {p : Nat} {k : Packet} {bs : List Byte} (hp : portUp s p = true)
    (hf : linkFault s p k = none) (hseq : k.trailer.lseq = (port s p).rxNext) (hstomp : k.trailer.stomp = false)
    (hbs : clearPayload s p k = some bs) :
    arrive s p k = if k.pkey ≠ fld s Reg.FAB_PKEY Fld.FAB_PKEY_PKEY then
        (takenAndDropped s p Reg.FAB_BADKEY k, none)
      else if !laneOk k.op k.vl then (takenAndDropped s p Reg.FAB_BADOP k, none)
      else (orderTaken (trailerIn s p k.trailer) p k, some { k with payload := bs, enc := false, kph := false }) := by
  have hkey : fld (trailerIn s p k.trailer) Reg.FAB_PKEY Fld.FAB_PKEY_PKEY = fld s Reg.FAB_PKEY Fld.FAB_PKEY_PKEY :=
    fld_of_reg ((trailerIn_linked s p k.trailer).reg_global (by decide)) _
  rw [arrive_checked hp hf, if_neg (not_not.2 hseq), inOrder_clear hstomp ((clearPayload_trailerIn s p k _).trans hbs), hkey]
  rfl

/-! ## Packets that a link drops (R424, R426) -/

theorem orderTaken_linked (s : State) (p : Nat) (k : Packet) : Linked p s (orderTaken s p k) := mapPort_linked s p _

theorem orderTaken_queues (s : State) (p : Nat) (k : Packet) (q : Nat) :
    SameQueues (port s q) (port (orderTaken s p k) q) := by
  refine mapPort_queues ?_ q
  rw [countIv_form]
  exact ⟨rfl, rfl, rfl⟩

theorem creditBack_queues (s : State) (p : Nat) (k : Packet) (q : Nat) :
    SameQueues (port s q) (port (creditBack s p k) q) := mapPort_queues ⟨rfl, rfl, rfl⟩ q

/-- From `s` to `t` a link has taken a packet and dropped it, counted in a register of the fabric. -/
structure LinkDropped (p a : Nat) (s t : State) : Prop where
  form : t = { s with fab := t.fab, regs := t.regs }
  regs : RegsBut s t [a, Reg.FAB_FECCORR p]
  count : regN t a = min (regN s a + 1) 0xFFFFFFFF
  queues : ∀ q, SameQueues (port s q) (port t q)

theorem takenAndDropped_linkDropped (s : State) (p : Nat) (k : Packet) {a : Nat} (ha : a < 0x9004000) :
    LinkDropped p a s (takenAndDropped s p a k) := by
  have hlink := (trailerIn_linked s p k.trailer).trans (orderTaken_linked _ p k)
  have hqueues (q : Nat) := (trailerIn_queues s p k.trailer q).trans (orderTaken_queues _ p k q)
  unfold takenAndDropped
  generalize orderTaken (trailerIn s p k.trailer) p k = v at hlink hqueues
  refine ⟨?_, fun b hb => ?_, ?_, fun q => (hqueues q).trans (creditBack_queues _ p k q)⟩
  · rw [hlink.form]
    rfl
  · simp only [List.mem_cons, List.not_mem_nil, or_false, not_or] at hb
    rw [reg_congr (creditBack_regs _ p k), bump, reg_setRegN_ne _ _ (Ne.symm hb.1), hlink.reg_eq hb.2]
  · rw [regN_congr (creditBack_regs _ p k), regN_bump, regN_of_reg (hlink.reg_global ha)]

end Sys2Proof.Machine
end

section
/-! PROOF. What a link accepts, and a packet with another partition's key (R411, R412, R422, R424, R456). -/

namespace Sys2Proof.Settled

open Sys2Proof.Machine

/-- A packet in sequence that nothing is wrong with is taken. -/
theorem linkAccepts_inSequence {s : State} {p : Nat} {k : Packet} {bs : List Byte} (hp : portUp s p = true)
    (hf : linkFault s p k = none) (hseq : k.trailer.lseq = (port s p).rxNext) (hstomp : k.trailer.stomp = false)
    (hkey : k.pkey = fld s Reg.FAB_PKEY Fld.FAB_PKEY_PKEY) (hlane : laneOk k.op k.vl = true)
    (hbs : clearPayload s p k = some bs) :
    ∃ u, arrive s p k = (u, some { k with payload := bs, enc := false, kph := false })
      ∧ u = { s with fab := u.fab, regs := u.regs } ∧ RegsBut s u [Reg.FAB_FECCORR p]
      ∧ regN u (Reg.FAB_FECCORR p) = min (regN s (Reg.FAB_FECCORR p) + k.trailer.fec) 0xFFFFFFFF
      ∧ (port u p).rxNext = ((port s p).rxNext + 1) % 2 ^ 32 ∧ (port u p).gap = false
      ∧ (port u p).owed = (port s p).owed ∧ ∀ q, q ≠ p → port u q = port s q := by
  have harr := arrive_inSequence hp hf hseq hstomp hbs
  rw [if_neg (not_not.2 hkey), if_neg (by simp [hlane])] at harr
  have hlink := (trailerIn_linked s p k.trailer).trans (orderTaken_linked _ p k)
  have hport := port_orderTaken_same (trailerIn s p k.trailer) p k
  rw [port_trailerIn_same, trailerTaken_form] at hport
  refine ⟨_, harr, hlink.form, hlink.regs, regN_trailerIn s p k.trailer, ?_, ?_, ?_, fun q hq => ?_⟩
  · rw [hport]
  · rw [hport]
  · rw [hport]
  · exact (port_mapPort_ne _ _ hq).trans (port_trailerIn_ne s _ hq)

/-- A packet out of sequence is discarded, and its gap waited out (R412). -/
theorem linkAccepts_gap {s : State} {p : Nat} {k : Packet} (hp : portUp s p = true) (hf : linkFault s p k = none)
    (hseq : k.trailer.lseq ≠ (port s p).rxNext) :
    ∃ u, arrive s p k = (u, none) ∧ u = { s with fab := u.fab, regs := u.regs }
      ∧ RegsBut s u [Reg.FAB_FECCORR p] ∧ (port u p).rxNext = (port s p).rxNext ∧ (port u p).gap = true
      ∧ ((port s p).gap = false → (port u p).nakDue = true) := by
  have harr := arrive_checked hp hf
  rw [if_pos hseq] at harr
  have hlink := (trailerIn_linked s p k.trailer).trans (discard_linked _ p)
  refine ⟨_, harr, hlink.form, hlink.regs, ?_⟩
  rw [discard_eq, port_mapPort_same, port_trailerIn_same]
  refine ⟨?_, ?_, fun hgap => gapWaited_nakDue ?_⟩
  · rw [gapWaited_form, trailerTaken_form]
  · rw [gapWaited_form]
  · rw [trailerTaken_form]
    exact hgap

theorem linkAccepts : Statements.LinkAccepts := fun _ _ _ _ hp hf =>
  ⟨fun _ hseq hstomp hkey hlane hbs => linkAccepts_inSequence hp hf hseq hstomp hkey hlane hbs, linkAccepts_gap hp hf⟩

/-- Whatever its opcode, the row of a packet that the link drops leaves what the link left. -/
theorem packetRow_dropped {s u : State} {p a : Nat} {k : Packet} (harr : arrive s p k = (u, none))
    (hu : LinkDropped p a s u) : ∀ c ∈ Statements.packetRows p k, k.op = c.2 → exec c.1 s = finish s u := by
  have hrecv (op : Nat) (hop : k.op = op) (act : Packet → State → State) : recv s p op k act = u := by
    rw [recv, if_neg (not_not.2 hop), harr]
  have hhop (op : Nat) (hop : k.op = op) (act : Packet → State → State) : recvHop op p k act s = u := by
    rw [recvHop, if_neg (not_not.2 hop), harr]
  have hstill : orWait s u = u := orWait_still (by rw [hu.form])
  intro c hc hop
  simp only [Statements.packetRows, List.mem_cons, List.not_mem_nil, or_false] at hc
  rcases hc with rfl | rfl | rfl | rfl | rfl | rfl | rfl | rfl | rfl | rfl | rfl | rfl | rfl | rfl
  iterate 6 exact congrArg (finish s) (hrecv _ hop _)
  · refine (congrArg (fun w => finish s (orWait s w)) (hrecv _ hop _)).trans ?_
    rw [hstill]
  iterate 2 exact congrArg (finish s) (hrecv _ hop _)
  iterate 4 exact congrArg (finish s) (hhop _ hop _)
  exact congrArg (finish s) (hrecv _ hop _)

theorem badKey : Statements.BadKey := by
  intro s p k ha _ hp hf hseq hstomp hclear hkey
  obtain ⟨bs, hbs⟩ := clearPayload_some hclear
  have harr := arrive_inSequence hp hf hseq hstomp hbs
  rw [if_pos hkey] at harr
  have hdrop := takenAndDropped_linkDropped s p k (a := Reg.FAB_BADKEY) (by decide)
  generalize takenAndDropped s p Reg.FAB_BADKEY k = u at harr hdrop
  have hform : ended s u = { s with regs := (ended s u).regs, fab := (ended s u).fab, msix := (ended s u).msix
                                    edge := (ended s u).edge } := by
    have hu := hdrop.form
    rw [hu]
    rfl
  refine ⟨fun c hc hop => runs_finish (packetRow_dropped harr hdrop c hc hop) ha ⟨hdrop.count, hdrop.regs, hform,
    fun q => ⟨(hdrop.queues q).1, (hdrop.queues q).2.1⟩⟩, fun hroute => ?_⟩
  have htransit : transit s p k false = u := by
    rw [transit, if_neg hroute, harr]
    rfl
  exact runs_finish (congrArg (finish s) htransit) ha ⟨hdrop.count, hdrop.regs, hform,
    fun q => ⟨(hdrop.queues q).2.2, (hdrop.queues q).2.1⟩⟩

/-- Settles O38: `arrive_checked` and `arrive_inSequence` say what a link does with a packet that has nothing wrong in it. -/
theorem linkReceives : Obligations.LinkReceives := ⟨linkAccepts, badKey⟩

end Sys2Proof.Settled
end

section
/-! PROOF. A failed lane of an electrical port that counts as about to move (R414, R415): nothing is left uncovered, so the
port is not narrowed. -/

namespace Sys2Proof.Settled

open Sys2Proof.Machine

/-- Electrical port 16 of a device that works has asked its partner to move lane 0 to a spare, as an optical port would. -/
def askedElectrical : State := mapPort { rst := { mainPg := true } } 16 fun x => { x with asked := [0] }

/-- Lane 0 fails: it is shown, and as the port is about to move it, the port keeps its width. -/
theorem wavelengthFail_asked : wavelengthFail askedElectrical 16 0 = failLane askedElectrical 16 0 := by
  have hcovered : coveredLane (failLane askedElectrical 16 0) 16 = some 0 := by decide +kernel
  have hfailed : lanesFailed (failLane askedElectrical 16 0) 16 = 1 := by decide +kernel
  have huncovered : uncovered (failLane askedElectrical 16 0) 16 = [] := by
    rw [uncovered, hcovered, hfailed]
    decide
  have hnarrow : wavelengthFail askedElectrical 16 0 = narrowPort (failLane askedElectrical 16 0) 16 := rfl
  rw [hnarrow, narrowPort, huncovered]
  rfl

theorem failLane_asked_half : portHalf (failLane askedElectrical 16 0) 16 = false := by decide +kernel

/-- Refutes O42: a failed lane of an electrical port that the port has asked to move does not narrow it (R415). -/
theorem not_lanesAndLocks : ¬ Obligations.LanesAndLocks := by
  unfold Obligations.LanesAndLocks
  intro h
  have halive : alive askedElectrical = true := by decide +kernel
  obtain ⟨-, hfail, -, -⟩ := h askedElectrical 16 halive (by decide)
  obtain ⟨-, -, hnarrowed⟩ := hfail 0 (.inl (by decide)) (by decide +kernel)
  obtain ⟨t, hexec, -, hhalf, -, -⟩ := hnarrowed (by decide) (by decide +kernel) (by decide +kernel)
  have hrun : exec (.wavelengthFail 16 0) askedElectrical = finish askedElectrical (wavelengthFail askedElectrical 16 0) := rfl
  rw [hrun, wavelengthFail_asked, finish_alive halive] at hexec
  cases hexec
  exact absurd (failLane_asked_half.symm.trans hhalf) (by decide)

end Sys2Proof.Settled
end

section
/-! PROOF. Link-local messages (R47, R417, R418): where their packets go, and what they leave of everything else. -/

namespace Sys2Proof.Machine

/-- Port p with the packets of a link-local message in its queue: the Control queue of a link that is up, else the packets
that wait for a slot; without a frame nothing waits. -/
def localQueued (tagged : Bool) (s : State) (p : Nat) (ks : List Packet) : PortSt :=
  if portUp s p then { port s p with ctrl := (port s p).ctrl ++ ks }
  else if ticking s then
    { port s p with adm := { (port s p).adm with out := (port s p).adm.out ++ ks.map fun k => (tagged, k) } }
  else port s p

/-- The packets of a link-local message that leave at once (R47). -/
def localWire (tagged : Bool) (s : State) (p : Nat) (ks : List Packet) : List Wire :=
  if portUp s p || ticking s then []
  else ks.map (Statements.outside s p (if tagged then some (port s p).adm.next else none))

/-- From `s` to `t` the packets of a link-local message have been sent on port p. -/
structure LocalSent (tagged : Bool) (p : Nat) (ks : List Packet) (s t : State) : Prop where
  form : t = { s with fab := { s.fab with ports := t.fab.ports }, wire := t.wire }
  others : ∀ q, q ≠ p → port t q = port s q
  here : port t p = localQueued tagged s p ks
  wire : t.wire = s.wire ++ localWire tagged s p ks

section
variable {tagged : Bool} {p : Nat} {ks : List Packet} {s t : State} (h : LocalSent tagged p ks s t)
include h

theorem LocalSent.regs : t.regs = s.regs := by rw [h.form]
theorem LocalSent.memSame : MemSame s t := by rw [h.form]; exact ⟨rfl, rfl⟩
theorem LocalSent.reg_eq (a : Nat) : reg t a = reg s a := reg_congr h.regs a
theorem LocalSent.portUp (q : Nat) : portUp t q = Machine.portUp s q := by
  rw [Machine.portUp, Machine.portUp, portState, portState, fld_congr h.regs]
theorem LocalSent.ticking : ticking t = Machine.ticking s := by rw [Machine.ticking, Machine.ticking, fld_congr h.regs]
theorem LocalSent.frameNo : frameNo t = Machine.frameNo s := reg64_congr h.regs _

/-- A port keeps what no message touches. -/
theorem LocalSent.port_form (q : Nat) : port t q = { port s q with
    ctrl := (port t q).ctrl, adm := { (port s q).adm with out := (port t q).adm.out } } := by
  by_cases hq : q = p
  · rw [hq, h.here, localQueued]
    split
    · rfl
    · split <;> rfl
  · rw [h.others q hq]

/-- The admission of a port keeps all but the packets that wait for a slot. -/
theorem LocalSent.adm_form (q : Nat) : (port t q).adm = { (port s q).adm with out := (port t q).adm.out } := by
  rw [h.port_form]

end

theorem LocalSent.nil (tagged : Bool) (p : Nat) (s : State) : LocalSent tagged p [] s s := by
  refine ⟨rfl, fun _ _ => rfl, ?_, ?_⟩
  · simp [localQueued]
  · simp [localWire]

/-- One packet of the Control class. -/
theorem sendLocal_sent (tagged : Bool) (s : State) (p : Nat) {k : Packet} (hvl : k.vl = vlCtrl) :
    LocalSent tagged p [k] s (sendLocal tagged s p k) := by
  cases hup : portUp s p with
  | true =>
    have hsend : sendLocal tagged s p k = mapPort s p fun x => { x with ctrl := x.ctrl ++ [k] } := by
      simp [sendLocal, hup, enqueue, hvl]
    rw [hsend]
    exact ⟨rfl, fun q hq => port_mapPort_ne s _ hq, by simp [localQueued, hup],
      by simp [localWire, hup, mapPort, setPort]⟩
  | false =>
    cases htick : ticking s with
    | true =>
      have hsend : sendLocal tagged s p k
          = mapPort s p fun x => { x with adm := { x.adm with out := x.adm.out ++ [(tagged, k)] } } := by
        simp [sendLocal, hup, htick]
      rw [hsend]
      exact ⟨rfl, fun q hq => port_mapPort_ne s _ hq, by simp [localQueued, hup, htick],
        by simp [localWire, htick, mapPort, setPort]⟩
    | false =>
      have hsend : sendLocal tagged s p k = sendOutside (if tagged then some (port s p).adm.next else none) s p k := by
        simp [sendLocal, hup, htick]
      rw [hsend]
      refine ⟨rfl, fun q hq => rfl, ?_, ?_⟩
      · simp only [localQueued, hup, htick, Bool.false_eq_true, if_false]
        rfl
      · simp only [localWire, hup, htick, Bool.or_self, Bool.false_eq_true, if_false]
        rfl

theorem LocalSent.trans {tagged : Bool} {p : Nat} {ks ls : List Packet} {s t u : State} (h : LocalSent tagged p ks s t)
    (h' : LocalSent tagged p ls t u) : LocalSent tagged p (ks ++ ls) s u := by
  refine ⟨?_, fun q hq => (h'.others q hq).trans (h.others q hq), ?_, ?_⟩
  · rw [h'.form, h.form]
  · rw [h'.here, localQueued, localQueued, h.portUp, h.ticking, h.here, localQueued]
    split
    · simp
    · split <;> simp
  · rw [h'.wire, h.wire, localWire, localWire, localWire, h.portUp, h.ticking, h.here, localQueued]
    split
    · simp
    · next hno =>
      simp only [Bool.or_eq_true, not_or, Bool.not_eq_true] at hno
      have hout (keys : Option (List Byte)) : Statements.outside t p keys = Statements.outside s p keys := by
        funext k
        rw [Statements.outside, Statements.outside, h.frameNo]
      simp [hno.1, hno.2, hout]

/-- The packets of a message are sent one after another. -/
theorem sendAll_sent (tagged : Bool) (p : Nat) {ks : List Packet} (hvl : ∀ k ∈ ks, k.vl = vlCtrl) (s : State) :
    LocalSent tagged p ks s (ks.foldl (fun s k => sendLocal tagged s p k) s) := by
  induction ks generalizing s with
  | nil => exact .nil tagged p s
  | cons k ks ih =>
    exact (sendLocal_sent tagged s p (hvl k (List.mem_cons_self ..))).trans
      (ih (fun x hx => hvl x (List.mem_cons_of_mem k hx)) _)

theorem msgPackets_vl (s : State) (p op : Nat) (msg : List Byte) : ∀ k ∈ msgPackets s p op msg, k.vl = vlCtrl := by
  intro k hk
  simp only [msgPackets, List.mem_map] at hk
  obtain ⟨i, -, rfl⟩ := hk
  rfl

theorem sendLinkctl_sent (s : State) (p : Nat) (c : LinkCtl) :
    LocalSent false p (msgPackets s p opLinkctl (linkctlPayload c)) s (sendLinkctl s p c) :=
  sendAll_sent false p (msgPackets_vl _ _ _ _) s

theorem sendAdmit_sent (tagged : Bool) (s : State) (p : Nat) (msg : List Byte) :
    LocalSent tagged p (msgPackets s p opAdmit msg) s (sendAdmit tagged s p msg) :=
  sendAll_sent tagged p (msgPackets_vl _ _ _ _) s

end Sys2Proof.Machine
end

section
/-! PROOF. Packets in transit (R429 to R431, R437, R438): what leaves on a port, and what is dropped. -/

namespace Sys2Proof.Machine

/-! ## Packets on the wire (R410, R421, R422, R425) -/

/-- A seal fills in the HCRC, the tag and the CRC. -/
theorem sealPkt_form (keys : Option (List Byte)) (k : Packet) : sealPkt keys k = { k with
    hcrc := (sealPkt keys k).hcrc
    trailer := { k.trailer with tag := (sealPkt keys k).trailer.tag, crc := (sealPkt keys k).trailer.crc } } := by
  unfold sealPkt
  split
  · dsimp only
    split <;> rfl
  · rfl

theorem encrypt_form (key : List Byte) (n : Nat) (k : Packet) : encrypt key n k = { k with
    hcrc := (encrypt key n k).hcrc, payload := (encrypt key n k).payload
    trailer := { k.trailer with tag := (encrypt key n k).trailer.tag } } := by
  unfold encrypt
  dsimp only

/-- What a packet on the wire has of the packet that was sent. -/
structure OnWire (s : State) (p : Nat) (k : Packet) (stomp : Bool) (x : Packet) : Prop where
  ttl : x.ttl = k.ttl
  dst : x.dst = k.dst
  src : x.src = k.src
  cartid : x.cartid = k.cartid
  cseq : x.cseq = k.cseq
  lseq : x.trailer.lseq = (port s p).txNext
  stomp : x.trailer.stomp = stomp
  clear : linkEnc s k = false → x.payload = k.payload

theorem onWire_keeps (s : State) (p : Nat) (k : Packet) (stomp : Bool) : OnWire s p k stomp (onWire s p k stomp) := by
  unfold onWire
  dsimp only
  rw [sealPkt_form]
  cases henc : linkEnc s k with
  | true =>
    rw [if_pos rfl, encrypt_form]
    exact ⟨rfl, rfl, rfl, rfl, rfl, rfl, rfl, fun h => absurd (henc.symm.trans h) (by decide)⟩
  | false => exact ⟨rfl, rfl, rfl, rfl, rfl, rfl, rfl, fun _ => rfl⟩

/-- From `s` to `t` a link has taken a packet, and packets may have left the device. -/
structure LinkMoved (p : Nat) (s t : State) : Prop where
  form : t = { s with fab := t.fab, regs := t.regs, wire := t.wire }
  regs : RegsBut s t [Reg.FAB_FECCORR p]

theorem Linked.moved {p : Nat} {s t : State} (h : Linked p s t) : LinkMoved p s t := ⟨by rw [h.form], h.regs⟩

theorem LinkMoved.trans {p : Nat} {s t u : State} (h : LinkMoved p s t) (h' : LinkMoved p t u) : LinkMoved p s u :=
  ⟨by rw [h'.form, h.form], fun a ha => (h'.regs a ha).trans (h.regs a ha)⟩

theorem LinkMoved.memSame {p : Nat} {s t : State} (h : LinkMoved p s t) : MemSame s t := by rw [h.form]; exact ⟨rfl, rfl⟩

theorem transmit_moved (p : Nat) (s : State) (q : Nat) (k : Packet) (stomp : Bool) : LinkMoved p s (transmit s q k stomp) :=
  ⟨rfl, fun _ _ => rfl⟩

theorem transmit_wire (s : State) (q : Nat) (k : Packet) (stomp : Bool) :
    (transmit s q k stomp).wire = s.wire ++ [.packet q (onWire s q k stomp)] := rfl

/-- Sending leaves what its port waits to receive. -/
theorem transmit_rx (s : State) (q : Nat) (k : Packet) (stomp : Bool) (p : Nat) :
    (port (transmit s q k stomp) p).rxNext = (port s p).rxNext := by
  have hports : (transmit s q k stomp).fab = (setPort s q (port (transmit s q k stomp) q)).fab := by
    have : port (transmit s q k stomp) q = _ := port_setPort_same s q _
    rw [this]
    rfl
  by_cases hp : p = q
  · have : port (transmit s q k stomp) q = _ := port_setPort_same s q _
    rw [hp, this]
    rfl
  · rw [port_congr hports, port_setPort_ne _ _ hp]

/-! ## Routes (R429) -/

/-- A route depends on the device's number and the route tables. -/
theorem routeOf_of_tables {s t : State} (hid : reg t Reg.FAB_ID = reg s Reg.FAB_ID)
    (h : ∀ a, 0x9001000 ≤ a → a < 0x9004000 → reg t a = reg s a) (d : Nat) : routeOf t d = routeOf s d := by
  have hdev : deviceId t = deviceId s := fld_of_reg hid _
  have hgroup (i : Nat) : reg t (Reg.FAB_GROUTE (i % 1024)) = reg s (Reg.FAB_GROUTE (i % 1024)) := by
    have hi := Nat.mod_lt i (show 0 < 1024 by decide)
    exact h _ (by simp only [Reg.FAB_GROUTE]; omega) (by simp only [Reg.FAB_GROUTE]; omega)
  have hmember (i : Nat) : reg t (Reg.FAB_MROUTE (i % 256)) = reg s (Reg.FAB_MROUTE (i % 256)) := by
    have hi := Nat.mod_lt i (show 0 < 256 by decide)
    exact h _ (by simp only [Reg.FAB_MROUTE]; omega) (by simp only [Reg.FAB_MROUTE]; omega)
  unfold routeOf
  rw [hdev]
  dsimp only
  split
  · rw [fld_of_reg (hgroup _), fld_of_reg (hgroup _)]
  · rw [fld_of_reg (hmember _), fld_of_reg (hmember _)]

theorem Linked.routeOf {p : Nat} {s t : State} (h : Linked p s t) (d : Nat) : routeOf t d = Machine.routeOf s d :=
  routeOf_of_tables (h.reg_global (by decide)) (fun _ _ ha => h.reg_global ha) d

/-! ## Packets that the link takes (R410 to R412) -/

/-- A packet that the link takes comes on with its payload in clear, and is else as it was. -/
theorem inOrder_packet {s u : State} {p : Nat} {k k' : Packet} (h : inOrder s p k = (u, some k')) :
    k' = { k with payload := k'.payload, enc := false, kph := false } := by
  unfold inOrder at h
  dsimp only at h
  split at h
  · cases h
  · split at h
    · cases h
    · split at h
      · cases h
      · split at h
        · cases h
        · cases h
          rfl

theorem arrive_packet {s u : State} {p : Nat} {k k' : Packet} (h : arrive s p k = (u, some k')) :
    k' = { k with payload := k'.payload, enc := false, kph := false } := by
  unfold arrive at h
  dsimp only at h
  split at h
  · cases h
  split at h
  · cases h
  split at h
  · cases h
  split at h
  · cases h
  split at h
  · cases h
  exact inOrder_packet h

/-! ## Drops (R429, R430) -/

/-- A drop is counted; a packet that needs an answer draws a REFUSE to its source. -/
theorem dropTransit_counted {s : State} {a : Nat} (code : Nat) {k : Packet} (h : answers k.op = false) :
    dropTransit s a code k = bump s a 1 := by
  simp [dropTransit, h]

theorem dropTransit_answered {s : State} {a q : Nat} (code : Nat) {k : Packet} (ha : a < 0x9001000) (hid : a ≠ Reg.FAB_ID)
    (h : answers k.op = true) (hroute : routeOf s k.src = some q) (hq : q < 24) :
    dropTransit s a code k = enqueue (bump s a 1) q (refusalOf (bump s a 1) k code) := by
  have hsame : routeOf (bump s a 1) k.src = routeOf s k.src :=
    routeOf_of_tables (reg_bump_ne s 1 hid) (fun b hb _ => reg_bump_ne s 1 (by omega)) k.src
  simp only [dropTransit, h, if_true]
  exact refuse_routed (hsame.trans hroute) hq code

/-! ## The way on (R429 to R431) -/

/-- Why a packet in transit is dropped, if it is: no route, or no TTL left. -/
def transitDrop (s : State) (k : Packet) : Option (Nat × Nat) :=
  if routeOf s k.dst = none then some (Reg.FAB_NOROUTE, 6) else if k.ttl = 0 then some (Reg.FAB_TTLDROP, 7) else none

theorem routeIn_dropped {s : State} {p : Nat} {k : Packet} {r : Nat × Nat} (act : Packet → State → State)
    (haway : routeOf s k.dst ≠ some 30) (h : transitDrop s k = some r) :
    routeIn s p k act = dropTransit (creditBack s p k) r.1 r.2 k := by
  unfold transitDrop at h
  unfold routeIn
  cases hroute : routeOf s k.dst with
  | none =>
    rw [if_pos hroute] at h
    cases h
    rfl
  | some q =>
    rw [if_neg (by simp [hroute])] at h
    split at h
    · next httl =>
      cases h
      have hq : q ≠ 30 := fun hq => haway (by rw [hroute, hq])
      simp [hq, httl]
    · cases h

theorem routeIn_forwarded {s : State} {p q : Nat} {k : Packet} (act : Packet → State → State)
    (hroute : routeOf s k.dst = some q) (hq : q < 24) (httl : k.ttl ≠ 0) :
    routeIn s p k act = forward s p q { k with ttl := k.ttl - 1 } := by
  unfold routeIn
  rw [hroute]
  simp only [if_neg (show q ≠ 30 by omega), if_neg httl, if_pos hq]

/-! ## Packets whose trailer fails on the way (R431) -/

/-- A packet met with what is wrong in it counted, if anything is. -/
def faultMarked (s : State) (p : Nat) (k : Packet) : State :=
  match linkFault s p k with
  | some f => countFault s p f
  | none => s

/-- From `s` to `t` a port has counted faults. -/
structure FaultCounted (p : Nat) (s t : State) : Prop where
  form : t = { s with regs := t.regs }
  regs : RegsBut s t [Reg.FAB_CRCERR p, Reg.FAB_TAGERR p]

theorem bump_faultCounted (s : State) {p a : Nat} (h : a ∈ [Reg.FAB_CRCERR p, Reg.FAB_TAGERR p]) :
    FaultCounted p s (bump s a 1) := ⟨rfl, fun _ hb => reg_bump_ne s 1 fun hab => hb (hab ▸ h)⟩

/-- What a link finds in a packet as it stands is a failed check of its header, its CRC or its tag. -/
theorem faultMarked_counts (s : State) (p : Nat) (k : Packet) : FaultCounted p s (faultMarked s p k) := by
  unfold faultMarked linkFault
  split
  · next f hf =>
    have hcheck : f = .badHcrc ∨ f = .badCrc ∨ f = .badTag := by
      split at hf
      · cases hf; simp
      · split at hf
        · cases hf; simp
        · split at hf
          · cases hf; simp
          · cases hf
    rcases hcheck with rfl | rfl | rfl
    · exact bump_faultCounted s (by simp)
    · exact bump_faultCounted s (by simp)
    · exact bump_faultCounted s (by simp)
  · exact ⟨rfl, fun _ _ => rfl⟩

section
variable {p : Nat} {s t : State} (h : FaultCounted p s t)
include h

theorem FaultCounted.fab : t.fab = s.fab := by rw [h.form]
theorem FaultCounted.wire : t.wire = s.wire := by rw [h.form]
theorem FaultCounted.memSame : MemSame s t := by rw [h.form]; exact ⟨rfl, rfl⟩

theorem FaultCounted.reg_eq {a : Nat} (hc : a ≠ Reg.FAB_CRCERR p) (ht : a ≠ Reg.FAB_TAGERR p) : reg t a = reg s a :=
  h.regs a (by simpa using ⟨hc, ht⟩)

theorem FaultCounted.reg_global {a : Nat} (ha : a < 0x9004000) : reg t a = reg s a :=
  h.reg_eq (by simp only [Reg.FAB_CRCERR]; omega) (by simp only [Reg.FAB_TAGERR]; omega)

theorem FaultCounted.routeOf (d : Nat) : routeOf t d = Machine.routeOf s d :=
  routeOf_of_tables (h.reg_global (by decide)) (fun _ _ ha => h.reg_global ha) d

theorem FaultCounted.linkClear (q : Nat) : linkClear t q = Machine.linkClear s q := by
  have hstat : portState t q = portState s q :=
    fld_of_reg (h.reg_eq (by simp only [Reg.FAB_PSTAT, Reg.FAB_CRCERR]; omega)
      (by simp only [Reg.FAB_PSTAT, Reg.FAB_TAGERR]; omega)) _
  rw [Machine.linkClear, Machine.linkClear, portUp, portUp, hstat, port_congr h.fab]

theorem FaultCounted.mayStart (q : Nat) (k : Packet) : mayStart t q k = Machine.mayStart s q k := by
  rw [Machine.mayStart, Machine.mayStart, port_congr h.fab]

end

theorem stompOn_faultMarked {s : State} {p : Nat} {k : Packet} (hp : p < 24) (hup : portUp s p = true)
    (hcrc : k.hcrc = hcrcOf k) : stompOn s p k =
      if k.pkey ≠ fld (faultMarked s p k) Reg.FAB_PKEY Fld.FAB_PKEY_PKEY then
        discard (bump (faultMarked s p k) Reg.FAB_BADKEY 1) p
      else if !laneOk k.op k.vl then discard (bump (faultMarked s p k) Reg.FAB_BADOP 1) p
      else match Machine.routeOf (faultMarked s p k) k.dst with
        | some q => discard (if q < 24 && linkClear (faultMarked s p k) q && mayStart (faultMarked s p k) q k && k.ttl ≠ 0 then
            transmit (faultMarked s p k) q { k with ttl := k.ttl - 1 } true else faultMarked s p k) p
        | none => discard (faultMarked s p k) p := by
  obtain ⟨-, hst⟩ := portUp_iff.1 hup
  unfold stompOn
  rw [if_neg (by omega), if_neg (by rw [hst]; decide), if_neg (by simp [hup]), if_neg (not_not.2 hcrc)]
  rfl

end Sys2Proof.Machine

namespace Sys2Proof.Settled

open Sys2Proof.Machine

section
variable {s u : State} {p : Nat} {k k' : Packet} (ha : alive s = true) (haway : routeOf s k.dst ≠ some 30)
  (harr : arrive s p k = (u, some k'))
include ha haway harr

/-- A packet in transit that the link takes goes by its route. -/
theorem transit_runs {P : State → Prop} (h : P (ended s (routeIn u p k' fun _ s => s))) :
    Runs (.transitPacket p k false) s P := by
  refine runs_finish (congrArg (finish s) ?_) ha h
  rw [transit, if_neg haway, harr]
  rfl

/-- With nothing before it, the packet leaves at once with one TTL less. -/
theorem transit_leaves {q : Nat} (hroute : routeOf u k'.dst = some q) (hq : q < 24) (httl : k'.ttl ≠ 0)
    (hready : (linkClear u q && !((port u q).transit.any fun x => keepsOrder x.2 k') && mayStart u q k') = true) :
    Runs (.transitPacket p k false) s fun t =>
      t = { s with regs := t.regs, fab := t.fab, wire := t.wire, msix := t.msix, edge := t.edge }
        ∧ RegsBut s t [Reg.FAB_FECCORR p] ∧ ∃ x, t.wire = s.wire ++ [.packet q x] ∧ x.ttl = k'.ttl - 1 ∧ x.dst = k'.dst
        ∧ x.src = k'.src ∧ x.cartid = k'.cartid ∧ x.cseq = k'.cseq ∧ x.trailer.lseq = (port u q).txNext
        ∧ (linkEnc u k' = false → x.payload = k'.payload) := by
  have hlink := (arrive_linked harr).2
  refine transit_runs ha haway harr ?_
  rw [routeIn_forwarded _ hroute hq httl, forward]
  refine (if_pos hready).symm ▸ ?_
  have hback := creditBack_linked u p { k' with ttl := k'.ttl - 1 }
  have hnext : (port (creditBack u p { k' with ttl := k'.ttl - 1 }) q).txNext = (port u q).txNext := by
    by_cases hqp : q = p
    · rw [hqp, creditBack, port_mapPort_same]
    · rw [creditBack, port_mapPort_ne _ _ hqp]
  have hx := onWire_keeps (creditBack u p { k' with ttl := k'.ttl - 1 }) q { k' with ttl := k'.ttl - 1 } false
  have hmoved := (hlink.trans hback).moved.trans (transmit_moved p _ q { k' with ttl := k'.ttl - 1 } false)
  have hwire := transmit_wire (creditBack u p { k' with ttl := k'.ttl - 1 }) q { k' with ttl := k'.ttl - 1 } false
  have hwire0 : (creditBack u p { k' with ttl := k'.ttl - 1 }).wire = s.wire := by rw [(hlink.trans hback).form]
  rw [hwire0] at hwire
  generalize transmit _ q _ false = v at hmoved hwire
  refine ⟨?_, hmoved.regs, _, hwire, hx.ttl, hx.dst, hx.src, hx.cartid, hx.cseq, hx.lseq.trans hnext, hx.clear⟩
  have hv := hmoved.form
  rw [hv]
  rfl

/-- Otherwise it waits in order. -/
theorem transit_waits {q : Nat} (hroute : routeOf u k'.dst = some q) (hq : q < 24) (httl : k'.ttl ≠ 0)
    (hready : (linkClear u q && !((port u q).transit.any fun x => keepsOrder x.2 k') && mayStart u q k') = false) :
    Runs (.transitPacket p k false) s fun t =>
      t = { s with regs := t.regs, fab := t.fab, msix := t.msix, edge := t.edge } ∧ RegsBut s t [Reg.FAB_FECCORR p]
        ∧ (port t q).transit = (port u q).transit ++ [(p, { k' with ttl := k'.ttl - 1 })] := by
  have hlink := (arrive_linked harr).2
  refine transit_runs ha haway harr ?_
  have hforward : routeIn u p k' (fun _ s => s)
      = mapPort u q fun x => { x with transit := x.transit ++ [(p, { k' with ttl := k'.ttl - 1 })] } :=
    (routeIn_forwarded _ hroute hq httl).trans (if_neg (ne_true_of_eq_false hready))
  rw [hforward]
  refine ⟨?_, fun a h => hlink.regs a h, ?_⟩
  · rw [hlink.form]
    rfl
  · rw [port_ended, port_mapPort_same]

/-- A drop is counted. -/
theorem transit_dropped {r : Nat × Nat} (hdrop : transitDrop u k' = some r) (hr : r.1 < 0x9001000)
    (hans : answers k'.op = false) : Runs (.transitPacket p k false) s fun t =>
      regN t r.1 = min (regN s r.1 + 1) 0xFFFFFFFF ∧ RegsBut s t [r.1, Reg.FAB_FECCORR p] ∧ MemSame s t := by
  have hlink := ((arrive_linked harr).2).trans (creditBack_linked u p k')
  have haway' : routeOf u k'.dst ≠ some 30 := by
    rw [(arrive_linked harr).2.routeOf, arrive_packet harr]
    exact haway
  refine transit_runs ha haway harr ?_
  rw [routeIn_dropped _ haway' hdrop, dropTransit_counted _ hans]
  refine ⟨?_, fun a h => ?_, hlink.memSame⟩
  · rw [ended_regN, regN_bump, regN_of_reg (hlink.reg_global (by omega))]
  · simp only [List.mem_cons, List.not_mem_nil, or_false, not_or] at h
    rw [ended_reg, reg_bump_ne _ _ (Ne.symm h.1), hlink.reg_eq h.2]

/-- A drop that needs an answer is answered as well. -/
theorem transit_refused {r : Nat × Nat} (hdrop : transitDrop u k' = some r) (hr : r.1 < 0x9001000) (hid : r.1 ≠ Reg.FAB_ID)
    (hcode : r.2 < 256) {q : Nat} (hans : answers k'.op = true) (hroute : routeOf u k'.src = some q) (hq : q < 24) :
    Runs (.transitPacket p k false) s fun t =>
      regN t r.1 = min (regN s r.1 + 1) 0xFFFFFFFF ∧ RegsBut s t [r.1, Reg.FAB_FECCORR p] ∧ MemSame s t
        ∧ ∃ x ∈ (port t q).ctrl, x.op = opRefuse ∧ x.dst = k'.src ∧ x.cartid = k'.cartid
          ∧ x.cseq = k'.cseq ∧ bitsN x.aux 7 0 = r.2 := by
  have hlink := ((arrive_linked harr).2).trans (creditBack_linked u p k')
  have haway' : routeOf u k'.dst ≠ some 30 := by
    rw [(arrive_linked harr).2.routeOf, arrive_packet harr]
    exact haway
  have hroute' : routeOf (creditBack u p k') k'.src = some q := hroute
  refine transit_runs ha haway harr ?_
  rw [routeIn_dropped _ haway' hdrop, dropTransit_answered _ hr hid hans hroute' hq]
  refine ⟨?_, fun a h => ?_, hlink.memSame, refusalOf (bump (creditBack u p k') r.1 1) k' r.2, enqueue_ctrl rfl, rfl, rfl,
    rfl, rfl, refusalOf_code _ k' hcode⟩
  · show regN (bump (creditBack u p k') r.1 1) r.1 = _
    rw [regN_bump, regN_of_reg (hlink.reg_global (by omega))]
  · simp only [List.mem_cons, List.not_mem_nil, or_false, not_or] at h
    show reg (bump (creditBack u p k') r.1 1) a = _
    rw [reg_bump_ne _ _ (Ne.symm h.1), hlink.reg_eq h.2]

end

/-! ## A trailer that fails after forwarding has begun (R431) -/

/-- What has gone on ends as a STOMP packet with one TTL less, and the packet itself is waited for again. -/
theorem stomp_goes {s : State} {p q : Nat} {k : Packet} (ha : alive s = true) (hp : p < 24) (hup : portUp s p = true)
    (hcrc : k.hcrc = hcrcOf k) (hkey : k.pkey = fld s Reg.FAB_PKEY Fld.FAB_PKEY_PKEY) (hlane : laneOk k.op k.vl = true)
    (hroute : routeOf s k.dst = some q) (hq : q < 24) (hclear : linkClear s q = true) (hstart : mayStart s q k = true)
    (httl : k.ttl ≠ 0) : Runs (.transitPacket p k true) s fun t =>
      (port t p).rxNext = (port s p).rxNext ∧ (port t p).gap = true ∧ MemSame s t
        ∧ ∃ x, t.wire = s.wire ++ [.packet q x] ∧ x.trailer.stomp = true ∧ x.ttl = k.ttl - 1 ∧ x.dst = k.dst := by
  have hmarked := faultMarked_counts s p k
  have htransit : transit s p k true
      = discard (transmit (faultMarked s p k) q { k with ttl := k.ttl - 1 } true) p := by
    have haway : routeOf s k.dst ≠ some 30 := by rw [hroute]; simp; omega
    rw [transit, if_neg haway, if_pos rfl, stompOn_faultMarked hp hup hcrc, fld_of_reg (hmarked.reg_global (by decide)),
      if_neg (not_not.2 hkey), hlane, hmarked.routeOf, hroute]
    simp [hq, hmarked.linkClear, hclear, hmarked.mayStart, hstart, httl]
  refine runs_finish (congrArg (finish s) htransit) ha ?_
  have hx := onWire_keeps (faultMarked s p k) q { k with ttl := k.ttl - 1 } true
  have hrx := transmit_rx (faultMarked s p k) q { k with ttl := k.ttl - 1 } true p
  have hmem := hmarked.memSame.trans (transmit_moved p (faultMarked s p k) q { k with ttl := k.ttl - 1 } true).memSame
  have hwire := transmit_wire (faultMarked s p k) q { k with ttl := k.ttl - 1 } true
  rw [port_congr hmarked.fab] at hrx
  rw [hmarked.wire] at hwire
  generalize transmit (faultMarked s p k) q { k with ttl := k.ttl - 1 } true = v at hrx hmem hwire
  rw [discard_eq]
  refine ⟨?_, ?_, hmem, _, hwire, hx.stomp, hx.ttl, hx.dst⟩
  · rw [port_ended, port_mapPort_same, gapWaited_form, hrx]
  · rw [port_ended, port_mapPort_same, gapWaited_form]

theorem statements_transit : Statements.Transit := by
  refine ⟨fun s u p q k k' ha haway harr => ?_, fun s p q k ha hp hup hcrc hkey hlane hroute hq hclear hstart httl =>
    stomp_goes ha hp hup hcrc hkey hlane hroute hq hclear hstart httl⟩
  refine ⟨fun hroute hq httl =>
    ⟨transit_leaves ha haway harr hroute hq httl, transit_waits ha haway harr hroute hq httl⟩, fun r hr hdrop => ?_⟩
  have hdrops : transitDrop u k' = some r ∧ r.1 < 0x9001000 ∧ r.1 ≠ Reg.FAB_ID ∧ r.2 < 256 := by
    simp only [List.mem_cons, List.not_mem_nil, or_false] at hr
    rcases hr with rfl | rfl
    · exact ⟨if_pos (by simpa using hdrop), by decide, by decide, by decide⟩
    · obtain ⟨httl, hsome⟩ : k'.ttl = 0 ∧ routeOf u k'.dst ≠ none := by simpa using hdrop
      exact ⟨(if_neg hsome).trans (if_pos httl), by decide, by decide, by decide⟩
  obtain ⟨hreason, hlt, hid, hcode⟩ := hdrops
  exact ⟨transit_dropped ha haway harr hreason hlt, transit_refused ha haway harr hreason hlt hid hcode⟩

end Sys2Proof.Settled
end

section
/-! PROOF. Events of a link (R410 to R415, R426, R456): bare trailers, packets that fail a check, and lanes that fail. -/

namespace Sys2Proof.Machine

/-! ## Lanes (R414, R415) -/

/-- From `s` to `t` a lane of port p has failed or moved: registers of the port, the error log and the messages to the
partner. -/
structure LaneFrame (p : Nat) (regs : List Nat) (s t : State) : Prop where
  form : t = { s with regs := t.regs, fab := t.fab, wire := t.wire }
  regs : ∀ a, a / 2 ^ 24 ∉ [1, 13] → a ∉ regs → reg t a = reg s a
  ports : ∀ q, port t q = { port s q with
    ctrl := (port t q).ctrl, adm := (port t q).adm, moving := (port t q).moving, asked := (port t q).asked }

theorem LaneFrame.trans {p : Nat} {l m : List Nat} {s t u : State} (h : LaneFrame p l s t) (h' : LaneFrame p m t u) :
    LaneFrame p (l ++ m) s u := by
  refine ⟨by rw [h'.form, h.form], fun a hb ha => ?_, fun q => by rw [h'.ports, h.ports]⟩
  rw [List.mem_append, not_or] at ha
  exact (h'.regs a hb ha.2).trans (h.regs a hb ha.1)

theorem LaneFrame.refl (p : Nat) (l : List Nat) (s : State) : LaneFrame p l s s := ⟨rfl, fun _ _ _ => rfl, fun _ => rfl⟩

theorem setFld_laneFrame (p : Nat) (s : State) {a : Nat} (f : Fld) (v : Nat) {l : List Nat} (h : a ∈ l) :
    LaneFrame p l s (setFld s a f v) :=
  ⟨rfl, fun _ _ hb => reg_setFld_ne s f v fun hab => hb (hab ▸ h), fun _ => rfl⟩

theorem raise_laneFrame (p : Nat) (s : State) {a : Nat} (m : Nat) {l : List Nat} (h : a ∈ l) :
    LaneFrame p l s (raise s a m) :=
  ⟨rfl, fun _ _ hb => reg_raise_ne s m fun hab => hb (hab ▸ h), fun _ => rfl⟩

theorem mapPort_laneFrame (p : Nat) (s : State) {f : PortSt → PortSt} (l : List Nat) (h : f (port s p) = { port s p with
    moving := (f (port s p)).moving, asked := (f (port s p)).asked }) : LaneFrame p l s (mapPort s p f) := by
  refine ⟨rfl, fun _ _ _ => rfl, fun q => ?_⟩
  by_cases hq : q = p
  · rw [hq, port_mapPort_same, h]
  · rw [port_mapPort_ne s f hq]

theorem repairTaken_laneFrame (s : State) (kind info unit sub addr p : Nat) (l : List Nat) :
    LaneFrame p l s (repairTaken s kind info unit sub addr) := by
  have hrec := record_form s { kind := kind, type := tyRepair, action := actRepaired, info := info, unit := unit, sub := sub,
                               addr := addr }
  refine ⟨by rw [repairTaken, hrec]; rfl, fun a ha _ => ?_, fun q => ?_⟩
  · have hne (b : Nat) (hb : b / 2 ^ 24 = 13) : b ≠ a := fun hab => ha (by rw [← hab, hb]; decide)
    rw [repairTaken, reg_raise_ne _ _ (hne _ (by decide)), reg_bump_ne _ _ (hne _ (by decide)), record_blocks s _ a ha]
  · have hfab : (repairTaken s kind info unit sub addr).fab = s.fab := by rw [repairTaken, hrec]; rfl
    rw [port_congr hfab]

theorem sendLinkctl_laneFrame (s : State) (p : Nat) (c : LinkCtl) (l : List Nat) : LaneFrame p l s (sendLinkctl s p c) := by
  have hsent := sendLinkctl_sent s p c
  refine ⟨by rw [hsent.form], fun a _ _ => hsent.reg_eq a, fun q => ?_⟩
  rw [hsent.port_form]

/-- The registers that a port writes when it narrows or goes down. -/
def narrowRegs (p : Nat) : List Nat := [Reg.FAB_PSTAT p, Reg.FAB_INTSTAT]

theorem linkDown_laneFrame (s : State) (p : Nat) : LaneFrame p (narrowRegs p) s (linkDown s p) :=
  (setFld_laneFrame p s (l := [Reg.FAB_PSTAT p]) _ _ (by simp)).trans
    (raise_laneFrame p _ (l := [Reg.FAB_INTSTAT]) _ (by simp))

theorem narrowPort_laneFrame (s : State) (p : Nat) : LaneFrame p (narrowRegs p) s (narrowPort s p) := by
  unfold narrowPort
  dsimp only
  split
  · exact .refl p _ s
  · split
    · exact linkDown_laneFrame s p
    · exact ((setFld_laneFrame p s (l := [Reg.FAB_PSTAT p]) _ _ (by simp)).trans
        (repairTaken_laneFrame _ 5 repHalf p _ 0 p [])).trans (raise_laneFrame p _ (l := [Reg.FAB_INTSTAT]) _ (by simp))

/-- A lane that a port does not have, or that has failed already. -/
def noNewLane (s : State) (p lane : Nat) : Bool :=
  24 ≤ p || (if isOptical p then 8 < lane else 8 ≤ lane) || bitN (lanesFailed s p) lane

theorem wavelengthFail_none {s : State} {p lane : Nat} (h : noNewLane s p lane = true) : wavelengthFail s p lane = s :=
  if_pos h

/-- A lane that fails is marked; then at most a message goes out or the port narrows. -/
theorem wavelengthFail_marked {s : State} {p lane : Nat} (h : noNewLane s p lane = false) :
    LaneFrame p (narrowRegs p) (failLane s p lane) (wavelengthFail s p lane) := by
  have hcases : wavelengthFail s p lane = _ := if_neg (ne_true_of_eq_false h)
  rw [hcases]
  split
  · next h8 =>
    rw [h8]
    exact (mapPort_laneFrame p _ [] rfl).trans (narrowPort_laneFrame _ p)
  · split
    · exact (mapPort_laneFrame p _ [] rfl).trans (sendLinkctl_laneFrame _ p _ _)
    · exact narrowPort_laneFrame _ p

/-- The registers that a lane's failure writes, but the error log. -/
def laneRegs (p : Nat) : List Nat := Reg.FAB_LANES p :: narrowRegs p

theorem failLane_laneFrame (s : State) (p lane : Nat) : LaneFrame p [Reg.FAB_LANES p] s (failLane s p lane) :=
  setFld_laneFrame p s _ _ (by simp)

theorem wavelengthFail_laneFrame (s : State) (p lane : Nat) : LaneFrame p (laneRegs p) s (wavelengthFail s p lane) := by
  cases h : noNewLane s p lane with
  | true =>
    rw [wavelengthFail_none h]
    exact .refl p _ s
  | false => exact (failLane_laneFrame s p lane).trans (wavelengthFail_marked h)

theorem lanesFailed_failLane (s : State) (p : Nat) {lane : Nat} (h : lane ≤ 8) :
    bitN (lanesFailed (failLane s p lane) p) lane = true := by
  rw [bitN_eq_testBit, lanesFailed, failLane, fld_setFld _ _ _ _ (by decide) (by decide), Nat.testBit_mod_two_pow,
    Nat.testBit_or, Nat.testBit_two_pow_self]
  simp only [Fld.FAB_LANES_FAILED, Bool.or_true, Bool.and_true]
  exact decide_eq_true (by omega)

/-- A wavelength of an optical port that fails is shown. -/
theorem lanesFailed_wavelengthFail {s : State} {p lane : Nat} (hp : p < 16) (h : lane ≤ 8) :
    bitN (lanesFailed (wavelengthFail s p lane) p) lane = true := by
  cases hwhy : noNewLane s p lane with
  | true =>
    rw [wavelengthFail_none hwhy]
    simpa [noNewLane, isOptical, hp, show ¬ 24 ≤ p by omega, show ¬ 8 < lane by omega] using hwhy
  | false =>
    have hblock : Reg.FAB_LANES p / 2 ^ 24 ∉ [1, 13] := by
      simp only [Reg.FAB_LANES, List.mem_cons, List.not_mem_nil, or_false]
      omega
    have hreg : Reg.FAB_LANES p ∉ narrowRegs p := by
      simp only [narrowRegs, Reg.FAB_LANES, Reg.FAB_PSTAT, Reg.FAB_INTSTAT, List.mem_cons, List.not_mem_nil, or_false]
      omega
    rw [lanesFailed, fld_of_reg ((wavelengthFail_marked hwhy).regs _ hblock hreg)]
    exact lanesFailed_failLane s p h

/-! ## Uncorrectable codewords (R414) -/

/-- One more uncorrectable codeword of a lane in this round. -/
def codewordBad (lane : Nat) (x : PortSt) : PortSt :=
  { x with badRound := kset (fun _ => 0) x.badRound lane (kget (fun _ => 0) x.badRound lane + 1) }

/-- The port of an uncorrectable codeword: it is counted, and the packet waited for. -/
def codewordLost (x : PortSt) (lane : Nat) : PortSt := gapWaited (codewordBad lane x)

theorem codewordLost_form (x : PortSt) (lane : Nat) : codewordLost x lane = { x with
    badRound := kset (fun _ => 0) x.badRound lane (kget (fun _ => 0) x.badRound lane + 1)
    gap := true, nakDue := (codewordLost x lane).nakDue } := gapWaited_form _

/-- An uncorrectable codeword is counted, and its packet waited for. -/
def codewordCounted (s : State) (p lane : Nat) : State := discard (countFault s p (.uncorrectable lane)) p

theorem port_codewordCounted (s : State) (p lane : Nat) :
    port (codewordCounted s p lane) p = codewordLost (port s p) lane := by
  rw [codewordCounted, discard_eq, port_mapPort_same]
  exact congrArg gapWaited (port_mapPort_same s p (codewordBad lane))

theorem linkDiscard_uncorrectable {s : State} {p : Nat} (h : portUp s p = true) (lane : Nat) :
    linkDiscard s p (.uncorrectable lane) =
      if isOptical p && kget (fun _ => 0) (port s p).badRound lane = 3 then
        wavelengthFail (codewordCounted s p lane) p lane else codewordCounted s p lane := by
  have hcount : kget (fun _ => 0) (port (codewordCounted s p lane) p).badRound lane
      = kget (fun _ => 0) (port s p).badRound lane + 1 := by
    rw [port_codewordCounted, codewordLost_form]
    simp only [kget_kset_self]
  unfold linkDiscard
  simp only [h, Bool.not_true, Bool.false_eq_true, if_false]
  rw [← codewordCounted, hcount]
  simp

theorem linkDiscard_laneFrame {s : State} {p : Nat} (h : portUp s p = true) (lane : Nat) :
    LaneFrame p (laneRegs p) (codewordCounted s p lane) (linkDiscard s p (.uncorrectable lane)) := by
  rw [linkDiscard_uncorrectable h]
  split
  · exact wavelengthFail_laneFrame _ p lane
  · exact .refl p _ _

end Sys2Proof.Machine

namespace Sys2Proof.Settled

open Sys2Proof.Machine

section
variable {s : State} {p : Nat} (ha : alive s = true) (hup : portUp s p = true)
include ha hup

/-- A bare trailer does what a trailer does, and nothing more. -/
theorem bareTrailer_runs {tr : Trailer} (hseq : tr.lseq = bareLseq) (hcrc : tr.crc = bareCrc tr) {c : Instr}
    (hc : exec c s = finish s (takeBare s p tr)) : Runs c s fun t =>
      t = { s with regs := t.regs, fab := t.fab, msix := t.msix, edge := t.edge } ∧ RegsBut s t [Reg.FAB_FECCORR p]
        ∧ regN t (Reg.FAB_FECCORR p) = min (regN s (Reg.FAB_FECCORR p) + tr.fec) 0xFFFFFFFF
        ∧ (port t p).replay = unacked (port s p) tr
        ∧ (port t p).credit = (port s p).credit.set tr.crvl (((port s p).credit[tr.crvl]?).getD 0 + tr.credits)
        ∧ (∀ q, q ≠ p → port t q = port s q) ∧ (tr.nak = true → (port t p).again = unacked (port s p) tr) := by
  have htake : takeBare s p tr = trailerIn s p tr := by
    rw [takeBare, hup]
    simp [hseq, hcrc, trailerIn]
  have hlink := trailerIn_linked s p tr
  have hport := port_trailerIn_same s p tr
  refine runs_finish (hc.trans (congrArg (finish s) htake)) ha
    ⟨?_, hlink.regs, regN_trailerIn s p tr, ?_, ?_, fun q hq => port_trailerIn_ne s tr hq, fun hnak => ?_⟩
  · rw [hlink.form]
    rfl
  · rw [port_ended, hport, trailerTaken_form]
  · rw [port_ended, hport, trailerTaken_form]
  · rw [port_ended, hport, trailerTaken_again hnak]

/-- A packet that fails a check is counted and waited for. -/
theorem discard_counts {f : LinkFault} {a : Nat} (hf : ∀ lane, f ≠ .uncorrectable lane) (h : countFault s p f = bump s a 1) :
    Runs (.linkPacketDiscard p f) s fun t =>
      regN t a = min (regN s a + 1) 0xFFFFFFFF ∧ RegsBut s t [a] ∧ (port t p).gap = true
        ∧ (port t p).rxNext = (port s p).rxNext ∧ MemSame s t := by
  have hdisc : linkDiscard s p f = mapPort (bump s a 1) p gapWaited := by
    unfold linkDiscard
    simp only [hup, h, Bool.not_true, Bool.false_eq_true, if_false]
    cases f with
    | uncorrectable lane => exact absurd rfl (hf lane)
    | badHcrc => rfl
    | badCrc => rfl
    | badTag => rfl
    | wrongLseq => rfl
  refine runs_finish (congrArg (finish s) hdisc) ha
    ⟨regN_bump s a 1, fun b hb => reg_bump_ne s 1 fun hab => hb (by simp [hab]), ?_, ?_, rfl, rfl⟩
  · rw [port_ended, port_mapPort_same, gapWaited_form]
  · rw [port_ended, port_mapPort_same, gapWaited_form]
    rfl

/-- A packet out of sequence is waited for. -/
theorem discard_waits : Runs (.linkPacketDiscard p .wrongLseq) s fun t => t.regs = s.regs ∧ (port t p).gap = true
      ∧ (port t p).rxNext = (port s p).rxNext ∧ MemSame s t := by
  have hdisc : linkDiscard s p .wrongLseq = mapPort s p gapWaited := by
    unfold linkDiscard
    simp only [hup, Bool.not_true, Bool.false_eq_true, if_false]
    rfl
  refine runs_finish (congrArg (finish s) hdisc) ha ⟨rfl, ?_, ?_, rfl, rfl⟩
  · rw [port_ended, port_mapPort_same, gapWaited_form]
  · rw [port_ended, port_mapPort_same, gapWaited_form]

/-- An uncorrectable codeword is counted and the packet waited for; the fourth of a round declares its lane failed. -/
theorem discard_uncorrectable (lane : Nat) : Runs (.linkPacketDiscard p (.uncorrectable lane)) s fun t =>
      regN t (Reg.FAB_FECUNC p) = min (regN s (Reg.FAB_FECUNC p) + 1) 0xFFFFFFFF ∧ (port t p).gap = true
        ∧ (port t p).rxNext = (port s p).rxNext
        ∧ kget (fun _ => 0) (port t p).badRound lane = kget (fun _ => 0) (port s p).badRound lane + 1 ∧ MemSame s t
        ∧ (kget (fun _ => 0) (port s p).badRound lane ≠ 3 → RegsBut s t [Reg.FAB_FECUNC p])
        ∧ (kget (fun _ => 0) (port s p).badRound lane = 3 → p < 16 → lane ≤ 8 → bitN (lanesFailed t p) lane = true) := by
  have hrun := linkDiscard_uncorrectable hup lane
  have hframe := linkDiscard_laneFrame hup lane
  have hport : port (linkDiscard s p (.uncorrectable lane)) p = _ := hframe.ports p
  have hmem : MemSame s (linkDiscard s p (.uncorrectable lane)) := by rw [hframe.form]; exact ⟨rfl, rfl⟩
  rw [port_codewordCounted, codewordLost_form] at hport
  refine runs_finish rfl ha ⟨?_, ?_, ?_, ?_, hmem, fun hfew => ?_, fun hfourth hopt hlane => ?_⟩
  · obtain ⟨hp, -⟩ := portUp_iff.1 hup
    have hblock : Reg.FAB_FECUNC p / 2 ^ 24 ∉ [1, 13] := by
      simp only [Reg.FAB_FECUNC, List.mem_cons, List.not_mem_nil, or_false]
      omega
    have hreg : Reg.FAB_FECUNC p ∉ laneRegs p := by
      simp only [laneRegs, narrowRegs, Reg.FAB_FECUNC, Reg.FAB_LANES, Reg.FAB_PSTAT, Reg.FAB_INTSTAT, List.mem_cons,
        List.not_mem_nil, or_false]
      omega
    rw [ended_regN, regN_of_reg (hframe.regs _ hblock hreg)]
    exact regN_bump (mapPort s p _) (Reg.FAB_FECUNC p) 1
  · rw [port_ended, hport]
  · rw [port_ended, hport]
  · rw [port_ended, hport]
    simp only [kget_kset_self]
  · have hno : linkDiscard s p (.uncorrectable lane) = codewordCounted s p lane := by
      rw [hrun, if_neg (by simp [hfew])]
    rw [hno]
    exact fun b hb => reg_bump_ne _ 1 fun hab => hb (by simp [hab])
  · have hfail : linkDiscard s p (.uncorrectable lane) = wavelengthFail (codewordCounted s p lane) p lane := by
      rw [hrun, if_pos (by simp [hfourth, isOptical, hopt])]
    rw [hfail]
    exact lanesFailed_wavelengthFail (s := codewordCounted s p lane) hopt hlane

/-- A packet with a reserved opcode is dropped by the link, and counted. -/
theorem reservedOp_dropped {k : Packet} (hf : linkFault s p k = none) (hseq : k.trailer.lseq = (port s p).rxNext)
    (hstomp : k.trailer.stomp = false) (hclear : k.enc = false ∨ decrypt s p k ≠ none)
    (hkey : k.pkey = fld s Reg.FAB_PKEY Fld.FAB_PKEY_PKEY) (hlane : laneOk k.op k.vl = false) :
    Runs (.reservedOpPacket p k) s fun t => regN t Reg.FAB_BADOP = min (regN s Reg.FAB_BADOP + 1) 0xFFFFFFFF
        ∧ RegsBut s t [Reg.FAB_BADOP, Reg.FAB_FECCORR p]
        ∧ t = { s with regs := t.regs, fab := t.fab, msix := t.msix, edge := t.edge } := by
  obtain ⟨bs, hbs⟩ := clearPayload_some hclear
  have hres : reservedOp s p k = takenAndDropped s p Reg.FAB_BADOP k := by
    rw [reservedOp, if_neg (by simp [hlane]), arrive_inSequence hup hf hseq hstomp hbs, if_neg (not_not.2 hkey),
      if_pos (by simp [hlane])]
  have hdrop := takenAndDropped_linkDropped s p k (a := Reg.FAB_BADOP) (by decide)
  refine runs_finish (congrArg (finish s) hres) ha ⟨hdrop.count, hdrop.regs, ?_⟩
  rw [hdrop.form]
  rfl

end

theorem statements_linkEvents : Statements.LinkEvents := by
  intro s p ha hp hup
  refine ⟨fun tr hseq hcrc => ?_, fun x hx => ?_, fun lane => discard_uncorrectable ha hup lane,
    discard_waits ha hup, fun k hf hseq hstomp hclear hkey hlane =>
      reservedOp_dropped ha hup hf hseq hstomp hclear hkey hlane⟩
  · intro kept c hc hnak
    have hexec : exec c s = finish s (takeBare s p tr) := by
      simp only [List.mem_cons, List.not_mem_nil, or_false] at hc
      rcases hc with rfl | rfl
      · rfl
      · exact congrArg (finish s) (if_pos (hnak rfl))
    exact bareTrailer_runs ha hup hseq hcrc hexec
  · simp only [List.mem_cons, List.not_mem_nil, or_false] at hx
    rcases hx with rfl | rfl | rfl
    · exact discard_counts ha hup (fun _ => by simp) rfl
    · exact discard_counts ha hup (fun _ => by simp) rfl
    · exact discard_counts ha hup (fun _ => by simp) rfl

/-- Settles O41: a packet in transit by what the link took of it and by its route, and each event of a link by what it
leaves of its port. -/
theorem linkTraffic : Obligations.LinkTraffic := ⟨statements_transit, statements_linkEvents⟩

end Sys2Proof.Settled
end

section
/-! PROOF. Admission (R416 to R423): link-local messages as they come in and go out, the admission that stops, begins, goes
on, and brings the link up. -/

namespace Sys2Proof.Machine

/-! ## Link-local messages (R417, R418) -/

/-- Registers that no link-local message of port p speaks of: the port's status and lanes, and the signing index. -/
def unspokenRegs (p : Nat) : List Nat :=
  [Reg.FAB_PSTAT p, Reg.FAB_LANES p, Reg.FWM_SIGNEXT_LO, Reg.FWM_SIGNEXT_LO + 4]

section
variable {p : Nat} {v s : State} (h : RegsBut v s (unspokenRegs p))
include h

theorem reg_of_spoken {a : Nat} (ha : a < 0x9004000) : reg s a = reg v a := by
  refine h a ?_
  simp only [unspokenRegs, Reg.FAB_PSTAT, Reg.FAB_LANES, Reg.FWM_SIGNEXT_LO, List.mem_cons, List.not_mem_nil, or_false]
  omega

/-- The registers behind those of the ports, before the signing index. -/
theorem reg_of_spoken_far (hp : p < 24) {a : Nat} (ha : 0xa000000 ≤ a) (ha' : a < 0xf000020) : reg s a = reg v a := by
  refine h a ?_
  simp only [unspokenRegs, Reg.FAB_PSTAT, Reg.FAB_LANES, Reg.FWM_SIGNEXT_LO, List.mem_cons, List.not_mem_nil, or_false]
  omega

theorem frameNo_of_spoken : frameNo s = frameNo v :=
  reg64_of_reg (reg_of_spoken h (by decide)) (reg_of_spoken h (by decide))

theorem deviceId_of_spoken : deviceId s = deviceId v := fld_of_reg (reg_of_spoken h (by decide)) _

theorem ticking_of_spoken : ticking s = ticking v := by
  rw [ticking, ticking, fld_of_reg (reg_of_spoken h (by decide))]

theorem msgPackets_of_spoken (op : Nat) (msg : List Byte) : msgPackets s p op msg = msgPackets v p op msg := by
  have hexpect : reg s (Reg.FAB_EXPECT p) = reg v (Reg.FAB_EXPECT p) := by
    refine h _ ?_
    simp only [unspokenRegs, Reg.FAB_EXPECT, Reg.FAB_PSTAT, Reg.FAB_LANES, Reg.FWM_SIGNEXT_LO, List.mem_cons,
      List.not_mem_nil, or_false]
    omega
  have hkey : fld s Reg.FAB_PKEY Fld.FAB_PKEY_PKEY = fld v Reg.FAB_PKEY Fld.FAB_PKEY_PKEY :=
    fld_of_reg (reg_of_spoken h (by decide)) _
  simp only [msgPackets, mkPacket, fld_of_reg hexpect, frameNo_of_spoken h, deviceId_of_spoken h, hkey]

theorem outside_of_spoken (keys : Option (List Byte)) (k : Packet) :
    Statements.outside s p keys k = Statements.outside v p keys k := by
  rw [Statements.outside, Statements.outside, frameNo_of_spoken h]

/-- Whether the device answers admission does not depend on a port. -/
theorem admitOpen_of_spoken (hp : p < 24) (hseed : s.seed = v.seed) (hfloor : s.floor = v.floor) :
    admitOpen s = admitOpen v := by
  have hstate : rstState s = rstState v := fld_of_reg (reg_of_spoken_far h hp (by decide) (by decide)) _
  have hint : reg s Reg.INT_STATUS = reg v Reg.INT_STATUS := reg_of_spoken_far h hp (by decide) (by decide)
  have hfrm : reg s Reg.FRM_STATUS = reg v Reg.FRM_STATUS := reg_of_spoken h (by decide)
  simp only [admitOpen, admitBlocked, isStart, isDormant, hstate, hseed, hfloor, fld_of_reg hint, fld_of_reg hfrm]

/-- The HELLO of a device does not depend on a port. -/
theorem ownHello_of_spoken (hp : p < 24) (hseed : s.seed = v.seed) (hfwm : s.fwm = v.fwm) (nonce : List Byte) :
    ownHello s nonce = ownHello v nonce := by
  have hversion : reg s Reg.FWM_VERSION = reg v Reg.FWM_VERSION := reg_of_spoken_far h hp (by decide) (by decide)
  have hkey : reg s Reg.FAB_PKEY = reg v Reg.FAB_PKEY := reg_of_spoken h (by decide)
  have hctrl : reg s Reg.FAB_CTRL = reg v Reg.FAB_CTRL := reg_of_spoken h (by decide)
  simp only [ownHello, measurement, deviceId_of_spoken h, fld_of_reg hversion, fld_of_reg hkey, fld_of_reg hctrl, hseed, hfwm]

end

/-- What sends a link-local message of port p stands as it was. -/
structure SpeaksAlike (p : Nat) (v s : State) : Prop where
  regs : RegsBut v s (unspokenRegs p)
  up : portUp s p = portUp v p
  ctrl : (port s p).ctrl = (port v p).ctrl
  out : (port s p).adm.out = (port v p).adm.out
  wire : s.wire = v.wire

/-- A message that a state like `v` sends is sent of `v`. -/
theorem LocalSent.sent {tagged : Bool} {p op : Nat} {msg : List Byte} {v s t : State} (hv : SpeaksAlike p v s)
    (h : LocalSent tagged p (msgPackets s p op msg) s t) : Statements.Sent v t p op tagged msg := by
  have hnext : (port t p).adm.next = (port s p).adm.next := by rw [h.port_form]
  have hhere := h.here
  have hwire := h.wire
  rw [localQueued, msgPackets_of_spoken hv.regs, hv.up, ticking_of_spoken hv.regs] at hhere
  rw [localWire, msgPackets_of_spoken hv.regs, hv.up, ticking_of_spoken hv.regs, hv.wire] at hwire
  unfold Statements.Sent
  dsimp only
  split
  · next hup =>
    rw [if_pos hup] at hhere
    rw [hhere, hv.ctrl]
  · next hup =>
    rw [if_neg hup] at hhere
    split
    · next htick =>
      rw [if_pos htick] at hhere
      rw [hhere, hv.out]
    · next htick =>
      rw [if_neg (by simp [hup, htick])] at hwire
      rw [hwire, hnext]
      exact congrArg _ (List.map_congr_left fun k _ => outside_of_spoken hv.regs _ k)

theorem setAdm_speaksAlike (v : State) (p : Nat) {f : AdmSt → AdmSt} (h : (f (port v p).adm).out = (port v p).adm.out) :
    SpeaksAlike p v (setAdm v p f) := by
  refine ⟨fun _ _ => rfl, rfl, ?_, ?_, rfl⟩
  · rw [setAdm, port_mapPort_same]
  · rw [setAdm, port_mapPort_same, h]

theorem SpeaksAlike.trans {p : Nat} {v s t : State} (h : SpeaksAlike p v s) (h' : SpeaksAlike p s t) : SpeaksAlike p v t :=
  ⟨h.regs.trans_same h'.regs, h'.up.trans h.up, h'.ctrl.trans h.ctrl, h'.out.trans h.out, h'.wire.trans h.wire⟩

/-- A link-local packet that comes in is heard (R410, R417). -/
theorem recvLocal_came {s v : State} {p op : Nat} {k k' : Packet} (h : Statements.Came s v p op k k')
    (act : Packet → State → State) : recvLocal op p k act s = act k' v := by
  obtain ⟨-, hp, hop, ⟨hup, u, harr, rfl⟩ | ⟨hup, hst, hhcrc, hcrc, hlane, rfl, rfl⟩⟩ := h
  · rw [recvLocal, if_neg (by simp [hop]; omega), if_pos hup, recvHop, if_neg (not_not.2 hop), harr]
  · have hstate : ¬ (portState s p ≠ psAdmit && portState s p ≠ psRefused) = true := by
      rcases hst with h | h <;> simp [h]
    rw [recvLocal, if_neg (by simp [hop]; omega), if_neg (by simp [hup]), if_neg hstate]
    dsimp only
    rw [if_neg (by simp [← hhcrc, ← hcrc]), if_neg (by simp [hlane])]

theorem Came.linked {s v : State} {p op : Nat} {k k' : Packet} (h : Statements.Came s v p op k k') : Linked p s v := by
  obtain ⟨-, -, -, ⟨-, u, harr, rfl⟩ | ⟨-, -, -, -, -, -, rfl⟩⟩ := h
  · exact (arrive_linked harr).2.trans (creditBack_linked u p k')
  · exact countFec_linked s p _

/-! ## ADMIT messages (R417, R418) -/

theorem port_setAdm (s : State) (p : Nat) (f : AdmSt → AdmSt) :
    port (setAdm s p f) p = { port s p with adm := f (port s p).adm } := port_mapPort_same s p _

/-- A message is whole: nothing of it waits for its rest. -/
def messageWhole (s : State) (p : Nat) : State := setAdm s p fun a => { a with asm := [] }

theorem port_messageWhole (s : State) (p : Nat) :
    port (messageWhole s p) p = { port s p with adm := { (port s p).adm with asm := [] } } := port_setAdm s p _

theorem not_admitBlocked {s : State} (h : admitOpen s = true) : admitBlocked s = false := by
  simp only [admitOpen, Bool.and_eq_true, Bool.not_eq_eq_eq_not, Bool.not_true] at h
  exact h.1

theorem messageWhole_speaksAlike (s : State) (p : Nat) : SpeaksAlike p s (messageWhole s p) := setAdm_speaksAlike s p rfl

section
variable {s v : State} {p : Nat} {k k' : Packet} (h : Statements.Came s v p opAdmit k k')
  (go : List Byte → Packet → State → State)
include h

/-- A packet that is not the last of its message waits for the rest. -/
theorem onAdmit_part (hlast : k'.last = false) :
    onAdmit p k go s = setAdm v p fun a => { a with asm := (port v p).adm.asm ++ k'.payload } := by
  rw [onAdmit, recvLocal_came h]
  simp [hlast]

theorem portUp_of_came (hup : portUp s p = false) : portUp v p = false := by
  have hreg : reg v (Reg.FAB_PSTAT p) = reg s (Reg.FAB_PSTAT p) :=
    (Came.linked h).reg_eq (by simp only [Reg.FAB_PSTAT, Reg.FAB_FECCORR]; omega)
  rw [portUp, portState, fld_of_reg hreg]
  exact hup

/-- A whole message that comes before the device is ready is answered with NOTREADY. -/
theorem onAdmit_blocked (hup : portUp s p = false) (hlast : k'.last = true) (hblock : admitBlocked v = true) :
    onAdmit p k go s = sendLinkctl (messageWhole v p) p (.reason arNotready) := by
  have hdown : portUp (messageWhole v p) p = false := (portUp_of_came h hup :)
  have hblock' : admitBlocked (messageWhole v p) = true := hblock
  rw [onAdmit, recvLocal_came h]
  dsimp only
  rw [if_neg (by simp [hlast]), ← messageWhole, if_neg (ne_true_of_eq_false hdown), if_pos hblock']

/-- A joined device takes the whole message. -/
theorem onAdmit_whole (hup : portUp s p = false) (hlast : k'.last = true) (hopen : admitOpen v = true) :
    onAdmit p k go s = go ((port v p).adm.asm ++ k'.payload) k' (messageWhole v p) := by
  have hdown : portUp (messageWhole v p) p = false := (portUp_of_came h hup :)
  have hblock : admitBlocked (messageWhole v p) = false := not_admitBlocked hopen
  have hopen' : admitOpen (messageWhole v p) = true := hopen
  rw [onAdmit, recvLocal_came h]
  dsimp only
  rw [if_neg (by simp [hlast]), ← messageWhole, if_neg (ne_true_of_eq_false hdown), if_neg (ne_true_of_eq_false hblock),
    if_pos hopen']

end

/-! ## The state of a port and its reason (R417, R423) -/

theorem portState_setPortState (s : State) (p : Nat) {v : Nat} (h : v < 8) : portState (setPortState s p v) p = v := by
  rw [portState, setPortState, fld_setFld _ _ _ _ (by decide) (by decide)]
  exact Nat.mod_eq_of_lt h

theorem setPortState_regs (s : State) (p v : Nat) : RegsBut s (setPortState s p v) [Reg.FAB_PSTAT p] :=
  fun _ ha => reg_setFld_ne s _ _ fun hab => ha (by simp [hab])

/-- An admission that stops refuses the port. -/
theorem admitStop_refused (s : State) (p : Nat) {r : Nat} (h : r < 16) : Statements.Refused (admitStop s p r) p r := by
  have hne : Reg.FAB_INTSTAT ≠ Reg.FAB_PSTAT p := by simp only [Reg.FAB_INTSTAT, Reg.FAB_PSTAT]; omega
  refine ⟨?_, ?_, fld_raise _ _ 3 (by decide)⟩
  · rw [admitStop, portState, fld_of_reg (reg_raise_ne _ _ hne)]
    exact portState_setPortState _ p (by decide)
  · rw [admitStop, fld_of_reg (reg_raise_ne _ _ hne), setPortState,
      fld_setFld_ne _ _ _ _ _ (by decide) (by decide) (by decide) (by decide), fld_setFld _ _ _ _ (by decide) (by decide)]
    exact Nat.mod_eq_of_lt h

theorem admitStop_regs (s : State) (p r : Nat) : RegsBut s (admitStop s p r) [Reg.FAB_PSTAT p, Reg.FAB_INTSTAT] := by
  intro a ha
  simp only [List.mem_cons, List.not_mem_nil, or_false, not_or] at ha
  rw [admitStop, reg_raise_ne _ _ (Ne.symm ha.2), setPortState, reg_setFld_ne _ _ _ (Ne.symm ha.1),
    reg_setFld_ne _ _ _ (Ne.symm ha.1)]

theorem admitStop_form (s : State) (p r : Nat) : admitStop s p r = { s with regs := (admitStop s p r).regs } := by
  unfold admitStop
  dsimp only
  rw [setPortState, setFld_form (setFld s _ _ _), setFld_form s]
  rfl

theorem admitStop_memSame (s : State) (p r : Nat) : MemSame s (admitStop s p r) := by
  rw [admitStop_form]
  exact ⟨rfl, rfl⟩

theorem admitFail_refused (s : State) (p : Nat) {r : Nat} (h : r < 16) : Statements.Refused (admitFail s p r) p r :=
  admitStop_refused _ p h

theorem admitFail_regs (s : State) (p r : Nat) : RegsBut s (admitFail s p r) [Reg.FAB_PSTAT p, Reg.FAB_INTSTAT] :=
  fun a ha => (admitStop_regs _ p r a ha).trans ((sendLinkctl_sent s p _).reg_eq a)

/-! ## An admission that begins (R418) -/

/-- What a port remembers of its HELLO. -/
def helloAdm (s : State) (a : AdmSt) : AdmSt := { a with
  step := 1, nonce := Config.nonce s.free, own := Config.helloBytes (ownHello s (Config.nonce s.free)), peer := none }

/-- The HELLO of an admission that begins is ready, with a fresh nonce. -/
def helloReady (s : State) (p : Nat) : State := setPortState (setAdm { s with free := s.free + 1 } p (helloAdm s)) p psAdmit

theorem admitBegin_sent (s : State) (p : Nat) : LocalSent false p
    (msgPackets (helloReady s p) p opAdmit (Config.helloBytes (ownHello s (Config.nonce s.free)))) (helloReady s p)
    (admitBegin s p) := sendAdmit_sent false (helloReady s p) p _

theorem port_helloReady (s : State) (p : Nat) :
    port (helloReady s p) p = { port s p with adm := helloAdm s (port s p).adm } :=
  port_setAdm { s with free := s.free + 1 } p (helloAdm s)

theorem helloReady_regs (s : State) (p : Nat) : RegsBut s (helloReady s p) [Reg.FAB_PSTAT p] :=
  fun a ha => setPortState_regs _ p psAdmit a ha

theorem portState_helloReady (s : State) (p : Nat) : portState (helloReady s p) p = psAdmit :=
  portState_setPortState _ p (by decide)

theorem helloReady_speaksAlike {s : State} {p : Nat} (h : portUp s p = false) : SpeaksAlike p s (helloReady s p) := by
  refine ⟨(helloReady_regs s p).mono (by simp [unspokenRegs]), ?_, ?_, ?_, rfl⟩
  · rw [portUp, portState_helloReady, h]
    simp [psAdmit, psUp]
  · rw [port_helloReady]
  · rw [port_helloReady]
    rfl

theorem admitBegin_begun (s : State) (p : Nat) : Statements.Begun s (admitBegin s p) p := by
  have hsent := admitBegin_sent s p
  have hadm := hsent.adm_form p
  rw [port_helloReady] at hadm
  refine ⟨?_, ?_, ?_, ?_, ?_, ?_⟩
  · rw [portState, fld_of_reg (hsent.reg_eq _)]
    exact portState_helloReady s p
  · rw [hadm]
    rfl
  · rw [hadm]
    rfl
  · rw [hsent.form]
    rfl
  · rw [hadm]
    rfl
  · rw [hadm]
    rfl

theorem admitBegin_memSame (s : State) (p : Nat) : MemSame s (admitBegin s p) := by
  have hmem := (admitBegin_sent s p).memSame
  exact ⟨hmem.1, hmem.2⟩

theorem admitBegin_regs (s : State) (p : Nat) : RegsBut s (admitBegin s p) [Reg.FAB_PSTAT p] :=
  fun a ha => ((admitBegin_sent s p).reg_eq a).trans (helloReady_regs s p a ha)

theorem admitBegin_says {s : State} {p : Nat} (h : portUp s p = false) :
    Statements.Sent s (admitBegin s p) p opAdmit false (port (admitBegin s p) p).adm.own := by
  obtain ⟨-, -, -, -, hown, -⟩ := admitBegin_begun s p
  rw [hown]
  exact (admitBegin_sent s p).sent (helloReady_speaksAlike h)

/-- An admission begins from any state with the same HELLO. -/
theorem begun_congr {s w t : State} {p : Nat} (h : Statements.Begun w t p) (hfree : w.free = s.free)
    (hown : ∀ n, ownHello w n = ownHello s n) : Statements.Begun s t p := by
  obtain ⟨hstate, hstep, hnonce, hnext, hhello, hpeer⟩ := h
  rw [hfree] at hnonce hnext hhello
  exact ⟨hstate, hstep, hnonce, hnext, hhello.trans (by rw [hown]), hpeer⟩

theorem portUp_of_state {s : State} {p x : Nat} (h : portState s p = x) (hx : x ≠ psUp) : portUp s p = false := by
  rw [portUp, h]
  simp [hx]

/-! ## Training (R407, R417, R418) -/

/-- A port whose training failed tries again from training. -/
def portUntrained (s : State) (p : Nat) : State := setAdm (setPortState s p psTrain) p fun a => { a with step := 0 }

theorem portUntrained_regs (s : State) (p : Nat) : RegsBut s (portUntrained s p) [Reg.FAB_PSTAT p] :=
  fun a ha => setPortState_regs s p psTrain a ha

theorem portUntrained_memSame (s : State) (p : Nat) : MemSame s (portUntrained s p) := ⟨rfl, rfl⟩

/-- What training leaves of the admission of a port. -/
def trainedAdm (a : AdmSt) : AdmSt := { a with step := 1, peer := none, nonce := [], asm := [], out := [] }

/-- A port whose training passed. -/
def portTrained (s : State) (p locked : Nat) : State :=
  setPortState (setAdm (lanesFound (setPortState s p psTrain) p locked) p trainedAdm) p psAdmit

theorem portTrained_regs (s : State) (p locked : Nat) :
    RegsBut s (portTrained s p locked) [Reg.FAB_PSTAT p, Reg.FAB_LANES p] := by
  intro a ha
  simp only [List.mem_cons, List.not_mem_nil, or_false, not_or] at ha
  have hstat (t : State) (f : Fld) (x : Nat) : reg (setFld t (Reg.FAB_PSTAT p) f x) a = reg t a :=
    reg_setFld_ne t f x (Ne.symm ha.1)
  have hlanes (t : State) (f : Fld) (x : Nat) : reg (setFld t (Reg.FAB_LANES p) f x) a = reg t a :=
    reg_setFld_ne t f x (Ne.symm ha.2)
  have hadm (t : State) (f : AdmSt → AdmSt) : reg (setAdm t p f) a = reg t a := rfl
  rw [portTrained, setPortState, hstat, hadm, lanesFound, hstat, hstat, hlanes, hlanes, setPortState, hstat]

theorem lanesFound_form (s : State) (p locked : Nat) :
    lanesFound s p locked = { s with regs := (lanesFound s p locked).regs } := by
  unfold lanesFound
  dsimp only
  rw [setFld_form, setFld_form (setFld (setFld s _ _ _) _ _ _), setFld_form (setFld s _ _ _), setFld_form s]

theorem portTrained_form (s : State) (p locked : Nat) :
    portTrained s p locked = { s with regs := (portTrained s p locked).regs, fab := (portTrained s p locked).fab } := by
  have hform := lanesFound_form (setPortState s p psTrain) p locked
  rw [portTrained]
  generalize lanesFound (setPortState s p psTrain) p locked = v at hform
  rw [hform]
  rfl

theorem port_portTrained (s : State) (p locked : Nat) :
    port (portTrained s p locked) p = { port s p with adm := trainedAdm (port s p).adm } := by
  have hfab : (lanesFound (setPortState s p psTrain) p locked).fab = s.fab := by rw [lanesFound_form]; rfl
  have hport := port_setAdm (lanesFound (setPortState s p psTrain) p locked) p trainedAdm
  rw [portTrained]
  generalize lanesFound (setPortState s p psTrain) p locked = v at hfab hport
  rw [port_congr hfab] at hport
  exact hport

theorem portState_portTrained (s : State) (p locked : Nat) : portState (portTrained s p locked) p = psAdmit :=
  portState_setPortState _ p (by decide)

theorem portTrained_spoken (s : State) (p locked : Nat) : RegsBut s (portTrained s p locked) (unspokenRegs p) :=
  (portTrained_regs s p locked).mono (by simp [unspokenRegs])

end Sys2Proof.Machine
end

section
/-! PROOF. How an admission begins (R417, R418, R423). -/

namespace Sys2Proof.Settled

open Sys2Proof.Machine

/-- The end of an instruction leaves a refused port refused. -/
theorem refused_ended {t : State} {p r : Nat} (s : State) (h : Statements.Refused t p r) :
    Statements.Refused (ended s t) p r := h

theorem regsBut_ended {v t : State} {l : List Nat} (s : State) (h : RegsBut v t l) : RegsBut v (ended s t) l := h

theorem begun_ended {s t : State} {p : Nat} (u : State) (h : Statements.Begun s t p) :
    Statements.Begun s (ended u t) p := h

theorem sent_ended {v t : State} {p op : Nat} {tagged : Bool} {msg : List Byte} (s : State)
    (h : Statements.Sent v t p op tagged msg) : Statements.Sent v (ended s t) p op tagged msg := h

section
variable {s : State} {p : Nat} (ha : alive s = true) (hp : p < 24)
include ha hp

section
variable {desk : Bool} {locked : Nat} (hdorm : isDormant s = false) (hphase : rstState s ≠ 0 ∨ 3 ≤ rsPhase s)
  (hon : portDisabled s p = false) (hst : portState s p = psDown ∨ portState s p = psTrain)
include hdorm hphase hon hst

omit ha in
theorem trains : trainingSequence s p desk locked =
    if !trainOk p desk locked then admitStop (portUntrained s p) p arNone
    else if admitOpen (portTrained s p locked) then admitBegin (portTrained s p locked) p else portTrained s p locked := by
  have hready : (rstState s = 0 && decide (rsPhase s < 3)) = false := by
    rcases hphase with h | h
    · simp [h]
    · simp [Nat.not_lt.2 h]
  have hstate : (portState s p = psDown || portState s p = psTrain) = true := by simpa using hst
  rw [trainingSequence, hdorm, hready, hon, hstate, if_neg (by simp; omega)]
  rfl

/-- Training that fails refuses the port, without a reason. -/
theorem training_fails (hok : trainOk p desk locked = false) : Runs (.trainingSequence p desk locked) s fun t =>
    Statements.Refused t p arNone ∧ RegsBut s t [Reg.FAB_PSTAT p, Reg.FAB_INTSTAT] ∧ MemSame s t := by
  have hrun := trains hp (desk := desk) (locked := locked) hdorm hphase hon hst
  rw [if_pos (by simp [hok])] at hrun
  have hrefused := admitStop_refused (portUntrained s p) p (r := arNone) (by decide)
  have hmem := (portUntrained_memSame s p).trans (admitStop_memSame (portUntrained s p) p arNone)
  have hregs : RegsBut s (admitStop (portUntrained s p) p arNone) [Reg.FAB_PSTAT p, Reg.FAB_INTSTAT] :=
    ((portUntrained_regs s p).mono (by simp)).trans_same (admitStop_regs _ p arNone)
  exact runs_finish (congrArg (finish s) hrun) ha ⟨refused_ended s hrefused, regsBut_ended s hregs, memSame_ended s hmem⟩

/-- Training that passes leads to admission, and on a joined device to its HELLO. -/
theorem training_passes (hok : trainOk p desk locked = true) : Runs (.trainingSequence p desk locked) s fun t =>
    portState t p = psAdmit ∧ (port t p).adm.step = 1 ∧ RegsBut s t [Reg.FAB_PSTAT p, Reg.FAB_LANES p] ∧ MemSame s t
      ∧ (admitOpen s = true → Statements.Begun s t p ∧ (if ticking s
          then (port t p).adm.out = (msgPackets s p opAdmit (port t p).adm.own).map fun k => (false, k)
          else t.wire = s.wire ++ (msgPackets s p opAdmit (port t p).adm.own).map (Statements.outside s p none))) := by
  have hrun := trains hp (desk := desk) (locked := locked) hdorm hphase hon hst
  rw [if_neg (by simp [hok])] at hrun
  have hregs := portTrained_regs s p locked
  have hadm : (port (portTrained s p locked) p).adm = trainedAdm (port s p).adm := by rw [port_portTrained]
  have hstate := portState_portTrained s p locked
  have hspoken := portTrained_spoken s p locked
  have hform := portTrained_form s p locked
  generalize portTrained s p locked = w at hrun hregs hadm hstate hspoken hform
  have hopen : admitOpen w = admitOpen s := admitOpen_of_spoken hspoken hp (by rw [hform]) (by rw [hform])
  have hmem : MemSame s w := by rw [hform]; exact ⟨rfl, rfl⟩
  rw [hopen] at hrun
  cases hjoined : admitOpen s with
  | false =>
    rw [if_neg (ne_true_of_eq_false hjoined)] at hrun
    refine runs_finish (congrArg (finish s) hrun) ha ⟨hstate, ?_, hregs, hmem, fun h => absurd h (by decide)⟩
    rw [port_ended, hadm]
    rfl
  | true =>
    rw [if_pos hjoined] at hrun
    have hbegun : Statements.Begun s (admitBegin w p) p := begun_congr (admitBegin_begun w p) (by rw [hform])
      (ownHello_of_spoken hspoken hp (by rw [hform]) (by rw [hform]))
    have hsays := admitBegin_says (portUp_of_state hstate (by decide))
    have hregs' := hregs.trans_same ((admitBegin_regs w p).mono (by simp))
    have hmem' := hmem.trans (admitBegin_memSame w p)
    obtain ⟨hadmit, hstep, hrest⟩ := hbegun
    refine runs_finish (congrArg (finish s) hrun) ha ⟨hadmit, hstep, regsBut_ended s hregs', memSame_ended s hmem',
      fun _ => ⟨begun_ended s ⟨hadmit, hstep, hrest⟩, ?_⟩⟩
    unfold Statements.Sent at hsays
    rw [if_neg (ne_true_of_eq_false (portUp_of_state hstate (by decide))), ticking_of_spoken hspoken,
      msgPackets_of_spoken hspoken, hadm] at hsays
    split
    · next htick =>
      rw [if_pos htick] at hsays
      exact hsays
    · next htick =>
      rw [if_neg htick, show w.wire = s.wire by rw [hform]] at hsays
      exact hsays.trans (congrArg _ (List.map_congr_left fun k _ => outside_of_spoken hspoken none k))

end

/-- A refused port tries again from training when that had failed. -/
theorem retry_trains (hst : portState s p = psRefused) (hstep : (port s p).adm.step = 0) :
    Runs (.admitRetry p) s fun t => portState t p = psTrain ∧ OnlyRegs s t [Reg.FAB_PSTAT p] := by
  have hrun : admitRetry s p = setPortState s p psTrain := by
    rw [admitRetry, if_neg (by omega), if_pos hst, if_pos hstep]
  exact runs_finish (congrArg (finish s) hrun) ha
    ⟨portState_setPortState s p (by decide), onlyRegs_ended rfl (setPortState_regs s p psTrain)⟩

/-- A refused port of a joined device begins another admission. -/
theorem retry_begins (hst : portState s p = psRefused) (hstep : (port s p).adm.step ≠ 0) (hopen : admitOpen s = true) :
    Runs (.admitRetry p) s fun t =>
      Statements.Begun s t p ∧ Statements.Sent s t p opAdmit false (port t p).adm.own ∧ RegsBut s t [Reg.FAB_PSTAT p] := by
  have hrun : admitRetry s p = admitBegin s p := by
    rw [admitRetry, if_neg (by omega), if_pos hst, if_neg hstep, if_pos hopen]
  exact runs_finish (congrArg (finish s) hrun) ha ⟨begun_ended s (admitBegin_begun s p),
    sent_ended s (admitBegin_says (portUp_of_state hst (by decide))), regsBut_ended s (admitBegin_regs s p)⟩

end

/-- Each ADMIT message is taken as its packets come in. -/
theorem admit_exec {c : Instr} {p : Nat} {k : Packet}
    (hc : (∃ h, c = .hello p ⟨k, h⟩) ∨ (∃ sig, c = .proof p ⟨k, sig⟩) ∨ c = .confirm p k) (s : State) :
    ∃ go, exec c s = finish s (onAdmit p k go s) := by
  rcases hc with ⟨h, rfl⟩ | ⟨sig, rfl⟩ | rfl
  · exact ⟨_, rfl⟩
  · exact ⟨_, rfl⟩
  · exact ⟨_, rfl⟩

section
variable {s v : State} {p : Nat} {k k' : Packet}

theorem admit_blocked (h : Statements.Came s v p opAdmit k k') (hup : portUp s p = false) (hlast : k'.last = true)
    (hblock : admitBlocked v = true) {c : Instr}
    (hc : (∃ h, c = .hello p ⟨k, h⟩) ∨ (∃ sig, c = .proof p ⟨k, sig⟩) ∨ c = .confirm p k) :
    Runs c s fun t => Statements.Sent v t p opLinkctl false (linkctlPayload (.reason arNotready))
      ∧ portState t p = portState s p ∧ (port t p).adm.asm = []
      ∧ t = { v with fab := t.fab, wire := t.wire, msix := t.msix, edge := t.edge } := by
  obtain ⟨go, hexec⟩ := admit_exec hc s
  have hlink := Came.linked h
  have hsent := sendLinkctl_sent (messageWhole v p) p (.reason arNotready)
  have hexec' := hexec.trans (congrArg (finish s) (onAdmit_blocked h go hup hlast hblock))
  have hsays := hsent.sent (messageWhole_speaksAlike v p)
  have hform := hsent.form
  have hreg : reg (sendLinkctl (messageWhole v p) p (.reason arNotready)) (Reg.FAB_PSTAT p) = reg v (Reg.FAB_PSTAT p) :=
    hsent.reg_eq _
  have hpstat : reg v (Reg.FAB_PSTAT p) = reg s (Reg.FAB_PSTAT p) :=
    hlink.reg_eq (by simp only [Reg.FAB_PSTAT, Reg.FAB_FECCORR]; omega)
  have hasm : (port (sendLinkctl (messageWhole v p) p (.reason arNotready)) p).adm.asm = [] := by
    rw [hsent.adm_form, port_messageWhole]
  generalize sendLinkctl (messageWhole v p) p (.reason arNotready) = t at hexec' hsays hform hreg hasm
  refine runs_finish hexec' h.1 ⟨sent_ended s hsays, fld_of_reg (hreg.trans hpstat) _, hasm, ?_⟩
  rw [hform, messageWhole, hlink.form]
  rfl

theorem admit_part (h : Statements.Came s v p opAdmit k k') (hlast : k'.last = false) {c : Instr}
    (hc : (∃ h, c = .hello p ⟨k, h⟩) ∨ (∃ sig, c = .proof p ⟨k, sig⟩) ∨ c = .confirm p k) :
    Runs c s fun t => (port t p).adm.asm = (port v p).adm.asm ++ k'.payload
      ∧ t = { v with fab := t.fab, msix := t.msix, edge := t.edge } := by
  obtain ⟨go, hexec⟩ := admit_exec hc s
  refine runs_finish (hexec.trans (congrArg (finish s) (onAdmit_part h go hlast))) h.1 ⟨?_, ?_⟩
  · rw [port_ended, port_setAdm]
  · rw [(Came.linked h).form]
    rfl

/-- The partner's reason refuses the port. -/
theorem reason_refuses {r : Nat} (h : Statements.Came s v p opLinkctl k k') (hr : 0 < r) (hr9 : r ≤ 9)
    (hst : portState s p = psAdmit) : Runs (.linkctlReason p ⟨k, r⟩) s fun t =>
      Statements.Refused t p r ∧ RegsBut v t [Reg.FAB_PSTAT p, Reg.FAB_INTSTAT] ∧ MemSame s t := by
  have hlink := Came.linked h
  have hstv : portState v p = psAdmit :=
    (fld_of_reg (hlink.reg_eq (by simp only [Reg.FAB_PSTAT, Reg.FAB_FECCORR]; omega)) _).trans hst
  have hrun : recvLocal opLinkctl p k (fun _ s => linkctlReason p r s) s = admitStop v p r := by
    rw [recvLocal_came h, linkctlReason, hstv]
    simp [arNone, show r ≠ 0 by omega, Nat.not_lt.2 hr9]
  exact runs_finish (congrArg (finish s) hrun) h.1
    ⟨refused_ended s (admitStop_refused v p (by omega)), regsBut_ended s (admitStop_regs v p r),
      memSame_ended s (hlink.memSame.trans (admitStop_memSame v p r))⟩

end

theorem statements_admissionBegins : Statements.AdmissionBegins := by
  intro s p ha hp
  refine ⟨fun desk locked hdorm hphase hon hst => ⟨training_fails ha hp hdorm hphase hon hst,
      training_passes ha hp hdorm hphase hon hst⟩,
    fun v k k' h hup hlast hblock c hc => admit_blocked h hup hlast hblock hc,
    fun v k k' h hlast c hc => admit_part h hlast hc,
    fun v k k' r h hr hr9 hst => reason_refuses h hr hr9 hst,
    retry_trains ha hp, retry_begins ha hp⟩

end Sys2Proof.Settled
end

section
/-! PROOF. The steps of an admission (R416, R418 to R422). -/

namespace Sys2Proof.Machine

/-! ## HELLO and PROOF (R418 to R420) -/

/-- The checks of a HELLO read no port. -/
theorem helloFault_messageWhole (s : State) (p q : Nat) (h : Hello) :
    helloFault (messageWhole s q) p h = helloFault s p h := rfl

theorem helloFault_lt {s : State} {p : Nat} {h : Hello} {r : Nat} (hf : helloFault s p h = some r) : r < 16 := by
  unfold helloFault at hf
  split at hf
  · cases hf; decide
  split at hf
  · cases hf; decide
  split at hf
  · cases hf; decide
  split at hf
  · cases hf; decide
  split at hf
  · cases hf; decide
  split at hf
  · cases hf; decide
  · cases hf

/-- What a port remembers of a HELLO that passes. -/
def helloPassed (h : Hello) (hash keys : List Byte) (a : AdmSt) : AdmSt :=
  { a with step := 2, peer := some h, hash := hash, next := keys }

/-- A HELLO met by a port that has sent its own. -/
theorem takeHello_met {s : State} {p : Nat} (bs : List Byte) (h : Hello) (hst : portState s p = psAdmit)
    (hstep : (port s p).adm.step = 1) (hnonce : (port s p).adm.nonce ≠ []) : takeHello s p bs h =
      match helloFault s p h with
      | some r => admitFail s p r
      | none =>
        let hash := sessionHash (deviceId s) h.device (port s p).adm.own bs
        signProof (setAdm s p (helloPassed h hash (sessionKeys s hash))) p (proofMsg hash (deviceId s)) := by
  have hmet : (portState s p = psRefused || (port s p).adm.nonce.isEmpty) = false := by
    rw [hst, List.isEmpty_eq_false_iff.2 hnonce]
    rfl
  unfold takeHello
  rw [hmet]
  simp only [Bool.false_eq_true, if_false, hstep, ne_eq, not_true]
  rfl

/-! ## PROOFs that go out (R418, R589) -/

theorem takeIndex_regs (s : State) : RegsBut s (takeIndex s).1 [Reg.FWM_SIGNEXT_LO, Reg.FWM_SIGNEXT_LO + 4] := by
  intro a ha
  simp only [List.mem_cons, List.not_mem_nil, or_false, not_or] at ha
  exact reg_setReg64_ne s _ (Ne.symm ha.1) (Ne.symm ha.2)

theorem sigNext_takeIndex {s : State} (h : sigNext s < sigRes s) : sigNext (takeIndex s).1 = sigNext s + 1 := by
  have hlt : sigRes s < 2 ^ 64 := reg64_lt s _
  have hset : sigNext (takeIndex s).1 = (sigNext s + 1) % 2 ^ 64 := reg64_setReg64 s _ _
  rw [hset]
  exact Nat.mod_eq_of_lt (by omega)

theorem portState_takeIndex (s : State) {p : Nat} (hp : p < 24) : portState (takeIndex s).1 p = portState s p := by
  refine fld_of_reg (takeIndex_regs s _ ?_) _
  simp only [Reg.FAB_PSTAT, Reg.FWM_SIGNEXT_LO, List.mem_cons, List.not_mem_nil, or_false]
  omega

theorem takeIndex_speaksAlike (s : State) {p : Nat} (hp : p < 24) : SpeaksAlike p s (takeIndex s).1 := by
  refine ⟨(takeIndex_regs s).mono (by simp [unspokenRegs]), ?_, rfl, rfl, rfl⟩
  rw [portUp, portUp, portState_takeIndex s hp]

theorem releaseProof_sent (s : State) (p : Nat) (msg : List Byte) : LocalSent false p
    (msgPackets (takeIndex s).1 p opAdmit (Config.proofBytes (Config.identitySign (sigNext s) msg))) (takeIndex s).1
    (releaseProof s p msg) := sendAdmit_sent false (takeIndex s).1 p _

/-- A PROOF goes out or waits for its index: the port remembers what it did. -/
theorem signProof_keeps (s : State) {p : Nat} (hp : p < 24) (msg : List Byte) :
    portState (signProof s p msg) p = portState s p ∧ (port (signProof s p msg) p).adm =
      { (port s p).adm with out := (port (signProof s p msg) p).adm.out } := by
  unfold signProof
  split
  · have hsent := releaseProof_sent s p msg
    exact ⟨(fld_of_reg (hsent.reg_eq _) _).trans (portState_takeIndex s hp), hsent.adm_form p⟩
  · unfold reserveBlock
    split
    · exact ⟨rfl, rfl⟩
    · exact ⟨rfl, rfl⟩

theorem signProof_says {v s : State} {p : Nat} (hp : p < 24) (hv : SpeaksAlike p v s) (msg : List Byte)
    (h : sigNext s < sigRes s) :
    sigNext (signProof s p msg) = sigNext s + 1 ∧ Statements.Sent v (signProof s p msg) p opAdmit false
      (Config.proofBytes (Config.identitySign (sigNext s) msg)) := by
  have hsent := releaseProof_sent s p msg
  rw [signProof, if_pos h]
  refine ⟨?_, hsent.sent (hv.trans (takeIndex_speaksAlike s hp))⟩
  rw [sigNext, reg64_congr hsent.regs]
  exact sigNext_takeIndex h

/-! ## The link comes up (R411, R416, R418, R420, R422) -/

theorem linkPort_credit (x : PortSt) (who : Nat × List Byte) : (linkPort x who).credit = fullCredit := rfl

theorem linkPort_keys (x : PortSt) (who : Nat × List Byte) : (linkPort x who).adm.keys = x.adm.next := rfl

/-- A partner that was admitted last keeps the LSEQ state; another starts it anew. -/
theorem linkPort_lseq (x : PortSt) (who : Nat × List Byte) :
    if x.adm.last = some who then (linkPort x who).resume = true ∧ (linkPort x who).replay = x.replay
        ∧ (linkPort x who).rxNext = x.rxNext ∧ (linkPort x who).txNext = x.txNext
      else (linkPort x who).replay = [] ∧ (linkPort x who).rxNext = 0 ∧ (linkPort x who).txNext = 0 := by
  split
  · next h => simp [linkPort, h]
  · next h => simp [linkPort, h]

/-- The registers of a link that comes up, before its state is shown. -/
def linkCounted (s : State) (p : Nat) (h : Hello) : State :=
  let s := setRegN (mapPort s p fun x => linkPort x (h.device, shake256 h.idkey 32)) (Reg.FAB_PEER p)
    (2 ^ 31 + h.device % 2 ^ 18)
  let s := setFld s (Reg.FAB_PSTAT p) Fld.FAB_PSTAT_ENC (fld s Reg.FAB_CTRL Fld.FAB_CTRL_ENC)
  raise (bump s (Reg.FAB_ADMITS p) 1) Reg.FAB_INTSTAT Fld.FAB_INTSTAT_LINKUP.bit

theorem linkUp_counted (s : State) (p : Nat) (h : Hello) : linkUp s p h = setPortState (linkCounted s p h) p psUp := rfl

theorem reg_linkUp (s : State) (p : Nat) (h : Hello) {a : Nat} (ha : a ≠ Reg.FAB_PSTAT p) :
    reg (linkUp s p h) a = reg (linkCounted s p h) a := by
  rw [linkUp_counted]
  exact reg_setFld_ne _ _ _ (Ne.symm ha)

theorem port_linkUp (s : State) (p : Nat) (h : Hello) :
    port (linkUp s p h) p = linkPort (port s p) (h.device, shake256 h.idkey 32) := by
  have hfab : (linkUp s p h).fab = (mapPort s p fun x => linkPort x (h.device, shake256 h.idkey 32)).fab := rfl
  rw [port_congr hfab, port_mapPort_same]

theorem linkup_linkUp (s : State) (p : Nat) (h : Hello) :
    fld (linkUp s p h) Reg.FAB_INTSTAT Fld.FAB_INTSTAT_LINKUP = 1 := by
  rw [fld_of_reg (reg_linkUp s p h (by simp only [Reg.FAB_INTSTAT, Reg.FAB_PSTAT]; omega))]
  exact fld_raise _ _ 0 (by decide)

theorem peer_linkUp (s : State) (p : Nat) (h : Hello) :
    regN (linkUp s p h) (Reg.FAB_PEER p) = 2 ^ 31 + h.device % 2 ^ 18 := by
  rw [regN_of_reg (reg_linkUp s p h (by simp only [Reg.FAB_PEER, Reg.FAB_PSTAT]; omega)), linkCounted,
    regN_of_reg (reg_raise_ne _ _ (by simp only [Reg.FAB_INTSTAT, Reg.FAB_PEER]; omega)),
    regN_of_reg (reg_bump_ne _ _ (by simp only [Reg.FAB_ADMITS, Reg.FAB_PEER]; omega)),
    regN_of_reg (reg_setFld_ne _ _ _ (by simp only [Reg.FAB_PSTAT, Reg.FAB_PEER]; omega)), regN_setRegN, if_pos rfl]
  omega

theorem admits_linkUp (s : State) (p : Nat) (h : Hello) :
    regN (linkUp s p h) (Reg.FAB_ADMITS p) = min (regN s (Reg.FAB_ADMITS p) + 1) 0xFFFFFFFF := by
  rw [regN_of_reg (reg_linkUp s p h (by simp only [Reg.FAB_ADMITS, Reg.FAB_PSTAT]; omega)), linkCounted,
    regN_of_reg (reg_raise_ne _ _ (by simp only [Reg.FAB_INTSTAT, Reg.FAB_ADMITS]; omega)), regN_bump,
    regN_of_reg (reg_setFld_ne _ _ _ (by simp only [Reg.FAB_PSTAT, Reg.FAB_ADMITS]; omega)),
    regN_of_reg (reg_setRegN_ne _ _ (by simp only [Reg.FAB_PEER, Reg.FAB_ADMITS]; omega))]
  rfl

end Sys2Proof.Machine

namespace Sys2Proof.Settled

open Sys2Proof.Machine

section
variable {s v : State} {p : Nat} {k k' : Packet} (h : Statements.Came s v p opAdmit k k') (hup : portUp s p = false)
  (hlast : k'.last = true) (hopen : admitOpen v = true) (hst : portState v p = psAdmit)
include h hup hlast hopen

/-- A joined device takes a whole message in the state that the message has left. -/
theorem runs_whole {c : Instr} {go : List Byte → Packet → State → State} (hc : exec c s = finish s (onAdmit p k go s))
    {t : State} (ht : go ((port v p).adm.asm ++ k'.payload) k' (messageWhole v p) = t) {P : State → Prop}
    (hP : P (ended s t)) : Runs c s P :=
  runs_finish (hc.trans (congrArg (finish s) ((onAdmit_whole h go hup hlast hopen).trans ht))) h.1 hP

include hst

section
variable {hello : Hello} (hstep : (port v p).adm.step = 1) (hnonce : (port v p).adm.nonce ≠ [])
include hstep hnonce

omit h hup hlast hopen in
theorem takeHello_whole (bs : List Byte) : takeHello (messageWhole v p) p bs hello =
    match helloFault v p hello with
    | some r => admitFail (messageWhole v p) p r
    | none =>
      let hash := sessionHash (deviceId v) hello.device (port v p).adm.own bs
      signProof (setAdm (messageWhole v p) p (helloPassed hello hash (sessionKeys v hash))) p (proofMsg hash (deviceId v)) := by
  have hstep' : (port (messageWhole v p) p).adm.step = 1 := by rw [port_messageWhole]; exact hstep
  have hnonce' : (port (messageWhole v p) p).adm.nonce ≠ [] := by rw [port_messageWhole]; exact hnonce
  have hown : (port (messageWhole v p) p).adm.own = (port v p).adm.own := by rw [port_messageWhole]
  rw [takeHello_met (s := messageWhole v p) bs hello hst hstep' hnonce', helloFault_messageWhole, hown]
  rfl

theorem hello_fails {r : Nat} (hf : helloFault v p hello = some r) : Runs (.hello p ⟨k, hello⟩) s fun t =>
    Statements.Refused t p r ∧ RegsBut v t [Reg.FAB_PSTAT p, Reg.FAB_INTSTAT] := by
  have htake := takeHello_whole hst (hello := hello) hstep hnonce ((port v p).adm.asm ++ k'.payload)
  rw [hf] at htake
  have htakes : takesAdmit (messageWhole v p) p = true := by
    rw [takesAdmit, show portState (messageWhole v p) p = psAdmit from hst]
    rfl
  exact runs_whole h hup hlast hopen rfl ((if_pos htakes).trans htake)
    ⟨refused_ended s (admitFail_refused _ p (helloFault_lt hf)), regsBut_ended s (admitFail_regs (messageWhole v p) p r)⟩

/-- A HELLO that passes is remembered with the keys of the session, and answered with a PROOF. -/
theorem hello_passes (hf : helloFault v p hello = none) :
    let hash := sessionHash (deviceId v) hello.device (port v p).adm.own ((port v p).adm.asm ++ k'.payload)
    Runs (.hello p ⟨k, hello⟩) s fun t => (port t p).adm.step = 2 ∧ (port t p).adm.peer = some hello
      ∧ portState t p = psAdmit ∧ (port t p).adm.hash = hash ∧ (port t p).adm.next = sessionKeys v hash
      ∧ (sigNext v < sigRes v → sigNext t = sigNext v + 1 ∧ Statements.Sent v t p opAdmit false
          (Config.proofBytes (Config.identitySign (sigNext v) (proofMsg hash (deviceId v))))) := by
  have htake := takeHello_whole hst (hello := hello) hstep hnonce ((port v p).adm.asm ++ k'.payload)
  rw [hf] at htake
  dsimp only at htake
  have htakes : takesAdmit (messageWhole v p) p = true := by
    rw [takesAdmit, show portState (messageWhole v p) p = psAdmit from hst]
    rfl
  intro hash
  have hadm : (port (setAdm (messageWhole v p) p (helloPassed hello hash (sessionKeys v hash))) p).adm
      = helloPassed hello hash (sessionKeys v hash) { (port v p).adm with asm := [] } := by
    rw [port_setAdm, port_messageWhole]
  have hspeaks : SpeaksAlike p v (setAdm (messageWhole v p) p (helloPassed hello hash (sessionKeys v hash))) :=
    (messageWhole_speaksAlike v p).trans (setAdm_speaksAlike _ p rfl)
  obtain ⟨hstate, hkeeps⟩ := signProof_keeps (setAdm (messageWhole v p) p (helloPassed hello hash (sessionKeys v hash))) h.2.1
    (proofMsg hash (deviceId v))
  have hsays := signProof_says h.2.1 hspeaks (proofMsg hash (deviceId v))
  rw [hadm] at hkeeps
  refine runs_whole h hup hlast hopen rfl ((if_pos htakes).trans htake) ?_
  generalize signProof _ p _ = t at hstate hkeeps hsays
  refine ⟨?_, ?_, hstate.trans hst, ?_, ?_, hsays⟩
  · rw [port_ended, hkeeps]
    rfl
  · rw [port_ended, hkeeps]
    rfl
  · rw [port_ended, hkeeps]
    rfl
  · rw [port_ended, hkeeps]
    rfl

end

/-- A PROOF whose signature does not verify refuses the port. -/
theorem proof_fails {hello : Hello} {sig : List Byte} (hpeer : (port v p).adm.peer = some hello)
    (hstep : (port v p).adm.step = 2)
    (hsig : Config.xmssVerify hello.idkey (proofMsg (port v p).adm.hash hello.device) sig = false) :
    Runs (.proof p ⟨k, sig⟩) s fun t => Statements.Refused t p arBadsig := by
  have htake : takeProof (messageWhole v p) p sig = admitFail (messageWhole v p) p arBadsig := by
    rw [takeProof, port_messageWhole, hpeer]
    dsimp only
    rw [if_neg (by simp [hstep, show portState (messageWhole v p) p = psAdmit from hst]), if_pos (by simp [hsig])]
  exact runs_whole h hup hlast hopen rfl htake (refused_ended s (admitFail_refused _ p (by decide)))

/-- A PROOF that verifies is answered with CONFIRM. -/
theorem proof_passes {hello : Hello} {sig : List Byte} (hpeer : (port v p).adm.peer = some hello)
    (hstep : (port v p).adm.step = 2)
    (hsig : Config.xmssVerify hello.idkey (proofMsg (port v p).adm.hash hello.device) sig = true) :
    Runs (.proof p ⟨k, sig⟩) s fun t => (port t p).adm.step = 3 ∧ t.regs = v.regs
      ∧ Statements.Sent v t p opAdmit true ((Config.confirmBytes (deviceId v)).take 512) := by
  have htake : takeProof (messageWhole v p) p sig = sendAdmit true (setAdm (messageWhole v p) p fun a => { a with step := 3 }) p
      ((Config.confirmBytes (deviceId v)).take 512) := by
    rw [takeProof, port_messageWhole, hpeer]
    dsimp only
    rw [if_neg (by simp [hstep, show portState (messageWhole v p) p = psAdmit from hst]), if_neg (by simp [hsig])]
    rfl
  have hsent := sendAdmit_sent true (setAdm (messageWhole v p) p fun a => { a with step := 3 }) p
    ((Config.confirmBytes (deviceId v)).take 512)
  have hsays := hsent.sent ((messageWhole_speaksAlike v p).trans (setAdm_speaksAlike (messageWhole v p) p rfl))
  refine runs_whole h hup hlast hopen rfl htake ⟨?_, hsent.regs, sent_ended s hsays⟩
  rw [port_ended, hsent.adm_form, port_setAdm]

/-- A CONFIRM whose tag does not verify refuses the port. -/
theorem confirm_fails {hello : Hello} (hpeer : (port v p).adm.peer = some hello) (hstep : (port v p).adm.step = 3)
    (htag : k'.trailer.tag ≠ ctlTag (port v p).adm.next k') :
    Runs (.confirm p k) s fun t => Statements.Refused t p arConfirm := by
  have htake : takeConfirm (messageWhole v p) p k' = admitFail (messageWhole v p) p arConfirm := by
    rw [takeConfirm, port_messageWhole, hpeer]
    dsimp only
    rw [if_neg (by simp [hstep, show portState (messageWhole v p) p = psAdmit from hst]), if_pos htag]
  exact runs_whole h hup hlast hopen rfl htake (refused_ended s (admitFail_refused _ p (by decide)))

/-- The partner's CONFIRM brings the link up. -/
theorem confirm_passes {hello : Hello} (hpeer : (port v p).adm.peer = some hello) (hstep : (port v p).adm.step = 3)
    (htag : k'.trailer.tag = ctlTag (port v p).adm.next k') : Runs (.confirm p k) s fun t => portState t p = psUp
      ∧ fld t Reg.FAB_INTSTAT Fld.FAB_INTSTAT_LINKUP = 1 ∧ regN t (Reg.FAB_PEER p) = 2 ^ 31 + hello.device % 2 ^ 18
      ∧ regN t (Reg.FAB_ADMITS p) = min (regN s (Reg.FAB_ADMITS p) + 1) 0xFFFFFFFF
      ∧ (port t p).credit = fullCredit ∧ (port t p).adm.keys = (port v p).adm.next
      ∧ (if (port v p).adm.last = some (hello.device, shake256 hello.idkey 32)
          then (port t p).resume = true ∧ (port t p).replay = (port v p).replay ∧ (port t p).rxNext = (port v p).rxNext
            ∧ (port t p).txNext = (port v p).txNext
          else (port t p).replay = [] ∧ (port t p).rxNext = 0 ∧ (port t p).txNext = 0) := by
  have htake : takeConfirm (messageWhole v p) p k' = linkUp (messageWhole v p) p hello := by
    rw [takeConfirm, port_messageWhole, hpeer]
    dsimp only
    rw [if_neg (by simp [hstep, show portState (messageWhole v p) p = psAdmit from hst]), if_neg (not_not.2 htag)]
  have hadmits : regN v (Reg.FAB_ADMITS p) = regN s (Reg.FAB_ADMITS p) :=
    regN_of_reg ((Came.linked h).reg_eq (by simp only [Reg.FAB_ADMITS, Reg.FAB_FECCORR]; omega))
  have hport := port_linkUp (messageWhole v p) p hello
  rw [port_messageWhole] at hport
  have hstate : portState (linkUp (messageWhole v p) p hello) p = psUp := portState_setPortState _ p (by decide)
  have hlinkup := linkup_linkUp (messageWhole v p) p hello
  have hpeered := peer_linkUp (messageWhole v p) p hello
  have hcounted : regN (linkUp (messageWhole v p) p hello) (Reg.FAB_ADMITS p)
      = min (regN v (Reg.FAB_ADMITS p) + 1) 0xFFFFFFFF := admits_linkUp (messageWhole v p) p hello
  rw [hadmits] at hcounted
  generalize linkUp (messageWhole v p) p hello = t at htake hport hstate hlinkup hpeered hcounted
  refine runs_whole h hup hlast hopen rfl htake ⟨hstate, hlinkup, hpeered, hcounted, ?_, ?_, ?_⟩
  · rw [port_ended, hport, linkPort_credit]
  · rw [port_ended, hport, linkPort_keys]
  · rw [port_ended, hport]
    exact linkPort_lseq { port v p with adm := { (port v p).adm with asm := [] } } (hello.device, shake256 hello.idkey 32)

end

theorem statements_admissionSteps : Statements.AdmissionSteps := by
  intro s v p k k' h hup hlast hopen hst
  refine ⟨fun hello r hstep hnonce hf => hello_fails h hup hlast hopen hst hstep hnonce hf,
    fun hello hstep hnonce hf => hello_passes h hup hlast hopen hst hstep hnonce hf,
    fun hello sig hpeer hstep => ⟨proof_fails h hup hlast hopen hst hpeer hstep,
      proof_passes h hup hlast hopen hst hpeer hstep⟩,
    fun hello hpeer hstep => ⟨confirm_fails h hup hlast hopen hst hpeer hstep,
      confirm_passes h hup hlast hopen hst hpeer hstep⟩⟩

/-- Settles O44: training and its retries, and then each message of an admission by what its checks find. -/
theorem admission : Obligations.Admission := ⟨statements_admissionBegins, statements_admissionSteps⟩

end Sys2Proof.Settled
end

section
/-! PROOF. The device's own commands (R533, R534, R546 to R548, R609): Fallow, partial resets asked for, and stores of the
Cellar. -/

namespace Sys2Proof.Machine

/-! ## Commands that run and commands that complete (R614, R616) -/

theorem dropCmd_blocks (s : State) (h : Nat) : BlocksBut s (dropCmd s h) [0, 1] :=
  blocksBut_setRegN { s with host := { s.host with cmds := s.host.cmds.filter fun x => x.handle ≠ h } } _ (by decide)

theorem logEntry_blocks (s : State) (c : HostCmd) (e : Compl) : BlocksBut s (logEntry s c e).1 [0, 1] := by
  unfold logEntry
  dsimp only
  split
  · split
    · exact (blocksBut_raise s _ (by decide)).trans (blocksBut_setFld _ _ _ (by decide))
    · exact (BlocksBut.of_regs rfl _).trans ((blocksBut_bump64 _ 1 (by decide) (by decide)).trans
        (blocksBut_bump64 _ 1 (by decide) (by decide)))
  · exact .refl s _

/-- A completion writes registers of the host port and the count of events. -/
theorem complete_blocks (s : State) (h : Nat) (e : Compl) : BlocksBut s (complete s h e) [0, 1] := by
  unfold complete
  split
  · exact .refl s _
  · split
    · exact dropCmd_blocks s h
    · exact (logEntry_blocks s _ e).trans ((BlocksBut.of_regs rfl _).trans (dropCmd_blocks _ h))

theorem setRunning_cmds (s : State) (c : HostCmd) (st : Nat) : (setRunning s c st).host.cmds
    = s.host.cmds.map fun e => if e.handle = c.handle then { e with state := 2 } else e := by
  unfold setRunning
  dsimp only
  split <;> rfl

theorem setRunning_form (s : State) (c : HostCmd) (st : Nat) :
    setRunning s c st = { s with host := (setRunning s c st).host } := by
  unfold setRunning
  dsimp only
  split <;> rfl

/-- A command that becomes RUNNING is found so under its handle. -/
theorem findCmd_setRunning {s : State} {c : HostCmd} (h : findCmd s c.handle = some c) (st : Nat) :
    findCmd (setRunning s c st) c.handle = some { c with state := 2 } := by
  have hsame : ((fun x : HostCmd => decide (x.handle = c.handle)) ∘
      fun e => if e.handle = c.handle then { e with state := 2 } else e) = fun x => decide (x.handle = c.handle) := by
    funext e
    dsimp only [Function.comp_apply]
    split <;> rfl
  have hfind : s.host.cmds.find? (fun x => decide (x.handle = c.handle)) = some c := h
  rw [findCmd, setRunning_cmds, List.find?_map, hsame, hfind]
  simp

/-- A completion takes commands away and adds none. -/
theorem complete_cmds (s : State) (h : Nat) (e : Compl) : (complete s h e).host.cmds ⊆ s.host.cmds := by
  have hdrop (t : State) : (dropCmd t h).host.cmds ⊆ t.host.cmds := fun _ hx => (List.mem_filter.1 hx).1
  have hlog (c : HostCmd) : (logEntry s c e).1.host.cmds = s.host.cmds := by
    unfold logEntry
    dsimp only
    split
    · split <;> rfl
    · rfl
  unfold complete
  split
  · exact fun _ hx => hx
  · split
    · exact hdrop s
    · next c _ _ =>
      intro x hx
      rw [← hlog c]
      exact hdrop _ hx

theorem findCmd_none_of_subset {s t : State} {h : Nat} (hcmds : t.host.cmds ⊆ s.host.cmds) (hnone : findCmd s h = none) :
    findCmd t h = none :=
  List.find?_eq_none.2 fun x hx => List.find?_eq_none.1 hnone x (hcmds hx)

/-- Commands that complete one after another. -/
def completeAll (hs : List Nat) (s : State) : State := hs.foldl (fun s h => complete s h { status := 0 }) s

theorem completeAll_completes (hs : List Nat) (s : State) : Completes s (completeAll hs s) :=
  List.foldlRecOn (motive := fun t => Completes s t) hs _ (.refl s) fun _ h x _ => h.trans (complete_completes _ x _)

theorem completeAll_blocks (hs : List Nat) (s : State) : BlocksBut s (completeAll hs s) [0, 1] :=
  .foldl (fun s h => complete_blocks s h { status := 0 }) hs s

theorem completeAll_cmds (hs : List Nat) (s : State) : (completeAll hs s).host.cmds ⊆ s.host.cmds :=
  List.foldlRecOn (motive := fun t : State => t.host.cmds ⊆ s.host.cmds) hs _ (fun _ hx => hx) fun _ h x _ _ hy =>
    h (complete_cmds _ x _ hy)

theorem findCmd_completeAll (hs : List Nat) (s : State) : ∀ h ∈ hs, findCmd (completeAll hs s) h = none := by
  induction hs generalizing s with
  | nil => simp
  | cons x xs ih =>
    intro h hm
    rcases List.mem_cons.1 hm with rfl | hm
    · exact findCmd_none_of_subset (completeAll_cmds xs _) (findCmd_complete s h { status := 0 })
    · exact ih _ h hm

/-! ## Stores of the Cellar (R546, R547, R581, R589) -/

/-- From `s` to `t` what a store brings about: the records stand, and stores are only added. -/
structure CellarKept (s t : State) : Prop where
  mem : MemSame s t
  recs : t.cellar.recs = s.cellar.recs
  stores : ∃ more, t.cellar.stores = s.cellar.stores ++ more

theorem CellarKept.of_same {s t : State} (hmem : MemSame s t) (h : t.cellar = s.cellar) : CellarKept s t :=
  ⟨hmem, by rw [h], [], by rw [h, List.append_nil]⟩

theorem CellarKept.trans {s t u : State} (h : CellarKept s t) (h' : CellarKept t u) : CellarKept s u := by
  obtain ⟨more, hmore⟩ := h.stores
  obtain ⟨more', hmore'⟩ := h'.stores
  exact ⟨h.mem.trans h'.mem, h'.recs.trans h.recs, more ++ more', by rw [hmore', hmore, List.append_assoc]⟩

theorem reserveBlock_cellar (s : State) : CellarKept s (reserveBlock s) := by
  unfold reserveBlock
  split
  · exact .of_same ⟨rfl, rfl⟩ rfl
  · exact ⟨⟨rfl, rfl⟩, rfl, _, rfl⟩

theorem sendLocal_cellar (tagged : Bool) (s : State) (p : Nat) (k : Packet) : CellarKept s (sendLocal tagged s p k) := by
  unfold sendLocal
  split
  · exact .of_same ⟨rfl, rfl⟩ rfl
  · split
    · exact .of_same ⟨rfl, rfl⟩ rfl
    · exact .of_same ⟨rfl, rfl⟩ rfl

theorem releaseProof_cellar (s : State) (p : Nat) (msg : List Byte) : CellarKept s (releaseProof s p msg) :=
  List.foldlRecOn (motive := fun t => CellarKept s t) _ _ (.of_same ⟨rfl, rfl⟩ rfl) fun _ h k _ =>
    h.trans (sendLocal_cellar false _ p k)

theorem releaseSigns_cellar (xs : List (Nat × List Byte)) (s : State) : CellarKept s (releaseSigns xs s) := by
  induction xs generalizing s with
  | nil => exact .of_same ⟨rfl, rfl⟩ rfl
  | cons x xs ih =>
    obtain ⟨p, msg⟩ := x
    unfold releaseSigns
    split
    · exact (releaseProof_cellar s p msg).trans (ih _)
    · have hsigns : CellarKept s { s with signs := s.signs ++ (p, msg) :: xs } := .of_same ⟨rfl, rfl⟩ rfl
      exact hsigns.trans (reserveBlock_cellar _)

theorem measure_cellar (s : State) (type : Nat) (i : Option Image) (digest : List Byte) :
    CellarKept s (measure s type i digest) := by
  unfold measure
  dsimp only
  generalize bytesAt (shake256 _ 32) 0 32 = chain
  obtain ⟨regs, hregs⟩ : ∃ regs, setWords s (Reg.FWM_CHAIN 0) chain 8 = { s with regs := regs } := ⟨_, setWords_form _ _ _ _⟩
  rw [hregs]
  split
  · exact .of_same ⟨rfl, rfl⟩ rfl
  · exact .of_same ⟨rfl, rfl⟩ rfl

theorem confirmed_cellar (s : State) : CellarKept s (confirmed s) := by
  unfold confirmed measureImage
  dsimp only
  refine CellarKept.trans ?_ (measure_cellar _ mtConfirm _ _)
  exact .of_same ⟨rfl, rfl⟩ rfl

theorem stored_cellar (s : State) (r : StoreReq) : CellarKept s (stored s r) := by
  unfold stored
  split
  · exact .of_same ⟨rfl, rfl⟩ rfl
  split
  · refine CellarKept.trans ?_ (releaseSigns_cellar _ _)
    exact .of_same ⟨rfl, rfl⟩ rfl
  split
  · have hset : CellarKept s (setFwm s Fld.FWM_STATUS_MIGRATING (if r.body.isEmpty then 0 else 1)) :=
      .of_same ⟨rfl, rfl⟩ rfl
    refine hset.trans ?_
    generalize setFwm s Fld.FWM_STATUS_MIGRATING _ = v
    dsimp only
    split
    · exact confirmed_cellar v
    · exact .of_same ⟨rfl, rfl⟩ rfl
  · exact .of_same ⟨rfl, rfl⟩ rfl

/-- The first store waiting has been written to the copy that was not valid. -/
def storeWritten (s : State) (r : StoreReq) (rest : List StoreReq) : State :=
  { s with cellar := { recs := kset (fun _ => {}) s.cellar.recs r.kind ((cellRec s r.kind).write r.version r.body)
                       stores := rest } }

/-- What a store that completes leaves, before its command is over. -/
theorem storeComplete_eq {s : State} {r : StoreReq} {rest : List StoreReq} (h : s.cellar.stores = r :: rest) :
    storeComplete s = match r.handle with
      | some n => complete (stored (storeWritten s r rest) r) n { status := 0 }
      | none => stored (storeWritten s r rest) r := by
  unfold storeComplete
  rw [h]
  rfl

theorem cellRec_storeWritten (s : State) (r : StoreReq) (rest : List StoreReq) (k : Nat) :
    cellRec (storeWritten s r rest) k = if r.kind = k then (cellRec s r.kind).write r.version r.body else cellRec s k :=
  kget_kset _ _ _ _ _

theorem complete_cellar (s : State) (h : Nat) (e : Compl) : CellarKept s (complete s h e) :=
  .of_same (complete_completes s h e).memSame (by rw [(complete_completes s h e).form])

/-! ## Fallow (R533, R534) -/

/-- A device that is no longer in Fallow. -/
def awake (s : State) : State :=
  raise (mapRst (setRst s stIdle) fun r => { r with waking := false, wakes := [] }) Reg.RST_INTSTAT Fld.RST_INTSTAT_WAKE.bit

end Sys2Proof.Machine

namespace Sys2Proof.Settled

open Sys2Proof.Machine

section
variable {s : State} (ha : alive s = true)
include ha

/-- A device in Fallow is so when its command completes. -/
theorem fallow_completes {c : HostCmd} (hs : Statements.Starts s ocFallow c) : Runs .fallow s fun t =>
    Statements.Completed t c 0 0 ∧ rstState t = stFallow ∧ MemSame s t
      ∧ fld t Reg.RST_INTSTAT Fld.RST_INTSTAT_FALLOW = 1 := by
  obtain ⟨hstart, hfind, hgone⟩ := hs
  have hover := done_over (u := raise (setRst s stFallow) Reg.RST_INTSTAT Fld.RST_INTSTAT_FALLOW.bit) rfl hfind hgone
  have hblocks := complete_blocks (raise (setRst s stFallow) Reg.RST_INTSTAT Fld.RST_INTSTAT_FALLOW.bit) c.handle { status := 0 }
  refine runs_hostCmd rfl ha hstart ⟨hover.1, ?_, memSame_ended s hover.2.memSame, ?_⟩
  · show fld (complete _ c.handle { status := 0 }) Reg.RST_STATUS Fld.RST_STATUS_STATE = _
    rw [hblocks.fld (by decide), fld_of_reg (reg_raise_ne _ _ (by decide)), setRst,
      fld_setFld _ _ _ _ (by decide) (by decide)]
    rfl
  · show fld (complete _ c.handle { status := 0 }) Reg.RST_INTSTAT Fld.RST_INTSTAT_FALLOW = _
    rw [hblocks.fld (by decide)]
    exact fld_raise _ _ 3 (by decide)

/-- In Fallow a WAKE runs until the clocks are back. -/
theorem wake_waits {c : HostCmd} (hs : Statements.Starts s ocWake c) (hst : rstState s = stFallow) :
    Runs .wake s fun t => findCmd t c.handle = some { c with state := 2 }
      ∧ t.rst = { s.rst with waking := true, wakes := s.rst.wakes ++ [c.handle] } ∧ t.regs = s.regs := by
  obtain ⟨hstart, hfind, -⟩ := hs
  have hact : wakeOf s c = mapRst (setRunning s c 0) fun r => { r with waking := true, wakes := r.wakes ++ [c.handle] } :=
    if_pos hst
  refine runs_hostCmd rfl ha hstart ?_
  rw [hact]
  refine ⟨findCmd_setRunning hfind 0, ?_, ?_⟩
  · rw [setRunning_form]
    rfl
  · rw [setRunning_form]
    rfl

/-- Out of Fallow a WAKE is done at once. -/
theorem wake_completes {c : HostCmd} (hs : Statements.Starts s ocWake c) (hst : rstState s ≠ stFallow) :
    Runs .wake s fun t => Statements.Completed t c 0 0 ∧ t.rst = s.rst ∧ MemSame s t := by
  obtain ⟨hstart, hfind, hgone⟩ := hs
  have hover := done_over (u := s) rfl hfind hgone
  have hact : wakeOf s c = done s c 0 := if_neg hst
  refine runs_hostCmd rfl ha hstart ?_
  rw [hact]
  exact ⟨hover.1, hover.2.rst, memSame_ended s hover.2.memSame⟩

/-- The clocks are back: the device is Idle, and what woke it is over. -/
theorem wakeDone_wakes (hst : rstState s = stFallow) (hwaking : s.rst.waking = true) : Runs .fallowWakeDone s fun t =>
    rstState t = stIdle ∧ t.rst = { s.rst with waking := false, wakes := [] }
      ∧ fld t Reg.RST_INTSTAT Fld.RST_INTSTAT_WAKE = 1 ∧ (∀ h ∈ s.rst.wakes, findCmd t h = none) ∧ MemSame s t := by
  have hact : wakeDone s = completeAll s.rst.wakes (awake s) := if_pos (by simp [hst, hwaking])
  have hcompletes := completeAll_completes s.rst.wakes (awake s)
  have hblocks := completeAll_blocks s.rst.wakes (awake s)
  have hover := findCmd_completeAll s.rst.wakes (awake s)
  have hstate : rstState (completeAll s.rst.wakes (awake s)) = stIdle := by
    rw [rstState, hblocks.fld (by decide), awake, fld_of_reg (reg_raise_ne _ _ (by decide))]
    exact fld_setFld s Reg.RST_STATUS _ _ (by decide) (by decide)
  have hwake : fld (completeAll s.rst.wakes (awake s)) Reg.RST_INTSTAT Fld.RST_INTSTAT_WAKE = 1 := by
    rw [hblocks.fld (by decide)]
    exact fld_raise _ _ 4 (by decide)
  exact runs_finish (congrArg (finish s) hact) ha
    ⟨hstate, hcompletes.rst, hwake, hover, memSame_ended s hcompletes.memSame⟩

/-- A RESET that names a part asks for its reset and runs until that is done. -/
theorem reset_asks {c : HostCmd} (hs : Statements.Starts s ocReset c) (hpart : c.num 8 4 ≠ 0)
    (hok : partArgOk (c.num 8 4) = true) : Runs .reset s fun t =>
      findCmd t c.handle = some { c with state := 2 } ∧ t.regs = s.regs
        ∧ t.rst = { s.rst with parts := s.rst.parts ++
            [{ kind := c.num 8 4 / 2 ^ 28, target := c.num 8 4 % 256, handle := some c.handle }] } := by
  obtain ⟨hstart, hfind, -⟩ := hs
  have hact : resetOf s c = mapRst (setRunning s c 0) fun r => { r with parts := r.parts ++
      [{ kind := c.num 8 4 / 2 ^ 28, target := c.num 8 4 % 256, handle := some c.handle }] } :=
    (if_neg hpart).trans (if_pos hok)
  refine runs_hostCmd rfl ha hstart ?_
  rw [hact]
  refine ⟨findCmd_setRunning hfind 0, ?_, ?_⟩
  · rw [setRunning_form]
    rfl
  · rw [setRunning_form]
    rfl

/-- A STORE is queued and runs until it is done. -/
theorem store_queues {c : HostCmd} (hs : Statements.Starts s ocStore c) : Runs .store s fun t =>
    findCmd t c.handle = some { c with state := 2 } ∧ t.regs = s.regs
      ∧ t.cellar = { s.cellar with stores := s.cellar.stores ++
          [{ kind := c.num 8 4, version := cellVersion s (c.num 8 4), body := c.body, handle := some c.handle }] } := by
  obtain ⟨hstart, hfind, -⟩ := hs
  refine runs_hostCmd rfl ha hstart ⟨findCmd_setRunning hfind 0, ?_, ?_⟩
  · show (setRunning s c 0).regs = s.regs
    rw [setRunning_form]
  · rw [storeOf, setRunning_form]
    rfl

/-- A store that completes leaves its record in the copy that was not valid. -/
theorem store_completes {r : StoreReq} {rest : List StoreReq} (h : s.cellar.stores = r :: rest) :
    Runs .storeComplete s fun t => cellRec t r.kind = (cellRec s r.kind).write r.version r.body
      ∧ (∀ k, k ≠ r.kind → cellRec t k = cellRec s k) ∧ (∃ more, t.cellar.stores = rest ++ more)
      ∧ (∀ h, r.handle = some h → findCmd t h = none) ∧ MemSame s t := by
  have hkept : CellarKept (storeWritten s r rest) (storeComplete s) := by
    rw [storeComplete_eq h]
    have hstored := stored_cellar (storeWritten s r rest) r
    split
    · exact hstored.trans (complete_cellar _ _ _)
    · exact hstored
  have hover (n : Nat) (hn : r.handle = some n) : findCmd (storeComplete s) n = none := by
    rw [storeComplete_eq h, hn]
    exact findCmd_complete _ n _
  have hrec (k : Nat) : cellRec (storeComplete s) k = cellRec (storeWritten s r rest) k := by
    rw [cellRec, hkept.recs, cellRec]
  refine runs_finish rfl ha ⟨?_, fun k hk => ?_, hkept.stores, hover, hkept.mem⟩
  · exact (hrec r.kind).trans ((cellRec_storeWritten s r rest _).trans (if_pos rfl))
  · exact (hrec k).trans ((cellRec_storeWritten s r rest k).trans (if_neg (Ne.symm hk)))

/-- The LIFE timer stores the life record. -/
theorem lifeTimer_stores (hstart : rstState s ≠ 0) (hdorm : rstState s ≠ stDormant) : Runs .lifeStoreTimer s fun t =>
    (∃ q, t.cellar = { s.cellar with stores := s.cellar.stores ++ [q] } ∧ q.kind = ckLife)
      ∧ t.rst = { s.rst with trips := 0 } ∧ t.regs = s.regs := by
  have hact : (if rstState s = 0 || rstState s = stDormant then s else storeLife s 0 24) = storeLife s 0 24 :=
    if_neg (by simp [hstart, hdorm])
  exact runs_finish (congrArg (finish s) hact) ha ⟨⟨_, rfl, rfl⟩, rfl, rfl⟩

end

theorem statements_deviceCommands : Statements.DeviceCommands := fun _ ha =>
  ⟨fun _ => fallow_completes ha, fun _ => wake_waits ha, fun _ => wake_completes ha, wakeDone_wakes ha,
    fun _ => reset_asks ha, fun _ => store_queues ha, fun _ _ => store_completes ha, lifeTimer_stores ha⟩

end Sys2Proof.Settled
end

section
/-! PROOF. Messages of the partition manager (R418, R543, R544). -/

namespace Sys2Proof.Machine

/-! ## What a link leaves of the fabric beside its ports -/

/-- From `s` to `t` nothing of the fabric changes but its ports. -/
def PortsOnly (s t : State) : Prop := t.fab = { s.fab with ports := t.fab.ports }

theorem PortsOnly.trans {s t u : State} (h : PortsOnly s t) (h' : PortsOnly t u) : PortsOnly s u := by
  unfold PortsOnly at *
  rw [h', h]

theorem countFec_portsOnly (s : State) (p : Nat) (t : Trailer) : PortsOnly s (countFec s p t) := by
  unfold PortsOnly
  rw [countFec_fab]

theorem takeTrailer_portsOnly (s : State) (p : Nat) (t : Trailer) : PortsOnly s (takeTrailer s p t) := by
  rw [takeTrailer_eq]
  rfl

theorem inOrder_portsOnly {s u : State} {p : Nat} {k k' : Packet} (h : inOrder s p k = (u, some k')) : PortsOnly s u := by
  unfold inOrder at h
  dsimp only at h
  split at h
  · cases h
  · split at h
    · cases h
    · split at h
      · cases h
      · split at h
        · cases h
        · cases h
          rfl

theorem arrive_portsOnly {s u : State} {p : Nat} {k k' : Packet} (h : arrive s p k = (u, some k')) : PortsOnly s u := by
  unfold arrive at h
  dsimp only at h
  split at h
  · cases h
  split at h
  · cases h
  split at h
  · cases h
  split at h
  · cases h
  split at h
  · cases h
  exact ((countFec_portsOnly s p k.trailer).trans (takeTrailer_portsOnly _ p k.trailer)).trans (inOrder_portsOnly h)

/-! ## MGMT messages (R543, R544) -/

/-- What is left to put together of the message of source d. -/
def mgmtKept (s : State) (d : Nat) (bs : List Byte) : State :=
  { s with fab := { s.fab with mgmt := kset (fun _ => []) s.fab.mgmt d bs } }

theorem mgmt_mgmtKept (s : State) (d : Nat) (bs : List Byte) :
    kget (fun _ => []) (mgmtKept s d bs).fab.mgmt d = bs := kget_kset_self _ _ _ _

theorem mgmtPacket_part {k : Packet} (h : k.last = false) (s : State) :
    mgmtPacket k s = mgmtKept s k.src (kget (fun _ => []) s.fab.mgmt k.src ++ k.payload) := by
  simp only [mgmtPacket, h, Bool.false_eq_true, if_false]
  rfl

theorem mgmtPacket_whole {k : Packet} (h : k.last = true) (s : State) :
    mgmtPacket k s = mgmtMessage (mgmtKept s k.src []) (kget (fun _ => []) s.fab.mgmt k.src ++ k.payload) := by
  simp only [mgmtPacket, h, if_true]
  rfl

/-- The checks of a message do not read the fabric's state. -/
theorem mgmtValid_fab (s : State) (f : FabSt) (body sig : List Byte) :
    mgmtValid { s with fab := f } body sig = mgmtValid s body sig := rfl

theorem scanHandle_fab (s : State) (f : FabSt) (n i : Nat) : scanHandle { s with fab := f } n i = scanHandle s n i := by
  induction n generalizing i with
  | zero => rfl
  | succ n ih =>
    rw [scanHandle, scanHandle, ih]
    rfl

theorem mgmtOpen_fab (s : State) (f : FabSt) (r : List Byte) : mgmtOpen { s with fab := f } r = mgmtOpen s r := by
  have hnext : nextHandle { s with fab := f } = nextHandle s := scanHandle_fab s f 4096 _
  unfold mgmtOpen judge606
  rw [hnext]
  rfl

/-- A packet that came in and left its message leaves the checks of that message as they were. -/
theorem mgmtValid_mgmtKept (s : State) (p d : Nat) (k : Packet) (bs body sig : List Byte) :
    mgmtValid (mgmtKept (creditBack s p k) d bs) body sig = mgmtValid s body sig := by
  rw [mgmtKept, creditBack, mapPort, setPort, mgmtValid_fab, mgmtValid_fab]

theorem mgmtOpen_mgmtKept (s : State) (p d : Nat) (k : Packet) (bs r : List Byte) :
    mgmtOpen (mgmtKept (creditBack s p k) d bs) r = mgmtOpen s r := by
  rw [mgmtKept, creditBack, mapPort, setPort, mgmtOpen_fab, mgmtOpen_fab]

/-- The command that an accepted message stands for. -/
def mgmtCmd (s : State) (body : List Byte) : HostCmd :=
  { handle := freshId s, record := mgmtRecord body, body := acceptBody s (mgmtRecord body), gone := true, mgmt := true }

/-- An accepted message is marked and remembered by its digest. -/
def mgmtMarked (s : State) (body : List Byte) : State :=
  mapRst (raise s Reg.RST_INTSTAT Fld.RST_INTSTAT_MGMT.bit) fun x => { x with digests := (shake256 body 32 :: x.digests).take 64 }

theorem mgmtMessage_accepted {s : State} {msg : List Byte} (hvalid : mgmtValid s (msg.take 64) (msg.drop 64) = true)
    (hopen : mgmtOpen s (mgmtRecord (msg.take 64)) = true) : mgmtMessage s msg =
      mapHost (noteSince (mgmtMarked s (msg.take 64)) (mgmtCmd (mgmtMarked s (msg.take 64)) (msg.take 64)).handle) fun h =>
        { h with cmds := h.cmds ++ [mgmtCmd (mgmtMarked s (msg.take 64)) (msg.take 64)] } := by
  unfold mgmtMessage
  simp only [hvalid, hopen, Bool.and_self, if_true]
  rfl

theorem mgmtMessage_refused {s : State} {msg : List Byte}
    (h : mgmtValid s (msg.take 64) (msg.drop 64) = false ∨ mgmtOpen s (mgmtRecord (msg.take 64)) = false) :
    mgmtMessage s msg = bump s Reg.RST_MGMTREF 1 := by
  unfold mgmtMessage
  rcases h with h | h
  · simp [h]
  · simp [h]

theorem digest_mgmtMarked (s : State) (body : List Byte) : shake256 body 32 ∈ (mgmtMarked s body).rst.digests := by
  show shake256 body 32 ∈ (shake256 body 32 :: s.rst.digests).take 64
  rw [List.take_succ_cons]
  exact List.mem_cons_self

theorem mgmtMarked_form (s : State) (body : List Byte) :
    mgmtMarked s body = { s with regs := (mgmtMarked s body).regs, rst := (mgmtMarked s body).rst } := rfl

theorem mgmtMarked_regs (s : State) (body : List Byte) : RegsBut s (mgmtMarked s body) [Reg.RST_INTSTAT] :=
  fun _ ha => reg_raise_ne s _ fun hab => ha (by simp [hab])

theorem mgmtMarked_bit (s : State) (body : List Byte) :
    fld (mgmtMarked s body) Reg.RST_INTSTAT Fld.RST_INTSTAT_MGMT = 1 := fld_raise s Reg.RST_INTSTAT 5 (by decide)

theorem noteSince_form (s : State) (h : Nat) : noteSince s h = { s with fwm := (noteSince s h).fwm } := by
  unfold noteSince
  split <;> rfl

end Sys2Proof.Machine

namespace Sys2Proof.Settled

open Sys2Proof.Machine

section
variable {s u : State} {p : Nat} {k k' : Packet} (h : Statements.Accepted s u p opMgmt k k')
include h

theorem mgmt_exec : exec (.mgmt p [] k) s = finish s (mgmtPacket k' (creditBack u p k')) :=
  congrArg (finish s) (recvNow_here h mgmtPacket)

theorem mgmt_linked : Linked p s (creditBack u p k') :=
  (arrive_linked h.1.2.2).2.trans (creditBack_linked u p k')

/-- A packet that is not the last of its message waits for the rest. -/
theorem mgmt_part (hlast : k'.last = false) : Runs (.mgmt p [] k) s fun t =>
    kget (fun _ => []) t.fab.mgmt k'.src = kget (fun _ => []) u.fab.mgmt k'.src ++ k'.payload
      ∧ (∀ d, d ≠ k'.src → kget (fun _ => []) t.fab.mgmt d = kget (fun _ => []) s.fab.mgmt d)
      ∧ t = { s with regs := u.regs, fab := t.fab, msix := t.msix, edge := t.edge } := by
  have hmgmt : u.fab.mgmt = s.fab.mgmt := by rw [arrive_portsOnly h.1.2.2]
  refine runs_finish ((mgmt_exec h).trans (congrArg (finish s) (mgmtPacket_part hlast _))) h.1.1
    ⟨mgmt_mgmtKept _ _ _, fun d hd => ?_, ?_⟩
  · rw [← hmgmt]
    exact kget_kset_ne _ _ _ (Ne.symm hd)
  · rw [(mgmt_linked h).form, creditBack_regs]
    rfl

/-- An accepted message waits as the matching host command would, without a handle. -/
theorem mgmt_accepted (hlast : k'.last = true) {msg : List Byte}
    (hmsg : msg = kget (fun _ => []) u.fab.mgmt k'.src ++ k'.payload) (hvalid : mgmtValid u (msg.take 64) (msg.drop 64) = true)
    (hopen : mgmtOpen u (mgmtRecord (msg.take 64)) = true) : Runs (.mgmt p [] k) s fun t =>
      (∃ c, t.host.cmds = s.host.cmds ++ [c] ∧ c.record = mgmtRecord (msg.take 64) ∧ c.mgmt = true ∧ c.gone = true
          ∧ c.state = 1)
        ∧ t.host.handles = s.host.handles ∧ fld t Reg.RST_INTSTAT Fld.RST_INTSTAT_MGMT = 1
        ∧ shake256 (msg.take 64) 32 ∈ t.rst.digests ∧ RegsBut u t [Reg.RST_INTSTAT]
        ∧ kget (fun _ => []) t.fab.mgmt k'.src = []
        ∧ t = { s with regs := t.regs, fab := t.fab, host := t.host, rst := t.rst, fwm := t.fwm, msix := t.msix
                       edge := t.edge } := by
  have hact := (mgmtPacket_whole hlast (creditBack u p k')).trans ((congrArg _ hmsg.symm).trans
    (mgmtMessage_accepted ((mgmtValid_mgmtKept u p k'.src k' [] _ _).trans hvalid)
      ((mgmtOpen_mgmtKept u p k'.src k' [] _).trans hopen)))
  have hdigest := digest_mgmtMarked (mgmtKept (creditBack u p k') k'.src []) (msg.take 64)
  have hregs : RegsBut u (mgmtMarked (mgmtKept (creditBack u p k') k'.src []) (msg.take 64)) [Reg.RST_INTSTAT] :=
    mgmtMarked_regs (mgmtKept (creditBack u p k') k'.src []) (msg.take 64)
  have hbit := mgmtMarked_bit (mgmtKept (creditBack u p k') k'.src []) (msg.take 64)
  have hform := mgmtMarked_form (mgmtKept (creditBack u p k') k'.src []) (msg.take 64)
  have hmgmt := mgmt_mgmtKept (creditBack u p k') k'.src []
  have hkept : mgmtKept (creditBack u p k') k'.src [] = { s with
      regs := (mgmtKept (creditBack u p k') k'.src []).regs, fab := (mgmtKept (creditBack u p k') k'.src []).fab } := by
    rw [mgmtKept, (mgmt_linked h).form]
  rw [noteSince_form] at hact
  generalize mgmtMarked (mgmtKept (creditBack u p k') k'.src []) (msg.take 64) = m at hact hdigest hregs hbit hform
  generalize mgmtKept (creditBack u p k') k'.src [] = w at hform hmgmt hkept
  rw [hkept] at hform
  have hhost : m.host = s.host := by rw [hform]
  have hfab : m.fab = w.fab := by rw [hform]
  refine runs_finish ((mgmt_exec h).trans (congrArg (finish s) hact)) h.1.1
    ⟨⟨mgmtCmd m (msg.take 64), ?_, rfl, rfl, rfl, rfl⟩, ?_, hbit, hdigest, hregs, ?_, ?_⟩
  · show m.host.cmds ++ [_] = _
    rw [hhost]
  · show m.host.handles = _
    rw [hhost]
  · show kget _ m.fab.mgmt k'.src = []
    rw [hfab, hmgmt]
  · rw [hform]
    rfl

/-- Any other message is counted and does nothing. -/
theorem mgmt_refused (hlast : k'.last = true) {msg : List Byte}
    (hmsg : msg = kget (fun _ => []) u.fab.mgmt k'.src ++ k'.payload)
    (hno : mgmtValid u (msg.take 64) (msg.drop 64) = false ∨ mgmtOpen u (mgmtRecord (msg.take 64)) = false) :
    Runs (.mgmt p [] k) s fun t => RegsBut u t [Reg.RST_MGMTREF]
      ∧ regN t Reg.RST_MGMTREF = min (regN s Reg.RST_MGMTREF + 1) 0xFFFFFFFF
      ∧ kget (fun _ => []) t.fab.mgmt k'.src = []
      ∧ t = { s with regs := t.regs, fab := t.fab, msix := t.msix, edge := t.edge } := by
  have hact : mgmtPacket k' (creditBack u p k') = bump (mgmtKept (creditBack u p k') k'.src []) Reg.RST_MGMTREF 1 := by
    rw [mgmtPacket_whole hlast]
    refine (congrArg _ hmsg.symm).trans (mgmtMessage_refused ?_)
    rw [mgmtValid_mgmtKept, mgmtOpen_mgmtKept]
    exact hno
  have hp := (arrive_linked h.1.2.2).1
  have hne : Reg.RST_MGMTREF ≠ Reg.FAB_FECCORR p := by simp only [Reg.RST_MGMTREF, Reg.FAB_FECCORR]; omega
  refine runs_finish ((mgmt_exec h).trans (congrArg (finish s) hact)) h.1.1
    ⟨fun a ha => ?_, ?_, mgmt_mgmtKept (creditBack u p k') k'.src [], ?_⟩
  · exact reg_bump_ne _ 1 fun hab => ha (by simp [hab])
  · rw [ended_regN, regN_bump]
    rw [← regN_of_reg ((mgmt_linked h).reg_eq hne)]
    rfl
  · show ended s (bump (mgmtKept (creditBack u p k') k'.src []) Reg.RST_MGMTREF 1) = _
    rw [(mgmt_linked h).form]
    rfl

end

/-- Packets that come together do what they do one after another. -/
theorem mgmt_oneByOne {s : State} {p : Nat} {x k : Packet} {more : List Packet} (ha : alive s = true)
    (hu : alive (recvNow s p opMgmt x mgmtPacket) = true) : Runs (.mgmt p (x :: more) k) s fun t =>
      Runs (.mgmt p more k) (recvNow s p opMgmt x mgmtPacket) fun w =>
        t = { w with pending := t.pending, msix := t.msix, edge := t.edge } :=
  runs_finish rfl ha (runs_finish rfl hu rfl)

theorem statements_mgmtMessage : Statements.MgmtMessage := by
  refine ⟨fun s u p k k' h => ?_, fun s p x k more ha => ?_⟩
  · exact ⟨mgmt_part h, fun hlast => mgmt_accepted h hlast rfl, fun hlast => mgmt_refused h hlast rfl⟩
  · exact mgmt_oneByOne ha

/-- Settles O57: each of the device's own commands by what it does at once and by what ends it, and a manager's message by
its packets and its checks. -/
theorem commandsAndManager : Obligations.CommandsAndManager := ⟨statements_deviceCommands, statements_mgmtMessage⟩

end Sys2Proof.Settled
end

section
/-! PROOF. The queue and the vectors (R597, R598, R607, R620, R621): how any command ends, and what that end sends. -/

namespace Sys2Proof.Machine

/-! ## How any command ends -/

/-- A command ends in a next state that keeps the queue and sends the vectors of its effect, or stops the machine. -/
def Ends (s : State) (o : Host.Outcome State Fault Refusal) : Prop :=
  (∃ u, o = finishEdge s u) ∨ o = .fault .unmappedItem

theorem ends_finish (s u : State) : Ends s (finish s u) := .inl ⟨_, rfl⟩

theorem ends_control (s : State) (n kind : Nat) (act : State → Nat → Item → State) : Ends s (control s n kind act) :=
  (control_cases s n kind act).imp (fun ⟨_, h⟩ => ⟨_, h⟩) id

theorem ends_issue (s : State) (n kind t : Nat) (pick : List Byte → Bool)
    (run : State → Nat → Nat → List Byte → State) : Ends s (issue s n kind t pick run) :=
  (issue_cases s n kind t pick run).imp (fun ⟨_, h⟩ => ⟨_, h⟩) id

theorem ends_sicklePass (s : State) (op n t : Nat) (run : State → Nat → Nat → List Byte → State) :
    Ends s (sicklePass op run n t s) := by
  unfold sicklePass
  split
  · exact ends_finish s _
  · exact ends_issue s ..

theorem exec_ends (c : Instr) (s : State) : Ends s (exec c s) := by
  cases c
  case endItem | branch | setslot | addslot | semwait | signal | barrier | counterAdd | counterRead | setstep =>
    exact ends_control s ..
  case mma | l1 | l2sq | maxplus | minplus | cmpcnt | hamming | switchPass | chain | copyCart | atomicCart | reduceCart |
      objectCart =>
    exact ends_issue s ..
  case dotPass | stagePass => exact ends_sicklePass s ..
  all_goals exact .inl ⟨_, rfl⟩

/-- The next state that a command answers keeps the queue, and its MSI-X follows its effect. -/
theorem exec_next {c : Instr} {s t : State} (h : exec c s = .next t) :
    ∃ u : State, t = { u with pending := s.pending, msix := msixAfter s u } := by
  obtain ⟨u, hu⟩ | hf := exec_ends c s
  · exact ⟨u, Host.Outcome.next.inj (h.symm.trans hu)⟩
  · exact absurd (h.symm.trans hf) nofun

/-- What a command adds to the vectors sent are vectors of R620 that the function may send before or after it. -/
theorem exec_sent {c : Instr} {s t : State} (h : exec c s = .next t) :
    ∃ new, t.msix.sent = new ++ s.msix.sent ∧ ∀ v ∈ new, v < 14
      ∧ ((s.host.bme = true ∧ s.host.d3hot = false) ∨ (t.host.bme = true ∧ t.host.d3hot = false)) := by
  have hopen (x : State) (v : Nat) (ho : msixOpen x v = true) : x.host.bme = true ∧ x.host.d3hot = false := by
    simp only [msixOpen, Bool.and_eq_true, Bool.not_eq_true'] at ho
    exact ⟨ho.1.2, ho.2⟩
  obtain ⟨u, rfl⟩ := exec_next h
  obtain ⟨new, hsent, hnew⟩ := msixAfter_sent s u
  exact ⟨new, hsent, fun v hv => ⟨(hnew v hv).1, (hnew v hv).2.imp (hopen s v) (hopen u v)⟩⟩

/-- A step of a queue that is not empty runs its front command. -/
theorem step_front {s : State} {c : Instr} {rest : List Instr} (h : s.pending = c :: rest) :
    step s = exec c { s with pending := rest } := by simp [step, h]

theorem step_idle {s : State} (h : s.pending = []) : step s = .next s := by simp [step, h]

end Sys2Proof.Machine

namespace Sys2Proof.Settled

open Sys2Proof.Machine

/-- Settles O1: a step takes the front command off the queue and runs it. -/
theorem stepRunsFront : Obligations.StepRunsFront := fun _ _ _ => step_front rfl

/-- Settles O2: after reset nothing has been sent, written, queued or begun. -/
theorem resetInvariant : Obligations.ResetInvariant := by
  refine ⟨?_, rfl, rfl, rfl, rfl, rfl, rfl, rfl⟩
  intro v hv
  exact absurd hv List.not_mem_nil

theorem statements_idleStep : Statements.IdleStep := fun _ => step_idle

theorem statements_stepKeepsQueue : Statements.StepKeepsQueue := by
  intro s t h
  cases hq : s.pending with
  | nil =>
    rw [step_idle hq] at h
    rw [← Host.Outcome.next.inj h, hq]
    rfl
  | cons c rest =>
    rw [step_front hq] at h
    obtain ⟨u, rfl⟩ := exec_next h
    rfl

/-- Settles O4: an idle step changes nothing, and any other leaves the rest of the queue as it was. -/
theorem queueAndIdle : Obligations.QueueAndIdle := ⟨statements_idleStep, statements_stepKeepsQueue⟩

/-- Settles O3: what a step sends, the end of its command sends, and that sends vectors of R620 alone. -/
theorem stepKeepsVectors : Obligations.StepKeepsVectors := by
  intro s t hok h
  cases hq : s.pending with
  | nil =>
    rw [step_idle hq] at h
    rw [← Host.Outcome.next.inj h]
    exact ⟨hok, List.suffix_refl _⟩
  | cons c rest =>
    rw [step_front hq] at h
    obtain ⟨new, hsent, hnew⟩ := exec_sent h
    refine ⟨fun v hv => ?_, new, hsent.symm⟩
    rw [hsent] at hv
    obtain hv | hv := List.mem_append.1 hv
    · exact (hnew v hv).1
    · exact hok v hv

/-- Settles O5: a new vector would be one that the function may send before or after the command. -/
theorem noVectorWithoutMastering : Obligations.NoVectorWithoutMastering := by
  intro c s t h hs ht
  obtain ⟨new, hsent, hnew⟩ := exec_sent h
  cases new with
  | nil => exact hsent
  | cons v _ =>
    obtain ⟨-, ⟨hb, hd⟩ | ⟨hb, hd⟩⟩ := hnew v List.mem_cons_self
    · simp [hb, hd] at hs
    · simp [hb, hd] at ht

end Sys2Proof.Settled
end

section
/-! PROOF. Blocks without clock (R603), what an ACCEPT reads (R605, R606, R613), and the host port's log, reset and power
states (R597, R615, R624, R626). -/

namespace Sys2Proof.Machine

/-! ## Blocks without clock (R603) -/

theorem deadReg_form (s : State) : deadReg s = { s with regs := (deadReg s).regs } := rfl

theorem deadReg_regs (s : State) : RegsBut s (deadReg s) [Reg.HST_INTSTAT] :=
  fun _ ha => reg_raise_ne _ _ fun h => ha (by simp [h])

theorem fld_deadReg (s : State) : fld (deadReg s) Reg.HST_INTSTAT Fld.HST_INTSTAT_DEADREG = 1 :=
  fld_raise s _ 1 (by decide)

section
variable {s : State} {a : Nat} (hp : inPage a = false) (h4 : a % 4 = 0) (hr : (regRow a).isSome = true)
  (hd : deadBlock s a = true)
include hp h4 hr hd

theorem ctlRead_dead : ctlRead s a 4 = (deadReg s, 0) := by
  obtain ⟨r, hr⟩ := Option.isSome_iff_exists.1 hr
  simp [ctlRead, hp, regSizeOk, h4, hr, hd]

theorem ctlWrite_dead (v : Nat) : ctlWrite s a 4 v = deadReg s := by
  obtain ⟨r, hr⟩ := Option.isSome_iff_exists.1 hr
  rw [ctlWrite_word hp h4]
  simp [writeReg, hr, hd]

end

theorem deadBlock_dormant {s : State} (h : rstState s = stDormant) {n o : Nat} (ho : o < 2 ^ 24) :
    deadBlock s (n * 2 ^ 24 + o) = !dormantBlocks.contains n := by
  have hn : (n * 2 ^ 24 + o) / 2 ^ 24 = n := by omega
  rw [deadBlock, hn, if_pos h]

theorem deadBlock_fallow {s : State} (h : rstState s = stFallow) {n o : Nat} (ho : o < 2 ^ 24) :
    deadBlock s (n * 2 ^ 24 + o) = (decide (2 ≤ n) && decide (n ≤ 8)) := by
  have hn : (n * 2 ^ 24 + o) / 2 ^ 24 = n := by omega
  rw [deadBlock, hn, h, if_neg (by decide)]
  simp

/-! ## ACCEPT (R605, R606, R613) -/

/-- The handle that the next commit at entry `i` gives (R613). -/
def freshHandle (s : State) (i : Nat) : Nat := 4096 * ((kfind s.host.gens i).getD 0 % 0xFFFFF + 1) + i

/-- A record waits under handle `h` of entry `i`, whose generation is `g`. -/
def accepted606 (s : State) (r : List Byte) (i g h : Nat) : State := mapHost s fun x => { x with
  gens := aput x.gens i g, lastIdx := i
  handles := aput x.handles i (handleEntry h 1 0 0 (2 ^ 64 - 1))
  cmds := x.cmds ++ [{ handle := h, record := r, body := acceptBody s r }] }

theorem commit606_eq (s : State) (r : List Byte) (i : Nat) : commit606 s r i =
    (syncInflight (bump (noteSince (accepted606 s r i ((kfind s.host.gens i).getD 0 % 0xFFFFF + 1) (freshHandle s i))
      (freshHandle s i)) Reg.HST_COMMANDS 1), freshHandle s i) := rfl

/-- A commit adds the record behind those that wait, and answers its handle. -/
theorem commit606_host (s : State) (r : List Byte) (i : Nat) : (commit606 s r i).2 = freshHandle s i
    ∧ (commit606 s r i).1.host.cmds = s.host.cmds ++ [{ handle := freshHandle s i, record := r, body := acceptBody s r }]
    ∧ (commit606 s r i).1.host.stages = s.host.stages
    ∧ kfind (commit606 s r i).1.host.handles i = some (handleEntry (freshHandle s i) 1 0 0 (2 ^ 64 - 1))
    ∧ MemSame s (commit606 s r i).1 := by
  rw [commit606_eq, noteSince_form]
  generalize freshHandle s i = h
  exact ⟨rfl, rfl, rfl, (kfind_kins _ _ _ _).trans (if_pos rfl), rfl, rfl⟩

/-- The stage of an ACCEPT is emptied. -/
def unstaged (s : State) (st : Nat) : State := mapHost s fun x => { x with stages := adel x.stages st }

/-- The record that a stage holds. -/
def staged (s : State) (st : Nat) : List Byte := bytesAt ((kfind s.host.stages st).getD []) 0 64

theorem acceptRead_commits {s : State} {st i : Nat} (hr : hostReach s = true) (hst : st < 64)
    (hj : judge606 s (staged s st) = 0) (hi : nextHandle s = some i) : acceptRead s st 8 =
      { (commit606 (unstaged s st) (staged s st) i).1 with
        rdata := BitVec.ofNat 64 (2 ^ 32 * (commit606 (unstaged s st) (staged s st) i).2) } := by
  have hsize : (decide (64 ≤ st) || decide (8 ≠ 8)) = false := by simp [hst]
  unfold acceptRead
  rw [hr, hsize]
  simp only [Bool.not_true, Bool.false_eq_true, if_false]
  rw [show judge606 s (bytesAt ((kfind s.host.stages st).getD []) 0 64) = 0 from hj, hi]
  rfl

theorem acceptRead_refuses {s : State} {st : Nat} (hr : hostReach s = true) (hst : st < 64)
    (hj : judge606 s (staged s st) ≠ 0) : acceptRead s st 8 =
      { bump (unstaged s st) Reg.HST_REFUSALS 1 with rdata := BitVec.ofNat 64 (judge606 s (staged s st)) } := by
  have hsize : (decide (64 ≤ st) || decide (8 ≠ 8)) = false := by simp [hst]
  unfold acceptRead
  rw [hr, hsize]
  simp only [Bool.not_true, Bool.false_eq_true, if_false]
  split
  · next h _ => exact absurd h hj
  · rfl

/-! ## Host-port resets (R624) -/

theorem kget_filter {α : Type} (d : Nat → α) (p : Nat → Bool) (m : KMap α) (k : Nat) :
    kget d (m.filter fun x => p x.1) k = if p k then kget d m k else d k := by
  induction m with
  | nil => simp [kget]
  | cons x t ih =>
    obtain ⟨a, v⟩ := x
    by_cases ha : a = k
    · subst ha
      by_cases hp : p a = true
      · simp [hp, kget]
      · simpa [hp] using ih
    · by_cases hp : p a = true
      · simp [hp, kget, ha, ih]
      · simp [hp, kget, ha, ih]

/-- Registers that a filter takes out read their reset values again. -/
theorem reg_of_filter {s t : State} (p : Nat → Bool) (h : t.regs = s.regs.filter fun x => p x.1) (a : Nat) :
    reg t a = if p a then reg s a else regReset a := by
  rw [reg, h, kget_filter, reg]

theorem hostPortReset_form (s : State) : hostPortReset s = { s with
    regs := (hostPortReset s).regs, latch := (hostPortReset s).latch
    host := { s.host with stages := [], handles := [], cmds := s.host.cmds.map fun c => { c with gone := true } } } := rfl

theorem hostPortReset_reg (s : State) {a : Nat} (ha : a ≠ Reg.HST_INFLIGHT) :
    reg (hostPortReset s) a = if hostRegs a then regReset a else reg s a := by
  have hset := reg_setRegN_ne (mapHost { s with regs := s.regs.filter fun (a, _) => !hostRegs a
                                                latch := s.latch.filter fun (a, _) => !hostRegs a } fun x => { x with
      stages := [], handles := [], cmds := x.cmds.map fun c => { c with gone := true } })
    ((s.host.cmds.map fun c => { c with gone := true }).countP fun c => !c.gone) (Ne.symm ha)
  refine hset.trans ((reg_of_filter (s := s) (fun a => !hostRegs a) rfl a).trans ?_)
  cases hostRegs a <;> rfl

theorem hostPortReset_inflight (s : State) : regN (hostPortReset s) Reg.HST_INFLIGHT = 0 := by
  have hnone : (s.host.cmds.map fun c => { c with gone := true }).countP (fun c => !c.gone) = 0 := by
    rw [List.countP_eq_zero]
    intro c hc
    obtain ⟨x, -, rfl⟩ := List.mem_map.1 hc
    simp
  refine (regN_setRegN _ _ _ _).trans ?_
  rw [if_pos rfl]
  show (s.host.cmds.map fun c => { c with gone := true }).countP (fun c => !c.gone) % 2 ^ 32 = 0
  rw [hnone, Nat.zero_mod]

theorem hostPortReset_gone (s : State) : ∀ c ∈ (hostPortReset s).host.cmds, c.gone = true := by
  intro c hc
  obtain ⟨x, -, rfl⟩ := List.mem_map.1 hc
  rfl

/-! ## The log starts (R615, R626) -/

theorem startLog_regs (s : State) :
    RegsBut s (startLog s) [Reg.HST_CTRL, Reg.HST_LOGSEQ_LO, Reg.HST_LOGSEQ_LO + 4] := by
  intro a ha
  simp only [List.mem_cons, List.not_mem_nil, or_false, not_or] at ha
  obtain ⟨hctrl, hlo, hhi⟩ := ha
  exact (reg_setReg64_ne _ _ (Ne.symm hlo) (Ne.symm hhi)).trans (reg_setFld_ne s _ _ (Ne.symm hctrl))

theorem startLog_seq (s : State) : reg64 (startLog s) Reg.HST_LOGSEQ_LO = 0 := by
  rw [startLog, reg64_setReg64, Nat.zero_mod]

theorem startLog_logen (s : State) : fld (startLog s) Reg.HST_CTRL Fld.HST_CTRL_LOGEN = 1 :=
  (fld_of_reg (reg_setReg64_ne _ _ (by decide) (by decide)) _).trans (fld_setFld _ _ _ _ (by decide) (by decide))

end Sys2Proof.Machine

namespace Sys2Proof.Settled

open Sys2Proof.Machine

/-- Settles O19: the access of a dead block once as a read and once as a write, then the blocks one by one. -/
theorem deadBlocks : Obligations.DeadBlocks := by
  refine ⟨fun s off a d ha hr ho hp h4 hrow hd => ⟨?_, ?_⟩, fun s n o ho hs => ?_, fun s n o ho hs => ?_⟩
  · have hread := hostReadAt_ctl hr ho 4
    rw [ctlRead_dead hp h4 hrow hd] at hread
    exact runs_loReadLatch ha hread ⟨rfl, fld_deadReg s, deadReg_regs s⟩
  · have hwrite := hostWriteAt_ctl hr ho 4 d.toNat
    rw [ctlWrite_dead hp h4 hrow hd] at hwrite
    exact runs_registerWrite ha hwrite ⟨onlyRegs_ended (deadReg_form s) (deadReg_regs s), fld_deadReg s⟩
  · rw [deadBlock_dormant hs ho, Bool.not_eq_false']
    simp [dormantBlocks]
  · rw [deadBlock_fallow hs ho]
    simp

/-- Settles O21: an ACCEPT that no condition of R606 holds up commits the staged record, any other is refused. -/
theorem accept : Obligations.Accept := by
  intro s st ha hr hst
  have hempty : kfind (unstaged s st).host.stages st = none := (kfind_kdel _ _ _).trans (if_pos rfl)
  refine ⟨fun i hj hi => ?_, fun hj => ?_⟩
  · obtain ⟨hh, hcmds, hstages, hhandles, hmem⟩ := commit606_host (unstaged s st) (staged s st) i
    refine runs_finish (congrArg (finish s) (acceptRead_commits hr hst hj hi)) ha
      ⟨_, hcmds, rfl, rfl, ?_, ?_, ?_, hhandles, hmem⟩
    · exact Nat.mul_add_mod _ _ _
    · rw [hh]
      rfl
    · exact (congrArg (kfind · st) hstages).trans hempty
  · refine runs_finish (congrArg (finish s) (acceptRead_refuses hr hst hj)) ha
      ⟨rfl, rfl, hempty, ⟨rfl, fun a hne => ?_⟩, regN_bump _ _ _⟩
    exact reg_bump_ne (unstaged s st) 1 fun h => hne (by simp [h])

section
variable {s : State} (ha : alive s = true)
include ha

theorem log_starts (hr : hostReach s = true) : Runs .logEnable s fun t =>
    fld t Reg.HST_CTRL Fld.HST_CTRL_LOGEN = 1 ∧ reg64 t Reg.HST_LOGSEQ_LO = 0
      ∧ OnlyRegs s t [Reg.HST_CTRL, Reg.HST_LOGSEQ_LO, Reg.HST_LOGSEQ_LO + 4] :=
  runs_finish (congrArg (finish s) (if_pos hr)) ha
    ⟨startLog_logen s, startLog_seq s, onlyRegs_ended rfl (startLog_regs s)⟩

theorem function_resets (hc : s.host.config = true) : Runs .functionLevelReset s fun t =>
    t.host.stages = [] ∧ t.host.handles = [] ∧ (∀ c ∈ t.host.cmds, c.gone = true)
      ∧ t.host.cmds.length = s.host.cmds.length ∧ t.host.gens = s.host.gens ∧ MemSame s t
      ∧ (∀ a, hostRegs a = true → a ≠ Reg.HST_INFLIGHT → reg t a = regReset a)
      ∧ regN t Reg.HST_INFLIGHT = 0 ∧ (∀ a, hostRegs a = false → a ≠ Reg.HST_INFLIGHT → reg t a = reg s a) := by
  refine runs_finish (congrArg (finish s) (if_pos hc)) ha ⟨rfl, rfl, hostPortReset_gone s, ?_, rfl, ⟨rfl, rfl⟩,
    fun a hh hne => ?_, hostPortReset_inflight s, fun a hh hne => ?_⟩
  · exact List.length_map _
  · exact (hostPortReset_reg s hne).trans (if_pos hh)
  · exact (hostPortReset_reg s hne).trans (if_neg (by simp [hh]))

end

/-- Settles O26: the log's start, the host-port reset, and the two power states. -/
theorem hostPortPower : Obligations.HostPortPower := fun s ha =>
  ⟨log_starts ha, function_resets ha, fun hc => runs_finish (congrArg (finish s) (if_pos hc)) ha rfl,
    fun hc => runs_finish (congrArg (finish s) (if_pos hc)) ha rfl⟩

end Sys2Proof.Settled
end

section
/-! PROOF. Host commands that begin a transfer (R592, R598, R607, R610 to R612), and OBJECT and SUBST (R151, R281, R611). -/

namespace Sys2Proof.Machine

/-! ## Commands that run (R614) -/

/-- A command under a handle that becomes RUNNING shows it in its status entry. -/
theorem setRunning_entry (s : State) {c : HostCmd} (hgone : c.gone = false) :
    kfind (setRunning s c 0).host.handles (c.handle % 4096) = some (handleEntry c.handle 2 0 0 (2 ^ 64 - 1)) := by
  unfold setRunning
  dsimp only
  rw [hgone, if_neg (by decide)]
  exact (kfind_kins _ _ _ _).trans (if_pos rfl)

theorem setRunning_mem (s : State) (c : HostCmd) (st : Nat) : (setRunning s c st).host.mem = s.host.mem := by
  unfold setRunning
  dsimp only
  split <;> rfl

/-- The command of an opcode that may start acts. -/
theorem hostCmd_starts {s : State} {op : Nat} {c : HostCmd} {act : State → HostCmd → State}
    (h : startable s op = some c) : hostCmd op act s = act s c := by simp [hostCmd, h]

/-! ## Transfers (R598, R610 to R612) -/

/-- What a command of an opcode with a transfer does first. -/
def beginsTransfer (op : Nat) : State → HostCmd → State :=
  if op = ocFill then fun s c => setRunning s c 0 else if op = ocIdentity then identityOf else beginDma

theorem beginsTransfer_runs {s : State} {c : HostCmd} {op : Nat} (hbme : op = ocFill ∨ s.host.bme = true)
    (hlong : op = ocIdentity → 9977 ≤ c.num 48 4) : beginsTransfer op s c = setRunning s c 0 := by
  unfold beginsTransfer
  split
  · rfl
  · next hfill =>
    have hb := hbme.resolve_left hfill
    split
    · next hid => simp [identityOf, hb, hlong hid]
    · simp [beginDma, hb]

theorem beginsTransfer_short {s : State} {c : HostCmd} (hbme : s.host.bme = true) (h : c.num 48 4 < 9977) :
    beginsTransfer ocIdentity s c = done s c 16 := by
  have hop : beginsTransfer ocIdentity = identityOf := (if_neg (by decide)).trans (if_pos rfl)
  simp [hop, identityOf, hbme, h]

theorem beginsTransfer_noMaster {s : State} {c : HostCmd} {op : Nat} (hfill : op ≠ ocFill) (hbme : s.host.bme = false) :
    beginsTransfer op s c = done s c 15 := by
  unfold beginsTransfer
  rw [if_neg hfill]
  split
  · simp [identityOf, hbme]
  · simp [beginDma, hbme]

/-! ## A signing index at hand (R589) -/

theorem reserveBlock_asked (s : State) : ∃ r ∈ (reserveBlock s).cellar.stores, r.kind = ckSignres := by
  unfold reserveBlock
  split
  · next h => simpa using h
  · exact ⟨_, List.mem_append_right _ List.mem_cons_self, rfl⟩

theorem reserveBlock_form (s : State) : reserveBlock s = { s with cellar := (reserveBlock s).cellar } := by
  unfold reserveBlock
  split <;> rfl

theorem attestOf_runs {s : State} {c : HostCmd} (hbme : s.host.bme = true) (hlong : attestBytes s ≤ c.num 48 4) :
    attestOf s c = if sigNext s < sigRes s then setRunning s c 0 else reserveBlock (setRunning s c 0) := by
  have hidx : (sigNext (setRunning s c 0) < sigRes (setRunning s c 0)) = (sigNext s < sigRes s) := by
    rw [setRunning_form]
    rfl
  unfold attestOf
  rw [hbme, if_neg (by decide), if_neg (by omega)]
  simp only [hidx]

theorem attestOf_short {s : State} {c : HostCmd} (hbme : s.host.bme = true) (h : c.num 48 4 < attestBytes s) :
    attestOf s c = done s c 16 := by simp [attestOf, hbme, h]

theorem attestOf_noMaster {s : State} {c : HostCmd} (hbme : s.host.bme = false) : attestOf s c = done s c 15 := by
  simp [attestOf, hbme]

/-! ## OBJECT (R281, R611) -/

/-- An operation that the host asks for joins its object's queue. -/
def objectAsked (s : State) (c : HostCmd) (offer : List Byte) : State :=
  setObjSt s (c.num 10 2) { objSt s (c.num 10 2) with
    queue := (objSt s (c.num 10 2)).queue ++ [{ op := c.num 8 1, offer := offer, handle := some c.handle }] }

theorem objectOf_plain {s : State} {c : HostCmd} (h : c.num 8 1 ≠ 0) :
    objectOf s c = objectAsked (setRunning s c 0) c [] := if_neg h

theorem objectOf_register {s v : State} {c : HostCmd} {bs : List Byte} (h : c.num 8 1 = 0)
    (hload : load (setRunning s c 0) (c.num 16 8) 64 = (v, .ok bs)) : objectOf s c = objectAsked v c bs := by
  unfold objectOf
  dsimp only
  rw [if_pos h, hload]
  rfl

theorem endRound_objSt (s : State) (l : Nat) : (endRound s l).loft.objSt = s.loft.objSt := by
  unfold endRound
  split
  · rfl
  · split <;> rfl

theorem useLine_objSt (s : State) (l : Nat) : (useLine s l).loft.objSt = s.loft.objSt := by
  have hrake : (dropRake s l).loft.objSt = s.loft.objSt := by
    unfold dropRake
    dsimp only
    split <;> rfl
  unfold useLine
  dsimp only
  split
  · exact hrake
  · exact hrake

theorem accessLine_objSt (s : State) (l : Nat) : (accessLine s l).loft.objSt = s.loft.objSt := by
  unfold accessLine
  split
  · rfl
  · split
    · exact useLine_objSt s l
    · split
      · exact (useLine_objSt _ l).trans (endRound_objSt s l)
      · rfl

/-- An access of memory touches no object's queue. -/
theorem accessMem_objSt (s : State) (a n : Nat) (j : Nat) : objSt (accessMem s a n) j = objSt s j := by
  have h : (accessMem s a n).loft.objSt = s.loft.objSt :=
    List.foldlRecOn (motive := fun t : State => t.loft.objSt = s.loft.objSt) _ _ rfl fun t h l _ =>
      (accessLine_objSt t l).trans h
  rw [objSt, h, objSt]

/-- A read where nothing waits and no code is in error uses lines, and answers the bytes of memory. -/
theorem load_calm {s : State} (hr : s.loft.rounds = []) (hb : s.loft.banks = []) (h : Sound s) (a n : Nat) :
    load s a n = (accessMem s a n, .ok (peek s a n)) := by
  have honly := accessMem_loftOnly hr hb h.1 a n
  have hpeek : peek (accessMem s a n) a n = peek s a n := by
    rw [honly]
    rfl
  rw [load, loadRaw_sound _ (honly.sound h), hpeek]

/-! ## SUBST (R151, R611) -/

theorem orderSubst_form (s : State) (n : Nat) (b : Bool) :
    orderSubst s n b = { s with integ := { s.integ with substDue := (orderSubst s n b).integ.substDue } } := by
  unfold orderSubst
  split <;> rfl

/-- A substitution that is ordered is due, or its copy is under way. -/
theorem orderSubst_ordered (s : State) (n : Nat) (b : Bool) :
    (∃ x ∈ (orderSubst s n b).integ.substDue, x.1 = n) ∨ ∃ x ∈ s.integ.copies, x.1 = n := by
  unfold orderSubst
  split
  · next h => simpa using h
  · exact .inl ⟨(n, b), List.mem_append_right _ List.mem_cons_self, rfl⟩

theorem orderSubst_fresh {s : State} {n : Nat} (b : Bool) (hdue : ∀ x ∈ s.integ.substDue, x.1 ≠ n)
    (hcopy : ∀ x ∈ s.integ.copies, x.1 ≠ n) :
    (orderSubst s n b).integ.substDue = s.integ.substDue ++ [(n, b)] := by
  have hnone : (s.integ.substDue.any (fun x => x.1 = n) || s.integ.copies.any (fun x => x.1 = n)) = false := by
    rw [Bool.or_eq_false_iff, List.any_eq_false, List.any_eq_false]
    exact ⟨fun x hx => by simpa using hdue x hx, fun x hx => by simpa using hcopy x hx⟩
  unfold orderSubst
  rw [hnone]
  rfl

/-- A planned substitution that the host asks for. -/
def substAsked (s : State) (n h : Nat) : State :=
  { orderSubst s n false with integ := { (orderSubst s n false).integ with substCmds := s.integ.substCmds ++ [(n, h)] } }

theorem substOf_presented {s : State} {c : HostCmd} (h : phys s (c.num 8 1) < 68) :
    substOf s c = substAsked (setRunning s c 0) (c.num 8 1) c.handle := by
  unfold substOf
  dsimp only
  rw [if_neg (by omega)]
  unfold substAsked
  rw [orderSubst_form]

end Sys2Proof.Machine

namespace Sys2Proof.Settled

open Sys2Proof.Machine

section
variable {s : State} {c : HostCmd} {i : Instr} {op : Nat} {act : State → HostCmd → State} (ha : alive s = true)
  (hs : Statements.Starts s op c) (hi : exec i s = finish s (hostCmd op act s))
include ha hs hi

theorem transfer_runs (hact : act s c = setRunning s c 0) : Runs i s fun t =>
    findCmd t c.handle = some { c with state := 2 }
      ∧ kfind t.host.handles (c.handle % 4096) = some (handleEntry c.handle 2 0 0 (2 ^ 64 - 1))
      ∧ t = { s with host := t.host, msix := t.msix, edge := t.edge } ∧ t.host.mem = s.host.mem := by
  obtain ⟨hstart, hfind, hgone⟩ := hs
  refine runs_hostCmd hi ha hstart ?_
  rw [hact]
  refine ⟨findCmd_setRunning hfind 0, setRunning_entry s hgone, ?_, setRunning_mem s c 0⟩
  rw [setRunning_form]
  rfl

theorem transfer_ends {status : Nat} (hact : act s c = done s c status) : Runs i s fun t =>
    Statements.Completed t c status 0 ∧ MemSame s t := by
  obtain ⟨hstart, hfind, hgone⟩ := hs
  refine runs_hostCmd hi ha hstart ?_
  rw [hact]
  exact ⟨complete_completed hfind hgone { status := status }, (complete_completes s c.handle _).memSame⟩

end

theorem statements_transfersStart : Statements.TransfersStart := by
  intro s c i op ha hop hs
  have hi : exec i s = finish s (hostCmd op (beginsTransfer op) s) := by
    simp only [List.mem_cons, List.not_mem_nil, or_false, Prod.mk.injEq] at hop
    obtain ⟨rfl, rfl⟩ | ⟨rfl, rfl⟩ | ⟨rfl, rfl⟩ | ⟨rfl, rfl⟩ | ⟨rfl, rfl⟩ | ⟨rfl, rfl⟩ := hop <;> rfl
  refine ⟨fun hbme hlong => transfer_runs ha hs hi (beginsTransfer_runs hbme hlong), fun hid hbme hshort => ?_,
    fun hfill hbme => transfer_ends ha hs hi (beginsTransfer_noMaster hfill hbme)⟩
  obtain rfl := hid
  exact transfer_ends ha hs hi (beginsTransfer_short hbme hshort)

theorem attest_runs {s : State} {c : HostCmd} (ha : alive s = true) (hs : Statements.Starts s ocAttest c)
    (hbme : s.host.bme = true) (hlong : attestBytes s ≤ c.num 48 4) : Runs .attest s fun t =>
      findCmd t c.handle = some { c with state := 2 } ∧ t.regs = s.regs ∧ MemSame s t ∧ t.boughs = s.boughs
        ∧ (sigNext s < sigRes s → t.cellar = s.cellar)
        ∧ (sigRes s ≤ sigNext s → ∃ r ∈ t.cellar.stores, r.kind = ckSignres) := by
  obtain ⟨hstart, hfind, -⟩ := hs
  have hfound := findCmd_setRunning hfind 0
  refine runs_hostCmd rfl ha hstart ?_
  rw [attestOf_runs hbme hlong]
  split
  · next hlt =>
    rw [setRunning_form] at hfound ⊢
    exact ⟨hfound, rfl, ⟨rfl, rfl⟩, rfl, fun _ => rfl, fun hle => absurd hlt (by omega)⟩
  · next hlt =>
    have hasked := reserveBlock_asked (setRunning s c 0)
    rw [reserveBlock_form]
    generalize (reserveBlock (setRunning s c 0)).cellar = cellar at hasked
    rw [setRunning_form] at hfound ⊢
    exact ⟨hfound, rfl, ⟨rfl, rfl⟩, rfl, fun h => absurd h hlt, fun _ => hasked⟩

theorem statements_attestStarts : Statements.AttestStarts := fun _ _ ha hs =>
  ⟨attest_runs ha hs, fun hbme h => transfer_ends ha hs rfl (attestOf_short hbme h),
    fun hbme => transfer_ends ha hs rfl (attestOf_noMaster hbme)⟩

/-- Settles O23: what each opcode with a transfer does first is said once (`beginsTransfer`), then ATTEST. -/
theorem transferStarts : Obligations.TransferStarts := ⟨statements_transfersStart, statements_attestStarts⟩

section
variable {s : State} {c : HostCmd} (ha : alive s = true)
include ha

theorem object_queues (hs : Statements.Starts s ocObject c) (hop : c.num 8 1 ≠ 0) : Runs .object s fun t =>
    (objSt t (c.num 10 2)).queue =
        (objSt s (c.num 10 2)).queue ++ [{ op := c.num 8 1, offer := [], handle := some c.handle }]
      ∧ findCmd t c.handle = some { c with state := 2 } ∧ t.regs = s.regs ∧ MemSame s t := by
  obtain ⟨hstart, hfind, -⟩ := hs
  have hfound := findCmd_setRunning hfind 0
  have hact : orWait s (hostCmd ocObject objectOf s) = objectAsked (setRunning s c 0) c [] := by
    rw [hostCmd_starts hstart, objectOf_plain hop]
    refine orWait_still ?_
    rw [setRunning_form]
    rfl
  refine runs_finish (congrArg (finish s) hact) ha ⟨?_, hfound, ?_, ?_⟩
  · refine (congrArg ObjSt.queue (objSt_setObjSt _ _ _)).trans ?_
    rw [setRunning_form]
    rfl
  · show (setRunning s c 0).regs = s.regs
    rw [setRunning_form]
  · show MemSame s (setRunning s c 0)
    rw [setRunning_form]
    exact ⟨rfl, rfl⟩

theorem object_registers (hs : Statements.Starts s ocObject c) (hop : c.num 8 1 = 0) (hcalm : Statements.Calm s)
    (hclean : Statements.Clean s) : Runs .object s fun t =>
      (objSt t (c.num 10 2)).queue = (objSt s (c.num 10 2)).queue ++
          [{ op := 0, offer := peek s (c.num 16 8) 64, handle := some c.handle }]
        ∧ findCmd t c.handle = some { c with state := 2 } ∧ MemSame s t := by
  obtain ⟨hstart, hfind, -⟩ := hs
  obtain ⟨-, -, -, hr, hb, -⟩ := hcalm
  have hfound := findCmd_setRunning hfind 0
  have hform := setRunning_form s c 0
  have hr' : (setRunning s c 0).loft.rounds = [] := by rw [hform]; exact hr
  have hb' : (setRunning s c 0).loft.banks = [] := by rw [hform]; exact hb
  have hsound : Sound (setRunning s c 0) := by rw [hform]; exact hclean
  have honly := accessMem_loftOnly hr' hb' hsound.1 (c.num 16 8) 64
  have hload := objectOf_register hop (load_calm hr' hb' hsound (c.num 16 8) 64)
  have hobj := accessMem_objSt (setRunning s c 0) (c.num 16 8) 64 (c.num 10 2)
  have hstall := ((accessMem_keeps (setRunning s c 0) (c.num 16 8) 64).calm hr' hb').2.2
  generalize accessMem (setRunning s c 0) (c.num 16 8) 64 = v at honly hload hobj hstall
  have hact : orWait s (hostCmd ocObject objectOf s) = objectAsked v c (peek (setRunning s c 0) (c.num 16 8) 64) := by
    rw [hostCmd_starts hstart, hload]
    refine orWait_still (hstall.trans ?_)
    rw [hform]
  refine runs_finish (congrArg (finish s) hact) ha ⟨?_, ?_, ?_⟩
  · refine (congrArg ObjSt.queue (objSt_setObjSt _ _ _)).trans ?_
    rw [hobj, hop, hform]
    rfl
  · show findCmd v c.handle = _
    rw [honly]
    exact hfound
  · show MemSame s v
    rw [honly, hform]
    exact ⟨rfl, rfl⟩

theorem subst_orders (hs : Statements.Starts s ocSubst c) (hp : phys s (c.num 8 1) < 68) : Runs .subst s fun t =>
    t.integ.substCmds = s.integ.substCmds ++ [(c.num 8 1, c.handle)]
      ∧ ((∃ x ∈ t.integ.substDue, x.1 = c.num 8 1) ∨ ∃ x ∈ s.integ.copies, x.1 = c.num 8 1)
      ∧ ((∀ x ∈ s.integ.substDue, x.1 ≠ c.num 8 1) → (∀ x ∈ s.integ.copies, x.1 ≠ c.num 8 1) →
          t.integ.substDue = s.integ.substDue ++ [(c.num 8 1, false)])
      ∧ findCmd t c.handle = some { c with state := 2 } ∧ t.regs = s.regs ∧ MemSame s t := by
  obtain ⟨hstart, hfind, -⟩ := hs
  have hfound := findCmd_setRunning hfind 0
  have hordered := orderSubst_ordered (setRunning s c 0) (c.num 8 1) false
  have hfresh := orderSubst_fresh (s := setRunning s c 0) (n := c.num 8 1) false
  refine runs_hostCmd rfl ha hstart ?_
  rw [substOf_presented hp, substAsked, orderSubst_form]
  generalize (orderSubst (setRunning s c 0) (c.num 8 1) false).integ.substDue = due at hordered hfresh
  rw [setRunning_form] at hfound hordered hfresh ⊢
  exact ⟨rfl, hordered, hfresh, hfound, rfl, rfl, rfl⟩

theorem subst_idle (hs : Statements.Starts s ocSubst c) (hp : 68 ≤ phys s (c.num 8 1)) : Runs .subst s fun t =>
    Statements.Completed t c 0 0 ∧ t.integ = s.integ ∧ MemSame s t := by
  obtain ⟨hstart, hfind, hgone⟩ := hs
  obtain ⟨hover, hd⟩ := done_over (u := s) rfl hfind hgone
  have hact : substOf s c = done s c 0 := if_pos hp
  refine runs_hostCmd rfl ha hstart ?_
  rw [hact]
  refine ⟨hover, ?_, hd.memSame⟩
  show (done s c 0).integ = s.integ
  rw [hd.form]

end

/-- Settles O25: an OBJECT by its operation, a SUBST by what presents its number. -/
theorem objectAndSubst : Obligations.ObjectAndSubst := fun _ _ ha =>
  ⟨object_queues ha, object_registers ha, subst_orders ha, subst_idle ha⟩

end Sys2Proof.Settled
end

section
/-! PROOF. Full resets (R513 to R516, R529, R549): the registers a reset writes to report itself, and what it leaves of
everything else. -/

namespace Sys2Proof.Machine

/-! ## Updates of registers alone -/

/-- From `s` to `t` registers have changed, and nothing else. -/
def RegsOnly (s t : State) : Prop := t = { s with regs := t.regs }

theorem RegsOnly.refl (s : State) : RegsOnly s s := rfl

theorem RegsOnly.trans {s t u : State} (h : RegsOnly s t) (h' : RegsOnly t u) : RegsOnly s u := by
  unfold RegsOnly at *
  rw [h', h]

theorem RegsOnly.foldl {α : Type} {f : State → α → State} (hf : ∀ s x, RegsOnly s (f s x)) (xs : List α) (s : State) :
    RegsOnly s (xs.foldl f s) :=
  List.foldlRecOn (motive := fun t => RegsOnly s t) xs f (.refl s) fun _ h x _ => h.trans (hf _ x)

theorem regsOnly_setReg (s : State) (a : Nat) (v : Word) : RegsOnly s (setReg s a v) := rfl
theorem regsOnly_setRegN (s : State) (a v : Nat) : RegsOnly s (setRegN s a v) := rfl
theorem regsOnly_setFld (s : State) (a : Nat) (f : Fld) (v : Nat) : RegsOnly s (setFld s a f v) := rfl
theorem regsOnly_setReg64 (s : State) (a v : Nat) : RegsOnly s (setReg64 s a v) := rfl
theorem regsOnly_bump (s : State) (a n : Nat) : RegsOnly s (bump s a n) := rfl
theorem regsOnly_raise (s : State) (a m : Nat) : RegsOnly s (raise s a m) := rfl

section
variable {s t : State} (h : RegsOnly s t)
include h

theorem RegsOnly.mem : t.mem = s.mem := by rw [h]
theorem RegsOnly.memSame : MemSame s t := by rw [h]; exact ⟨rfl, rfl⟩
theorem RegsOnly.host : t.host = s.host := by rw [h]
theorem RegsOnly.rst : t.rst = s.rst := by rw [h]
theorem RegsOnly.floor : t.floor = s.floor := by rw [h]
theorem RegsOnly.wire : t.wire = s.wire := by rw [h]
theorem RegsOnly.loft : t.loft = s.loft := by rw [h]
theorem RegsOnly.fab : t.fab = s.fab := by rw [h]
theorem RegsOnly.fwm : t.fwm = s.fwm := by rw [h]
theorem RegsOnly.cellar : t.cellar = s.cellar := by rw [h]
theorem RegsOnly.integ : t.integ = s.integ := by rw [h]

end

/-! ## What a reset reports (R513, R515, R551, R580) -/

/-- The registers by which a full reset reports itself. -/
def reportRegs : List Nat := [Reg.RST_CAUSE, Reg.RST_STATUS, Reg.RST_PARTSTAT, Reg.RST_INTSTAT, Reg.FWM_FALLBACKS]

/-- The cause, whether a trip is latched, and the phase that the start begins at. -/
def causeShown (u : State) (cause tripped phase : Nat) : State :=
  setPhase (setFld (setFld u Reg.RST_CAUSE Fld.RST_CAUSE_CAUSE cause) Reg.RST_CAUSE Fld.RST_CAUSE_TRIPPED tripped) phase

/-- The partial reset that a full reset abandons is reported. -/
def abandonShown (u : State) : Option PartReq → State
  | none => u
  | some p => raise (setFld (setFld (setFld u Reg.RST_PARTSTAT Fld.RST_PARTSTAT_KIND p.kind) Reg.RST_PARTSTAT
      Fld.RST_PARTSTAT_TARGET p.target) Reg.RST_PARTSTAT Fld.RST_PARTSTAT_RESULT 3) Reg.RST_INTSTAT
      Fld.RST_INTSTAT_PARTREF.bit

/-- A trial that a full reset ends counts as a fallback. -/
def fallbackShown (u : State) (counts : Bool) : State := if counts then bump u Reg.FWM_FALLBACKS 1 else u

/-- What a warm reset reports. -/
def warmShown (s u : State) (cause : Nat) : State :=
  abandonShown (fallbackShown (causeShown u cause (if s.rst.trip && decide (cause = rcMainpg) then 1 else 0) 2)
    (resetInTrial s)) (abandoned s)

/-- The registers that a warm reset keeps. -/
def keptRegs (s : State) : KMap Word := s.regs.filter fun x => keptReg x.1

/-- A Granary that a reset keeps: every object is HOME and unpinned. -/
def objectsHome (s u : State) : State :=
  setFld (s.loft.objs.foldl homeObj (setReg64 u Reg.LFT_OBJBASE_LO (reg64 s Reg.LFT_OBJBASE_LO))) Reg.LFT_OBJCOUNT
    Fld.LFT_OBJCOUNT_COUNT s.loft.objs.length

theorem fullReset_warm {s : State} {cause : Nat} (h : cause ≠ rcPor) :
    fullReset s cause false = warmShown s (resetState s cause (keptRegs s) false) cause := by
  unfold fullReset
  simp only [h, decide_false, Bool.false_or, Bool.not_false, Bool.and_true, Bool.false_eq_true, if_false]
  unfold warmShown fallbackShown causeShown keptRegs
  cases abandoned s <;> rfl

theorem fullReset_keeping {s : State} {cause : Nat} (h : cause ≠ rcPor) :
    fullReset s cause true = warmShown s (objectsHome s (resetState s cause (keptRegs s) true)) cause := by
  unfold fullReset
  simp only [h, decide_false, Bool.false_or, Bool.not_false, Bool.and_true, if_false, if_true]
  unfold warmShown fallbackShown causeShown keptRegs objectsHome
  cases abandoned s <;> rfl

theorem fullReset_por (s : State) :
    fullReset s rcPor false = causeShown (resetState s rcPor [] false) rcPor (if s.rst.trip then 1 else 0) 1 := by
  unfold fullReset
  simp only [decide_true, Bool.true_or, Bool.and_true, Bool.not_true, Bool.and_false, Bool.false_eq_true, if_false, if_true]
  unfold causeShown
  cases abandoned s <;> rfl

section
variable (u : State)

theorem causeShown_regsOnly (c t p : Nat) : RegsOnly u (causeShown u c t p) :=
  ((regsOnly_setFld u _ _ _).trans (regsOnly_setFld _ _ _ _)).trans (regsOnly_setFld _ _ _ _)

theorem causeShown_reg_ne (c t p : Nat) {a : Nat} (hc : a ≠ Reg.RST_CAUSE) (hs : a ≠ Reg.RST_STATUS) :
    reg (causeShown u c t p) a = reg u a :=
  (reg_setFld_ne _ _ _ (Ne.symm hs)).trans ((reg_setFld_ne _ _ _ (Ne.symm hc)).trans (reg_setFld_ne _ _ _ (Ne.symm hc)))

theorem causeShown_cause {c : Nat} (t p : Nat) (hc : c < 16) :
    fld (causeShown u c t p) Reg.RST_CAUSE Fld.RST_CAUSE_CAUSE = c := by
  rw [causeShown, setPhase, fld_of_reg (reg_setFld_ne _ _ _ (by decide)),
    fld_setFld_ne _ _ _ _ _ (by decide) (by decide) (by decide) (by decide), fld_setFld _ _ _ _ (by decide) (by decide)]
  exact Nat.mod_eq_of_lt hc

theorem causeShown_tripped (c p : Nat) {t : Nat} (ht : t < 2) :
    fld (causeShown u c t p) Reg.RST_CAUSE Fld.RST_CAUSE_TRIPPED = t := by
  rw [causeShown, setPhase, fld_of_reg (reg_setFld_ne _ _ _ (by decide)), fld_setFld _ _ _ _ (by decide) (by decide)]
  exact Nat.mod_eq_of_lt ht

theorem causeShown_reason (c t p : Nat) : fld (causeShown u c t p) Reg.RST_CAUSE Fld.RST_CAUSE_REASON
    = fld u Reg.RST_CAUSE Fld.RST_CAUSE_REASON := by
  rw [causeShown, setPhase, fld_of_reg (reg_setFld_ne _ _ _ (by decide)),
    fld_setFld_ne _ _ _ _ _ (by decide) (by decide) (by decide) (by decide),
    fld_setFld_ne _ _ _ _ _ (by decide) (by decide) (by decide) (by decide)]

theorem causeShown_phase (c t : Nat) {p : Nat} (hp : p < 16) : rsPhase (causeShown u c t p) = p := by
  rw [rsPhase, causeShown, setPhase, fld_setFld _ _ _ _ (by decide) (by decide)]
  exact Nat.mod_eq_of_lt hp

theorem causeShown_state (c t p : Nat) : rstState (causeShown u c t p) = rstState u := by
  rw [rstState, causeShown, setPhase, fld_setFld_ne _ _ _ _ _ (by decide) (by decide) (by decide) (by decide),
    fld_of_reg (reg_setFld_ne _ _ _ (by decide)), fld_of_reg (reg_setFld_ne _ _ _ (by decide)), rstState]

theorem fallbackShown_regsOnly (b : Bool) : RegsOnly u (fallbackShown u b) := by
  cases b with
  | false => exact .refl u
  | true => exact regsOnly_bump u _ _

theorem fallbackShown_reg_ne (b : Bool) {a : Nat} (h : a ≠ Reg.FWM_FALLBACKS) : reg (fallbackShown u b) a = reg u a := by
  cases b with
  | false => rfl
  | true => exact reg_bump_ne _ _ (Ne.symm h)

theorem fallbackShown_count (b : Bool) : regN (fallbackShown u b) Reg.FWM_FALLBACKS
    = min (regN u Reg.FWM_FALLBACKS + if b then 1 else 0) 0xFFFFFFFF := by
  cases b with
  | false =>
    have hlt := regN_lt u Reg.FWM_FALLBACKS
    rw [if_neg (by decide), Nat.add_zero, Nat.min_eq_left (by omega)]
    rfl
  | true => exact regN_bump u _ 1

theorem abandonShown_regsOnly : (p : Option PartReq) → RegsOnly u (abandonShown u p)
  | none => .refl u
  | some _ => (((regsOnly_setFld u _ _ _).trans (regsOnly_setFld _ _ _ _)).trans (regsOnly_setFld _ _ _ _)).trans
      (regsOnly_raise _ _ _)

theorem abandonShown_reg_ne (p : Option PartReq) {a : Nat} (hp : a ≠ Reg.RST_PARTSTAT) (hi : a ≠ Reg.RST_INTSTAT) :
    reg (abandonShown u p) a = reg u a := by
  cases p with
  | none => rfl
  | some p =>
    exact (reg_raise_ne _ _ (Ne.symm hi)).trans ((reg_setFld_ne _ _ _ (Ne.symm hp)).trans
      ((reg_setFld_ne _ _ _ (Ne.symm hp)).trans (reg_setFld_ne _ _ _ (Ne.symm hp))))

theorem abandonShown_reports {p : Option PartReq} (h : p.isSome = true) :
    fld (abandonShown u p) Reg.RST_PARTSTAT Fld.RST_PARTSTAT_RESULT = 3
      ∧ fld (abandonShown u p) Reg.RST_INTSTAT Fld.RST_INTSTAT_PARTREF = 1 := by
  obtain ⟨p, rfl⟩ := Option.isSome_iff_exists.1 h
  refine ⟨?_, fld_raise _ _ 2 (by decide)⟩
  rw [abandonShown, fld_of_reg (reg_raise_ne _ _ (by decide)), fld_setFld _ _ _ _ (by decide) (by decide)]
  rfl

end

section
variable (s u : State) (cause : Nat)

theorem warmShown_regsOnly : RegsOnly u (warmShown s u cause) :=
  ((causeShown_regsOnly u _ _ _).trans (fallbackShown_regsOnly _ _)).trans (abandonShown_regsOnly _ _)

theorem warmShown_reg_ne {a : Nat} (h : a ∉ reportRegs) : reg (warmShown s u cause) a = reg u a := by
  simp only [reportRegs, List.mem_cons, List.not_mem_nil, or_false, not_or] at h
  obtain ⟨hcause, hstatus, hpart, hint, hfall⟩ := h
  rw [warmShown, abandonShown_reg_ne _ _ hpart hint, fallbackShown_reg_ne _ _ hfall, causeShown_reg_ne _ _ _ _ hcause hstatus]

/-- What reports a reset stands once it is written: what follows is written elsewhere. -/
theorem warmShown_of_causeShown {a : Nat} (h : a = Reg.RST_CAUSE ∨ a = Reg.RST_STATUS) (f : Fld) :
    fld (warmShown s u cause) a f =
      fld (causeShown u cause (if s.rst.trip && decide (cause = rcMainpg) then 1 else 0) 2) a f := by
  refine fld_of_reg ?_ f
  obtain rfl | rfl := h
  · rw [warmShown, abandonShown_reg_ne _ _ (by decide) (by decide), fallbackShown_reg_ne _ _ (by decide)]
  · rw [warmShown, abandonShown_reg_ne _ _ (by decide) (by decide), fallbackShown_reg_ne _ _ (by decide)]

theorem warmShown_cause (h : cause < 16) : fld (warmShown s u cause) Reg.RST_CAUSE Fld.RST_CAUSE_CAUSE = cause := by
  rw [warmShown_of_causeShown _ _ _ (.inl rfl), causeShown_cause _ _ _ h]

theorem warmShown_tripped : fld (warmShown s u cause) Reg.RST_CAUSE Fld.RST_CAUSE_TRIPPED
    = if s.rst.trip && decide (cause = rcMainpg) then 1 else 0 := by
  rw [warmShown_of_causeShown _ _ _ (.inl rfl), causeShown_tripped]
  split <;> decide

theorem warmShown_reason : fld (warmShown s u cause) Reg.RST_CAUSE Fld.RST_CAUSE_REASON
    = fld u Reg.RST_CAUSE Fld.RST_CAUSE_REASON := by
  rw [warmShown_of_causeShown _ _ _ (.inl rfl), causeShown_reason]

theorem warmShown_phase : rsPhase (warmShown s u cause) = 2 :=
  (warmShown_of_causeShown _ _ _ (.inr rfl) _).trans (causeShown_phase u _ _ (by decide))

theorem warmShown_state : rstState (warmShown s u cause) = rstState u :=
  (warmShown_of_causeShown _ _ _ (.inr rfl) _).trans (causeShown_state u _ _ _)

theorem warmShown_fallbacks : regN (warmShown s u cause) Reg.FWM_FALLBACKS
    = min (regN u Reg.FWM_FALLBACKS + if resetInTrial s then 1 else 0) 0xFFFFFFFF := by
  rw [warmShown, regN_of_reg (abandonShown_reg_ne _ _ (by decide) (by decide)), fallbackShown_count,
    regN_of_reg (causeShown_reg_ne _ _ _ _ (by decide) (by decide))]

end

/-! ## What a warm reset leaves (R516, R549) -/

theorem reg_keptRegs {s u : State} (h : u.regs = keptRegs s) (a : Nat) :
    reg u a = if keptReg a then reg s a else regReset a := reg_of_filter keptReg h a

theorem keptReg_cause : keptReg Reg.RST_CAUSE = true := by decide
theorem keptReg_status : keptReg Reg.RST_STATUS = false := by decide
theorem keptReg_fallbacks : keptReg Reg.FWM_FALLBACKS = true := by decide

theorem rstState_keptRegs {s u : State} (h : u.regs = keptRegs s) : rstState u = 0 := by
  rw [rstState, fld, reg_keptRegs h, keptReg_status, if_neg (by decide)]
  decide

/-- A warm reset that keeps no Granary leaves what R549 keeps and reports its cause. -/
theorem fullReset_left {s : State} {cause : Nat} (h : cause ≠ rcPor) (hlt : cause < 16) (s0 : State) :
    Statements.FullReset s (ended s0 (fullReset s cause false)) cause := by
  have hregs : (resetState s cause (keptRegs s) false).regs = keptRegs s := rfl
  rw [fullReset_warm h]
  refine ⟨?_, ?_, warmShown_phase s _ _, warmShown_cause s _ _ hlt, fun a ha => ?_, ?_, fun hab => abandonShown_reports _ hab⟩
  · rw [warmShown_regsOnly s, resetState, if_neg h]
    rfl
  · exact (warmShown_state s _ _).trans (rstState_keptRegs hregs)
  · exact (warmShown_reg_ne s _ _ ha).trans (reg_keptRegs hregs a)
  · refine (warmShown_fallbacks s _ _).trans ?_
    rw [regN_of_reg ((reg_keptRegs hregs _).trans (if_pos keptReg_fallbacks))]

theorem fullReset_tripped {s : State} {cause : Nat} (h : cause ≠ rcPor) :
    fld (fullReset s cause false) Reg.RST_CAUSE Fld.RST_CAUSE_TRIPPED
      = if s.rst.trip && decide (cause = rcMainpg) then 1 else 0 := by
  rw [fullReset_warm h, warmShown_tripped]

/-- A start that fails leaves what a warm reset leaves, and its reason. -/
theorem failStart_left (s s0 : State) {reason : Nat} (h : reason < 256) :
    Statements.FailStart s (ended s0 (failStart s reason)) reason := by
  refine ⟨fullReset_left (by decide) (by decide) s0, ?_⟩
  have hkept : fld (resetState (setFld s Reg.RST_CAUSE Fld.RST_CAUSE_REASON reason) rcFailstart
      (keptRegs (setFld s Reg.RST_CAUSE Fld.RST_CAUSE_REASON reason)) false) Reg.RST_CAUSE Fld.RST_CAUSE_REASON
      = fld (setFld s Reg.RST_CAUSE Fld.RST_CAUSE_REASON reason) Reg.RST_CAUSE Fld.RST_CAUSE_REASON :=
    fld_of_reg ((reg_keptRegs rfl _).trans (if_pos keptReg_cause)) _
  refine (ended_fld s0 _ _ _).trans ?_
  rw [failStart, fullReset_warm (by decide), warmShown_reason, hkept, fld_setFld _ _ _ _ (by decide) (by decide)]
  exact Nat.mod_eq_of_lt h

/-! ## A reset that keeps the Granary (R516) -/

theorem homeObj_recBut (s : State) (j : Nat) : RecBut s (homeObj s j) j [18, 24, 25, 26, 27] := by
  unfold homeObj
  exact ((setMstate_recBut s j _).mono (by decide)).trans (((setPinned_recBut _ j _).mono (by decide)).trans
    ((setObj_recBut _ j 24 4 _).mono (by decide)))

/-- From `s` to `t` no byte changes but those of records in `js`. -/
structure RecordsBut (s t : State) (js : List Nat) : Prop where
  map : SameMap s t
  byte : ∀ a, (∀ j ∈ js, ¬(objRec s j ≤ a ∧ a < objRec s j + 64)) → byteAt t a = byteAt s a

theorem homeObjs_recordsBut (js : List Nat) (s : State) : RecordsBut s (js.foldl homeObj s) js := by
  induction js generalizing s with
  | nil => exact ⟨.refl s, fun _ _ => rfl⟩
  | cons j js ih =>
    have hj := homeObj_recBut s j
    obtain ⟨hmap, hbyte⟩ := ih (homeObj s j)
    refine ⟨hj.map.trans hmap, fun a ha => (hbyte a fun i hi => ?_).trans (hj.outside (by decide) ?_)⟩
    · rw [hj.map.objRec]
      exact ha i (List.mem_cons_of_mem _ hi)
    · have := ha j List.mem_cons_self
      omega

theorem homeObjs_form (js : List Nat) (s : State) : js.foldl homeObj s = { s with mem := (js.foldl homeObj s).mem } := by
  induction js generalizing s with
  | nil => rfl
  | cons j js ih =>
    rw [List.foldl_cons, ih]
    rfl

/-- The bytes of the object range outside the records of objects are those of the Granary. -/
theorem objectsHome_byte {s u : State} (hmem : u.mem = granaryBytes s) {a : Nat} (ho : isObj a = true)
    (ha : ∀ j ∈ s.loft.objs, ¬(objRec s j ≤ a ∧ a < objRec s j + 64)) :
    byteAt (objectsHome s u) a = kget (fun _ => 0) (granaryBytes s) a := by
  have hbase : reg64 (setReg64 u Reg.LFT_OBJBASE_LO (reg64 s Reg.LFT_OBJBASE_LO)) Reg.LFT_OBJBASE_LO
      = reg64 s Reg.LFT_OBJBASE_LO := by
    rw [reg64_setReg64]
    exact Nat.mod_eq_of_lt (reg64_lt s _)
  have hrec (j : Nat) : objRec (setReg64 u Reg.LFT_OBJBASE_LO (reg64 s Reg.LFT_OBJBASE_LO)) j = objRec s j :=
    congrArg (· + 64 * j) hbase
  have hcount : SameMap (s.loft.objs.foldl homeObj (setReg64 u Reg.LFT_OBJBASE_LO (reg64 s Reg.LFT_OBJBASE_LO)))
      (objectsHome s u) := fun b hb => reg_setFld_ne _ _ _ (by
    rintro rfl
    revert hb
    decide)
  refine (hcount.byteAt rfl).trans (((homeObjs_recordsBut s.loft.objs _).byte a fun j hj => ?_).trans ?_)
  · rw [hrec]
    exact ha j hj
  · show (if isMem _ a then kget (fun _ => 0#8) u.mem a else _) = _
    rw [if_pos (by simp [isMem, ho]), hmem]
    rfl

theorem objectsHome_loft (s u : State) : (objectsHome s u).loft = u.loft := by
  rw [objectsHome, setFld_loft, homeObjs_form]
  rfl

theorem warmShown_byteAt (s u : State) (cause a : Nat) : byteAt (warmShown s u cause) a = byteAt u a := by
  have hsame : SameMap u (warmShown s u cause) := fun b hb => warmShown_reg_ne s u cause (by
    simp only [mapRegs, List.mem_cons, List.not_mem_nil, or_false] at hb
    obtain rfl | rfl | rfl := hb <;> decide)
  exact hsame.byteAt (by rw [(warmShown_regsOnly s u cause).mem])

end Sys2Proof.Machine
end

section
/-! PROOF. Which event brings a full reset (R513, R515, R516, R529, R543, R567), and what the supplies and the pins do
(R514, R519, R523, R547, R639, R640). -/

namespace Sys2Proof.Machine

/-- Commands of the supplies, the pins and the trip act on a device that is stopped too. -/
theorem runs_finishAny {c : Instr} {s t : State} {P : State → Prop} (hc : exec c s = finishAny s t) (hp : P (ended s t)) :
    Runs c s P := ⟨_, hc, hp⟩

/-- A command that finds nothing to do leaves a working device as it was. -/
theorem runs_idle {c : Instr} {s t : State} (hc : exec c s = finish s t) (ha : alive s = true) (ht : t = s) :
    Runs c s fun t => t = { s with msix := t.msix, edge := t.edge } := by
  subst ht
  exact runs_finish hc ha rfl

theorem storesAfter_por (s : State) : storesAfter s rcPor = { s.cellar with stores := [] } := by
  unfold storesAfter
  split
  · rfl
  · next h => rw [← h]

/-- What POR leaves: nothing is kept but what the always-on domain holds. -/
def afterPor (s : State) : State := { State.reset with
  pending := s.pending, free := s.free, rdata := s.rdata, wire := s.wire
  cellar := { s.cellar with stores := [] }, msix := { sent := s.msix.sent }
  host := { State.reset.host with mem := s.host.mem, completions := s.host.completions }
  rst := { State.reset.rst with
           power := true, mainPg := s.rst.mainPg, perst := s.rst.perst, fuses := s.rst.fuses
           flash := s.rst.flash, trips := s.rst.trips } }

theorem porOf_eq (s : State) : porOf s = causeShown (afterPor s) rcPor (if s.rst.trip then 1 else 0) 1 := by
  have hleft : mapRst (resetState s rcPor [] false) (fun r => { r with power := true }) = afterPor s := by
    rw [resetState, storesAfter_por, if_neg (by decide), if_neg (by decide), if_neg (by decide), if_pos rfl]
    rfl
  rw [porOf, fullReset_por, ← hleft]
  rfl

/-- After POR a register reads its reset value, but the cause. -/
theorem porOf_reg {s : State} {a : Nat} (h : a ≠ Reg.RST_CAUSE) : reg (porOf s) a = regReset a := by
  rw [porOf_eq]
  by_cases hs : a = Reg.RST_STATUS
  · subst hs
    have hput : Fld.RST_STATUS_PHASE.put (regReset Reg.RST_STATUS) 1 = regReset Reg.RST_STATUS := by decide
    rw [causeShown, setPhase, setFld, reg_setReg_self, reg_setFld_ne _ _ _ (by decide), reg_setFld_ne _ _ _ (by decide)]
    exact hput
  · exact causeShown_reg_ne _ _ _ _ h hs

/-- What PERST# released does in full-reset mode. -/
theorem perstDeassert_full {s : State} (ha : alive s = true) (hp : s.rst.perst = true) (hm : perstMode s = 0) :
    perstDeassert s = fullReset { s with rst := { s.rst with perst := false } } rcPerst false := by
  have hrun : (alive { s with rst := { s.rst with perst := false } } && decide (perstMode s = 0)) = true := by
    simp [hm, show alive { s with rst := { s.rst with perst := false } } = alive s from rfl, ha]
  unfold perstDeassert
  rw [hp]
  exact if_pos hrun

theorem perstDeassert_port {s : State} (hp : s.rst.perst = true) (hm : perstMode s = 1) :
    perstDeassert s = { s with rst := { s.rst with perst := false } } := by
  have hrun : ¬(alive { s with rst := { s.rst with perst := false } } && decide (perstMode s = 0)) = true := by
    simp [hm]
  unfold perstDeassert
  rw [hp]
  exact if_neg hrun

/-! ## A full RESET (R515, R516, R543, R619) -/

theorem stopLoad_completes (s : State) : Completes s (stopLoad s) := by
  unfold stopLoad
  split
  · exact .refl s
  · split
    · exact complete_completes s _ _
    · exact .refl s

theorem stopLoad_blocks (s : State) : BlocksBut s (stopLoad s) [0, 1] := by
  unfold stopLoad
  split
  · exact .refl s _
  · split
    · exact complete_blocks s _ _
    · exact .refl s _

/-- A full RESET ends a JOBLOAD that is validating and completes before it takes effect. -/
theorem resetOf_full {s : State} {c : HostCmd} (h : c.num 8 4 = 0) : resetOf s c =
    fullReset (done (stopLoad s) c 0) (if c.mgmt then rcMgmt else rcHost) (!c.mgmt && bitN (c.num 12 1) 0) := if_pos h

theorem resetDone_completes (s : State) (c : HostCmd) : Completes s (done (stopLoad s) c 0) :=
  (stopLoad_completes s).trans (complete_completes _ _ _)

theorem resetDone_sameMap (s : State) (c : HostCmd) : SameMap s (done (stopLoad s) c 0) :=
  ((stopLoad_blocks s).trans (complete_blocks _ _ _)).sameMap (by decide)

end Sys2Proof.Machine

namespace Sys2Proof.Settled

open Sys2Proof.Machine

theorem por_resets (s : State) : Runs .por s fun t =>
    t = { State.reset with
          pending := t.pending, free := s.free, rdata := s.rdata, wire := s.wire, regs := t.regs
          cellar := { s.cellar with stores := [] }, msix := t.msix, edge := t.edge
          host := { State.reset.host with mem := s.host.mem, completions := s.host.completions }
          rst := { State.reset.rst with
                   power := true, mainPg := s.rst.mainPg, perst := s.rst.perst, fuses := s.rst.fuses
                   flash := s.rst.flash, trips := s.rst.trips } }
      ∧ rsPhase t = 1 ∧ fld t Reg.RST_CAUSE Fld.RST_CAUSE_CAUSE = 0
      ∧ fld t Reg.RST_CAUSE Fld.RST_CAUSE_TRIPPED = (if s.rst.trip then 1 else 0)
      ∧ ∀ a, a ≠ Reg.RST_CAUSE → reg t a = regReset a := by
  obtain ⟨regs, hform⟩ : ∃ regs, porOf s = { afterPor s with regs := regs } :=
    ⟨_, (porOf_eq s).trans (causeShown_regsOnly _ _ _ _)⟩
  have hphase : rsPhase (porOf s) = 1 := by
    rw [porOf_eq, causeShown_phase _ _ _ (by decide)]
  have hcause : fld (porOf s) Reg.RST_CAUSE Fld.RST_CAUSE_CAUSE = 0 := by
    rw [porOf_eq, causeShown_cause _ _ _ (by decide)]
    rfl
  have htripped : fld (porOf s) Reg.RST_CAUSE Fld.RST_CAUSE_TRIPPED = if s.rst.trip then 1 else 0 := by
    rw [porOf_eq, causeShown_tripped _ _ _ (by split <;> decide)]
  refine runs_finishAny rfl ⟨?_, hphase, hcause, htripped, fun a h => porOf_reg h⟩
  rw [hform]
  rfl

theorem mainPg_rises {s : State} (hpower : s.rst.power = true) (hoff : s.rst.mainPg = false) :
    (rstState s = 0 → rsPhase s = 1 → s.rst.trip = false → Runs .mainpg s fun t =>
      t = { s with rst := { s.rst with mainPg := true }, msix := t.msix, edge := t.edge }) ∧
    (¬(rstState s = 0 ∧ rsPhase s = 1 ∧ s.rst.trip = false) → Runs .mainpg s fun t =>
      Statements.FullReset { s with rst := { s.rst with mainPg := true } } t 1
        ∧ fld t Reg.RST_CAUSE Fld.RST_CAUSE_TRIPPED = if s.rst.trip then 1 else 0) := by
  have hrise : mainpgOf s = if rstState s = 0 && rsPhase s = 1 && !s.rst.trip
      then { s with rst := { s.rst with mainPg := true } }
      else fullReset { s with rst := { s.rst with mainPg := true } } rcMainpg false := by
    simp [mainpgOf, hpower, hoff, mapRst]
  refine ⟨fun hst hph ht => ?_, fun h => ?_⟩
  · have hgo : mainpgOf s = { s with rst := { s.rst with mainPg := true } } := hrise.trans (if_pos (by simp [hst, hph, ht]))
    refine runs_finishAny rfl ?_
    rw [hgo]
    rfl
  · have hreset : mainpgOf s = fullReset { s with rst := { s.rst with mainPg := true } } rcMainpg false :=
      hrise.trans (if_neg (by simpa [and_assoc] using h))
    refine runs_finishAny rfl ?_
    rw [hreset]
    refine ⟨fullReset_left (by decide) (by decide) s, (fullReset_tripped (by decide)).trans ?_⟩
    simp

section
variable {s : State} (ha : alive s = true)
include ha

theorem perst_released (hp : s.rst.perst = true) :
    (perstMode s = 0 → Runs .perstDeassert s fun t =>
      Statements.FullReset { s with rst := { s.rst with perst := false } } t 2) ∧
    (perstMode s = 1 → Runs .perstDeassert s fun t =>
      t = { s with rst := { s.rst with perst := false }, msix := t.msix, edge := t.edge }) := by
  refine ⟨fun hm => runs_finishAny rfl ?_, fun hm => runs_finishAny rfl ?_⟩
  · rw [perstDeassert_full ha hp hm]
    exact fullReset_left (by decide) (by decide) s
  · rw [perstDeassert_port hp hm]
    rfl

theorem watchdog_expires :
    (rstState s = 0 → Runs .watchdog s fun t => Statements.FailStart s t 6) ∧
    (rstState s ≠ 0 → (fwmState s ≠ fwsTrial ∨ s.fwm.confirming = true) → Runs .watchdog s fun t =>
      Statements.FullReset s t 5) ∧
    (rstState s ≠ 0 → fwmState s = fwsTrial → s.fwm.confirming = false → Runs .watchdog s fun t =>
      t = { s with fwm := { s.fwm with fallDue := true }, msix := t.msix, edge := t.edge }) := by
  refine ⟨fun h => ?_, fun h htrial => ?_, fun h htrial hc => ?_⟩
  · have hact : watchdogOf s = failStart s lrWatchdog := if_pos h
    exact runs_finish (congrArg (finish s) hact) ha (failStart_left s s (by decide))
  · have hact : watchdogOf s = fullReset s rcWatchdog false :=
      (if_neg h).trans (if_neg (by obtain htrial | hc := htrial <;> simp [*]))
    exact runs_finish (congrArg (finish s) hact) ha (fullReset_left (by decide) (by decide) s)
  · have hin : (decide (fwmState s = fwsTrial) && !s.fwm.confirming) = true := by simp [htrial, hc]
    have hact : watchdogOf s = { s with fwm := { s.fwm with fallDue := true } } :=
      (if_neg h).trans ((if_pos hin).trans (if_pos hin))
    exact runs_finish (congrArg (finish s) hact) ha rfl

theorem clock_fails {d : Nat} (hlo : 22 ≤ d) (hhi : d ≤ 25) :
    (rstState s = 0 → Runs (.clockFault d) s fun t => Statements.FailStart s t 6) ∧
    (rstState s ≠ 0 → Runs (.clockFault d) s fun t => Statements.FullReset s t 5) := by
  have hact : clockFaultOf s d = if rstState s = 0 then failStart s lrWatchdog else fullReset s rcWatchdog false :=
    (if_neg (by simp; omega)).trans (if_pos (by simp [hlo, hhi]))
  refine ⟨fun h => ?_, fun h => ?_⟩
  · exact runs_finish (congrArg (finish s) (hact.trans (if_pos h))) ha (failStart_left s s (by decide))
  · exact runs_finish (congrArg (finish s) (hact.trans (if_neg h))) ha (fullReset_left (by decide) (by decide) s)

theorem start_expires :
    (rstState s = 0 → Runs .startDeadline s fun t => Statements.FailStart s t 7) ∧
    (rstState s ≠ 0 → Runs .startDeadline s fun t => t = { s with msix := t.msix, edge := t.edge }) :=
  ⟨fun h => runs_finish (congrArg (finish s) (if_pos h)) ha (failStart_left s s (by decide)),
    fun h => runs_finish (congrArg (finish s) (if_neg h)) ha rfl⟩

theorem host_resets {c : HostCmd} (hstart : startable s ocReset = some c) (harg : c.num 8 4 = 0) :
    (c.mgmt = false → bitN (c.num 12 1) 0 = false → Runs .reset s fun t =>
      Statements.FullReset (done (stopLoad s) c 0) t 3) ∧
    (c.mgmt = true → Runs .reset s fun t => Statements.FullReset (done (stopLoad s) c 0) t 4) ∧
    (c.mgmt = false → bitN (c.num 12 1) 0 = true → Runs .reset s fun t =>
      (∀ a, isObj a = true → (∀ j ∈ s.loft.objs, ¬(objRec s j ≤ a ∧ a < objRec s j + 64)) →
          byteAt t a = kget (fun _ => 0) (granaryBytes s) a) ∧ t.loft.objs = s.loft.objs ∧ t.loft.lines = []
        ∧ rsPhase t = 2 ∧ fld t Reg.RST_CAUSE Fld.RST_CAUSE_CAUSE = 3) := by
  have hact := resetOf_full (s := s) harg
  refine ⟨fun hm hk => ?_, fun hm => ?_, fun hm hk => ?_⟩
  · rw [hm, hk] at hact
    refine runs_hostCmd rfl ha hstart ?_
    rw [hact]
    exact fullReset_left (by decide) (by decide) s
  · rw [hm] at hact
    refine runs_hostCmd rfl ha hstart ?_
    rw [hact]
    exact fullReset_left (by decide) (by decide) s
  · rw [hm, hk] at hact
    have hform := (resetDone_completes s c).form
    have hmap := resetDone_sameMap s c
    have hkeep := fullReset_keeping (s := done (stopLoad s) c 0) (cause := rcHost) (by decide)
    have hbytes : granaryBytes (done (stopLoad s) c 0) = granaryBytes s := by rw [hform]; rfl
    have hobjs : (done (stopLoad s) c 0).loft.objs = s.loft.objs := by rw [hform]
    refine runs_hostCmd rfl ha hstart ?_
    rw [hact, show (if false = true then rcMgmt else rcHost) = rcHost from rfl, show (!false && true) = true from rfl, hkeep]
    have hloft (x : State) : (ended s x).loft = x.loft := rfl
    refine ⟨fun a ho hout => ?_, ?_, ?_, warmShown_phase _ _ _, warmShown_cause _ _ _ (by decide)⟩
    · refine (warmShown_byteAt _ _ _ a).trans ((objectsHome_byte rfl ho ?_).trans (by rw [hbytes]))
      intro j hj
      rw [hmap.objRec]
      exact hout j (hobjs ▸ hj)
    · rw [hloft, (warmShown_regsOnly _ _ _).loft, objectsHome_loft]
      exact hobjs
    · rw [hloft, (warmShown_regsOnly _ _ _).loft, objectsHome_loft]
      rfl

end

/-- Settles O52: what a full reset leaves is said once (`fullReset_left`, `failStart_left`), and then which event brings
it. -/
theorem fullResets : Obligations.FullResets :=
  ⟨por_resets, fun _ => mainPg_rises, fun _ ha => ⟨fun hp => (perst_released ha hp).1, fun hp => (perst_released ha hp).2,
    (watchdog_expires ha).1, (watchdog_expires ha).2.1, (watchdog_expires ha).2.2, fun _ => clock_fails ha,
    (start_expires ha).1, (start_expires ha).2, fun _ => host_resets ha⟩⟩

/-- Settles O53: the supplies and the trip drop the stores in progress, and PERST# acts by its mode. -/
theorem suppliesAndPins : Obligations.SuppliesAndPins := by
  refine fun s => ⟨fun hon => runs_finishAny rfl ?_, runs_finishAny rfl rfl, fun ha => runs_finishAny rfl ?_,
    fun hm => runs_finishAny rfl ?_, fun ha hm => runs_finishAny rfl ?_⟩
  · have hact : mainPgFall s = mapRst (dropStores s) fun r => { r with mainPg := false, ready := false } :=
      if_neg (by simp [hon])
    rw [hact]
    rfl
  · have hact : thermalTrip s = mapRst (dropStores s) fun r => { r with trip := true, trips := r.trips + 1 } := if_pos ha
    rw [hact]
    exact ⟨rfl, by simp [alive, ended, mapRst]⟩
  · have hact : perstAssert s = { s with rst := { s.rst with perst := true } } := 
      if_neg (show ¬(alive s && decide (perstMode s = 1)) = true by simp [hm])
    rw [hact]
    rfl
  · have hact : perstAssert s = hostPortReset { s with rst := { s.rst with perst := true } } :=
      if_pos (show (alive s && decide (perstMode s = 1)) = true by simp [ha, hm])
    rw [hact]
    refine ⟨rfl, rfl, rfl, hostPortReset_gone _, ⟨rfl, rfl⟩, fun a hh hne => ?_⟩
    exact (hostPortReset_reg _ hne).trans (if_pos hh)

end Sys2Proof.Settled
end

section
/-! PROOF. Staging and grafting, and how a trial ends (R576 to R583). -/

namespace Sys2Proof.Machine

/-! ## Commands that take effect at a frame boundary -/

/-- How a command that waits for a frame boundary leaves its effect `t` on state s. -/
def tickEnded (s t : State) : State := { t with pending := s.pending, msix := msixAfter s t }

theorem runs_finishTick {c : Instr} {s t : State} {P : State → Prop} (hc : exec c s = finishTick s t)
    (ha : alive s = true) (hp : P (tickEnded s t)) : Runs c s P :=
  ⟨_, hc.trans (by rw [finishTick, if_pos ha, finishEdge, ← tickEnded]), hp⟩

/-! ## What firmware work leaves unchanged -/

/-- The registers that show which image is active and which is staged. -/
def roleRegs : List Nat := [Reg.FWM_STATUS, Reg.FWM_SCION, Reg.FWM_GRAFTS, Reg.FWM_FALLBACKS]

/-- The roles of the images stand: of firmware nothing but the measurement log differs, and the registers of the roles
read as before; memory is not touched. -/
structure RolesKept (s t : State) : Prop where
  form : t = { s with regs := t.regs, host := t.host, cellar := t.cellar, fwm := { s.fwm with log := t.fwm.log } }
  regs : ∀ a ∈ roleRegs, reg t a = reg s a

theorem RolesKept.trans {s t u : State} (h : RolesKept s t) (h' : RolesKept t u) : RolesKept s u :=
  ⟨by rw [h'.form, h.form], fun a ha => (h'.regs a ha).trans (h.regs a ha)⟩

theorem rolesKept_of_regs {s t : State} (hform : RegsOnly s t) (h : ∀ a ∈ roleRegs, reg t a = reg s a) : RolesKept s t :=
  ⟨by rw [hform], h⟩

theorem fld_mapFwm (s : State) (g : FwmSt → FwmSt) (a : Nat) (f : Fld) : fld (mapFwm s g) a f = fld s a f := rfl

theorem rolesKept_raise (s : State) (a m : Nat) (h : a ∉ roleRegs) : RolesKept s (raise s a m) :=
  rolesKept_of_regs rfl fun _ hb => reg_raise_ne s m fun hab => h (hab ▸ hb)

section
variable {s t : State} (h : RolesKept s t)
include h

theorem RolesKept.fld {a : Nat} (ha : a ∈ roleRegs) (f : Fld) : Machine.fld t a f = Machine.fld s a f :=
  fld_of_reg (h.regs a ha) f

theorem RolesKept.state : fwmState t = fwmState s := h.fld (by simp [roleRegs]) _

theorem RolesKept.fwm : t.fwm = { s.fwm with log := t.fwm.log } := congrArg State.fwm h.form

theorem RolesKept.memSame : MemSame s t := by rw [h.form]; exact ⟨rfl, rfl⟩

end

theorem complete_rolesKept (s : State) (h : Nat) (e : Compl) : RolesKept s (complete s h e) := by
  refine ⟨?_, fun a ha => complete_blocks s h e a ?_⟩
  · rw [(complete_completes s h e).form]
  · simp only [roleRegs, Reg.FWM_STATUS, Reg.FWM_SCION, Reg.FWM_GRAFTS, Reg.FWM_FALLBACKS, List.mem_cons,
      List.not_mem_nil, or_false] at ha ⊢
    omega

/-- A measurement extends the chain and the log: the chain's registers, the count and the summary alone change. -/
theorem measure_form (s : State) (type : Nat) (i : Option Image) (digest : List Byte) : measure s type i digest =
    { s with regs := (measure s type i digest).regs, fwm := { s.fwm with log := (measure s type i digest).fwm.log } } := by
  unfold measure
  dsimp only
  generalize bytesAt (shake256 _ 32) 0 32 = chain
  obtain ⟨regs, hregs⟩ : ∃ regs, setWords s (Reg.FWM_CHAIN 0) chain 8 = { s with regs := regs } := ⟨_, setWords_form _ _ _ _⟩
  rw [hregs]
  split <;> rfl

theorem measure_reg (s : State) (type : Nat) (i : Option Image) (digest : List Byte) {a : Nat}
    (hchain : a < Reg.FWM_CHAIN 0 ∨ Reg.FWM_CHAIN 0 + 32 ≤ a) (hcount : Reg.FWM_LOGCOUNT ≠ a) (hsum : Reg.FWM_INTSTAT ≠ a) :
    reg (measure s type i digest) a = reg s a := by
  unfold measure
  dsimp only
  generalize bytesAt (shake256 _ 32) 0 32 = chain
  have hwords : reg (bump (setWords s (Reg.FWM_CHAIN 0) chain 8) Reg.FWM_LOGCOUNT 1) a = reg s a := by
    rw [reg_bump_ne _ _ hcount, setWords_ne _ _ _ _ hchain]
  generalize bump (setWords s (Reg.FWM_CHAIN 0) chain 8) Reg.FWM_LOGCOUNT 1 = u at hwords ⊢
  split
  · exact hwords
  · rw [reg_raise_ne _ _ hsum, hwords]

theorem measure_rolesKept (s : State) (type : Nat) (i : Option Image) (digest : List Byte) :
    RolesKept s (measure s type i digest) := by
  refine ⟨by rw [measure_form], fun a ha => ?_⟩
  simp only [roleRegs, List.mem_cons, List.not_mem_nil, or_false] at ha
  obtain rfl | rfl | rfl | rfl := ha <;> exact measure_reg s _ _ _ (by decide) (by decide) (by decide)

theorem measureImage_rolesKept (s : State) (type : Nat) (i : Option Image) : RolesKept s (measureImage s type i) :=
  measure_rolesKept s _ _ _

theorem measureImage_form (s : State) (type : Nat) (i : Option Image) : measureImage s type i =
    { s with regs := (measureImage s type i).regs, fwm := { s.fwm with log := (measureImage s type i).fwm.log } } :=
  measure_form s _ _ _

/-- Nothing but the Cellar differs. -/
def CellarOnly (s t : State) : Prop := t = { s with cellar := t.cellar }

theorem CellarOnly.trans {s t u : State} (h : CellarOnly s t) (h' : CellarOnly t u) : CellarOnly s u := by
  unfold CellarOnly at *
  rw [h', h]

theorem queueStore_cellarOnly (s : State) (r : StoreReq) : CellarOnly s (queueStore s r) := rfl

theorem CellarOnly.foldl {α : Type} {f : State → α → State} (hf : ∀ s x, CellarOnly s (f s x)) (xs : List α) (s : State) :
    CellarOnly s (xs.foldl f s) :=
  List.foldlRecOn (motive := fun t => CellarOnly s t) xs f rfl fun _ h x _ => h.trans (hf _ x)

theorem CellarOnly.rolesKept {s t : State} (h : CellarOnly s t) : RolesKept s t :=
  ⟨by rw [h], fun _ _ => by rw [h]; rfl⟩

theorem closeMigration_cellarOnly (s : State) (i : Image) : CellarOnly s (closeMigration s i) := by
  unfold closeMigration
  dsimp only
  split
  · rfl
  · split
    · exact queueStore_cellarOnly s _
    · exact (CellarOnly.foldl (fun s x => queueStore_cellarOnly s _) _ s).trans (queueStore_cellarOnly _ _)

theorem migrate585_cellarOnly (s : State) (i : Image) : CellarOnly s (migrate585 s i) := by
  unfold migrate585
  dsimp only
  split
  · rfl
  · exact (queueStore_cellarOnly s _).trans (CellarOnly.foldl (fun s x => queueStore_cellarOnly s _) _ _)

theorem meetRecords_rolesKept (s : State) (i : Image) : RolesKept s (meetRecords s i) := by
  unfold meetRecords
  dsimp only
  refine .trans (closeMigration_cellarOnly s i).rolesKept (.trans ?_ (migrate585_cellarOnly _ i).rolesKept)
  split
  · exact rolesKept_raise _ _ _ (by decide)
  · exact ⟨rfl, fun _ _ => rfl⟩

/-! ## What a firmware command shows of its end (R577) -/

/-- The end of a firmware command that fails: its code, and the event of the codes 1 to 9. -/
def fwmRefused (s : State) (code : Nat) : State :=
  if 1 ≤ code && code ≤ 9 then raise (setFwm s Fld.FWM_STATUS_LASTERR code) Reg.FWM_INTSTAT Fld.FWM_INTSTAT_REFUSED.bit
  else setFwm s Fld.FWM_STATUS_LASTERR code

theorem fwmEnd_ok (s : State) (h : Nat) : fwmEnd s h 0 = complete s h { status := 0, detail := 0 } := rfl

theorem fwmEnd_ok_rolesKept (s : State) (h : Nat) : RolesKept s (fwmEnd s h 0) := by
  rw [fwmEnd_ok]
  exact complete_rolesKept s h _

theorem fwmEnd_refused (s : State) (h : Nat) {code : Nat} (hne : code ≠ 0) :
    fwmEnd s h code = complete (fwmRefused s code) h { status := 0, detail := code } := by
  unfold fwmEnd fwmRefused
  rw [if_neg hne]

theorem fwmRefused_form (s : State) (code : Nat) : RegsOnly s (fwmRefused s code) := by
  unfold fwmRefused
  split <;> rfl

/-- The field of FWM_STATUS that a refusal does not write. -/
theorem fwmRefused_status (s : State) (code : Nat) {f : Fld} (hf : f.lo ≤ f.hi) (hd : f.hi < 8) :
    fld (fwmRefused s code) Reg.FWM_STATUS f = fld s Reg.FWM_STATUS f := by
  have hset : fld (setFwm s Fld.FWM_STATUS_LASTERR code) Reg.FWM_STATUS f = fld s Reg.FWM_STATUS f :=
    fld_setFld_ne _ _ _ _ _ (by decide) (by decide) hf (.inl hd)
  unfold fwmRefused
  split
  · exact (fld_of_reg (reg_raise_ne _ _ (by decide)) _).trans hset
  · exact hset

theorem fwmRefused_lasterr (s : State) {code : Nat} (h : code < 256) :
    fld (fwmRefused s code) Reg.FWM_STATUS Fld.FWM_STATUS_LASTERR = code := by
  have hset : fld (setFwm s Fld.FWM_STATUS_LASTERR code) Reg.FWM_STATUS Fld.FWM_STATUS_LASTERR = code :=
    (fld_setFld _ _ _ _ (by decide) (by decide)).trans (Nat.mod_eq_of_lt h)
  unfold fwmRefused
  split
  · exact (fld_of_reg (reg_raise_ne _ _ (by decide)) _).trans hset
  · exact hset

/-- A command that is refused is over with its code, and the roles of the images stand. -/
theorem fwmEnd_over {s : State} {c : HostCmd} {code : Nat} (hfind : findCmd s c.handle = some c) (hgone : c.gone = false) :
    Statements.Completed (fwmEnd s c.handle code) c 0 code := by
  by_cases hc : code = 0
  · rw [hc, fwmEnd_ok]
    exact complete_completed hfind hgone _
  · rw [fwmEnd_refused s _ hc]
    refine complete_completed ?_ hgone { status := 0, detail := code }
    rw [findCmd, (fwmRefused_form s code).host]
    exact hfind

theorem fwmEnd_findCmd (s : State) (h code : Nat) : findCmd (fwmEnd s h code) h = none := by
  by_cases hc : code = 0
  · rw [hc, fwmEnd_ok]
    exact findCmd_complete s h _
  · rw [fwmEnd_refused s h hc]
    exact findCmd_complete _ h _

/-- The end of a firmware command changes registers and the host's commands alone. -/
theorem fwmEnd_form (s : State) (h code : Nat) :
    fwmEnd s h code = { s with regs := (fwmEnd s h code).regs, host := (fwmEnd s h code).host } := by
  by_cases hc : code = 0
  · rw [hc, fwmEnd_ok]
    exact (complete_completes s h _).form
  · rw [fwmEnd_refused s h hc, (complete_completes _ h _).form, fwmRefused_form s code]

theorem fwmEnd_fwm (s : State) (h code : Nat) : (fwmEnd s h code).fwm = s.fwm := by rw [fwmEnd_form]

theorem fwmEnd_state (s : State) (h code : Nat) : fwmState (fwmEnd s h code) = fwmState s := by
  by_cases hc : code = 0
  · rw [hc, fwmEnd_ok]
    exact (complete_rolesKept s h _).state
  · rw [fwmEnd_refused s h hc]
    exact (complete_rolesKept _ h _).state.trans (fwmRefused_status s code (by decide) (by decide))

theorem fwmEnd_lasterr (s : State) (h : Nat) {code : Nat} (hne : code ≠ 0) (hlt : code < 256) :
    fld (fwmEnd s h code) Reg.FWM_STATUS Fld.FWM_STATUS_LASTERR = code := by
  rw [fwmEnd_refused s h hne]
  exact ((complete_rolesKept _ h _).fld (by decide) _).trans (fwmRefused_lasterr s hlt)

theorem fwmEnd_event (s : State) (h : Nat) {code : Nat} (hlo : 1 ≤ code) (hhi : code ≤ 9) :
    fld (fwmEnd s h code) Reg.FWM_INTSTAT Fld.FWM_INTSTAT_REFUSED = 1 := by
  rw [fwmEnd_refused s h (by omega)]
  refine ((complete_blocks _ h _).fld (a := Reg.FWM_INTSTAT) (by decide) _).trans ?_
  rw [fwmRefused, if_pos (by simp [hlo, hhi])]
  exact fld_raise _ _ 4 (by decide)

theorem verify573_lt (s : State) (slot : Nat) : (verify573 s slot).1 < 256 := by
  unfold verify573
  dsimp only
  split
  · exact (by decide : fcBadsig < 256)
  · split
    · exact (by decide : fcBadhash < 256)
    · split
      · exact (by decide : fcRollback < 256)
      · exact (by decide : 0 < 256)

theorem scionCode_lt (s : State) (slot : Nat) (ok : Bool) : scionCode s slot ok < 256 := by
  have hv := verify573_lt s slot
  unfold scionCode
  dsimp only
  split
  · exact hv
  · split
    · decide
    · split
      · decide
      · split <;> decide

/-! ## The processors change places (R579, R582) -/

theorem showRun_form (s : State) : RegsOnly s (showRun s) := by
  unfold showRun
  split
  · rfl
  · exact (((regsOnly_setFld _ _ _ _).trans (regsOnly_setFld _ _ _ _)).trans (regsOnly_setRegN _ _ _)).trans
      (regsOnly_setFld _ _ _ _)

theorem showRun_activeMp (s : State) :
    fld (showRun s) Reg.FWM_STATUS Fld.FWM_STATUS_ACTIVEMP = fld s Reg.FWM_STATUS Fld.FWM_STATUS_ACTIVEMP := by
  unfold showRun
  split
  · rfl
  · refine (fld_setFld_ne _ _ _ _ _ (by decide) (by decide) (by decide) (by decide)).trans (fld_of_reg ?_ _)
    rw [reg_setRegN_ne _ _ (by decide), reg_setFld_ne _ _ _ (by decide), reg_setFld_ne _ _ _ (by decide)]

theorem showRun_reg (s : State) {a : Nat} (h : a ≠ Reg.FWM_VERSION ∧ a ≠ Reg.FWM_SVN ∧ a ≠ Reg.FWM_STATUS) :
    reg (showRun s) a = reg s a := by
  obtain ⟨hv, hs, hst⟩ := h
  unfold showRun
  split
  · rfl
  · unfold setFwm
    rw [reg_setFld_ne _ _ _ hst.symm, reg_setRegN_ne _ _ hs.symm, reg_setFld_ne _ _ _ hv.symm, reg_setFld_ne _ _ _ hv.symm]

theorem swapRoles_form (s : State) : swapRoles s =
    { s with regs := (swapRoles s).regs, fwm := { s.fwm with run := s.fwm.other, other := s.fwm.run } } := by
  have h : RegsOnly (mapFwm (setFwm s Fld.FWM_STATUS_ACTIVEMP (1 - fld s Reg.FWM_STATUS Fld.FWM_STATUS_ACTIVEMP)) fun x =>
      { x with run := x.other, other := x.run }) (swapRoles s) := (regsOnly_setReg64 _ _ _).trans (showRun_form _)
  exact h.trans rfl

theorem swapRoles_activeMp (s : State) :
    fld (swapRoles s) Reg.FWM_STATUS Fld.FWM_STATUS_ACTIVEMP = 1 - fld s Reg.FWM_STATUS Fld.FWM_STATUS_ACTIVEMP := by
  unfold swapRoles
  dsimp only
  rw [showRun_activeMp]
  refine (fld_of_reg (reg_setReg64_ne _ _ (by decide) (by decide)) _).trans ?_
  refine (fld_setFld s Reg.FWM_STATUS Fld.FWM_STATUS_ACTIVEMP _ (by decide) (by decide)).trans (Nat.mod_eq_of_lt ?_)
  exact Nat.lt_of_le_of_lt (Nat.sub_le _ _) (by decide)

theorem swapRoles_reg (s : State) {a : Nat} (h : a = Reg.FWM_GRAFTS ∨ a = Reg.FWM_FALLBACKS) :
    reg (swapRoles s) a = reg s a := by
  unfold swapRoles
  dsimp only
  obtain rfl | rfl := h
  all_goals
    rw [showRun_reg _ (by decide), reg_setReg64_ne _ _ (by decide) (by decide)]
    exact reg_setFld_ne s _ _ (by decide)


/-! ## The commands (R576 to R583) -/

theorem abandonOf_staged {s : State} (c : HostCmd) (h : fwmState s = fwsStaged) : abandonOf s c =
    fwmEnd (mapFwm (showScion (setFwm s Fld.FWM_STATUS_STATE fwsNone) none) fun x => { x with other := none }) c.handle 0 :=
  if_pos h

theorem abandonOf_trial {s : State} (c : HostCmd) (h : fwmState s = fwsTrial) (hc : s.fwm.confirming = false) :
    abandonOf s c = fwmEnd (orderFallback s) c.handle 0 := by
  rw [abandonOf, if_neg (by rw [h]; decide), if_pos (by simp [h, hc])]

theorem abandonOf_refused {s : State} (c : HostCmd) (hs : fwmState s ≠ fwsStaged)
    (ht : fwmState s ≠ fwsTrial ∨ s.fwm.confirming = true) : abandonOf s c = fwmEnd s c.handle fcState := by
  rw [abandonOf, if_neg hs, if_neg]
  rcases ht with ht | ht <;> simp [ht]

theorem orderFallback_trial {s : State} (h : fwmState s = fwsTrial) (hc : s.fwm.confirming = false) :
    orderFallback s = mapFwm s fun x => { x with fallDue := true } :=
  if_pos (by simp [h, hc])

theorem graftOf_waits {s : State} (c : HostCmd) (h : fwmState s = fwsStaged) (hg : s.fwm.graft = none) :
    graftOf s c = mapFwm (setRunning s c 0) fun x => { x with graft := some c.handle } :=
  if_pos (by simp [h, hg])

theorem graftOf_refused {s : State} (c : HostCmd) (h : ¬(fwmState s = fwsStaged ∧ s.fwm.graft = none)) :
    graftOf s c = fwmEnd s c.handle (if fwmState s = fwsNone then fcState else fcBusy) :=
  if_neg (by simpa using h)

/-- The ROLLBACK record that SELECT asks for names an image. -/
def rollbackAsked (s : State) (i : Image) (h : Nat) : State := queueStore s
  { kind := ckRollback, version := cellVersion s ckRollback, body := rollbackBody s i, handle := some h }

/-- A slot whose image passed every check is staged. -/
def imageStaged (s : State) (slot : Nat) : State :=
  mapFwm (setFwm (mapFwm s fun x => { x with staging := none }) Fld.FWM_STATUS_STATE fwsStaged) fun x =>
    { x with other := some (verify573 s slot).2 }

theorem imageStaged_state (s : State) (slot : Nat) : fwmState (imageStaged s slot) = fwsStaged := by
  rw [fwmState, imageStaged, fld_mapFwm, setFwm]
  exact fld_setFld _ _ _ _ (by decide) (by decide)

theorem stageComplete_bad {s : State} {h slot : Nat} {ok : Bool} (hst : s.fwm.staging = some (h, slot))
    (hcode : scionCode s slot ok ≠ 0) : stageComplete s ok =
      fwmEnd (setFwm (mapFwm s fun x => { x with staging := none }) Fld.FWM_STATUS_STATE fwsNone) h (scionCode s slot ok) := by
  unfold stageComplete
  rw [hst]
  exact if_pos hcode

theorem stageComplete_good {s : State} {h slot : Nat} {ok : Bool} (hst : s.fwm.staging = some (h, slot))
    (hcode : scionCode s slot ok = 0) : stageComplete s ok =
      fwmEnd (raise (measureImage (showScion (imageStaged s slot) (some (verify573 s slot).2)) mtStage
        (some (verify573 s slot).2)) Reg.FWM_INTSTAT Fld.FWM_INTSTAT_STAGED.bit) h 0 := by
  unfold stageComplete
  rw [hst]
  exact if_neg (by simp [hcode])

/-- At the boundary of a graft the trial begins: the image that ran stands by. -/
def trialBegun (s : State) : State :=
  mapFwm (setFwm (showScion (swapRoles s) none) Fld.FWM_STATUS_STATE fwsTrial) fun x => { x with
    graft := none, rounds := 0, fallDue := false, confirming := false, since := []
    left := 1000000 * fld (setFwm (showScion (swapRoles s) none) Fld.FWM_STATUS_STATE fwsTrial) Reg.FWM_GRAFTCFG
      Fld.FWM_GRAFTCFG_WINDOW }

theorem trialBegun_reg (s : State) (a : Nat) : reg (trialBegun s) a =
    reg (setFwm (showScion (swapRoles s) none) Fld.FWM_STATUS_STATE fwsTrial) a := rfl

theorem trialBegun_form (s : State) : trialBegun s = { s with regs := (trialBegun s).regs, fwm := { s.fwm with
    run := s.fwm.other, other := s.fwm.run, graft := none, rounds := 0, fallDue := false, confirming := false, since := []
    left := (trialBegun s).fwm.left } } := by
  have h : RegsOnly (swapRoles s) (setFwm (showScion (swapRoles s) none) Fld.FWM_STATUS_STATE fwsTrial) := rfl
  unfold trialBegun mapFwm
  rw [h, swapRoles_form]

theorem trialBegun_state (s : State) : fwmState (trialBegun s) = fwsTrial :=
  (fld_of_reg (trialBegun_reg s _) _).trans
    (fld_setFld (showScion (swapRoles s) none) Reg.FWM_STATUS _ fwsTrial (by decide) (by decide))

theorem trialBegun_activeMp (s : State) : fld (trialBegun s) Reg.FWM_STATUS Fld.FWM_STATUS_ACTIVEMP
    = 1 - fld s Reg.FWM_STATUS Fld.FWM_STATUS_ACTIVEMP := by
  rw [fld_of_reg (trialBegun_reg s _), setFwm, fld_setFld_ne _ _ _ _ _ (by decide) (by decide) (by decide) (by decide),
    showScion,
    fld_of_reg (reg_setRegN_ne _ _ (by decide)), swapRoles_activeMp]

theorem trialBegun_grafts (s : State) : regN (trialBegun s) Reg.FWM_GRAFTS = regN s Reg.FWM_GRAFTS := by
  refine regN_of_reg ((trialBegun_reg s _).trans ?_)
  rw [setFwm, reg_setFld_ne _ _ _ (by decide), showScion, reg_setRegN_ne _ _ (by decide), swapRoles_reg s (.inl rfl)]

theorem handOver_atBoundary {s : State} {h : Nat} {i : Image} (hg : s.fwm.graft = some h) (hi : s.fwm.other = some i)
    (hb : atBoundary s = true) (hst : s.cellar.stores = []) (hp : ∀ p ∈ s.rst.parts, p.stage = 0)
    (hw : s.rst.waking = false) : handOver s =
      fwmEnd (meetRecords (measureImage (raise (bump (trialBegun s) Reg.FWM_GRAFTS 1) Reg.FWM_INTSTAT
        Fld.FWM_INTSTAT_GRAFT.bit) mtGraft (some i)) i) h 0 := by
  unfold handOver
  rw [hg, hi]
  refine if_neg ?_
  simpa [hb, hst, hw] using hp

/-- At the boundary of a fallback the image that ran before is active again. -/
def fallenBack (s : State) : State :=
  mapFwm (setFwm (swapRoles s) Fld.FWM_STATUS_STATE fwsNone) fun x => { x with other := none, fallDue := false, since := [] }

theorem fallenBack_reg (s : State) (a : Nat) :
    reg (fallenBack s) a = reg (setFwm (swapRoles s) Fld.FWM_STATUS_STATE fwsNone) a := rfl

theorem fallenBack_form (s : State) : fallenBack s = { s with regs := (fallenBack s).regs, fwm := { s.fwm with
    run := s.fwm.other, other := none, fallDue := false, since := [] } } := by
  have h : RegsOnly (swapRoles s) (setFwm (swapRoles s) Fld.FWM_STATUS_STATE fwsNone) := rfl
  unfold fallenBack mapFwm
  rw [h, swapRoles_form]

theorem fallenBack_state (s : State) : fwmState (fallenBack s) = fwsNone :=
  (fld_of_reg (fallenBack_reg s _) _).trans (fld_setFld (swapRoles s) Reg.FWM_STATUS _ fwsNone (by decide) (by decide))

theorem fallenBack_activeMp (s : State) : fld (fallenBack s) Reg.FWM_STATUS Fld.FWM_STATUS_ACTIVEMP
    = 1 - fld s Reg.FWM_STATUS Fld.FWM_STATUS_ACTIVEMP := by
  rw [fld_of_reg (fallenBack_reg s _), setFwm, fld_setFld_ne _ _ _ _ _ (by decide) (by decide) (by decide) (by decide),
    swapRoles_activeMp]

theorem fallenBack_count (s : State) : regN (fallenBack s) Reg.FWM_FALLBACKS = regN s Reg.FWM_FALLBACKS := by
  refine regN_of_reg ((fallenBack_reg s _).trans ?_)
  rw [setFwm, reg_setFld_ne _ _ _ (by decide), swapRoles_reg s (.inr rfl)]

/-- An image that becomes active meets the Cellar. -/
def metBy (s : State) : Option Image → State
  | some i => meetRecords s i
  | none => s

theorem metBy_rolesKept (s : State) (i : Option Image) : RolesKept s (metBy s i) := by
  cases i with
  | none => exact ⟨rfl, fun _ _ => rfl⟩
  | some i => exact meetRecords_rolesKept s i

/-- A fallback with no command accepted since the trial began. -/
theorem fallback_atBoundary {s : State} (hd : s.fwm.fallDue = true) (ht : fwmState s = fwsTrial) (hb : atBoundary s = true)
    (hs : s.fwm.since = []) : ∃ i, fallback s = metBy (measureImage (raise (bump (fallenBack s) Reg.FWM_FALLBACKS 1)
      Reg.FWM_INTSTAT Fld.FWM_INTSTAT_FALLBACK.bit) mtFallback i) i := by
  have hkept := fun i => (measureImage_rolesKept (raise (bump (fallenBack s) Reg.FWM_FALLBACKS 1) Reg.FWM_INTSTAT
    Fld.FWM_INTSTAT_FALLBACK.bit) mtFallback i).form
  have hrun (i : Option Image) : (measureImage (raise (bump (fallenBack s) Reg.FWM_FALLBACKS 1) Reg.FWM_INTSTAT
      Fld.FWM_INTSTAT_FALLBACK.bit) mtFallback i).fwm.run = (fallenBack s).fwm.run := by rw [hkept]; rfl
  refine ⟨(fallenBack s).fwm.run, ?_⟩
  unfold fallback
  rw [if_neg (by simp [hd, ht, hb]), hs]
  refine Eq.trans ?_ (congrArg (metBy _) (hrun (fallenBack s).fwm.run))
  rfl

end Sys2Proof.Machine

namespace Sys2Proof.Settled

open Sys2Proof.Machine

section
variable {s : State} {c : HostCmd} (ha : alive s = true) (hs : Statements.Starts s ocStage c)
include ha hs

theorem stage_begins (hn : fwmState s = fwsNone) (hslot : (s.fwm.run.map (·.slot)) ≠ some (c.num 8 1 % 2)) :
    Runs .stage s fun t => fwmState t = fwsStaging ∧ t.fwm = { s.fwm with staging := some (c.handle, c.num 8 1 % 2) }
      ∧ findCmd t c.handle = some { c with state := 2 } ∧ RegsBut s t [Reg.FWM_STATUS] ∧ MemSame s t := by
  obtain ⟨hstart, hfind, -⟩ := hs
  have hact : stageCmd s c = mapFwm (setFwm (setRunning s c 0) Fld.FWM_STATUS_STATE fwsStaging)
      fun x => { x with staging := some (c.handle, c.num 8 1 % 2) } := by
    unfold stageCmd
    dsimp only
    rw [if_neg (not_not.2 hn), if_neg hslot]
  refine runs_hostCmd rfl ha hstart ?_
  have hfound := findCmd_setRunning hfind 0
  rw [hact, setRunning_form] at *
  exact ⟨fld_setFld _ _ _ _ (by decide) (by decide), rfl, hfound,
    fun a h => reg_setFld_ne s _ _ fun heq => h (List.mem_singleton.2 heq.symm), rfl, rfl⟩

theorem stage_busy (hn : fwmState s ≠ fwsNone) : Runs .stage s fun t =>
    Statements.Completed t c 0 fcBusy ∧ t.fwm = s.fwm ∧ fwmState t = fwmState s := by
  obtain ⟨hstart, hfind, hgone⟩ := hs
  refine runs_hostCmd rfl ha hstart ?_
  rw [show stageCmd s c = fwmEnd s c.handle fcBusy from if_pos hn]
  exact ⟨fwmEnd_over hfind hgone, fwmEnd_fwm s _ _, fwmEnd_state s _ _⟩

theorem stage_wrongSlot (hn : fwmState s = fwsNone) (hslot : (s.fwm.run.map (·.slot)) = some (c.num 8 1 % 2)) :
    Runs .stage s fun t => Statements.Completed t c 0 fcSlot ∧ t.fwm = s.fwm
      ∧ fld t Reg.FWM_STATUS Fld.FWM_STATUS_LASTERR = fcSlot ∧ fld t Reg.FWM_INTSTAT Fld.FWM_INTSTAT_REFUSED = 1 := by
  obtain ⟨hstart, hfind, hgone⟩ := hs
  have hact : stageCmd s c = fwmEnd s c.handle fcSlot := by
    unfold stageCmd
    dsimp only
    rw [if_neg (not_not.2 hn), if_pos hslot]
  refine runs_hostCmd rfl ha hstart ?_
  rw [hact]
  exact ⟨fwmEnd_over hfind hgone, fwmEnd_fwm s _ _, fwmEnd_lasterr s _ (by decide) (by decide),
    fwmEnd_event s _ (by decide) (by decide)⟩

end

section
variable {s : State} (ha : alive s = true)
include ha

theorem staging_passes {h slot : Nat} (hst : s.fwm.staging = some (h, slot)) (ok : Bool) (hcode : scionCode s slot ok = 0) :
    Runs (.stageComplete ok) s fun t => fwmState t = fwsStaged ∧ t.fwm.staging = none
      ∧ t.fwm.other = some (verify573 s slot).2 ∧ findCmd t h = none := by
  refine runs_finish rfl ha ?_
  rw [stageComplete_good hst hcode]
  have hstate : fwmState (showScion (imageStaged s slot) (some (verify573 s slot).2)) = fwsStaged :=
    (fld_of_reg (reg_setRegN_ne _ _ (by decide)) _).trans (imageStaged_state s slot)
  generalize hu : showScion (imageStaged s slot) (some (verify573 s slot).2) = u at hstate ⊢
  have hufwm : u.fwm = { s.fwm with staging := none, other := some (verify573 s slot).2 } := by rw [← hu]; rfl
  have hkept := ((measureImage_rolesKept u mtStage (some (verify573 s slot).2)).trans (rolesKept_raise _ Reg.FWM_INTSTAT
    Fld.FWM_INTSTAT_STAGED.bit (by decide))).trans (fwmEnd_ok_rolesKept _ h)
  have hover := fwmEnd_findCmd (raise (measureImage u mtStage (some (verify573 s slot).2)) Reg.FWM_INTSTAT
    Fld.FWM_INTSTAT_STAGED.bit) h 0
  generalize fwmEnd _ h 0 = v at hkept hover ⊢
  have hfwm := hkept.fwm
  rw [hufwm] at hfwm
  exact ⟨hkept.state.trans hstate, congrArg FwmSt.staging hfwm, congrArg FwmSt.other hfwm, hover⟩

theorem staging_fails {h slot : Nat} (hst : s.fwm.staging = some (h, slot)) (ok : Bool) (hcode : scionCode s slot ok ≠ 0) :
    Runs (.stageComplete ok) s fun t => fwmState t = fwsNone ∧ t.fwm = { s.fwm with staging := none } ∧ findCmd t h = none
      ∧ fld t Reg.FWM_STATUS Fld.FWM_STATUS_LASTERR = scionCode s slot ok := by
  refine runs_finish rfl ha ?_
  rw [stageComplete_bad hst hcode]
  have hstate : fwmState (setFwm (mapFwm s fun x => { x with staging := none }) Fld.FWM_STATUS_STATE fwsNone) = fwsNone :=
    fld_setFld (mapFwm s fun x => { x with staging := none }) Reg.FWM_STATUS _ fwsNone (by decide) (by decide)
  generalize hu : setFwm (mapFwm s fun x => { x with staging := none }) Fld.FWM_STATUS_STATE fwsNone = u at hstate ⊢
  have hufwm : u.fwm = { s.fwm with staging := none } := by rw [← hu]; rfl
  exact ⟨(fwmEnd_state u _ _).trans hstate, (fwmEnd_fwm u _ _).trans hufwm, fwmEnd_findCmd u _ _,
    fwmEnd_lasterr u _ hcode (scionCode_lt s slot ok)⟩

theorem graft_waits {c : HostCmd} (hs : Statements.Starts s ocGraft c) (h : fwmState s = fwsStaged)
    (hg : s.fwm.graft = none) : Runs .graft s fun t =>
      t.fwm = { s.fwm with graft := some c.handle } ∧ findCmd t c.handle = some { c with state := 2 } ∧ t.regs = s.regs := by
  obtain ⟨hstart, hfind, -⟩ := hs
  refine runs_hostCmd rfl ha hstart ?_
  have hfound := findCmd_setRunning hfind 0
  rw [graftOf_waits c h hg, setRunning_form] at *
  exact ⟨rfl, hfound, rfl⟩

theorem graft_refused {c : HostCmd} (hs : Statements.Starts s ocGraft c)
    (h : ¬(fwmState s = fwsStaged ∧ s.fwm.graft = none)) : Runs .graft s fun t =>
      Statements.Completed t c 0 (if fwmState s = fwsNone then fcState else fcBusy) ∧ t.fwm = s.fwm := by
  obtain ⟨hstart, hfind, hgone⟩ := hs
  refine runs_hostCmd rfl ha hstart ?_
  rw [graftOf_refused c h]
  exact ⟨fwmEnd_over hfind hgone, fwmEnd_fwm s _ _⟩

theorem graft_handsOver {h : Nat} {i : Image} (hg : s.fwm.graft = some h) (hi : s.fwm.other = some i)
    (hb : atBoundary s = true) (hst : s.cellar.stores = []) (hp : ∀ p ∈ s.rst.parts, p.stage = 0)
    (hw : s.rst.waking = false) : Runs .graftHandover s fun t =>
      fwmState t = fwsTrial ∧ t.fwm.run = some i ∧ t.fwm.other = s.fwm.run ∧ t.fwm.graft = none ∧ t.fwm.rounds = 0
        ∧ fld t Reg.FWM_STATUS Fld.FWM_STATUS_ACTIVEMP = 1 - fld s Reg.FWM_STATUS Fld.FWM_STATUS_ACTIVEMP
        ∧ regN t Reg.FWM_GRAFTS = min (regN s Reg.FWM_GRAFTS + 1) 0xFFFFFFFF ∧ findCmd t h = none ∧ MemSame s t := by
  refine runs_finishTick rfl ha ?_
  rw [handOver_atBoundary hg hi hb hst hp hw]
  have htrial := trialBegun_state s
  have hactive := trialBegun_activeMp s
  have hgrafts := trialBegun_grafts s
  have hform := trialBegun_form s
  generalize hu : raise (bump (trialBegun s) Reg.FWM_GRAFTS 1) Reg.FWM_INTSTAT Fld.FWM_INTSTAT_GRAFT.bit = u
  have hustatus : reg u Reg.FWM_STATUS = reg (trialBegun s) Reg.FWM_STATUS := by
    rw [← hu, reg_raise_ne _ _ (by decide), reg_bump_ne _ _ (by decide)]
  have hugrafts : regN u Reg.FWM_GRAFTS = min (regN s Reg.FWM_GRAFTS + 1) 0xFFFFFFFF := by
    rw [← hu, regN_of_reg (reg_raise_ne _ _ (by decide)), regN_bump, hgrafts]
  have hkept : RolesKept u (fwmEnd (meetRecords (measureImage u mtGraft (some i)) i) h 0) :=
    ((measureImage_rolesKept u mtGraft (some i)).trans (meetRecords_rolesKept _ i)).trans
      (fwmEnd_ok_rolesKept _ h)
  have hover := fwmEnd_findCmd (meetRecords (measureImage u mtGraft (some i)) i) h 0
  generalize fwmEnd (meetRecords (measureImage u mtGraft (some i)) i) h 0 = v at hkept hover ⊢
  have hurole : RegsOnly (trialBegun s) u := by rw [← hu]; rfl
  have hlog := hkept.fwm
  rw [hurole.fwm, hform] at hlog
  have hmem : MemSame s u := by
    have h : MemSame s (trialBegun s) := by rw [hform]; exact ⟨rfl, rfl⟩
    exact ⟨hurole.memSame.1.trans h.1, hurole.memSame.2.trans h.2⟩
  exact ⟨hkept.state.trans ((fld_of_reg hustatus _).trans htrial), (congrArg FwmSt.run hlog).trans hi,
    congrArg FwmSt.other hlog, congrArg FwmSt.graft hlog, congrArg FwmSt.rounds hlog,
    (hkept.fld (by decide) _).trans ((fld_of_reg hustatus _).trans hactive),
    (regN_of_reg (hkept.regs _ (by decide))).trans hugrafts, hover,
    hkept.memSame.1.trans hmem.1, hkept.memSame.2.trans hmem.2⟩

end

theorem statements_stageAndGraft : Statements.StageAndGraft := fun _ ha =>
  ⟨fun _ => stage_begins ha, fun _ => stage_busy ha, fun _ => stage_wrongSlot ha,
    fun _ _ hst ok => ⟨staging_passes ha hst ok, staging_fails ha hst ok⟩, fun _ => graft_waits ha,
    fun _ => graft_refused ha, fun _ _ => graft_handsOver ha⟩

section
variable {s : State} (ha : alive s = true)
include ha

theorem abandon_drops {c : HostCmd} (hs : Statements.Starts s ocAbandon c) (h : fwmState s = fwsStaged) :
    Runs .abandon s fun t => fwmState t = fwsNone ∧ t.fwm = { s.fwm with other := none } ∧ Statements.Completed t c 0 0
      ∧ regN t Reg.FWM_SCION = 0 := by
  obtain ⟨hstart, hfind, hgone⟩ := hs
  refine runs_hostCmd rfl ha hstart ?_
  rw [abandonOf_staged c h]
  have hstate : fwmState (mapFwm (showScion (setFwm s Fld.FWM_STATUS_STATE fwsNone) none) fun x => { x with other := none })
      = fwsNone := by
    rw [fwmState, fld_mapFwm, showScion, fld_of_reg (reg_setRegN_ne _ _ (by decide)), setFwm,
      fld_setFld _ _ _ _ (by decide) (by decide)]
    decide
  have hscion : regN (mapFwm (showScion (setFwm s Fld.FWM_STATUS_STATE fwsNone) none) fun x => { x with other := none })
      Reg.FWM_SCION = 0 := by
    refine Eq.trans (b := regN (showScion (setFwm s Fld.FWM_STATUS_STATE fwsNone) none) Reg.FWM_SCION) rfl ?_
    rw [showScion, regN_setRegN, if_pos rfl, Nat.zero_mod]
  exact ⟨(fwmEnd_state _ _ _).trans hstate, fwmEnd_fwm _ _ _, fwmEnd_over hfind hgone,
    (regN_of_reg ((fwmEnd_ok_rolesKept _ _).regs _ (by decide))).trans hscion⟩

theorem abandon_ordersFallback {c : HostCmd} (hs : Statements.Starts s ocAbandon c) (h : fwmState s = fwsTrial)
    (hc : s.fwm.confirming = false) : Runs .abandon s fun t =>
      t.fwm = { s.fwm with fallDue := true } ∧ Statements.Completed t c 0 0 := by
  obtain ⟨hstart, hfind, hgone⟩ := hs
  refine runs_hostCmd rfl ha hstart ?_
  rw [abandonOf_trial c h hc, orderFallback_trial h hc]
  exact ⟨fwmEnd_fwm _ _ _, fwmEnd_over hfind hgone⟩

theorem abandon_refused {c : HostCmd} (hs : Statements.Starts s ocAbandon c) (hst : fwmState s ≠ fwsStaged)
    (ht : fwmState s ≠ fwsTrial ∨ s.fwm.confirming = true) : Runs .abandon s fun t =>
      Statements.Completed t c 0 fcState ∧ t.fwm = s.fwm ∧ fwmState t = fwmState s := by
  obtain ⟨hstart, hfind, hgone⟩ := hs
  refine runs_hostCmd rfl ha hstart ?_
  rw [abandonOf_refused c hst ht]
  exact ⟨fwmEnd_over hfind hgone, fwmEnd_fwm s _ _, fwmEnd_state s _ _⟩

theorem select_fails {c : HostCmd} (hs : Statements.Starts s ocSelect c) {code : Nat}
    (hact : selectOf s c = fwmEnd s c.handle code) : Runs .select s fun t =>
      Statements.Completed t c 0 code ∧ t.cellar = s.cellar := by
  obtain ⟨hstart, hfind, hgone⟩ := hs
  refine runs_hostCmd rfl ha hstart ?_
  rw [hact]
  have hcellar : (fwmEnd s c.handle code).cellar = s.cellar := by rw [fwmEnd_form]
  exact ⟨fwmEnd_over hfind hgone, hcellar⟩

theorem select_stores {c : HostCmd} (hs : Statements.Starts s ocSelect c) (hn : fwmState s = fwsNone)
    (hv : (verify573 s (c.num 8 1 % 2)).1 = 0) : Runs .select s fun t =>
      findCmd t c.handle = some { c with state := 2 } ∧ ∃ q, t.cellar = { s.cellar with stores := s.cellar.stores ++ [q] }
        ∧ q.kind = ckRollback ∧ q.handle = some c.handle ∧ q.body = rollbackBody s (verify573 s (c.num 8 1 % 2)).2 := by
  obtain ⟨hstart, hfind, -⟩ := hs
  refine runs_hostCmd rfl ha hstart ?_
  have hact : selectOf s c = rollbackAsked (measureImage (setRunning s c 0) mtSelect (some (verify573 s (c.num 8 1 % 2)).2))
      (verify573 s (c.num 8 1 % 2)).2 c.handle := by
    unfold selectOf
    dsimp only
    rw [if_neg (not_not.2 hn), if_neg (not_not.2 hv)]
    rfl
  have hfound := findCmd_setRunning hfind 0
  rw [hact, measureImage_form, setRunning_form] at *
  exact ⟨hfound, _, rfl, rfl, rfl, rfl⟩

theorem confirm_stores {i : Image} (hrun : s.fwm.run = some i) (ht : fwmState s = fwsTrial)
    (hc : s.fwm.confirming = false) (hd : s.fwm.fallDue = false) (hr : 2 ≤ s.fwm.rounds) (hl : s.fwm.left ≠ 0) :
    Runs .fwmConfirm s fun t => t.fwm = { s.fwm with confirming := true } ∧ t.regs = s.regs ∧ ∃ x y,
      t.cellar = { s.cellar with stores := s.cellar.stores ++ [x, y] } ∧ x.kind = ckRollback ∧ x.body = rollbackBody s i
        ∧ y.kind = ckMigrate ∧ y.body = [] := by
  have hact : confirm s = mapFwm (deviceStore (deviceStore s ckRollback (rollbackBody s i)) ckMigrate [])
      fun x => { x with confirming := true } := by
    unfold confirm
    rw [hrun]
    exact if_neg (by simp [ht, hc, hd, hl]; omega)
  refine runs_finish rfl ha ?_
  rw [hact]
  exact ⟨rfl, rfl, _, _, congrArg (fun stores => { s.cellar with stores := stores }) (List.append_assoc _ [_] [_]),
    rfl, rfl, rfl, rfl⟩

theorem fallback_returns (hd : s.fwm.fallDue = true) (ht : fwmState s = fwsTrial) (hb : atBoundary s = true)
    (hs : s.fwm.since = []) : Runs .fallback s fun t =>
      fwmState t = fwsNone ∧ t.fwm.run = s.fwm.other ∧ t.fwm.other = none ∧ t.fwm.fallDue = false
        ∧ fld t Reg.FWM_STATUS Fld.FWM_STATUS_ACTIVEMP = 1 - fld s Reg.FWM_STATUS Fld.FWM_STATUS_ACTIVEMP
        ∧ regN t Reg.FWM_FALLBACKS = min (regN s Reg.FWM_FALLBACKS + 1) 0xFFFFFFFF ∧ MemSame s t := by
  obtain ⟨i, hi⟩ := fallback_atBoundary hd ht hb hs
  refine runs_finishTick rfl ha ?_
  rw [hi]
  have hform := fallenBack_form s
  generalize hu : raise (bump (fallenBack s) Reg.FWM_FALLBACKS 1) Reg.FWM_INTSTAT Fld.FWM_INTSTAT_FALLBACK.bit = u
  have hustatus : reg u Reg.FWM_STATUS = reg (fallenBack s) Reg.FWM_STATUS := by
    rw [← hu, reg_raise_ne _ _ (by decide), reg_bump_ne _ _ (by decide)]
  have hucount : regN u Reg.FWM_FALLBACKS = min (regN s Reg.FWM_FALLBACKS + 1) 0xFFFFFFFF := by
    rw [← hu, regN_of_reg (reg_raise_ne _ _ (by decide)), regN_bump, fallenBack_count]
  have hkept := (measureImage_rolesKept u mtFallback i).trans (metBy_rolesKept _ i)
  generalize metBy (measureImage u mtFallback i) i = v at hkept ⊢
  have hurole : RegsOnly (fallenBack s) u := by rw [← hu]; rfl
  have hlog := hkept.fwm
  rw [hurole.fwm, hform] at hlog
  have hmem : MemSame s u := by
    have h : MemSame s (fallenBack s) := by rw [hform]; exact ⟨rfl, rfl⟩
    exact ⟨hurole.memSame.1.trans h.1, hurole.memSame.2.trans h.2⟩
  exact ⟨hkept.state.trans ((fld_of_reg hustatus _).trans (fallenBack_state s)), congrArg FwmSt.run hlog,
    congrArg FwmSt.other hlog, congrArg FwmSt.fallDue hlog,
    (hkept.fld (by decide) _).trans ((fld_of_reg hustatus _).trans (fallenBack_activeMp s)),
    (regN_of_reg (hkept.regs _ (by decide))).trans hucount, hkept.memSame.1.trans hmem.1, hkept.memSame.2.trans hmem.2⟩

end

theorem statements_trialEnds : Statements.TrialEnds := fun s ha =>
  ⟨fun _ => abandon_drops ha, fun _ => abandon_ordersFallback ha, fun _ => abandon_refused ha,
    fun c hs hn hv => select_fails ha hs (by
      unfold selectOf
      dsimp only
      rw [if_neg (not_not.2 hn), if_pos hv]),
    fun _ => select_stores ha, fun _ hs hn => select_fails ha hs (if_pos hn), fun _ => confirm_stores ha,
    fun ht hc => runs_finish rfl ha (by rw [orderFallback_trial ht hc]; rfl),
    fun ht hc hl => runs_finish rfl ha (by rw [if_pos hl, orderFallback_trial ht hc]; rfl), fallback_returns ha⟩

/-- Settles O60: the end of a firmware command (`fwmEnd_over`) and what measuring and meeting the Cellar leave
(`RolesKept`) are said once. -/
theorem firmwareChange : Obligations.FirmwareChange := ⟨statements_stageAndGraft, statements_trialEnds⟩

end Sys2Proof.Settled
end

section
/-! PROOF. What the leader of a Floor does with the bursts it takes (R461, R476, R479, R480, R483, R486, R487). -/

namespace Sys2Proof.Machine

/-! ## The member bits (R476, R491) -/

/-- A field of FLR_STATUS other than the count of members stands when the members are counted. -/
theorem fld_syncNmem (s : State) {f : Fld} (hf : f.lo ≤ f.hi) (hd : f.hi < 19 ∨ 27 < f.lo) :
    fld (syncNmem s) Reg.FLR_STATUS f = fld s Reg.FLR_STATUS f :=
  fld_setFld_ne _ _ _ _ _ (by decide) (by decide) hf hd

theorem syncNmem_reg (s : State) {a : Nat} (h : a ≠ Reg.FLR_STATUS) : reg (syncNmem s) a = reg s a :=
  reg_setFld_ne _ _ _ h.symm

theorem regsOnly_syncNmem (s : State) : RegsOnly s (syncNmem s) := regsOnly_setFld s _ _ _

theorem isMember_of_reg {s t : State} {i : Nat} (h : reg t (Reg.FLR_MEMBERS (i / 32)) = reg s (Reg.FLR_MEMBERS (i / 32))) :
    isMember t i = isMember s i := by rw [isMember, isMember, regN_of_reg h]

theorem isMember_big (s : State) {i : Nat} (h : ¬i < 256) : isMember s i = false := by
  rw [isMember, decide_eq_false h, Bool.false_and]

theorem members_ne_status (j : Nat) : Reg.FLR_MEMBERS j ≠ Reg.FLR_STATUS := by
  simp only [Reg.FLR_MEMBERS, Reg.FLR_STATUS]
  omega

theorem regsOnly_setMember (s : State) (i : Nat) (v : Bool) : RegsOnly s (setMember s i v) :=
  (regsOnly_setRegN s _ _).trans (regsOnly_syncNmem _)

theorem setMember_regs (s : State) (i : Nat) (v : Bool) :
    RegsBut s (setMember s i v) [Reg.FLR_MEMBERS (i / 32), Reg.FLR_STATUS] := by
  intro a ha
  simp only [List.mem_cons, List.not_mem_nil, or_false, not_or] at ha
  obtain ⟨hm, hst⟩ := ha
  exact (syncNmem_reg _ hst).trans (reg_setRegN_ne _ _ (Ne.symm hm))

theorem fld_setMember (s : State) (i : Nat) (v : Bool) {f : Fld} (hf : f.lo ≤ f.hi) (hd : f.hi < 19 ∨ 27 < f.lo) :
    fld (setMember s i v) Reg.FLR_STATUS f = fld s Reg.FLR_STATUS f :=
  (fld_syncNmem _ hf hd).trans (fld_of_reg (reg_setRegN_ne _ _ (members_ne_status _)) _)

/-- The bit that is written. -/
theorem isMember_setMember_same (s : State) {i : Nat} (v : Bool) (h : i < 256) : isMember (setMember s i v) i = v := by
  have hword : regN (setMember s i v) (Reg.FLR_MEMBERS (i / 32)) =
      putBits (regN s (Reg.FLR_MEMBERS (i / 32))) (i % 32) (i % 32) (if v then 1 else 0) % 2 ^ 32 := by
    refine (regN_of_reg (syncNmem_reg _ (members_ne_status _))).trans ?_
    rw [regN_setRegN, if_pos rfl]
  have hbit (n : Nat) : bitN (n % 2 ^ 32) (i % 32) = bitN n (i % 32) := by
    rw [bitN_eq_testBit, bitN_eq_testBit, Nat.testBit_mod_two_pow, decide_eq_true (by omega), Bool.true_and]
  rw [isMember, hword, hbit, bitN_putBits_same, decide_eq_true h, Bool.true_and]
  cases v <;> rfl

/-- The other bits stand. -/
theorem isMember_setMember_ne (s : State) {i k : Nat} (v : Bool) (h : k ≠ i) :
    isMember (setMember s i v) k = isMember s k := by
  by_cases hw : k / 32 = i / 32
  · have hword : regN (setMember s i v) (Reg.FLR_MEMBERS (k / 32)) =
        putBits (regN s (Reg.FLR_MEMBERS (k / 32))) (i % 32) (i % 32) (if v then 1 else 0) % 2 ^ 32 := by
      refine (regN_of_reg (syncNmem_reg _ (members_ne_status _))).trans ?_
      rw [regN_setRegN, hw, if_pos rfl]
    have hbit (n : Nat) : bitN (n % 2 ^ 32) (k % 32) = bitN n (k % 32) := by
      rw [bitN_eq_testBit, bitN_eq_testBit, Nat.testBit_mod_two_pow, decide_eq_true (by omega), Bool.true_and]
    rw [isMember, hword, hbit, bitN_putBits_ne _ _ le_rfl (by omega), isMember]
  · refine isMember_of_reg (setMember_regs s i v _ ?_)
    simp only [List.mem_cons, List.not_mem_nil, or_false, not_or]
    refine ⟨fun heq => hw ?_, members_ne_status _⟩
    simp only [Reg.FLR_MEMBERS] at heq
    omega

theorem regsOnly_takeMembers (s : State) (bs : List Byte) : RegsOnly s (takeMembers s bs) :=
  (RegsOnly.foldl (fun _ _ => regsOnly_setRegN _ _ _) _ s).trans (regsOnly_syncNmem _)

theorem takeMembers_reg (s : State) (bs : List Byte) {a : Nat} (hs : a ≠ Reg.FLR_STATUS)
    (hm : a < Reg.FLR_MEMBERS 0 ∨ Reg.FLR_MEMBERS 0 + 32 ≤ a) : reg (takeMembers s bs) a = reg s a := by
  refine (syncNmem_reg _ hs).trans ?_
  refine List.foldlRecOn (motive := fun t => reg t a = reg s a) _ _ rfl fun t ht j hj => ?_
  refine (reg_setRegN_ne _ _ ?_).trans ht
  rw [List.mem_range] at hj
  simp only [Reg.FLR_MEMBERS] at hm ⊢
  omega

theorem fld_takeMembers (s : State) (bs : List Byte) {f : Fld} (hf : f.lo ≤ f.hi) (hd : f.hi < 19 ∨ 27 < f.lo) :
    fld (takeMembers s bs) Reg.FLR_STATUS f = fld s Reg.FLR_STATUS f := by
  refine (fld_syncNmem _ hf hd).trans (fld_of_reg ?_ _)
  exact List.foldlRecOn (motive := fun t => reg t Reg.FLR_STATUS = reg s Reg.FLR_STATUS) _ _ rfl fun t ht j _ =>
    (reg_setRegN_ne _ _ (members_ne_status j)).trans ht

theorem fidx_lt (s : State) : fidx s < 256 := Nat.mod_lt _ (by decide)

/-! ## Bursts taken (R461) -/

/-- A valid burst of the type that a command takes. -/
theorem hearBurst_valid {s : State} {kind : Nat} {bu : Burst} (act : State → State) (h : Statements.Heard s kind bu) :
    hearBurst kind bu act s = act s := by
  obtain ⟨-, hkind, hvalid, -⟩ := h
  have hcrc : crcGood bu = true := by
    simp only [burstValid, Bool.and_eq_true] at hvalid
    exact hvalid.1.1.2
  rw [hearBurst, if_neg (by simp [hcrc]), if_neg (by simp [hvalid]), if_pos hkind]

theorem runs_heard {c : Instr} {s : State} {kind : Nat} {bu : Burst} {act : State → State} {P : State → Prop}
    (hc : exec c s = finish s (hearBurst kind bu act s)) (h : Statements.Heard s kind bu) (hp : P (ended s (act s))) :
    Runs c s P :=
  runs_finish (hc.trans (by rw [hearBurst_valid act h])) h.1 hp

theorem joinValid_passes {s : State} {bu : Burst} (hl : flrState s = fsLeader) (h : joinFault s bu = none) :
    joinValid bu s = mapFloor (setMember s bu.fidx true) fun x =>
      { x with silent := kset (fun _ => 0) x.silent bu.fidx 0 } := by
  rw [joinValid, if_neg (not_not.2 hl), h]

theorem joinValid_refused {s : State} {bu : Burst} {r : Nat} (hl : flrState s = fsLeader) (h : joinFault s bu = some r) :
    joinValid bu s = mapFloor s fun x => { x with refusals := x.refusals ++ [(bu.src, r)] } := by
  rw [joinValid, if_neg (not_not.2 hl), h]

theorem reg_mapFloor (s : State) (g : FloorSt → FloorSt) (a : Nat) : reg (mapFloor s g) a = reg s a := rfl

theorem memSame_mapFloor {s t : State} (h : MemSame s t) (g : FloorSt → FloorSt) : MemSame s (mapFloor t g) := h

theorem isMember_mapFloor (s : State) (g : FloorSt → FloorSt) (i : Nat) : isMember (mapFloor s g) i = isMember s i :=
  isMember_of_reg (reg_mapFloor s g _)

theorem isMember_ended (s t : State) (i : Nat) : isMember (ended s t) i = isMember t i := isMember_of_reg (ended_reg s t _)

/-- Nothing but the Floor's own state differs. -/
def FloorOnly (s t : State) : Prop := t = { s with floor := t.floor }

section
variable {s t : State} (h : FloorOnly s t)
include h

theorem FloorOnly.reg (a : Nat) : Machine.reg t a = Machine.reg s a := by rw [h]; rfl
theorem FloorOnly.fld (a : Nat) (f : Fld) : Machine.fld t a f = Machine.fld s a f := fld_of_reg (h.reg a) f
theorem FloorOnly.wire : t.wire = s.wire := by rw [h]

theorem FloorOnly.timeSource (hroot : t.floor.broot = s.floor.broot) : Machine.timeSource t = Machine.timeSource s := by
  have hgw : isGateway t = isGateway s := by unfold isGateway; rw [h.fld]
  have hrootGw : isRootGw t = isRootGw s := by unfold isRootGw; rw [hgw, h.fld]
  have hparent : parentPort t = parentPort s := h.fld _ _
  have hup (p : Nat) : portUp t p = portUp s p := by unfold portUp portState; rw [h.fld]
  have hstate : flrState t = flrState s := h.fld _ _
  unfold Machine.timeSource
  rw [hstate, hrootGw, hroot, hgw, hparent, hup]

end

/-- An entry of the telemetry mirror. -/
def mirrorEntry (s : State) (bu : Burst) : List Byte :=
  leBytes 6 bu.frame ++ leBytes 1 bu.fidx ++ leBytes 1 1 ++ leBytes 3 bu.src ++ leBytes 1 0
    ++ leBytes 2 bu.payload.length ++ leBytes 2 0
    ++ leBytes 4 (leAt ((kfind s.host.mirror (bu.fidx % 256)).getD []) 16 4 + 2) ++ leBytes 44 0 ++ bytesAt bu.payload 0 448

theorem mirrorPut_eq (s : State) (bu : Burst) : mirrorPut s bu =
    { s with host := { s.host with mirror := aput s.host.mirror (bu.fidx % 256) (mirrorEntry s bu) } } := rfl

/-! ## The bytes of a beacon (R476) -/

theorem leNat_append (xs ys : List Byte) : leNat (xs ++ ys) = leNat xs + 256 ^ xs.length * leNat ys := by
  induction xs with
  | nil => simp [leNat]
  | cons x xs ih =>
    rw [List.cons_append, leNat, leNat, ih, List.length_cons, pow_succ']
    ring

/-- A field that stands behind other bytes. -/
theorem leAt_append_right {xs : List Byte} (ys : List Byte) {o : Nat} (n : Nat) (h : xs.length ≤ o) :
    leAt (xs ++ ys) o n = leAt ys (o - xs.length) n := by
  rw [leAt, leAt, List.drop_append, List.drop_of_length_le h, List.nil_append]

/-- A field that stands in front. -/
theorem leAt_append_self {xs : List Byte} (ys : List Byte) {n : Nat} (h : xs.length = n) : leAt (xs ++ ys) 0 n = leNat xs := by
  rw [leAt, List.drop_zero, ← h, List.take_left']
  rfl

section
variable (s : State) (bu : Burst)

theorem mirrorEntry_frame : leAt (mirrorEntry s bu) 0 6 = bu.frame % 2 ^ 48 := by
  simp only [mirrorEntry, List.append_assoc]
  rw [leAt_append_self _ (leBytes_length 6 _), leNat_leBytes]
  rfl

theorem mirrorEntry_fidx : leAt (mirrorEntry s bu) 6 1 = bu.fidx % 256 := by
  simp only [mirrorEntry, List.append_assoc]
  rw [leAt_append_right _ _ (leBytes_length 6 _).le, leBytes_length, leAt_append_self _ (leBytes_length 1 _), leNat_leBytes,
    pow_one]

theorem mirrorEntry_src : leAt (mirrorEntry s bu) 8 3 = bu.src % 2 ^ 24 := by
  simp only [mirrorEntry, List.append_assoc]
  rw [leAt_append_right _ _ (by rw [leBytes_length]; decide), leBytes_length,
    leAt_append_right _ _ (by rw [leBytes_length]; decide), leBytes_length,
    leAt_append_right _ _ (leBytes_length 1 _).le, leBytes_length, leAt_append_self _ (leBytes_length 3 _), leNat_leBytes]
  rfl

end

/-- Bit i of the words of the member registers, one after another. -/
theorem bitN_words (f : Nat → Nat) (hf : ∀ j, f j < 2 ^ 32) (n i : Nat) (hi : i < 32 * n) :
    bitN (leNat ((List.range n).flatMap fun j => leBytes 4 (f j))) i = bitN (f (i / 32)) (i % 32) := by
  induction n generalizing f i with
  | zero => omega
  | succ n ih =>
    have hhead : leNat (leBytes 4 (f 0)) = f 0 := (leNat_leBytes 4 (f 0)).trans (Nat.mod_eq_of_lt (hf 0))
    rw [List.range_succ_eq_map, List.flatMap_cons, List.flatMap_map, leNat_append, leBytes_length, hhead, bitN_eq_testBit,
      Nat.add_comm, show (256 ^ 4 : Nat) = 2 ^ 32 by norm_num, Nat.testBit_two_pow_mul_add _ (hf 0)]
    split
    · next h => rw [bitN_eq_testBit, Nat.div_eq_of_lt h, Nat.mod_eq_of_lt h]
    · next h =>
      have hrest := ih (fun j => f (j + 1)) (fun j => hf _) (i - 32) (by omega)
      rw [bitN_eq_testBit] at hrest
      rw [hrest, show (i - 32) / 32 + 1 = i / 32 by omega, show (i - 32) % 32 = i % 32 by omega]

theorem membersBytes_length (s : State) : (membersBytes s).length = 32 := by
  simp [membersBytes, leBytes_length]

/-- FLAGS of a beacon. -/
def flagsSent (s : State) (hold : Bool) (yieldTo : Option Nat) : Nat :=
  (if hold then 1 else 0) + (if isRootGw s || s.floor.broot then 2 else 0) + (if yieldTo.isSome then 4 else 0)

/-- What a beacon tells before its flags. -/
def rulesSent (s : State) : List Byte :=
  leBytes 2 (fld s Reg.FAB_PKEY Fld.FAB_PKEY_PKEY) ++ leBytes 2 s.frm.period ++ leBytes 1 s.frm.win ++ leBytes 1 (lrank s)

/-- The refusals of a beacon and what stands behind them. -/
def refusalsSent (refs : List (Nat × Nat)) : List Byte :=
  refs.flatMap refusalBytes ++ (List.replicate (24 - (refs.flatMap refusalBytes).length) 0#8 ++ leBytes 16 0)

/-- The program frame and the hold-over count of a beacon, and its reserved bytes. -/
def countsSent (s : State) : List Byte := leBytes 8 (pindex s) ++ (leBytes 2 s.floor.holdcnt ++ leBytes 6 0)

theorem beaconBytes_eq (s : State) (hold : Bool) (y : Option Nat) (refs : List (Nat × Nat)) : beaconBytes s hold y refs =
    rulesSent s ++ (leBytes 1 (flagsSent s hold y) ++ (leBytes 1 (y.getD 0) ++ (countsSent s ++
      (membersBytes s ++ refusalsSent refs)))) := by
  simp only [beaconBytes, rulesSent, flagsSent, countsSent, refusalsSent, List.append_assoc]

section
variable (s : State) (hold : Bool) (y : Option Nat) (refs : List (Nat × Nat))

theorem rulesSent_length : (rulesSent s).length = 6 := by simp [rulesSent, leBytes_length]

theorem countsSent_length : (countsSent s).length = 16 := by simp [countsSent, leBytes_length]

theorem beaconBytes_flags : leAt (beaconBytes s hold y refs) 6 1 = flagsSent s hold y % 256 := by
  rw [beaconBytes_eq, leAt_append_right _ _ (rulesSent_length s).le, rulesSent_length,
    leAt_append_self _ (leBytes_length 1 _), leNat_leBytes, pow_one]

theorem beaconBytes_yield : leAt (beaconBytes s hold y refs) 7 1 = y.getD 0 % 256 := by
  rw [beaconBytes_eq, leAt_append_right _ _ (by rw [rulesSent_length]; decide), rulesSent_length,
    leAt_append_right _ _ (leBytes_length 1 _).le, leBytes_length, leAt_append_self _ (leBytes_length 1 _), leNat_leBytes,
    pow_one]

theorem beaconBytes_pindex : leAt (beaconBytes s hold y refs) 8 8 = pindex s := by
  rw [beaconBytes_eq, leAt_append_right _ _ (by rw [rulesSent_length]; decide), rulesSent_length,
    leAt_append_right _ _ (by rw [leBytes_length]; decide), leBytes_length,
    leAt_append_right _ _ (leBytes_length 1 _).le, leBytes_length, countsSent, List.append_assoc,
    leAt_append_self _ (leBytes_length 8 _), leNat_leBytes]
  exact Nat.mod_eq_of_lt (reg64_lt s _)

theorem beaconBytes_members : leAt (beaconBytes s hold y refs) 24 32 = leNat (membersBytes s) := by
  rw [beaconBytes_eq, leAt_append_right _ _ (by rw [rulesSent_length]; decide), rulesSent_length,
    leAt_append_right _ _ (by rw [leBytes_length]; decide), leBytes_length,
    leAt_append_right _ _ (by rw [leBytes_length]; decide), leBytes_length,
    leAt_append_right _ _ (countsSent_length s).le, countsSent_length, leAt_append_self _ (membersBytes_length s)]

/-- A beacon shows the member bits that stand. -/
theorem beaconBytes_member {i : Nat} (h : i < 256) : bitN (leAt (beaconBytes s hold y refs) 24 32) i = isMember s i := by
  rw [beaconBytes_members, membersBytes, bitN_words _ (fun _ => regN_lt _ _) 8 i h, isMember, decide_eq_true h, Bool.true_and]

end

/-! ## The beacon slot of the leader (R463, R480) -/

/-- The end of a slot touches the Floor's counts of silence alone. -/
theorem endSlot_form (s : State) : ∃ silent, endSlot s = mapFloor s fun x =>
    { x with due := none, silent := silent, air := false } := by
  unfold endSlot endTelem
  split
  · next h =>
    refine ⟨s.floor.silent, ?_⟩
    rw [mapFloor, mapFloor, ← h]
  · exact ⟨_, rfl⟩

theorem endSlot_silent {s : State} {i : Nat} (h : s.floor.due = some i) :
    (endSlot s).floor.silent = kset (fun _ => 0) s.floor.silent i (kget (fun _ => 0) s.floor.silent i + 1) := by
  unfold endSlot endTelem
  rw [h]
  rfl

/-- The leader counts the frames that it beacons without a time source. -/
def holdCounted (s : State) : State := mapFloor s fun x =>
  { x with holdcnt := if !timeSource s then min (x.holdcnt + 1) 4096 else 0 }

/-- The payload of the beacon that the leader sends in its slot. -/
def beaconPayload (s : State) : List Byte := beaconBytes (holdCounted s) (!timeSource s)
  ((bestClaim s.floor.claims).map (·.2)) (s.floor.refusals.take 4)

/-- The leader's beacon goes out, and the refusals that it carries are done. -/
def beaconSent (s : State) : State :=
  mapFloor (bump (sendBurst (holdCounted s) btBeacon (beaconPayload s)) Reg.FLR_JOINREF (s.floor.refusals.take 4).length)
    fun f => { f with refusals := f.refusals.drop 4 }

/-- In its slot the leader sends its beacon, and stops when it yields to a claim. -/
theorem sendBeacon_eq (s : State) : sendBeacon s =
    if ((bestClaim s.floor.claims).map (·.2)).isSome then stopLeading (beaconSent s) fsMember else beaconSent s := rfl

theorem floorSlot_beacon {s : State} (hl : flrState s = fsLeader) :
    floorSlot s .beacon = sendHeard (sendBeacon (endSlot s)) := by
  have hl' : flrState (endSlot s) = fsLeader := by
    obtain ⟨silent, h⟩ := endSlot_form s
    rw [h]
    exact hl
  exact if_pos hl'

theorem beaconSent_wire (s : State) : ∃ x, (beaconSent s).wire = s.wire ++ [.burst x] ∧ x.kind = btBeacon
    ∧ x.src = deviceId s ∧ x.fidx = fidx s ∧ x.payload = beaconPayload s :=
  ⟨mkBurst (holdCounted s) btBeacon (beaconPayload s), rfl, rfl, rfl, rfl, rfl⟩

theorem beaconSent_holdcnt (s : State) :
    (beaconSent s).floor.holdcnt = if timeSource s then 0 else min (s.floor.holdcnt + 1) 4096 := by
  have h : (beaconSent s).floor.holdcnt = if !timeSource s then min (s.floor.holdcnt + 1) 4096 else 0 := rfl
  rw [h]
  cases timeSource s <;> rfl

section
variable (s : State)

theorem beaconPayload_member {i : Nat} (h : i < 256) : bitN (leAt (beaconPayload s) 24 32) i = isMember s i :=
  (beaconBytes_member (holdCounted s) _ _ _ h).trans (isMember_mapFloor s _ i)

theorem beaconPayload_pindex : leAt (beaconPayload s) 8 8 = pindex s := beaconBytes_pindex (holdCounted s) _ _ _

theorem beaconPayload_yields {m : Nat × Nat} (h : bestClaim s.floor.claims = some m) :
    bitN (leAt (beaconPayload s) 6 1) 2 = true := by
  have hy : ((some m).map (·.2)).isSome = true := rfl
  rw [beaconPayload, beaconBytes_flags, flagsSent, h, if_pos hy]
  split <;> split <;> decide

theorem beaconPayload_heir {m : Nat × Nat} (h : bestClaim s.floor.claims = some m) :
    leAt (beaconPayload s) 7 1 = m.2 % 2 ^ 8 := by
  rw [beaconPayload, beaconBytes_yield, h]
  rfl

end

/-- Only the count of refusals among the registers changes when a beacon goes out. -/
theorem beaconSent_regs (s : State) : RegsBut s (beaconSent s) [Reg.FLR_JOINREF] :=
  fun _ ha => reg_bump_ne (sendBurst (holdCounted s) btBeacon (beaconPayload s)) _ fun h => ha (List.mem_singleton.2 h.symm)

theorem flrState_beaconSent (s : State) : flrState (beaconSent s) = flrState s :=
  fld_of_reg (beaconSent_regs s _ (by decide)) _

/-! ## A leader that stops and one that begins (R479, R480) -/

theorem stopLeading_leader {s : State} (state : Nat) (hl : flrState s = fsLeader) : stopLeading s state =
    setFlrState (mapFloor (setFld s Reg.FRM_STATUS Fld.FRM_STATUS_LEADER 0) fun x => { x with claims := [], takes := false })
      state := by
  unfold stopLeading
  rw [if_pos hl]

theorem stopLeading_form {s : State} (state : Nat) (hl : flrState s = fsLeader) : stopLeading s state =
    { s with regs := (stopLeading s state).regs, floor := { s.floor with claims := [], takes := false } } := by
  rw [stopLeading_leader state hl]
  rfl

theorem stopLeading_state (s : State) {state : Nat} (h : state < 8) : flrState (stopLeading s state) = state := by
  unfold stopLeading setFlrState
  exact (fld_setFld _ _ _ _ (by decide) (by decide)).trans (Nat.mod_eq_of_lt h)

theorem stopLeading_notLeading {s : State} (state : Nat) (hl : flrState s = fsLeader) :
    fld (stopLeading s state) Reg.FRM_STATUS Fld.FRM_STATUS_LEADER = 0 := by
  rw [stopLeading_leader state hl]
  refine (fld_of_reg (reg_setFld_ne _ _ _ (by decide)) _).trans ?_
  exact (fld_of_reg (reg_mapFloor _ _ _) _).trans (fld_setFld _ _ _ _ (by decide) (by decide))

/-- A device that was not joined is joined to its own Floor when it begins to beacon. -/
def joinedOwn (s : State) : State :=
  if joined s then s else raise (takeMembers (setJoined s 1) []) Reg.FLR_INTSTAT Fld.FLR_INTSTAT_JOINED.bit

/-- The registers show the leader's own place. -/
def ledBy (s : State) : State :=
  setFld (setFld (setMember s (fidx s) true) Reg.FLR_STATUS Fld.FLR_STATUS_LEADER (fidx (setMember s (fidx s) true)))
    Reg.FRM_STATUS Fld.FRM_STATUS_LEADER 1

theorem beginLeading_eq (s : State) : ∃ g, beginLeading s =
    raise (setFlrState (mapFloor (ledBy (joinedOwn s)) g) fsLeader) Reg.FLR_INTSTAT Fld.FLR_INTSTAT_LEADER.bit := ⟨_, rfl⟩

theorem regsOnly_joinedOwn (s : State) : RegsOnly s (joinedOwn s) := by
  unfold joinedOwn
  split
  · rfl
  · exact ((regsOnly_setFld s _ _ _).trans (regsOnly_takeMembers _ _)).trans (regsOnly_raise _ _ _)

theorem joined_of_fld {s : State} (h : fld s Reg.FRM_STATUS Fld.FRM_STATUS_JOINED = 1) : joined s = true := decide_eq_true h

theorem joined_joinedOwn (s : State) : joined (joinedOwn s) = true := by
  unfold joinedOwn
  split
  · assumption
  · rw [joined, fld_of_reg (reg_raise_ne _ _ (by decide)), fld_of_reg (takeMembers_reg _ _ (by decide) (by decide)), setJoined,
      fld_setFld _ _ _ _ (by decide) (by decide)]
    decide

theorem fidx_joinedOwn (s : State) : fidx (joinedOwn s) = fidx s := by
  unfold joinedOwn
  split
  · rfl
  · rw [fidx, fld_of_reg (reg_raise_ne _ _ (by decide)), fld_of_reg (takeMembers_reg _ _ (by decide) (by decide)), setJoined,
      fld_of_reg (reg_setFld_ne _ _ _ (by decide)), fidx]

theorem regsOnly_ledBy (s : State) : RegsOnly s (ledBy s) :=
  ((regsOnly_setMember s _ _).trans (regsOnly_setFld _ _ _ _)).trans (regsOnly_setFld _ _ _ _)

theorem ledBy_frm (s : State) {f : Fld} (hf : f.lo ≤ f.hi) (hd : f.hi < 1 ∨ 1 < f.lo) :
    fld (ledBy s) Reg.FRM_STATUS f = fld s Reg.FRM_STATUS f := by
  have hmember := setMember_regs s (fidx s) true Reg.FRM_STATUS (by
    simp only [List.mem_cons, List.not_mem_nil, or_false, Reg.FRM_STATUS, Reg.FLR_MEMBERS, Reg.FLR_STATUS]
    omega)
  rw [ledBy, fld_setFld_ne _ _ _ _ _ (by decide) (by decide) hf hd, fld_of_reg (reg_setFld_ne _ _ _ (by decide)),
    fld_of_reg hmember]

theorem ledBy_leader (s : State) : fld (ledBy s) Reg.FRM_STATUS Fld.FRM_STATUS_LEADER = 1 :=
  fld_setFld _ _ _ _ (by decide) (by decide)

theorem isMember_ledBy (s : State) : isMember (ledBy s) (fidx s) = true := by
  have hreg : reg (ledBy s) (Reg.FLR_MEMBERS (fidx s / 32)) = reg (setMember s (fidx s) true) (Reg.FLR_MEMBERS (fidx s / 32)) := by
    rw [ledBy, reg_setFld_ne _ _ _ ?_, reg_setFld_ne _ _ _ (members_ne_status _).symm]
    simp only [Reg.FRM_STATUS, Reg.FLR_MEMBERS]
    omega
  exact (isMember_of_reg hreg).trans (isMember_setMember_same s true (fidx_lt s))

end Sys2Proof.Machine

namespace Sys2Proof.Settled

open Sys2Proof.Machine

section
variable {s : State} {bu : Burst}

theorem join_passes (hl : flrState s = fsLeader) (hh : Statements.Heard s btJoin bu) (h : joinFault s bu = none) :
    Runs (.join bu) s fun t => isMember t bu.fidx = true ∧ (∀ i, i ≠ bu.fidx → isMember t i = isMember s i)
      ∧ RegsBut s t [Reg.FLR_MEMBERS (bu.fidx / 32), Reg.FLR_STATUS] ∧ MemSame s t := by
  refine runs_heard rfl hh ?_
  rw [joinValid_passes hl h]
  have hsame := isMember_setMember_same s true hh.2.2.2
  have hother := fun i hi => isMember_setMember_ne s true (k := i) (i := bu.fidx) hi
  have hregs := setMember_regs s bu.fidx true
  have hmem := (regsOnly_setMember s bu.fidx true).memSame
  refine ⟨?_, fun i hi => ?_, fun a ha => ?_, memSame_ended _ (memSame_mapFloor hmem _)⟩
  · rw [isMember_ended, isMember_mapFloor, hsame]
  · rw [isMember_ended, isMember_mapFloor, hother i hi]
  · rw [ended_reg, reg_mapFloor, hregs a ha]

theorem join_refused {r : Nat} (hl : flrState s = fsLeader) (hh : Statements.Heard s btJoin bu)
    (h : joinFault s bu = some r) : Runs (.join bu) s fun t =>
      t.floor.refusals = s.floor.refusals ++ [(bu.src, r)] ∧ t = { s with floor := t.floor, msix := t.msix, edge := t.edge } := by
  refine runs_heard rfl hh ?_
  rw [joinValid_refused hl h]
  exact ⟨rfl, rfl⟩

theorem claim_noted (hl : flrState s = fsLeader) (hh : Statements.Heard s btClaim bu) (hm : isMember s bu.fidx = true)
    (h0 : 0 < Config.claimRank bu.src) (hlt : Config.claimRank bu.src < lrank s) : Runs (.claim bu) s fun t =>
      t.floor.claims = s.floor.claims ++ [(Config.claimRank bu.src, bu.fidx)]
        ∧ t = { s with floor := t.floor, msix := t.msix, edge := t.edge } := by
  have hact : claimValid bu s = mapFloor s fun x => { x with claims := x.claims ++ [(Config.claimRank bu.src, bu.fidx)] } :=
    if_pos (by simp [hl, hm, hlt]; omega)
  refine runs_heard rfl hh ?_
  rw [hact]
  exact ⟨rfl, rfl⟩

theorem leave_clears (hl : flrState s = fsLeader) (hh : Statements.Heard s btLeave bu) : Runs (.leave bu) s fun t =>
    isMember t bu.fidx = false ∧ (∀ i, i ≠ bu.fidx → isMember t i = isMember s i)
      ∧ OnlyRegs s t [Reg.FLR_MEMBERS (bu.fidx / 32), Reg.FLR_STATUS] := by
  refine runs_heard rfl hh ?_
  rw [show leaveValid bu s = setMember s bu.fidx false from if_pos hl]
  exact ⟨isMember_setMember_same s false hh.2.2.2, fun i hi => isMember_setMember_ne s false hi,
    onlyRegs_ended (regsOnly_setMember s _ _) (setMember_regs s _ _)⟩

theorem member_lost {i : Nat} (ha : alive s = true) (hl : flrState s = fsLeader) (hm : isMember s i = true) (hi : i ≠ fidx s)
    (hs : 8 ≤ kget (fun _ => 0) s.floor.silent i) : Runs (.memberLost i) s fun t =>
      isMember t i = false ∧ (∀ k, k ≠ i → isMember t k = isMember s k)
        ∧ fld t Reg.FLR_INTSTAT Fld.FLR_INTSTAT_MEMBERLOST = 1
        ∧ RegsBut s t [Reg.FLR_MEMBERS (i / 32), Reg.FLR_STATUS, Reg.FLR_INTSTAT] := by
  have hact : memberLost s i = raise (mapFloor (setMember s i false) fun x =>
      { x with silent := kset (fun _ => 0) x.silent i 0 }) Reg.FLR_INTSTAT Fld.FLR_INTSTAT_MEMBERLOST.bit :=
    if_pos (by simp [hl, hm, hi, hs])
  have hlt : i < 256 := by simpa using (Bool.and_eq_true_iff.1 hm).1
  generalize hu : mapFloor (setMember s i false) (fun x => { x with silent := kset (fun _ => 0) x.silent i 0 }) = u at hact
  have hreg (a : Nat) : reg u a = reg (setMember s i false) a := by rw [← hu, reg_mapFloor]
  have hraise (k : Nat) (hk : k < 256) : isMember (raise u Reg.FLR_INTSTAT Fld.FLR_INTSTAT_MEMBERLOST.bit) k
      = isMember (setMember s i false) k := by
    refine isMember_of_reg ((reg_raise_ne _ _ ?_).trans (hreg _))
    simp only [Reg.FLR_MEMBERS, Reg.FLR_INTSTAT]
    omega
  have hlost : fld (raise u Reg.FLR_INTSTAT Fld.FLR_INTSTAT_MEMBERLOST.bit) Reg.FLR_INTSTAT Fld.FLR_INTSTAT_MEMBERLOST = 1 :=
    fld_raise u _ 3 (by decide)
  refine runs_finish rfl ha ?_
  rw [hact]
  refine ⟨(isMember_ended _ _ _).trans ((hraise i hlt).trans (isMember_setMember_same s false hlt)), fun k hk => ?_, (ended_fld _ _ _ _).trans hlost, ?_⟩
  · by_cases hk' : k < 256
    · exact (isMember_ended _ _ _).trans ((hraise k hk').trans (isMember_setMember_ne s false hk))
    · rw [isMember_big _ hk', isMember_big _ hk']
  · intro a ha
    simp only [List.mem_cons, List.not_mem_nil, or_false, not_or] at ha
    obtain ⟨h1, h2, h3⟩ := ha
    rw [ended_reg, reg_raise_ne _ _ (Ne.symm h3), hreg, setMember_regs s i false a (by simp [h1, h2])]

theorem beacon_sent (ha : alive s = true) (hl : flrState s = fsLeader) (hc : s.floor.claims = []) :
    Runs (.floorSlot .beacon) s fun t => flrState t = fsLeader
      ∧ (∃ x, t.wire = s.wire ++ [.burst x] ∧ x.kind = btBeacon ∧ x.src = deviceId s ∧ x.fidx = fidx s
          ∧ (beaconMember x (fidx s) = isMember s (fidx s)) ∧ leAt x.payload 8 8 = pindex s)
      ∧ t.floor.holdcnt = (if timeSource s then 0 else min (s.floor.holdcnt + 1) 4096) ∧ RegsBut s t [Reg.FLR_JOINREF] := by
  refine runs_finish rfl ha ?_
  rw [floorSlot_beacon hl]
  obtain ⟨silent, h⟩ := endSlot_form s
  have hkept : FloorOnly s (endSlot s) := by rw [h]; rfl
  have hcnt : (endSlot s).floor.holdcnt = s.floor.holdcnt ∧ (endSlot s).floor.broot = s.floor.broot
      ∧ (endSlot s).floor.claims = s.floor.claims := by rw [h]; exact ⟨rfl, rfl, rfl⟩
  generalize endSlot s = u at hkept hcnt ⊢
  obtain ⟨hcnt, hroot, hclaims⟩ := hcnt
  have hsend : sendBeacon u = beaconSent u := by rw [sendBeacon_eq, hclaims, hc]; rfl
  have hsource := hkept.timeSource hroot
  have hstate := flrState_beaconSent u
  have hregs := beaconSent_regs u
  obtain ⟨x, hwire, hkind, hsrc, hidx, hpay⟩ := beaconSent_wire u
  have hhold := beaconSent_holdcnt u
  rw [hsend]
  generalize beaconSent u = v at hstate hregs hwire hhold ⊢
  refine ⟨hstate.trans ((hkept.fld _ _).trans hl), ⟨x, hwire.trans (by rw [hkept.wire]), hkind, hsrc.trans (hkept.fld _ _),
    hidx.trans (hkept.fld _ _), ?_, ?_⟩,
    hhold.trans ?_, fun a ha => (hregs a ha).trans (hkept.reg a)⟩
  · rw [beaconMember, hpay, beaconPayload_member u (fidx_lt s)]
    exact isMember_of_reg (hkept.reg _)
  · rw [hpay]
    exact (beaconPayload_pindex u).trans (reg64_of_reg (hkept.reg _) (hkept.reg _))
  · rw [hsource, hcnt]

theorem beacon_yields {m : Nat × Nat} (ha : alive s = true) (hl : flrState s = fsLeader)
    (hc : bestClaim s.floor.claims = some m) : Runs (.floorSlot .beacon) s fun t => flrState t = fsMember
      ∧ fld t Reg.FRM_STATUS Fld.FRM_STATUS_LEADER = 0 ∧ t.floor.claims = []
      ∧ ∃ x, t.wire = s.wire ++ [.burst x] ∧ x.kind = btBeacon ∧ bitN (beaconFlags x) 2 = true
        ∧ leAt x.payload 7 1 = m.2 % 2 ^ 8 := by
  refine runs_finish rfl ha ?_
  rw [floorSlot_beacon hl]
  obtain ⟨silent, h⟩ := endSlot_form s
  have hkept : FloorOnly s (endSlot s) := by rw [h]; rfl
  have hclaims : (endSlot s).floor.claims = s.floor.claims := by rw [h]; rfl
  generalize endSlot s = u at hkept hclaims ⊢
  have hbest : bestClaim u.floor.claims = some m := by rw [hclaims, hc]
  have hsend : sendBeacon u = stopLeading (beaconSent u) fsMember := by rw [sendBeacon_eq, hbest]; rfl
  have hlead : flrState (beaconSent u) = fsLeader := (flrState_beaconSent u).trans ((hkept.fld _ _).trans hl)
  obtain ⟨x, hwire, hkind, -, -, hpay⟩ := beaconSent_wire u
  rw [hsend]
  generalize beaconSent u = v at hlead hwire ⊢
  have hstop := stopLeading_form fsMember hlead
  have hover := stopLeading_notLeading fsMember hlead
  have hstate := stopLeading_state v (state := fsMember) (by decide)
  generalize stopLeading v fsMember = w at hstop hover hstate ⊢
  have hww : w.wire = v.wire := by rw [hstop]
  have hwc : w.floor.claims = [] := by rw [hstop]
  exact ⟨hstate, hover, hwc, x, hww.trans (hwire.trans (by rw [hkept.wire])), hkind,
    by rw [beaconFlags, hpay, beaconPayload_yields u hbest], by rw [hpay, beaconPayload_heir u hbest]⟩

end

theorem telemetry_kept {s : State} {bu : Burst} (hh : Statements.Heard s btTelem bu) (hj : joined s = true) :
    Runs (.telem bu) s fun t => t = { s with host := t.host, floor := t.floor, msix := t.msix, edge := t.edge }
      ∧ t.host = { s.host with mirror := t.host.mirror }
      ∧ (if flrState s = fsLeader then kget (fun _ => 0) t.floor.silent bu.fidx = 0 else t.floor = s.floor)
      ∧ ∃ e, kfind t.host.mirror bu.fidx = some e ∧ leAt e 0 6 = bu.frame % 2 ^ 48 ∧ leAt e 8 3 = bu.src % 2 ^ 24
        ∧ leAt e 6 1 = bu.fidx := by
  refine runs_heard rfl hh ?_
  have hfind : kfind (mirrorPut s bu).host.mirror bu.fidx = some (mirrorEntry s bu) := by
    refine (kfind_kins _ _ _ _).trans (if_pos ?_)
    exact Nat.mod_eq_of_lt hh.2.2.2
  have hentry := mirrorEntry_frame s bu
  have hsrc := mirrorEntry_src s bu
  have hidx := (mirrorEntry_fidx s bu).trans (Nat.mod_eq_of_lt hh.2.2.2)
  have hform : mirrorPut s bu = { s with host := { s.host with mirror := (mirrorPut s bu).host.mirror } } := rfl
  generalize (mirrorPut s bu).host.mirror = mirror at hform hfind
  generalize mirrorEntry s bu = e at hfind hentry hsrc hidx
  by_cases hl : flrState s = fsLeader
  · rw [if_pos hl, show telemValid bu s = mapFloor (mirrorPut s bu) fun x => { x with
      silent := kset (fun _ => 0) x.silent bu.fidx 0, due := if x.due = some bu.fidx then none else x.due } by
        unfold telemValid; rw [if_pos hj]; exact if_pos hl, hform]
    exact ⟨rfl, rfl, kget_kset_self (fun _ => 0) s.floor.silent bu.fidx 0, e, hfind, hentry, hsrc, hidx⟩
  · rw [if_neg hl, show telemValid bu s = mirrorPut s bu by unfold telemValid; rw [if_pos hj]; exact if_neg hl, hform]
    exact ⟨rfl, rfl, rfl, e, hfind, hentry, hsrc, hidx⟩

theorem timeout_leads {s : State} (ha : alive s = true) (hr : s.seed.read = true) (hst : isStart s = false)
    (hk : lrank s ≠ 0) (hl : flrState s ≠ fsLeader) (ho : flrState s ≠ fsOff) (hq : quietEnough s = true) :
    Runs .beaconTimeout s fun t => flrState t = fsLeader ∧ fld t Reg.FRM_STATUS Fld.FRM_STATUS_LEADER = 1 ∧ joined t = true
      ∧ isMember t (fidx s) = true ∧ fld t Reg.FLR_INTSTAT Fld.FLR_INTSTAT_LEADER = 1 ∧ MemSame s t := by
  have hact : beaconTimeout s = beginLeading s := if_pos (by simp [hr, hst, hk, hl, ho, hq])
  obtain ⟨g, hg⟩ := beginLeading_eq s
  have hlead := ledBy_leader (joinedOwn s)
  have hjoin := (ledBy_frm (joinedOwn s) (f := Fld.FRM_STATUS_JOINED) (by decide) (by decide)).trans
    (of_decide_eq_true (joined_joinedOwn s))
  have hself := isMember_ledBy (joinedOwn s)
  have hmem := ((regsOnly_joinedOwn s).trans (regsOnly_ledBy _)).memSame
  rw [fidx_joinedOwn] at hself
  refine runs_finish rfl ha ?_
  rw [hact, hg]
  generalize ledBy (joinedOwn s) = u at hlead hjoin hself hmem ⊢
  have hstate : flrState (setFlrState (mapFloor u g) fsLeader) = fsLeader :=
    fld_setFld (mapFloor u g) Reg.FLR_STATUS _ fsLeader (by decide) (by decide)
  have hreg (a : Nat) (h : a ≠ Reg.FLR_STATUS) (h' : a ≠ Reg.FLR_INTSTAT) :
      reg (raise (setFlrState (mapFloor u g) fsLeader) Reg.FLR_INTSTAT Fld.FLR_INTSTAT_LEADER.bit) a = reg u a := by
    rw [reg_raise_ne _ _ h'.symm, setFlrState, reg_setFld_ne _ _ _ h.symm, reg_mapFloor]
  have hkeep : fld (raise (setFlrState (mapFloor u g) fsLeader) Reg.FLR_INTSTAT Fld.FLR_INTSTAT_LEADER.bit) Reg.FLR_STATUS
      Fld.FLR_STATUS_STATE = fsLeader := (fld_of_reg (reg_raise_ne _ _ (by decide)) _).trans hstate
  have hshown : RegsOnly (mapFloor u g) (raise (setFlrState (mapFloor u g) fsLeader) Reg.FLR_INTSTAT
      Fld.FLR_INTSTAT_LEADER.bit) := (regsOnly_setFld _ _ _ _).trans (regsOnly_raise _ _ _)
  have hevent : fld (raise (setFlrState (mapFloor u g) fsLeader) Reg.FLR_INTSTAT Fld.FLR_INTSTAT_LEADER.bit) Reg.FLR_INTSTAT
      Fld.FLR_INTSTAT_LEADER = 1 := fld_raise _ Reg.FLR_INTSTAT 2 (by decide)
  generalize raise (setFlrState (mapFloor u g) fsLeader) Reg.FLR_INTSTAT Fld.FLR_INTSTAT_LEADER.bit = w at hreg hkeep hshown hevent ⊢
  refine ⟨hkeep, (fld_of_reg (hreg _ (by decide) (by decide)) _).trans hlead,
    joined_of_fld ((fld_of_reg (hreg _ (by decide) (by decide)) _).trans hjoin), ?_, hevent,
    memSame_ended s ((memSame_mapFloor hmem g).trans hshown.memSame)⟩
  rw [isMember_ended]
  refine (isMember_of_reg (hreg _ (members_ne_status _) ?_)).trans hself
  have := fidx_lt s
  simp only [Reg.FLR_MEMBERS, Reg.FLR_INTSTAT]
  omega

/-- Settles O45: the member bits (`isMember_setMember_same`, `isMember_setMember_ne`), the bytes of a beacon and the
device that begins or stops to lead are each said once. -/
theorem floorLeading : Obligations.FloorLeading := fun _ ha =>
  ⟨fun hl => ⟨fun _ => join_passes hl, fun _ _ => join_refused hl, fun _ => claim_noted hl, fun _ => leave_clears hl,
    fun _ => member_lost ha hl, beacon_sent ha hl, fun _ => beacon_yields ha hl⟩, fun _ => telemetry_kept, timeout_leads ha⟩

end Sys2Proof.Settled
end

section
/-! PROOF. Joining the Floor, and what a member sends (R463, R466, R469, R480 to R482, R484, R486 to R489). -/

namespace Sys2Proof.Machine

/-! ## Draws (R469, R482) -/

theorem ended_floor (s t : State) : (ended s t).floor = t.floor := rfl

theorem drawRange_form (s : State) (f : Nat) : drawRange s f =
    { s with free := s.free + 1, floor := { s.floor with rslot := (drawRange s f).floor.rslot } } := rfl

theorem joinWindow_form (s : State) (f : Nat) : joinWindow s f = { s with free := s.free + 2, floor := { s.floor with
    jstart := f, jslot := (joinWindow s f).floor.jslot, fails := 0, jsent := none } } := rfl

theorem joinWindow_memSame (s : State) (f : Nat) : MemSame s (joinWindow s f) := ⟨rfl, rfl⟩
theorem drawRange_memSame (s : State) (f : Nat) : MemSame s (drawRange s f) := ⟨rfl, rfl⟩

theorem joinWindow_reg (s : State) (f a : Nat) : reg (joinWindow s f) a = reg s a := rfl
theorem drawRange_reg (s : State) (f a : Nat) : reg (drawRange s f) a = reg s a := rfl

/-! ## Hold-over (R488) -/

section
variable (s : State) (hold : Bool) (n : Nat)

theorem regsOnly_showHold : RegsOnly s (showHold s hold n) := by
  unfold showHold
  dsimp only
  have h := (regsOnly_setFld s Reg.FRM_STATUS Fld.FRM_STATUS_HOLDOVER (if hold then 1 else 0)).trans
    (regsOnly_setFld _ Reg.FLR_HOLD Fld.FLR_HOLD_FRAMES (if hold then min n 4096 else 0))
  split
  · exact h.trans (regsOnly_raise _ _ _)
  · exact h

theorem showHold_reg {a : Nat} (h1 : a ≠ Reg.FRM_STATUS) (h2 : a ≠ Reg.FLR_HOLD) (h3 : a ≠ Reg.FRM_INTSTAT) :
    reg (showHold s hold n) a = reg s a := by
  unfold showHold
  dsimp only
  have h : reg (setFld (setFld s Reg.FRM_STATUS Fld.FRM_STATUS_HOLDOVER (if hold then 1 else 0)) Reg.FLR_HOLD
      Fld.FLR_HOLD_FRAMES (if hold then min n 4096 else 0)) a = reg s a := by
    rw [reg_setFld_ne _ _ _ h2.symm, reg_setFld_ne _ _ _ h1.symm]
  split
  · rw [reg_raise_ne _ _ h3.symm, h]
  · exact h

theorem showHold_status : reg (showHold s hold n) Reg.FRM_STATUS =
    reg (setFld s Reg.FRM_STATUS Fld.FRM_STATUS_HOLDOVER (if hold then 1 else 0)) Reg.FRM_STATUS := by
  unfold showHold
  dsimp only
  have h := reg_setFld_ne (setFld s Reg.FRM_STATUS Fld.FRM_STATUS_HOLDOVER (if hold then 1 else 0)) (a := Reg.FLR_HOLD)
    (b := Reg.FRM_STATUS) Fld.FLR_HOLD_FRAMES (if hold then min n 4096 else 0) (by decide)
  split
  · rw [reg_raise_ne _ _ (by decide), h]
  · exact h

/-- The fields of FRM_STATUS but HOLDOVER stand. -/
theorem fld_showHold {f : Fld} (hf : f.lo ≤ f.hi) (hd : f.hi < 3 ∨ 3 < f.lo) :
    fld (showHold s hold n) Reg.FRM_STATUS f = fld s Reg.FRM_STATUS f :=
  (fld_of_reg (showHold_status s hold n) f).trans (fld_setFld_ne _ _ _ _ _ (by decide) (by decide) hf hd)

theorem showHold_holdover : fld (showHold s true n) Reg.FRM_STATUS Fld.FRM_STATUS_HOLDOVER = 1 :=
  (fld_of_reg (showHold_status s true n) _).trans (fld_setFld _ _ _ _ (by decide) (by decide))

end

/-- The member bits of a beacon that is valid are shown, and a device that has joined shows its hold-over. -/
def holdShown (s : State) (bu : Burst) : State :=
  if joined s then showHold s (bitN (beaconFlags bu) 0) (leAt bu.payload 16 2) else s

theorem regsOnly_holdShown (s : State) (bu : Burst) : RegsOnly s (holdShown s bu) := by
  unfold holdShown
  split
  · exact regsOnly_showHold s _ _
  · exact .refl s

theorem holdShown_reg (s : State) (bu : Burst) {a : Nat} (h1 : a ≠ Reg.FRM_STATUS) (h2 : a ≠ Reg.FLR_HOLD)
    (h3 : a ≠ Reg.FRM_INTSTAT) : reg (holdShown s bu) a = reg s a := by
  unfold holdShown
  split
  · exact showHold_reg s _ _ h1 h2 h3
  · rfl

theorem fld_holdShown (s : State) (bu : Burst) {f : Fld} (hf : f.lo ≤ f.hi) (hd : f.hi < 3 ∨ 3 < f.lo) :
    fld (holdShown s bu) Reg.FRM_STATUS f = fld s Reg.FRM_STATUS f := by
  unfold holdShown
  split
  · exact fld_showHold s _ _ hf hd
  · rfl

/-! ## Beacons of another device (R476 to R485) -/

/-- The device has heard a beacon in this frame. -/
def beaconNoted (s : State) (bu : Burst) : State :=
  mapFloor (bump (mapFloor s fun x => { x with quiet := 0 }) Reg.FLR_BEACONS 1) fun x => { x with
    heard := true, known := true, quiet := 0, run := 0, bhold := bitN (beaconFlags bu) 0, broot := bitN (beaconFlags bu) 1
    brank := leAt bu.payload 5 1 }

/-- A device that does not lead has taken a beacon: its leader and its members are shown. -/
def beaconTaken (s : State) (bu : Burst) : State :=
  mapFloor (takeMembers (setFld s Reg.FLR_STATUS Fld.FLR_STATUS_LEADER bu.fidx) bu.payload) fun x => { x with
    takes := flrState (takeMembers (setFld s Reg.FLR_STATUS Fld.FLR_STATUS_LEADER bu.fidx) bu.payload) = fsMember
      && bitN (beaconFlags bu) 2
      && leAt bu.payload 7 1 = fidx (takeMembers (setFld s Reg.FLR_STATUS Fld.FLR_STATUS_LEADER bu.fidx) bu.payload)
    leaving := if beaconMember bu (fidx (takeMembers (setFld s Reg.FLR_STATUS Fld.FLR_STATUS_LEADER bu.fidx) bu.payload))
      then x.leaving else none
    ctries := if bitN (beaconFlags bu) 0 then x.ctries else 0 }

/-- What a device that listens or is on its way has once it has taken a valid beacon: the leader, the members, the count of
beacons and the Floor's own state alone differ. -/
structure Taken (s t : State) : Prop where
  form : t = { s with regs := t.regs, floor := t.floor }
  state : flrState t = flrState s
  regs : ∀ a, a ≠ Reg.FLR_STATUS → a ≠ Reg.FLR_BEACONS → (a < Reg.FLR_MEMBERS 0 ∨ Reg.FLR_MEMBERS 0 + 32 ≤ a) →
    reg t a = reg s a
  beacons : regN t Reg.FLR_BEACONS = min (regN s Reg.FLR_BEACONS + 1) 0xFFFFFFFF
  ranged : t.floor.ranged = s.floor.ranged
  heard : t.floor.heard = true

theorem Taken.otherPeriod {s t : State} (h : Taken s t) (bu : Burst) : otherPeriod t bu = otherPeriod s bu := by
  have hseed : t.seed = s.seed := by rw [h.form]
  rw [Machine.otherPeriod, Machine.otherPeriod, hseed]

theorem beaconNoted_reg (s : State) (bu : Burst) {a : Nat} (h : a ≠ Reg.FLR_BEACONS) : reg (beaconNoted s bu) a = reg s a := by
  rw [beaconNoted, reg_mapFloor, reg_bump_ne _ _ h.symm, reg_mapFloor]

theorem beaconNoted_count (s : State) (bu : Burst) :
    regN (beaconNoted s bu) Reg.FLR_BEACONS = min (regN s Reg.FLR_BEACONS + 1) 0xFFFFFFFF := by
  rw [beaconNoted, regN_of_reg (reg_mapFloor _ _ _), regN_bump, regN_of_reg (reg_mapFloor _ _ _)]

theorem beaconTaken_regs (s : State) (bu : Burst) {a : Nat} (hs : a ≠ Reg.FLR_STATUS)
    (hm : a < Reg.FLR_MEMBERS 0 ∨ Reg.FLR_MEMBERS 0 + 32 ≤ a) : reg (beaconTaken s bu) a = reg s a := by
  rw [beaconTaken, reg_mapFloor, takeMembers_reg _ _ hs hm, reg_setFld_ne _ _ _ hs.symm]

theorem beaconTaken_state (s : State) (bu : Burst) : flrState (beaconTaken s bu) = flrState s := by
  rw [flrState, beaconTaken, fld_of_reg (reg_mapFloor _ _ _), fld_takeMembers _ _ (by decide) (by decide),
    fld_setFld_ne _ _ _ _ _ (by decide) (by decide) (by decide) (by decide), flrState]

/-- Of the Floor's own state the claimant, the leave and the tries alone differ. -/
theorem beaconTaken_form (s : State) (bu : Burst) : ∃ takes leaving ctries, beaconTaken s bu =
    { s with regs := (beaconTaken s bu).regs, floor := { s.floor with takes := takes, leaving := leaving, ctries := ctries } } := by
  have h := (regsOnly_setFld s Reg.FLR_STATUS Fld.FLR_STATUS_LEADER bu.fidx).trans (regsOnly_takeMembers _ bu.payload)
  unfold beaconTaken
  generalize takeMembers (setFld s Reg.FLR_STATUS Fld.FLR_STATUS_LEADER bu.fidx) bu.payload = u at h ⊢
  obtain ⟨regs, rfl⟩ : ∃ regs, u = { s with regs := regs } := ⟨_, h⟩
  exact ⟨_, _, _, rfl⟩

theorem beaconNoted_form (s : State) (bu : Burst) : ∃ hold root rank, beaconNoted s bu =
    { s with regs := (beaconNoted s bu).regs, floor := { s.floor with
        heard := true, known := true, quiet := 0, run := 0, bhold := hold, broot := root, brank := rank } } := ⟨_, _, _, rfl⟩

theorem beaconTaken_taken (s : State) (bu : Burst) : Taken s (beaconTaken (beaconNoted s bu) bu) where
  form := by
    obtain ⟨b, l, c, h⟩ := beaconTaken_form (beaconNoted s bu) bu
    obtain ⟨_, _, _, h'⟩ := beaconNoted_form s bu
    rw [h, h']
  state := (beaconTaken_state _ bu).trans (fld_of_reg (beaconNoted_reg s bu (by decide)) _)
  regs a hs hb hm := (beaconTaken_regs _ bu hs hm).trans (beaconNoted_reg s bu hb)
  beacons := (regN_of_reg (beaconTaken_regs _ bu (by decide) (by decide))).trans (beaconNoted_count s bu)
  ranged := by
    obtain ⟨b, l, c, h⟩ := beaconTaken_form (beaconNoted s bu) bu
    obtain ⟨_, _, _, h'⟩ := beaconNoted_form s bu
    rw [h, h']
  heard := by
    obtain ⟨b, l, c, h⟩ := beaconTaken_form (beaconNoted s bu) bu
    obtain ⟨_, _, _, h'⟩ := beaconNoted_form s bu
    rw [h, h']

theorem hearBeacon_other {s : State} {bu : Burst} (h : Statements.Heard s btBeacon bu) (hsrc : bu.src ≠ deviceId s) :
    hearBeacon s bu = holdShown (beaconOther (beaconNoted s bu) bu) bu := by
  have hquiet : Statements.Heard (mapFloor s fun x => { x with quiet := 0 }) btBeacon bu := h
  obtain ⟨-, hkind, hvalid, -⟩ := h
  have hcrc : crcGood bu = true := by
    simp only [burstValid, Bool.and_eq_true] at hvalid
    exact hvalid.1.1.2
  have hvalid' : burstValid (mapFloor s fun x => { x with quiet := 0 }) bu = true := hvalid
  unfold hearBeacon
  dsimp only
  simp only [hkind, hcrc, decide_true, Bool.and_self, if_true, hvalid', Bool.not_true, Bool.and_false, Bool.false_and,
    Bool.false_eq_true, if_false]
  rw [hearBurst_valid _ hquiet]
  unfold beaconValid
  dsimp only
  have hsrc' : ¬bu.src = deviceId (beaconNoted s bu) := by
    rwa [deviceId, fld_of_reg (beaconNoted_reg s bu (by decide))]
  rw [← beaconNoted, if_neg hsrc', ← holdShown]

theorem beaconOther_joins {s : State} {bu : Burst} (hl : flrState s ≠ fsLeader) (he : exiting s = false) :
    beaconOther s bu = beaconJoin (beaconTaken s bu) bu := by
  have he' : exiting (beaconTaken s bu) = false := by
    unfold exiting at he ⊢
    rw [fld_of_reg (beaconTaken_regs s bu (by decide) (by decide)), he]
  unfold beaconOther
  rw [if_neg hl]
  exact if_neg (by rw [← Bool.not_eq_true] at he'; exact he')

/-- A device on its way that finds another PERIOD or WIN listens on. -/
def periodRefused (s : State) : State :=
  setFlrState (setReason (mapFloor s fun x => { x with jsent := none }) frPeriod) fsListen

theorem beaconJoin_period {s : State} {bu : Burst} (hw : flrState s = fsListen ∨ flrState s = fsRange ∨ flrState s = fsJoin)
    (hp : otherPeriod s bu = true) : beaconJoin s bu = periodRefused s := by
  refine if_pos ?_
  rw [hp, Bool.and_true]
  simpa [or_assoc] using hw

theorem periodRefused_state (s : State) : flrState (periodRefused s) = fsListen :=
  fld_setFld (setReason (mapFloor s fun x => { x with jsent := none }) frPeriod) Reg.FLR_STATUS _ fsListen (by decide)
    (by decide)

theorem periodRefused_reason (s : State) : fld (periodRefused s) Reg.FLR_STATUS Fld.FLR_STATUS_REASON = frPeriod := by
  rw [periodRefused, setFlrState, fld_setFld_ne _ _ _ _ _ (by decide) (by decide) (by decide) (by decide), setReason,
    fld_setFld _ _ _ _ (by decide) (by decide)]
  decide

/-- A device that listens takes the frame number of a beacon and goes on to range or to join. -/
theorem beaconJoin_listens {s : State} {bu : Burst} (hl : flrState s = fsListen) (hp : otherPeriod s bu = false) :
    beaconJoin s bu = if s.floor.ranged
      then joinWindow (setFlrState (setReg64 s Reg.FRM_COUNT_LO bu.frame) fsJoin) bu.frame
      else drawRange (setFlrState (setReg64 s Reg.FRM_COUNT_LO bu.frame) fsRange) bu.frame := by
  unfold beaconJoin
  dsimp only
  rw [if_neg (by simp [hp]), if_pos hl]
  rfl

theorem beaconJoin_joins {s : State} {bu : Burst} (hl : flrState s = fsJoin) (hp : otherPeriod s bu = false)
    (hm : beaconMember bu (fidx s) = true) : beaconJoin s bu = joinNow s bu := by
  unfold beaconJoin
  dsimp only
  rw [if_neg (by simp [hp]), if_neg (by rw [hl]; decide), if_pos hl, if_pos hm]

/-- What the beacon that joins a device shows. -/
structure Joins (s t : State) (bu : Burst) : Prop where
  form : t = { s with regs := t.regs, floor := { s.floor with jsent := none, fails := 0 } }
  state : flrState t = fsMember
  joined : fld t Reg.FRM_STATUS Fld.FRM_STATUS_JOINED = 1
  ticking : fld t Reg.FRM_STATUS Fld.FRM_STATUS_TICKING = 1
  notLeading : fld t Reg.FRM_STATUS Fld.FRM_STATUS_LEADER = 0
  frame : frameNo t = bu.frame % 2 ^ 64
  pindex : pindex t = leAt bu.payload 8 8 % 2 ^ 64
  event : fld t Reg.FLR_INTSTAT Fld.FLR_INTSTAT_JOINED = 1
  beacons : reg t Reg.FLR_BEACONS = reg s Reg.FLR_BEACONS

/-- The frame number and the program frame of a beacon are taken. -/
def framesTaken (s : State) (bu : Burst) : State :=
  setReg64 (setReg64 s Reg.FRM_COUNT_LO bu.frame) Reg.FRM_PINDEX_LO (leAt bu.payload 8 8)

/-- The device ticks, and does not lead. -/
def ticksAlong (s : State) : State :=
  setFld (setFld s Reg.FRM_STATUS Fld.FRM_STATUS_TICKING 1) Reg.FRM_STATUS Fld.FRM_STATUS_LEADER 0

/-- The device is a member. -/
def madeMember (s : State) : State :=
  raise (setFlrState (setJoined (mapFloor s fun x => { x with jsent := none, fails := 0 }) 1) fsMember) Reg.FLR_INTSTAT
    Fld.FLR_INTSTAT_JOINED.bit

theorem joinNow_eq (s : State) (bu : Burst) : joinNow s bu = madeMember (ticksAlong (framesTaken s bu)) := rfl

theorem madeMember_reg (s : State) {a : Nat} (h1 : a ≠ Reg.FLR_INTSTAT) (h2 : a ≠ Reg.FLR_STATUS) (h3 : a ≠ Reg.FRM_STATUS) :
    reg (madeMember s) a = reg s a := by
  rw [madeMember, reg_raise_ne _ _ h1.symm, setFlrState, reg_setFld_ne _ _ _ h2.symm, setJoined, reg_setFld_ne _ _ _ h3.symm,
    reg_mapFloor]

theorem madeMember_frm (s : State) : reg (madeMember s) Reg.FRM_STATUS = reg (setJoined s 1) Reg.FRM_STATUS := by
  rw [madeMember, reg_raise_ne _ _ (by decide), setFlrState, reg_setFld_ne _ _ _ (by decide), setJoined, setFld,
    reg_setReg_self, reg_mapFloor, setJoined, setFld, reg_setReg_self]

theorem ticksAlong_reg (s : State) {a : Nat} (h : a ≠ Reg.FRM_STATUS) : reg (ticksAlong s) a = reg s a := by
  rw [ticksAlong, reg_setFld_ne _ _ _ h.symm, reg_setFld_ne _ _ _ h.symm]

theorem joinNow_joins (s : State) (bu : Burst) : Joins s (joinNow s bu) bu := by
  rw [joinNow_eq]
  have htick : fld (ticksAlong (framesTaken s bu)) Reg.FRM_STATUS Fld.FRM_STATUS_TICKING = 1 := by
    rw [ticksAlong, fld_setFld_ne _ _ _ _ _ (by decide) (by decide) (by decide) (by decide),
      fld_setFld _ _ _ _ (by decide) (by decide)]
    decide
  have hlead : fld (ticksAlong (framesTaken s bu)) Reg.FRM_STATUS Fld.FRM_STATUS_LEADER = 0 :=
    fld_setFld _ _ _ _ (by decide) (by decide)
  have hframe : frameNo (ticksAlong (framesTaken s bu)) = bu.frame % 2 ^ 64 := by
    rw [frameNo, reg64_of_reg (ticksAlong_reg _ (by decide)) (ticksAlong_reg _ (by decide)), framesTaken,
      reg64_setReg64_ne _ _ (by decide) (by decide) (by decide), reg64_setReg64]
  have hpindex : pindex (ticksAlong (framesTaken s bu)) = leAt bu.payload 8 8 % 2 ^ 64 := by
    rw [Machine.pindex, reg64_of_reg (ticksAlong_reg _ (by decide)) (ticksAlong_reg _ (by decide)), framesTaken,
      reg64_setReg64]
  have hbeacons : reg (ticksAlong (framesTaken s bu)) Reg.FLR_BEACONS = reg s Reg.FLR_BEACONS := by
    rw [ticksAlong_reg _ (by decide), framesTaken, reg_setReg64_ne _ _ (by decide) (by decide),
      reg_setReg64_ne _ _ (by decide) (by decide)]
  have hform : RegsOnly s (ticksAlong (framesTaken s bu)) :=
    (((regsOnly_setReg64 s _ _).trans (regsOnly_setReg64 _ _ _)).trans (regsOnly_setFld _ _ _ _)).trans
      (regsOnly_setFld _ _ _ _)
  generalize ticksAlong (framesTaken s bu) = u at htick hlead hframe hpindex hbeacons hform ⊢
  refine ⟨?_, ?_, ?_, ?_, ?_, ?_, ?_, fld_raise _ _ 0 (by decide), ?_⟩
  · have hmade : RegsOnly (mapFloor u fun x => { x with jsent := none, fails := 0 }) (madeMember u) :=
      ((regsOnly_setFld _ _ _ _).trans (regsOnly_setFld _ _ _ _)).trans (regsOnly_raise _ _ _)
    refine Eq.trans hmade ?_
    generalize (madeMember u).regs = regs
    rw [hform]
    rfl
  · rw [flrState, madeMember, fld_of_reg (reg_raise_ne _ _ (by decide)), setFlrState, fld_setFld _ _ _ _ (by decide) (by decide)]
    decide
  · rw [fld_of_reg (madeMember_frm u), setJoined, fld_setFld _ _ _ _ (by decide) (by decide)]
    decide
  · rw [fld_of_reg (madeMember_frm u), setJoined, fld_setFld_ne _ _ _ _ _ (by decide) (by decide) (by decide) (by decide), htick]
  · rw [fld_of_reg (madeMember_frm u), setJoined, fld_setFld_ne _ _ _ _ _ (by decide) (by decide) (by decide) (by decide), hlead]
  · exact (reg64_of_reg (madeMember_reg u (by decide) (by decide) (by decide))
      (madeMember_reg u (by decide) (by decide) (by decide))).trans hframe
  · exact (reg64_of_reg (madeMember_reg u (by decide) (by decide) (by decide))
      (madeMember_reg u (by decide) (by decide) (by decide))).trans hpindex
  · rw [madeMember_reg u (by decide) (by decide) (by decide), hbeacons]

/-! ## Echoes (R466, R469) -/

/-- A whole echo ranges the device and FLR_RANGE shows the delay. -/
def echoTaken (s : State) (d : Nat) : State :=
  setFld (mapFloor (mapFloor s fun x => { x with echo := false }) fun x =>
    { x with ranged := true, w := 64, applied := if !s.floor.ranged then d else x.applied }) Reg.FLR_RANGE
    Fld.FLR_RANGE_DELAY d

theorem rangeEcho_whole {s : State} (d : Nat) (h : s.floor.echo = true) : rangeEcho s d true =
    if flrState (echoTaken s d) = fsRange
    then joinWindow (setFlrState (echoTaken s d) fsJoin) (frameNo (echoTaken s d)) else echoTaken s d := by
  unfold rangeEcho
  rw [if_neg (by simp [h])]
  rfl

theorem echoTaken_reg (s : State) (d : Nat) {a : Nat} (h : a ≠ Reg.FLR_RANGE) : reg (echoTaken s d) a = reg s a := by
  rw [echoTaken, reg_setFld_ne _ _ _ h.symm, reg_mapFloor, reg_mapFloor]

theorem echoTaken_form (s : State) (d : Nat) : echoTaken s d = { s with regs := (echoTaken s d).regs, floor := { s.floor with
    echo := false, ranged := true, w := 64, applied := if s.floor.ranged then s.floor.applied else d } } := by
  have h : RegsOnly (mapFloor (mapFloor s fun x => { x with echo := false }) fun x =>
      { x with ranged := true, w := 64, applied := if !s.floor.ranged then d else x.applied }) (echoTaken s d) := rfl
  refine Eq.trans h ?_
  generalize (echoTaken s d).regs = regs
  unfold mapFloor
  cases s.floor.ranged <;> rfl

theorem rangeEcho_collides {s : State} (d : Nat) (h : s.floor.echo = true) : rangeEcho s d false =
    if s.floor.ranged then bump (mapFloor s fun x => { x with echo := false }) Reg.FLR_COLLIDE 1
    else drawRange (mapFloor (bump (mapFloor s fun x => { x with echo := false }) Reg.FLR_COLLIDE 1) fun x =>
      { x with w := min (2 * x.w) 1024 }) (frameNo (bump (mapFloor s fun x => { x with echo := false }) Reg.FLR_COLLIDE 1) + 1) := by
  unfold rangeEcho
  rw [if_neg (by simp [h])]
  rfl

/-! ## JOIN (R482) -/

/-- The payload of a JOIN. -/
def joinPayload (s : State) : List Byte :=
  leBytes 2 s.seed.period ++ leBytes 1 s.seed.win ++ leBytes 1 0
    ++ leBytes 2 (fld s Reg.FWM_VERSION Fld.FWM_VERSION_MAJOR) ++ leBytes 2 0

theorem joinPayload_period (s : State) : leAt (joinPayload s) 0 2 = s.seed.period % 2 ^ 16 := by
  simp only [joinPayload, List.append_assoc]
  rw [leAt_append_self _ (leBytes_length 2 _), leNat_leBytes]
  rfl

theorem joinPayload_win (s : State) : leAt (joinPayload s) 2 1 = s.seed.win % 2 ^ 8 := by
  simp only [joinPayload, List.append_assoc]
  rw [leAt_append_right _ _ (leBytes_length 2 _).le, leBytes_length, leAt_append_self _ (leBytes_length 1 _), leNat_leBytes]
  rfl

end Sys2Proof.Machine

namespace Sys2Proof.Settled

open Sys2Proof.Machine

section
variable {s : State} (ha : alive s = true)
include ha

theorem range_sent (hl : flrState s = fsRange) (hr : s.floor.ranged = false) (he : s.floor.echo = false)
    (hodd : frameNo s % 2 = 1) (hslot : s.floor.rslot ≤ frameNo s) : Runs .rangeAttempt s fun t =>
      t.floor = { s.floor with echo := true }
        ∧ t = { s with floor := t.floor, wire := s.wire ++ [.burst (mkBurst s btRange [])], msix := t.msix, edge := t.edge } := by
  have hact : rangeAttempt s = mapFloor (sendBurst s btRange []) fun x => { x with echo := true } :=
    if_pos (by simp [hl, hr, he, hodd, hslot])
  refine runs_finish rfl ha ?_
  rw [hact]
  exact ⟨rfl, rfl⟩

theorem echo_shown (d : Nat) (he : s.floor.echo = true) (hl : flrState s ≠ fsRange) : Runs (.rangeEcho d true) s fun t =>
    fld t Reg.FLR_RANGE Fld.FLR_RANGE_DELAY = d % 2 ^ (Fld.FLR_RANGE_DELAY.hi + 1 - Fld.FLR_RANGE_DELAY.lo)
      ∧ t.floor.ranged = true ∧ t.floor.echo = false ∧ t.floor.w = 64
      ∧ OnlyRegs { s with floor := t.floor } t [Reg.FLR_RANGE] := by
  have hstate : flrState (echoTaken s d) = flrState s := fld_of_reg (echoTaken_reg s d (by decide)) _
  have hdelay : fld (echoTaken s d) Reg.FLR_RANGE Fld.FLR_RANGE_DELAY =
      d % 2 ^ (Fld.FLR_RANGE_DELAY.hi + 1 - Fld.FLR_RANGE_DELAY.lo) := fld_setFld _ _ _ _ (by decide) (by decide)
  have hform := echoTaken_form s d
  have hregs (a : Nat) (h : a ≠ Reg.FLR_RANGE) := echoTaken_reg s d h
  refine runs_finish rfl ha ?_
  rw [rangeEcho_whole d he, if_neg (by rwa [hstate])]
  generalize echoTaken s d = u at hdelay hform hregs ⊢
  refine ⟨hdelay, ?_, ?_, ?_, ?_, fun a h => hregs a fun heq => h (List.mem_singleton.2 heq)⟩
  · rw [hform]; rfl
  · rw [hform]; rfl
  · rw [hform]; rfl
  · rw [hform]; rfl

theorem echo_ranges (d : Nat) (he : s.floor.echo = true) (hl : flrState s = fsRange) : Runs (.rangeEcho d true) s fun t =>
    t.floor.ranged = true ∧ t.floor.applied = (if s.floor.ranged then s.floor.applied else d) ∧ flrState t = fsJoin
      ∧ RegsBut s t [Reg.FLR_RANGE, Reg.FLR_STATUS] := by
  have hstate : flrState (echoTaken s d) = flrState s := fld_of_reg (echoTaken_reg s d (by decide)) _
  have hform := echoTaken_form s d
  have hregs (a : Nat) (h : a ≠ Reg.FLR_RANGE) := echoTaken_reg s d h
  refine runs_finish rfl ha ?_
  rw [rangeEcho_whole d he, if_pos (by rwa [hstate])]
  generalize echoTaken s d = u at hform hregs ⊢
  have hfloor : u.floor = { s.floor with
      echo := false, ranged := true, w := 64, applied := if s.floor.ranged then s.floor.applied else d } := by rw [hform]
  have hjoin : flrState (setFlrState u fsJoin) = fsJoin := fld_setFld u Reg.FLR_STATUS _ fsJoin (by decide) (by decide)
  have hwindow := joinWindow_form (setFlrState u fsJoin) (frameNo u)
  have hreg (a : Nat) := joinWindow_reg (setFlrState u fsJoin) (frameNo u) a
  generalize joinWindow (setFlrState u fsJoin) (frameNo u) = v at hwindow hreg ⊢
  have hv : v.floor.ranged = u.floor.ranged ∧ v.floor.applied = u.floor.applied := by rw [hwindow]; exact ⟨rfl, rfl⟩
  refine ⟨hv.1.trans (by rw [hfloor]), hv.2.trans (by rw [hfloor]), (fld_of_reg (hreg _) _).trans hjoin, fun a h => ?_⟩
  simp only [List.mem_cons, List.not_mem_nil, or_false, not_or] at h
  rw [ended_reg, hreg, setFlrState, reg_setFld_ne _ _ _ (Ne.symm h.2), hregs a h.1]

theorem echo_collides (d : Nat) (he : s.floor.echo = true) : Runs (.rangeEcho d false) s fun t =>
    t.floor.w = (if s.floor.ranged then s.floor.w else min (2 * s.floor.w) 1024) ∧ t.floor.ranged = s.floor.ranged
      ∧ t.floor.echo = false ∧ regN t Reg.FLR_COLLIDE = min (regN s Reg.FLR_COLLIDE + 1) 0xFFFFFFFF
      ∧ RegsBut s t [Reg.FLR_COLLIDE] := by
  refine runs_finish rfl ha ?_
  rw [rangeEcho_collides d he]
  have hcount : regN (bump (mapFloor s fun x => { x with echo := false }) Reg.FLR_COLLIDE 1) Reg.FLR_COLLIDE
      = min (regN s Reg.FLR_COLLIDE + 1) 0xFFFFFFFF := by rw [regN_bump, regN_of_reg (reg_mapFloor _ _ _)]
  have hregs : RegsBut s (bump (mapFloor s fun x => { x with echo := false }) Reg.FLR_COLLIDE 1) [Reg.FLR_COLLIDE] := by
    intro a h
    rw [reg_bump_ne _ _ fun heq => h (List.mem_singleton.2 heq.symm), reg_mapFloor]
  have hfloor : (bump (mapFloor s fun x => { x with echo := false }) Reg.FLR_COLLIDE 1).floor = { s.floor with echo := false } :=
    rfl
  generalize bump (mapFloor s fun x => { x with echo := false }) Reg.FLR_COLLIDE 1 = u at hcount hregs hfloor ⊢
  have hw : u.floor.w = s.floor.w := by rw [hfloor]
  have hranged : u.floor.ranged = s.floor.ranged := by rw [hfloor]
  have hecho : u.floor.echo = false := by rw [hfloor]
  split
  · exact ⟨hw, hranged, hecho, hcount, hregs⟩
  · have hdrawn : (drawRange (mapFloor u fun x => { x with w := min (2 * x.w) 1024 }) (frameNo u + 1)).floor.w
        = min (2 * u.floor.w) 1024 := rfl
    exact ⟨hdrawn.trans (by rw [hw]), hranged, hecho, hcount, hregs⟩

theorem join_sent (hl : flrState s = fsJoin) (hr : s.floor.ranged = true) (hj : s.floor.jsent = none)
    (hslot : s.floor.jslot ≤ frameNo s) : Runs .joinAttempt s fun t =>
      t.floor.jsent = some (frameNo s) ∧ t.regs = s.regs
        ∧ ∃ x, t.wire = s.wire ++ [.burst x] ∧ x.kind = btJoin ∧ x.src = deviceId s ∧ x.frame = frameNo s
          ∧ leAt x.payload 0 2 = s.seed.period % 2 ^ 16 ∧ leAt x.payload 2 1 = s.seed.win % 2 ^ 8 := by
  have hact : joinAttempt s = mapFloor (sendBurst s btJoin (joinPayload s)) fun x =>
      { x with jsent := some (frameNo s), cont := some (frameNo s) } := if_pos (by simp [hl, hr, hj, hslot])
  refine runs_finish rfl ha ?_
  rw [hact]
  have hperiod := joinPayload_period s
  have hwin := joinPayload_win s
  generalize joinPayload s = payload at hperiod hwin ⊢
  exact ⟨rfl, rfl, mkBurst s btJoin payload, rfl, rfl, rfl, rfl, hperiod, hwin⟩

end

section
variable {s : State} {bu : Burst} (hh : Statements.Heard s btBeacon bu) (hsrc : bu.src ≠ deviceId s)
  (he : exiting s = false)
include hh hsrc he

/-- A device that does not lead takes the beacon, and what follows is a matter of its state. -/
theorem hearBeacon_taken (hl : flrState s ≠ fsLeader) :
    ∃ u, Taken s u ∧ hearBeacon s bu = holdShown (beaconJoin u bu) bu := by
  refine ⟨beaconTaken (beaconNoted s bu) bu, beaconTaken_taken s bu, ?_⟩
  have hstate : flrState (beaconNoted s bu) = flrState s := fld_of_reg (beaconNoted_reg s bu (by decide)) _
  have hout : exiting (beaconNoted s bu) = false := by
    unfold exiting at he ⊢
    rw [fld_of_reg (beaconNoted_reg s bu (by decide)), he]
  rw [hearBeacon_other hh hsrc, beaconOther_joins (by rwa [hstate]) hout]

theorem beacon_period (hw : flrState s = fsListen ∨ flrState s = fsRange ∨ flrState s = fsJoin)
    (hp : otherPeriod s bu = true) : Runs (.beacon bu) s fun t => flrState t = fsListen
      ∧ fld t Reg.FLR_STATUS Fld.FLR_STATUS_REASON = frPeriod ∧ t.floor.jsent = none ∧ MemSame s t := by
  have hl : flrState s ≠ fsLeader := by rcases hw with h | h | h <;> rw [h] <;> decide
  obtain ⟨u, hu, hact⟩ := hearBeacon_taken hh hsrc he hl
  have hp' := (hu.otherPeriod bu).trans hp
  refine runs_finish rfl hh.1 ?_
  rw [hact, beaconJoin_period (by rwa [hu.state]) hp']
  have hstate := periodRefused_state u
  have hreason := periodRefused_reason u
  have hnone : (periodRefused u).floor.jsent = none := rfl
  have hmem : MemSame s u := by rw [hu.form]; exact ⟨rfl, rfl⟩
  have hform : RegsOnly (mapFloor u fun x => { x with jsent := none }) (periodRefused u) :=
    (regsOnly_setFld _ _ _ _).trans (regsOnly_setFld _ _ _ _)
  generalize periodRefused u = v at hstate hreason hnone hform ⊢
  have hshown := regsOnly_holdShown v bu
  have hreg := holdShown_reg v bu (a := Reg.FLR_STATUS) (by decide) (by decide) (by decide)
  generalize holdShown v bu = w at hshown hreg ⊢
  have hstate' : flrState w = fsListen := (fld_of_reg hreg _).trans hstate
  have hreason' : fld w Reg.FLR_STATUS Fld.FLR_STATUS_REASON = frPeriod := (fld_of_reg hreg _).trans hreason
  have hnone' : w.floor.jsent = none := by rw [hshown.floor, hnone]
  exact ⟨(ended_fld _ _ _ _).trans hstate', (ended_fld _ _ _ _).trans hreason',
    (congrArg FloorSt.jsent (ended_floor s w)).trans hnone',
    memSame_ended s (((memSame_mapFloor hmem _).trans hform.memSame).trans hshown.memSame)⟩

theorem beacon_listens (hl : flrState s = fsListen) (hp : otherPeriod s bu = false) : Runs (.beacon bu) s fun t =>
    frameNo t = bu.frame % 2 ^ 64 ∧ flrState t = (if s.floor.ranged then fsJoin else fsRange) ∧ MemSame s t := by
  obtain ⟨u, hu, hact⟩ := hearBeacon_taken hh hsrc he (by rw [hl]; decide)
  have hp' := (hu.otherPeriod bu).trans hp
  have hmem : MemSame s u := by rw [hu.form]; exact ⟨rfl, rfl⟩
  refine runs_finish rfl hh.1 ?_
  rw [hact, beaconJoin_listens (hu.state.trans hl) hp', hu.ranged]
  have hway (v : State) (n : Nat) (hv : n < 8)
      (hreg : ∀ a, reg v a = reg (setFlrState (setReg64 u Reg.FRM_COUNT_LO bu.frame) n) a) (hmem' : MemSame u v) :
      frameNo (holdShown v bu) = bu.frame % 2 ^ 64 ∧ flrState (holdShown v bu) = n ∧ MemSame s (holdShown v bu) := by
    refine ⟨?_, ?_, (hmem.trans hmem').trans (regsOnly_holdShown v bu).memSame⟩
    · rw [frameNo, reg64_of_reg (holdShown_reg v bu (by decide) (by decide) (by decide))
        (holdShown_reg v bu (by decide) (by decide) (by decide)), reg64_of_reg (hreg _) (hreg _), setFlrState,
        reg64_of_reg (reg_setFld_ne _ _ _ (by decide)) (reg_setFld_ne _ _ _ (by decide)), reg64_setReg64]
    · rw [flrState, fld_of_reg (holdShown_reg v bu (by decide) (by decide) (by decide)), fld_of_reg (hreg _), setFlrState,
        fld_setFld _ _ _ _ (by decide) (by decide)]
      exact Nat.mod_eq_of_lt hv
  split
  · obtain ⟨h1, h2, h3⟩ := hway (joinWindow (setFlrState (setReg64 u Reg.FRM_COUNT_LO bu.frame) fsJoin) bu.frame) fsJoin
      (by decide) (joinWindow_reg _ _)
      (((regsOnly_setReg64 u _ _).trans (regsOnly_setFld _ _ _ _)).memSame.trans (joinWindow_memSame _ _))
    generalize holdShown _ bu = w at h1 h2 h3 ⊢
    exact ⟨h1, h2, memSame_ended s h3⟩
  · obtain ⟨h1, h2, h3⟩ := hway (drawRange (setFlrState (setReg64 u Reg.FRM_COUNT_LO bu.frame) fsRange) bu.frame) fsRange
      (by decide) (drawRange_reg _ _)
      (((regsOnly_setReg64 u _ _).trans (regsOnly_setFld _ _ _ _)).memSame.trans (drawRange_memSame _ _))
    generalize holdShown _ bu = w at h1 h2 h3 ⊢
    exact ⟨h1, h2, memSame_ended s h3⟩

theorem beacon_joins (hl : flrState s = fsJoin) (hp : otherPeriod s bu = false) (hm : beaconMember bu (fidx s) = true) :
    Runs (.beacon bu) s fun t => flrState t = fsMember ∧ joined t = true ∧ frameNo t = bu.frame % 2 ^ 64
      ∧ pindex t = leAt bu.payload 8 8 ∧ fld t Reg.FLR_INTSTAT Fld.FLR_INTSTAT_JOINED = 1
      ∧ fld t Reg.FRM_STATUS Fld.FRM_STATUS_TICKING = 1 ∧ fld t Reg.FRM_STATUS Fld.FRM_STATUS_LEADER = 0
      ∧ t.floor.heard = true ∧ t.floor.jsent = none
      ∧ regN t Reg.FLR_BEACONS = min (regN s Reg.FLR_BEACONS + 1) 0xFFFFFFFF ∧ MemSame s t := by
  obtain ⟨u, hu, hact⟩ := hearBeacon_taken hh hsrc he (by rw [hl]; decide)
  have hp' := (hu.otherPeriod bu).trans hp
  have hidx : fidx u = fidx s := fld_of_reg (hu.regs _ (by decide) (by decide) (by decide)) _
  have hmem : MemSame s u := by rw [hu.form]; exact ⟨rfl, rfl⟩
  refine runs_finish rfl hh.1 ?_
  rw [hact, beaconJoin_joins (hu.state.trans hl) hp' (by rwa [hidx])]
  have hj := joinNow_joins u bu
  generalize joinNow u bu = v at hj ⊢
  have hvmem : MemSame u v := by rw [hj.form]; exact ⟨rfl, rfl⟩
  have hvheard : v.floor.heard = u.floor.heard ∧ v.floor.jsent = none := by rw [hj.form]; exact ⟨rfl, rfl⟩
  have hshown := regsOnly_holdShown v bu
  have hreg {a : Nat} (h1 : a ≠ Reg.FRM_STATUS) (h2 : a ≠ Reg.FLR_HOLD) (h3 : a ≠ Reg.FRM_INTSTAT) := holdShown_reg v bu h1 h2 h3
  have hfrm {f : Fld} (hf : f.lo ≤ f.hi) (hd : f.hi < 3 ∨ 3 < f.lo) := fld_holdShown v bu hf hd
  generalize holdShown v bu = w at hshown hreg hfrm ⊢
  have hpayload : leAt bu.payload 8 8 % 2 ^ 64 = leAt bu.payload 8 8 := by
    refine Nat.mod_eq_of_lt (lt_of_lt_of_le (leNat_lt _) (Nat.pow_le_pow_right (n := 256) (by decide) (j := 8) ?_))
    rw [List.length_take]
    exact Nat.min_le_left _ _
  exact ⟨(fld_of_reg (hreg (by decide) (by decide) (by decide)) _).trans hj.state,
    joined_of_fld ((hfrm (by decide) (by decide)).trans hj.joined),
    (reg64_of_reg (hreg (by decide) (by decide) (by decide)) (hreg (by decide) (by decide) (by decide))).trans hj.frame,
    ((reg64_of_reg (hreg (by decide) (by decide) (by decide)) (hreg (by decide) (by decide) (by decide))).trans
      hj.pindex).trans hpayload,
    (fld_of_reg (hreg (by decide) (by decide) (by decide)) _).trans hj.event, (hfrm (by decide) (by decide)).trans hj.ticking,
    (hfrm (by decide) (by decide)).trans hj.notLeading,
    (congrArg FloorSt.heard hshown.floor).trans (hvheard.1.trans hu.heard),
    (congrArg FloorSt.jsent hshown.floor).trans hvheard.2,
    (regN_of_reg (hreg (by decide) (by decide) (by decide))).trans ((regN_of_reg hj.beacons).trans hu.beacons),
    memSame_ended s ((hmem.trans hvmem).trans hshown.memSame)⟩

end

theorem statements_floorJoining : Statements.FloorJoining := fun _ ha =>
  ⟨range_sent ha, echo_shown ha, echo_ranges ha, echo_collides ha, join_sent ha,
    fun _ hh hsrc he hw => ⟨beacon_period hh hsrc he hw, fun hp hl => beacon_listens hh hsrc he hl hp⟩,
    fun _ hh hsrc he => beacon_joins hh hsrc he⟩

end Sys2Proof.Settled
end

section
/-! PROOF. What a member of a Floor sends (R463, R480, R486 to R489). -/

namespace Sys2Proof.Machine

theorem endSlot_floorOnly (s : State) : FloorOnly s (endSlot s) := by
  obtain ⟨silent, h⟩ := endSlot_form s
  rw [h]
  rfl

section
variable {s t : State} (h : FloorOnly s t)
include h

theorem FloorOnly.joined : Machine.joined t = Machine.joined s := by rw [Machine.joined, h.fld, Machine.joined]
theorem FloorOnly.frameNo : Machine.frameNo t = Machine.frameNo s := reg64_of_reg (h.reg _) (h.reg _)
theorem FloorOnly.fidx : Machine.fidx t = Machine.fidx s := h.fld _ _
theorem FloorOnly.flrState : Machine.flrState t = Machine.flrState s := h.fld _ _
theorem FloorOnly.mkBurst (kind : Nat) (payload : List Byte) :
    Machine.mkBurst t kind payload = Machine.mkBurst s kind payload := by rw [h]; rfl
theorem FloorOnly.telemOwner (k : Nat) : Machine.telemOwner t k = Machine.telemOwner s k := by
  rw [Machine.telemOwner, Machine.telemOwner, h.frameNo, h.fld]
theorem FloorOnly.free : t.free = s.free := by rw [h]

end

/-- The flags that a member flashes are those of its open steps, its barriers and the flags of the frame. -/
theorem flashes_congr {s t : State} (hstep : t.step = s.step) (hfab : t.fab = s.fab)
    (hreg : ∀ b < 8, reg t (Reg.FAB_PBAR b) = reg s (Reg.FAB_PBAR b)) : flashes t = flashes s := by
  have hwait : ∀ b ∈ List.range 8, (pbarOn t b && !pbarMine t b) = (pbarOn s b && !pbarMine s b) := by
    intro b hb
    have hon : pbarOn t b = pbarOn s b := by
      rw [pbarOn, pbarOn, pbar, pbar, fld_of_reg (hreg b (List.mem_range.1 hb))]
    rw [hon, pbarMine, pbarMine, pbarGen, pbarGen, hfab]
  rw [flashes, flashes, hstep, hfab, List.filter_congr hwait]

theorem FloorOnly.flashes {s t : State} (h : FloorOnly s t) : Machine.flashes t = Machine.flashes s :=
  flashes_congr (by rw [h]) (by rw [h]) fun _ _ => h.reg _

/-- A frame without a beacon is counted. -/
def missCounted (s : State) : State :=
  mapFloor (bump s Reg.FLR_BEACONMISS 1) fun x => { x with judged := true, run := min (x.run + 1) 4096 }

theorem judgeFrame_missed {s : State} (hh : s.floor.heard = false) (hj : s.floor.judged = false) (hr : s.seed.read = true)
    (hm : joined s = true) : ∃ n, judgeFrame s = showHold (missCounted s) true n := by
  have hcond : ¬(s.floor.heard || s.floor.judged || !s.seed.read) = true := by simp [hh, hj, hr]
  have hm' : joined (missCounted s) = true := by
    refine joined_of_fld (Eq.trans (fld_of_reg ?_ _) (of_decide_eq_true hm))
    rw [missCounted, reg_mapFloor, reg_bump_ne _ _ (by decide)]
  exact ⟨_, (if_neg hcond).trans (if_pos hm')⟩

theorem endSlot_kept (s : State) : (endSlot s).floor.heard = s.floor.heard ∧ (endSlot s).floor.judged = s.floor.judged
    ∧ (endSlot s).floor.leaving = s.floor.leaving ∧ (endSlot s).floor.run = s.floor.run := by
  obtain ⟨silent, h⟩ := endSlot_form s
  rw [h]
  exact ⟨rfl, rfl, rfl, rfl⟩

/-- A member that has heard no beacon holds over, and the frame is counted. -/
structure Missed (s t : State) : Prop where
  wire : t.wire = s.wire
  joined : joined t = true
  leaving : t.floor.leaving = s.floor.leaving
  run : t.floor.run = min (s.floor.run + 1) 4096
  missed : regN t Reg.FLR_BEACONMISS = min (regN s Reg.FLR_BEACONMISS + 1) 0xFFFFFFFF
  holdover : fld t Reg.FRM_STATUS Fld.FRM_STATUS_HOLDOVER = 1
  flashes : flashes t = flashes s

theorem judged_missed {s : State} (hh : s.floor.heard = false) (hj : s.floor.judged = false) (hr : s.seed.read = true)
    (hm : joined s = true) : Missed s (judgeFrame s) := by
  obtain ⟨n, h⟩ := judgeFrame_missed hh hj hr hm
  have hcount : regN (missCounted s) Reg.FLR_BEACONMISS = min (regN s Reg.FLR_BEACONMISS + 1) 0xFFFFFFFF := by
    rw [missCounted, regN_of_reg (reg_mapFloor _ _ _), regN_bump]
  have hreg (a : Nat) (ha : a ≠ Reg.FLR_BEACONMISS) : reg (missCounted s) a = reg s a := by
    rw [missCounted, reg_mapFloor, reg_bump_ne _ _ ha.symm]
  have hwire : (missCounted s).wire = s.wire := rfl
  have hstep : (missCounted s).step = s.step := rfl
  have hfab : (missCounted s).fab = s.fab := rfl
  have hleaving : (missCounted s).floor.leaving = s.floor.leaving := rfl
  have hrun : (missCounted s).floor.run = min (s.floor.run + 1) 4096 := rfl
  rw [h]
  generalize missCounted s = u at hcount hreg hwire hstep hfab hleaving hrun ⊢
  have hshown := regsOnly_showHold u true n
  have hshownStep : (showHold u true n).step = u.step := by rw [hshown]
  refine ⟨hshown.wire.trans hwire, joined_of_fld ?_, ?_, ?_, ?_, showHold_holdover u n, ?_⟩
  · rw [fld_showHold u true n (by decide) (by decide), fld_of_reg (hreg _ (by decide))]
    exact of_decide_eq_true hm
  · rw [hshown.floor, hleaving]
  · rw [hshown.floor, hrun]
  · rw [regN_of_reg (showHold_reg u true n (by decide) (by decide) (by decide)), hcount]
  · refine flashes_congr (hshownStep.trans hstep) (hshown.fab.trans hfab) fun b hb => ?_
    have hbar : Reg.FAB_PBAR b / 2 ^ 24 = 9 := by simp only [Reg.FAB_PBAR]; omega
    have hne {a : Nat} (ha : a / 2 ^ 24 ≠ 9) : Reg.FAB_PBAR b ≠ a := fun h => ha (h ▸ hbar)
    rw [showHold_reg u true n (hne (by decide)) (hne (by decide)) (hne (by decide)), hreg _ (hne (by decide))]

theorem judgeFrame_heard {s : State} (hh : s.floor.heard = true) : judgeFrame s = s := if_pos (by simp [hh])

theorem slotBegins_flags {s : State} (hj : joined (judgeFrame s) = true) (hl : (judgeFrame s).floor.leaving = none) :
    slotBegins s .flags = { judgeFrame s with wire := (judgeFrame s).wire ++ (flashes (judgeFrame s)).map Wire.flash } := by
  unfold slotBegins
  dsimp only
  exact if_pos (by simp [hj, hl])

theorem slotBegins_ranging {s : State} (hj : joined s = true) (heven : frameNo s % 2 = 0)
    (hown : frameNo s / 2 % 256 = fidx s) :
    slotBegins s .ranging = mapFloor (sendBurst s btRange []) fun x => { x with echo := true } :=
  if_pos (by simp [hj, heven, hown])

theorem slotBegins_ownTelemetry {s : State} {k : Nat} (hj : joined s = true)
    (hk : k < fld s Reg.FLR_NTEL Fld.FLR_NTEL_NTEL) (ho : telemOwner s k = fidx s) : slotBegins s (.telemetry k) =
      sendHeard { sendBurst s btTelem ((Config.telemetry s.free).take 448) with free := s.free + 1 } :=
  (if_neg (by simp [hj, hk])).trans (if_pos ho)

theorem slotBegins_telemetry {s : State} {k : Nat} (hj : joined s = true)
    (hk : k < fld s Reg.FLR_NTEL Fld.FLR_NTEL_NTEL) (ho : telemOwner s k ≠ fidx s) (hl : flrState s = fsLeader)
    (hm : isMember s (telemOwner s k) = true) :
    slotBegins s (.telemetry k) = mapFloor s fun x => { x with due := some (telemOwner s k) } :=
  ((if_neg (by simp [hj, hk])).trans (if_neg ho)).trans (if_pos (by simp [hl, hm]))

/-- The device keeps its counts of silence. -/
def SilentSame (s t : State) : Prop := t.floor.silent = s.floor.silent

theorem stopLeading_silent (s : State) (n : Nat) : SilentSame s (stopLeading s n) := by
  unfold stopLeading
  dsimp only
  split <;> rfl

theorem judgeFrame_silent (s : State) : SilentSame s (judgeFrame s) := by
  unfold judgeFrame
  dsimp only
  split
  · rfl
  · split
    · exact (congrArg FloorSt.silent (regsOnly_showHold _ _ _).floor).trans rfl
    · rfl

theorem beaconSent_silent (s : State) : SilentSame s (beaconSent s) := rfl

/-- What a slot begins with leaves the counts of silence. -/
theorem slotBegins_silent (s : State) (slot : FloorSlot) : SilentSame s (slotBegins s slot) := by
  unfold slotBegins
  split
  · split
    · rw [sendBeacon_eq]
      split
      · have h := stopLeading_silent (beaconSent s) fsMember
        generalize stopLeading (beaconSent s) fsMember = u at h ⊢
        exact Eq.trans h (beaconSent_silent s)
      · exact beaconSent_silent s
    · rfl
  · dsimp only
    split
    · exact judgeFrame_silent s
    · exact judgeFrame_silent s
  · split <;> rfl
  · split
    · rfl
    · split
      · rfl
      · split <;> rfl

/-! ## Claims and leaving (R480, R487) -/

theorem claimAttempt_sends {s : State} (hj : joined s = true) (hl : flrState s = fsMember) (hk : 0 < lrank s)
    (hb : lrank s < s.floor.brank) (ht : timeSource s = true) (hh : s.floor.bhold = true) (hn : s.floor.takes = false)
    (hslot : s.floor.cslot ≤ frameNo s) : ∃ d, claimAttempt s = mapFloor { sendBurst s btClaim [] with free := s.free + 1 }
      fun x => { x with ctries := s.floor.ctries + 1, cslot := frameNo s + 1 + d, cont := some (frameNo s) } := by
  have hcond : (joined s && decide (flrState s = fsMember) && decide (lrank s ≠ 0) && decide (lrank s < s.floor.brank)
      && timeSource s && s.floor.bhold && !s.floor.takes && decide (s.floor.cslot ≤ frameNo s)) = true := by
    simp [hj, hl, hb, ht, hh, hn, hslot]
    omega
  exact ⟨_, if_pos hcond⟩

theorem leaveAttempt_sends {s : State} {r : Nat} (hr : s.floor.leaving = some r) (hslot : s.floor.lslot ≤ frameNo s) :
    ∃ d, leaveAttempt s = mapFloor { sendBurst s btLeave (leBytes 1 r) with free := s.free + 1 } fun x => { x with
      ltries := s.floor.ltries + 1, lslot := frameNo s + 1 + d, cont := some (frameNo s)
      leaving := if s.floor.ltries + 1 < 16 then some r else none } := by
  unfold leaveAttempt
  rw [hr]
  dsimp only
  exact ⟨_, if_neg (by omega)⟩

/-! ## The exit of hold-over (R489, R622) -/

/-- The job is over and every bough is pre-empted. -/
def workOver (s : State) : State := endJob (preemptAll s) 11 0

/-- The device has stopped to lead and listens. -/
def exitBegun (s : State) : State :=
  setFld (setFld (stopLeading (startLeave s 1) fsListen) Reg.FLR_HOLD Fld.FLR_HOLD_FRAMES 0) Reg.FRM_STATUS
    Fld.FRM_STATUS_HOLDOVER 0

/-- The device is no longer ranged nor joined, and the mirror is empty. -/
def exited (s : State) : State :=
  raise (setJoined (mapFloor { s with host := { s.host with mirror := [] } } fun x => { x with
    ranged := false, w := 64, echo := false, run := 0, quiet := 0, known := false }) 0) Reg.FRM_INTSTAT
    Fld.FRM_INTSTAT_EXIT.bit

theorem floorExit_leaves {s : State} (hn : 4096 ≤ fld s Reg.FLR_HOLD Fld.FLR_HOLD_FRAMES) (hj : joined s = true) :
    floorExit s = exited (exitBegun (workOver s)) := if_neg (by simp [hj]; omega)

theorem workOver_memSame (s : State) : MemSame s (workOver s) :=
  (preemptAll_jobOver s).mem.trans (endJob_jobOver (preemptAll s) 11 0).mem

theorem exitBegun_state (s : State) : flrState (exitBegun s) = fsListen := by
  rw [flrState, exitBegun, fld_of_reg (reg_setFld_ne _ _ _ (by decide)), fld_of_reg (reg_setFld_ne _ _ _ (by decide))]
  exact stopLeading_state (startLeave s 1) (by decide)

theorem exitBegun_holdover (s : State) : fld (exitBegun s) Reg.FRM_STATUS Fld.FRM_STATUS_HOLDOVER = 0 :=
  fld_setFld _ _ _ _ (by decide) (by decide)

theorem stopLeading_kept (s : State) (n : Nat) : MemSame s (stopLeading s n)
    ∧ (stopLeading s n).floor = { s.floor with claims := [], takes := false } := by
  unfold stopLeading
  split
  · exact ⟨⟨rfl, rfl⟩, rfl⟩
  · exact ⟨⟨rfl, rfl⟩, rfl⟩

theorem exitBegun_kept (s : State) : MemSame s (exitBegun s) ∧ (exitBegun s).floor.leaving = some 1 := by
  obtain ⟨hmem, hfloor⟩ := stopLeading_kept (startLeave s 1) fsListen
  have hshown : RegsOnly (stopLeading (startLeave s 1) fsListen) (exitBegun s) :=
    (regsOnly_setFld _ _ _ _).trans (regsOnly_setFld _ _ _ _)
  have hleave : MemSame s (startLeave s 1) ∧ (startLeave s 1).floor.leaving = some 1 := ⟨⟨rfl, rfl⟩, rfl⟩
  refine ⟨(hleave.1.trans hmem).trans hshown.memSame, ?_⟩
  rw [hshown.floor, hfloor]
  exact hleave.2

theorem exited_reg (s : State) {a : Nat} (h1 : a ≠ Reg.FRM_INTSTAT) (h2 : a ≠ Reg.FRM_STATUS) :
    reg (exited s) a = reg s a := by
  rw [exited, reg_raise_ne _ _ h1.symm, setJoined, reg_setFld_ne _ _ _ h2.symm, reg_mapFloor]
  rfl

theorem exited_frm (s : State) : reg (exited s) Reg.FRM_STATUS = reg (setJoined s 0) Reg.FRM_STATUS := by
  rw [exited, reg_raise_ne _ _ (by decide), setJoined, setFld, reg_setReg_self, reg_mapFloor, setJoined, setFld,
    reg_setReg_self]
  rfl

theorem exited_kept (s : State) : MemSame s (exited s) ∧ (exited s).floor.leaving = s.floor.leaving
    ∧ (exited s).floor.ranged = false ∧ (exited s).host.mirror = [] := ⟨⟨rfl, rfl⟩, rfl, rfl, rfl⟩

end Sys2Proof.Machine

namespace Sys2Proof.Settled

open Sys2Proof.Machine

section
variable {s : State} (ha : alive s = true)
include ha

theorem ranging_sent (hj : joined s = true) (heven : frameNo s % 2 = 0) (hown : frameNo s / 2 % 256 = fidx s) :
    Runs (.floorSlot .ranging) s fun t => t.floor.echo = true
      ∧ t = { s with floor := t.floor, wire := s.wire ++ [.burst (mkBurst s btRange [])], msix := t.msix, edge := t.edge } := by
  have hu := endSlot_floorOnly s
  have hact : floorSlot s .ranging = mapFloor (sendBurst (endSlot s) btRange []) fun x => { x with echo := true } :=
    slotBegins_ranging (hu.joined.trans hj) (by rw [hu.frameNo, heven]) (by rw [hu.frameNo, hown, hu.fidx])
  refine runs_finish rfl ha ?_
  rw [hact, sendBurst, hu.mkBurst, hu.wire]
  generalize endSlot s = u at hu ⊢
  rw [hu]
  exact ⟨rfl, rfl⟩

theorem telemetry_sent {k : Nat} (hj : joined s = true) (hk : k < fld s Reg.FLR_NTEL Fld.FLR_NTEL_NTEL)
    (ho : telemOwner s k = fidx s) : Runs (.floorSlot (.telemetry k)) s fun t => t.regs = s.regs
      ∧ t.wire = s.wire ++ [.burst (mkBurst s btTelem ((Config.telemetry s.free).take 448))] := by
  have hu := endSlot_floorOnly s
  have hact : floorSlot s (.telemetry k) = sendHeard { sendBurst (endSlot s) btTelem
      ((Config.telemetry (endSlot s).free).take 448) with free := (endSlot s).free + 1 } :=
    slotBegins_ownTelemetry (hu.joined.trans hj) (by rwa [hu.fld]) (by rw [hu.telemOwner, ho, hu.fidx])
  refine runs_finish rfl ha ?_
  rw [hact, sendBurst, hu.mkBurst, hu.wire, hu.free]
  generalize endSlot s = u at hu ⊢
  rw [hu]
  exact ⟨rfl, rfl⟩

theorem telemetry_due {k : Nat} (hj : joined s = true) (hk : k < fld s Reg.FLR_NTEL Fld.FLR_NTEL_NTEL)
    (ho : telemOwner s k ≠ fidx s) (hl : flrState s = fsLeader) (hm : isMember s (telemOwner s k) = true) :
    Runs (.floorSlot (.telemetry k)) s fun t => t.floor.due = some (telemOwner s k)
      ∧ t = { s with floor := t.floor, msix := t.msix, edge := t.edge } := by
  have hu := endSlot_floorOnly s
  have hown := hu.telemOwner k
  have hact : floorSlot s (.telemetry k) = mapFloor (endSlot s) fun x => { x with due := some (telemOwner (endSlot s) k) } :=
    slotBegins_telemetry (hu.joined.trans hj) (by rwa [hu.fld]) (by rwa [hown, hu.fidx]) (hu.flrState.trans hl)
      (by rw [hown, isMember_of_reg (hu.reg _), hm])
  refine runs_finish rfl ha ?_
  rw [hact, hown]
  generalize endSlot s = u at hu ⊢
  rw [hu]
  exact ⟨rfl, rfl⟩

theorem silence_counted (slot : FloorSlot) {i : Nat} (hd : s.floor.due = some i) : Runs (.floorSlot slot) s fun t =>
    kget (fun _ => 0) t.floor.silent i = kget (fun _ => 0) s.floor.silent i + 1 := by
  refine runs_finish rfl ha ?_
  have h := slotBegins_silent (endSlot s) slot
  rw [SilentSame, endSlot_silent hd] at h
  have hcount : kget (fun _ => 0) (floorSlot s slot).floor.silent i = kget (fun _ => 0) s.floor.silent i + 1 :=
    (congrArg (fun m => kget (fun _ => 0) m i) h).trans (kget_kset_self _ _ _ _)
  generalize floorSlot s slot = v at hcount ⊢
  exact hcount

theorem flags_missed (hj : joined s = true) (hl : s.floor.leaving = none) (hh : s.floor.heard = false)
    (hn : s.floor.judged = false) (hr : s.seed.read = true) : Runs (.floorSlot .flags) s fun t =>
      t.wire = s.wire ++ (flashes s).map Wire.flash
        ∧ regN t Reg.FLR_BEACONMISS = min (regN s Reg.FLR_BEACONMISS + 1) 0xFFFFFFFF
        ∧ fld t Reg.FRM_STATUS Fld.FRM_STATUS_HOLDOVER = 1 ∧ t.floor.run = min (s.floor.run + 1) 4096 := by
  have hu := endSlot_floorOnly s
  obtain ⟨hheard, hjudged, hleaving, hrun⟩ := endSlot_kept s
  have hread : (endSlot s).seed.read = true := by rw [hu]; exact hr
  have hv := judged_missed (hheard.trans hh) (hjudged.trans hn) hread (hu.joined.trans hj)
  refine runs_finish rfl ha ?_
  rw [floorSlot, slotBegins_flags hv.joined (hv.leaving.trans (hleaving.trans hl)), hv.flashes, hu.flashes, hv.wire, hu.wire]
  generalize judgeFrame (endSlot s) = v at hv ⊢
  have hcount := hv.missed.trans (by rw [regN_of_reg (hu.reg _)])
  have hrun' := hv.run.trans (by rw [hrun])
  exact ⟨rfl, hcount, hv.holdover, hrun'⟩

theorem flags_heard (hj : joined s = true) (hl : s.floor.leaving = none) (hh : s.floor.heard = true) :
    Runs (.floorSlot .flags) s fun t =>
      t = { s with wire := s.wire ++ (flashes s).map Wire.flash, floor := t.floor, msix := t.msix, edge := t.edge } := by
  have hu := endSlot_floorOnly s
  obtain ⟨hheard, -, hleaving, -⟩ := endSlot_kept s
  have hsame := judgeFrame_heard (hheard.trans hh)
  refine runs_finish rfl ha ?_
  rw [floorSlot, slotBegins_flags (by rw [hsame, hu.joined, hj]) (by rw [hsame, hleaving, hl]), hsame, hu.flashes, hu.wire]
  generalize endSlot s = u at hu ⊢
  rw [hu]
  rfl

theorem claim_sent (hj : joined s = true) (hl : flrState s = fsMember) (hk : 0 < lrank s)
    (hb : lrank s < s.floor.brank) (ht : timeSource s = true) (hh : s.floor.bhold = true) (hn : s.floor.takes = false)
    (hslot : s.floor.cslot ≤ frameNo s) : Runs .claimAttempt s fun t =>
      t.wire = s.wire ++ [.burst (mkBurst s btClaim [])] ∧ t.floor.ctries = s.floor.ctries + 1
        ∧ frameNo s < t.floor.cslot ∧ t.regs = s.regs := by
  obtain ⟨d, hact⟩ := claimAttempt_sends hj hl hk hb ht hh hn hslot
  refine runs_finish rfl ha ?_
  rw [hact]
  have hlater : frameNo s < frameNo s + 1 + d := by omega
  exact ⟨rfl, rfl, hlater, rfl⟩

theorem leave_sent {r : Nat} (hr : s.floor.leaving = some r) (hslot : s.floor.lslot ≤ frameNo s) :
    Runs .leaveAttempt s fun t =>
      t.wire = s.wire ++ [.burst (mkBurst s btLeave (leBytes 1 r))] ∧ t.floor.ltries = s.floor.ltries + 1
        ∧ t.floor.leaving = (if s.floor.ltries < 15 then some r else none) ∧ t.regs = s.regs := by
  obtain ⟨d, hact⟩ := leaveAttempt_sends hr hslot
  have hleft : (if s.floor.ltries + 1 < 16 then some r else none) = if s.floor.ltries < 15 then some r else none :=
    if_congr (by omega) rfl rfl
  refine runs_finish rfl ha ?_
  rw [hact, hleft]
  exact ⟨rfl, rfl, rfl, rfl⟩

theorem exit_leaves (hn : 4096 ≤ fld s Reg.FLR_HOLD Fld.FLR_HOLD_FRAMES) (hj : joined s = true) : Runs .floorExit s fun t =>
    joined t = false ∧ flrState t = fsListen ∧ t.floor.leaving = some 1 ∧ t.floor.ranged = false ∧ t.host.mirror = []
      ∧ fld t Reg.FRM_INTSTAT Fld.FRM_INTSTAT_EXIT = 1 ∧ fld t Reg.FRM_STATUS Fld.FRM_STATUS_HOLDOVER = 0
      ∧ MemSame s t := by
  refine runs_finish rfl ha ?_
  rw [floorExit_leaves hn hj]
  have hmem := workOver_memSame s
  generalize workOver s = u at hmem ⊢
  have hstate := exitBegun_state u
  have hhold := exitBegun_holdover u
  obtain ⟨hmem', hleave⟩ := exitBegun_kept u
  generalize exitBegun u = v at hstate hhold hmem' hleave ⊢
  have hreg := exited_reg v (a := Reg.FLR_STATUS) (by decide) (by decide)
  have hfrm := exited_frm v
  obtain ⟨hmem'', hleave', hranged, hmirror⟩ := exited_kept v
  have hexit : fld (exited v) Reg.FRM_INTSTAT Fld.FRM_INTSTAT_EXIT = 1 := fld_raise _ _ 5 (by decide)
  generalize exited v = w at hreg hfrm hmem'' hleave' hranged hmirror hexit ⊢
  have hout : fld w Reg.FRM_STATUS Fld.FRM_STATUS_JOINED = 0 := by
    rw [fld_of_reg hfrm, setJoined, fld_setFld _ _ _ _ (by decide) (by decide)]
    decide
  have hover : fld w Reg.FRM_STATUS Fld.FRM_STATUS_HOLDOVER = 0 := by
    rw [fld_of_reg hfrm, setJoined, fld_setFld_ne _ _ _ _ _ (by decide) (by decide) (by decide) (by decide), hhold]
  have hnot : joined w = false := by rw [joined, hout]; rfl
  exact ⟨hnot, (fld_of_reg hreg _).trans hstate, hleave'.trans hleave, hranged, hmirror, hexit, hover,
    memSame_ended s ((hmem.trans hmem').trans hmem'')⟩

end

theorem statements_floorMember : Statements.FloorMember := fun _ ha =>
  ⟨ranging_sent ha, fun _ => telemetry_sent ha, fun _ => telemetry_due ha, fun slot _ => silence_counted ha slot,
    flags_missed ha, flags_heard ha, claim_sent ha, fun _ => leave_sent ha, exit_leaves ha⟩

/-- Settles O46: what a beacon that is taken leaves (`Taken`, `Joins`) and what each slot begins with are said once. -/
theorem floorMembers : Obligations.FloorMembers := ⟨statements_floorJoining, statements_floorMember⟩

end Sys2Proof.Settled
end

section
/-! PROOF. A start from phase to phase (R505, R517 to R523, R529, R530, R640). -/

namespace Sys2Proof.Machine

/-! ## The phase of a start -/

theorem rsPhase_setPhase (s : State) {k : Nat} (h : k < 16) : rsPhase (setPhase s k) = k :=
  (fld_setFld s Reg.RST_STATUS Fld.RST_STATUS_PHASE k (by decide) (by decide)).trans (Nat.mod_eq_of_lt h)

theorem rstState_setPhase (s : State) (k : Nat) : rstState (setPhase s k) = rstState s :=
  fld_setFld_ne s Reg.RST_STATUS Fld.RST_STATUS_PHASE Fld.RST_STATUS_STATE k (by decide) (by decide) (by decide) (by decide)

theorem regsOnly_setPhase (s : State) (k : Nat) : RegsOnly s (setPhase s k) := rfl

theorem setPhase_reg (s : State) (k : Nat) {a : Nat} (h : a ≠ Reg.RST_STATUS) : reg (setPhase s k) a = reg s a :=
  reg_setFld_ne s _ _ h.symm

theorem setPhase_regs (s : State) (k : Nat) : RegsBut s (setPhase s k) [Reg.RST_STATUS] :=
  fun _ h => setPhase_reg s k fun heq => h (List.mem_singleton.2 heq)

theorem onlyRegs_setPhase (s : State) (k : Nat) : OnlyRegs s (ended s (setPhase s k)) [Reg.RST_STATUS] :=
  onlyRegs_ended (regsOnly_setPhase s k) (setPhase_regs s k)

/-- What each phase of a start does when it ends; `ok` says that nothing was unfit. -/
def phaseStep (s : State) (r : PhaseResult) (us : Nat) (ok : Bool) : Nat → State
  | 1 => setPhase s 2
  | 2 => phase2 s
  | 3 => setPhase s 4
  | 4 => if s.rst.perst && fld s Reg.RST_FUSE Fld.RST_FUSE_PERSTMODE = 0 then s else setPhase s 5
  | 5 => phase5 s ok
  | 6 => if ok then phase6 s (foundBanks r) else failStart s lrLoft
  | 7 => if ok then setPhase s 8 else failStart s lrGranary
  | 8 => phase8 s
  | 9 => if ok then phase9 s (foundArrays r) (foundBoughs r) else failStart s lrCrown
  | 10 => phase10 s
  | 11 => phase11 s
  | 12 => phase12 s us
  | _ => s

theorem phaseDone_eq {s : State} {r : PhaseResult} {us : Nat} (h : rstState s = 0) :
    phaseDone s r us = phaseStep s r us (r ≠ .fail) (rsPhase s) := if_neg (not_not.2 h)

theorem runs_phase {s : State} {r : PhaseResult} {us k : Nat} {t : State} {P : State → Prop} (ha : alive s = true)
    (hst : rstState s = 0) (hk : rsPhase s = k) (ht : phaseStep s r us (r ≠ .fail) k = t) (hp : P (ended s t)) :
    Runs (.startPhaseDone r us) s P :=
  runs_finish (congrArg (finish s) (((phaseDone_eq hst).trans (by rw [hk])).trans ht)) ha hp

/-! ## Phase 2 (R521, R523, R530) -/

theorem regsOnly_loadSettings (s : State) : RegsOnly s (loadSettings s) :=
  RegsOnly.foldl (fun s x => by
    split
    · exact regsOnly_setRegN s _ _
    · exact .refl s) _ s

theorem startCount_congr {s t : State} (h : t.cellar = s.cellar) : startCount t = startCount s := by
  rw [startCount, startCount, cellBody, cellBody, cellCopy, cellCopy, cellRec, cellRec, h]

/-- The option bytes and the fuses are shown. -/
def optionsShown (s : State) : State := setRegN (loadSettings s) Reg.RST_FUSE s.rst.fuses

/-- The count of failed starts and the last reason are shown. -/
def failuresShown (s : State) (n : Nat) : State :=
  setFld (setFld s Reg.RST_FAILCNT Fld.RST_FAILCNT_COUNT (min n 15)) Reg.RST_FAILCNT Fld.RST_FAILCNT_LASTREASON
    (fld (setFld s Reg.RST_FAILCNT Fld.RST_FAILCNT_COUNT (min n 15)) Reg.RST_CAUSE Fld.RST_CAUSE_REASON)

/-- Each slice patrols at the configured rate. -/
def ratesShown (s : State) : State :=
  (List.range 8).foldl (fun s i => setRegN s (Reg.GRN_GLNOW i) (regN s Reg.GRN_GLRATE)) s

/-- What phase 2 has shown before it decides. -/
def settingsShown (s : State) : State := ratesShown (failuresShown (optionsShown s) (startCount (optionsShown s)))

theorem phase2_eq (s : State) : phase2 s =
    if fld (settingsShown s) Reg.RST_OPTIONS Fld.RST_OPTIONS_FAILLIM ≤ startCount (optionsShown s)
    then enterDormant (settingsShown s)
    else setPhase (deviceStore (settingsShown s) ckStart (leBytes 4 (startCount (optionsShown s) + 1))) 3 := rfl

theorem regsOnly_optionsShown (s : State) : RegsOnly s (optionsShown s) :=
  (regsOnly_loadSettings s).trans (regsOnly_setRegN _ _ _)

theorem regsOnly_settingsShown (s : State) : RegsOnly s (settingsShown s) :=
  (((regsOnly_optionsShown s).trans (regsOnly_setFld _ _ _ _)).trans (regsOnly_setFld _ _ _ _)).trans
    (RegsOnly.foldl (fun _ _ => regsOnly_setRegN _ _ _) _ _)

theorem startCount_optionsShown (s : State) : startCount (optionsShown s) = startCount s :=
  startCount_congr (regsOnly_optionsShown s).cellar

theorem settingsShown_options (s : State) : reg (settingsShown s) Reg.RST_OPTIONS = reg (loadSettings s) Reg.RST_OPTIONS := by
  have hrates (u : State) : reg (ratesShown u) Reg.RST_OPTIONS = reg u Reg.RST_OPTIONS :=
    List.foldlRecOn (motive := fun t => reg t Reg.RST_OPTIONS = reg u Reg.RST_OPTIONS) _ _ rfl fun t h i hi => by
      refine (reg_setRegN_ne _ _ ?_).trans h
      rw [List.mem_range] at hi
      simp only [Reg.GRN_GLNOW, Reg.RST_OPTIONS]
      omega
  rw [settingsShown, hrates, failuresShown, reg_setFld_ne _ _ _ (by decide), reg_setFld_ne _ _ _ (by decide), optionsShown,
    reg_setRegN_ne _ _ (by decide)]

theorem regsOnly_showRecords (s : State) : RegsOnly s (showRecords s) :=
  ((regsOnly_setRegN s _ _).trans (regsOnly_setFld _ _ _ _)).trans (regsOnly_setFld _ _ _ _)

theorem showRecords_reg (s : State) {a : Nat} (h1 : a ≠ Reg.FWM_FLOOR) (h2 : a ≠ Reg.FWM_STATUS) :
    reg (showRecords s) a = reg s a := by
  rw [showRecords, setFwm, reg_setFld_ne _ _ _ h2.symm, setFwm, reg_setFld_ne _ _ _ h2.symm, reg_setRegN_ne _ _ h1.symm]

/-- The registers that show Dormant. -/
def dormantShown (s : State) : State :=
  setFld (setFld (setPhase (setRst s stDormant) 0) Reg.HST_STATUS Fld.HST_STATUS_DORMANT 1) Reg.HST_STATUS
    Fld.HST_STATUS_ACCEPTING 1

theorem enterDormant_eq (s : State) :
    enterDormant s = showRecords (mapHost (dormantShown s) fun h => { h with config := true }) := rfl

theorem reg_mapHost (s : State) (g : HostSt → HostSt) (a : Nat) : reg (mapHost s g) a = reg s a := rfl

theorem regsOnly_dormantShown (s : State) : RegsOnly s (dormantShown s) :=
  (((regsOnly_setFld s _ _ _).trans (regsOnly_setPhase _ _)).trans (regsOnly_setFld _ _ _ _)).trans (regsOnly_setFld _ _ _ _)

/-- Dormant: the host may configure and submit. -/
theorem enterDormant_shows (s : State) : rstState (enterDormant s) = stDormant ∧ (enterDormant s).host.config = true
    ∧ fld (enterDormant s) Reg.HST_STATUS Fld.HST_STATUS_DORMANT = 1 ∧ (enterDormant s).cellar = s.cellar
    ∧ MemSame s (enterDormant s) := by
  have hstate : rstState (dormantShown s) = stDormant := by
    rw [rstState, dormantShown, fld_of_reg (reg_setFld_ne _ _ _ (by decide)), fld_of_reg (reg_setFld_ne _ _ _ (by decide)),
      ← rstState, rstState_setPhase]
    exact fld_setFld s Reg.RST_STATUS _ stDormant (by decide) (by decide)
  have hshown : fld (dormantShown s) Reg.HST_STATUS Fld.HST_STATUS_DORMANT = 1 := by
    rw [dormantShown, fld_setFld_ne _ _ _ _ _ (by decide) (by decide) (by decide) (by decide),
      fld_setFld _ _ _ _ (by decide) (by decide)]
    decide
  have hregs := regsOnly_dormantShown s
  rw [enterDormant_eq]
  generalize dormantShown s = u at hstate hshown hregs ⊢
  have hrec := regsOnly_showRecords (mapHost u fun h => { h with config := true })
  have hreg {a : Nat} (h1 : a ≠ Reg.FWM_FLOOR) (h2 : a ≠ Reg.FWM_STATUS) :=
    (showRecords_reg (mapHost u fun h => { h with config := true }) h1 h2).trans (reg_mapHost _ _ _)
  have hconfig : (mapHost u fun h => { h with config := true }).host.config = true := rfl
  have hcellar : (mapHost u fun h => { h with config := true }).cellar = u.cellar := rfl
  have hmem : MemSame u (mapHost u fun h => { h with config := true }) := ⟨rfl, rfl⟩
  generalize mapHost u (fun h => { h with config := true }) = v at hrec hreg hconfig hcellar hmem ⊢
  exact ⟨(fld_of_reg (hreg (by decide) (by decide)) _).trans hstate, (congrArg HostSt.config hrec.host).trans hconfig,
    (fld_of_reg (hreg (by decide) (by decide)) _).trans hshown, hrec.cellar.trans (hcellar.trans hregs.cellar),
    (hregs.memSame.trans hmem).trans hrec.memSame⟩

/-! ## Repairs of phase 6 (R505, R517) -/

/-- A record writes the log, its count and the event number. -/
theorem record_reg (s : State) (r : Rec) {a : Nat} (h : a ∉ [Reg.FRM_EVSEQ_LO, Reg.FRM_EVSEQ_LO + 4, Reg.INT_LOGCOUNT_LO,
    Reg.INT_LOGCOUNT_LO + 4]) (hlog : a < Reg.INT_LOG 0 0 ∨ Reg.INT_LOG 1024 0 ≤ a) : reg (record s r) a = reg s a := by
  simp only [List.mem_cons, List.not_mem_nil, or_false, not_or] at h
  obtain ⟨h1, h2, h3, h4⟩ := h
  unfold record countEvent
  dsimp only
  rw [reg_bump64_ne _ _ (Ne.symm h3) (Ne.symm h4), reg_bump64_ne _ _ (Ne.symm h1) (Ne.symm h2), setWords_ne]
  have hn := Nat.mod_lt (reg64 s Reg.INT_LOGCOUNT_LO) (show 0 < 1024 by decide)
  simp only [Reg.INT_LOG] at hlog ⊢
  omega

theorem regsOnly_record (s : State) (r : Rec) : RegsOnly s (record s r) := record_form s r

section
variable (s : State) (kind info unit sub addr : Nat)

theorem regsOnly_repairTaken : RegsOnly s (repairTaken s kind info unit sub addr) :=
  ((regsOnly_record s _).trans (regsOnly_bump _ _ _)).trans (regsOnly_raise _ _ _)

/-- A repair writes the log, the count of repairs and the summary. -/
theorem repairTaken_reg {a : Nat} (h : a / 2 ^ 24 ≠ 1) (h' : a / 2 ^ 24 ≠ 13 ∨ a = Reg.INT_SPARES ∨ a = Reg.INT_STATUS) :
    reg (repairTaken s kind info unit sub addr) a = reg s a := by
  have hne : a ≠ Reg.INT_INTSTAT ∧ a ≠ Reg.INT_REPAIRS ∧ a ≠ Reg.FRM_EVSEQ_LO ∧ a ≠ Reg.FRM_EVSEQ_LO + 4
      ∧ a ≠ Reg.INT_LOGCOUNT_LO ∧ a ≠ Reg.INT_LOGCOUNT_LO + 4 ∧ (a < Reg.INT_LOG 0 0 ∨ Reg.INT_LOG 1024 0 ≤ a) := by
    simp only [Reg.INT_SPARES, Reg.INT_STATUS, Reg.INT_INTSTAT, Reg.INT_REPAIRS, Reg.FRM_EVSEQ_LO, Reg.INT_LOGCOUNT_LO,
      Reg.INT_LOG] at h' ⊢
    omega
  obtain ⟨h1, h2, h3, h4, h5, h6, h7⟩ := hne
  rw [repairTaken, reg_raise_ne _ _ h1.symm, reg_bump_ne _ _ h2.symm, record_reg _ _ (by simp [h3, h4, h5, h6]) h7]

theorem repairTaken_count : regN (repairTaken s kind info unit sub addr) Reg.INT_REPAIRS
    = min (regN s Reg.INT_REPAIRS + 1) 0xFFFFFFFF := by
  rw [repairTaken, regN_of_reg (reg_raise_ne _ _ (by decide)), regN_bump,
    regN_of_reg (record_reg _ _ (by decide) (by decide))]

end

/-- A spare of the layer is one more in use. -/
theorem sparesUsed_useSpareBank (s : State) {l : Nat} (hl : l < 4) (h : sparesUsed s l < 4) :
    sparesUsed (useSpareBank s l) l = sparesUsed s l + 1 := by
  have hlt : fld s Reg.INT_SPARES Fld.INT_SPARES_LBANK < 2 ^ 16 := Nat.mod_lt _ (by decide)
  have hfit := putBits_lt _ (4 * l + 3) (4 * l) (sparesUsed s l + 1) 16 hlt (by omega) (by omega)
  have hfield : fld (useSpareBank s l) Reg.INT_SPARES Fld.INT_SPARES_LBANK =
      putBits (fld s Reg.INT_SPARES Fld.INT_SPARES_LBANK) (4 * l + 3) (4 * l) (sparesUsed s l + 1) :=
    (fld_setFld _ _ _ _ (by decide) (by decide)).trans (Nat.mod_eq_of_lt hfit)
  rw [sparesUsed, hfield, bitsN_putBits, show 4 * l + 3 + 1 - 4 * l = 4 by omega]
  exact Nat.mod_eq_of_lt (by omega)

/-- A field or a register of another block stands when a spare bank of a layer is taken. -/
theorem useSpareBank_reg (s : State) (l : Nat) {a : Nat} (h : a ≠ Reg.INT_SPARES) : reg (useSpareBank s l) a = reg s a :=
  reg_setFld_ne s _ _ h.symm

/-- A bank that a spare of its layer has replaced. -/
def bankSpared (s : State) (x : Nat × Nat) : State :=
  repairTaken (mapInteg (useSpareBank s x.1) fun i => { i with banksDone := i.banksDone ++ [x] }) 1 repBank x.2 x.1 0

theorem bankFails_spare {s : State} {x : Nat × Nat} {lost : Bool} (hm : sliceMapped s x.2 = false)
    (hs : sparesUsed s x.1 < 4) : bankFails (s, lost) x = (bankSpared s x, lost) := by
  have hgone : fld s (Reg.LFT_SLSTAT x.2) Fld.LFT_SLSTAT_MAPPED ≠ 1 := of_decide_eq_false hm
  unfold bankFails
  dsimp only
  rw [if_neg (by simp [hgone]), if_pos hs]
  rfl

theorem bankFails_mapout {s : State} {x : Nat × Nat} {lost : Bool} (hm : sliceMapped s x.2 = false)
    (hs : ¬sparesUsed s x.1 < 4) : bankFails (s, lost) x = (showMapout s x.2 x.1, lost) := by
  have hgone : fld s (Reg.LFT_SLSTAT x.2) Fld.LFT_SLSTAT_MAPPED ≠ 1 := of_decide_eq_false hm
  unfold bankFails
  dsimp only
  rw [if_neg (by simp [hgone]), if_neg hs, if_neg (by simp [hgone])]

theorem bankFails_lost {s : State} {x : Nat × Nat} {lost : Bool} (hm : sliceMapped s x.2 = true)
    (hl : fld s (Reg.LFT_SLSTAT x.2) Fld.LFT_SLSTAT_LAYER ≠ x.1) (hs : ¬sparesUsed s x.1 < 4) :
    bankFails (s, lost) x = (s, true) := by
  have hgone : fld s (Reg.LFT_SLSTAT x.2) Fld.LFT_SLSTAT_MAPPED = 1 := of_decide_eq_true hm
  unfold bankFails
  dsimp only
  rw [if_neg (by simp [hl]), if_neg hs, if_pos (by simp [hgone])]

theorem sparesUsed_of_reg {s t : State} (h : reg t Reg.INT_SPARES = reg s Reg.INT_SPARES) (l : Nat) :
    sparesUsed t l = sparesUsed s l := by rw [sparesUsed, fld_of_reg h, sparesUsed]

theorem reg_mapInteg (s : State) (g : IntegSt → IntegSt) (a : Nat) : reg (mapInteg s g) a = reg s a := rfl

theorem bankSpared_shows (s : State) {l : Nat} (k : Nat) (hl : l < 4) (hs : sparesUsed s l < 4) :
    sparesUsed (bankSpared s (l, k)) l = sparesUsed s l + 1
      ∧ (bankSpared s (l, k)).integ.banksDone = s.integ.banksDone ++ [(l, k)]
      ∧ regN (bankSpared s (l, k)) Reg.INT_REPAIRS = min (regN s Reg.INT_REPAIRS + 1) 0xFFFFFFFF
      ∧ (bankSpared s (l, k)).mem = s.mem := by
  unfold bankSpared
  generalize hu : mapInteg (useSpareBank s (l, k).1) (fun i => { i with banksDone := i.banksDone ++ [(l, k)] }) = u
  have hreg (a : Nat) : reg u a = reg (useSpareBank s l) a := by rw [← hu, reg_mapInteg]
  have hdone : u.integ.banksDone = s.integ.banksDone ++ [(l, k)] := by rw [← hu]; rfl
  have hmem : u.mem = s.mem := by rw [← hu]; rfl
  have htaken := regsOnly_repairTaken u 1 repBank k l 0
  have hspares := repairTaken_reg u 1 repBank k l 0 (a := Reg.INT_SPARES) (by decide) (.inr (.inl rfl))
  have hcount := repairTaken_count u 1 repBank k l 0
  generalize repairTaken u 1 repBank k l 0 = v at htaken hspares hcount ⊢
  refine ⟨?_, ?_, ?_, htaken.mem.trans hmem⟩
  · rw [sparesUsed_of_reg (hspares.trans (hreg _)), sparesUsed_useSpareBank s hl hs]
  · rw [htaken.integ, hdone]
  · rw [hcount, regN_of_reg ((hreg _).trans (useSpareBank_reg s l (by decide)))]

/-- A slice that has lost a layer shows it. -/
theorem showMapout_shows (s : State) {k l : Nat} (hk : k < 64) (hl : l < 4) : sliceMapped (showMapout s k l) k = true
    ∧ fld (showMapout s k l) (Reg.LFT_SLSTAT k) Fld.LFT_SLSTAT_LAYER = l ∧ (showMapout s k l).mem = s.mem := by
  have hne : Reg.LFT_STATUS ≠ Reg.LFT_SLSTAT k ∧ Reg.LFT_POOL ≠ Reg.LFT_SLSTAT k ∧ Reg.LFT_POOLFREE ≠ Reg.LFT_SLSTAT k
      ∧ Reg.LFT_INTSTAT ≠ Reg.LFT_SLSTAT k ∧ Reg.LFT_SLSTAT k / 2 ^ 24 = 5 := by
    simp only [Reg.LFT_STATUS, Reg.LFT_POOL, Reg.LFT_POOLFREE, Reg.LFT_INTSTAT, Reg.LFT_SLSTAT]
    omega
  obtain ⟨h1, h2, h3, h4, h5⟩ := hne
  have hreg : reg (showMapout s k l) (Reg.LFT_SLSTAT k) = reg (setFld (setFld s (Reg.LFT_SLSTAT k) Fld.LFT_SLSTAT_MAPPED 1)
      (Reg.LFT_SLSTAT k) Fld.LFT_SLSTAT_LAYER l) (Reg.LFT_SLSTAT k) := by
    unfold showMapout
    dsimp only
    rw [reg_raise_ne _ _ h4, repairTaken_reg _ _ _ _ _ _ (by omega) (.inl (by omega)), reg_setFld_ne _ _ _ h3,
      reg_setFld_ne _ _ _ h2, reg_setFld_ne _ _ _ h1]
  have hform : RegsOnly s (showMapout s k l) := by
    unfold showMapout
    dsimp only
    exact ((((((regsOnly_setFld s _ _ _).trans (regsOnly_setFld _ _ _ _)).trans (regsOnly_setFld _ _ _ _)).trans
      (regsOnly_setFld _ _ _ _)).trans (regsOnly_setFld _ _ _ _)).trans (regsOnly_repairTaken _ _ _ _ _ _)).trans
      (regsOnly_raise _ _ _)
  have hmapped : fld (showMapout s k l) (Reg.LFT_SLSTAT k) Fld.LFT_SLSTAT_MAPPED = 1 := by
    rw [fld_of_reg hreg, fld_setFld_ne _ _ _ _ _ (by decide) (by decide) (by decide) (by decide),
      fld_setFld _ _ _ _ (by decide) (by decide)]
    decide
  refine ⟨by rw [sliceMapped, hmapped]; rfl, ?_, hform.mem⟩
  rw [fld_of_reg hreg, fld_setFld _ _ _ _ (by decide) (by decide)]
  exact Nat.mod_eq_of_lt hl

/-- An entry of a REPAIR record touches no memory and nothing of the host's. -/
theorem loadRepair_kept (s : State) (x : Nat × Nat) : (loadRepair s x).mem = s.mem ∧ (loadRepair s x).host = s.host := by
  unfold loadRepair
  dsimp only
  split
  · split <;> exact ⟨rfl, rfl⟩
  all_goals exact ⟨rfl, rfl⟩

theorem loadRepairs_kept (l : List (Nat × Nat)) (s : State) :
    (l.foldl loadRepair s).mem = s.mem ∧ (l.foldl loadRepair s).host = s.host :=
  List.foldlRecOn (motive := fun t => t.mem = s.mem ∧ t.host = s.host) l loadRepair ⟨rfl, rfl⟩ fun t h x _ =>
    ⟨(loadRepair_kept t x).1.trans h.1, (loadRepair_kept t x).2.trans h.2⟩

theorem phase6_none (s : State) :
    phase6 s [] = setPhase ((bodyPairs (cellBody s ckRepair)).foldl loadRepair s) 7 := rfl

theorem phase6_one {s : State} {x : Nat × Nat} (h : cellBody s ckRepair = []) : phase6 s [x] =
    if (bankFails (s, false) x).2 then failStart (bankFails (s, false) x).1 lrLoft
    else setPhase (bankFails (s, false) x).1 7 := by
  unfold phase6
  rw [h]
  rfl

end Sys2Proof.Machine
end

section
/-! PROOF. Phase 9 of a start: the presentation map, and a spare for a bough that fails (R517, R529). -/

namespace Sys2Proof.Machine

/-! ## The presentation map -/

/-- From `s` to `t` the presented numbers of BGH_STATUS alone differ. -/
structure PresentedOnly (s t : State) : Prop where
  form : RegsOnly s t
  regs : ∀ a, (∀ b < 68, a ≠ Reg.BGH_STATUS b) → reg t a = reg s a
  failed : ∀ b, fld t (Reg.BGH_STATUS b) Fld.BGH_STATUS_FAILED = fld s (Reg.BGH_STATUS b) Fld.BGH_STATUS_FAILED

theorem PresentedOnly.refl (s : State) : PresentedOnly s s := ⟨.refl s, fun _ _ => rfl, fun _ => rfl⟩

theorem PresentedOnly.trans {s t u : State} (h : PresentedOnly s t) (h' : PresentedOnly t u) : PresentedOnly s u :=
  ⟨h.form.trans h'.form, fun a ha => (h'.regs a ha).trans (h.regs a ha), fun b => (h'.failed b).trans (h.failed b)⟩

theorem bghStatus_inj {b c : Nat} (h : Reg.BGH_STATUS b = Reg.BGH_STATUS c) : b = c := by
  simp only [Reg.BGH_STATUS] at h
  omega

theorem bghPmap_ne_status (n : Nat) {b : Nat} (h : b < 68) : Reg.BGH_PMAP n ≠ Reg.BGH_STATUS b := by
  simp only [Reg.BGH_PMAP, Reg.BGH_STATUS]
  omega

theorem PresentedOnly.phys {s t : State} (h : PresentedOnly s t) (n : Nat) : phys t n = phys s n :=
  phys_of_reg (h.regs _ fun _ hb => bghPmap_ne_status n hb)

theorem presentedOnly_setFld (s : State) {b : Nat} (hb : b < 68) (v : Nat) :
    PresentedOnly s (setFld s (Reg.BGH_STATUS b) Fld.BGH_STATUS_PRESENTED v) := by
  refine ⟨rfl, fun a h => reg_setFld_ne s _ _ (h b hb).symm, fun c => ?_⟩
  by_cases hc : b = c
  · subst hc
    exact fld_setFld_ne _ _ _ _ _ (by decide) (by decide) (by decide) (by decide)
  · exact fld_of_reg (reg_setFld_ne s _ _ fun h => hc (bghStatus_inj h)) _

theorem fld_presented (s : State) (b : Nat) {v : Nat} (h : v < 128) :
    fld (setFld s (Reg.BGH_STATUS b) Fld.BGH_STATUS_PRESENTED v) (Reg.BGH_STATUS b) Fld.BGH_STATUS_PRESENTED = v :=
  (fld_setFld _ _ _ _ (by decide) (by decide)).trans (Nat.mod_eq_of_lt h)

/-- A bough shows that it is not presented. -/
def hide (s : State) (b : Nat) : State := setFld s (Reg.BGH_STATUS b) Fld.BGH_STATUS_PRESENTED 127

/-- No bough is presented yet. -/
def noneShown (s : State) : State := (List.range 68).foldl hide s

/-- A number shows its bough. -/
def showNumber (s : State) (n : Nat) : State :=
  if phys s n < 68 then setFld s (Reg.BGH_STATUS (phys s n)) Fld.BGH_STATUS_PRESENTED n else s

theorem presentedOnly_noneShown (s : State) : PresentedOnly s (noneShown s) :=
  List.foldlRecOn (motive := fun t => PresentedOnly s t) _ _ (.refl s) fun t h _ hb =>
    h.trans (presentedOnly_setFld t (List.mem_range.1 hb) _)

theorem hide_kept {s : State} {b : Nat} (c : Nat) (h : fld s (Reg.BGH_STATUS b) Fld.BGH_STATUS_PRESENTED = 127) :
    fld (hide s c) (Reg.BGH_STATUS b) Fld.BGH_STATUS_PRESENTED = 127 := by
  by_cases hc : c = b
  · rw [hc]
    exact fld_presented s b (by decide)
  · exact (fld_of_reg (reg_setFld_ne s _ _ fun heq => hc (bghStatus_inj heq)) _).trans h

theorem hides_presented {b : Nat} {l : List Nat} (h : b ∈ l) (s : State) :
    fld (l.foldl hide s) (Reg.BGH_STATUS b) Fld.BGH_STATUS_PRESENTED = 127 := by
  induction l generalizing s with
  | nil => exact absurd h List.not_mem_nil
  | cons x xs ih =>
    rw [List.foldl_cons]
    rcases List.mem_cons.1 h with rfl | h
    · exact List.foldlRecOn (motive := fun t => fld t (Reg.BGH_STATUS b) Fld.BGH_STATUS_PRESENTED = 127) xs hide
        (fld_presented s b (by decide)) fun _ ht c _ => hide_kept c ht
    · exact ih h (hide s x)

theorem noneShown_presented (s : State) {b : Nat} (hb : b < 68) :
    fld (noneShown s) (Reg.BGH_STATUS b) Fld.BGH_STATUS_PRESENTED = 127 := by
  rw [noneShown]
  exact hides_presented (List.mem_range.2 hb) s

theorem presentedOnly_showNumber (s : State) (n : Nat) : PresentedOnly s (showNumber s n) := by
  unfold showNumber
  split
  · next h => exact presentedOnly_setFld s h n
  · exact .refl s

theorem presentedOnly_showNumbers (l : List Nat) (s : State) : PresentedOnly s (l.foldl showNumber s) :=
  List.foldlRecOn (motive := fun t => PresentedOnly s t) l _ (.refl s) fun t h n _ => h.trans (presentedOnly_showNumber t n)

/-- A bough that no number of the list stands for shows what it showed. -/
theorem showNumbers_off {b : Nat} (l : List Nat) (s : State) (h : ∀ n ∈ l, phys s n ≠ b) :
    reg (l.foldl showNumber s) (Reg.BGH_STATUS b) = reg s (Reg.BGH_STATUS b) := by
  induction l generalizing s with
  | nil => rfl
  | cons x xs ih =>
    have hone : reg (showNumber s x) (Reg.BGH_STATUS b) = reg s (Reg.BGH_STATUS b) := by
      unfold showNumber
      split
      · exact reg_setFld_ne s _ _ fun heq => h x List.mem_cons_self (bghStatus_inj heq)
      · rfl
    refine (ih (showNumber s x) fun n hn => ?_).trans hone
    rw [(presentedOnly_showNumber s x).phys]
    exact h n (List.mem_cons_of_mem _ hn)

/-- A bough that one number of the list alone stands for shows it. -/
theorem showNumbers_on {b n : Nat} (hb : b < 68) (hn : n < 64) (l : List Nat) (s : State) (hmem : n ∈ l)
    (hphys : phys s n = b) (honly : ∀ m ∈ l, phys s m = b → m = n) :
    fld (l.foldl showNumber s) (Reg.BGH_STATUS b) Fld.BGH_STATUS_PRESENTED = n := by
  induction l generalizing s with
  | nil => exact absurd hmem List.not_mem_nil
  | cons x xs ih =>
    have hsame := (presentedOnly_showNumber s x).phys
    by_cases hxs : n ∈ xs
    · exact ih (showNumber s x) hxs ((hsame n).trans hphys) fun m hm h =>
        honly m (List.mem_cons_of_mem _ hm) ((hsame m).symm.trans h)
    · obtain rfl : n = x := (List.mem_cons.1 hmem).resolve_right hxs
      have hrest := showNumbers_off xs (showNumber s n) (b := b) fun m hm h =>
        hxs (honly m (List.mem_cons_of_mem _ hm) ((hsame m).symm.trans h) ▸ hm)
      refine (fld_of_reg hrest _).trans ?_
      rw [showNumber, if_pos (hphys ▸ hb), hphys]
      exact fld_presented s b (by omega)

/-- The presentation map as BGH_STATUS shows it. -/
def mapShown (s : State) : State :=
  (List.range 64).foldl showNumber (noneShown (mapInteg s fun i => { i with refs := testRefs }))

theorem phase9_eq (s : State) (boughs : List Nat) : phase9 s [] boughs =
    if (List.range 64).all fun n => phys (boughs.foldl boughFails (mapShown s)) n < 68
    then setPhase (boughs.foldl boughFails (mapShown s)) 10 else failStart (boughs.foldl boughFails (mapShown s)) lrCrown := by
  have hhide : hide = fun s b => setFld s (Reg.BGH_STATUS b) Fld.BGH_STATUS_PRESENTED 127 := rfl
  have hshow : showNumber = fun s n =>
      if phys s n < 68 then setFld s (Reg.BGH_STATUS (phys s n)) Fld.BGH_STATUS_PRESENTED n else s := rfl
  rw [phase9, mapShown, noneShown, hhide, hshow, List.foldl_nil]

section
variable (s : State)

theorem presentedOnly_mapShown : PresentedOnly (mapInteg s fun i => { i with refs := testRefs }) (mapShown s) :=
  (presentedOnly_noneShown _).trans (presentedOnly_showNumbers _ _)

theorem phys_mapShown (n : Nat) : phys (mapShown s) n = phys s n :=
  ((presentedOnly_mapShown s).phys n).trans (phys_of_reg (reg_mapInteg s _ _))

theorem failed_mapShown (b : Nat) : fld (mapShown s) (Reg.BGH_STATUS b) Fld.BGH_STATUS_FAILED
    = fld s (Reg.BGH_STATUS b) Fld.BGH_STATUS_FAILED :=
  ((presentedOnly_mapShown s).failed b).trans (fld_of_reg (reg_mapInteg s _ _) _)

theorem phys_noneShown (n : Nat) : phys (noneShown (mapInteg s fun i => { i with refs := testRefs })) n = phys s n :=
  ((presentedOnly_noneShown _).phys n).trans (phys_of_reg (reg_mapInteg s _ _))

theorem mapShown_off {b : Nat} (hb : b < 68) (h : ∀ n < 64, phys s n ≠ b) :
    fld (mapShown s) (Reg.BGH_STATUS b) Fld.BGH_STATUS_PRESENTED = 127 := by
  refine (fld_of_reg (showNumbers_off _ _ fun n hn => ?_) _).trans (noneShown_presented _ hb)
  rw [phys_noneShown]
  exact h n (List.mem_range.1 hn)

theorem mapShown_on {n : Nat} (hn : n < 64) (hb : phys s n < 68) (h : ∀ m < 64, phys s m = phys s n → m = n) :
    fld (mapShown s) (Reg.BGH_STATUS (phys s n)) Fld.BGH_STATUS_PRESENTED = n :=
  showNumbers_on hb hn _ _ (List.mem_range.2 hn) (phys_noneShown s n) fun m hm he =>
    h m (List.mem_range.1 hm) ((phys_noneShown s m).symm.trans he)

end

/-! ## A bough that fails at self-test -/

/-- A bough that has failed presents nothing. -/
def boughFailed (s : State) (b : Nat) : State :=
  setFld (setFld s (Reg.BGH_STATUS b) Fld.BGH_STATUS_FAILED 1) (Reg.BGH_STATUS b) Fld.BGH_STATUS_PRESENTED 127

/-- A spare takes a number. -/
def spareTaken (s : State) (n b b' : Nat) : State :=
  repairTaken (setFld (setFld (setFld s (Reg.BGH_STATUS b') Fld.BGH_STATUS_PRESENTED n) (Reg.BGH_PMAP n) Fld.BGH_PMAP_PHYS b')
    Reg.INT_SPARES Fld.INT_SPARES_BOUGHS (fld (setFld (setFld s (Reg.BGH_STATUS b') Fld.BGH_STATUS_PRESENTED n)
      (Reg.BGH_PMAP n) Fld.BGH_PMAP_PHYS b') Reg.INT_SPARES Fld.INT_SPARES_BOUGHS + 1)) 4 repBough b 0xFFFF 0

theorem boughFails_spare {s : State} {n b b' : Nat} (hn : fld s (Reg.BGH_STATUS b) Fld.BGH_STATUS_PRESENTED = n) (hlt : n < 64)
    (hfree : freeSpare (boughFailed s b) = some b') : boughFails s b = spareTaken (boughFailed s b) n b b' := by
  unfold boughFails
  dsimp only
  rw [hn, if_neg (by omega), ← boughFailed, hfree]
  rfl

theorem boughFails_none {s : State} {n b : Nat} (hn : fld s (Reg.BGH_STATUS b) Fld.BGH_STATUS_PRESENTED = n) (hlt : n < 64)
    (hfree : freeSpare (boughFailed s b) = none) :
    boughFails s b = setFld (boughFailed s b) (Reg.BGH_PMAP n) Fld.BGH_PMAP_PHYS 127 := by
  unfold boughFails
  dsimp only
  rw [hn, if_neg (by omega), ← boughFailed, hfree]

theorem boughFailed_reg (s : State) (b : Nat) {a : Nat} (h : a ≠ Reg.BGH_STATUS b) : reg (boughFailed s b) a = reg s a := by
  rw [boughFailed, reg_setFld_ne _ _ _ h.symm, reg_setFld_ne _ _ _ h.symm]

theorem boughFailed_failed (s : State) (b : Nat) :
    fld (boughFailed s b) (Reg.BGH_STATUS b) Fld.BGH_STATUS_FAILED = 1 := by
  rw [boughFailed, fld_setFld_ne _ _ _ _ _ (by decide) (by decide) (by decide) (by decide),
    fld_setFld _ _ _ _ (by decide) (by decide)]
  decide

theorem regsOnly_boughFailed (s : State) (b : Nat) : RegsOnly s (boughFailed s b) :=
  (regsOnly_setFld s _ _ _).trans (regsOnly_setFld _ _ _ _)

/-- What makes a bough a free spare. -/
def isSpare (s : State) (b : Nat) : Bool :=
  fld s (Reg.BGH_STATUS b) Fld.BGH_STATUS_PRESENTED = 127 && fld s (Reg.BGH_STATUS b) Fld.BGH_STATUS_FAILED = 0
    && !(s.integ.copies.any fun c => c.2.2 = b)

theorem freeSpare_eq (s : State) : freeSpare s = (List.range 68).find? (isSpare s) := rfl

theorem regsOnly_spareTaken (s : State) (n b b' : Nat) : RegsOnly s (spareTaken s n b b') :=
  (((regsOnly_setFld s _ _ _).trans (regsOnly_setFld _ _ _ _)).trans (regsOnly_setFld _ _ _ _)).trans
    (regsOnly_repairTaken _ _ _ _ _ _)

/-- Of the boughs' registers a spare that takes a number writes its own status and the number's place. -/
theorem spareTaken_reg (s : State) (n b b' : Nat) {a : Nat} (ha : a / 2 ^ 24 = 2) : reg (spareTaken s n b b') a =
    reg (setFld (setFld s (Reg.BGH_STATUS b') Fld.BGH_STATUS_PRESENTED n) (Reg.BGH_PMAP n) Fld.BGH_PMAP_PHYS b') a := by
  have hne : Reg.INT_SPARES ≠ a := by rintro rfl; exact absurd ha (by decide)
  rw [spareTaken, repairTaken_reg _ _ _ _ _ _ (by omega) (.inl (by omega)), reg_setFld_ne _ _ _ hne]

theorem block_pmap {n : Nat} (h : n < 64) : Reg.BGH_PMAP n / 2 ^ 24 = 2 := by
  simp only [Reg.BGH_PMAP]
  omega

theorem block_status {b : Nat} (h : b < 68) : Reg.BGH_STATUS b / 2 ^ 24 = 2 := by
  simp only [Reg.BGH_STATUS]
  omega

section
variable (s : State) {n b' : Nat} (b : Nat) (hn : n < 64) (hb' : b' < 68)
include hn hb'

theorem phys_spareTaken_same : phys (spareTaken s n b b') n = b' := by
  rw [phys, if_pos hn, fld_of_reg (spareTaken_reg s n b b' (block_pmap hn)), fld_setFld _ _ _ _ (by decide) (by decide)]
  exact Nat.mod_eq_of_lt (show b' < 128 by omega)

omit hn in
theorem phys_spareTaken_ne {m : Nat} (hm : m < 64) (h : m ≠ n) : phys (spareTaken s n b b') m = phys s m := by
  refine phys_of_reg ?_
  have hne : Reg.BGH_PMAP n ≠ Reg.BGH_PMAP m := by
    simp only [Reg.BGH_PMAP]
    omega
  rw [spareTaken_reg s n b b' (block_pmap hm), reg_setFld_ne _ _ _ hne, reg_setFld_ne _ _ _ (bghPmap_ne_status m hb').symm]

theorem spareTaken_presented : fld (spareTaken s n b b') (Reg.BGH_STATUS b') Fld.BGH_STATUS_PRESENTED = n := by
  rw [fld_of_reg (spareTaken_reg s n b b' (block_status hb')), fld_of_reg (reg_setFld_ne _ _ _ (bghPmap_ne_status n hb'))]
  exact fld_presented s b' (by omega)

omit hn hb' in
theorem spareTaken_status {c : Nat} (hc : c < 68) (h : c ≠ b') :
    reg (spareTaken s n b b') (Reg.BGH_STATUS c) = reg s (Reg.BGH_STATUS c) := by
  rw [spareTaken_reg s n b b' (block_status hc), reg_setFld_ne _ _ _ (bghPmap_ne_status n hc),
    reg_setFld_ne _ _ _ fun heq => h (bghStatus_inj heq).symm]

end

end Sys2Proof.Machine

namespace Sys2Proof.Settled

open Sys2Proof.Machine

section
variable {s : State} {r : PhaseResult} {us : Nat} (ha : alive s = true) (hst : rstState s = 0) (hk : rsPhase s = 9)
  (hr : r ≠ .fail) (harr : foundArrays r = [])
include ha hst hk hr harr

theorem runs_phase9 {P : State → Prop} (hp : P (ended s (phase9 s [] (foundBoughs r)))) : Runs (.startPhaseDone r us) s P :=
  runs_phase ha hst hk (by rw [← harr]; exact if_pos (by simp [hr])) hp

theorem phase9_calm (hphys : ∀ n, n < 64 → phys s n < 68) (hb : foundBoughs r = []) : Runs (.startPhaseDone r us) s fun t =>
    OnlyRegs { s with integ := { s.integ with refs := testRefs } } t
      (Reg.RST_STATUS :: (List.range 68).map fun b => Reg.BGH_STATUS b) ∧ rsPhase t = 10 := by
  refine runs_phase9 ha hst hk hr harr ?_
  have hall : ((List.range 64).all fun n => phys (mapShown s) n < 68) = true := by
    simp only [List.all_eq_true, List.mem_range, decide_eq_true_eq]
    exact fun n hn => (phys_mapShown s n).symm ▸ hphys n hn
  have hshown := presentedOnly_mapShown s
  rw [hb, phase9_eq, List.foldl_nil, if_pos hall]
  generalize mapShown s = u at hshown ⊢
  have hphase := rsPhase_setPhase u (k := 10) (by decide)
  have hreg {a : Nat} (h : a ≠ Reg.RST_STATUS) := setPhase_reg u 10 h
  have hform := hshown.form.trans (regsOnly_setPhase u 10)
  generalize setPhase u 10 = v at hphase hreg hform ⊢
  have hregs : RegsBut (mapInteg s fun i => { i with refs := testRefs }) v
      (Reg.RST_STATUS :: (List.range 68).map fun b => Reg.BGH_STATUS b) := by
    intro a h
    simp only [List.mem_cons, List.mem_map, List.mem_range, not_or, not_exists, not_and] at h
    exact (hreg h.1).trans (hshown.regs a fun b hb heq => h.2 b hb heq.symm)
  generalize (Reg.RST_STATUS :: (List.range 68).map fun b => Reg.BGH_STATUS b) = l at hregs ⊢
  exact ⟨onlyRegs_ended hform hregs, (ended_fld s v _ _).trans hphase⟩

theorem phase9_spare (hphys : ∀ n, n < 64 → phys s n < 68) {n : Nat} (hn : n < 64) (hb : foundBoughs r = [phys s n])
    (hlow : ∀ m, m < 64 → phys s m < 64) (hone : ∀ m, m < 64 → phys s m = phys s n → m = n)
    (h64 : fld s (Reg.BGH_STATUS 64) Fld.BGH_STATUS_FAILED = 0) (hc : s.integ.copies = []) :
    Runs (.startPhaseDone r us) s fun t => rsPhase t = 10 ∧ phys t n ≠ phys s n ∧ phys t n < 68
      ∧ (∀ m, m < 64 → m ≠ n → phys t m = phys s m)
      ∧ fld t (Reg.BGH_STATUS (phys s n)) Fld.BGH_STATUS_FAILED = 1
      ∧ fld t (Reg.BGH_STATUS (phys t n)) Fld.BGH_STATUS_PRESENTED = n ∧ t.mem = s.mem := by
  have hb68 := hphys n hn
  have hpres := mapShown_on s hn hb68 hone
  have hcopies : (mapShown s).integ.copies = [] := by rw [(presentedOnly_mapShown s).form.integ]; exact hc
  have hmem : (mapShown s).mem = s.mem := (presentedOnly_mapShown s).form.mem
  have hphysU := phys_mapShown s
  have h64p : fld (mapShown s) (Reg.BGH_STATUS 64) Fld.BGH_STATUS_PRESENTED = 127 :=
    mapShown_off s (by decide) fun m hm heq => absurd (hlow m hm) (by omega)
  have h64f := (failed_mapShown s 64).trans h64
  refine runs_phase9 ha hst hk hr harr ?_
  rw [hb, phase9_eq, List.foldl_cons, List.foldl_nil]
  generalize mapShown s = u at hpres hcopies hmem hphysU h64p h64f ⊢
  have hreg64 : reg (boughFailed u (phys s n)) (Reg.BGH_STATUS 64) = reg u (Reg.BGH_STATUS 64) :=
    boughFailed_reg u _ fun heq => absurd (hlow n hn) (by rw [← bghStatus_inj heq]; decide)
  have hcopies' : (boughFailed u (phys s n)).integ.copies = [] := by rw [(regsOnly_boughFailed u _).integ, hcopies]
  have hspare : isSpare (boughFailed u (phys s n)) 64 = true := by
    simp [isSpare, fld_of_reg hreg64, h64p, h64f, hcopies']
  obtain ⟨b', hfree⟩ : ∃ b', freeSpare (boughFailed u (phys s n)) = some b' := by
    rw [freeSpare_eq, ← Option.isSome_iff_exists, List.find?_isSome]
    exact ⟨64, List.mem_range.2 (by decide), hspare⟩
  have hb' : b' < 68 := List.mem_range.1 (List.mem_of_find?_eq_some hfree)
  have hne : b' ≠ phys s n := by
    rintro rfl
    have hp := List.find?_some hfree
    simp [boughFailed_failed] at hp
  have hact := boughFails_spare hpres hn hfree
  have hphysV (m : Nat) : phys (boughFailed u (phys s n)) m = phys s m :=
    (phys_of_reg (boughFailed_reg u _ (bghPmap_ne_status m hb68))).trans (hphysU m)
  have hfailed := boughFailed_failed u (phys s n)
  have hmem' := (regsOnly_boughFailed u (phys s n)).mem.trans hmem
  rw [hact]
  generalize boughFailed u (phys s n) = v at hphysV hfailed hmem' ⊢
  have h1 := phys_spareTaken_same v (phys s n) hn hb'
  have h2 (m : Nat) (hm : m < 64) (h : m ≠ n) := phys_spareTaken_ne v (phys s n) hb' hm h
  have h3 := spareTaken_presented v (phys s n) hn hb'
  have h4 := (fld_of_reg (spareTaken_status v (n := n) (phys s n) hb68 hne.symm) _).trans hfailed
  have h5 := (regsOnly_spareTaken v n (phys s n) b').mem.trans hmem'
  generalize spareTaken v n (phys s n) b' = w at h1 h2 h3 h4 h5 ⊢
  have hother (m : Nat) (hm : m < 64) (h : m ≠ n) : phys w m = phys s m := (h2 m hm h).trans (hphysV m)
  have hall : ((List.range 64).all fun m => phys w m < 68) = true := by
    simp only [List.all_eq_true, List.mem_range, decide_eq_true_eq]
    intro m hm
    by_cases h : m = n
    · rw [h, h1]; exact hb'
    · rw [hother m hm h]; exact hphys m hm
  rw [if_pos hall]
  have hphase := rsPhase_setPhase w (k := 10) (by decide)
  have hreg {a : Nat} (h : a / 2 ^ 24 = 2) : reg (setPhase w 10) a = reg w a :=
    setPhase_reg w 10 (by rintro rfl; exact absurd h (by decide))
  have hmemX := (regsOnly_setPhase w 10).mem
  generalize setPhase w 10 = x at hphase hreg hmemX ⊢
  have hphysX (m : Nat) (hm : m < 64) : phys x m = phys w m := phys_of_reg (hreg (block_pmap hm))
  have hx : phys (ended s x) n = b' := (phys_of_reg (ended_reg s x _)).trans ((hphysX n hn).trans h1)
  refine ⟨(ended_fld s x _ _).trans hphase, ?_, ?_, fun m hm h => ?_, ?_, ?_, (ended_mem s x).trans (hmemX.trans h5)⟩
  · rw [hx]
    exact hne
  · rw [hx]
    exact hb'
  · exact (phys_of_reg (ended_reg s x _)).trans ((hphysX m hm).trans (hother m hm h))
  · exact (ended_fld s x _ _).trans ((fld_of_reg (hreg (block_status hb68)) _).trans h4)
  · rw [hx]
    exact (ended_fld s x _ _).trans ((fld_of_reg (hreg (block_status hb')) _).trans h3)

theorem phase9_fails (hphys : ∀ n, n < 64 → phys s n < 68) {b : Nat} (hb : foundBoughs r = [b])
    (hpres : ∃ n, n < 64 ∧ phys s n = b) (hinj : ∀ m n, m < n → n < 64 → phys s m ≠ phys s n)
    (hgone : ∀ d, d < 68 → (∀ n, n < 64 → phys s n ≠ d) → fld s (Reg.BGH_STATUS d) Fld.BGH_STATUS_FAILED = 1) :
    Runs (.startPhaseDone r us) s fun t => rsPhase t = 2 ∧ fld t Reg.RST_CAUSE Fld.RST_CAUSE_CAUSE = 6
      ∧ fld t Reg.RST_CAUSE Fld.RST_CAUSE_REASON = 3 ∧ t.mem = [] := by
  obtain ⟨n, hn, rfl⟩ := hpres
  have hone (k : Nat) (hk : k < 64) (m : Nat) (hm : m < 64) (h : phys s m = phys s k) : m = k := by
    rcases Nat.lt_trichotomy m k with hlt | heq | hgt
    · exact absurd h (hinj m k hlt hk)
    · exact heq
    · exact absurd h.symm (hinj k m hgt hm)
  have hshown := mapShown_on s hn (hphys n hn) (hone n hn)
  have hspare (d : Nat) (hd : d < 68) : isSpare (boughFailed (mapShown s) (phys s n)) d = false := by
    by_cases hdn : d = phys s n
    · simp [isSpare, hdn, boughFailed_failed]
    · have hreg := boughFailed_reg (mapShown s) (phys s n) (a := Reg.BGH_STATUS d) fun h => hdn (bghStatus_inj h)
      by_cases hmap : ∃ m, m < 64 ∧ phys s m = d
      · obtain ⟨m, hm, rfl⟩ := hmap
        have hm127 : m ≠ 127 := by omega
        simp [isSpare, fld_of_reg hreg, mapShown_on s hm (hphys m hm) (hone m hm), hm127]
      · have hf := hgone d hd fun m hm h => hmap ⟨m, hm, h⟩
        simp [isSpare, fld_of_reg hreg, failed_mapShown, hf]
  have hfree : freeSpare (boughFailed (mapShown s) (phys s n)) = none := by
    rw [freeSpare_eq, List.find?_eq_none]
    exact fun d hd h => Bool.false_ne_true ((hspare d (List.mem_range.1 hd)).symm.trans h)
  refine runs_phase9 ha hst hk hr harr ?_
  rw [hb, phase9_eq, List.foldl_cons, List.foldl_nil, boughFails_none hshown hn hfree]
  generalize boughFailed (mapShown s) (phys s n) = v
  have hlost : phys (setFld v (Reg.BGH_PMAP n) Fld.BGH_PMAP_PHYS 127) n = 127 := by
    rw [phys, if_pos hn, fld_setFld _ _ _ _ (by decide) (by decide)]
    decide
  have hall : ¬((List.range 64).all fun m => phys (setFld v (Reg.BGH_PMAP n) Fld.BGH_PMAP_PHYS 127) m < 68) = true := by
    simp only [List.all_eq_true, List.mem_range, decide_eq_true_eq, not_forall]
    exact ⟨n, hn, by rw [hlost]; decide⟩
  rw [if_neg hall]
  obtain ⟨⟨hform, -, hphase, hcause, -⟩, hreason⟩ :=
    failStart_left (setFld v (Reg.BGH_PMAP n) Fld.BGH_PMAP_PHYS 127) s (reason := lrCrown) (by decide)
  exact ⟨hphase, hcause, hreason, congrArg State.mem hform⟩

end

end Sys2Proof.Settled
end

section
/-! PROOF. A start from phase to phase, the phases assembled, and its end (R517 to R523, R527 to R530, R546, R574, R640). -/

namespace Sys2Proof.Machine

/-! ## The phases that change little -/

theorem phaseStep_next (s : State) (r : PhaseResult) (us : Nat) {k k' : Nat} (h : (k, k') ∈ [(1, 2), (3, 4)]
    ∨ ((k, k') = (7, 8) ∧ r ≠ .fail) ∨ ((k, k') = (4, 5) ∧ ¬(s.rst.perst = true ∧ perstMode s = 0))) :
    phaseStep s r us (r ≠ .fail) k = setPhase s k' ∧ k' < 16 := by
  simp only [List.mem_cons, List.not_mem_nil, or_false, Prod.mk.injEq] at h
  rcases h with (⟨rfl, rfl⟩ | ⟨rfl, rfl⟩) | ⟨⟨rfl, rfl⟩, hr⟩ | ⟨⟨rfl, rfl⟩, hpin⟩
  · exact ⟨rfl, by decide⟩
  · exact ⟨rfl, by decide⟩
  · exact ⟨if_pos (decide_eq_true hr), by decide⟩
  · exact ⟨if_neg (by simpa [perstMode] using hpin), by decide⟩

/-- The state whose Seed is copied, and whose host may configure. -/
def seedCopied (s : State) (ok : Bool) : State :=
  mapHost (mapRst s fun r => { r with seedBuf := r.flash.filter fun x => x.1 < 0x100000, seedErr := !ok })
    fun h => { h with config := true }

/-- The slots that phase 5 reads. -/
def slotsRead (s : State) (slots : List Byte) : State := mapSeed s fun x => { x with slots := slots }

theorem phase5_eq (s : State) (ok : Bool) :
    phase5 s ok = setPhase (slotsRead (seedCopied s ok) (bootSlots (seedCopied s ok))) 6 := rfl

theorem deviceStore_cellarOnly (s : State) (kind : Nat) (body : List Byte) : CellarOnly s (deviceStore s kind body) :=
  queueStore_cellarOnly s _

theorem deviceStore_cellar (s : State) (kind : Nat) (body : List Byte) : (deviceStore s kind body).cellar =
    { s.cellar with stores := s.cellar.stores ++ [{ kind := kind, version := cellVersion s kind, body := body }] } := rfl

theorem bootSlots_unread (s : State) : bootSlots (seedCopied s false) = [] := if_pos rfl

theorem phaseStep_unfit (s : State) (r : PhaseResult) (us : Nat) {k reason : Nat}
    (h : (k, reason) ∈ [(6, 1), (7, 2), (9, 3)]) :
    phaseStep s r us false k = failStart s reason ∧ reason < 256 := by
  simp only [List.mem_cons, List.not_mem_nil, or_false, Prod.mk.injEq] at h
  rcases h with ⟨rfl, rfl⟩ | ⟨rfl, rfl⟩ | ⟨rfl, rfl⟩
  all_goals exact ⟨rfl, by decide⟩

theorem sliceMapped_of_reg {s t : State} {k : Nat} (h : reg t (Reg.LFT_SLSTAT k) = reg s (Reg.LFT_SLSTAT k)) :
    sliceMapped t k = sliceMapped s k := by rw [sliceMapped, fld_of_reg h, sliceMapped]

end Sys2Proof.Machine

namespace Sys2Proof.Settled

open Sys2Proof.Machine

section
variable {s : State} {r : PhaseResult} {us : Nat} (ha : alive s = true) (hst : rstState s = 0)
include ha hst

theorem phase_next {k k' : Nat} (h : (k, k') ∈ [(1, 2), (3, 4)] ∨ ((k, k') = (7, 8) ∧ r ≠ .fail)
    ∨ ((k, k') = (4, 5) ∧ ¬(s.rst.perst = true ∧ perstMode s = 0))) (hk : rsPhase s = k) :
    Runs (.startPhaseDone r us) s fun t => OnlyRegs s t [Reg.RST_STATUS] ∧ rsPhase t = k' ∧ rstState t = 0 := by
  obtain ⟨hstep, hlt⟩ := phaseStep_next s r us h
  exact runs_phase ha hst hk hstep ⟨onlyRegs_setPhase s k', (ended_fld s _ _ _).trans (rsPhase_setPhase s hlt),
    (ended_fld s _ _ _).trans ((rstState_setPhase s k').trans hst)⟩

theorem phase4_waits (hk : rsPhase s = 4) (hpin : s.rst.perst = true) (hmode : perstMode s = 0) :
    Runs (.startPhaseDone r us) s fun t => t = { s with msix := t.msix, edge := t.edge } := by
  have hwait : (s.rst.perst && decide (fld s Reg.RST_FUSE Fld.RST_FUSE_PERSTMODE = 0)) = true := by
    rw [hpin]
    exact decide_eq_true hmode
  exact runs_phase ha hst hk (if_pos hwait) rfl

theorem phase2_counts (hk : rsPhase s = 2) : Runs (.startPhaseDone r us) s fun t => MemSame s t
    ∧ (fld (loadSettings s) Reg.RST_OPTIONS Fld.RST_OPTIONS_FAILLIM ≤ startCount s →
        rstState t = stDormant ∧ t.host.config = true ∧ fld t Reg.HST_STATUS Fld.HST_STATUS_DORMANT = 1
          ∧ t.cellar = s.cellar)
    ∧ (startCount s < fld (loadSettings s) Reg.RST_OPTIONS Fld.RST_OPTIONS_FAILLIM →
        rsPhase t = 3 ∧ ∃ q, t.cellar = { s.cellar with stores := s.cellar.stores ++ [q] } ∧ q.kind = ckStart
          ∧ q.body = leBytes 4 (startCount s + 1)) := by
  refine runs_phase ha hst hk (phase2_eq s) ?_
  rw [fld_of_reg (settingsShown_options s), startCount_optionsShown]
  have hshown := regsOnly_settingsShown s
  generalize settingsShown s = u at hshown ⊢
  by_cases hlim : fld (loadSettings s) Reg.RST_OPTIONS Fld.RST_OPTIONS_FAILLIM ≤ startCount s
  · rw [if_pos hlim]
    obtain ⟨hstate, hconfig, hdormant, hcellar, hmem⟩ := enterDormant_shows u
    generalize enterDormant u = v at hstate hconfig hdormant hcellar hmem ⊢
    exact ⟨memSame_ended s (hshown.memSame.trans hmem), fun _ => ⟨(ended_fld s v _ _).trans hstate, hconfig,
      (ended_fld s v _ _).trans hdormant, hcellar.trans hshown.cellar⟩, fun h => absurd hlim (Nat.not_le.2 h)⟩
  · rw [if_neg hlim]
    generalize leBytes 4 (startCount s + 1) = body
    have hcellar := deviceStore_cellar u ckStart body
    have hmem := (deviceStore_cellarOnly u ckStart body).rolesKept.memSame
    generalize deviceStore u ckStart body = w at hcellar hmem ⊢
    have hphase := rsPhase_setPhase w (k := 3) (by decide)
    have hform := regsOnly_setPhase w 3
    generalize setPhase w 3 = v at hphase hform ⊢
    refine ⟨memSame_ended s ((hshown.memSame.trans hmem).trans hform.memSame), fun h => absurd h hlim,
      fun _ => ⟨(ended_fld s v _ _).trans hphase, { kind := ckStart, version := cellVersion u ckStart, body := body },
        hform.cellar.trans ?_, rfl, rfl⟩⟩
    rw [hcellar, hshown.cellar]

theorem phase5_copies (hk : rsPhase s = 5) : Runs (.startPhaseDone r us) s fun t => OnlyRegs
    { s with
      host := { s.host with config := true }, seed := { s.seed with slots := t.seed.slots }
      rst := { s.rst with seedBuf := s.rst.flash.filter fun x => x.1 < 0x100000, seedErr := decide (r = .fail) } }
    t [Reg.RST_STATUS] ∧ rsPhase t = 6 ∧ (r = .fail → t.seed.slots = []) := by
  refine runs_phase ha hst hk (phase5_eq s _) ?_
  have hunread (h : r = .fail) : bootSlots (seedCopied s (r ≠ .fail)) = [] := by
    rw [decide_eq_false (not_not.2 h)]
    exact bootSlots_unread s
  have herr : (!decide (r ≠ .fail)) = decide (r = .fail) := by simp
  rw [← herr]
  generalize decide (r ≠ .fail) = ok at hunread ⊢
  generalize bootSlots (seedCopied s ok) = slots at hunread ⊢
  have honly : OnlyRegs (slotsRead (seedCopied s ok) slots) (ended s (setPhase (slotsRead (seedCopied s ok) slots) 6))
      [Reg.RST_STATUS] := onlyRegs_ended (regsOnly_setPhase _ 6) (setPhase_regs _ 6)
  have hphase := rsPhase_setPhase (slotsRead (seedCopied s ok) slots) (k := 6) (by decide)
  have hslots : (setPhase (slotsRead (seedCopied s ok) slots) 6).seed.slots = slots :=
    congrArg (fun t => t.seed.slots) (regsOnly_setPhase (slotsRead (seedCopied s ok) slots) 6)
  generalize setPhase (slotsRead (seedCopied s ok) slots) 6 = v at honly hphase hslots ⊢
  have hslots' : (ended s v).seed.slots = slots := hslots
  rw [hslots']
  exact ⟨honly, (ended_fld s v _ _).trans hphase, hunread⟩

theorem phase6_calm (hk : rsPhase s = 6) (hr : r ≠ .fail) (hb : foundBanks r = []) :
    Runs (.startPhaseDone r us) s fun t => rsPhase t = 7 ∧ t.mem = s.mem ∧ t.host = s.host := by
  refine runs_phase ha hst hk ((if_pos (decide_eq_true hr)).trans ((congrArg (phase6 s) hb).trans (phase6_none s))) ?_
  obtain ⟨hmem, hhost⟩ := loadRepairs_kept (bodyPairs (cellBody s ckRepair)) s
  generalize (bodyPairs (cellBody s ckRepair)).foldl loadRepair s = u at hmem hhost ⊢
  have hform := regsOnly_setPhase u 7
  have hphase := rsPhase_setPhase u (k := 7) (by decide)
  generalize setPhase u 7 = v at hform hphase ⊢
  exact ⟨(ended_fld s v _ _).trans hphase, hform.mem.trans hmem, hform.host.trans hhost⟩

section
variable {l k : Nat} (hk : rsPhase s = 6) (hr : r = .loft [(l, k)]) (hcell : cellBody s ckRepair = [])
include hk hr hcell

theorem runs_phase6 {P : State → Prop} {t : State} {lost : Bool} (hf : bankFails (s, false) (l, k) = (t, lost))
    (hp : P (ended s (if lost then failStart t lrLoft else setPhase t 7))) : Runs (.startPhaseDone r us) s P := by
  have hone := phase6_one (x := (l, k)) hcell
  rw [hf] at hone
  have hfit : decide (r ≠ .fail) = true := decide_eq_true (by rw [hr]; nofun)
  have hbanks : foundBanks r = [(l, k)] := by rw [hr, foundBanks]
  exact runs_phase ha hst hk ((if_pos hfit).trans ((congrArg (phase6 s) hbanks).trans hone)) hp

theorem phase6_spare (hl : l < 4) (hm : sliceMapped s k = false) (hs : sparesUsed s l < 4) :
    Runs (.startPhaseDone r us) s fun t => rsPhase t = 7
      ∧ sparesUsed t l = sparesUsed s l + 1 ∧ t.integ.banksDone = s.integ.banksDone ++ [(l, k)]
      ∧ regN t Reg.INT_REPAIRS = min (regN s Reg.INT_REPAIRS + 1) 0xFFFFFFFF ∧ t.mem = s.mem := by
  refine runs_phase6 ha hst hk hr hcell (bankFails_spare hm hs) ?_
  obtain ⟨hused, hdone, hcount, hmem⟩ := bankSpared_shows s k hl hs
  generalize bankSpared s (l, k) = u at hused hdone hcount hmem ⊢
  rw [if_neg Bool.false_ne_true]
  have hreg {a : Nat} (h : a ≠ Reg.RST_STATUS) := setPhase_reg u 7 h
  have hform := regsOnly_setPhase u 7
  have hphase := rsPhase_setPhase u (k := 7) (by decide)
  generalize setPhase u 7 = v at hreg hform hphase ⊢
  exact ⟨(ended_fld s v _ _).trans hphase,
    (sparesUsed_of_reg ((ended_reg s v _).trans (hreg (by decide))) l).trans hused,
    (congrArg IntegSt.banksDone hform.integ).trans hdone, (regN_of_reg (hreg (by decide))).trans hcount, hform.mem.trans hmem⟩

theorem phase6_mapout (hl : l < 4) (hk64 : k < 64) (hm : sliceMapped s k = false) (hs : sparesUsed s l = 4) :
    Runs (.startPhaseDone r us) s fun t => rsPhase t = 7
      ∧ sliceMapped t k = true ∧ fld t (Reg.LFT_SLSTAT k) Fld.LFT_SLSTAT_LAYER = l ∧ t.mem = s.mem := by
  have hfails : bankFails (s, false) (l, k) = (showMapout s k l, false) := bankFails_mapout hm (Nat.not_lt.2 hs.ge)
  refine runs_phase6 ha hst hk hr hcell hfails ?_
  obtain ⟨hmapped, hlayer, hmem⟩ := showMapout_shows s hk64 hl
  generalize showMapout s k l = u at hmapped hlayer hmem ⊢
  rw [if_neg Bool.false_ne_true]
  have hne : Reg.LFT_SLSTAT k ≠ Reg.RST_STATUS := by
    simp only [Reg.LFT_SLSTAT, Reg.RST_STATUS]
    omega
  have hreg := setPhase_reg u 7 hne
  have hform := regsOnly_setPhase u 7
  have hphase := rsPhase_setPhase u (k := 7) (by decide)
  generalize setPhase u 7 = v at hreg hform hphase ⊢
  exact ⟨(ended_fld s v _ _).trans hphase, (sliceMapped_of_reg ((ended_reg s v _).trans hreg)).trans hmapped,
    (ended_fld s v _ _).trans ((fld_of_reg hreg _).trans hlayer), (ended_mem s v).trans (hform.mem.trans hmem)⟩

theorem phase6_fails (hm : sliceMapped s k = true) (hlayer : fld s (Reg.LFT_SLSTAT k) Fld.LFT_SLSTAT_LAYER ≠ l)
    (hs : sparesUsed s l = 4) : Runs (.startPhaseDone r us) s fun t => Statements.FailStart s t 1 :=
  runs_phase6 ha hst hk hr hcell (bankFails_lost hm hlayer (Nat.not_lt.2 hs.ge)) (failStart_left s s (by decide))

end

theorem phase_unfit {k reason : Nat} (h : (k, reason) ∈ [(6, 1), (7, 2), (9, 3)]) (hk : rsPhase s = k) (hr : r = .fail) :
    Runs (.startPhaseDone r us) s fun t => Statements.FailStart s t reason := by
  obtain ⟨hstep, hlt⟩ := phaseStep_unfit s r us h
  exact runs_phase ha hst hk (by rw [decide_eq_false (not_not.2 hr)]; exact hstep) (failStart_left s s hlt)

theorem phase8_fills (hk : rsPhase s = 8) : Runs (.startPhaseDone r us) s fun t =>
    OnlyRegs s t [Reg.RST_STATUS, Reg.INT_STATUS] ∧ rsPhase t = 9
      ∧ fld t Reg.INT_STATUS Fld.INT_STATUS_FILLED = 1 - fld s Reg.RST_OPTIONS Fld.RST_OPTIONS_INITMODE := by
  refine runs_phase (t := phase8 s) ha hst hk rfl ?_
  unfold phase8
  dsimp only
  generalize fld s Reg.RST_OPTIONS Fld.RST_OPTIONS_INITMODE = m
  have hshown : fld (setFld (setFld s Reg.INT_STATUS Fld.INT_STATUS_INITMODE m) Reg.INT_STATUS Fld.INT_STATUS_FILLED (1 - m))
      Reg.INT_STATUS Fld.INT_STATUS_FILLED = 1 - m :=
    (fld_setFld _ _ _ _ (by decide) (by decide)).trans (Nat.mod_eq_of_lt (show 1 - m < 2 by omega))
  have hform := (regsOnly_setFld s Reg.INT_STATUS Fld.INT_STATUS_INITMODE m).trans
    (regsOnly_setFld _ Reg.INT_STATUS Fld.INT_STATUS_FILLED (1 - m))
  have hother {a : Nat} (h : a ≠ Reg.INT_STATUS) : reg (setFld (setFld s Reg.INT_STATUS Fld.INT_STATUS_INITMODE m)
      Reg.INT_STATUS Fld.INT_STATUS_FILLED (1 - m)) a = reg s a :=
    (reg_setFld_ne _ _ _ h.symm).trans (reg_setFld_ne _ _ _ h.symm)
  generalize setFld (setFld s Reg.INT_STATUS Fld.INT_STATUS_INITMODE m) Reg.INT_STATUS Fld.INT_STATUS_FILLED (1 - m) = u
    at hshown hform hother ⊢
  have hreg {a : Nat} (h : a ≠ Reg.RST_STATUS) := setPhase_reg u 9 h
  have hphase := rsPhase_setPhase u (k := 9) (by decide)
  have hform' := hform.trans (regsOnly_setPhase u 9)
  generalize setPhase u 9 = v at hreg hphase hform' ⊢
  refine ⟨onlyRegs_ended hform' fun a h => ?_, (ended_fld s v _ _).trans hphase,
    (ended_fld s v _ _).trans ((fld_of_reg (hreg (by decide)) _).trans hshown)⟩
  simp only [List.mem_cons, List.not_mem_nil, or_false, not_or] at h
  exact (hreg h.1).trans (hother h.2)

end

theorem statements_startPhases : Statements.StartPhases := by
  intro s r us ha hst
  exact ⟨fun _ _ h hk => phase_next ha hst h hk, phase4_waits ha hst, phase2_counts ha hst, phase5_copies ha hst,
    phase6_calm ha hst, fun l k hk hr hl hk64 hcell =>
      ⟨phase6_spare ha hst hk hr hcell hl, phase6_mapout ha hst hk hr hcell hl hk64, phase6_fails ha hst hk hr hcell⟩,
    fun _ _ h hk hr => phase_unfit ha hst h hk hr, phase8_fills ha hst, fun hk hr harr hphys =>
      ⟨phase9_calm ha hst hk hr harr hphys, fun n hn hb hlow hone h64 hc =>
        phase9_spare ha hst hk hr harr hphys hn hb hlow hone h64 hc,
      fun b hb hpres hinj hgone => phase9_fails ha hst hk hr harr hphys hb hpres hinj hgone⟩⟩

end Sys2Proof.Settled
end

section
/-! PROOF. The end of a start: the image, the Seed, and Ready (R520, R527 to R529, R546, R574). -/

namespace Sys2Proof.Machine

/-! ## Phase 10: the image that starts (R574) -/

section
variable {s t : State} (h : RegsOnly s t)
include h

theorem RegsOnly.flashRead (a n : Nat) : flashRead t a n = flashRead s a n := by rw [Machine.flashRead, Machine.flashRead, h.rst]

theorem RegsOnly.seed : t.seed = s.seed := by rw [h]

theorem RegsOnly.slotOff (slot : Nat) : slotOff t slot = slotOff s slot := by rw [Machine.slotOff, Machine.slotOff, h.seed]

theorem RegsOnly.cellBody (kind : Nat) : cellBody t kind = cellBody s kind := by
  rw [Machine.cellBody, Machine.cellBody, cellCopy, cellCopy, cellRec, cellRec, h.cellar]

theorem RegsOnly.rollFloor : rollFloor t = rollFloor s := by rw [Machine.rollFloor, Machine.rollFloor, h.cellBody]

theorem RegsOnly.rollRoot : rollRoot t = rollRoot s := by rw [Machine.rollRoot, Machine.rollRoot, h.cellBody]

theorem RegsOnly.verify573 (slot : Nat) : verify573 t slot = verify573 s slot := by
  unfold Machine.verify573
  simp only [h.flashRead, h.slotOff, h.rollFloor]

end

theorem ended_fwm (s t : State) : (ended s t).fwm = t.fwm := rfl
theorem ended_seed (s t : State) : (ended s t).seed = t.seed := rfl
theorem ended_rst (s t : State) : (ended s t).rst = t.rst := rfl
theorem ended_cellar (s t : State) : (ended s t).cellar = t.cellar := rfl

theorem rolesKept_setReg64 (s : State) {a : Nat} (v : Nat) (h : a ∉ roleRegs ∧ a + 4 ∉ roleRegs) :
    RolesKept s (setReg64 s a v) :=
  rolesKept_of_regs rfl fun b hb => reg_setReg64_ne s v (by rintro rfl; exact h.1 hb) (by rintro rfl; exact h.2 hb)

theorem showRun_altBoot (s : State) :
    fld (showRun s) Reg.FWM_STATUS Fld.FWM_STATUS_ALTBOOT = fld s Reg.FWM_STATUS Fld.FWM_STATUS_ALTBOOT := by
  unfold showRun
  split
  · rfl
  · rw [setFwm, fld_setFld_ne _ _ _ _ _ (by decide) (by decide) (by decide) (by decide),
      fld_of_reg (reg_setRegN_ne _ _ (by decide)), fld_of_reg (reg_setFld_ne _ _ _ (by decide)),
      fld_of_reg (reg_setFld_ne _ _ _ (by decide))]

/-- The image that runs is shown. -/
def runShown (s : State) (i : Image) : State := showRun (mapFwm s fun x => { x with run := some i })

theorem runShown_shows (s : State) (i : Image) : (runShown s i).fwm.run = some i ∧ (runShown s i).mem = s.mem
    ∧ fld (runShown s i) Reg.FWM_STATUS Fld.FWM_STATUS_ALTBOOT = fld s Reg.FWM_STATUS Fld.FWM_STATUS_ALTBOOT :=
  ⟨congrArg FwmSt.run (showRun_form _).fwm, (showRun_form _).mem, (showRun_altBoot _).trans (fld_mapFwm _ _ _ _)⟩

/-- The image and its boot ROM are measured, and its signing index is at hand. -/
def imageMeasured (s : State) (i : Image) : State :=
  let s := measureImage (measure s mtBootrom none Config.romDigest) mtFirmware (some i)
  let next := leAt ((recordFor s i ckSignres).getD []) 0 8
  setReg64 (setReg64 s Reg.FWM_SIGNEXT_LO next) Reg.FWM_SIGRES_LO next

theorem imageMeasured_rolesKept (s : State) (i : Image) : RolesKept s (imageMeasured s i) := by
  unfold imageMeasured
  dsimp only
  exact (((measure_rolesKept s _ _ _).trans (measureImage_rolesKept _ _ _)).trans (rolesKept_setReg64 _ _ (by decide))).trans
    (rolesKept_setReg64 _ _ (by decide))

theorem startImage_eq (s : State) (i : Image) :
    startImage s i = setPhase (meetRecords (imageMeasured (runShown s i) i) i) 11 := rfl

/-- The image that starts runs, and phase 11 begins; memory and ALTBOOT stand. -/
theorem startImage_starts (s : State) (i : Image) : rsPhase (startImage s i) = 11 ∧ (startImage s i).fwm.run = some i
    ∧ (startImage s i).mem = s.mem
    ∧ fld (startImage s i) Reg.FWM_STATUS Fld.FWM_STATUS_ALTBOOT = fld s Reg.FWM_STATUS Fld.FWM_STATUS_ALTBOOT := by
  rw [startImage_eq]
  obtain ⟨hrun, hmem, halt⟩ := runShown_shows s i
  generalize runShown s i = u at hrun hmem halt ⊢
  have hkept := (imageMeasured_rolesKept u i).trans (meetRecords_rolesKept _ i)
  generalize meetRecords (imageMeasured u i) i = v at hkept ⊢
  have hform := regsOnly_setPhase v 11
  have hreg := setPhase_reg v 11 (a := Reg.FWM_STATUS) (by decide)
  refine ⟨rsPhase_setPhase v (by decide), ?_, hform.mem.trans (hkept.memSame.1.trans hmem), ?_⟩
  · rw [hform.fwm, hkept.fwm]
    exact hrun
  · exact (fld_of_reg hreg _).trans ((hkept.fld (by simp [roleRegs]) _).trans halt)

/-- The other slot is shown as the alternative. -/
def altShown (s : State) : State := raise (setFwm s Fld.FWM_STATUS_ALTBOOT 1) Reg.FWM_INTSTAT Fld.FWM_INTSTAT_ALTBOOT.bit

theorem altShown_shows (s : State) : fld (altShown s) Reg.FWM_STATUS Fld.FWM_STATUS_ALTBOOT = 1 ∧ (altShown s).mem = s.mem := by
  have hform := (regsOnly_setFld s Reg.FWM_STATUS Fld.FWM_STATUS_ALTBOOT 1).trans
    (regsOnly_raise _ Reg.FWM_INTSTAT Fld.FWM_INTSTAT_ALTBOOT.bit)
  refine ⟨?_, hform.mem⟩
  rw [altShown, fld_of_reg (reg_raise_ne _ _ (by decide)), setFwm, fld_setFld _ _ _ _ (by decide) (by decide)]
  decide

theorem phase10_eq (s : State) : phase10 s =
    if (verify573 s (rollRoot s)).1 = 0 then startImage (showRecords s) (verify573 s (rollRoot s)).2
    else if (verify573 s (1 - rollRoot s)).1 = 0 then startImage (altShown (showRecords s)) (verify573 s (1 - rollRoot s)).2
    else failStart (showRecords s) lrFwbad := by
  have h := regsOnly_showRecords s
  unfold phase10
  dsimp only
  simp only [h.verify573, h.rollRoot, altShown]

/-! ## Phase 11: the Seed is loaded (R525 to R528) -/

theorem loadImages_mem (bs : List Byte) (mask : Nat) (l : List Nat) (s : State) (o : Nat) :
    (loadImages s bs mask l o).mem = s.mem := by
  induction l generalizing s o with
  | nil => rfl
  | cons a l ih => exact (ih (setRegN s a _) (o + 4)).trans (regsOnly_setRegN s a _).mem

section
variable (s : State) (bs : List Byte)

theorem loadIdentity_mem : (loadIdentity s bs).mem = s.mem :=
  ((regsOnly_setRegN s _ _).trans (regsOnly_setRegN _ _ _)).mem

theorem regsOnly_syncFrame : RegsOnly s (syncFrame s) :=
  (((regsOnly_setFld s _ _ _).trans (regsOnly_setFld _ _ _ _)).trans (regsOnly_setFld _ _ _ _)).trans (regsOnly_setFld _ _ _ _)

theorem mapLoft_mem (g : LoftSt → LoftSt) : (mapLoft s g).mem = s.mem := rfl
theorem mapSeed_mem (g : SeedSt → SeedSt) : (mapSeed s g).mem = s.mem := rfl
theorem mapSeed_seed (g : SeedSt → SeedSt) : (mapSeed s g).seed = g s.seed := rfl

theorem loadFrame_mem : (loadFrame s bs).mem = s.mem := by
  unfold loadFrame
  dsimp only
  refine (regsOnly_syncFrame _).mem.trans ?_
  dsimp only
  rw [(regsOnly_setFld _ _ _ _).mem, (regsOnly_setFld _ _ _ _).mem, (regsOnly_setFld _ _ _ _).mem,
    (regsOnly_setFld _ _ _ _).mem]

theorem loadWays_mem : (loadWays s).mem = s.mem := by
  unfold loadWays
  dsimp only
  rw [(regsOnly_setFld _ _ _ _).mem, (regsOnly_setFld _ _ _ _).mem, (regsOnly_setFld _ _ _ _).mem,
    (regsOnly_setFld _ _ _ _).mem, (regsOnly_setFld _ _ _ _).mem, (regsOnly_setFld _ _ _ _).mem]

theorem loadPlacement_mem : (loadPlacement s bs).mem = s.mem := by
  unfold loadPlacement
  dsimp only
  rw [mapLoft_mem, loadImages_mem, (regsOnly_setReg64 _ _ _).mem, (regsOnly_setRegN _ _ _).mem, (regsOnly_setRegN _ _ _).mem,
    (regsOnly_setReg64 _ _ _).mem]

theorem loadFabric_mem : (loadFabric s bs).mem = s.mem := by
  unfold loadFabric
  dsimp only
  rw [loadImages_mem, loadImages_mem, loadImages_mem, (regsOnly_setRegN _ _ _).mem, (regsOnly_setRegN _ _ _).mem]

theorem loadAdmission_mem : (loadAdmission s bs).mem = s.mem := rfl

theorem loadFloor_mem : (loadFloor s bs).mem = s.mem := by
  unfold loadFloor
  dsimp only
  rw [mapSeed_mem, (regsOnly_setFld _ _ _ _).mem, (regsOnly_setFld _ _ _ _).mem, (regsOnly_setFld _ _ _ _).mem]

end

theorem loadSeed_mem (s : State) : (loadSeed s).mem = s.mem := by
  have hways := (loadWays_mem _).trans ((loadFrame_mem _ ((sectionOf s 2).getD [])).trans
    (loadIdentity_mem s ((sectionOf s 1).getD [])))
  unfold loadSeed
  dsimp only
  rw [mapSeed_mem, loadFloor_mem, loadAdmission_mem, loadFabric_mem]
  split
  · exact (loadPlacement_mem _ _).trans hways
  · exact hways

theorem loadSeed_read (s : State) : (loadSeed s).seed.read = true := by
  unfold loadSeed
  dsimp only
  rw [mapSeed_seed]

/-- The Seed is loaded and measured, and the Floor listens. -/
def seedTaken (s : State) (digest : List Byte) : State := setFlrState (measure (loadSeed s) mtSeed none digest) fsListen

theorem phase11_fault {s : State} {k ty o : Nat} (h : seedFault s = some (k, ty, o)) :
    phase11 s = failStart (setRegN s Reg.RST_SEEDERR (2 ^ 31 + 2 ^ 24 * k + 2 ^ 16 * ty + o)) lrSeedbad := by
  unfold phase11
  rw [h]

theorem phase11_loads {s : State} (h : seedFault s = none) :
    phase11 s = setPhase (seedTaken s (shake256 (seedBytes s 0 (seedN s 8 4)) 32)) 12 := by
  unfold phase11
  rw [h]
  rfl

theorem measure_seed (s : State) (type : Nat) (i : Option Image) (digest : List Byte) :
    (measure s type i digest).seed = s.seed := by rw [measure_form]

theorem seedTaken_shows (s : State) (digest : List Byte) : (seedTaken s digest).seed.read = true
    ∧ (seedTaken s digest).mem = s.mem := by
  have hmem := loadSeed_mem s
  have hread := loadSeed_read s
  unfold seedTaken
  generalize loadSeed s = u at hmem hread ⊢
  have hseed := measure_seed u mtSeed none digest
  have hmeas := (measure_rolesKept u mtSeed none digest).memSame.1
  generalize measure u mtSeed none digest = v at hseed hmeas ⊢
  have hform := regsOnly_setFld v Reg.FLR_STATUS Fld.FLR_STATUS_STATE fsListen
  refine ⟨(congrArg SeedSt.read (hform.seed.trans hseed)).trans hread, hform.mem.trans (hmeas.trans hmem)⟩

/-! ## Phase 12: Ready (R520, R546, R548) -/

/-- The registers that show Ready. -/
def readyShown (s : State) (us : Nat) : State :=
  setFld (raise (setRegN (setPhase (setRst s stIdle) 0) Reg.RST_READY us) Reg.RST_INTSTAT Fld.RST_INTSTAT_READY.bit)
    Reg.HST_STATUS Fld.HST_STATUS_ACCEPTING 1

theorem phase12_eq (s : State) (us : Nat) : phase12 s us =
    storeLife (deviceStore (mapRst (readyShown s us) fun r => { r with ready := true }) ckStart (leBytes 4 0)) 1 0 := rfl

theorem regsOnly_readyShown (s : State) (us : Nat) : RegsOnly s (readyShown s us) :=
  ((((regsOnly_setFld s _ _ _).trans (regsOnly_setPhase _ _)).trans (regsOnly_setRegN _ _ _)).trans
    (regsOnly_raise _ _ _)).trans (regsOnly_setFld _ _ _ _)

/-- Idle and Ready, as the registers show it. -/
structure ShowsReady (s : State) (us : Nat) : Prop where
  idle : rstState s = stIdle
  phase : rsPhase s = 0
  time : regN s Reg.RST_READY = us % 2 ^ 32
  accepting : fld s Reg.HST_STATUS Fld.HST_STATUS_ACCEPTING = 1
  event : fld s Reg.RST_INTSTAT Fld.RST_INTSTAT_READY = 1

theorem readyShown_shows (s : State) (us : Nat) : ShowsReady (readyShown s us) us := by
  have hidle : rstState (setPhase (setRst s stIdle) 0) = stIdle :=
    (rstState_setPhase _ _).trans (fld_setFld s _ _ _ (by decide) (by decide))
  have hphase : rsPhase (setPhase (setRst s stIdle) 0) = 0 := rsPhase_setPhase _ (by decide)
  unfold readyShown
  generalize setPhase (setRst s stIdle) 0 = u at hidle hphase ⊢
  have hstatus : reg (setFld (raise (setRegN u Reg.RST_READY us) Reg.RST_INTSTAT Fld.RST_INTSTAT_READY.bit) Reg.HST_STATUS
      Fld.HST_STATUS_ACCEPTING 1) Reg.RST_STATUS = reg u Reg.RST_STATUS := by
    rw [reg_setFld_ne _ _ _ (by decide), reg_raise_ne _ _ (by decide), reg_setRegN_ne _ _ (by decide)]
  refine ⟨(fld_of_reg hstatus _).trans hidle, (fld_of_reg hstatus _).trans hphase, ?_, ?_, ?_⟩
  · rw [regN_of_reg (reg_setFld_ne _ _ _ (by decide)), regN_of_reg (reg_raise_ne _ _ (by decide)), regN_setRegN, if_pos rfl]
  · exact fld_setFld _ _ _ _ (by decide) (by decide)
  · exact (fld_of_reg (reg_setFld_ne _ _ _ (by decide)) _).trans (fld_raise _ _ 0 (by decide))

theorem ShowsReady.of_reg {s t : State} {us : Nat} (h : ShowsReady s us) (hr : ∀ a, reg t a = reg s a) : ShowsReady t us :=
  ⟨(fld_of_reg (hr _) _).trans h.idle, (fld_of_reg (hr _) _).trans h.phase, (regN_of_reg (hr _)).trans h.time,
    (fld_of_reg (hr _) _).trans h.accepting, (fld_of_reg (hr _) _).trans h.event⟩

/-- A LIFE store waits in the Cellar. -/
theorem storeLife_form (s : State) (starts hours : Nat) : ∃ y, storeLife s starts hours =
    { s with cellar := { s.cellar with stores := s.cellar.stores ++ [y] }, rst := { s.rst with trips := 0 } }
      ∧ y.kind = ckLife := ⟨_, rfl, rfl⟩

theorem deviceStore_form (s : State) (kind : Nat) (body : List Byte) : ∃ x, deviceStore s kind body =
    { s with cellar := { s.cellar with stores := s.cellar.stores ++ [x] } } ∧ x.kind = kind ∧ x.body = body := ⟨_, rfl, rfl, rfl⟩

/-- Phase 12 shows Ready and waits for two stores. -/
theorem phase12_form (s : State) (us : Nat) : ∃ x y, phase12 s us =
    { readyShown s us with
      cellar := { (readyShown s us).cellar with stores := (readyShown s us).cellar.stores ++ [x, y] }
      rst := { (readyShown s us).rst with ready := true, trips := 0 } }
      ∧ x.kind = ckStart ∧ x.body = leBytes 4 0 ∧ y.kind = ckLife := by
  rw [phase12_eq]
  generalize readyShown s us = u
  generalize leBytes 4 0 = body
  obtain ⟨x, hx, hkind, hbody⟩ := deviceStore_form (mapRst u fun r => { r with ready := true }) ckStart body
  obtain ⟨y, hy, hlife⟩ := storeLife_form (deviceStore (mapRst u fun r => { r with ready := true }) ckStart body) 1 0
  refine ⟨x, y, ?_, hkind, hbody, hlife⟩
  rw [hy, hx]
  simp [mapRst]

end Sys2Proof.Machine

namespace Sys2Proof.Settled

open Sys2Proof.Machine

section
variable {s : State} {r : PhaseResult} {us : Nat} (ha : alive s = true) (hst : rstState s = 0)
include ha hst

theorem phase10_starts (hk : rsPhase s = 10) :
    ((verify573 s (rollRoot s)).1 = 0 → Runs (.startPhaseDone r us) s fun t =>
      rsPhase t = 11 ∧ t.fwm.run = some (verify573 s (rollRoot s)).2 ∧ t.mem = s.mem) ∧
    ((verify573 s (rollRoot s)).1 ≠ 0 → (verify573 s (1 - rollRoot s)).1 = 0 → Runs (.startPhaseDone r us) s fun t =>
      rsPhase t = 11 ∧ t.fwm.run = some (verify573 s (1 - rollRoot s)).2 ∧ t.mem = s.mem
        ∧ fld t Reg.FWM_STATUS Fld.FWM_STATUS_ALTBOOT = 1) ∧
    ((verify573 s (rollRoot s)).1 ≠ 0 → (verify573 s (1 - rollRoot s)).1 ≠ 0 → Runs (.startPhaseDone r us) s fun t =>
      Statements.FailStart (showRecords s) t 4) := by
  have hrec := regsOnly_showRecords s
  refine ⟨fun hroot => ?_, fun hroot hother => ?_, fun hroot hother => ?_⟩
  · refine runs_phase ha hst hk ((phase10_eq s).trans (if_pos hroot)) ?_
    obtain ⟨hphase, hrun, hmem, -⟩ := startImage_starts (showRecords s) (verify573 s (rollRoot s)).2
    generalize startImage (showRecords s) (verify573 s (rollRoot s)).2 = v at hphase hrun hmem ⊢
    exact ⟨(ended_fld s v _ _).trans hphase, (congrArg FwmSt.run (ended_fwm s v)).trans hrun,
      (ended_mem s v).trans (hmem.trans hrec.mem)⟩
  · refine runs_phase ha hst hk ((phase10_eq s).trans ((if_neg hroot).trans (if_pos hother))) ?_
    obtain ⟨halt, halt'⟩ := altShown_shows (showRecords s)
    generalize altShown (showRecords s) = u at halt halt' ⊢
    obtain ⟨hphase, hrun, hmem, hbit⟩ := startImage_starts u (verify573 s (1 - rollRoot s)).2
    generalize startImage u (verify573 s (1 - rollRoot s)).2 = v at hphase hrun hmem hbit ⊢
    exact ⟨(ended_fld s v _ _).trans hphase, (congrArg FwmSt.run (ended_fwm s v)).trans hrun,
      (ended_mem s v).trans (hmem.trans (halt'.trans hrec.mem)), (ended_fld s v _ _).trans (hbit.trans halt)⟩
  · exact runs_phase ha hst hk ((phase10_eq s).trans ((if_neg hroot).trans (if_neg hother)))
      (failStart_left (showRecords s) s (by decide))

theorem phase11_ends (hk : rsPhase s = 11) :
    (∀ k ty o, seedFault s = some (k, ty, o) → Runs (.startPhaseDone r us) s fun t =>
      Statements.FailStart (setRegN s Reg.RST_SEEDERR (2 ^ 31 + 2 ^ 24 * k + 2 ^ 16 * ty + o)) t 5) ∧
    (seedFault s = none → Runs (.startPhaseDone r us) s fun t => rsPhase t = 12 ∧ t.seed.read = true ∧ t.mem = s.mem) := by
  refine ⟨fun k ty o h => runs_phase ha hst hk (phase11_fault h) (failStart_left _ s (by decide)), fun h => ?_⟩
  refine runs_phase ha hst hk (phase11_loads h) ?_
  obtain ⟨hread, hmem⟩ := seedTaken_shows s (shake256 (seedBytes s 0 (seedN s 8 4)) 32)
  generalize seedTaken s (shake256 (seedBytes s 0 (seedN s 8 4)) 32) = u at hread hmem ⊢
  have hform := regsOnly_setPhase u 12
  have hphase := rsPhase_setPhase u (k := 12) (by decide)
  generalize setPhase u 12 = v at hform hphase ⊢
  exact ⟨(ended_fld s v _ _).trans hphase, (congrArg SeedSt.read ((ended_seed s v).trans hform.seed)).trans hread,
    (ended_mem s v).trans (hform.mem.trans hmem)⟩

theorem phase12_ready (hk : rsPhase s = 12) : Runs (.startPhaseDone r us) s fun t =>
    rstState t = stIdle ∧ rsPhase t = 0 ∧ regN t Reg.RST_READY = us % 2 ^ 32 ∧ t.rst.ready = true
      ∧ fld t Reg.HST_STATUS Fld.HST_STATUS_ACCEPTING = 1 ∧ fld t Reg.RST_INTSTAT Fld.RST_INTSTAT_READY = 1 ∧ MemSame s t
      ∧ ∃ x y, t.cellar = { s.cellar with stores := s.cellar.stores ++ [x, y] } ∧ x.kind = ckStart
          ∧ x.body = leBytes 4 0 ∧ y.kind = ckLife := by
  obtain ⟨x, y, hends, hx, hbody, hy⟩ := phase12_form s us
  refine runs_phase ha hst hk hends ?_
  have hform := regsOnly_readyShown s us
  have hshows := readyShown_shows s us
  generalize readyShown s us = u at hform hshows ⊢
  obtain ⟨v, hv⟩ : ∃ v : State, v = { u with
      cellar := { u.cellar with stores := u.cellar.stores ++ [x, y] }, rst := { u.rst with ready := true, trips := 0 } } :=
    ⟨_, rfl⟩
  have hready : v.rst.ready = true := by rw [hv]
  have hcellar : v.cellar = { s.cellar with stores := s.cellar.stores ++ [x, y] } := by rw [hv, hform.cellar]
  have hmem : v.mem = s.mem ∧ v.ecc = s.ecc := by
    rw [hv]
    exact hform.memSame
  obtain ⟨hidle, hphase, htime, haccepting, hevent⟩ : ShowsReady v us := hshows.of_reg fun a => by rw [hv]; rfl
  rw [← hv]
  exact ⟨(ended_fld s v _ _).trans hidle, (ended_fld s v _ _).trans hphase, (ended_regN s v _).trans htime,
    (congrArg RstSt.ready (ended_rst s v)).trans hready, (ended_fld s v _ _).trans haccepting,
    (ended_fld s v _ _).trans hevent, memSame_ended s hmem, x, y, (ended_cellar s v).trans hcellar, hx, hbody, hy⟩

end

theorem statements_startEnds : Statements.StartEnds := fun _ _ _ ha hst =>
  ⟨phase10_starts ha hst, phase11_ends ha hst, phase12_ready ha hst⟩

/-- Settles O54: each phase's end by the equation that says what the phase does, and what its parts leave unchanged. -/
theorem startUp : Obligations.StartUp := ⟨statements_startPhases, statements_startEnds⟩

end Sys2Proof.Settled
end

section
/-! PROOF. What the work of a partial reset leaves of the requests, of the layers in reset, of the Loft's allocation and of
HORIZON (R536 to R538). -/

namespace Sys2Proof.Machine

/-- From `s` to `t` the requests stand, and so do the layers in reset, whether the Loft allocates, and HORIZON. -/
structure ResetKept (s t : State) : Prop where
  rst : t.rst = s.rst
  granaryOnly : t.loft.granaryOnly = s.loft.granaryOnly
  layers : fld t Reg.RST_STATUS Fld.RST_STATUS_LAYERRST = fld s Reg.RST_STATUS Fld.RST_STATUS_LAYERRST
  horizon : fld t Reg.MIL_GATE Fld.MIL_GATE_HORIZON = fld s Reg.MIL_GATE Fld.MIL_GATE_HORIZON

theorem ResetKept.refl (s : State) : ResetKept s s := ⟨rfl, rfl, rfl, rfl⟩

theorem ResetKept.trans {s t u : State} (h : ResetKept s t) (h' : ResetKept t u) : ResetKept s u :=
  ⟨h'.rst.trans h.rst, h'.granaryOnly.trans h.granaryOnly, h'.layers.trans h.layers, h'.horizon.trans h.horizon⟩

theorem ResetKept.foldl_mem {α : Type} {f : State → α → State} (xs : List α) (s : State)
    (hf : ∀ s, ∀ x ∈ xs, ResetKept s (f s x)) : ResetKept s (xs.foldl f s) :=
  List.foldlRecOn (motive := fun t => ResetKept s t) xs f (.refl s) fun _ h x hx => h.trans (hf _ x hx)

theorem ResetKept.foldl {α : Type} {f : State → α → State} (hf : ∀ s x, ResetKept s (f s x)) (xs : List α) (s : State) :
    ResetKept s (xs.foldl f s) := .foldl_mem xs s fun s x _ => hf s x

theorem ResetKept.ite {s t u : State} {c : Prop} [Decidable c] (ht : ResetKept s t) (hu : ResetKept s u) :
    ResetKept s (if c then t else u) := by
  split
  · exact ht
  · exact hu

theorem resetKept_of_regs {s t : State} (hr : t.regs = s.regs) (hrst : t.rst = s.rst)
    (hg : t.loft.granaryOnly = s.loft.granaryOnly) : ResetKept s t :=
  ⟨hrst, hg, fld_congr hr _ _, fld_congr hr _ _⟩

theorem resetKept_of_reg {s t : State} (hrst : t.rst = s.rst) (hg : t.loft.granaryOnly = s.loft.granaryOnly)
    (hr : ∀ a ∈ [Reg.RST_STATUS, Reg.MIL_GATE], reg t a = reg s a) : ResetKept s t :=
  ⟨hrst, hg, fld_of_reg (hr _ (by simp)) _, fld_of_reg (hr _ (by simp)) _⟩

theorem resetKept_of_blocks {s t : State} {l : List Nat} (hrst : t.rst = s.rst)
    (hg : t.loft.granaryOnly = s.loft.granaryOnly) (h : BlocksBut s t l) (hl : 7 ∉ l ∧ 12 ∉ l) : ResetKept s t :=
  ⟨hrst, hg, h.fld hl.2 _, h.fld hl.1 _⟩

theorem resetKept_setReg (s : State) {a : Nat} (v : Word) (h : a ∉ [Reg.RST_STATUS, Reg.MIL_GATE]) :
    ResetKept s (setReg s a v) :=
  resetKept_of_reg rfl rfl fun _ hb => reg_setReg_ne s v fun heq => h (heq ▸ hb)

theorem resetKept_setRegN (s : State) {a : Nat} (v : Nat) (h : a ∉ [Reg.RST_STATUS, Reg.MIL_GATE]) :
    ResetKept s (setRegN s a v) := resetKept_setReg s _ h

theorem resetKept_setFld (s : State) {a : Nat} (f : Fld) (v : Nat) (h : a ∉ [Reg.RST_STATUS, Reg.MIL_GATE]) :
    ResetKept s (setFld s a f v) := resetKept_setReg s _ h

theorem resetKept_raise (s : State) {a : Nat} (m : Nat) (h : a ∉ [Reg.RST_STATUS, Reg.MIL_GATE]) :
    ResetKept s (raise s a m) := resetKept_setReg s _ h

theorem resetKept_bump (s : State) {a : Nat} (n : Nat) (h : a ∉ [Reg.RST_STATUS, Reg.MIL_GATE]) :
    ResetKept s (bump s a n) := resetKept_setReg s _ h

/-- What a state of the Loft changes beside its allocation. -/
theorem resetKept_mapLoft (s : State) {g : LoftSt → LoftSt} (h : (g s.loft).granaryOnly = s.loft.granaryOnly) :
    ResetKept s (mapLoft s g) := resetKept_of_regs rfl rfl h

/-! ## The end of a job -/

theorem complete_resetKept (s : State) (h : Nat) (e : Compl) : ResetKept s (complete s h e) := by
  have hform := (complete_completes s h e).form
  exact resetKept_of_blocks (by rw [hform]) (by rw [hform])
    (complete_blocks s h e) (by decide)

theorem stopFrame_resetKept {b : Nat} {s t : State} (h : StopFrame b s t) (hb : b < 68) : ResetKept s t := by
  refine resetKept_of_reg (by rw [h.form]) (by rw [h.form]) fun a ha => ?_
  refine h.regs a ?_
  simp only [List.mem_cons, List.not_mem_nil, or_false] at ha ⊢
  rcases ha with rfl | rfl
  · simp only [Reg.RST_STATUS, Reg.BGH_STATUS, Reg.BGH_INTSTAT]
    omega
  · simp only [Reg.MIL_GATE, Reg.BGH_STATUS, Reg.BGH_INTSTAT]
    omega

theorem stopEngines_reg (s : State) {a : Nat} (h : a ≠ Reg.MIL_STATUS ∧ a ≠ Reg.WAN_STATUS ∧ a ≠ Reg.MIL_BSTAT) :
    reg (stopEngines s) a = reg s a := by
  obtain ⟨h1, h2, h3⟩ := h
  unfold stopEngines syncBstat
  rw [reg_setRegN_ne _ _ h3.symm, reg_setRegN_ne _ _ h2.symm, reg_setReg_ne _ _ h1.symm]
  rfl

theorem dropJob_resetKept (s : State) : ResetKept s (dropJob s) := by
  have hclosed : ResetKept s { s with host := { s.host with job := none }
                                      loft := { s.loft with rounds := s.loft.rounds.filter fun x => !x.2.closing } } :=
    resetKept_of_regs rfl rfl rfl
  unfold dropJob
  dsimp only
  generalize { s with host := { s.host with job := none }
                      loft := { s.loft with rounds := s.loft.rounds.filter fun x => !x.2.closing } } = u at hclosed ⊢
  have hform := (stopEngines_jobFrame u).form
  have hstop : ResetKept u (stopEngines u) := by
    refine resetKept_of_reg (by rw [hform]) (by rw [hform]) fun a ha => ?_
    simp only [List.mem_cons, List.not_mem_nil, or_false] at ha
    rcases ha with rfl | rfl
    · exact stopEngines_reg u (by decide)
    · exact stopEngines_reg u (by decide)
  have hshown := ((hclosed.trans hstop).trans (resetKept_setFld _ Fld.HST_STATUS_JOB 0 (a := Reg.HST_STATUS) (by decide))).trans
    (resetKept_setFld _ Fld.FRM_STATUS_CLASS 0 (a := Reg.FRM_STATUS) (by decide))
  generalize setFld (setFld (stopEngines u) Reg.HST_STATUS Fld.HST_STATUS_JOB 0) Reg.FRM_STATUS Fld.FRM_STATUS_CLASS 0 = v
    at hshown ⊢
  refine .ite (hshown.trans ⟨rfl, rfl, ?_, ?_⟩) hshown
  · exact fld_setFld_ne _ _ _ _ _ (by decide) (by decide) (by decide) (by decide)
  · exact fld_of_reg (reg_setFld_ne _ _ _ (by decide)) _

theorem jobStopCheck_resetKept (s : State) : ResetKept s (jobStopCheck s) := by
  unfold jobStopCheck
  split
  · exact .refl s
  · exact .ite (((dropJob_resetKept s).trans (complete_resetKept _ _ _)).trans
      (.foldl (fun _ _ => complete_resetKept _ _ _) _ _)) (.refl s)

theorem preemptAll_resetKept (s : State) : ResetKept s (preemptAll s) :=
  .foldl_mem _ s fun u b hb => stopFrame_resetKept (preempt_frame u b) (presented_lt hb)

theorem resetKept_host (s : State) (h : HostSt) : ResetKept s { s with host := h } := resetKept_of_regs rfl rfl rfl

theorem endJob_resetKept (s : State) (st d : Nat) : ResetKept s (endJob s st d) := by
  unfold endJob
  split
  · exact .refl s
  · exact ((resetKept_host s _).trans (preemptAll_resetKept _)).trans (jobStopCheck_resetKept _)

theorem raiseBlight_resetKept (s : State) (src : Nat) : ResetKept s (raiseBlight s src) := by
  have hform := raiseBlight_regsAndSteps s src
  refine resetKept_of_reg (by rw [hform]) (by rw [hform]) fun a ha => ?_
  refine raiseBlight_regs s src a fun hb => ?_
  revert a
  decide

theorem blightStep_resetKept (s : State) (start src : Nat) : ResetKept s (blightStep s start src) := by
  have hform : RegsAndSteps s (blightStep s start src) :=
    ((show RegsAndSteps s (reportBlight s src) from rfl).trans (regsAndSteps_step _ _)).trans
      ((syncDry_regsAndSteps _).trans (syncBstat_regsAndSteps _))
  refine resetKept_of_reg (by rw [hform]) (by rw [hform]) fun a ha => ?_
  refine blightStep_regs s start src a fun hb => ?_
  revert a
  decide

/-! ## Codewords read -/

theorem record_resetKept (s : State) (r : Rec) : ResetKept s (record s r) :=
  resetKept_of_blocks (regsOnly_record s r).rst (congrArg LoftSt.granaryOnly (regsOnly_record s r).loft) (record_blocks s r)
    (by decide)

theorem countHour_resetKept (s : State) (cls a : Nat) : ResetKept s (countHour s cls a) := by
  unfold countHour
  dsimp only
  exact .ite (resetKept_of_regs rfl rfl rfl) (.ite (resetKept_of_regs rfl rfl rfl) (.refl s))

theorem setCw_resetKept (s : State) (k : Nat) (e : CwErr) : ResetKept s (setCw s k e) := resetKept_of_regs rfl rfl rfl
theorem note_resetKept (s : State) (n : ErrNote) : ResetKept s (note s n) := resetKept_of_regs rfl rfl rfl
theorem poke_resetKept (s : State) (a : Nat) (bs : List Byte) : ResetKept s (poke s a bs) := resetKept_of_regs rfl rfl rfl
theorem resetKept_ecc (s : State) (x : EccSt) : ResetKept s { s with ecc := x } := resetKept_of_regs rfl rfl rfl

theorem corrReg_kept (cls : Nat) : corrReg cls ∉ [Reg.RST_STATUS, Reg.MIL_GATE] := by
  unfold corrReg
  split <;> decide

theorem uncReg_kept (cls : Nat) : uncReg cls ∉ [Reg.RST_STATUS, Reg.MIL_GATE] := by
  unfold uncReg
  split <;> decide

theorem takeCorrected_resetKept (s : State) (k : Nat) (e : CwErr) : ResetKept s (takeCorrected s k e) := by
  have hcount : ResetKept s (note (countHour (bump s (corrReg (k % 4)) 1) (k % 4) (k / 4))
      { cls := k % 4, addr := k / 4, uncorr := false, lpar := false, pos := e.pos }) :=
    ((resetKept_bump s _ (corrReg_kept _)).trans (countHour_resetKept _ _ _)).trans (note_resetKept _ _)
  unfold takeCorrected
  dsimp only
  have hlogged {t : State} (r : Rec) {c : Prop} [Decidable c] (ht : ResetKept s t) : ResetKept s (if c then record t r else t) :=
    .ite (ht.trans (record_resetKept t r)) ht
  exact .ite ((hlogged _ hcount).trans (setCw_resetKept _ _ _)) ((hlogged _ hcount).trans (setCw_resetKept _ _ _))

theorem takeUncorr_resetKept (s : State) (cls a : Nat) (e : CwErr) (l : Bool) : ResetKept s (takeUncorr s cls a e l) := by
  have hcount := (resetKept_bump s 1 (uncReg_kept cls)).trans
    (resetKept_raise _ Fld.INT_INTSTAT_UNCORR.bit (a := Reg.INT_INTSTAT) (by decide))
  unfold takeUncorr
  dsimp only
  exact (hcount.trans (.ite (resetKept_raise _ _ (by decide)) (.refl _))).trans (note_resetKept _ _)

theorem takeWrong_resetKept (s : State) (k : Nat) : ResetKept s (takeWrong s k) := by
  have hstale (a n : Nat) : ResetKept s (keepStale s a n) := resetKept_of_regs rfl rfl rfl
  have hflip (u : State) (q d : Nat) : ResetKept u (lparFlip u q d) := resetKept_of_regs rfl rfl rfl
  have hfree (u : State) (n : Nat) : ResetKept u { u with free := n } := resetKept_of_regs rfl rfl rfl
  have hmade {u : State} (h : ResetKept s u) (a n : Nat) (bs : List Byte) (e : CwErr) :
      ResetKept s { setCw (poke u a bs) k e with free := n } :=
    ((h.trans (poke_resetKept u a bs)).trans (setCw_resetKept _ k e)).trans (hfree _ n)
  have hkept : ResetKept s (if k % 4 = 1 && isObj (k / 4) then keepStale s (k / 4) 16 else s) := .ite (hstale _ _) (.refl s)
  unfold takeWrong
  dsimp only
  exact .ite ((hmade hkept _ _ _ _).trans (hflip _ _ _)) (hmade hkept _ _ _ _)

theorem readCw_resetKept (s : State) (k : Nat) (e : CwErr) : ResetKept s (readCw s k e).1 := by
  simp only [readCw_eq]
  cases foundOf s k e with
  | clean => exact .refl s
  | corrected => exact takeCorrected_resetKept s k e
  | uncorr => exact takeUncorr_resetKept s _ _ e _
  | miscorr => exact (takeCorrected_resetKept s k _).trans (takeWrong_resetKept _ k)
  | silent => exact takeWrong_resetKept s k

theorem readEvery_resetKept (l : List (Nat × CwErr)) (s : State) : ResetKept s (readEvery s l).1 := by
  induction l generalizing s with
  | nil => exact .refl s
  | cons x l ih => exact (readCw_resetKept s x.1 x.2).trans (ih _)

/-! ## Lines written back -/

theorem applyFlips_resetKept (s : State) (cls a n : Nat) : ResetKept s (applyFlips s cls a n) := by
  have h := applyFlips_frame s cls a n
  refine resetKept_of_reg (by rw [h.form]) (by rw [h.form]) fun b hb => ?_
  refine h.regs b fun hc => ?_
  revert b
  decide

theorem writeBackSector_resetKept (l : Nat) (s : State) (j : Nat) : ResetKept s (writeBackSector l s j) := by
  have hread := readEvery_resetKept (cwIn s 1 (4096 * l + 512 * j) 512) s
  unfold writeBackSector
  dsimp only
  generalize readEvery s (cwIn s 1 (4096 * l + 512 * j) 512) = r at hread ⊢
  obtain ⟨t, bad⟩ := r
  generalize (lparIn t (4096 * l + 512 * j) 512).isSome = wrong
  dsimp only at hread ⊢
  have hmade (st : List (Nat × Byte)) : ResetKept s (clearCws (mapLoft
      (if wrong then takeUncorr t 1 (4096 * l + 512 * j) {} true else t) fun lo => { lo with stale := st })
      2 (4096 * l + 512 * j) 512) :=
    ((hread.trans (.ite (takeUncorr_resetKept _ _ _ _ _) (.refl t))).trans (resetKept_mapLoft _ rfl)).trans (resetKept_ecc _ _)
  have hgone (u : State) (ks : List Nat) : ResetKept u (ks.foldl (fun s k => setCw s k { lost := true }) u) :=
    .foldl (fun v k => setCw_resetKept v k _) ks u
  have htold {u : State} (h : ResetKept s u) (r : Rec) :
      ResetKept s (record (if stepOpen u then raiseBlight u srcUncorr else u) r) :=
    (h.trans (.ite (raiseBlight_resetKept _ _) (.refl u))).trans (record_resetKept _ r)
  exact .ite ((hmade _).trans (applyFlips_resetKept _ _ _ _))
    (.ite (htold ((hmade _).trans (hgone _ _)) _) ((htold ((hmade _).trans (hgone _ _)) _).trans (endJob_resetKept _ _ _)))

theorem writeBack_resetKept (s : State) (l : Nat) : ResetKept s (writeBack s l) := by
  unfold writeBack
  split
  · exact .refl s
  · exact (ResetKept.foldl (writeBackSector_resetKept l) _ s).trans (resetKept_mapLoft _ rfl)

theorem freeLine_resetKept (s : State) (l : Nat) : ResetKept s (freeLine s l) := by
  have hcodes : ResetKept (writeBack s l) (dropLoftCodes (writeBack s l) l) := resetKept_ecc _ _
  exact ((writeBack_resetKept s l).trans hcodes).trans
    (resetKept_mapLoft (g := fun lo => { lo with lines := kdel l lo.lines }) _ rfl)

/-! ## Objects demoted -/

theorem setObj_resetKept (s : State) (j off n v : Nat) : ResetKept s (setObj s j off n v) := poke_resetKept s _ _

theorem setObjSt_resetKept (s : State) (j : Nat) (x : ObjSt) : ResetKept s (setObjSt s j x) := resetKept_mapLoft s rfl

theorem countObj_resetKept (s : State) (op status : Nat) : ResetKept s (countObj s op status) := by
  unfold countObj
  exact .ite (.ite (resetKept_bump s _ (by decide)) (.refl s)) (.ite ((resetKept_bump s _ (by decide)).trans
    (resetKept_raise _ _ (by decide))) (.ite (.refl s) ((resetKept_bump s _ (by decide)).trans (resetKept_raise _ _ (by decide)))))

theorem opClosed_resetKept (s : State) (j : Nat) (o : ObjOp) (status : Nat) : ResetKept s (opClosed s j o status) := by
  have hrec : ResetKept s (recordEnd s j o status) := by
    rw [recordEnd_form]
    exact resetKept_of_regs rfl rfl rfl
  have hsig (u : State) : ResetKept u (sendField u o.rsig) := by
    rw [sendField_form]
    exact resetKept_of_regs rfl rfl rfl
  have hcart (u : State) : ResetKept u (cartEnd u o) := by
    unfold cartEnd
    split
    · exact resetKept_of_regs rfl rfl rfl
    · exact .refl u
  have hhandle (u : State) : ResetKept u (handleEnd u j o status) := by
    unfold handleEnd
    split
    · exact complete_resetKept u _ _
    · exact .refl u
  exact ((hrec.trans (hsig _)).trans (hcart _)).trans (hhandle _)

theorem endOp_resetKept (s : State) (j : Nat) {o : ObjOp} {status : Nat} (h : o.op ≠ 6 ∨ status ≠ osDone) :
    ResetKept s (endOp s j o status) := by
  rw [endOp_plain s j h]
  exact (countObj_resetKept s _ _).trans (opClosed_resetKept _ j o status)

theorem owner_kept (s : State) (j : Nat) : Reg.LFT_CHARGE (objAt s j).owner ∉ [Reg.RST_STATUS, Reg.MIL_GATE] := by
  have hlt : (objAt s j).owner < 256 := (leNat_lt _).trans_le (Nat.pow_le_pow_right (by decide) (List.length_take_le 1 _))
  simp only [Reg.LFT_CHARGE, Reg.RST_STATUS, Reg.MIL_GATE, List.mem_cons, List.not_mem_nil, or_false]
  omega

theorem freeObj_resetKept (s : State) (j : Nat) : ResetKept s (freeObj s j) := by
  unfold freeObj freeObjLines
  dsimp only
  have hfreed (ls : List (Nat × LineSt)) : ResetKept s (ls.foldl (fun u x => freeLine u x.1) s) :=
    .foldl (fun u x => freeLine_resetKept u x.1) ls s
  have hcharge (u : State) (n : Nat) : ResetKept u (subCharge u (objAt s j).owner n) :=
    (resetKept_setFld u _ _ (owner_kept s j)).trans (resetKept_setFld _ _ _ (by decide))
  exact (((hfreed _).trans (hcharge _ _)).trans (setObj_resetKept _ _ _ _ _)).trans (setObj_resetKept _ _ _ _ _)

theorem endCurrent_resetKept (s : State) (j : Nat) {status : Nat} (h : status ≠ osDone) :
    ResetKept s (endCurrent s j status) := by
  unfold endCurrent
  split
  · exact .refl s
  · exact (setObjSt_resetKept s j _).trans (endOp_resetKept _ j (.inr h))

theorem opDemote_resetKept (s : State) (j : Nat) {o : ObjOp} (h : o.op ≠ 6) : ResetKept s (opDemote s j o) := by
  have hcancel : ResetKept s (freeObj (setPinned (endCurrent s j osCancelled) j 0) j) :=
    ((endCurrent_resetKept s j (by decide)).trans (setObj_resetKept _ _ _ _ _)).trans (freeObj_resetKept _ j)
  have hpin : ResetKept s (setPinned s j 0) := setObj_resetKept s _ _ _ _
  unfold opDemote cancelWith startDemotion
  dsimp only
  exact .ite (.ite (hcancel.trans (endOp_resetKept _ j (.inl h))) (hcancel.trans (setObjSt_resetKept _ _ _)))
    (.ite (hpin.trans (endOp_resetKept _ j (.inl h)))
      ((hpin.trans (setObj_resetKept _ _ _ _ _)).trans (setObjSt_resetKept _ _ _)))

theorem deviceDemote_resetKept (s : State) (j : Nat) : ResetKept s (deviceDemote s j) := by
  unfold deviceDemote
  dsimp only
  exact .ite (setObjSt_resetKept s j _) (opDemote_resetKept s j (by decide))

theorem emptyLoft_resetKept (s : State) : ResetKept s (emptyLoft s) := by
  unfold emptyLoft
  dsimp only
  have hfreed (u : State) (ls : List (Nat × LineSt)) : ResetKept u (ls.foldl (fun u x => freeLine u x.1) u) :=
    .foldl (fun u x => freeLine_resetKept u x.1) ls u
  exact (ResetKept.foldl deviceDemote_resetKept _ s).trans (hfreed _ _)

/-! ## Carts cut -/

theorem endCart_resetKept (s : State) (id : Nat) : ResetKept s (endCart s id) := by
  have h := endCart_cartsOnly s id
  exact resetKept_of_regs (by rw [h]) (by rw [h]) (by rw [h])

theorem cutCarts_resetKept (s : State) : ResetKept s (cutCarts s) :=
  (ResetKept.foldl (fun u (x : Nat × CartSt) => endCart_resetKept u x.1) s.carts s).trans
    (.foldl (fun _ _ => complete_resetKept _ _ _) _ _)

end Sys2Proof.Machine
end

section
/-! PROOF. The end of a partial reset, and the Root sub-reset (R535, R536). -/

namespace Sys2Proof.Machine

/-! ## The request at the head -/

theorem partHead_some {s : State} {kind : Nat} {p : PartReq} (h : partHead s kind = some p) :
    s.rst.parts = p :: s.rst.parts.tail ∧ p.kind = kind := by
  rw [partHead, Option.filter_eq_some_iff, List.head?_eq_some_iff] at h
  obtain ⟨⟨tail, hparts⟩, hkind⟩ := h
  rw [hparts]
  exact ⟨rfl, of_decide_eq_true hkind⟩

theorem setHead_form (s : State) (f : PartReq → PartReq) : setHead s f = { s with rst := (setHead s f).rst } := rfl

theorem setHead_parts {s : State} {p : PartReq} {tail : List PartReq} (h : s.rst.parts = p :: tail) (f : PartReq → PartReq) :
    (setHead s f).rst.parts = f p :: tail := by
  unfold setHead mapRst
  dsimp only
  rw [h]

/-! ## The end of a partial reset (R551) -/

/-- RST_PARTSTAT shows a partial reset that is over. -/
def partShown (s : State) (p : PartReq) (result : Nat) : State :=
  raise (setFld (setFld (setFld s Reg.RST_PARTSTAT Fld.RST_PARTSTAT_KIND p.kind) Reg.RST_PARTSTAT Fld.RST_PARTSTAT_TARGET p.target)
    Reg.RST_PARTSTAT Fld.RST_PARTSTAT_RESULT result) Reg.RST_INTSTAT
    (if result = 0 then Fld.RST_INTSTAT_PARTDONE.bit else Fld.RST_INTSTAT_PARTREF.bit)

/-- The request is over, and its command completes. -/
def partClosed (s : State) (p : PartReq) : State :=
  match p.handle with
  | some h => complete (mapRst s fun r => { r with parts := r.parts.tail }) h { status := 0 }
  | none => mapRst s fun r => { r with parts := r.parts.tail }

theorem endPart_eq (s : State) (p : PartReq) (result : Nat) : endPart s p result = partClosed (partShown s p result) p := rfl

/-- Nothing but registers, the host's part and the requests differ. -/
structure PartOver (s t : State) : Prop where
  form : t = { s with regs := t.regs, host := t.host, rst := { s.rst with parts := s.rst.parts.tail } }
  regs : ∀ a, a / 2 ^ 24 ≠ 0 → a / 2 ^ 24 ≠ 1 → a ≠ Reg.RST_PARTSTAT → a ≠ Reg.RST_INTSTAT → reg t a = reg s a

section
variable {s t : State} (h : PartOver s t)
include h

theorem PartOver.memSame : MemSame s t := by rw [h.form]; exact ⟨rfl, rfl⟩
theorem PartOver.boughs : t.boughs = s.boughs := by rw [h.form]
theorem PartOver.loft : t.loft = s.loft := by rw [h.form]
theorem PartOver.ecc : t.ecc = s.ecc := by rw [h.form]
theorem PartOver.fab : t.fab = s.fab := by rw [h.form]
theorem PartOver.parts : t.rst.parts = s.rst.parts.tail := by rw [h.form]

end

theorem regsOnly_partShown (s : State) (p : PartReq) (result : Nat) : RegsOnly s (partShown s p result) :=
  (((regsOnly_setFld s _ _ _).trans (regsOnly_setFld _ _ _ _)).trans (regsOnly_setFld _ _ _ _)).trans (regsOnly_raise _ _ _)

theorem partShown_reg (s : State) (p : PartReq) (result : Nat) {a : Nat} (h : a ≠ Reg.RST_PARTSTAT) (h' : a ≠ Reg.RST_INTSTAT) :
    reg (partShown s p result) a = reg s a := by
  rw [partShown, reg_raise_ne _ _ h'.symm, reg_setFld_ne _ _ _ h.symm, reg_setFld_ne _ _ _ h.symm, reg_setFld_ne _ _ _ h.symm]

theorem partShown_shows (s : State) (p : PartReq) {result : Nat} (hk : p.kind < 16) (hr : result < 16) :
    fld (partShown s p result) Reg.RST_PARTSTAT Fld.RST_PARTSTAT_KIND = p.kind
      ∧ fld (partShown s p result) Reg.RST_PARTSTAT Fld.RST_PARTSTAT_TARGET = p.target % 256
      ∧ fld (partShown s p result) Reg.RST_PARTSTAT Fld.RST_PARTSTAT_RESULT = result
      ∧ fld (partShown s p result) Reg.RST_INTSTAT
          (if result = 0 then Fld.RST_INTSTAT_PARTDONE else Fld.RST_INTSTAT_PARTREF) = 1 := by
  have hstat {a : Nat} (ha : Reg.RST_INTSTAT ≠ a) := fld_of_reg (reg_raise_ne (setFld (setFld (setFld s Reg.RST_PARTSTAT
    Fld.RST_PARTSTAT_KIND p.kind) Reg.RST_PARTSTAT Fld.RST_PARTSTAT_TARGET p.target) Reg.RST_PARTSTAT
    Fld.RST_PARTSTAT_RESULT result) (if result = 0 then Fld.RST_INTSTAT_PARTDONE.bit else Fld.RST_INTSTAT_PARTREF.bit) ha)
  refine ⟨?_, ?_, ?_, ?_⟩
  · refine (hstat (by decide) _).trans ?_
    rw [fld_setFld_ne _ _ _ _ _ (by decide) (by decide) (by decide) (by decide),
      fld_setFld_ne _ _ _ _ _ (by decide) (by decide) (by decide) (by decide), fld_setFld _ _ _ _ (by decide) (by decide)]
    exact Nat.mod_eq_of_lt hk
  · refine (hstat (by decide) _).trans ?_
    rw [fld_setFld_ne _ _ _ _ _ (by decide) (by decide) (by decide) (by decide), fld_setFld _ _ _ _ (by decide) (by decide)]
    rfl
  · refine (hstat (by decide) _).trans ?_
    rw [fld_setFld _ _ _ _ (by decide) (by decide)]
    exact Nat.mod_eq_of_lt hr
  · unfold partShown
    split
    · exact fld_raise _ _ 1 (by decide)
    · exact fld_raise _ _ 2 (by decide)

theorem partClosed_over (s : State) (p : PartReq) : PartOver s (partClosed s p)
    ∧ (∀ a, a / 2 ^ 24 ≠ 0 → a / 2 ^ 24 ≠ 1 → reg (partClosed s p) a = reg s a)
    ∧ ∀ h, p.handle = some h → findCmd (partClosed s p) h = none := by
  have htail : PartOver s (mapRst s fun r => { r with parts := r.parts.tail }) := ⟨rfl, fun _ _ _ _ _ => rfl⟩
  have hreg (a : Nat) : reg (mapRst s fun r => { r with parts := r.parts.tail }) a = reg s a := rfl
  unfold partClosed
  generalize mapRst s (fun r => { r with parts := r.parts.tail }) = u at htail hreg ⊢
  cases p.handle with
  | none => exact ⟨htail, fun a _ _ => hreg a, nofun⟩
  | some h =>
    have hblocks := complete_blocks u h { status := 0 }
    have hform := (complete_completes u h { status := 0 }).form
    have hgone := findCmd_complete u h { status := 0 }
    dsimp only
    generalize complete u h { status := 0 } = v at hblocks hform hgone ⊢
    have hkept (a : Nat) (h0 : a / 2 ^ 24 ≠ 0) (h1 : a / 2 ^ 24 ≠ 1) : reg v a = reg s a :=
      (hblocks a (by simp only [List.mem_cons, List.not_mem_nil, or_false, not_or]; exact ⟨h0, h1⟩)).trans (hreg a)
    refine ⟨⟨?_, fun a h0 h1 _ _ => hkept a h0 h1⟩, hkept, fun _ heq => ?_⟩
    · rw [hform, htail.form]
    · rw [← Option.some.inj heq]
      exact hgone

/-- How a partial reset that ends leaves the state. -/
theorem endPart_over (s : State) (p : PartReq) {result : Nat} (hk : p.kind < 16) (hr : result < 16) :
    PartOver s (endPart s p result) ∧ Statements.PartEnded s (endPart s p result) p result := by
  obtain ⟨hkind, htarget, hresult, hevent⟩ := partShown_shows s p hk hr
  have hform := regsOnly_partShown s p result
  have hreg {a : Nat} (h : a ≠ Reg.RST_PARTSTAT) (h' : a ≠ Reg.RST_INTSTAT) := partShown_reg s p result h h'
  rw [endPart_eq]
  generalize partShown s p result = u at hkind htarget hresult hevent hform hreg ⊢
  obtain ⟨hover, hkept, hgone⟩ := partClosed_over u p
  have hparts := hover.parts.trans (by rw [hform.rst])
  have hstat := fld_of_reg (hkept Reg.RST_PARTSTAT (by decide) (by decide))
  have hint := fld_of_reg (hkept Reg.RST_INTSTAT (by decide) (by decide))
  refine ⟨⟨?_, fun a h0 h1 h2 h3 => (hkept a h0 h1).trans (hreg h2 h3)⟩, hparts, (hstat _).trans hkind,
    (hstat _).trans htarget, (hstat _).trans hresult, (hint _).trans hevent, hgone⟩
  rw [hover.form, hform]

/-- What the end says depends on the requests, the registers and the commands alone. -/
theorem partEnded_congr {s s' t t' : State} {p : PartReq} {result : Nat} (h : Statements.PartEnded s t p result)
    (hs : s'.rst.parts.tail = s.rst.parts.tail) (hr : t'.regs = t.regs) (hrst : t'.rst = t.rst) (hh : t'.host = t.host) :
    Statements.PartEnded s' t' p result := by
  obtain ⟨hparts, hkind, htarget, hresult, hevent, hgone⟩ := h
  refine ⟨?_, (fld_congr hr _ _).trans hkind, (fld_congr hr _ _).trans htarget, (fld_congr hr _ _).trans hresult,
    (fld_congr hr _ _).trans hevent, fun k hk => ?_⟩
  · rw [hrst, hparts, hs]
  · rw [findCmd, hh]
    exact hgone k hk

theorem partEnded_ended {s s' t : State} {p : PartReq} {result : Nat} (s0 : State) (h : Statements.PartEnded s t p result)
    (hs : s'.rst.parts.tail = s.rst.parts.tail) : Statements.PartEnded s' (ended s0 t) p result :=
  partEnded_congr h hs rfl rfl rfl

theorem partEnded_tickEnded {s s' t : State} {p : PartReq} {result : Nat} (s0 : State)
    (h : Statements.PartEnded s t p result) (hs : s'.rst.parts.tail = s.rst.parts.tail) :
    Statements.PartEnded s' (tickEnded s0 t) p result := partEnded_congr h hs rfl rfl rfl

/-! ## The Root sub-reset (R536) -/

/-- The request is taken, and the device leaves for Quiesce. -/
def quiesceBegun (s : State) : State :=
  let s := setHead s fun p => { p with stage := 1 }
  if rstState s = stFallow then s else setRst s stQuiesce

/-- The loaded job is to end with 13. -/
def jobCut (s : State) : State :=
  mapHost s fun h => { h with
    job := s.host.job.map fun j => if j.ending.isNone then { j with ending := some (13, 0) } else j }

/-- No list is walked. -/
def walksStopped (s : State) : State :=
  { s with mill := { s.mill with walking := false }, wain := { s.wain with walking := false } }

theorem rootSubreset_eq {s : State} {p : PartReq} (h : partHead s pkRoot = some p) (hst : p.stage = 0) :
    rootSubreset s = quiesced (walksStopped (blightAll (preemptAll (jobCut (quiesceBegun s))))) := by
  unfold rootSubreset
  rw [h]
  exact if_neg (not_not.2 hst)

/-- From `s` to `t` presented boughs have been pre-empted and steps marked. -/
structure Quieted (s t : State) : Prop where
  rst : t.rst = s.rst
  carts : t.carts = s.carts
  mem : MemSame s t
  state : rstState t = rstState s

theorem Quieted.refl (s : State) : Quieted s s := ⟨rfl, rfl, ⟨rfl, rfl⟩, rfl⟩

theorem Quieted.trans {s t u : State} (h : Quieted s t) (h' : Quieted t u) : Quieted s u :=
  ⟨h'.rst.trans h.rst, h'.carts.trans h.carts, h.mem.trans h'.mem, h'.state.trans h.state⟩

theorem Quieted.foldl_mem {α : Type} {f : State → α → State} (xs : List α) (s : State)
    (hf : ∀ s, ∀ x ∈ xs, Quieted s (f s x)) : Quieted s (xs.foldl f s) :=
  List.foldlRecOn (motive := fun t => Quieted s t) xs f (.refl s) fun _ h x hx => h.trans (hf _ x hx)

theorem preempt_quieted (s : State) {b : Nat} (hb : b < 68) : Quieted s (preempt s b) := by
  have h := preempt_frame s b
  refine ⟨by rw [h.form], by rw [h.form], h.memSame, fld_of_reg (h.regs _ ?_) _⟩
  simp only [List.mem_cons, List.not_mem_nil, or_false, Reg.RST_STATUS, Reg.BGH_STATUS, Reg.BGH_INTSTAT]
  omega

theorem blightStep_quieted (s : State) (start src : Nat) : Quieted s (blightStep s start src) := by
  have h : RegsAndSteps s (blightStep s start src) :=
    ((show RegsAndSteps s (reportBlight s src) from rfl).trans (regsAndSteps_step _ _)).trans
      ((syncDry_regsAndSteps _).trans (syncBstat_regsAndSteps _))
  exact ⟨by rw [h], by rw [h], h.memSame, fld_of_reg (blightStep_regs s start src _ (by decide)) _⟩

theorem preemptAll_quieted (s : State) : Quieted s (preemptAll s) :=
  .foldl_mem _ s fun u _ hb => preempt_quieted u (presented_lt hb)

theorem blightAll_quieted (s : State) : Quieted s (blightAll s) :=
  .foldl_mem _ s fun u x _ => blightStep_quieted u x.start srcRuntime

theorem blightAll_bough (s : State) (b : Nat) : bough (blightAll s) b = bough s b :=
  List.foldlRecOn (motive := fun t => bough t b = bough s b) _ _ rfl fun t h x _ => by
    have hform : RegsAndSteps t (blightStep t x.start srcRuntime) :=
      ((show RegsAndSteps t (reportBlight t srcRuntime) from rfl).trans (regsAndSteps_step _ _)).trans
        ((syncDry_regsAndSteps _).trans (syncBstat_regsAndSteps _))
    exact (hform.bough b).trans h

/-- The device as the Root sub-reset quiesces it. -/
def quieting (s : State) : State := walksStopped (blightAll (preemptAll (jobCut (quiesceBegun s))))

theorem quiesceBegun_shows {s : State} {p : PartReq} (hp : s.rst.parts = p :: s.rst.parts.tail) :
    rstState (quiesceBegun s) = (if rstState s = stFallow then stFallow else stQuiesce)
      ∧ (quiesceBegun s).rst.parts = { p with stage := 1 } :: s.rst.parts.tail ∧ (quiesceBegun s).carts = s.carts
      ∧ MemSame s (quiesceBegun s) ∧ presented (quiesceBegun s) = presented s := by
  have hhead := setHead_parts hp fun p => { p with stage := 1 }
  have hstate : rstState (setHead s fun p => { p with stage := 1 }) = rstState s := rfl
  have hcarts : (setHead s fun p => { p with stage := 1 }).carts = s.carts := rfl
  have hmem : MemSame s (setHead s fun p => { p with stage := 1 }) := ⟨rfl, rfl⟩
  have hpres : presented (setHead s fun p => { p with stage := 1 }) = presented s := presented_of_reg fun _ _ => rfl
  unfold quiesceBegun
  dsimp only
  generalize setHead s (fun p => { p with stage := 1 }) = u at hhead hstate hcarts hmem hpres ⊢
  rw [hstate]
  split
  · next h => exact ⟨hstate.trans h, hhead, hcarts, hmem, hpres⟩
  · have hform := regsOnly_setFld u Reg.RST_STATUS Fld.RST_STATUS_STATE stQuiesce
    refine ⟨fld_setFld _ _ _ _ (by decide) (by decide), ?_, ?_, hmem.trans hform.memSame, ?_⟩
    · rw [← hhead]
      exact congrArg RstSt.parts hform.rst
    · rw [← hcarts, setRst, hform]
    · rw [← hpres]
      refine presented_of_reg fun n hn => reg_setFld_ne _ _ _ ?_
      simp only [Reg.RST_STATUS, Reg.BGH_PMAP]
      omega

theorem quieting_shows {s : State} {p : PartReq} (hp : s.rst.parts = p :: s.rst.parts.tail) :
    rstState (quieting s) = (if rstState s = stFallow then stFallow else stQuiesce)
      ∧ (quieting s).rst.parts = { p with stage := 1 } :: s.rst.parts.tail
      ∧ (∀ b ∈ presented s, (bough (quieting s) b).halted = true) ∧ (quieting s).mill.walking = false
      ∧ (quieting s).wain.walking = false ∧ (quieting s).carts = s.carts ∧ MemSame s (quieting s) := by
  obtain ⟨hstate, hparts, hcarts, hmem, hpres⟩ := quiesceBegun_shows hp
  have hcut : Quieted (quiesceBegun s) (jobCut (quiesceBegun s)) := ⟨rfl, rfl, ⟨rfl, rfl⟩, rfl⟩
  have hpres' : presented (jobCut (quiesceBegun s)) = presented s := (presented_of_reg fun _ _ => rfl).trans hpres
  unfold quieting
  generalize jobCut (quiesceBegun s) = u at hcut hpres' ⊢
  have hquiet := (hcut.trans (preemptAll_quieted u)).trans (blightAll_quieted _)
  have hhalted (b : Nat) (hb : b ∈ presented s) : (bough (blightAll (preemptAll u)) b).halted = true := by
    rw [blightAll_bough]
    exact preemptAll_halted (hpres' ▸ hb)
  generalize blightAll (preemptAll u) = v at hquiet hhalted ⊢
  exact ⟨hquiet.state.trans hstate, (congrArg RstSt.parts hquiet.rst).trans hparts, hhalted, rfl, rfl,
    hquiet.carts.trans hcarts, hmem.trans hquiet.mem⟩

theorem quiesced_stays {s : State} (h : ∀ p, partHead s pkRoot = some p → p.stage = 1 → s.carts.isEmpty = false) :
    quiesced s = s := by
  unfold quiesced
  split
  · next p hp =>
    refine if_neg fun hcond => ?_
    rw [Bool.and_eq_true, decide_eq_true_eq] at hcond
    exact Bool.false_ne_true ((h p hp hcond.1).symm.trans hcond.2)
  · rfl

/-! ## The stop -/

/-- The carts are cut, the job ends, and the request waits for the end of the sub-reset. -/
def workCut (s : State) : State := setHead (endJob (cutCarts s) 13 0) fun p => { p with stage := 2 }

/-- The Root, the Mill, the Wain and the stash engine at their reset state. -/
def rootCleared (s : State) : State :=
  { s with
    regs := s.regs.filter fun x => !rootReg x.1
    mill := {}, wain := {}, stash := {}, carts := []
    fab := { s.fab with inb := [], trees := [] }
    step := { s.step with opened := [], next := 0, early := [] } }

/-- MIL_GATE holds HORIZON alone. -/
def gateShown (s : State) (gate : Nat) : State :=
  setFld (setRegN s Reg.MIL_GATE 0) Reg.MIL_GATE Fld.MIL_GATE_HORIZON gate

theorem rootStop_eq (s : State) : rootStop s =
    mapLoft (gateShown (rootCleared (workCut s)) (fld (workCut s) Reg.MIL_GATE Fld.MIL_GATE_HORIZON)) fun lo => { lo with
      returned := [], waiting := [], rounds := lo.rounds.filter fun x => !x.2.diverted } := rfl

/-- What the Root sub-reset clears. -/
structure RootBare (t : State) : Prop where
  carts : t.carts = []
  mill : t.mill = {}
  wain : t.wain = {}
  stash : t.stash = {}
  inb : t.fab.inb = []
  opened : t.step.opened = []
  regs : ∀ a, rootReg a = true → a ≠ Reg.MIL_GATE → reg t a = regReset a

theorem rootCleared_bare (s : State) : RootBare (rootCleared s) := by
  refine ⟨rfl, rfl, rfl, rfl, rfl, rfl, fun a ha _ => ?_⟩
  rw [reg_of_filter (s := s) (fun a => !rootReg a) rfl, if_neg (by simp [ha])]

theorem RootBare.gateShown {s : State} (h : RootBare s) (gate : Nat) : RootBare (gateShown s gate) := by
  have hform : RegsOnly s (Machine.gateShown s gate) := (regsOnly_setRegN s _ _).trans (regsOnly_setFld _ _ _ _)
  have hreg {a : Nat} (ha : a ≠ Reg.MIL_GATE) : reg (Machine.gateShown s gate) a = reg s a := by
    rw [Machine.gateShown, reg_setFld_ne _ _ _ ha.symm, reg_setRegN_ne _ _ ha.symm]
  generalize Machine.gateShown s gate = t at hform hreg ⊢
  obtain ⟨h1, h2, h3, h4, h5, h6, h7⟩ := h
  refine ⟨?_, ?_, ?_, ?_, ?_, ?_, fun a ha hne => (hreg hne).trans (h7 a ha hne)⟩
  all_goals rw [hform]
  · exact h1
  · exact h2
  · exact h3
  · exact h4
  · exact h5
  · exact h6

theorem RootBare.mapLoft {s : State} (h : RootBare s) (g : LoftSt → LoftSt) : RootBare (mapLoft s g) := by
  obtain ⟨h1, h2, h3, h4, h5, h6, h7⟩ := h
  exact ⟨h1, h2, h3, h4, h5, h6, h7⟩

theorem RootBare.ended {t : State} (h : RootBare t) (s : State) : RootBare (ended s t) := by
  obtain ⟨h1, h2, h3, h4, h5, h6, h7⟩ := h
  exact ⟨h1, h2, h3, h4, h5, h6, h7⟩

theorem mapLoft_rst (s : State) (g : LoftSt → LoftSt) : (Machine.mapLoft s g).rst = s.rst := rfl
theorem fld_mapLoft (s : State) (g : LoftSt → LoftSt) (a : Nat) (f : Fld) : fld (Machine.mapLoft s g) a f = fld s a f := rfl

/-- How the stop leaves the state. -/
theorem rootStop_stops {s : State} {p : PartReq} (hp : s.rst.parts = p :: s.rst.parts.tail) : RootBare (rootStop s)
    ∧ (rootStop s).rst.parts = { p with stage := 2 } :: s.rst.parts.tail
    ∧ fld (rootStop s) Reg.MIL_GATE Fld.MIL_GATE_HORIZON = fld s Reg.MIL_GATE Fld.MIL_GATE_HORIZON := by
  have hkept := (cutCarts_resetKept s).trans (endJob_resetKept _ 13 0)
  have hparts : (workCut s).rst.parts = { p with stage := 2 } :: s.rst.parts.tail :=
    setHead_parts ((congrArg RstSt.parts hkept.rst).trans hp) _
  have hgate : fld (workCut s) Reg.MIL_GATE Fld.MIL_GATE_HORIZON = fld s Reg.MIL_GATE Fld.MIL_GATE_HORIZON := hkept.horizon
  rw [rootStop_eq]
  generalize workCut s = u at hparts hgate ⊢
  have hbare := (rootCleared_bare u).gateShown (fld u Reg.MIL_GATE Fld.MIL_GATE_HORIZON)
  have hrst : (gateShown (rootCleared u) (fld u Reg.MIL_GATE Fld.MIL_GATE_HORIZON)).rst = u.rst := rfl
  have hshown : fld (gateShown (rootCleared u) (fld u Reg.MIL_GATE Fld.MIL_GATE_HORIZON)) Reg.MIL_GATE Fld.MIL_GATE_HORIZON
      = fld u Reg.MIL_GATE Fld.MIL_GATE_HORIZON :=
    (fld_setFld _ _ _ _ (by decide) (by decide)).trans (Nat.mod_mod _ _)
  generalize gateShown (rootCleared u) (fld u Reg.MIL_GATE Fld.MIL_GATE_HORIZON) = v at hbare hrst hshown ⊢
  exact ⟨hbare.mapLoft _, (congrArg RstSt.parts ((mapLoft_rst v _).trans hrst)).trans hparts,
    (fld_mapLoft v _ _ _).trans (hshown.trans hgate)⟩

theorem quiesceTimeout_stops {s : State} {p : PartReq} (h : partHead s pkRoot = some p) (hst : p.stage = 1)
    (hf : fld s Reg.RST_QUIESCE Fld.RST_QUIESCE_FRAMES ≤ p.frames) : quiesceTimeout s = rootStop s := by
  unfold quiesceTimeout
  rw [h]
  exact if_pos (by simp [hst, hf])

theorem quiesceTimeout_waits {s : State} {p : PartReq} (h : partHead s pkRoot = some p)
    (hf : p.frames < fld s Reg.RST_QUIESCE Fld.RST_QUIESCE_FRAMES) : quiesceTimeout s = s := by
  unfold quiesceTimeout
  rw [h]
  exact if_neg (by simp [hf])

/-! ## The end of the sub-reset -/

/-- The device leaves Quiesce. -/
def quiesceLeft (s : State) : State :=
  if rstState s = stQuiesce then setRst s (if jobLoaded s then stRunning else stIdle) else s

theorem rootSubresetDone_eq {s : State} {p : PartReq} (h : partHead s pkRoot = some p) (hst : p.stage = 2) :
    rootSubresetDone s = endPart (quiesceLeft s) p 0 := by
  have hstays : quiesced s = s := quiesced_stays fun q hq h1 => by
    rw [h] at hq
    obtain rfl := Option.some.inj hq
    exact absurd h1 (by omega)
  unfold rootSubresetDone
  rw [hstays]
  dsimp only
  rw [h]
  exact if_neg (not_not.2 hst)

theorem quiesceLeft_shows (s : State) : RegsOnly s (quiesceLeft s) ∧ rstState (quiesceLeft s) =
    (if rstState s = stQuiesce then (if jobLoaded s then stRunning else stIdle) else rstState s) := by
  unfold quiesceLeft
  split
  · refine ⟨regsOnly_setFld _ _ _ _, (fld_setFld _ _ _ _ (by decide) (by decide)).trans (Nat.mod_eq_of_lt ?_)⟩
    split <;> decide
  · exact ⟨.refl s, rfl⟩

end Sys2Proof.Machine

namespace Sys2Proof.Settled

open Sys2Proof.Machine

section
variable {s : State} {p : PartReq} (ha : alive s = true) (hp : partHead s pkRoot = some p)
include ha hp

theorem rootSubreset_quiesces (hst : p.stage = 0) (hc : s.carts ≠ []) : Runs .rootSubreset s fun t =>
    rstState t = (if rstState s = stFallow then stFallow else stQuiesce)
      ∧ t.rst.parts = { p with stage := 1 } :: s.rst.parts.tail ∧ (∀ b ∈ presented s, (bough t b).halted = true)
      ∧ t.mill.walking = false ∧ t.wain.walking = false ∧ t.carts = s.carts ∧ MemSame s t := by
  obtain ⟨hparts, -⟩ := partHead_some hp
  obtain ⟨h1, h2, h3, h4, h5, h6, h7⟩ := quieting_shows hparts
  have hstays : quiesced (quieting s) = quieting s := quiesced_stays fun _ _ _ => by
    rw [h6, List.isEmpty_eq_false_iff]
    exact hc
  refine runs_finish (congrArg (finish s) ((rootSubreset_eq hp hst).trans hstays)) ha ?_
  generalize quieting s = v at h1 h2 h3 h4 h5 h6 h7 ⊢
  exact ⟨(ended_fld s v _ _).trans h1, h2, h3, h4, h5, h6, memSame_ended s h7⟩

theorem quiesceTimeout_resets (hst : p.stage = 1) (hf : fld s Reg.RST_QUIESCE Fld.RST_QUIESCE_FRAMES ≤ p.frames) :
    Runs .quiesceTimeout s fun t =>
      t.carts = [] ∧ t.mill = {} ∧ t.wain = {} ∧ t.stash = {} ∧ t.fab.inb = [] ∧ t.step.opened = []
        ∧ t.rst.parts = { p with stage := 2 } :: s.rst.parts.tail
        ∧ fld t Reg.MIL_GATE Fld.MIL_GATE_HORIZON = fld s Reg.MIL_GATE Fld.MIL_GATE_HORIZON
        ∧ ∀ a, rootReg a = true → a ≠ Reg.MIL_GATE → reg t a = regReset a := by
  obtain ⟨hparts, -⟩ := partHead_some hp
  refine runs_finish (congrArg (finish s) (quiesceTimeout_stops hp hst hf)) ha ?_
  obtain ⟨hbare, h8, h9⟩ := rootStop_stops hparts
  generalize rootStop s = v at hbare h8 h9 ⊢
  obtain ⟨h1, h2, h3, h4, h5, h6, h7⟩ := hbare.ended s
  exact ⟨h1, h2, h3, h4, h5, h6, (congrArg RstSt.parts (ended_rst s v)).trans h8, (ended_fld s v _ _).trans h9, h7⟩

theorem quiesceTimeout_stays (hf : p.frames < fld s Reg.RST_QUIESCE Fld.RST_QUIESCE_FRAMES) :
    Runs .quiesceTimeout s fun t => t = { s with msix := t.msix, edge := t.edge } :=
  runs_finish (congrArg (finish s) (quiesceTimeout_waits hp hf)) ha rfl

theorem rootSubreset_ends (hst : p.stage = 2) : Runs .rootSubresetDone s fun t => Statements.PartEnded s t p 0 ∧ MemSame s t
    ∧ rstState t = (if rstState s = stQuiesce then (if jobLoaded s then stRunning else stIdle) else rstState s) := by
  obtain ⟨-, hkind⟩ := partHead_some hp
  obtain ⟨hform, hstate⟩ := quiesceLeft_shows s
  refine runs_finish (congrArg (finish s) (rootSubresetDone_eq hp hst)) ha ?_
  generalize quiesceLeft s = u at hform hstate ⊢
  obtain ⟨hover, hended⟩ := endPart_over u p (result := 0) (by rw [hkind]; decide) (by decide)
  have hreg := hover.regs Reg.RST_STATUS (by decide) (by decide) (by decide) (by decide)
  generalize endPart u p 0 = v at hover hended hreg ⊢
  exact ⟨partEnded_ended s hended (by rw [hform.rst]), memSame_ended s (hform.memSame.trans hover.memSame),
    (ended_fld s v _ _).trans ((fld_of_reg hreg _).trans hstate)⟩

end

/-- Settles O55: the quiesce by what pre-emption and Blight leave, the stop by what ends of carts and jobs leave. -/
theorem rootSubReset : Obligations.RootSubReset := fun _ _ ha hp =>
  ⟨rootSubreset_quiesces ha hp, quiesceTimeout_resets ha hp, fun _ => quiesceTimeout_stays ha hp, rootSubreset_ends ha hp⟩

end Sys2Proof.Settled
end

section
/-! PROOF. Bough and port resets (R540, R541). -/

namespace Sys2Proof.Machine

/-! ## The bough reset (R540) -/

/-- A Crib's bytes. -/
def inCribOf (b a : Nat) : Bool := cribBase b ≤ a && a < cribBase (b + 1)

/-- A bough at its reset state, its Crib at zeros and its registers at their reset values. -/
def boughCleared (s : State) (b : Nat) : State :=
  setBough { s with
    regs := s.regs.filter fun x => !boughReg b x.1
    mem := s.mem.filter fun x => !inCribOf b x.1
    ecc := { s.ecc with cw := s.ecc.cw.filter fun x => !(x.1 % 4 = 0 && inCribOf b (x.1 / 4))
                        written := s.ecc.written.filter fun x => !inCribOf b x.1 } } b {}

/-- PRESENTED and FAILED as they were. -/
def statusKept (s : State) (b pres failed : Nat) : State :=
  setFld (setFld s (Reg.BGH_STATUS b) Fld.BGH_STATUS_PRESENTED pres) (Reg.BGH_STATUS b) Fld.BGH_STATUS_FAILED failed

/-- A bough as its reset leaves it. -/
def boughGone (s : State) (b : Nat) : State :=
  statusKept (boughCleared s b) b (fld s (Reg.BGH_STATUS b) Fld.BGH_STATUS_PRESENTED)
    (fld s (Reg.BGH_STATUS b) Fld.BGH_STATUS_FAILED)

section
variable {s : State} {b : Nat} {p : PartReq} (hp : partHead s pkBough = some p) (hb : p.target = b) (hst : p.stage = 0)
include hp hb hst

theorem boughReset_refused (hj : jobLoaded s = true)
    (hpres : fld s (Reg.BGH_STATUS b) Fld.BGH_STATUS_PRESENTED < 64) : boughReset s b = endPart s p 1 := by
  unfold boughReset
  rw [hp]
  dsimp only
  rw [if_neg (by simp [hb, hst]), if_pos (by simp [hj, hpres])]

theorem boughReset_clears (h : ¬(jobLoaded s = true ∧ fld s (Reg.BGH_STATUS b) Fld.BGH_STATUS_PRESENTED < 64)) :
    boughReset s b = setHead (boughGone s b) fun p => { p with stage := 1 } := by
  unfold boughReset
  rw [hp]
  dsimp only
  rw [if_neg (by simp [hb, hst]), if_neg (by simpa using h)]
  rfl

end

theorem boughCleared_reg (s : State) (b a : Nat) :
    reg (boughCleared s b) a = if boughReg b a then regReset a else reg s a := by
  rw [reg_of_filter (s := s) (fun a => !boughReg b a) rfl]
  cases boughReg b a <;> rfl

theorem boughReg_block {b a : Nat} (hb : b < 68) (h : a / 2 ^ 24 ≠ 2 ∧ a / 2 ^ 24 ≠ 3) : boughReg b a = false := by
  refine Bool.and_eq_false_imp.2 fun hin => ?_
  simp only [Bool.or_eq_true, Bool.and_eq_true, decide_eq_true_eq] at hin
  omega

theorem boughCleared_sameMap (s : State) {b : Nat} (hb : b < 68) : SameMap s (boughCleared s b) := by
  intro a ha
  have hblock : a / 2 ^ 24 ≠ 2 ∧ a / 2 ^ 24 ≠ 3 := by
    revert a
    decide
  rw [boughCleared_reg, boughReg_block hb hblock]
  rfl

theorem boughCleared_byte (s : State) {b : Nat} (hb : b < 68) (a : Nat) :
    byteAt (boughCleared s b) a = if cribBase b ≤ a ∧ a < cribBase (b + 1) then 0 else byteAt s a := by
  have hmem : (boughCleared s b).mem = s.mem.filter fun x => !inCribOf b x.1 := rfl
  have hget := kget_filter (fun _ => 0#8) (fun a => !inCribOf b a) s.mem a
  rw [byteAt, (boughCleared_sameMap s hb).isMem, hmem, hget, byteAt]
  by_cases hin : cribBase b ≤ a ∧ a < cribBase (b + 1)
  · have hcrib : isMem s a = true := by
      simp only [cribBase] at hin
      rw [isMem, isCrib_iff.2 ⟨by omega, by omega⟩, Bool.or_true]
    rw [if_pos hcrib, if_pos hin, inCribOf, decide_eq_true hin.1, decide_eq_true hin.2]
    rfl
  · have hout : (!inCribOf b a) = true := by
      rw [Bool.not_eq_true', inCribOf, Bool.and_eq_false_imp]
      exact fun h => decide_eq_false fun h' => hin ⟨of_decide_eq_true h, h'⟩
    rw [if_neg hin, if_pos hout]

/-- How a bough reset that is granted leaves the bough, its Crib and its registers. -/
structure BoughBack (s t : State) (b : Nat) : Prop where
  bough : bough t b = {}
  others : ∀ d, d ≠ b → Machine.bough t d = Machine.bough s d
  byte : ∀ a, byteAt t a = if cribBase b ≤ a ∧ a < cribBase (b + 1) then 0 else byteAt s a
  presented : fld t (Reg.BGH_STATUS b) Fld.BGH_STATUS_PRESENTED = fld s (Reg.BGH_STATUS b) Fld.BGH_STATUS_PRESENTED
  failed : fld t (Reg.BGH_STATUS b) Fld.BGH_STATUS_FAILED = fld s (Reg.BGH_STATUS b) Fld.BGH_STATUS_FAILED
  regs : ∀ a, a ≠ Reg.BGH_STATUS b → reg t a = if boughReg b a then regReset a else reg s a

theorem boughGone_back (s : State) {b : Nat} (hb : b < 68) : BoughBack s (boughGone s b) b ∧ (boughGone s b).rst = s.rst := by
  have hself : bough (boughCleared s b) b = {} := bough_setBough_self _ _ _
  have hother (d : Nat) (hd : d ≠ b) : bough (boughCleared s b) d = bough s d :=
    (bough_setBough _ _ _ _).trans (if_neg hd.symm)
  have hbyte := boughCleared_byte s hb
  have hreg := boughCleared_reg s b
  have hrst : (boughCleared s b).rst = s.rst := rfl
  unfold boughGone
  generalize boughCleared s b = u at hself hother hbyte hreg hrst ⊢
  generalize hpres : fld s (Reg.BGH_STATUS b) Fld.BGH_STATUS_PRESENTED = pres
  generalize hfail : fld s (Reg.BGH_STATUS b) Fld.BGH_STATUS_FAILED = failed
  have hform : RegsOnly u (statusKept u b pres failed) := (regsOnly_setFld u _ _ _).trans (regsOnly_setFld _ _ _ _)
  have hregs (a : Nat) (ha : a ≠ Reg.BGH_STATUS b) : reg (statusKept u b pres failed) a = reg u a := by
    rw [statusKept, reg_setFld_ne _ _ _ ha.symm, reg_setFld_ne _ _ _ ha.symm]
  have hmap : SameMap u (statusKept u b pres failed) := fun a ha => hregs a fun heq => by
    have hblock : ∀ a ∈ mapRegs, a / 2 ^ 24 = 5 := by decide
    have h5 := hblock a ha
    rw [heq, block_status hb] at h5
    exact absurd h5 (by decide)
  have h1 : fld (statusKept u b pres failed) (Reg.BGH_STATUS b) Fld.BGH_STATUS_PRESENTED = pres := by
    rw [statusKept, fld_setFld_ne _ _ _ _ _ (by decide) (by decide) (by decide) (by decide),
      fld_setFld _ _ _ _ (by decide) (by decide), ← hpres]
    exact Nat.mod_mod _ _
  have h2 : fld (statusKept u b pres failed) (Reg.BGH_STATUS b) Fld.BGH_STATUS_FAILED = failed := by
    rw [statusKept, fld_setFld _ _ _ _ (by decide) (by decide), ← hfail]
    exact Nat.mod_mod _ _
  generalize statusKept u b pres failed = v at hform hregs hmap h1 h2 ⊢
  have hboughs : v.boughs = u.boughs := by rw [hform]
  refine ⟨⟨(bough_congr hboughs b).trans hself, fun d hd => (bough_congr hboughs d).trans (hother d hd), fun a => ?_,
    h1.trans hpres.symm, h2.trans hfail.symm,
    fun a ha => (hregs a ha).trans (hreg a)⟩, hform.rst.trans hrst⟩
  exact (hmap.byteAt (by rw [hform.mem])).trans (hbyte a)

/-! ## The port reset (R541) -/

/-- A port that is down, its lanes and its status at their reset state. -/
def portCleared (s : State) (p : Nat) : State :=
  setRegN (setRegN (setRegN (retrain s p) (Reg.FAB_LANES p) (regReset (Reg.FAB_LANES p)).toNat) (Reg.FAB_PSTAT p) 0)
    (Reg.FAB_PEER p) 0

/-- It trains again. -/
def portTrains (s : State) (p : Nat) : State :=
  mapPort (setPortState s p psTrain) p fun x => { x with moving := none, asked := [], badRound := [] }

theorem portReset_eq {s : State} {q : PartReq} {p : Nat} (hq : partHead s pkPort = some q) (hp : q.target = p)
    (hst : q.stage = 0) : portReset s p = endPart (portTrains (portCleared s p) p) q 0 := by
  unfold portReset
  rw [hq]
  exact if_neg (by simp [hp, hst])

/-- What a port reset has done when it ends. -/
structure PortBack (s t : State) (p : Nat) : Prop where
  rst : t.rst = s.rst
  mem : MemSame s t
  state : portState t p = psTrain
  lanes : reg t (Reg.FAB_LANES p) = regReset (Reg.FAB_LANES p)
  peer : regN t (Reg.FAB_PEER p) = 0
  replay : (port t p).replay = (port s p).replay
  down : fld t Reg.FAB_INTSTAT Fld.FAB_INTSTAT_LINKDOWN = 1

/-- The registers of different ports' status, lanes and partners, and of the fabric's events, are apart. -/
theorem portRegs_ne {p : Nat} (hp : p < 24) : Reg.FAB_INTSTAT ≠ Reg.FAB_PSTAT p ∧ Reg.FAB_INTSTAT ≠ Reg.FAB_LANES p
    ∧ Reg.FAB_INTSTAT ≠ Reg.FAB_PEER p ∧ Reg.FAB_LANES p ≠ Reg.FAB_PSTAT p ∧ Reg.FAB_LANES p ≠ Reg.FAB_PEER p
    ∧ Reg.FAB_PEER p ≠ Reg.FAB_PSTAT p := by
  simp only [Reg.FAB_INTSTAT, Reg.FAB_PSTAT, Reg.FAB_LANES, Reg.FAB_PEER]
  omega

theorem mapPort_rst (s : State) (p : Nat) (f : PortSt → PortSt) : (mapPort s p f).rst = s.rst := rfl
theorem mapPort_memSame (s : State) (p : Nat) (f : PortSt → PortSt) : MemSame s (mapPort s p f) := ⟨rfl, rfl⟩
theorem reg_mapPort (s : State) (p : Nat) (f : PortSt → PortSt) (a : Nat) : reg (mapPort s p f) a = reg s a := rfl

/-- A port that loses lock keeps its replay buffer, and the loss is shown. -/
theorem retrain_shows (s : State) {p : Nat} (hp : p < 24) : (retrain s p).rst = s.rst ∧ MemSame s (retrain s p)
    ∧ (port (retrain s p) p).replay = (port s p).replay
    ∧ fld (retrain s p) Reg.FAB_INTSTAT Fld.FAB_INTSTAT_LINKDOWN = 1 := by
  have hform := regsOnly_raise s Reg.FAB_INTSTAT Fld.FAB_INTSTAT_LINKDOWN.bit
  have hdown : fld (raise s Reg.FAB_INTSTAT Fld.FAB_INTSTAT_LINKDOWN.bit) Reg.FAB_INTSTAT Fld.FAB_INTSTAT_LINKDOWN = 1 :=
    fld_raise s Reg.FAB_INTSTAT 1 (by decide)
  unfold retrain
  dsimp only
  generalize raise s Reg.FAB_INTSTAT Fld.FAB_INTSTAT_LINKDOWN.bit = u at hform hdown ⊢
  obtain ⟨v, hv⟩ : ∃ v, v = mapPort u p fun x => { x with adm := { x.adm with step := 0, peer := none, asm := [], out := [] } } :=
    ⟨_, rfl⟩
  have hport : (port v p).replay = (port u p).replay := by rw [hv, port_mapPort_same]
  have hrst : v.rst = u.rst := by rw [hv, mapPort_rst]
  have hmem : MemSame u v := hv ▸ mapPort_memSame u p _
  have hreg (a : Nat) : reg v a = reg u a := by rw [hv, reg_mapPort]
  rw [← hv]
  have hset := regsOnly_setFld v (Reg.FAB_PSTAT p) Fld.FAB_PSTAT_STATE psTrain
  have hint : reg (setPortState v p psTrain) Reg.FAB_INTSTAT = reg v Reg.FAB_INTSTAT :=
    reg_setFld_ne _ _ _ (portRegs_ne hp).1.symm
  refine ⟨hset.rst.trans (hrst.trans hform.rst), (hform.memSame.trans hmem).trans hset.memSame, ?_, ?_⟩
  · rw [setPortState, port_congr hset.fab, hport, port_congr hform.fab]
  · exact (fld_of_reg (hint.trans (hreg _)) _).trans hdown

theorem portCleared_shows (s : State) {p : Nat} (hp : p < 24) : (portCleared s p).rst = s.rst ∧ MemSame s (portCleared s p)
    ∧ (port (portCleared s p) p).replay = (port s p).replay
    ∧ fld (portCleared s p) Reg.FAB_INTSTAT Fld.FAB_INTSTAT_LINKDOWN = 1
    ∧ reg (portCleared s p) (Reg.FAB_LANES p) = regReset (Reg.FAB_LANES p) ∧ regN (portCleared s p) (Reg.FAB_PEER p) = 0 := by
  obtain ⟨hrst, hmem, hreplay, hdown⟩ := retrain_shows s hp
  obtain ⟨h1, h2, h3, h4, h5, h6⟩ := portRegs_ne hp
  unfold portCleared
  generalize retrain s p = u at hrst hmem hreplay hdown ⊢
  generalize hlanes : (regReset (Reg.FAB_LANES p)).toNat = lanes
  have hform : RegsOnly u (setRegN (setRegN (setRegN u (Reg.FAB_LANES p) lanes) (Reg.FAB_PSTAT p) 0) (Reg.FAB_PEER p) 0) :=
    ((regsOnly_setRegN u _ _).trans (regsOnly_setRegN _ _ _)).trans (regsOnly_setRegN _ _ _)
  have hint : reg (setRegN (setRegN (setRegN u (Reg.FAB_LANES p) lanes) (Reg.FAB_PSTAT p) 0) (Reg.FAB_PEER p) 0) Reg.FAB_INTSTAT
      = reg u Reg.FAB_INTSTAT := by
    rw [reg_setRegN_ne _ _ h3.symm, reg_setRegN_ne _ _ h1.symm, reg_setRegN_ne _ _ h2.symm]
  have hshown : reg (setRegN (setRegN (setRegN u (Reg.FAB_LANES p) lanes) (Reg.FAB_PSTAT p) 0) (Reg.FAB_PEER p) 0)
      (Reg.FAB_LANES p) = regReset (Reg.FAB_LANES p) := by
    rw [reg_setRegN_ne _ _ h5.symm, reg_setRegN_ne _ _ h4.symm, setRegN, reg_setReg_self, ← hlanes]
    exact (BitVec.ofNat_toNat 32 _).trans (BitVec.setWidth_eq _)
  have hpeer : regN (setRegN (setRegN (setRegN u (Reg.FAB_LANES p) lanes) (Reg.FAB_PSTAT p) 0) (Reg.FAB_PEER p) 0)
      (Reg.FAB_PEER p) = 0 := (regN_setRegN _ _ _ _).trans (if_pos rfl)
  generalize setRegN (setRegN (setRegN u (Reg.FAB_LANES p) lanes) (Reg.FAB_PSTAT p) 0) (Reg.FAB_PEER p) 0 = v
    at hform hint hshown hpeer ⊢
  exact ⟨hform.rst.trans hrst, hmem.trans hform.memSame, by rw [port_congr hform.fab, hreplay],
    (fld_of_reg hint _).trans hdown, hshown, hpeer⟩

theorem portTrains_back (s : State) {p : Nat} (hp : p < 24) : PortBack s (portTrains (portCleared s p) p) p := by
  obtain ⟨hrst, hmem, hreplay, hdown, hlanes, hpeer⟩ := portCleared_shows s hp
  obtain ⟨h1, -, -, h4, -, h6⟩ := portRegs_ne hp
  generalize portCleared s p = u at hrst hmem hreplay hdown hlanes hpeer ⊢
  have hform := regsOnly_setFld u (Reg.FAB_PSTAT p) Fld.FAB_PSTAT_STATE psTrain
  have hstate := portState_setPortState u p (v := psTrain) (by decide)
  have hreg {a : Nat} (h : a ≠ Reg.FAB_PSTAT p) : reg (setPortState u p psTrain) a = reg u a := reg_setFld_ne _ _ _ h.symm
  unfold portTrains
  generalize hv : setPortState u p psTrain = v at hstate hreg ⊢
  rw [← setPortState, hv] at hform
  obtain ⟨w, hw⟩ : ∃ w, w = mapPort v p fun x => { x with moving := none, asked := [], badRound := [] } := ⟨_, rfl⟩
  have hwport : (port w p).replay = (port v p).replay := by rw [hw, port_mapPort_same]
  have hwrst : w.rst = v.rst := by rw [hw, mapPort_rst]
  have hwmem : MemSame v w := hw ▸ mapPort_memSame v p _
  have hwreg (a : Nat) : reg w a = reg v a := by rw [hw, reg_mapPort]
  rw [← hw]
  exact ⟨hwrst.trans (hform.rst.trans hrst), (hmem.trans hform.memSame).trans hwmem, (fld_of_reg (hwreg _) _).trans hstate,
    (hwreg _).trans ((hreg h4).trans hlanes), (regN_of_reg ((hwreg _).trans (hreg h6))).trans hpeer,
    by rw [hwport, port_congr hform.fab, hreplay], (fld_of_reg ((hwreg _).trans (hreg h1)) _).trans hdown⟩

end Sys2Proof.Machine

namespace Sys2Proof.Settled

open Sys2Proof.Machine

section
variable {s : State} {p : PartReq} {b : Nat} (ha : alive s = true) (hp : partHead s pkBough = some p) (hb : p.target = b)
include ha hp hb

theorem boughReset_refuses (hst : p.stage = 0) (hj : jobLoaded s = true)
    (hpres : fld s (Reg.BGH_STATUS b) Fld.BGH_STATUS_PRESENTED < 64) : Runs (.boughReset b) s fun t =>
      Statements.PartEnded s t p 1 ∧ MemSame s t ∧ t.boughs = s.boughs := by
  refine runs_finish (congrArg (finish s) (boughReset_refused hp hb hst hj hpres)) ha ?_
  obtain ⟨hover, hended⟩ := endPart_over s p (result := 1) (by rw [(partHead_some hp).2]; decide) (by decide)
  generalize endPart s p 1 = v at hover hended ⊢
  exact ⟨partEnded_ended s hended rfl, memSame_ended s hover.memSame, hover.boughs⟩

theorem boughReset_resets (hlt : b < 68) (hst : p.stage = 0)
    (h : ¬(jobLoaded s = true ∧ fld s (Reg.BGH_STATUS b) Fld.BGH_STATUS_PRESENTED < 64)) : Runs (.boughReset b) s fun t =>
      bough t b = {} ∧ (∀ d, d ≠ b → bough t d = bough s d)
        ∧ (∀ a, byteAt t a = if cribBase b ≤ a ∧ a < cribBase (b + 1) then 0 else byteAt s a)
        ∧ fld t (Reg.BGH_STATUS b) Fld.BGH_STATUS_PRESENTED = fld s (Reg.BGH_STATUS b) Fld.BGH_STATUS_PRESENTED
        ∧ fld t (Reg.BGH_STATUS b) Fld.BGH_STATUS_FAILED = fld s (Reg.BGH_STATUS b) Fld.BGH_STATUS_FAILED
        ∧ (∀ a, a ≠ Reg.BGH_STATUS b → reg t a = if boughReg b a then regReset a else reg s a)
        ∧ t.rst.parts = { p with stage := 1 } :: s.rst.parts.tail := by
  refine runs_finish (congrArg (finish s) (boughReset_clears hp hb hst h)) ha ?_
  obtain ⟨⟨h1, h2, h3, h4, h5, h6⟩, hrst⟩ := boughGone_back s hlt
  generalize boughGone s b = u at h1 h2 h3 h4 h5 h6 hrst ⊢
  have hparts := setHead_parts ((congrArg RstSt.parts hrst).trans (partHead_some hp).1) fun p => { p with stage := 1 }
  exact ⟨h1, h2, h3, h4, h5, h6, hparts⟩

theorem boughReset_ends (hst : p.stage = 1) : Runs (.boughResetDone b) s fun t =>
    Statements.PartEnded s t p 0 ∧ MemSame s t ∧ t.boughs = s.boughs := by
  have hdone : boughResetDone s b = endPart s p 0 := by
    unfold boughResetDone
    rw [hp]
    exact if_pos (by simp [hb, hst])
  refine runs_finish (congrArg (finish s) hdone) ha ?_
  obtain ⟨hover, hended⟩ := endPart_over s p (result := 0) (by rw [(partHead_some hp).2]; decide) (by decide)
  generalize endPart s p 0 = v at hover hended ⊢
  exact ⟨partEnded_ended s hended rfl, memSame_ended s hover.memSame, hover.boughs⟩

end

theorem portReset_ends {s : State} {q : PartReq} {p : Nat} (ha : alive s = true) (hp : p < 24)
    (hq : partHead s pkPort = some q) (htarget : q.target = p) (hst : q.stage = 0) : Runs (.portReset p) s fun t =>
      Statements.PartEnded s t q 0 ∧ portState t p = psTrain ∧ reg t (Reg.FAB_LANES p) = regReset (Reg.FAB_LANES p)
        ∧ regN t (Reg.FAB_PEER p) = 0
        ∧ (port t p).replay = (port s p).replay ∧ fld t Reg.FAB_INTSTAT Fld.FAB_INTSTAT_LINKDOWN = 1 ∧ MemSame s t := by
  refine runs_finish (congrArg (finish s) (portReset_eq hq htarget hst)) ha ?_
  obtain ⟨hrst, hmem, hstate, hlanes, hpeer, hreplay, hdown⟩ := portTrains_back s hp
  generalize portTrains (portCleared s p) p = u at hrst hmem hstate hlanes hpeer hreplay hdown ⊢
  obtain ⟨hover, hended⟩ := endPart_over u q (result := 0) (by rw [(partHead_some hq).2]; decide) (by decide)
  generalize endPart u q 0 = v at hover hended ⊢
  have hkept {a : Nat} (h : a / 2 ^ 24 = 9) : reg v a = reg u a :=
    hover.regs a (by omega) (by omega) (by rintro rfl; exact absurd h (by decide)) (by rintro rfl; exact absurd h (by decide))
  have hblock : Reg.FAB_PSTAT p / 2 ^ 24 = 9 ∧ Reg.FAB_LANES p / 2 ^ 24 = 9 ∧ Reg.FAB_PEER p / 2 ^ 24 = 9 := by
    simp only [Reg.FAB_PSTAT, Reg.FAB_LANES, Reg.FAB_PEER]
    omega
  refine ⟨partEnded_ended s hended (by rw [hrst]), (ended_fld s v _ _).trans ((fld_of_reg (hkept hblock.1) _).trans hstate),
    (ended_reg s v _).trans ((hkept hblock.2.1).trans hlanes),
    (ended_regN s v _).trans ((regN_of_reg (hkept hblock.2.2)).trans hpeer), ?_,
    (ended_fld s v _ _).trans ((fld_of_reg (hkept (by decide)) _).trans hdown),
    memSame_ended s (hmem.trans hover.memSame)⟩
  rw [port_ended, port_congr hover.fab, hreplay]

theorem statements_boughAndPortReset : Statements.BoughAndPortReset :=
  ⟨fun _ _ _ ha hlt hp hb => ⟨boughReset_refuses ha hp hb, boughReset_resets ha hp hb hlt, boughReset_ends ha hp hb⟩,
    fun _ _ _ ha hp hq htarget hst => portReset_ends ha hp hq htarget hst⟩

end Sys2Proof.Settled
end

section
/-! PROOF. Layer resets (R537 to R539). -/

namespace Sys2Proof.Machine

/-! ## What is said of a tick -/

theorem tickEnded_fld (s t : State) (a : Nat) (f : Fld) : fld (tickEnded s t) a f = fld t a f := rfl
theorem tickEnded_loft (s t : State) : (tickEnded s t).loft = t.loft := rfl
theorem tickEnded_rst (s t : State) : (tickEnded s t).rst = t.rst := rfl
theorem tickEnded_mem (s t : State) : (tickEnded s t).mem = t.mem := rfl
theorem tickEnded_ecc (s t : State) : (tickEnded s t).ecc = t.ecc := rfl
theorem tickEnded_memSame {u t : State} (s : State) (h : MemSame u t) : MemSame u (tickEnded s t) := h
theorem tickEnded_byteAt (s t : State) (a : Nat) : byteAt (tickEnded s t) a = byteAt t a :=
  (sameMap_of_regs rfl).byteAt rfl

/-! ## The layers in reset -/

theorem layerBit_on : ∀ v < 16, ∀ layer < 4,
    bitN ((v - (if bitN v layer then 2 ^ layer else 0) + 2 ^ layer) % 16) layer = true := by decide

theorem layerBit_off : ∀ v < 16, ∀ layer < 4, bitN ((v - if bitN v layer then 2 ^ layer else 0) % 16) layer = false := by decide

/-- A layer is shown to be in reset, or no longer. -/
theorem setLayerRst_bit (s : State) {layer : Nat} (h : layer < 4) (on : Bool) :
    bitN (fld (setLayerRst s layer on) Reg.RST_STATUS Fld.RST_STATUS_LAYERRST) layer = on := by
  have hlt : fld s Reg.RST_STATUS Fld.RST_STATUS_LAYERRST < 16 := Nat.mod_lt _ (by decide)
  unfold setLayerRst
  dsimp only
  rw [fld_setFld _ _ _ _ (by decide) (by decide)]
  cases on
  · exact layerBit_off _ hlt layer h
  · exact layerBit_on _ hlt layer h

theorem regsOnly_setLayerRst (s : State) (layer : Nat) (on : Bool) : RegsOnly s (setLayerRst s layer on) := regsOnly_setFld _ _ _ _

theorem setLayerRst_reg (s : State) (layer : Nat) (on : Bool) {a : Nat} (h : a ≠ Reg.RST_STATUS) :
    reg (setLayerRst s layer on) a = reg s a := reg_setFld_ne _ _ _ h.symm

/-! ## The Loft emptied -/

theorem SameMap.objAt {s t : State} (h : SameMap s t) (hm : t.mem = s.mem) (j : Nat) : objAt t j = Machine.objAt s j := by
  have hbyte (a : Nat) : Machine.byteAt t a = Machine.byteAt s a := h.byteAt (by rw [hm])
  rw [Machine.objAt, Machine.objAt, h.objRec, peek, peek]
  simp only [hbyte]

theorem SameMap.isDirect {s t : State} (h : SameMap s t) (a : Nat) : isDirect t a = Machine.isDirect s a := by
  rw [Machine.isDirect, Machine.isDirect, directSize, directSize, fld_of_reg (h _ (by decide))]

theorem emptyLoft_bare {s : State} (hl : s.loft.lines = [])
    (hobjs : ∀ j ∈ s.loft.objs, (objAt s j).pinned = false ∧ (objAt s j).mstate = msHome) : emptyLoft s = s := by
  have hnone : (s.loft.objs.filter fun j => (objAt s j).pinned || (objAt s j).mstate ≠ msHome) = [] := by
    refine List.filter_eq_nil_iff.2 fun j hj => ?_
    obtain ⟨hpin, hhome⟩ := hobjs j hj
    simp [hpin, hhome]
  unfold emptyLoft
  dsimp only
  rw [hnone, List.foldl_nil, hl]
  rfl

/-! ## The reset begins -/

/-- The layer is in reset, its request is taken, and nothing is allocated in the Loft. -/
def layerHeld (s : State) (layer : Nat) : State :=
  mapLoft (setHead (setLayerRst s layer true) fun p => { p with stage := 1 }) fun lo => { lo with granaryOnly := true }

theorem layerStart_eq (s : State) (layer : Nat) : layerReset.start s layer = emptyLoft (layerHeld s layer) := rfl

section
variable {s : State} {p : PartReq} {layer : Nat} (hp : partHead s pkLayer = some p)
include hp

theorem layerReset_waits (hb : atBoundary s = false) : layerReset s layer = s := by
  unfold layerReset
  rw [hp]
  exact if_pos (by simp [hb])

theorem layerResetDone_waits (hb : atBoundary s = false) : layerResetDone s layer = s := by
  unfold layerResetDone
  rw [hp]
  exact if_pos (by simp [hb])

variable (ht : p.target = layer) (hb : atBoundary s = true)
include ht hb

theorem layerReset_refused (hst : p.stage = 0) (hpark : parkBase s = none) (hj : jobLoaded s = true) :
    layerReset s layer = endPart s p 2 := by
  unfold layerReset
  rw [hp]
  dsimp only
  rw [if_neg (by simp [ht, hst, hb]), hpark]
  exact if_pos hj

theorem layerReset_fills (hst : p.stage = 0) (hpark : parkBase s = none) (hj : jobLoaded s = false) :
    layerReset s layer = fillDirect (emptyLoft (layerHeld s layer)) := by
  unfold layerReset
  rw [hp]
  dsimp only
  rw [if_neg (by simp [ht, hst, hb]), hpark]
  exact if_neg (by simp [hj])

theorem layerReset_parks (hst : p.stage = 0) {b : Nat} (hpark : parkBase s = some b) : layerReset s layer =
    mapLoft (parkDirect (emptyLoft (layerHeld s layer)) b) fun lo => { lo with parked := true } := by
  unfold layerReset
  rw [hp]
  dsimp only
  rw [if_neg (by simp [ht, hst, hb]), hpark]
  rfl

end

/-- From `s` to `t` a layer has gone into reset. -/
structure LayerTaken (s t : State) (p : PartReq) (layer : Nat) : Prop where
  granaryOnly : t.loft.granaryOnly = true
  bit : bitN (fld t Reg.RST_STATUS Fld.RST_STATUS_LAYERRST) layer = true
  parts : t.rst.parts = { p with stage := 1 } :: s.rst.parts.tail

theorem LayerTaken.trans {s t u : State} {p : PartReq} {layer : Nat} (h : LayerTaken s t p layer) (h' : ResetKept t u) :
    LayerTaken s u p layer :=
  ⟨h'.granaryOnly.trans h.granaryOnly, (congrArg (bitN · layer) h'.layers).trans h.bit,
    (congrArg RstSt.parts h'.rst).trans h.parts⟩

theorem layerHeld_taken {s : State} {p : PartReq} {layer : Nat} (hp : s.rst.parts = p :: s.rst.parts.tail) (h : layer < 4) :
    LayerTaken s (layerHeld s layer) p layer := by
  have hbit := setLayerRst_bit s h true
  have hform := regsOnly_setLayerRst s layer true
  unfold layerHeld
  generalize setLayerRst s layer true = u at hbit hform ⊢
  exact ⟨rfl, hbit, setHead_parts ((congrArg RstSt.parts hform.rst).trans hp) _⟩

theorem parkDirect_resetKept (s : State) (base : Nat) : ResetKept s (parkDirect s base) := by
  have hread := readEvery_resetKept (s.ecc.cw.filter fun x => x.1 % 4 = 1 && isDirect s (x.1 / 4)) s
  unfold parkDirect
  dsimp only
  generalize readEvery s (s.ecc.cw.filter fun x => x.1 % 4 = 1 && isDirect s (x.1 / 4)) = r at hread ⊢
  obtain ⟨t, lost⟩ := r
  dsimp only at hread ⊢
  have hmoved (m : KMap Byte) (x : EccSt) : ResetKept t { t with mem := m, ecc := x } := resetKept_of_regs rfl rfl rfl
  exact (hread.trans (hmoved _ _)).trans (.foldl (fun u k => setCw_resetKept u _ _) lost _)

theorem fillDirect_resetKept (s : State) : ResetKept s (fillDirect s) := resetKept_of_regs rfl rfl rfl

/-! ## Of a Loft that holds nothing else -/

/-- What the start changes beside the request. -/
structure HeldFrame (s t : State) : Prop where
  mem : t.mem = s.mem
  cw : t.ecc.cw = s.ecc.cw
  map : SameMap s t
  loft : t.loft = { s.loft with granaryOnly := true }

theorem layerHeld_frame (s : State) (layer : Nat) : HeldFrame s (layerHeld s layer) := by
  have hform := regsOnly_setLayerRst s layer true
  have hreg {a : Nat} (h : a ≠ Reg.RST_STATUS) := setLayerRst_reg s layer true h
  unfold layerHeld
  generalize setLayerRst s layer true = u at hform hreg ⊢
  have hmap : SameMap u (mapLoft (setHead u fun p => { p with stage := 1 }) fun lo => { lo with granaryOnly := true }) :=
    sameMap_of_regs rfl
  have hstatus : ∀ a ∈ mapRegs, a ≠ Reg.RST_STATUS := by decide
  refine ⟨hform.mem, ?_, .trans (fun a ha => hreg (hstatus a ha)) hmap, ?_⟩
  · rw [hform]
    rfl
  · rw [← hform.loft]
    rfl

section
variable {s t : State} (hbare : Statements.LoftBare s) (h : HeldFrame s t)
include hbare h

theorem emptyLoft_held : emptyLoft t = t := by
  obtain ⟨hlines, hobjs, -⟩ := hbare
  refine emptyLoft_bare (by rw [h.loft]; exact hlines) fun j hj => ?_
  rw [h.map.objAt h.mem]
  exact hobjs j (by rw [h.loft] at hj; exact hj)

theorem parkDirect_held (b : Nat) : (parkDirect t b).mem = moveCells s.mem 1 directBase b (directSize s)
    ∧ (parkDirect t b).loft = { s.loft with granaryOnly := true } := by
  obtain ⟨-, -, hcw⟩ := hbare
  have hnone : (t.ecc.cw.filter fun x => x.1 % 4 = 1 && isDirect t (x.1 / 4)) = [] := by
    rw [h.cw]
    refine List.filter_eq_nil_iff.2 fun x hx => ?_
    rw [h.map.isDirect]
    by_cases hk : x.1 % 4 = 1
    · simp [hk, hcw x hx hk]
    · simp [hk]
  have hsize : directSize t = directSize s := congrArg (· * 0x18000000) (fld_of_reg (h.map _ (by decide)) _)
  unfold parkDirect
  dsimp only
  rw [hnone, readEvery, hsize, List.foldl_nil]
  exact ⟨by rw [h.mem], h.loft⟩

end

theorem fillDirect_held {s t : State} (h : HeldFrame s t) : (fillDirect t).loft = { s.loft with granaryOnly := true }
    ∧ ∀ a, byteAt (fillDirect t) a = if isDirect s a then 0 else byteAt s a := by
  refine ⟨h.loft, fun a => ?_⟩
  have hmap : SameMap t (fillDirect t) := sameMap_of_regs rfl
  have hmem : (fillDirect t).mem = t.mem.filter fun x => !isDirect t x.1 := rfl
  have hget := kget_filter (fun _ => 0#8) (fun a => !isDirect t a) t.mem a
  rw [byteAt, (h.map.trans hmap).isMem, hmem, hget, h.map.isDirect, h.mem, byteAt]
  cases hd : isDirect s a with
  | true =>
    have hin : isMem s a = true := by rw [isMem, hd, Bool.or_true, Bool.true_or]
    rw [if_pos hin]
    rfl
  | false => rfl

/-! ## The reset ends -/

/-- The direct range is copied back from the parking object. -/
def unparked (s : State) : State :=
  match s.loft.parked, parkBase s with
  | true, some b => parkDirect s b
  | _, _ => s

/-- The layer is out of reset, its checks are fresh, and allocation resumes. -/
def layerFreed (s : State) (layer : Nat) : State :=
  let keepCw (x : Nat × CwErr) : Bool := !(x.1 % 4 = 1) || foundOf s x.1 x.2 = .uncorr
  mapLoft (setLayerRst { s with ecc := { s.ecc with cw := s.ecc.cw.filter keepCw, lpar := [] } } layer false) fun lo =>
    { lo with granaryOnly := false, parked := false }

theorem layerResetDone_eq {s : State} {p : PartReq} {layer : Nat} (hp : partHead s pkLayer = some p) (ht : p.target = layer)
    (hb : atBoundary s = true) (hst : p.stage = 1) (hl : s.loft.lines = [])
    (hobjs : ∀ j ∈ s.loft.objs, (objAt s j).pinned = false ∧ (objAt s j).mstate = msHome)
    (hr : ∀ x ∈ s.loft.rounds, x.2.diverted = true) :
    layerResetDone s layer = endPart (layerFreed (unparked s) layer) p 0 := by
  have hempty : loftEmpty s = true := by
    simp only [loftEmpty, hl, List.isEmpty_nil, Bool.true_and, Bool.and_eq_true, List.all_eq_true, decide_eq_true_eq]
    exact ⟨hr, fun j hj => (hobjs j hj).2⟩
  unfold layerResetDone
  rw [hp]
  dsimp only
  rw [if_neg (by simp [ht, hst, hb]), emptyLoft_bare hl hobjs, hempty]
  rfl

theorem unparked_resetKept (s : State) : ResetKept s (unparked s) := by
  unfold unparked
  split
  · exact parkDirect_resetKept s _
  · exact .refl s

theorem layerFreed_shows (s : State) {layer : Nat} (h : layer < 4) : (layerFreed s layer).loft.granaryOnly = false
    ∧ (layerFreed s layer).loft.parked = false ∧ (layerFreed s layer).ecc.lpar = []
    ∧ bitN (fld (layerFreed s layer) Reg.RST_STATUS Fld.RST_STATUS_LAYERRST) layer = false
    ∧ (layerFreed s layer).rst = s.rst := by
  unfold layerFreed
  dsimp only
  generalize s.ecc.cw.filter _ = cw
  obtain ⟨u, hu⟩ : ∃ u : State, u = { s with ecc := { s.ecc with cw := cw, lpar := [] } } := ⟨_, rfl⟩
  have hlpar : u.ecc.lpar = [] := by rw [hu]
  have hrst : u.rst = s.rst := by rw [hu]
  rw [← hu]
  have hbit := setLayerRst_bit u h false
  have hform := regsOnly_setLayerRst u layer false
  generalize setLayerRst u layer false = v at hbit hform ⊢
  have hv : v.ecc.lpar = [] := by rw [hform]; exact hlpar
  exact ⟨rfl, rfl, hv, hbit, hform.rst.trans hrst⟩

end Sys2Proof.Machine

namespace Sys2Proof.Settled

open Sys2Proof.Machine

section
variable {s : State} {p : PartReq} {layer : Nat} (ha : alive s = true) (hlt : layer < 4) (hp : partHead s pkLayer = some p)
include ha hlt hp

omit hlt in
theorem layerCommands_wait (hb : atBoundary s = false) : ∀ c ∈ [Instr.loftLayerReset layer, .layerResetDone layer],
    Runs c s fun t => t = { s with msix := t.msix } := by
  intro c hc
  simp only [List.mem_cons, List.not_mem_nil, or_false] at hc
  rcases hc with rfl | rfl
  · exact runs_finishTick (congrArg (finishTick s) (layerReset_waits hp hb)) ha rfl
  · exact runs_finishTick (congrArg (finishTick s) (layerResetDone_waits hp hb)) ha rfl

variable (ht : p.target = layer) (hb : atBoundary s = true)
include ht hb

omit hlt in
theorem layerReset_refuses (hst : p.stage = 0) (hpark : parkBase s = none) (hj : s.host.job.isSome = true) :
    Runs (.loftLayerReset layer) s fun t => Statements.PartEnded s t p 2 ∧ MemSame s t := by
  refine runs_finishTick (congrArg (finishTick s) (layerReset_refused hp ht hb hst hpark hj)) ha ?_
  obtain ⟨hover, hended⟩ := endPart_over s p (result := 2) (by rw [(partHead_some hp).2]; decide) (by decide)
  generalize endPart s p 2 = v at hover hended ⊢
  exact ⟨partEnded_tickEnded s hended rfl, tickEnded_memSame s hover.memSame⟩

theorem layerReset_takes (hst : p.stage = 0) (h : (parkBase s).isSome = true ∨ s.host.job = none) :
    Runs (.loftLayerReset layer) s fun t =>
      t.loft.granaryOnly = true ∧ bitN (fld t Reg.RST_STATUS Fld.RST_STATUS_LAYERRST) layer = true
        ∧ t.rst.parts = { p with stage := 1 } :: s.rst.parts.tail := by
  have htaken := (layerHeld_taken (partHead_some hp).1 hlt).trans (emptyLoft_resetKept _)
  have hends {t : State} (htick : layerReset s layer = t) (h : LayerTaken s t p layer) : Runs (.loftLayerReset layer) s fun t =>
      t.loft.granaryOnly = true ∧ bitN (fld t Reg.RST_STATUS Fld.RST_STATUS_LAYERRST) layer = true
        ∧ t.rst.parts = { p with stage := 1 } :: s.rst.parts.tail := by
    refine runs_finishTick (congrArg (finishTick s) htick) ha ?_
    rw [tickEnded_loft, tickEnded_fld, tickEnded_rst]
    exact ⟨h.granaryOnly, h.bit, h.parts⟩
  cases hpark : parkBase s with
  | none =>
    have hj : jobLoaded s = false := by
      rcases h with h | h
      · rw [hpark] at h
        cases h
      · rw [jobLoaded, h]
        rfl
    exact hends (layerReset_fills hp ht hb hst hpark hj) (htaken.trans (fillDirect_resetKept _))
  | some b =>
    refine hends (layerReset_parks hp ht hb hst hpark) ((htaken.trans (parkDirect_resetKept _ b)).trans ?_)
    exact resetKept_mapLoft _ rfl

theorem layerReset_filled (hst : p.stage = 0) (hbare : Statements.LoftBare s) (hpark : parkBase s = none)
    (hj : s.host.job = none) : Runs (.loftLayerReset layer) s fun t =>
      t.loft = { s.loft with granaryOnly := true } ∧ bitN (fld t Reg.RST_STATUS Fld.RST_STATUS_LAYERRST) layer = true
        ∧ t.rst.parts = { p with stage := 1 } :: s.rst.parts.tail
        ∧ ∀ a, byteAt t a = if isDirect s a then 0 else byteAt s a := by
  have hframe := layerHeld_frame s layer
  have htaken := (layerHeld_taken (partHead_some hp).1 hlt).trans (fillDirect_resetKept _)
  have hfill := layerReset_fills hp ht hb hst hpark (by rw [jobLoaded, hj]; rfl)
  rw [emptyLoft_held hbare hframe] at hfill
  refine runs_finishTick (congrArg (finishTick s) hfill) ha ?_
  obtain ⟨hloft, hbyte⟩ := fillDirect_held hframe
  generalize fillDirect (layerHeld s layer) = v at htaken hloft hbyte ⊢
  rw [tickEnded_loft, tickEnded_fld, tickEnded_rst]
  exact ⟨hloft, htaken.bit, htaken.parts, fun a => (tickEnded_byteAt s v a).trans (hbyte a)⟩

theorem layerReset_parked (hst : p.stage = 0) (hbare : Statements.LoftBare s) {b : Nat} (hpark : parkBase s = some b) :
    Runs (.loftLayerReset layer) s fun t =>
      t.loft = { s.loft with granaryOnly := true, parked := true }
        ∧ bitN (fld t Reg.RST_STATUS Fld.RST_STATUS_LAYERRST) layer = true
        ∧ t.mem = moveCells s.mem 1 directBase b (directSize s) := by
  have hframe := layerHeld_frame s layer
  have htaken := (layerHeld_taken (partHead_some hp).1 hlt).trans (parkDirect_resetKept _ b)
  have hparks := layerReset_parks hp ht hb hst hpark
  rw [emptyLoft_held hbare hframe] at hparks
  refine runs_finishTick (congrArg (finishTick s) hparks) ha ?_
  obtain ⟨hmem, hloft⟩ := parkDirect_held hbare hframe b
  generalize parkDirect (layerHeld s layer) b = v at htaken hmem hloft ⊢
  obtain ⟨w, hw⟩ : ∃ w, w = mapLoft v fun lo => { lo with parked := true } := ⟨_, rfl⟩
  have hwloft : w.loft = { s.loft with granaryOnly := true, parked := true } := by rw [hw, mapLoft, hloft]
  have hwmem : w.mem = v.mem := by rw [hw, mapLoft_mem]
  have hwfld : fld w Reg.RST_STATUS Fld.RST_STATUS_LAYERRST = fld v Reg.RST_STATUS Fld.RST_STATUS_LAYERRST := by
    rw [hw, fld_mapLoft]
  rw [← hw, tickEnded_loft, tickEnded_fld, tickEnded_mem, hwfld]
  exact ⟨hwloft, htaken.bit, hwmem.trans hmem⟩

theorem layerReset_ends (hst : p.stage = 1) (hl : s.loft.lines = [])
    (hobjs : ∀ j ∈ s.loft.objs, (objAt s j).pinned = false ∧ (objAt s j).mstate = msHome)
    (hr : ∀ x ∈ s.loft.rounds, x.2.diverted = true) : Runs (.layerResetDone layer) s fun t =>
      Statements.PartEnded s t p 0 ∧ t.loft.granaryOnly = false ∧ t.loft.parked = false ∧ t.ecc.lpar = []
        ∧ bitN (fld t Reg.RST_STATUS Fld.RST_STATUS_LAYERRST) layer = false := by
  refine runs_finishTick (congrArg (finishTick s) (layerResetDone_eq hp ht hb hst hl hobjs hr)) ha ?_
  obtain ⟨hgranary, hparked, hlpar, hbit, hrst⟩ := layerFreed_shows (unparked s) hlt
  have hrst := hrst.trans (unparked_resetKept s).rst
  generalize layerFreed (unparked s) layer = u at hgranary hparked hlpar hbit hrst ⊢
  obtain ⟨hover, hended⟩ := endPart_over u p (result := 0) (by rw [(partHead_some hp).2]; decide) (by decide)
  have hreg := hover.regs Reg.RST_STATUS (by decide) (by decide) (by decide) (by decide)
  generalize endPart u p 0 = v at hover hended hreg ⊢
  refine ⟨partEnded_tickEnded s hended (by rw [hrst]), ?_⟩
  rw [tickEnded_loft, tickEnded_ecc, tickEnded_fld, hover.loft, hover.ecc, fld_of_reg hreg]
  exact ⟨hgranary, hparked, hlpar, hbit⟩

end

theorem statements_layerReset : Statements.LayerReset := fun _ _ _ ha hlt hp ht =>
  ⟨layerCommands_wait ha hp,
    fun hb hst => ⟨layerReset_refuses ha hp ht hb hst, layerReset_takes ha hlt hp ht hb hst⟩,
    fun hb hst hbare => ⟨layerReset_filled ha hlt hp ht hb hst hbare,
      fun _ hpark => layerReset_parked ha hlt hp ht hb hst hbare hpark⟩,
    fun hb hst hl hobjs hr => layerReset_ends ha hlt hp ht hb hst hl hobjs hr⟩

/-- Settles O56: what the work of a reset keeps of its own (`ResetKept`), and the end of a partial reset said once. -/
theorem smallResets : Obligations.SmallResets := ⟨statements_layerReset, statements_boughAndPortReset⟩

end Sys2Proof.Settled
end

section
/-! PROOF. A job that loads, starts and stops (R614, R616, R618, R619). -/

namespace Sys2Proof.Machine

/-! ## Completions and what they leave -/

/-- The registers that a completion may write. -/
def complRegs : List Nat := [Reg.HST_INTSTAT, Reg.HST_CTRL, Reg.FRM_EVSEQ_LO, Reg.FRM_EVSEQ_LO + 4, Reg.HST_LOGSEQ_LO,
  Reg.HST_LOGSEQ_LO + 4, Reg.HST_INFLIGHT]

theorem complete_regs (s : State) (h : Nat) (e : Compl) : RegsBut s (complete s h e) complRegs := by
  intro a ha
  simp only [complRegs, List.mem_cons, List.not_mem_nil, or_false, not_or] at ha
  obtain ⟨h1, h2, h3, h4, h5, h6, h7⟩ := ha
  have hdrop (u : State) : reg (dropCmd u h) a = reg u a := reg_setRegN_ne _ _ (Ne.symm h7)
  have hlog (c : HostCmd) : reg (logEntry s c e).1 a = reg s a := by
    unfold logEntry
    dsimp only
    split
    · split
      · exact (reg_setFld_ne _ _ _ (Ne.symm h2)).trans (reg_raise_ne _ _ (Ne.symm h1))
      · exact (reg_bump64_ne _ _ (Ne.symm h5) (Ne.symm h6)).trans (reg_bump64_ne _ _ (Ne.symm h3) (Ne.symm h4))
    · rfl
  unfold complete
  split
  · rfl
  · split
    · exact hdrop s
    · exact (hdrop _).trans (hlog _)

/-- A command that waits under another handle waits still. -/
theorem findCmd_complete_ne {s : State} {h k : Nat} (e : Compl) (hne : k ≠ h) : findCmd (complete s h e) k = findCmd s k := by
  have hdrop (u : State) : findCmd (dropCmd u h) k = findCmd u k := by
    have hboth : (fun c : HostCmd => decide (decide (c.handle ≠ h) = true ∧ decide (c.handle = k) = true))
        = fun c => decide (c.handle = k) := by
      funext c
      by_cases hc : c.handle = k
      · simp [hc, hne]
      · simp [hc]
    have hfilter : (dropCmd u h).host.cmds = u.host.cmds.filter fun x => x.handle ≠ h := rfl
    rw [findCmd, hfilter, List.find?_filter, hboth, findCmd]
  have hlog (c : HostCmd) : findCmd (logEntry s c e).1 k = findCmd s k := by
    unfold logEntry
    dsimp only
    split
    · split <;> rfl
    · rfl
  unfold complete
  split
  · rfl
  · split
    · exact hdrop s
    · exact (hdrop _).trans (hlog _)

/-! ## The end of a job that has stopped (R616, R619) -/

/-- The completion of a job that has stopped. -/
def jobCompl (s : State) (j : Job) : Compl :=
  { status := (j.ending.getD (3, stopDetail s)).1, detail := (j.ending.getD (3, stopDetail s)).2
    degraded := (if j.cls = 2 then j.degraded else 0), value := pindex s }

theorem jobStopCheck_ends {s : State} {j : Job} (hj : s.host.job = some j) (hall : (presented s).all (isStopped s) = true) :
    jobStopCheck s = completeAll j.stops (complete (dropJob s) j.handle (jobCompl s j)) := by
  unfold jobStopCheck
  rw [hj]
  exact if_pos hall

theorem dropJob_host (s : State) : (dropJob s).host = { s.host with job := none } := by
  have hstop (u : State) : (stopEngines u).host = u.host := rfl
  unfold dropJob
  dsimp only
  split
  · rw [(regsOnly_setFld _ _ _ _).host, (regsOnly_setFld _ _ _ _).host, (regsOnly_setFld _ _ _ _).host, hstop]
  · rw [(regsOnly_setFld _ _ _ _).host, (regsOnly_setFld _ _ _ _).host, hstop]

theorem dropJob_jobShown (s : State) : fld (dropJob s) Reg.HST_STATUS Fld.HST_STATUS_JOB = 0 := by
  have hshown (u : State) : fld (setFld (setFld u Reg.HST_STATUS Fld.HST_STATUS_JOB 0) Reg.FRM_STATUS Fld.FRM_STATUS_CLASS 0)
      Reg.HST_STATUS Fld.HST_STATUS_JOB = 0 := by
    rw [fld_of_reg (reg_setFld_ne _ _ _ (by decide)), fld_setFld _ _ _ _ (by decide) (by decide)]
    exact Nat.zero_mod _
  unfold dropJob
  dsimp only
  split
  · exact (fld_of_reg (reg_setFld_ne _ _ _ (by decide)) _).trans (hshown _)
  · exact hshown _

/-! ## JOBSTOP (R619) -/

theorem jobstopOf_none {s : State} (c : HostCmd) (hj : s.host.job = none) (h : ∀ x ∈ s.host.cmds, x.op ≠ ocJobload) :
    jobstopOf s c = done s c 0 := by
  have hnone : (s.host.cmds.find? fun c => c.op = ocJobload) = none := List.find?_eq_none.2 fun x hx => by simpa using h x hx
  have hload : stopLoad s = s := by
    unfold stopLoad
    rw [hnone]
    split <;> rfl
  unfold jobstopOf
  rw [hj]
  exact congrArg (done · c 0) hload

/-- The loaded job is to end with STOPPED, and the command waits for it. -/
def stopAsked (s : State) (c : HostCmd) (j : Job) : State :=
  mapHost (setRunning s c 0) fun x => { x with job := some { j with stops := [c.handle], ending := some (2, 0) } }

theorem jobstopOf_some {s : State} {c : HostCmd} {j : Job} (hj : s.host.job = some j) (he : j.ending = none)
    (hs : j.stops = []) : jobstopOf s c = jobStopCheck (preemptAll (stopAsked s c j)) := by
  unfold jobstopOf
  rw [hj]
  dsimp only
  rw [hs]
  unfold endJob mapHost
  dsimp only
  rw [he]
  rfl

/-- Boughs with nothing in flight stop when they are pre-empted (R148). -/
theorem preempts_stop {b : Nat} (l : List Nat) (s : State) (hsb : (bough s b).sb = [])
    (h : b ∈ l ∨ isStopped s b = true) : isStopped (l.foldl preempt s) b = true := by
  induction l generalizing s with
  | nil => exact h.resolve_left List.not_mem_nil
  | cons c l ih =>
    have hframe := preempt_frame s c
    have hkept : (bough (preempt s c) b).sb = [] := by
      by_cases hc : b = c
      · rw [hc, hframe.sb, ← hc, hsb]
      · rw [hframe.others b hc, hsb]
    refine ih (preempt s c) hkept ?_
    by_cases hc : b = c
    · right
      rw [← hc, preempt_isStopped, hsb]
      exact Bool.or_true _
    · rcases h with h | h
      · exact .inl ((List.mem_cons.1 h).resolve_left hc)
      · exact .inr ((hframe.isStopped_ne hc).trans h)

theorem preemptAll_stops {s : State} (h : ∀ b ∈ presented s, (bough s b).sb = []) :
    (presented (preemptAll s)).all (isStopped (preemptAll s)) = true := by
  have hpres : presented (preemptAll s) = presented s := presented_of_reg fun n hn =>
    List.foldlRecOn (motive := fun t => reg t (Reg.BGH_PMAP n) = reg s (Reg.BGH_PMAP n)) _ _ rfl fun t ht b hb => by
      refine ((preempt_frame t b).regs _ ?_).trans ht
      have hlt := presented_lt hb
      simp only [List.mem_cons, List.not_mem_nil, or_false, Reg.BGH_PMAP, Reg.BGH_STATUS, Reg.BGH_INTSTAT]
      omega
  rw [hpres]
  exact List.all_eq_true.2 fun b hb => preempts_stop _ s (h b hb) (.inl hb)

theorem preemptAll_host (s : State) : (preemptAll s).host = s.host :=
  List.foldlRecOn (motive := fun t : State => t.host = s.host) _ _ rfl fun t h b _ => by rw [(preempt_frame t b).form, h]

/-- A JOBSTOP of a job whose boughs have nothing in flight: the job completes, then the command. -/
def jobStopped (s : State) (c : HostCmd) (j : Job) : State := jobStopCheck (preemptAll (stopAsked s c j))

theorem stopAsked_shows {s : State} {c : HostCmd} (j : Job) (hfind : findCmd s c.handle = some c) :
    (stopAsked s c j).host.job = some { j with stops := [c.handle], ending := some (2, 0) }
      ∧ findCmd (stopAsked s c j) c.handle = some { c with state := 2 } ∧ (stopAsked s c j).regs = s.regs
      ∧ (stopAsked s c j).boughs = s.boughs ∧ (stopAsked s c j).mem = s.mem := by
  have hform := setRunning_form s c 0
  have hrun := findCmd_setRunning hfind 0
  unfold stopAsked
  generalize setRunning s c 0 = u at hform hrun ⊢
  have hregs : u.regs = s.regs := by rw [hform]
  have hboughs : u.boughs = s.boughs := by rw [hform]
  have hmem : u.mem = s.mem := by rw [hform]
  exact ⟨rfl, hrun, hregs, hboughs, hmem⟩

theorem jobStopped_eq {s : State} {c : HostCmd} (j : Job) (hfind : findCmd s c.handle = some c)
    (hsb : ∀ b ∈ presented s, (bough s b).sb = []) : ∃ e, jobStopped s c j =
      complete (complete (dropJob (preemptAll (stopAsked s c j))) j.handle e) c.handle { status := 0 } := by
  obtain ⟨hjob, -, hregs, hboughs, -⟩ := stopAsked_shows j hfind
  have hpres : presented (stopAsked s c j) = presented s := presented_of_reg fun _ _ => reg_congr hregs _
  have hall := preemptAll_stops (s := stopAsked s c j) fun b hb => by
    rw [bough_congr hboughs]
    exact hsb b (hpres ▸ hb)
  exact ⟨_, jobStopCheck_ends ((congrArg HostSt.job (preemptAll_host _)).trans hjob) hall⟩

theorem jobStopped_shows {s : State} {c : HostCmd} (j : Job) (hfind : findCmd s c.handle = some c) (hgone : c.gone = false)
    (hne : c.handle ≠ j.handle) (hsb : ∀ b ∈ presented s, (bough s b).sb = []) :
    (jobStopped s c j).host.job = none ∧ Statements.Completed (jobStopped s c j) c 0 0
      ∧ findCmd (jobStopped s c j) j.handle = none ∧ fld (jobStopped s c j) Reg.HST_STATUS Fld.HST_STATUS_JOB = 0
      ∧ (jobStopped s c j).mem = s.mem := by
  obtain ⟨-, hrun, -, -, hmem⟩ := stopAsked_shows j hfind
  obtain ⟨e, heq⟩ := jobStopped_eq j hfind hsb
  rw [heq]
  generalize stopAsked s c j = u at hrun hmem ⊢
  have hmem' := (preemptAll_jobOver u).mem.1.trans hmem
  have hhost := preemptAll_host u
  generalize preemptAll u = v at hmem' hhost ⊢
  have hshown := dropJob_jobShown v
  have hjob : (dropJob v).host.job = none := by rw [dropJob_host]
  have hfound : findCmd (dropJob v) c.handle = some { c with state := 2 } := by
    rw [findCmd, dropJob_host, hhost]
    exact hrun
  have hdropMem := (dropJob_jobFrame v).mem.trans hmem'
  generalize dropJob v = w at hshown hjob hfound hdropMem ⊢
  have hfirst := complete_completes w j.handle e
  have hshown' := (fld_of_reg (complete_regs w j.handle e Reg.HST_STATUS (by decide)) Fld.HST_STATUS_JOB).trans hshown
  have hgone' := findCmd_complete w j.handle e
  have hfound' := (findCmd_complete_ne e hne).trans hfound
  generalize complete w j.handle e = x at hfirst hshown' hgone' hfound' ⊢
  have hlast := complete_completes x c.handle { status := 0 }
  have hdone := complete_completed (c := { c with state := 2 }) hfound' hgone { status := 0 }
  have hreg := complete_regs x c.handle { status := 0 } Reg.HST_STATUS (by decide)
  have hother := findCmd_complete_ne (s := x) { status := 0 } hne.symm
  dsimp only at hdone
  generalize complete x c.handle { status := 0 } = y at hlast hdone hreg hother ⊢
  exact ⟨hlast.job.trans (hfirst.job.trans hjob), hdone, hother.trans hgone', (fld_of_reg hreg _).trans hshown',
    hlast.memSame.1.trans (hfirst.memSame.1.trans hdropMem)⟩

/-! ## JOB_START (R618) -/

/-- The walk of bough b has begun at item 0. -/
def WalkBegun (s : State) (b : Nat) : Prop :=
  (bough s b).walking = true ∧ fld s (Reg.BGH_ITEM b) Fld.BGH_ITEM_INDEX = 0

/-- From `s` to `t` walks have begun: boughs and their registers differ, and no bough is pre-empted that was not. -/
structure WalkFrame (s t : State) : Prop where
  form : t = { s with regs := t.regs, boughs := t.boughs }
  halted : ∀ b, (bough t b).halted = (bough s b).halted
  begun : ∀ b, WalkBegun s b → WalkBegun t b

theorem WalkFrame.refl (s : State) : WalkFrame s s := ⟨rfl, fun _ => rfl, fun _ => id⟩

theorem WalkFrame.trans {s t u : State} (h : WalkFrame s t) (h' : WalkFrame t u) : WalkFrame s u :=
  ⟨by rw [h'.form, h.form], fun b => (h'.halted b).trans (h.halted b), fun b hb => h'.begun b (h.begun b hb)⟩

theorem beginWalk_eq {s : State} {b : Nat} (h : (bough s b).halted = false) : beginWalk s b =
    setFld (setFld (setBough s b { bough s b with walking := true, cut := false, barWait := none })
      (Reg.BGH_ITEM b) Fld.BGH_ITEM_INDEX 0) (Reg.BGH_STATUS b) Fld.BGH_STATUS_ACTIVE 1 := by
  unfold beginWalk
  rw [if_neg (by simp [h])]

theorem walkSet_bough (s : State) (b : Nat) (x : BoughSt) (c : Nat) :
    bough (setFld (setFld (setBough s b x) (Reg.BGH_ITEM b) Fld.BGH_ITEM_INDEX 0) (Reg.BGH_STATUS b) Fld.BGH_STATUS_ACTIVE 1) c
      = if b = c then x else bough s c :=
  (bough_congr rfl c).trans (bough_setBough s b c x)

theorem bghItem_ne_status (b c : Nat) : Reg.BGH_STATUS c ≠ Reg.BGH_ITEM b := by
  simp only [Reg.BGH_STATUS, Reg.BGH_ITEM]
  omega

theorem beginWalk_begins {s : State} {b : Nat} (h : (bough s b).halted = false) : WalkBegun (beginWalk s b) b := by
  rw [beginWalk_eq h]
  refine ⟨?_, ?_⟩
  · exact congrArg BoughSt.walking ((walkSet_bough s b _ b).trans (if_pos rfl))
  · rw [fld_of_reg (reg_setFld_ne _ _ _ (bghItem_ne_status b b)), fld_setFld _ _ _ _ (by decide) (by decide)]
    exact Nat.zero_mod _

theorem beginWalk_frame (s : State) (b : Nat) : WalkFrame s (beginWalk s b) := by
  cases h : (bough s b).halted with
  | true =>
    rw [show beginWalk s b = s from if_pos h]
    exact .refl s
  | false =>
    have hself := beginWalk_begins h
    rw [beginWalk_eq h] at hself ⊢
    refine ⟨rfl, fun c => ?_, fun c hc => ?_⟩
    · rw [walkSet_bough]
      split
      · next heq => rw [← heq]
      · rfl
    · by_cases heq : b = c
      · exact heq ▸ hself
      · refine ⟨(congrArg BoughSt.walking ((walkSet_bough s b _ c).trans (if_neg heq))).trans hc.1, ?_⟩
        have hitem : Reg.BGH_ITEM b ≠ Reg.BGH_ITEM c := by
          simp only [Reg.BGH_ITEM]
          omega
        rw [fld_of_reg (reg_setFld_ne _ _ _ (bghItem_ne_status c b)), fld_of_reg (reg_setFld_ne _ _ _ hitem)]
        exact hc.2

theorem beginWalks_frame (l : List Nat) (s : State) : WalkFrame s (l.foldl beginWalk s) :=
  List.foldlRecOn (motive := fun t => WalkFrame s t) l _ (.refl s) fun _ h b _ => h.trans (beginWalk_frame _ b)

theorem beginWalks_begin (l : List Nat) {s : State} (h : ∀ b ∈ l, (bough s b).halted = false) :
    ∀ b ∈ l, WalkBegun (l.foldl beginWalk s) b := by
  induction l generalizing s with
  | nil => exact fun b hb => absurd hb List.not_mem_nil
  | cons c l ih =>
    have hframe := beginWalk_frame s c
    have hrest := ih (s := beginWalk s c) fun b hb => (hframe.halted b).trans (h b (List.mem_cons_of_mem _ hb))
    intro b hb
    rw [List.foldl_cons]
    rcases List.mem_cons.1 hb with rfl | hb
    · exact (beginWalks_frame l _).begun b (beginWalk_begins (h b List.mem_cons_self))
    · exact hrest b hb

/-- The job is started, and the class of its programs is shown. -/
def jobRuns (s : State) (j : Job) : State := syncClass (mapHost s fun x => { x with job := some { j with started := true } })

theorem jobStart_eq {s : State} {j : Job} (hj : s.host.job = some j) (hst : j.started = false) (hb : atBoundary s = true)
    (hp : pindex s = j.start) :
    jobStart s = startedEntry ((presented s).foldl beginWalk (jobRuns s j)) j.handle := by
  unfold jobStart
  rw [hj]
  have hno : ¬((j.started || !atBoundary s || decide (pindex s ≠ j.start)) = true) := by simp [hst, hb, hp]
  have hpres : presented (mapHost s fun x => { x with job := some { j with started := true } }) = presented s :=
    presented_of_reg fun _ _ => rfl
  rw [jobRuns, ← hpres]
  exact if_neg hno

theorem jobRuns_shows (s : State) (j : Job) : (∃ k, (jobRuns s j).host.job = some k ∧ k.started = true ∧ k.handle = j.handle)
    ∧ (∀ b, bough (jobRuns s j) b = bough s b) ∧ MemSame s (jobRuns s j) ∧ (jobRuns s j).carts = s.carts := by
  obtain ⟨u, hu⟩ : ∃ u, u = mapHost s fun x => { x with job := some { j with started := true } } := ⟨_, rfl⟩
  have hjob : u.host.job = some { j with started := true } := by rw [hu]; rfl
  have hform : u = { s with host := u.host } := by rw [hu]; rfl
  have hclass : jobRuns s j = setFld { u with host := { u.host with job := some { j with started := true, cls := classNow u } } }
      Reg.FRM_STATUS Fld.FRM_STATUS_CLASS (classNow u) := by
    rw [jobRuns, ← hu, syncClass, hjob]
    rfl
  rw [hclass]
  obtain ⟨v, hv⟩ : ∃ v : State, v = { u with host := { u.host with job := some { j with started := true, cls := classNow u } } } :=
    ⟨_, rfl⟩
  have hform' : v = { s with host := v.host } := by rw [hv, hform]
  have hjob' : v.host.job = some { j with started := true, cls := classNow u } := by rw [hv]
  rw [← hv]
  generalize classNow u = cls at hjob' ⊢
  have hset := regsOnly_setFld v Reg.FRM_STATUS Fld.FRM_STATUS_CLASS cls
  generalize setFld v Reg.FRM_STATUS Fld.FRM_STATUS_CLASS cls = w at hset ⊢
  refine ⟨⟨_, (congrArg HostSt.job hset.host).trans hjob', rfl, rfl⟩,
    fun b => bough_congr ?_ b, ?_, ?_⟩
  · rw [hset, hform']
  · rw [hset, hform']
    exact ⟨rfl, rfl⟩
  · rw [hset, hform']

theorem startedEntry_completes (s : State) (h : Nat) :
    Completes s (startedEntry s h) ∧ BlocksBut s (startedEntry s h) [0, 1] := by
  unfold startedEntry
  split
  · exact ⟨.refl s, .refl s _⟩
  · next c _ =>
    split
    · exact ⟨.refl s, .refl s _⟩
    · exact ⟨(logEntry_completes s c _).trans (completes_host _ _),
        (logEntry_blocks s c _).trans (BlocksBut.of_regs rfl _)⟩

theorem jobStart_shows {s : State} {j : Job} (hj : s.host.job = some j) (hst : j.started = false) (hb : atBoundary s = true)
    (hp : pindex s = j.start) (hh : ∀ b ∈ presented s, (bough s b).halted = false) :
    (∃ k, (jobStart s).host.job = some k ∧ k.started = true ∧ k.handle = j.handle)
      ∧ (∀ b ∈ presented s, WalkBegun (jobStart s) b) ∧ MemSame s (jobStart s) ∧ (jobStart s).carts = s.carts := by
  rw [jobStart_eq hj hst hb hp]
  obtain ⟨⟨k, hjob, hstarted, hhandle⟩, hbough, hmem, hcarts⟩ := jobRuns_shows s j
  generalize jobRuns s j = u at hjob hbough hmem hcarts ⊢
  have hbegun := beginWalks_begin (presented s) (s := u) fun b hb => by
    rw [hbough]
    exact hh b hb
  have hform := (beginWalks_frame (presented s) u).form
  generalize (presented s).foldl beginWalk u = v at hbegun hform ⊢
  obtain ⟨hcomp, hblocks⟩ := startedEntry_completes v j.handle
  generalize startedEntry v j.handle = w at hcomp hblocks ⊢
  have hvhost : v.host = u.host := by rw [hform]
  have hvmem : MemSame u v := by
    rw [hform]
    exact ⟨rfl, rfl⟩
  have hvcarts : v.carts = u.carts := by rw [hform]
  have hwcarts : w.carts = v.carts := by rw [hcomp.form]
  refine ⟨⟨k, hcomp.job.trans ((congrArg HostSt.job hvhost).trans hjob), hstarted, hhandle⟩, fun b hb => ?_,
    (hmem.trans hvmem).trans hcomp.memSame, hwcarts.trans (hvcarts.trans hcarts)⟩
  obtain ⟨hwalk, hitem⟩ := hbegun b hb
  have hlt := presented_lt hb
  refine ⟨(congrArg BoughSt.walking (bough_congr hcomp.boughs b)).trans hwalk, (fld_of_reg (hblocks _ ?_) _).trans hitem⟩
  simp only [List.mem_cons, List.not_mem_nil, or_false, Reg.BGH_ITEM]
  omega

end Sys2Proof.Machine
end

section
/-! PROOF. A job that loads or is refused (R618), and the statement of jobs. -/

namespace Sys2Proof.Machine

/-! ## What a job load leaves of memory and of the map of presented numbers -/

/-- From `s` to `t` memory is the same, and so is the map of presented numbers. -/
structure LoadFrame (s t : State) : Prop where
  mem : t.mem = s.mem
  pmap : ∀ n < 64, reg t (Reg.BGH_PMAP n) = reg s (Reg.BGH_PMAP n)

/-- A register outside the map of presented numbers (R156). -/
abbrev OffMap (a : Nat) : Prop := a < 0x2044000 ∨ 0x2044100 ≤ a

theorem OffMap.ne {a n : Nat} (h : OffMap a) (hn : n < 64) : a ≠ Reg.BGH_PMAP n := by
  simp only [Reg.BGH_PMAP, OffMap] at *
  omega

theorem LoadFrame.refl (s : State) : LoadFrame s s := ⟨rfl, fun _ _ => rfl⟩

section
variable {s t u : State} (h : LoadFrame s t)
include h

theorem LoadFrame.presented : presented t = presented s := presented_of_reg h.pmap

theorem LoadFrame.trans (h' : LoadFrame t u) : LoadFrame s u :=
  ⟨h'.mem.trans h.mem, fun n hn => (h'.pmap n hn).trans (h.pmap n hn)⟩

theorem LoadFrame.setReg {a : Nat} (ha : OffMap a) (v : Word) : LoadFrame s (setReg t a v) :=
  h.trans ⟨rfl, fun _ hn => reg_setReg_ne t v (ha.ne hn)⟩

theorem LoadFrame.setFld {a : Nat} (ha : OffMap a) (f : Fld) (v : Nat) : LoadFrame s (setFld t a f v) := h.setReg ha _

theorem LoadFrame.setRegN {a : Nat} (ha : OffMap a) (v : Nat) : LoadFrame s (setRegN t a v) := h.setReg ha _

theorem LoadFrame.setReg64 {a : Nat} (ha : OffMap a) (ha' : OffMap (a + 4)) (v : Nat) : LoadFrame s (setReg64 t a v) :=
  (h.setRegN ha v).setRegN ha' _

theorem LoadFrame.image {a : Nat} (ha : OffMap a) (v : Nat) : LoadFrame s (image t a v) := h.setRegN ha _

theorem LoadFrame.image64 {a : Nat} (ha : OffMap a) (ha' : OffMap (a + 4)) (v : Nat) : LoadFrame s (image64 t a v) :=
  (h.image ha _).image ha' _

theorem LoadFrame.foldl {α : Type} {f : State → α → State} {l : List α} (hf : ∀ s, ∀ x ∈ l, LoadFrame s (f s x)) :
    LoadFrame s (l.foldl f t) :=
  List.foldlRecOn (motive := fun u => LoadFrame s u) l f h fun _ h x hx => h.trans (hf _ x hx)

theorem LoadFrame.of_regs (hregs : u.regs = t.regs) (hmem : u.mem = t.mem) : LoadFrame s u :=
  h.trans ⟨hmem, fun _ _ => reg_congr hregs _⟩

end

theorem images_loads (s : State) (d : List Byte) : LoadFrame s (images s d) := by
  have hpbar (u : State) (b : Nat) (hb : b ∈ List.range 8) : OffMap (Reg.FAB_PBAR b) := by
    simp only [OffMap, Reg.FAB_PBAR]
    omega
  have hstab (p : Nat) : OffMap (Reg.FAB_STAB_LO p) ∧ OffMap (Reg.FAB_STAB_LO p + 4) := by
    simp only [OffMap, Reg.FAB_STAB_LO]
    omega
  unfold images
  dsimp only
  refine .foldl (.foldl ?_ fun u b hb => (LoadFrame.refl u).image (hpbar u b hb) _)
    fun u p _ => (LoadFrame.refl u).image64 (hstab p).1 (hstab p).2 _
  refine (LoadFrame.refl s).image64 ?_ ?_ _ |>.image ?_ _ |>.image ?_ _ |>.image64 ?_ ?_ _ |>.image64 ?_ ?_ _
    |>.image64 ?_ ?_ _ |>.setRegN ?_ _ |>.image ?_ _ |>.image ?_ _ |>.image64 ?_ ?_ _ |>.image64 ?_ ?_ _ |>.image ?_ _
    |>.image ?_ _ |>.image64 ?_ ?_ _ |>.image ?_ _ |>.image64 ?_ ?_ _ |>.image64 ?_ ?_ _ |>.image ?_ _
  all_goals decide

theorem syncClass_loads (s : State) : LoadFrame s (syncClass s) := by
  unfold syncClass
  split
  · exact .refl s
  · split
    · refine LoadFrame.setFld (s := s) ?_ ?_ _ _
      · exact ⟨rfl, fun _ _ => rfl⟩
      · decide
    · exact .refl s

theorem takeTable_loads (s : State) (table : Nat) (hdr : List Byte) : LoadFrame s (takeTable s table hdr) := by
  have hpbase (b : Nat) (hb : b < 68) : OffMap (Reg.BGH_PBASE_LO b) ∧ OffMap (Reg.BGH_PBASE_LO b + 4) := by
    simp only [OffMap, Reg.BGH_PBASE_LO]
    omega
  unfold takeTable loadPbase
  dsimp only
  refine LoadFrame.trans (.foldl (((LoadFrame.refl s).setReg64 ?_ ?_ _).setRegN ?_ _) fun u n _ => ?_) (syncClass_loads _)
  · decide
  · decide
  · decide
  · split
    · next hb => exact (LoadFrame.refl u).setReg64 (hpbase _ hb).1 (hpbase _ hb).2 _
    · exact .refl u

theorem jobZero_pmap {n : Nat} (hn : n < 64) : jobZero (Reg.BGH_PMAP n) = false := by
  obtain ⟨a, ha⟩ : ∃ a, a = Reg.BGH_PMAP n := ⟨_, rfl⟩
  have hlow : 0x2044000 ≤ a := by simp only [ha, Reg.BGH_PMAP]; omega
  have hhigh : a < 0x2044100 := by simp only [ha, Reg.BGH_PMAP]; omega
  rw [← ha]
  simp only [jobZero, List.contains_eq_mem, List.mem_cons, List.not_mem_nil, Bool.or_eq_false_iff, Bool.and_eq_false_iff,
    decide_eq_false_iff_not, or_false]
  simp only [Reg.MIL_LASTB, Reg.MIL_COMMITS, Reg.MIL_FAULT, Reg.MIL_ITEM, Reg.MIL_STATUS, Reg.MIL_BSTAT, Reg.LFT_STFRAME,
    Reg.LFT_STEXH, Reg.WAN_ITEM, Reg.WAN_DROPS]
  omega

/-! ## The job that is loaded -/

/-- What a JOBLOAD leaves in the host port (R618). -/
def loadedJob (c : HostCmd) (d : List Byte) : Job :=
  { handle := c.handle, strict := bitN (leAt d 4 1) 0, nout := leAt d 5 1, start := leAt d 8 8 }

/-- A job is loaded, and the device runs. -/
def loadShown (s : State) : State :=
  setFld (setFld s Reg.HST_STATUS Fld.HST_STATUS_JOB 1) Reg.RST_STATUS Fld.RST_STATUS_STATE stRunning

theorem regsOnly_loadShown (s : State) : RegsOnly s (loadShown s) := (regsOnly_setFld s _ _ _).trans (regsOnly_setFld _ _ _ _)

theorem rstState_loadShown (s : State) : rstState (loadShown s) = stRunning := by
  rw [rstState, loadShown, fld_setFld _ _ _ _ (by decide) (by decide)]
  rfl

theorem jobShown_loadShown (s : State) : fld (loadShown s) Reg.HST_STATUS Fld.HST_STATUS_JOB = 1 := by
  rw [loadShown, fld_of_reg (reg_setFld_ne _ _ _ (by decide)), fld_setFld _ _ _ _ (by decide) (by decide)]
  rfl

/-- The last part of a job load: the boughs, the counters and the masks, and what the registers show. -/
def jobReady (s : State) (c : HostCmd) (d : List Byte) : State :=
  let s := (presented s).foldl freshBough s
  let s := (List.range 8).foldl pbarCheck (loadCounters (loadMasks s (leAt d 368 8)) (leAt d 376 8))
  mapHost (loadShown s) fun x => { x with cmds := x.cmds.map fun e => if e.handle = c.handle then { e with state := 2 } else e }

theorem loadJob_placed (s : State) (c : HostCmd) (d : List Byte) :
    ∃ p, LoadFrame s p ∧ p.host.job = some (loadedJob c d) ∧ loadJob s c d = jobReady p c d := by
  have htable := (images_loads s d).trans (takeTable_loads (images s d) (leAt d 16 8) (peek s (leAt d 16 8) 64))
  unfold loadJob
  dsimp only
  generalize takeTable (images s d) (leAt d 16 8) (peek s (leAt d 16 8) 64) = u at htable ⊢
  refine ⟨_, ⟨?_, fun n hn => ?_⟩, ?_, rfl⟩
  · exact htable.mem
  · refine (reg_of_filter (s := u) (fun a => !jobZero a) rfl _).trans ((if_pos ?_).trans (htable.pmap n hn))
    rw [jobZero_pmap hn]
    rfl
  · rfl

/-- Bough b waits for its walk to begin. -/
def BoughReady (s : State) (b : Nat) : Prop := (bough s b).walking = false ∧ (bough s b).halted = false

theorem BoughReady.of_boughs {s t : State} {b : Nat} (h : BoughReady s b) (hb : t.boughs = s.boughs) : BoughReady t b := by
  rw [BoughReady, bough_congr hb]
  exact h

/-- From `s` to `t` registers and boughs differ, and a bough that was ready is. -/
structure ReadyFrame (s t : State) : Prop where
  form : t = { s with regs := t.regs, boughs := t.boughs }
  ready : ∀ b, BoughReady s b → BoughReady t b

theorem freshBough_boughs (s : State) (b c : Nat) : bough (freshBough s b) c =
    if b = c then { bough s b with walking := false, cut := false, halted := false, barWait := none } else bough s c :=
  (bough_congr (s := setBough s b _) rfl c).trans (bough_setBough s b c _)

theorem freshBough_self (s : State) (b : Nat) : BoughReady (freshBough s b) b := by
  rw [BoughReady, freshBough_boughs, if_pos rfl]
  exact ⟨rfl, rfl⟩

theorem freshBough_frame (s : State) (b : Nat) : ReadyFrame s (freshBough s b) := by
  refine ⟨rfl, fun c hc => ?_⟩
  by_cases heq : b = c
  · exact heq ▸ freshBough_self s b
  · rw [BoughReady, freshBough_boughs, if_neg heq]
    exact hc

theorem freshBoughs_frame (l : List Nat) (s : State) : ReadyFrame s (l.foldl freshBough s) :=
  List.foldlRecOn (motive := fun t => ReadyFrame s t) l _ ⟨rfl, fun _ => id⟩ fun t h b _ =>
    have h' := freshBough_frame t b
    ⟨by rw [h'.form, h.form], fun c hc => h'.ready c (h.ready c hc)⟩

theorem freshBoughs_ready (l : List Nat) (s : State) : ∀ b ∈ l, BoughReady (l.foldl freshBough s) b := by
  induction l generalizing s with
  | nil => exact fun b hb => absurd hb List.not_mem_nil
  | cons c l ih =>
    intro b hb
    rw [List.foldl_cons]
    rcases List.mem_cons.1 hb with rfl | hb
    · exact (freshBoughs_frame l _).ready b (freshBough_self s b)
    · exact ih _ b hb

theorem regsOnly_loadMasks (s : State) (a : Nat) : RegsOnly s (loadMasks s a) :=
  RegsOnly.foldl (fun u _ => RegsOnly.foldl (fun _ _ => regsOnly_setReg64 _ _ _) _ u) _ s

theorem regsOnly_loadCounters (s : State) (a : Nat) : RegsOnly s (loadCounters s a) :=
  RegsOnly.foldl (fun _ _ => regsOnly_setReg64 _ _ _) _ s

theorem pbarChecks_fabOnly (s : State) (l : List Nat) : FabOnly s (l.foldl pbarCheck s) :=
  FabOnly.foldl (fun u b => pbarCheck_fabOnly u b) _ _

theorem jobReady_shows (s : State) (c : HostCmd) (d : List Byte) : (jobReady s c d).host.job = s.host.job
    ∧ rstState (jobReady s c d) = stRunning ∧ fld (jobReady s c d) Reg.HST_STATUS Fld.HST_STATUS_JOB = 1
    ∧ (jobReady s c d).mem = s.mem ∧ ∀ b ∈ presented s, BoughReady (jobReady s c d) b := by
  unfold jobReady
  dsimp only
  have hready := freshBoughs_ready (presented s) s
  have hform := (freshBoughs_frame (presented s) s).form
  generalize (presented s).foldl freshBough s = t at hready hform ⊢
  have hregs := (regsOnly_loadMasks t (leAt d 368 8)).trans (regsOnly_loadCounters _ (leAt d 376 8))
  generalize loadCounters (loadMasks t (leAt d 368 8)) (leAt d 376 8) = u at hregs ⊢
  have hfab := pbarChecks_fabOnly u (List.range 8)
  generalize (List.range 8).foldl pbarCheck u = v at hfab ⊢
  have hhost : v.host = s.host := by rw [hfab, hregs, hform]
  have hmem : v.mem = s.mem := by rw [hfab, hregs, hform]
  have hboughs : v.boughs = t.boughs := by rw [hfab, hregs]
  have hstate := rstState_loadShown v
  have hjob := jobShown_loadShown v
  have hset := regsOnly_loadShown v
  generalize loadShown v = w at hstate hjob hset ⊢
  have hwboughs : w.boughs = t.boughs := by rw [hset, hboughs]
  refine ⟨?_, ?_, ?_, ?_, fun b hb => (hready b hb).of_boughs hwboughs⟩
  · exact (congrArg HostSt.job hset.host).trans (congrArg HostSt.job hhost)
  · exact hstate
  · exact hjob
  · exact hset.mem.trans hmem

/-- What a job that loads shows. -/
theorem loadJob_shows (s : State) (c : HostCmd) (d : List Byte) : (loadJob s c d).host.job = some (loadedJob c d)
    ∧ rstState (loadJob s c d) = stRunning ∧ fld (loadJob s c d) Reg.HST_STATUS Fld.HST_STATUS_JOB = 1
    ∧ (loadJob s c d).mem = s.mem ∧ ∀ b ∈ presented s, BoughReady (loadJob s c d) b := by
  obtain ⟨p, hframe, hjob, heq⟩ := loadJob_placed s c d
  obtain ⟨hhost, hstate, hshown, hmem, hready⟩ := jobReady_shows p c d
  rw [heq, ← hframe.presented]
  exact ⟨hhost.trans hjob, hstate, hshown, hmem.trans hframe.mem, hready⟩

/-! ## JOBLOAD (R618) -/

/-- Outside Fallow nothing has to wake for a job. -/
theorem wakeForJob_idle {s : State} (h : rstState s = stIdle) : wakeForJob s = s := by
  have hno : ¬((rstState s = stFallow && s.host.cmds.any fun c => c.op = ocJobload) = true) := by
    rw [h]
    simp [stIdle, stFallow]
  exact if_neg hno

section
variable {s u v : State} {c : HostCmd}

theorem jobloadOf_loads (hlen : 64 ≤ (presented s).length) (hread : rdTab 1 (c.num 8 8) 512 id s = (u, none))
    (hchk : jobChk (peek u (c.num 8 8) 512) (fun x => images x (peek u (c.num 8 8) 512)) u = (v, none)) :
    jobloadOf s c = loadJob v c (peek u (c.num 8 8) 512) := by
  unfold jobloadOf
  dsimp only
  rw [if_neg (Nat.not_lt.2 hlen), hread]
  dsimp only
  rw [hchk]

theorem jobloadOf_refuses {x : JobBad} (hlen : 64 ≤ (presented s).length) (hread : rdTab 1 (c.num 8 8) 512 id s = (u, none))
    (hchk : jobChk (peek u (c.num 8 8) 512) (fun x => images x (peek u (c.num 8 8) 512)) u = (v, some x)) :
    jobloadOf s c = refuseJob v c x := by
  unfold jobloadOf
  dsimp only
  rw [if_neg (Nat.not_lt.2 hlen), hread]
  dsimp only
  rw [hchk]

/-- A job whose check fails, every codeword readable, ends with BADJOB and the check's DETAIL. -/
theorem refuseJob_shows {x : JobBad} (hbad : x.bad = none) (hfind : findCmd v c.handle = some c) (hgone : c.gone = false) :
    Statements.Completed (refuseJob v c x) c 14 x.detail ∧ (refuseJob v c x).host.job = v.host.job
      ∧ (refuseJob v c x).mem = v.mem := by
  have heq : refuseJob v c x = complete v c.handle
      { status := 14, detail := x.detail, aux := if x.detail = 3 then regN v Reg.MIL_CONFLICT else 0 } := by
    unfold refuseJob
    rw [hbad]
  rw [heq]
  exact ⟨complete_completed hfind hgone _, (complete_completes v c.handle _).job, (complete_completes v c.handle _).memSame.1⟩

/-- A JOBLOAD in Idle acts as its descriptor says. -/
theorem runs_jobload {P : State → Prop} (ha : alive s = true) (hc : startable s ocJobload = some c) (hidle : rstState s = stIdle)
    (hp : P (ended s (jobloadOf s c))) : Runs .jobload s P := by
  have hexec : exec .jobload s = finish s (hostCmd ocJobload jobloadOf (wakeForJob s)) := rfl
  exact runs_hostCmd (hexec.trans (by rw [wakeForJob_idle hidle])) ha hc hp

end

end Sys2Proof.Machine

namespace Sys2Proof.Settled

open Sys2Proof.Machine

theorem jobloadLoads {s u v : State} {c : HostCmd} (ha : alive s = true) (hc : Statements.Starts s ocJobload c)
    (hidle : rstState s = stIdle) (hlen : 64 ≤ (presented s).length)
    (hread : rdTab 1 (c.num 8 8) 512 id s = (u, none))
    (hchk : jobChk (peek u (c.num 8 8) 512) (fun x => images x (peek u (c.num 8 8) 512)) u = (v, none)) :
    Runs .jobload s fun t => t.host.job = some (loadedJob c (peek u (c.num 8 8) 512)) ∧ rstState t = stRunning
      ∧ fld t Reg.HST_STATUS Fld.HST_STATUS_JOB = 1 ∧ t.mem = v.mem ∧ ∀ b ∈ presented v, BoughReady t b := by
  refine runs_jobload ha hc.1 hidle ?_
  rw [jobloadOf_loads hlen hread hchk]
  have hshows := loadJob_shows v c (peek u (c.num 8 8) 512)
  generalize loadJob v c (peek u (c.num 8 8) 512) = w at hshows ⊢
  exact hshows

theorem jobloadRefuses {s u v : State} {c : HostCmd} {x : JobBad} (ha : alive s = true)
    (hc : Statements.Starts s ocJobload c) (hidle : rstState s = stIdle) (hlen : 64 ≤ (presented s).length)
    (hread : rdTab 1 (c.num 8 8) 512 id s = (u, none))
    (hchk : jobChk (peek u (c.num 8 8) 512) (fun x => images x (peek u (c.num 8 8) 512)) u = (v, some x))
    (hbad : x.bad = none) (hfind : findCmd v c.handle = some c) :
    Runs .jobload s fun t => Statements.Completed t c 14 x.detail ∧ t.host.job = v.host.job ∧ t.mem = v.mem := by
  refine runs_jobload ha hc.1 hidle ?_
  rw [jobloadOf_refuses hlen hread hchk]
  have hshows := refuseJob_shows hbad hfind hc.2.2
  generalize refuseJob v c x = w at hshows ⊢
  exact hshows

theorem jobStarts {s : State} {j : Job} (ha : alive s = true) (hj : s.host.job = some j) (hst : j.started = false)
    (hb : atBoundary s = true) (hp : pindex s = j.start) (hh : ∀ b ∈ presented s, (bough s b).halted = false) :
    Runs .jobStart s fun t => (∃ k, t.host.job = some k ∧ k.started = true ∧ k.handle = j.handle)
      ∧ (∀ b ∈ presented s, WalkBegun t b) ∧ MemSame s t ∧ t.carts = s.carts := by
  refine runs_finishTick rfl ha ?_
  have hshows := jobStart_shows hj hst hb hp hh
  generalize jobStart s = w at hshows ⊢
  exact hshows

theorem jobstopWithoutJob {s : State} {c : HostCmd} (ha : alive s = true) (hc : Statements.Starts s ocJobstop c)
    (hj : s.host.job = none) (hload : ∀ x ∈ s.host.cmds, x.op ≠ ocJobload) :
    Runs .jobstop s fun t => Statements.Completed t c 0 0 ∧ MemSame s t ∧ t.boughs = s.boughs := by
  obtain ⟨hstart, hfind, hgone⟩ := hc
  refine runs_hostCmd rfl ha hstart ?_
  rw [jobstopOf_none c hj hload]
  obtain ⟨hdone, hcomp⟩ := done_over (u := s) rfl hfind hgone
  have hmem := hcomp.memSame
  have hboughs := hcomp.boughs
  generalize done s c 0 = w at hdone hmem hboughs ⊢
  exact ⟨hdone, hmem, hboughs⟩

theorem jobstopOfJob {s : State} {c : HostCmd} {j : Job} (ha : alive s = true) (hc : Statements.Starts s ocJobstop c)
    (hj : s.host.job = some j) (he : j.ending = none) (hs : j.stops = []) (hne : c.handle ≠ j.handle)
    (hsb : ∀ b ∈ presented s, (bough s b).sb = []) : Runs .jobstop s fun t =>
      t.host.job = none ∧ Statements.Completed t c 0 0 ∧ findCmd t j.handle = none
        ∧ fld t Reg.HST_STATUS Fld.HST_STATUS_JOB = 0 ∧ t.mem = s.mem := by
  obtain ⟨hstart, hfind, hgone⟩ := hc
  refine runs_hostCmd rfl ha hstart ?_
  rw [jobstopOf_some hj he hs, ← jobStopped]
  have hshows := jobStopped_shows j hfind hgone hne hsb
  generalize jobStopped s c j = w at hshows ⊢
  exact hshows

/-- Settles O58: a job that loads goes through stages that leave memory and the map of presented numbers; the walks begin bough
by bough; a JOBSTOP of a job with nothing in flight drops it and completes both commands. -/
theorem jobs : Obligations.Jobs := fun _ ha =>
  ⟨fun _ _ _ hc hidle hlen hread => ⟨jobloadLoads ha hc hidle hlen hread,
      fun _ hchk hbad hfind => jobloadRefuses ha hc hidle hlen hread hchk hbad hfind⟩,
    fun _ hj hst hb hp hh => jobStarts ha hj hst hb hp hh,
    fun _ hc hj hload => jobstopWithoutJob ha hc hj hload,
    fun _ _ hc hj he hs hne hsb => jobstopOfJob ha hc hj he hs hne hsb⟩

end Sys2Proof.Settled
end
